-- ==== Sys2Proof/Word.lean ====
section
/-! DEFINITION. The machine word and the byte, and the plainest arithmetic on them. -/

namespace Sys2Proof

/-- A 64-bit register value (R3, R71). -/
abbrev Word := BitVec 64

/-- The smallest addressable unit (R7). -/
abbrev Byte := BitVec 8

/-- A 32-bit instruction word (R18). -/
abbrev IWord := BitVec 32

/-- A word from a natural number, modulo 2^64. -/
abbrev Word.of (n : Nat) : Word := BitVec.ofNat 64 n

/-- 1 for true and 0 for false. -/
def Word.ofBool (b : Bool) : Word := if b then 1#64 else 0#64

end Sys2Proof
end

