-- ==== Sys2Proof/Syntax.lean ====
section
/-! DEFINITION. The syntax of every step of the device: one constructor of `Instr` per row of the opcode table.
Encoded instructions carry their decoded operands (R18 to R43). Rows without an encoding (yard commands, unit
events, host commands, platform events) carry the place where they act, or the input that arrives from outside. -/

namespace Sys2Proof

/-- An untagged register field: w0 to w31 or g0 to g7 (R21). -/
inductive Reg where
  | w (i : Fin 32)
  | g (i : Fin 8)
  deriving DecidableEq, Repr

/-- The kinds of engine that decode instructions (R37). -/
inductive Engine where
  | mast | tackle | hart
  deriving DecidableEq, Repr

/-- A tagged source that accepts tags 00, 10 and 11 (R25, R90). -/
inductive Src where
  | reg (r : Reg)
  | const (k : Fin 64)
  | lit (n : BitVec 6)
  deriving DecidableEq, Repr

/-- A tagged source that accepts tags 00 and 10 only. -/
inductive RcSrc where
  | reg (r : Reg)
  | const (k : Fin 64)
  deriving DecidableEq, Repr

/-- A tagged source of class 100 that accepts every tag (R244). -/
inductive VSrc where
  | reg (r : Reg)
  | vec (v : Fin 16)
  | const (k : Fin 64)
  | lit (n : BitVec 6)
  deriving DecidableEq, Repr

/-- The integer type code of class 000 and 001 (R30, R33). -/
inductive ITy where
  | i64 | n64 | i32 | n32
  deriving DecidableEq, Repr

/-- The type of CLZ, CTZ and POPC (R32). -/
inductive BTy where
  | n64 | n32
  deriving DecidableEq, Repr

/-- The two scalar floating-point widths. -/
inductive FTy where
  | f32 | f64
  deriving DecidableEq, Repr

/-- A rounding mode (R30, R51). -/
inductive Rnd where
  | rne | rz | ru | rd
  deriving DecidableEq, Repr

/-- An element type (R31). -/
inductive ETy where
  | i8 | i16 | i32 | i64 | n8 | n16 | n32 | n64 | bf16 | f16 | f32 | f64 | ef8a | ef8b
  deriving DecidableEq, Repr

/-- A lane type: d[5:4] of class 100 (R34), or the mod of a reduction (R251). -/
inductive VTy where
  | f32 | i32 | n32 | f64
  deriving DecidableEq, Repr

/-- A predicate of an elementwise lane instruction (R245). -/
inductive Pred where
  | all | m1 | m2 | m3
  deriving DecidableEq, Repr

/-- A relation of VCMP (R248). -/
inductive Rel where
  | eq | lt | le | ne
  deriving DecidableEq, Repr

/-- A fence scope (R137, R329). -/
inductive Scope where
  | strand | core | mast | quad | dev | sys
  deriving DecidableEq, Repr

/-- A port of a node: p, a1, a2 or a3 (R139). -/
abbrev Port := Fin 4

/-- The networks that a SEND may name (R289). -/
inductive SendNet where
  | req | rep | sys
  deriving DecidableEq, Repr

/-- A graph operation's kind (R382). -/
inductive GKind where
  | fwd | sum | max | cvt | zpack | zunpack
  deriving DecidableEq, Repr

/-- One operation of a tackle graph (R382, R407). -/
structure GOp where
  core : Nat
  kind : GKind
  out  : Nat
  ins  : List Nat
  dst  : ETy
  src  : ETy
  deriving DecidableEq, Repr

/-- A `.node` directive: kind, arity, payload (an offset in `.data`, or none) and the core it is placed on,
in the partition's frame (R192). -/
structure INode where
  kind    : Nat
  arity   : Nat
  payload : Option Nat
  core    : Nat
  deriving DecidableEq, Repr

/-- One end of a wire of the image: the number of a `.node` and a port (R192). -/
structure IPort where
  node : Nat
  port : Port
  deriving DecidableEq, Repr

/-- A loadable image, as the CP reads it. The manual gives no layout for Yalub files (R362 names what an image
supplies), so an image is this record. Offsets are in bytes from the section's start. The default of a field is what an image has
whose source does not hold the directive (R111, R145, R285, R407). -/
structure Image where
  text    : List IWord
  data    : List Byte
  consts  : List (Nat × Word)
  nkind   : Nat
  rules   : List (Nat × Nat × Nat)
  entry   : Nat
  tvec    : Option Nat := none
  uivec   : Option Nat := none
  hbnd    : Option (Nat × Nat) := none
  banks   : Nat := 1
  rings   : Nat := 0
  tiles   : Nat := 0
  yq      : Nat := 1
  bars    : Nat := 0
  env     : Option (Nat × Nat) := none
  nstoreL : Nat := 32768
  nstoreH : Nat := 0
  wspill  : Nat := 1024
  ldata   : Nat := 4096
  dspill  : Nat := 4
  sq      : Nat × Nat × Nat := (1024, 512, 256)
  ib      : Nat × Nat × Nat := (2048, 1024, 512)
  spread  : Bool := false
  ctab    : List (Nat × Word) := []
  nodes   : List INode
  wires   : List (IPort × IPort)
  hbinds  : List (Nat × IPort)
  hcode   : List IWord
  hker    : List (Nat × Nat)
  tacks   : List (Nat × Nat × Nat)
  tgraphs : List (Nat × List (Nat × Nat) × List GOp)
  deriving DecidableEq, Repr

/-- A flit that arrives on a shroud link from the peer device (R377, R386, R387): a matching SOPEN with the
CRC-32C of the peer's block, stream elements, an acknowledgement, buffer credits, the peer's close with a code, or the acknowledgement
of flits by the link layer of the peer's end. -/
inductive Flit where
  | open_ (tackle sid : Nat) (dir : Nat) (crc : BitVec 32)
  | data (tackle sid : Nat) (bytes : List Byte) (last : Bool)
  | ack (tackle sid : Nat) (elems : Nat)
  | credit (tackle sid : Nat) (slots : Nat)
  | close (tackle sid : Nat) (dir : Nat) (code : Nat)
  | linkAck (flits : Nat)
  deriving DecidableEq, Repr

/-- Which of its device CSRs a CP accesses, and in which mode: 0 U, 1 S, 3 M (R356). -/
structure CpAccess where
  mode : Nat
  csr  : Nat
  deriving DecidableEq, Repr

/-- Every step of the device. An event that happens at a unit has no operands here: its place (named after it) stands in
the turn of the agenda that names it, and in the field `place` of the state while it happens. -/
inductive Instr where
  -- scalar integer, R91
  | add (t : ITy) (d : Reg) (a b : Src)
  | sub (t : ITy) (d : Reg) (a b : Src)
  | mul (t : ITy) (d : Reg) (a b : Src)
  | mulh (t : ITy) (d : Reg) (a b : Src)
  | div (t : ITy) (d : Reg) (a b : Src)
  | rem (t : ITy) (d : Reg) (a b : Src)
  | min (t : ITy) (d : Reg) (a b : Src)
  | max (t : ITy) (d : Reg) (a b : Src)
  | slt (t : ITy) (d : Reg) (a b : Src)
  | seq (t : ITy) (d : Reg) (a b : Src)
  | and (d : Reg) (a b : Src)
  | or (d : Reg) (a b : Src)
  | xor (d : Reg) (a b : Src)
  | andn (d : Reg) (a b : Src)
  | shl (d : Reg) (a b : Src)
  | shr (d : Reg) (a b : Src)
  | sra (d : Reg) (a b : Src)
  | rot (d : Reg) (a b : Src)
  -- R92
  | clz (t : BTy) (d : Reg) (a : Src)
  | ctz (t : BTy) (d : Reg) (a : Src)
  | popc (t : BTy) (d : Reg) (a : Src)
  | sextI8 (d : Reg) (a : Src)
  | sextI16 (d : Reg) (a : Src)
  | sextI32 (d : Reg) (a : Src)
  | zextN8 (d : Reg) (a : Src)
  | zextN16 (d : Reg) (a : Src)
  | zextN32 (d : Reg) (a : Src)
  -- R93, R94
  | bfx (natural : Bool) (d : Reg) (a : Src) (pos : BitVec 6) (len : BitVec 7)
  | bfi (d : Reg) (a : Src) (pos : BitVec 6) (len : BitVec 7)
  | li (d : Reg) (imm : BitVec 10)
  | liLit32 (d : Reg) (lit : BitVec 32)
  | liCidx (d : Reg) (k : Fin 512)
  -- scalar floating point, R95 to R97
  | faddF32 (r : Rnd) (d : Reg) (a b : Src)
  | faddF64 (r : Rnd) (d : Reg) (a b : Src)
  | fsubF32 (r : Rnd) (d : Reg) (a b : Src)
  | fsubF64 (r : Rnd) (d : Reg) (a b : Src)
  | fmulF32 (r : Rnd) (d : Reg) (a b : Src)
  | fmulF64 (r : Rnd) (d : Reg) (a b : Src)
  | fmaF32 (r : Rnd) (d : Reg) (a b : Src)
  | fmaF64 (r : Rnd) (d : Reg) (a b : Src)
  | fdivF32 (r : Rnd) (d : Reg) (a b : Src)
  | fdivF64 (r : Rnd) (d : Reg) (a b : Src)
  | fminF32 (d : Reg) (a b : Src)
  | fmaxF32 (d : Reg) (a b : Src)
  | fcmpF32 (d : Reg) (a b : Src)
  | fminF64 (d : Reg) (a b : Src)
  | fmaxF64 (d : Reg) (a b : Src)
  | fcmpF64 (d : Reg) (a b : Src)
  | fsqrt (t : FTy) (r : Rnd) (d : Reg) (a : Src)
  | fcvt (dst src : ETy) (r : Rnd) (d : Reg) (a : Src)
  -- control, R35, R77 to R102
  | nop (d : Reg) (csr : BitVec 12)
  | br (off : BitVec 15)
  | brFar (off : BitVec 32)
  | bz (t : ITy) (likely : Bool) (c : Reg) (off : BitVec 15)
  | bnz (t : ITy) (likely : Bool) (c : Reg) (off : BitVec 15)
  | beq (t : ITy) (likely : Bool) (c : Reg) (off : BitVec 15) (y : Src)
  | bne (t : ITy) (likely : Bool) (c : Reg) (off : BitVec 15) (y : Src)
  | blt (t : ITy) (likely : Bool) (c : Reg) (off : BitVec 15) (y : Src)
  | bge (t : ITy) (likely : Bool) (c : Reg) (off : BitVec 15) (y : Src)
  | call (f : Nat) (off : BitVec 15)
  | callFar (off : BitVec 32)
  | callx (f : Nat) (a : RcSrc)
  | ret
  | loop (c : Reg) (off : BitVec 15)
  | lfor (t : ITy) (c : Reg) (off : BitVec 15) (limit step : Src)
  | lend
  | park (d : Reg) (timeout : Src)
  | yield
  | trap (a : Src) (imm : BitVec 10)
  | eret
  | bkpt (imm : BitVec 10)
  -- loads and stores, R112
  | ldbI8 (d base : Reg) (off : BitVec 12)
  | ldbN8 (d base : Reg) (off : BitVec 12)
  | ldhI16 (d base : Reg) (off : BitVec 12)
  | ldhN16 (d base : Reg) (off : BitVec 12)
  | ldI32 (d base : Reg) (off : BitVec 12)
  | ldN32 (d base : Reg) (off : BitVec 12)
  | ld (d base : Reg) (off : BitVec 12)
  | stb (d base : Reg) (off : BitVec 12)
  | sth (d base : Reg) (off : BitVec 12)
  | stN32 (d base : Reg) (off : BitVec 12)
  | st (d base : Reg) (off : BitVec 12)
  | ldAcq (d base : Reg) (off : BitVec 12)
  | stRel (d base : Reg) (off : BitVec 12)
  | ldAcqN32 (d base : Reg) (off : BitVec 12)
  | stRelN32 (d base : Reg) (off : BitVec 12)
  -- local and bank atomics, R115
  | aadd (d base : Reg) (off : BitVec 12)
  | acas (d base : Reg) (off : BitVec 12) (nw : Src)
  | axch (d base : Reg) (off : BitVec 12)
  | aminI64 (d base : Reg) (off : BitVec 12)
  | aminN64 (d base : Reg) (off : BitVec 12)
  | amaxI64 (d base : Reg) (off : BitVec 12)
  | amaxN64 (d base : Reg) (off : BitVec 12)
  | aand (d base : Reg) (off : BitVec 12)
  | aor (d base : Reg) (off : BitVec 12)
  | badd (d base : Reg) (off : BitVec 12)
  | bcas (d base : Reg) (off : BitVec 12) (nw : Src)
  -- prefetch and fences, R136, R137
  | prefCode (base : Reg) (off : BitVec 12)
  | prefHeap (base : Reg) (off : BitVec 12)
  | fenceSc (sc : Scope)
  | fenceSl (sc : Scope)
  | fenceAcq (sc : Scope)
  | fenceRel (sc : Scope)
  -- nodes, R148
  | nnew (d : Reg) (kind arity : Src)
  | nfree (d n : Reg)
  | nld (d n : Reg) (k : Fin 8)
  | nst (d n : Reg) (k : Fin 8)
  | pget (d n : Reg) (i : Src)
  | plink (x y : Reg)
  | splice (x y : Reg)
  | spliceJ (x z : Reg)
  | ndup (d t s : Reg)
  | nown (d n : Reg)
  -- redexes, R180
  | rpush (f : Fin 16) (x y : Reg)
  | rpop (d : Fin 31)
  | meet (d : Fin 31) (x y : Reg)
  | rule (d : Reg) (k1 k2 : Src)
  | fork (f : Fin 16) (h : RcSrc) (a0 a1 : Src)
  | join (d : Reg) (a : RcSrc)
  -- lane pool, R243 to R252
  | vclaim (d : Reg) (n : Src)
  | vyield
  | vren (d : Reg) (n : Src)
  | vld (t : VTy) (v : Fin 16) (base : Reg) (off : BitVec 12)
  | vst (t : VTy) (v : Fin 16) (base : Reg) (off : BitVec 12)
  | vgath (t : VTy) (v : Fin 16) (a : RcSrc) (idx : Fin 16) (p : Pred)
  | vadd (t : VTy) (v : Fin 16) (a b : VSrc) (p : Pred)
  | vsub (t : VTy) (v : Fin 16) (a b : VSrc) (p : Pred)
  | vmul (t : VTy) (v : Fin 16) (a b : VSrc) (p : Pred)
  | vmulz (t : VTy) (v : Fin 16) (a b : VSrc) (p : Pred)
  | vfma (t : VTy) (v : Fin 16) (a b : VSrc) (p : Pred)
  | vmin (t : VTy) (v : Fin 16) (a b : VSrc) (p : Pred)
  | vmax (t : VTy) (v : Fin 16) (a b : VSrc) (p : Pred)
  | vcmp (r : Rel) (t : VTy) (m : Fin 4) (a b : VSrc)
  | vsel (t : VTy) (v : Fin 16) (m : Fin 4) (a b : VSrc)
  | vcvt (dst src : VTy) (r : Rnd) (v : Fin 16) (a : VSrc) (p : Pred)
  | vsum (t : VTy) (d : Reg) (a : RcSrc) (n : Src)
  | vmaxr (t : VTy) (d : Reg) (a : RcSrc) (n : Src)
  | vredq (t : VTy) (d : Reg) (q : Fin 32) (c : Reg)
  | vxp (t : VTy) (v : Fin 16) (x0 x1 x2 x3 : VSrc) (prog : BitVec 48) (p : Pred)
  | vrank (v : Fin 16) (a : RcSrc) (b : VSrc) (p : Pred)
  | vselect (v : Fin 16) (a : RcSrc) (b : VSrc) (p : Pred)
  | vpopc (v : Fin 16) (a : VSrc) (p : Pred)
  | vshuf (t : VTy) (v : Fin 16) (a : Fin 16) (b : VSrc) (p : Pred)
  | vbcast (t : VTy) (v : Fin 16) (a : Src) (p : Pred)
  | vidx (t : VTy) (v : Fin 16) (a b : Src) (p : Pred)
  -- rings and banks, R119, R132, R134
  | qset (q : Fin 32) (base : RcSrc) (lgcnt : Fin 9) (size : BitVec 11)
  | qsetClr (q : Fin 32)
  | qwait (d : Reg) (q : Fin 32) (n : Src)
  | qresv (d : Reg) (q : Fin 32) (n : Src)
  | qadvP (q : Fin 32) (n : Src)
  | qadvC (q : Fin 32) (n : Src)
  | qhead (d : Reg) (q : Fin 32)
  | bclaim (d : Reg) (pin : Bool)
  | bfree (h : RcSrc)
  | bfmt (h : RcSrc) (fmt : Src)
  | bfmtTab (id code : Src)
  | bfmtRd (d : Reg) (h : RcSrc)
  | bpair (b : Reg) (front shadow : RcSrc)
  | bpairClr (front : RcSrc)
  -- scoreboard, R206
  | sbq (d : Reg)
  | sbwait (a : RcSrc) (n : Src)
  | sbwaitR (a : RcSrc) (n : Src)
  -- barriers, R231
  | barr (a : RcSrc)
  | barrArm (d : Reg) (a : RcSrc) (n : Src)
  | barrDis (a : RcSrc)
  | bwait (d : Reg) (a : RcSrc) (v : Src)
  | bwaitG (d : Reg) (a : RcSrc) (v : Src)
  | bstat (d : Reg) (a : RcSrc) (k : Src)
  -- envelopes, R268
  | eclaim (d : Reg) (e : Fin 16) (n : Src)
  | ecap (d : Reg) (e : Fin 16) (n : Src)
  | eclr (hi : Reg) (e : Fin 16) (lo : Src)
  | eclrFree (e : Fin 16)
  | eins (e : Fin 16) (a : RcSrc) (n : Src)
  | emax (ed ex ey : Fin 16)
  | esum (ed ex ey : Fin 16)
  | einf (ed ex ey : Fin 16)
  | eleg (ed ex : Fin 16)
  | eeval (e : Fin 16) (a : RcSrc) (n : Src)
  | eread (e : Fin 16) (a : RcSrc) (n : Src)
  | ecnt (d : Reg) (e : Fin 16)
  -- special functions, R253
  | vexp2 (d : Reg) (a : RcSrc) (n : Src)
  | vlog2 (d : Reg) (a : RcSrc) (n : Src)
  | vrcp (d : Reg) (a : RcSrc) (n : Src)
  | vrsq (d : Reg) (a : RcSrc) (n : Src)
  | vtanh (d : Reg) (a : RcSrc) (n : Src)
  -- messages, R289, R293
  | send (vn : SendNet) (d : Reg) (a : RcSrc) (n : Src)
  | sendi (rep : Bool) (d : Reg) (a : RcSrc) (n : Src)
  | hret
  -- remote atomics and triggers, R296, R298
  | aaddRemote (t : Bool) (d : Reg) (a : RcSrc) (v : Src)
  | acasRemote (t : Bool) (d : Reg) (a : RcSrc) (e nw : Src)
  | axchRemote (t : Bool) (d : Reg) (a : RcSrc) (v : Src)
  | aminRemote (t natural : Bool) (d : Reg) (a : RcSrc) (v : Src)
  | amaxRemote (t natural : Bool) (d : Reg) (a : RcSrc) (v : Src)
  | aandRemote (t : Bool) (d : Reg) (a : RcSrc) (v : Src)
  | aorRemote (t : Bool) (d : Reg) (a : RcSrc) (v : Src)
  | tbind (k : Reg) (a h : RcSrc)
  | tunbind (a : RcSrc)
  -- control and status registers, R103, R130, R308
  | csrr (d : Reg) (csr : BitVec 12)
  | csrw (csr : BitVec 12) (s : Reg)
  | cyc (d : Reg)
  | binjArm (s : Reg)
  | launchRead (d : Reg)
  -- system calls, R375
  | syscBeat (d : Reg) (a : Src)
  | syscInfo (d : Reg) (a : Src)
  | syscFail (d : Reg) (a : Src)
  -- streams, R386
  | sopen (d : Reg) (a : RcSrc)
  | sput (h : Reg) (n : Src)
  | sget (h : Reg) (n : Src)
  | sclose (d : Reg) (h : Src)
  -- registers of a halyard hart, R312
  | mvgo (s : Reg)
  | mvwait (d : Reg)
  | hidx (d : Reg)
  | hidxw (d : Reg)
  -- steps that carry what they find or what comes from outside
  | cxdata (cp : Nat) (sel : CpAccess) (write : Option Word)
  | partition (fn : Nat) (a0 a1 a2 a3 : Word)
  | qcreate (fn : Nat) (a0 a1 a2 a3 : Word)
  | qdestroy (fn : Nat) (a0 a1 a2 a3 : Word)
  | doorbell (fn : Nat) (a0 a1 a2 a3 : Word)
  | preempt (fn : Nat) (a0 a1 a2 a3 : Word)
  | resume (fn : Nat) (a0 a1 a2 a3 : Word)
  | kill (fn : Nat) (a0 a1 a2 a3 : Word)
  | halt (fn : Nat) (a0 a1 a2 a3 : Word)
  | run (fn : Nat) (a0 a1 a2 a3 : Word)
  | shootdown (fn : Nat) (a0 a1 a2 a3 : Word)
  | reset (fn : Nat) (a0 a1 a2 a3 : Word)
  | fwswap (fn : Nat) (a0 a1 a2 a3 : Word)
  | swapVerify (cp : Nat) (ok : Bool) (version : BitVec 16)
  | launch (queue : Nat) (img : Option Image)
  | shroudRetrain (shroud : Nat) (lanes : Nat)
  | bootVerify (ok : Bool)
  | hbmTrain (ok : Bool)
  | linkTrain (ok : Bool) (shroudsUp : BitVec 16)
  | pcapWrite (v : Byte)
  | powerCheck (milliwatts : Nat) (low10ms : Bool)
  | debugUnlock (tokenOk : Bool)
  | illegalInstruction (field : Nat) (word : IWord)
  | fetchFault (addr : Word)
  | shroudFlitArrive (shroud : Nat) (f : Flit)
  | dynamicAddressAssign (addr : Nat)
  | parkTimeout   -- ctx
  | storeDrain   -- ctx
  | joinTarget   -- packet
  | vredqSlot   -- ctx
  | pairSwap   -- mast front
  | remoteArrival   -- packet
  | eaStart   -- mast
  | eaCommit   -- mast
  | sfStart   -- mast
  | sfRetire   -- mast
  | ratomicTarget   -- packet
  -- yard commands and yard events, R213 to R224: `core` is the core whose queue holds the command
  | ynop   -- core
  | ymma   -- core
  | yzero   -- core
  | yload   -- core
  | ystore   -- core
  | ygang   -- core
  | gangForm   -- core
  | yardSchedule   -- mast yard
  | yardRetire   -- core
  -- unit events of masts and cores
  | remoteStoreApply   -- packet
  | relink   -- core ix
  | spliceSwap   -- packet
  | collapse   -- task slot
  | meetFetch   -- packet
  | meetInstall   -- packet
  | repoint   -- core ix
  | dispatch   -- core strand
  | handoffArrive   -- packet
  | stealRequest   -- packet
  | stealReply   -- packet
  | stealRound   -- core strand
  | parkContext   -- ctx
  | resumeContext   -- core, strand + 4 * context
  | deliverEvent   -- ctx
  | msgArrive   -- packet
  | msgDispatch   -- core strand
  | errorReply   -- packet
  | replyArrive   -- packet
  | packetLeave   -- packet
  | linkRetrain   -- link
  | linkReroute   -- link
  -- halyards, R311 to R317
  | halyardStart   -- mast h
  | movePerform   -- mast h
  | halyardComplete   -- mast h
  -- translation, R349, R350
  | extentFill   -- task va
  | dirtyRequest   -- task va
  -- command processors and host commands, R356 to R374, R410
  | swapTakeBack   -- cp
  | swapTimeout   -- cp
  | launchDispatch   -- queue
  | fenceRecord   -- queue
  | nopRecord   -- queue
  | launchComplete   -- launch
  | taskFail   -- launch
  | priorityPreempt   -- queue victim
  | preemptedResume   -- launch
  | sysMessage   -- packet
  | watchdogStep1   -- queue
  | watchdogStep2   -- queue
  | watchdogStep3   -- queue
  | gangWatchdog   -- queue
  | alarmClass1
  | alarmClass2
  | alarmClass3
  -- shrouds and tackles, R379, R383, R385, R394
  | shroudFail   -- shroud
  | graphFire   -- tackle op
  | streamToken   -- tackle stream
  | hostWriteReject   -- launch
  -- platform, R396 to R401
  | powerOnReset
  | warmReset
  | fuseMapBuild
  | bringupScrub
  | openCommands
  | thermalThrottle   -- quad
  | thermalRecover   -- quad
  | thermalTrip   -- quad
  | bypass
  | idcode
  | samplePreload
  | extest
  -- decode traps and late inputs
  | pcieCompletionTimeout   -- ctx
  | verificationAvailable
  deriving DecidableEq, Repr

end Sys2Proof
end

