-- ==== Sys2Proof/Machine/Bits.lean ====
section
/-! DEFINITION. Bit fields, sign extension, byte order and the integer arithmetic of R44 and R45. -/

namespace Sys2Proof

/-- Bits [hi:lo] of a word, as a number. -/
def bits (x : Word) (hi lo : Nat) : Nat := (x.toNat >>> lo) % 2 ^ (hi + 1 - lo)

/-- Bit `i` of a word. -/
def bit (x : Word) (i : Nat) : Bool := x.getLsbD i

/-- The low `n` bits of a number, read as two's complement. -/
def sextN (n : Nat) (x : Nat) : Int :=
  let y := x % 2 ^ n
  if 2 * y < 2 ^ n then (y : Int) else (y : Int) - (2 ^ n : Nat)

/-- A word from an integer, modulo 2^64. -/
def ofInt (i : Int) : Word := BitVec.ofInt 64 i

/-- `x` with bits [hi:lo] replaced by the low bits of `v`. -/
def setBits (x : Word) (hi lo : Nat) (v : Nat) : Word :=
  let m : Word := BitVec.ofNat 64 ((2 ^ (hi + 1 - lo) - 1) <<< lo)
  (x &&& ~~~m) ||| (BitVec.ofNat 64 ((v % 2 ^ (hi + 1 - lo)) <<< lo))

/-- The bytes of a number, least significant first (R7). -/
def toBytes : Nat → Nat → List Byte
  | 0, _ => []
  | n + 1, x => BitVec.ofNat 8 x :: toBytes n (x / 256)

/-- The number whose bytes, least significant first, are given (R7). -/
def ofBytes : List Byte → Nat
  | [] => 0
  | b :: bs => b.toNat + 256 * ofBytes bs

/-- The doubles of a list of bytes, eight bytes each (a short tail is padded with zeros). `fuel` bounds their number. -/
def bytesToWords : Nat → List Byte → List Word
  | 0, _ => []
  | _ + 1, [] => []
  | n + 1, bs => Word.of (ofBytes (bs.take 8)) :: bytesToWords n (bs.drop 8)

/-- The bytes of a list of doubles. -/
def wordsToBytes (ws : List Word) : List Byte := ws.flatMap fun w => toBytes 8 w.toNat

/-- The width in bits of an integer type code (R90). -/
def ITy.width : ITy → Nat
  | .i64 | .n64 => 64
  | .i32 | .n32 => 32

/-- Whether an integer type code is signed. -/
def ITy.signed : ITy → Bool
  | .i64 | .i32 => true
  | .n64 | .n32 => false

/-- The number that the low bits of a value stand for in an integer type (R44). -/
def ITy.val (t : ITy) (x : Word) : Int :=
  if t.signed then sextN t.width x.toNat else ((x.toNat % 2 ^ t.width : Nat) : Int)

/-- The register value of an integer result: the low bits, sign-extended for the .i types and zero-extended for the
.n types (R29). -/
def ITy.wrap (t : ITy) (i : Int) : Word :=
  let low := (BitVec.ofInt 64 i).toNat
  if t.signed then ofInt (sextN t.width low) else Word.of (low % 2 ^ t.width)

/-- The quotient rounded toward zero; the low bits of all ones for a zero divisor (R14, R45). -/
def ITy.quot (t : ITy) (x y : Int) : Int := if y = 0 then (if t.signed then -1 else 2 ^ t.width - 1) else x.tdiv y

/-- The remainder: the dividend for a zero divisor (R14, R45). -/
def ITy.modulo (_t : ITy) (x y : Int) : Int := if y = 0 then x else x - x.tdiv y * y

/-- The number of leading zeros of the low `w` bits. -/
def clzN (w x : Nat) : Nat := if x % 2 ^ w = 0 then w else w - 1 - Nat.log2 (x % 2 ^ w)

/-- The number of trailing zeros of `x` among the `n` bits above bit `i`, plus `i`. -/
def ctzFrom : Nat → Nat → Nat → Nat
  | 0, _, i => i
  | n + 1, x, i => if x % 2 = 1 then i else ctzFrom n (x / 2) (i + 1)

/-- The number of one bits among the low `n` bits. -/
def popcN : Nat → Nat → Nat
  | 0, _ => 0
  | n + 1, x => x % 2 + popcN n (x / 2)

/-- The bit number of the `i`-th set bit of `x`, looking at `n` bits from bit `k` (R247). -/
def selectFrom : Nat → Nat → Nat → Nat → Option Nat
  | 0, _, _, _ => none
  | n + 1, x, k, i => if x % 2 = 1 then (if i = 0 then some k else selectFrom n (x / 2) (k + 1) (i - 1))
      else selectFrom n (x / 2) (k + 1) i

/-- The type code of an element type (R31). -/
def ETy.code : ETy → Nat
  | .i8 => 0 | .i16 => 1 | .i32 => 2 | .i64 => 3 | .n8 => 4 | .n16 => 5 | .n32 => 6 | .n64 => 7
  | .bf16 => 8 | .f16 => 9 | .f32 => 10 | .f64 => 11 | .ef8a => 12 | .ef8b => 13

/-- The element type of a code (R31); none for the reserved codes. -/
def ETy.ofCode : Nat → Option ETy
  | 0 => some .i8 | 1 => some .i16 | 2 => some .i32 | 3 => some .i64 | 4 => some .n8 | 5 => some .n16
  | 6 => some .n32 | 7 => some .n64 | 8 => some .bf16 | 9 => some .f16 | 10 => some .f32 | 11 => some .f64
  | 12 => some .ef8a | 13 => some .ef8b | _ => none

/-- The width in bits of an element type (R44, R46). -/
def ETy.width : ETy → Nat
  | .i8 | .n8 | .ef8a | .ef8b => 8
  | .i16 | .n16 | .bf16 | .f16 => 16
  | .i32 | .n32 | .f32 => 32
  | .i64 | .n64 | .f64 => 64

/-- Whether an element type is an EF8 type. -/
def ETy.isEf8 : ETy → Bool
  | .ef8a | .ef8b => true
  | _ => false

/-- Whether an element type is an integer type. -/
def ETy.isInt : ETy → Bool
  | .i8 | .i16 | .i32 | .i64 | .n8 | .n16 | .n32 | .n64 => true
  | _ => false

/-- Whether an element type is a signed integer type. -/
def ETy.isSigned : ETy → Bool
  | .i8 | .i16 | .i32 | .i64 => true
  | _ => false

/-- The element type of a lane type (R34). -/
def VTy.ety : VTy → ETy
  | .f32 => .f32 | .i32 => .i32 | .n32 => .n32 | .f64 => .f64

/-- The size in bytes of a lane type's element in memory (R250). -/
def VTy.size : VTy → Nat
  | .f64 => 8
  | _ => 4

/-- The number of a fence scope (R137). -/
def Scope.code : Scope → Nat
  | .strand => 0 | .core => 1 | .mast => 2 | .quad => 3 | .dev => 4 | .sys => 5

end Sys2Proof
end

