-- ==== Sys2Proof/Machine/Float.lean ====
section
/-! DEFINITION. The floating-point formats (R46 to R50), rounding (R51), the operations that round once (R95 to R97) and
the conversions (R52, R53). A finite value is held exactly, as a sign, a natural significand and a power of two. -/

namespace Sys2Proof

/-- A floating-point format (R46): exponent bits, mantissa bits, bias, the bit pattern (without sign) above which no
finite value lies, whether that next pattern is an infinity, and the canonical NaN. -/
structure Fmt where
  ebits  : Nat
  mbits  : Nat
  bias   : Int
  maxFin : Nat
  hasInf : Bool
  nan    : Nat
  deriving DecidableEq, Repr

/-- The format of a floating-point type (R46 to R48); FP64 for the others, which are never asked. -/
def ETy.fmt : ETy → Fmt
  | .bf16 => ⟨8, 7, 127, 0x7F7F, true, 0x7FC0⟩
  | .f16 => ⟨5, 10, 15, 0x7BFF, true, 0x7E00⟩
  | .f32 => ⟨8, 23, 127, 0x7F7FFFFF, true, 0x7FC00000⟩
  | .ef8a => ⟨4, 3, 8, 0x7E, false, 0x7F⟩
  | .ef8b => ⟨5, 2, 16, 0x7B, true, 0x7E⟩
  | _ => ⟨11, 52, 1023, 0x7FEFFFFFFFFFFFFF, true, 0x7FF8000000000000⟩

/-- The exact value of a bit pattern: a NaN, an infinity, or (-1)^s * m * 2^e. -/
inductive FVal where
  | nan
  | inf (s : Bool)
  | fin (s : Bool) (m : Nat) (e : Int)
  deriving DecidableEq, Repr

/-- The exact value of the low bits of `x` in a format (R46 to R48). -/
def Fmt.decode (f : Fmt) (x : Nat) : FVal :=
  let s := (x >>> (f.ebits + f.mbits)) % 2 = 1
  let mag := x % 2 ^ (f.ebits + f.mbits)
  let e := mag >>> f.mbits
  let m := mag % 2 ^ f.mbits
  if mag ≤ f.maxFin then
    if e = 0 then .fin s m (1 - f.bias - f.mbits) else .fin s (m + 2 ^ f.mbits) ((e : Int) - f.bias - f.mbits)
  else if f.hasInf && mag = f.maxFin + 1 then .inf s
  else .nan

/-- A bit pattern with a sign. -/
def Fmt.signed (f : Fmt) (s : Bool) (mag : Nat) : Nat := mag + (if s then 2 ^ (f.ebits + f.mbits) else 0)

/-- The infinity of a sign; the largest finite value where the format has no infinity. -/
def Fmt.infinity (f : Fmt) (s : Bool) : Nat := f.signed s (if f.hasInf then f.maxFin + 1 else f.maxFin)

/-- floor(log2 (num / den)) for positive arguments. -/
def ratLog2 (num den : Nat) : Int :=
  let k : Int := (Nat.log2 num : Int) - Nat.log2 den
  -- 2^(k-1) < num/den < 2^(k+1)
  let ge : Bool := if 0 ≤ k then decide (den * 2 ^ k.toNat ≤ num) else decide (den ≤ num * 2 ^ (-k).toNat)
  if ge then k else k - 1

/-- Whether a magnitude rounds away from zero: `r / q` is the fraction dropped and `n` the truncated result. -/
def roundUp (mode : Rnd) (s : Bool) (n r q : Nat) : Bool :=
  match mode with
  | .rne => decide (q < 2 * r) || (decide (2 * r = q) && decide (n % 2 = 1))
  | .rz => false
  | .ru => !s && decide (r ≠ 0)
  | .rd => s && decide (r ≠ 0)

/-- What an overflow gives (R51 to R53): by mode, or saturation. -/
inductive Ovf where
  | mode
  | saturate
  deriving DecidableEq, Repr

/-- The pattern of an overflow of a sign (R51). -/
def Fmt.overflow (f : Fmt) (mode : Rnd) (o : Ovf) (s : Bool) : Nat :=
  match o, mode with
  | .saturate, _ => f.signed s f.maxFin
  | .mode, .rne => f.infinity s
  | .mode, .rz => f.signed s f.maxFin
  | .mode, .ru => if s then f.signed s f.maxFin else f.infinity s
  | .mode, .rd => if s then f.infinity s else f.signed s f.maxFin

/-- Rounds (-1)^s * (num / den) * 2^e once (R51). -/
def Fmt.round (f : Fmt) (mode : Rnd) (o : Ovf) (s : Bool) (num den : Nat) (e : Int) : Nat :=
  if num = 0 then f.signed s 0
  else
    let top := ratLog2 num den + e
    let qmin := 1 - f.bias - f.mbits
    let q := if top - f.mbits < qmin then qmin else top - f.mbits
    let sh := e - q
    let a := if 0 ≤ sh then num * 2 ^ sh.toNat else num
    let b := if 0 ≤ sh then den else den * 2 ^ (-sh).toNat
    let n := a / b
    let r := a % b
    let n' := if roundUp mode s n r b then n + 1 else n
    let mag := (q - qmin).toNat * 2 ^ f.mbits + n'
    if f.maxFin < mag then f.overflow mode o s else f.signed s mag

/-- Rounds an exact value into a format; a NaN gives the canonical NaN (R49). -/
def Fmt.ofVal (f : Fmt) (mode : Rnd) (o : Ovf) : FVal → Nat
  | .nan => f.nan
  | .inf s => f.infinity s
  | .fin s m e => f.round mode o s m 1 e

/-- The integer significands of two finite values at their smaller exponent. -/
def align (s1 : Bool) (m1 : Nat) (e1 : Int) (s2 : Bool) (m2 : Nat) (e2 : Int) : Int × Int × Int :=
  let e := if e1 ≤ e2 then e1 else e2
  let v1 : Int := (m1 : Int) * (2 ^ (e1 - e).toNat : Nat)
  let v2 : Int := (m2 : Int) * (2 ^ (e2 - e).toNat : Nat)
  ((if s1 then -v1 else v1), (if s2 then -v2 else v2), e)

/-- The sign of an exact zero sum (R51). -/
def zeroSumSign (mode : Rnd) (s1 s2 : Bool) : Bool := if s1 = s2 then s1 else decide (mode = .rd)

/-- The exact sum; the sign of a zero follows R51. -/
def FVal.add (mode : Rnd) : FVal → FVal → FVal
  | .nan, _ => .nan
  | _, .nan => .nan
  | .inf s, .inf t => if s = t then .inf s else .nan
  | .inf s, _ => .inf s
  | _, .inf t => .inf t
  | .fin s1 m1 e1, .fin s2 m2 e2 =>
    let (a, b, e) := align s1 m1 e1 s2 m2 e2
    let c := a + b
    if c = 0 then .fin (zeroSumSign mode s1 s2) 0 e else .fin (decide (c < 0)) c.natAbs e

/-- The negation. -/
def FVal.neg : FVal → FVal
  | .nan => .nan
  | .inf s => .inf (!s)
  | .fin s m e => .fin (!s) m e

/-- The exact product. -/
def FVal.mul : FVal → FVal → FVal
  | .nan, _ => .nan
  | _, .nan => .nan
  | .inf s, .inf t => .inf (s != t)
  | .inf s, .fin t m _ => if m = 0 then .nan else .inf (s != t)
  | .fin s m _, .inf t => if m = 0 then .nan else .inf (s != t)
  | .fin s m e, .fin t n g => .fin (s != t) (m * n) (e + g)

/-- Whether a value is a zero of either sign. -/
def FVal.isZero : FVal → Bool
  | .fin _ m _ => decide (m = 0)
  | _ => false

/-- The exact order of two values that are not NaN: -1, 0 or 1 (R96: +0 = -0). -/
def FVal.cmp : FVal → FVal → Int
  | .inf s, .inf t => if s = t then 0 else if s then -1 else 1
  | .inf s, _ => if s then -1 else 1
  | _, .inf t => if t then 1 else -1
  | .fin s1 m1 e1, .fin s2 m2 e2 =>
    let (a, b, _) := align s1 m1 e1 s2 m2 e2
    if a < b then -1 else if a = b then 0 else 1
  | _, _ => 0

/-- x + y in a format, rounded once (R95). -/
def fAdd (f : Fmt) (mode : Rnd) (x y : Nat) : Nat := f.ofVal mode .mode (FVal.add mode (f.decode x) (f.decode y))

/-- x - y in a format, rounded once (R95). -/
def fSub (f : Fmt) (mode : Rnd) (x y : Nat) : Nat := f.ofVal mode .mode (FVal.add mode (f.decode x) (f.decode y).neg)

/-- x * y in a format, rounded once (R95). -/
def fMul (f : Fmt) (mode : Rnd) (x y : Nat) : Nat := f.ofVal mode .mode (FVal.mul (f.decode x) (f.decode y))

/-- x * y + z in a format, rounded once (R95). -/
def fFma (f : Fmt) (mode : Rnd) (x y z : Nat) : Nat :=
  f.ofVal mode .mode (FVal.add mode (FVal.mul (f.decode x) (f.decode y)) (f.decode z))

/-- x / y in a format, rounded once (R95). -/
def fDiv (f : Fmt) (mode : Rnd) (x y : Nat) : Nat :=
  match f.decode x, f.decode y with
  | .nan, _ => f.nan
  | _, .nan => f.nan
  | .inf _, .inf _ => f.nan
  | .inf s, .fin t _ _ => f.infinity (s != t)
  | .fin s _ _, .inf t => f.signed (s != t) 0
  | .fin s m e, .fin t n g =>
    if n = 0 then (if m = 0 then f.nan else f.infinity (s != t)) else f.round mode .mode (s != t) m n (e - g)

/-- The integer square root of `n`, from bit `i` down. -/
def isqrtFrom : Nat → Nat → Nat → Nat
  | 0, n, r => if (r + 1) * (r + 1) ≤ n then r + 1 else r
  | i + 1, n, r => isqrtFrom i n (if (r + 2 ^ (i + 1)) * (r + 2 ^ (i + 1)) ≤ n then r + 2 ^ (i + 1) else r)

/-- The square root in a format, rounded once (R97). -/
def fSqrt (f : Fmt) (mode : Rnd) (x : Nat) : Nat :=
  match f.decode x with
  | .nan => f.nan
  | .inf s => if s then f.nan else f.infinity false
  | .fin s m e =>
    if m = 0 then f.signed s 0
    else if s then f.nan
    else
      -- 128 more significand bits, and an even exponent
      let odd := e.emod 2
      let n := m * 2 ^ (128 + odd.toNat)
      let r := isqrtFrom 96 n 0
      let sticky := if r * r = n then 0 else 1
      f.round mode .mode false (2 * r + sticky) 1 ((e - odd) / 2 - 64 - 1)

/-- FMIN and FMAX (R96): -0 is below +0, and a NaN gives the canonical NaN. -/
def fMin (f : Fmt) (x y : Nat) : Nat :=
  let vx := f.decode x
  let vy := f.decode y
  if vx = .nan ∨ vy = .nan then f.nan
  else if vx.isZero && vy.isZero then (if x ≠ 0 then x else y)
  else if FVal.cmp vx vy ≤ 0 then x else y

/-- FMAX (R96). -/
def fMax (f : Fmt) (x y : Nat) : Nat :=
  let vx := f.decode x
  let vy := f.decode y
  if vx = .nan ∨ vy = .nan then f.nan
  else if vx.isZero && vy.isZero then (if x = 0 then x else y)
  else if 0 ≤ FVal.cmp vx vy then x else y

/-- FCMP (R96). -/
def fCmp (f : Fmt) (x y : Nat) : Nat :=
  let vx := f.decode x
  let vy := f.decode y
  if vx = .nan ∨ vy = .nan then 8
  else
    let c := FVal.cmp vx vy
    if c < 0 then 1 else if c = 0 then 2 else 4

/-! ### Conversions -/

/-- The integer that a bit pattern of an integer type stands for. -/
def ETy.intVal (t : ETy) (x : Nat) : Int := if t.isSigned then sextN t.width x else ((x % 2 ^ t.width : Nat) : Int)

/-- The least value of an integer type. -/
def ETy.minInt (t : ETy) : Int := if t.isSigned then -((2 ^ (t.width - 1) : Nat) : Int) else 0

/-- The greatest value of an integer type. -/
def ETy.maxInt (t : ETy) : Int := if t.isSigned then (2 ^ (t.width - 1) : Nat) - 1 else (2 ^ t.width : Nat) - 1

/-- Saturates an integer to a type's range (R52). -/
def ETy.sat (t : ETy) (i : Int) : Int := if i < t.minInt then t.minInt else if t.maxInt < i then t.maxInt else i

/-- The bit pattern of an integer in an integer type. -/
def ETy.intBits (t : ETy) (i : Int) : Nat := (i.emod (2 ^ t.width : Nat)).toNat

/-- Rounds an exact finite value to an integer (R52). -/
def roundInt (mode : Rnd) (s : Bool) (m : Nat) (e : Int) : Int :=
  let n := if 0 ≤ e then m * 2 ^ e.toNat else
    let q := 2 ^ (-e).toNat
    let n := m / q
    if roundUp mode s n (m % q) q then n + 1 else n
  if s then -(n : Int) else n

/-- A value of type `src` converted to type `dst` (R52 with `o = .mode`, R53 with `o = .saturate`). An integer beyond 224
saturates in EF8A, which has no infinity, and a conversion between two floating-point types of one width rounds in the mode and
overflows as R51, for which R52 has no row (log entry 66). -/
def convert (dst src : ETy) (mode : Rnd) (o : Ovf) (x : Nat) : Nat :=
  let x := x % 2 ^ src.width
  match src.isInt, dst.isInt with
  | true, true => dst.intBits (dst.sat (src.intVal x))
  | true, false =>
    let i := src.intVal x
    dst.fmt.round mode (if dst = .ef8a then .saturate else o) (decide (i < 0)) i.natAbs 1 0
  | false, true =>
    match src.fmt.decode x with
    | .nan => 0
    | .inf s => dst.intBits (if s then dst.minInt else dst.maxInt)
    | .fin s m e => dst.intBits (dst.sat (roundInt mode s m e))
  | false, false =>
    if dst = src then (if src.fmt.decode x = .nan then src.fmt.nan else x)
    else dst.fmt.ofVal mode (if dst = .ef8a then .saturate else o) (src.fmt.decode x)

/-- The register value of an element (R29): sign-extended for the .i types, zero-extended for the others. -/
def ETy.toReg (t : ETy) (x : Nat) : Word := if t.isSigned then ofInt (sextN t.width x) else Word.of (x % 2 ^ t.width)

/-- The exact value of an integer literal in a floating-point type (R28). -/
def litBits (t : ETy) (i : Int) : Nat := t.fmt.round .rne .mode (decide (i < 0)) i.natAbs 1 0

end Sys2Proof
end

