-- ==== Sys2Proof/Machine/Memory.lean ====
section
/-! DEFINITION. Memory as a list of bytes in one canonical form: addresses strictly rising, and no byte equal to what an
unlisted address reads as. -/

namespace Sys2Proof.Machine

/-- A memory: the listed bytes. -/
abbrev Memory := List Host.Cell

/-- What an unlisted address reads as: bring-up scrubs every bank, local memory and HBM (R397; log entry 5). -/
def Memory.unlisted : Byte := 0#8

/-- Whether every listed address is above `lo`, addresses rise strictly, and no byte is the unlisted one. -/
def Memory.wfFrom : Option Nat → Memory → Bool
  | _, [] => true
  | lo, (a, b) :: m => (match lo with | none => true | some l => decide (l < a)) && decide (b ≠ Memory.unlisted)
      && Memory.wfFrom (some a) m

/-- The canonical form. -/
def Memory.wf (m : Memory) : Bool := Memory.wfFrom none m

/-- The byte at an address. -/
def Memory.get : Memory → Nat → Byte
  | [], _ => Memory.unlisted
  | (a, b) :: m, k => if k < a then Memory.unlisted else if k = a then b else Memory.get m k

/-- Writes one byte and keeps the canonical form. -/
def Memory.put : Memory → Nat → Byte → Memory
  | [], k, v => if v = Memory.unlisted then [] else [(k, v)]
  | (a, b) :: m, k, v =>
    if k < a then (if v = Memory.unlisted then (a, b) :: m else (k, v) :: (a, b) :: m)
    else if k = a then (if v = Memory.unlisted then m else (k, v) :: m)
    else (a, b) :: Memory.put m k v

/-- The `n` bytes from an address. -/
def Memory.read (m : Memory) : Nat → Nat → List Byte
  | _, 0 => []
  | k, n + 1 => m.get k :: Memory.read m (k + 1) n

/-- Writes bytes from an address upward. -/
def Memory.write : Memory → Nat → List Byte → Memory
  | m, _, [] => m
  | m, k, b :: bs => Memory.write (m.put k b) (k + 1) bs

/-- Removes every listed byte in [lo, hi): they read as the unlisted byte afterwards. -/
def Memory.clear (m : Memory) (lo hi : Nat) : Memory := m.filter fun c => !(decide (lo ≤ c.1) && decide (c.1 < hi))

/-- The listed part of [lo, hi). -/
def Memory.part (m : Memory) (lo hi : Nat) : Memory := m.filter fun c => decide (lo ≤ c.1) && decide (c.1 < hi)

end Sys2Proof.Machine
end

