-- ==== Sys2Proof/Config.lean ====
section
/-! DEFINITION. The values that the manual leaves open. Each is opaque: no proof can learn one. -/

namespace Sys2Proof.Config

/-- The free value number `n` (log entry 2): a value that the manual leaves undefined or does not state. -/
opaque freeValue : Nat → Word

/-- The bits of the literal `n` in an EF8 type in which it is no exact value (R28, R97, log entry 2): a function of the
instruction alone, so every run reads the same (R2). -/
opaque ef8Literal (variantB : Bool) (n : BitVec 6) : Byte

/-- Element `i` of the last block of an EF8 tile, behind the last element written, whose elements are `xs` (R60, log entry
2): a function of what is written, so every run writes the same (R2). -/
opaque padElem (xs : List Nat) (i : Nat) : Byte

/-- What a unit takes an uncorrectable double for that it cannot do without: a batch word (R234), or a double of a barrier object
(R230). `off` is its place in the launch's bank space and `w` its bits, so every run reads the same (R2, log entry 2). -/
opaque badDouble (off : Nat) (w : Word) : Word

/-- How many further clock cycles a core's counter has moved at its `n`-th issue, beside the one of the issue itself
(R106: `cyc` is timing-visible, log entry 3). -/
opaque freeCycles : Nat → Nat

/-- The word at byte `a` of the shipped halyard kernels (R305): the manual does not give their code (log entry 12). -/
opaque shippedCode (a : Nat) : BitVec 32

/-- The minimum security version held in fuses (R373, log entry 12). -/
opaque fusedVersion : BitVec 16

/-- The hash of the signing public key held in fuses (R373, log entry 12). -/
opaque fusedKey : BitVec 512

/-- The public key of that hash, its two coordinates of 66 bytes in turn (R373: where it stands is not given, log entry 54). -/
opaque signingKey : BitVec 1056

/-- Whether the header of a CP image, 128 bytes, holds the magic number (R373: neither it nor the header's layout is given, log entry 54). -/
opaque imageMagic (head : List Byte) : Bool

/-- The length that a CP image's header gives (R373, log entry 54). -/
opaque imageLength (head : List Byte) : BitVec 52

/-- The entry address that a CP image's header gives (R373, log entry 54). -/
opaque imageEntry (head : List Byte) : Word

/-- The security version that a CP image's header gives (R373, log entry 54). -/
opaque imageVersion (head : List Byte) : BitVec 16

/-- The CPs' boot image (R397, log entry 12). -/
opaque bootImage : List Byte

/-- The security version of the boot image (R356: `fwsv` reset "from image"). -/
def bootVersion : BitVec 16 := imageVersion (bootImage.take 128)

/-- The entry address of the boot image (R373). -/
def bootEntry : Word := imageEntry (bootImage.take 128)

/-- The serial number of the device identity certificate (R400, log entry 12). -/
opaque certSerial : BitVec 64

/-- The fuse block of quadrant `q`: sixteen five-bit fields (R396, log entry 12). -/
opaque fuseBlock : Nat → BitVec 80

/-- The credits of a partition on a long link, per network and direction, in flits: the CP's choice (R282, log entry 70). -/
def linkShare : Nat := 64

end Sys2Proof.Config
end

