-- ==== Sys2Proof/Machine/AMap.lean ====
section
/-! DEFINITION. A finite map from numbers, as a list of key and value pairs with one entry per key. -/

namespace Sys2Proof.Machine

/-- A finite map from numbers; a key that is not listed has a default value. -/
abbrev AMap (α : Type) := List (Nat × α)

variable {α : Type}

/-- The listed value of a key, or the default. -/
def AMap.get : AMap α → Nat → α → α
  | [], _, d => d
  | (k', v) :: m, k, d => if k' = k then v else AMap.get m k d

/-- Whether a key is listed. -/
def AMap.has : AMap α → Nat → Bool
  | [], _ => false
  | (k', _) :: m, k => if k' = k then true else AMap.has m k

/-- Sets the value of a key. -/
def AMap.set : AMap α → Nat → α → AMap α
  | [], k, v => [(k, v)]
  | (k', v') :: m, k, v => if k' = k then (k, v) :: m else (k', v') :: AMap.set m k v

/-- Removes a key. -/
def AMap.erase : AMap α → Nat → AMap α
  | [], _ => []
  | (k', v') :: m, k => if k' = k then m else (k', v') :: AMap.erase m k

@[simp] theorem AMap.get_set_same (m : AMap α) (k : Nat) (v d : α) : (m.set k v).get k d = v := by
  induction m with
  | nil => simp [set, get]
  | cons p m ih => obtain ⟨k', v'⟩ := p; by_cases h : k' = k <;> simp [set, get, h, ih]

@[simp] theorem AMap.has_set_same (m : AMap α) (k : Nat) (v : α) : (m.set k v).has k = true := by
  induction m with
  | nil => simp [set, has]
  | cons p m ih => obtain ⟨k', v'⟩ := p; by_cases h : k' = k <;> simp [set, has, h, ih]

theorem AMap.get_set_other (m : AMap α) {j k : Nat} (h : j ≠ k) (v d : α) : (m.set k v).get j d = m.get j d := by
  induction m with
  | nil => simp [set, get, Ne.symm h]
  | cons p m ih =>
    obtain ⟨k', v'⟩ := p
    by_cases h1 : k' = k
    · have h2 : ¬ k = j := fun e => h e.symm
      simp [set, get, h1, h2]
    · by_cases h2 : k' = j
      · subst h2; simp [set, get, h1]
      · simp [set, get, h1, h2, ih]

/-- Setting a key twice keeps the second value. -/
@[simp] theorem AMap.set_set (m : AMap α) (k : Nat) (v w : α) : (m.set k v).set k w = m.set k w := by
  induction m with
  | nil => simp [set]
  | cons p m ih => obtain ⟨k', v'⟩ := p; by_cases h : k' = k <;> simp [set, h, ih]

end Sys2Proof.Machine
end

