-- ==== Sys2Proof/Machine/State.lean ====
section
/-! DEFINITION. The state of the whole device as plain data, the outcomes' reasons, and the state after reset.
Entities are kept in finite maps by number; an entity that is not listed has its `init` value. -/

namespace Sys2Proof.Machine

/-- Why the machine stops. -/
inductive Fault where
  /-- The agenda names a core that the device does not have (R3; raised by `step` only, log entry 60). Safe: the device has
  no such agent, so no behaviour of the device is lost. -/
  | noSuchAgent (core : Nat)
  deriving DecidableEq, Repr

/-- Why an instruction has no meaning. -/
inductive Refusal where
  /-- Not modelled yet (raised by the arms of `exec` only). Safe. -/
  | notModelled (mnemonic : String)
  deriving DecidableEq, Repr

/-! ### Contexts -/

/-- What a loop entry counts (R99, R100). -/
inductive LoopKind where
  | count (n : Word)
  | induct (c : Reg) (t : ITy) (lim step : Word)
  deriving DecidableEq, Repr

/-- An entry of the loop stack (R99 to R102). -/
structure LoopEntry where
  kind  : LoopKind
  start : Word
  stop  : Word
  base  : Nat
  deriving DecidableEq, Repr

/-- A user-level event (R88). -/
structure UEvent where
  source  : Byte
  id      : Word
  handler : Word
  deriving DecidableEq, Repr

/-- A store that has been checked and has not yet drained (R112). `order` is its place among the stores and packets
of its context; the packets of the context placed before `rel` must be applied before it drains (R330, R331). -/
structure BufStore where
  ea    : Word
  key   : Nat                      -- the translated place of a heap or local store; banks are resolved at drain
  bytes : List Byte
  order : Nat
  rel   : Nat
  deriving DecidableEq, Repr

/-- The kind of work a context was made for (R165, R292, R295, R303, R381). -/
inductive CtxKind where
  | redex | task | req | rep | sys | streamer | hart
  deriving DecidableEq, Repr

/-- Whether a context issues (R72, R80, R85). -/
inductive CtxStatus where
  | none | running | waiting | parked | resumable | failed | stopped
  deriving DecidableEq, Repr

/-- The answer that a waiting context has received to a request that left its core (R297, R186). -/
inductive Answer where
  | value (w : Word)
  | joined (count cont : Word)
  | fault (cause : Nat) (addr : Word)
  deriving DecidableEq, Repr

/-- How an operation of the envelope accumulator has ended for its context (R264, R265). -/
inductive EaOut where
  | done (w : Word)
  | trap (cause : Nat) (addr info : Word)
  deriving DecidableEq, Repr

/-- What a context waits for, where re-execution alone does not tell (R81, R183, R264, R297, R308). -/
inductive Await where
  | none
  | park (d : Reg) (timeout start : Word)
  | reply (packet : Nat) (d : Reg) (got : Option Answer)
  | copy (id : BitVec 16) (a : Word)
  | copied (a : Word) (fault : Option (Nat × Word))
  | vredq (entry : Nat) (t : VTy) (d : Reg) (q : Fin 32) (c : Reg)
  | entries (seqs : List Nat)
  | ea (out : Option EaOut)
  | stores (places : List (Nat × Nat))
  deriving DecidableEq, Repr

/-- A context: the running state of one piece of a task's work (R71, R105). -/
structure Context where
  kind      : CtxKind
  status    : CtxStatus
  core      : Nat
  strand    : Nat
  task      : Nat
  launch    : Nat
  pc        : Word
  file      : AMap Word            -- the window file, entries 0 to 127 (R75)
  base      : Nat                  -- B
  low       : Nat                  -- L
  depth     : Nat
  loops     : List LoopEntry       -- top first
  trapcause : Byte
  trapaddr  : Word
  trappc    : Word
  trapinfo  : Word
  intrap    : Bool
  inui      : Bool
  eamask    : Bool
  dcause    : Byte
  uien      : Bool
  uicause   : Byte
  xid       : Word
  uipc      : Word
  parkthr   : Word
  wspb      : Word
  wspl      : Word
  wsp       : Word
  area      : Nat
  waitStart : Option Word
  await     : Await
  cur0      : Word
  cur1      : Word
  pending   : List UEvent
  storeBuf  : List BufStore        -- oldest first
  order     : Nat
  relOrd    : Nat                  -- the place of the last releasing FENCE (R331)
  vl        : Nat
  vgrant    : Nat
  vwant     : Nat
  vpend     : Bool
  v         : List (List Word)     -- v0 to v15, elements below vl (R244)
  m         : List (List Bool)     -- m0 to m3, bits below vl
  etol      : Word
  estat     : Word
  eopValid  : Bool
  eopTag    : BitVec 16
  hsrc      : Word
  hdst      : Word
  hlen      : Word
  hstr      : Word
  hpb       : Word
  harg      : Word
  hctl      : Word
  msgOff    : Nat                  -- the inbox run of a message context: offset in space 0x8, length, code words
  msgLen    : Nat
  msgCode   : Nat
  deriving DecidableEq, Repr

/-- A context before creation, and the values at creation that do not depend on the launch (R105). -/
def Context.init : Context :=
  { kind := .task, status := .none, core := 0, strand := 0, task := 0, launch := 0, pc := 0,
    file := [], base := 0, low := 0, depth := 0, loops := [],
    trapcause := 0, trapaddr := 0, trappc := 0, trapinfo := 0, intrap := false, inui := false, eamask := false,
    dcause := 0, uien := true, uicause := 0, xid := 0, uipc := 0, parkthr := 2048, wspb := 0, wspl := 0, wsp := 0,
    area := 0, waitStart := none, await := .none, cur0 := 0, cur1 := 0, pending := [], storeBuf := [], order := 0,
    relOrd := 0, vl := 0, vgrant := 0, vwant := 0, vpend := false,
    v := List.replicate 16 [], m := List.replicate 4 [],
    etol := 0, estat := 0, eopValid := false, eopTag := 0, hsrc := 0, hdst := 0, hlen := 0, hstr := 0, hpb := 0,
    harg := 0, hctl := 0, msgOff := 0, msgLen := 0, msgCode := 0 }

/-! ### Tasks -/

/-- A record of a deque (R165, R166): its two doubles, with the pinned flag apart (it is bit 53 of double 0, which no
architectural value exposes). -/
structure Record where
  d0     : Word
  d1     : Word
  pinned : Bool
  deriving DecidableEq, Repr

/-- A slot of a node store (R138, R146). The port words are p, a1, a2, a3. -/
structure Node where
  gen    : BitVec 16
  ilen   : BitVec 5
  uflags : Byte
  live   : Bool
  thim   : Bool
  rel    : Bool
  arity  : Nat
  kind   : BitVec 12
  desc   : Word
  ports  : List Word
  in0    : Word
  in1    : Word
  deriving DecidableEq, Repr

/-- A slot of a scrubbed store (R141). -/
def Node.init : Node :=
  { gen := 0, ilen := 0, uflags := 0, live := false, thim := false, rel := false, arity := 0, kind := 0, desc := 0,
    ports := [0, 0, 0, 0], in0 := 0, in1 := 0 }

/-- A message that has arrived in an inbox share (R286, R288, R292). -/
structure Msg where
  net    : Nat
  source : Word
  len    : Nat
  inl    : Bool
  off    : Nat
  taken  : Bool
  ctx    : Nat
  deriving DecidableEq, Repr

/-- An extent of a task or halyard (R349). -/
structure Extent where
  vbase : Nat
  vend  : Nat
  pbase : Nat
  w     : Bool
  warm  : Bool
  range : Nat
  deriving DecidableEq, Repr

/-- The sizes of the shares of a network's partition: request, reply, system (R285). -/
structure Shares where
  req : Nat
  rep : Nat
  sys : Nat
  deriving DecidableEq, Repr

/-- One launch's presence on one core (03 to 06, 14, 19). -/
structure Task where
  live     : Bool
  launch   : Nat
  core     : Nat
  globals  : AMap Word             -- g1 to g7 (R71)
  tvec     : Word
  uivec    : Word
  failed   : Bool
  deque    : List Record           -- resident records, top (oldest) first
  spilled  : List (List Record)    -- blocks of 128, oldest first (R168)
  spillPos : Nat                   -- the place of the oldest block in the circular segment
  reserved : Nat                   -- places reserved by JOIN (R186)
  withheld : List Record           -- R170
  nodes    : AMap Node             -- local slot i at key i, heap slot i at key 2^20 + i
  nlsz     : Nat
  nhsz     : Nat
  nhbase   : Word
  rtbase   : Word
  nkind    : Nat
  dsbase   : Word
  dslim    : Word
  sdom     : Nat
  cbase    : Word
  csize    : Nat                   -- bytes of the code image
  piece    : Nat                   -- base of the carved piece in local data
  locb     : Nat
  locl     : Nat
  spillSz  : Nat
  sq       : Shares                -- send share sizes
  sqUsed   : Shares                -- bytes in use
  ib       : Shares                -- inbox share sizes
  ibOff    : Shares                -- share offsets in space 0x8
  ibRsv    : Nat                   -- reply inbox bytes reserved for replies (R286)
  inbox    : List Msg              -- arrival order
  hlo      : Nat
  hhi      : Nat
  mfault   : Nat
  spread   : Bool
  bind     : AMap (Nat × BitVec 32)  -- local offset to handler index and arg0 (R298)
  pendTrig : List Nat              -- pending triggers, oldest first (R299)
  extents  : List Extent           -- oldest first
  xrefill  : Nat
  asid     : Nat
  xrange   : Word
  binj     : Word
  bcec     : Nat
  ltask    : Word
  tprio    : Word
  ny       : Nat
  deriving DecidableEq, Repr

/-- A task before it is granted a core. -/
def Task.init : Task :=
  { live := false, launch := 0, core := 0, globals := [], tvec := 0, uivec := 0, failed := false,
    deque := [], spilled := [], spillPos := 0, reserved := 0, withheld := [], nodes := [], nlsz := 0, nhsz := 0, nhbase := 0,
    rtbase := 0, nkind := 0, dsbase := 0, dslim := 0, sdom := 0, cbase := 0, csize := 0, piece := 0, locb := 0,
    locl := 0, spillSz := 0, sq := ⟨0, 0, 0⟩, sqUsed := ⟨0, 0, 0⟩, ib := ⟨0, 0, 0⟩, ibOff := ⟨0, 0, 0⟩, ibRsv := 0,
    inbox := [], hlo := 0, hhi := 0, mfault := 0, spread := false, bind := [], pendTrig := [], extents := [],
    xrefill := 0, asid := 0, xrange := 0, binj := 0, bcec := 0, ltask := 0, tprio := 0, ny := 0 }

/-! ### Cores -/

/-- The stage of a splice in the splice unit (R155). -/
inductive SpliceStage where
  | start
  | swapping
  | waitOther
  deriving DecidableEq, Repr

/-- A splice whose second phase runs (R154, R155): dying port x, endpoint y, far end z, and its place in the order of
its context. A meeting may move the node of x meanwhile (R160): `also` are the names that x has got so, and `own` is the one of its
names that the next swap looks for. -/
structure Splice where
  task  : Nat
  ctx   : Nat
  x     : Word
  y     : Word
  z     : Word
  stage : SpliceStage
  order : Nat                      -- its place among its context's stores and packets
  also  : List Word
  own   : Word
  deriving DecidableEq, Repr

/-- A far end that a meeting still has to repoint (R160): the old port, the new port, the far end, the meeting forward that
it was reached through, a swap under way and its answer. `meeting` is the meeting that waits for it. -/
structure Repointing where
  task    : Nat
  old     : Word
  new     : Word
  far     : Word
  via     : Option Word
  stage   : SpliceStage
  meeting : Nat
  deriving DecidableEq, Repr

/-- A meeting under way on a core (R174, R175): the record's references, which of them still move, and who waits:
a strand that dispatches (with the record), or a context at MEET. -/
structure Meeting where
  id     : Nat
  task   : Nat
  strand : Option Nat
  ctx    : Option Nat
  record : Record
  x      : Word
  y      : Word
  toMove : List Bool               -- true: y moves next, false: x moves next
  slot   : Option Nat              -- the slot chosen for the node that is being fetched
  spare  : List Nat                -- the slots chosen for the moves that follow
  movedX : Bool
  movedY : Bool
  failed : Option (Nat × Word)
  later  : Option Node             -- the node that moves second, which left its slot as the first one did
  deriving DecidableEq, Repr

/-- A slot of the yard queue (R212, R213). `owner` is the task that holds the slot, `busy` is set from the issue of
the double-7 store. -/
structure YSlot where
  dbl    : List Word
  busy   : Bool
  deriving DecidableEq, Repr

/-- A free yard queue slot. -/
def YSlot.init : YSlot := { dbl := List.replicate 8 0, busy := false }

/-- The condition of a posted yard command (R216, R222, R224). -/
inductive YStage where
  | posted | waiting | ready | running | displaced | finished
  deriving DecidableEq, Repr

/-- A command posted to a yard queue (R213, R214, R224). `slots` are ring slots taken: ring key, first index, count. -/
structure YCmd where
  launch  : Nat
  slot    : Nat
  dbl     : List Word
  entry   : Option Nat
  stage   : YStage
  reject  : Nat                    -- lowest failed check of a gang command that still has to form (R216)
  kstep   : Nat
  w16     : Nat                    -- w in sixteenths of a k-step unit, that is in cycles (R224)
  m       : Nat
  batchM  : Option Nat
  taken   : List (Nat × Nat × Nat)
  bfmt    : Option (Nat × Nat)     -- table and type of a ring bank side, read as its slot was taken (R219)
  status  : Word
  member  : Bool                   -- its gang has formed
  deriving DecidableEq, Repr

/-- A strand of a core (R71, R72, R82, R178). `yielded` is set by YIELD until the core's next cycle. -/
structure Strand where
  ctx     : Option Nat
  age     : Nat
  yielded : Bool
  meeting : Option Nat
  stealAt : Option Nat             -- the victim index a steal round has reached; none: no round
  asking  : Bool
  round   : Word                   -- the cycle at which its last steal round began (R178)
  resting : Bool                   -- no victim of that round yielded: it waits for a new round
  deriving DecidableEq, Repr

/-- An idle strand. -/
def Strand.init : Strand :=
  { ctx := none, age := 0, yielded := false, meeting := none, stealAt := none, asking := false, round := 0, resting := false }

/-- A core (R71, R80, R106, R154, R212, R357). -/
structure Core where
  cyc       : Word
  cfence    : Bool
  strands   : List Strand
  parked    : List Nat             -- contexts in the park table, in the order they were signalled for resumption
  splices   : List Splice
  repoints  : List Repointing
  meetings  : List Meeting
  stealSq   : Nat                  -- bytes in use of the steal send partition (R285)
  yslots    : AMap YSlot           -- key: launch * 16 + window slot
  yqueue    : List YCmd            -- posting order; the head runs
  deriving DecidableEq, Repr

/-- A core after its reset. -/
def Core.init : Core :=
  { cyc := 0, cfence := false, strands := List.replicate 4 Strand.init, parked := [], splices := [], repoints := [],
    meetings := [], stealSq := 0, yslots := [], yqueue := [] }

/-! ### Masts -/

/-- A bank's holder and format register (R118, R123). -/
structure Bank where
  holder : Option Nat
  pinned : Bool
  table  : Nat
  type   : Nat
  deriving DecidableEq, Repr

/-- A bank that is not held (format register reset, R123). -/
def Bank.init : Bank := { holder := none, pinned := false, table := 0, type := 4 }

/-- A phase pair (R126, R128). `bar` is the offset of its barrier in the mast's bank space, `swapped` says that the
bank numbered `shadow` is the current front, `due` that its phase is complete and waits for the scoreboard entries placed
before that number in mast order, `late` the arrivals that have come since then. -/
structure Pair where
  front   : Nat
  shadow  : Nat
  bar     : Nat
  swapped : Bool
  due     : Option Nat
  late    : List (Nat × Word)
  deriving DecidableEq, Repr

/-- A ring (R132, R133). `coreTaken` are the taken and not released slots that core instructions hold, oldest first;
`released` are released slots beyond `rel`. `waitTake` and `waitResv` are the contexts that wait at QWAIT and QRESV, in
issue order, with their counts (R134). -/
structure Ring where
  base      : Nat
  size      : Nat
  count     : Nat
  rel       : Nat
  take      : Nat
  pub       : Nat
  resv      : Nat
  coreTaken : List Nat
  released  : List Nat
  pubEarly  : List Nat             -- slots published by operations beyond `pub`
  waitTake  : List (Nat × Nat)
  waitResv  : List (Nat × Nat)
  deriving DecidableEq, Repr

/-- An interval of a scoreboard entry, in granules (R196, R197). -/
structure Interval where
  write : Bool
  lo    : Nat
  hi    : Nat
  armed : Bool
  ring  : Option Nat
  place : Nat                      -- of its registration or arming in mast order (R200)
  deriving DecidableEq, Repr

/-- A live scoreboard entry (R197). -/
structure SbEntry where
  id     : Nat
  tag    : BitVec 16
  kind   : Nat
  core   : Nat                     -- core in the mast
  shared : Bool
  launch : Nat
  ivals  : List Interval
  seq    : Nat                     -- of its registration in mast order
  deriving DecidableEq, Repr

/-- An accumulator tile (R211, R227): 1,024 elements row by row (absent elements are zero), the poison bits, and the rows that
carry an uncorrectable error. -/
structure Tile where
  elems  : AMap (BitVec 32)
  poison : BitVec 32
  bad    : BitVec 32
  deriving DecidableEq, Repr

/-- A granted tile. -/
def Tile.init : Tile := { elems := [], poison := 0, bad := 0 }

/-- A piece of an envelope (R257). -/
structure Piece where
  a : Word
  b : Word
  x : Word
  deriving DecidableEq, Repr

/-- An envelope handle (R257 to R259). -/
structure Handle where
  held   : Bool
  cap    : Nat
  void   : Bool
  lo     : Word
  hi     : Word
  pieces : List Piece
  deriving DecidableEq, Repr

/-- A handle that is not held. -/
def Handle.init : Handle := { held := false, cap := 0, void := false, lo := 0, hi := 0, pieces := [] }

/-- The operation of an EA queue place (R268). -/
inductive EaKind where
  | claim | cap | clr | free | ins | max | sum | inf | leg | eval | read | cnt
  deriving DecidableEq, Repr

/-- What an EA operation is going to do at its commit (R264, R265). -/
inductive EaResult where
  | commit (h : Handle)
  | write (bytes : List Byte)
  | value (w : Word)
  | claimed (h : Handle) (w : Word)
  | nothing
  | overflow (need : Nat)
  | fault (cause : Nat) (addr info : Word)
  deriving DecidableEq, Repr

/-- A place of the EA queue (R264, R270 to R275). Handles are names; `n` is the count, cap or budget. -/
structure EaOp where
  ctx    : Nat
  launch : Nat
  kind   : EaKind
  ed     : Nat
  ex     : Nat
  ey     : Nat
  a      : Word
  n      : Word
  hi     : Word
  etol   : Word
  entry  : Option Nat
  tag    : BitVec 16
  result : Option EaResult
  deriving DecidableEq, Repr

/-- The functions of the special-function queue (R253). -/
inductive SfFn where
  | exp2 | log2 | rcp | rsq | tanh
  deriving DecidableEq, Repr

/-- A special-function request (R254). -/
structure SfReq where
  launch  : Nat
  fn      : SfFn
  dst     : Nat
  src     : Nat
  n       : Nat
  entry   : Nat
  started : Bool
  wrote   : Nat                     -- elements written
  deriving DecidableEq, Repr

/-- A move of a halyard's datapath (R312). `order` is its place among its hart's stores and packets, `rel` the place of the last
releasing FENCE before it (R318, R331). -/
structure Move where
  src   : Word
  dst   : Word
  mode  : Nat
  n     : Nat
  order : Nat
  rel   : Nat
  deriving DecidableEq, Repr

/-- A journalled transfer (R308, R309). -/
structure Transfer where
  slot    : Nat
  id      : BitVec 16
  launch  : Nat
  task    : Nat
  ctx     : Nat
  hsrc    : Word
  hdst    : Word
  hlen    : Word
  hstr    : Word
  harg    : Word
  kernel  : Nat
  mbox    : Word
  bar     : Word
  hand    : Word
  irq     : Bool
  htype   : Nat
  budget  : Nat
  arg2    : Word
  rlo     : Word
  rlen    : Nat
  wlo     : Word
  wlen    : Nat
  entry   : Nat
  copy    : Option (Nat × Word)     -- the copy of NOWN or NDUP: the waiting context and its spare address
  told    : Bool                    -- only its event is still to come: its launch was pre-empted after its barrier (R317, R319)
  deriving DecidableEq, Repr

/-- The condition of a halyard's running transfer: it runs, has ended, its entry has retired, its mailbox and barrier have been
written (R317). -/
inductive HyStage where
  | idle | running | ended | retired | reported
  deriving DecidableEq, Repr

/-- A halyard (R303, R308, R311 to R316). -/
structure Halyard where
  journal  : List Transfer
  seq      : Nat
  stage    : HyStage
  hart     : Nat                    -- its hart's context number; 0 when none runs
  plan     : List Move              -- what a shipped kernel still has to move
  queue    : List Move              -- moves queued, oldest first, at most eight
  flags    : Nat                    -- OR of the flags of performed moves (R314): bit 1 derr, bit 2 overflow
  packOff  : Nat                    -- bytes written so far by ZPACK or read by ZUNPACK
  fault    : Option (Nat × Word)
  derrAddr : Word
  user     : Byte
  mvsrc    : Word
  mvdst    : Word
  ixLines  : List (List (BitVec 32))  -- index lines that have landed
  ixCur    : List (BitVec 32)
  extents  : List Extent
  deriving DecidableEq, Repr

/-- An idle halyard. -/
def Halyard.init : Halyard :=
  { journal := [], seq := 0, stage := .idle, hart := 0, plan := [], queue := [], flags := 0, packOff := 0, fault := none,
    derrAddr := 0, user := 0, mvsrc := 0, mvdst := 0, ixLines := [], ixCur := [], extents := [] }

/-- What a launch is granted on a mast (R118, R124, R132, R211, R229, R259, R305). -/
structure Grant where
  banks  : List Nat
  rings  : Nat
  tiles  : Nat
  bars   : Nat
  env    : Nat × Nat
  ctabs  : List Nat
  ucode  : Nat × Nat                -- first unit and number of units
  deriving DecidableEq, Repr

/-- No grant. -/
def Grant.init : Grant :=
  { banks := [], rings := 0, tiles := 0, bars := 0, env := (0, 0), ctabs := [], ucode := (0, 0) }

/-- Who waits for a scoreboard entry (R204, R209): a context at an instruction, a context's double-7 store at its drain, or a launch
that resumes. -/
inductive SbWaiter where
  | issue (ctx : Nat)
  | drain (ctx : Nat)
  | resume (launch : Nat)
  deriving DecidableEq, Repr

/-- A mast (04, 08, 09, 11, 12, 15). -/
structure Mast where
  grants   : AMap Grant             -- by launch
  banks    : AMap Bank
  pairs    : List Pair
  rings    : AMap Ring              -- key: launch * 32 + name
  ctab     : AMap Word
  sb       : List SbEntry           -- in mast order
  nextSb   : Nat
  sbWait   : List (Nat × SbWaiter)    -- waiting registrations, oldest first: core in the mast, and who waits (R204)
  reefWait : List Nat               -- contexts whose resumption waits for reefs, oldest first (R242)
  trackers : List (Nat × Nat)       -- armed barrier objects: launch and physical offset
  tiles    : AMap Tile              -- key: launch * 32 + yard * 8 + name
  running  : List (Option Nat)      -- per yard, the core whose head runs
  handles  : AMap Handle            -- key: launch * 16 + name
  eaQueue  : List EaOp
  eaCount  : BitVec 16
  sfQueue  : List SfReq
  sfCount  : BitVec 16
  hy0      : Halyard
  hy1      : Halyard
  deriving DecidableEq, Repr

/-- A mast after bring-up, with nothing granted. -/
def Mast.init : Mast :=
  { grants := [], banks := [], pairs := [], rings := [], ctab := [], sb := [], nextSb := 0, sbWait := [], reefWait := [], trackers := [], tiles := [],
    running := [none, none, none, none], handles := [], eaQueue := [], eaCount := 0, sfQueue := [], sfCount := 0,
    hy0 := Halyard.init, hy1 := Halyard.init }

/-! ### The network -/

/-- The operation of a remote atomic (R296). -/
inductive AtomOp where
  | add | cas | xch | min | minN | max | maxN | and | or
  deriving DecidableEq, Repr

/-- What a packet carries (R280). -/
inductive PKind where
  | msg (bytes : List Byte) (inl : Bool)
  | rstore (ea : Word) (bytes : List Byte)
  | arrival (ea status : Word)
  | atomic (op : AtomOp) (ea v nw : Word) (trig posted : Bool) (key : Nat)  -- key: the translated place of a heap atomic
  | join (ea : Word)
  | answer (dest : Nat) (a : Answer)        -- the reply to a request of context `to`
  | fetch (meeting : Nat) (node other newRef : Word) (held : Bool)  -- held: received, and waiting for a LOCKED port
  | fetched (meeting : Nat) (node : Option Node) (cause : Nat)
  | swap (t old new : Word) (repoint : Bool)
  | swapped (t old new : Word) (repoint : Bool) (found : Option Word)
  | handoff (r : Record)
  | stealReq (strand : Nat)
  | stealRep (strand : Nat) (rs : List Record)
  | errReply
  | sysMsg (channel : Nat) (bytes : List Byte)
  | hostRead (ea : Word)
  deriving DecidableEq, Repr

/-- A packet in flight (R280, R283, R286). `src` and `dst` are core numbers; a mast is named by a core of it, the memory
controller of stack s by 32,768 + s, the host port by 32,776 and CP c by 65,536 + c. `net` is the code of R280. `order` is its place among its context's stores and packets, `left` says that its
last flit has left the core's router. -/
structure Packet where
  id     : Nat
  net    : Nat
  src    : Nat
  dst    : Nat
  launch : Nat
  ctx    : Nat
  order  : Nat
  rel    : Nat
  bytes  : Nat                      -- bytes of a send share that it occupies
  flits  : Nat                      -- its length in 32-byte flits
  left   : Bool
  kind   : PKind
  deriving DecidableEq, Repr

/-! ### Launches, queues and the device -/

/-- A declared range (R348). -/
structure Range where
  vbase : Nat
  len   : Nat
  kind  : Nat
  w     : Bool
  deriving DecidableEq, Repr

/-- The life of a launch (R364 to R369). -/
inductive LStatus where
  | none | checked | resident | preempted | finished
  deriving DecidableEq, Repr

/-- Which unit failed a launch, and with which cause and values (R367, R368). -/
structure Failure where
  cause : Nat
  user  : Nat
  core  : Nat
  addr  : Word
  info  : Word
  deriving DecidableEq, Repr

/-- What the CP saves of a pre-empted launch beside the state that stays under the launch's own numbers (R122, R209, R254,
R267, R301, R319, R369). Lists pair a mast, a core or a halyard with what is saved of it. -/
structure Saved where
  ctxs     : List (Nat × CtxStatus)
  banks    : List (Nat × Nat × Nat × Nat)    -- mast, bank, format register
  pairs    : List (Nat × Pair)
  trackers : List (Nat × Nat)                -- mast, physical offset
  mem      : List Host.Cell                  -- unpinned banks, local pieces and inbox runs
  ecc      : AMap Bool
  entries  : List (Nat × Nat × List Word)    -- mast, number and the form of R197, in mast order
  extents  : List (Nat × List Word)          -- task, and an extent in the form of R349, oldest first
  shot     : Bool                            -- a shootdown of the ASID has taken place since (R354)
  yards    : List (Nat × YCmd)               -- core
  eaOps    : List (Nat × EaOp)
  sfReqs   : List (Nat × SfReq)
  moves    : List (Nat × Nat × Transfer)     -- mast, halyard
  deriving DecidableEq, Repr

/-- Nothing saved. -/
def Saved.init : Saved :=
  { ctxs := [], banks := [], pairs := [], trackers := [], mem := [], ecc := [], entries := [], extents := [],
    shot := false, yards := [], eaOps := [], sfReqs := [], moves := [] }

/-- A launch (R362 to R369). -/
structure Launch where
  status   : LStatus
  queue    : Nat
  seq      : Nat
  ring     : Nat                    -- ring index of its record
  part     : Nat
  prio     : Nat
  img      : Option Image
  ranges   : List Range
  root     : Nat
  asid     : Nat
  imageVa  : Word
  doneVa   : Word
  hbindVa  : Word
  sdom     : Nat
  params   : List Word
  consts   : AMap Word              -- the constant bank (R27)
  hostbind : AMap Word              -- R154
  kernels  : AMap Nat               -- bound kernel numbers (R305): byte offset in the launch's units
  failure  : Option Failure
  killed   : Bool
  drops    : Nat
  yrej     : Nat
  arrdrop  : Nat
  sfcan    : Nat
  evdrop   : Nat
  tdrop    : Nat
  disp     : Nat                    -- its place in the order of dispatch (R366)
  why      : Nat                    -- pre-emption asked for or done: 0 none, 1 priority, 2 host, 3 watchdog (R369)
  saved    : Saved
  code     : Nat                    -- the status code written at completion (R367)
  deriving DecidableEq, Repr

/-- A launch number that is not in use. -/
def Launch.init : Launch :=
  { status := .none, queue := 0, seq := 0, ring := 0, part := 0, prio := 0, img := none, ranges := [], root := 0,
    asid := 0, imageVa := 0, doneVa := 0, hbindVa := 0, sdom := 0, params := [], consts := [], hostbind := [],
    kernels := [], failure := none, killed := false, drops := 0, yrej := 0, arrdrop := 0, sfcan := 0, evdrop := 0,
    tdrop := 0, disp := 0, why := 0, saved := Saved.init, code := 0 }

/-- A launch queue as its CP holds it (R359, R371). -/
structure Queue where
  live    : Bool
  descPa  : Nat
  base    : Nat
  head    : Nat
  tail    : Nat
  fenced  : Bool
  halted  : Bool
  failed  : Bool                    -- a gang queue halted by a failure (R368, R372)
  part    : Nat
  prio    : Nat
  lgsize  : Nat
  lim1    : Word
  lim2    : Word
  lim3    : Word
  mbase   : Nat
  mhost   : Nat
  mcp     : Nat
  fhead   : Nat
  lgm     : Nat
  wcount  : Word                    -- the watchdog count (R371)
  wstep   : Nat                     -- the last watchdog step taken
  deriving DecidableEq, Repr

/-- A queue number that is not in use. -/
def Queue.init : Queue :=
  { live := false, descPa := 0, base := 0, head := 0, tail := 0, fenced := false, halted := false, failed := false, part := 0, prio := 0,
    lgsize := 0, lim1 := 0, lim2 := 0, lim3 := 0, mbase := 0, mhost := 0, mcp := 0, fhead := 0, lgm := 0, wcount := 0,
    wstep := 0 }

/-- A partition (R358, R410). -/
structure Partition where
  live   : Bool
  gang   : Bool
  vf     : Option Nat
  x0     : Nat
  y0     : Nat
  w      : Nat
  h      : Nat
  slices : List Nat                 -- 32 * stack + slice
  deriving DecidableEq, Repr

/-- A partition number that is not in use. -/
def Partition.init : Partition :=
  { live := false, gang := false, vf := none, x0 := 0, y0 := 0, w := 0, h := 0, slices := [] }

/-- A function's control page (R392). -/
structure CtlPage where
  carg : List Word
  cres : Word
  run  : Option (Nat × List Word)   -- the command that runs, and its arguments: cstat.busy
  deriving DecidableEq, Repr

/-- A control page after reset. -/
def CtlPage.init : CtlPage := { carg := [0, 0, 0, 0], cres := 0, run := none }

/-- The RISC-V hart of a command processor (R356), with the registers that the RISC-V unprivileged and privileged architecture give it
(PRESUMED, log entry 79). -/
structure Hart where
  x             : AMap Word         -- x1 to x31
  f             : AMap Word         -- f0 to f31
  pc            : Word
  mode          : Nat               -- 0 U, 1 S, 3 M
  fcsr          : Word              -- fflags [4:0], frm [7:5]
  mstatus       : Word              -- the fields that are not fixed
  medeleg       : Word
  mideleg       : Word
  mie           : Word
  mip           : Word
  mtvec         : Word
  mcounteren    : Word
  mcountinhibit : Word
  menvcfg       : Word
  mscratch      : Word
  mepc          : Word
  mcause        : Word
  mtval         : Word
  mcycle        : Word              -- R16: its own cycles
  minstret      : Word
  stvec         : Word
  scounteren    : Word
  senvcfg       : Word
  sscratch      : Word
  sepc          : Word
  scause        : Word
  stval         : Word
  satp          : Word
  resv          : Option (Nat × List Byte)   -- the reservation of LR: its place and what was read there
  deriving DecidableEq, Repr

/-- A hart that starts at an address: in M mode, with interrupts off. -/
def Hart.start (pc : Word) : Hart :=
  { x := [], f := [], pc := pc, mode := 3, fcsr := 0, mstatus := 0, medeleg := 0, mideleg := 0, mie := 0, mip := 0, mtvec := 0
    mcounteren := 0, mcountinhibit := 0, menvcfg := 0, mscratch := 0, mepc := 0, mcause := 0, mtval := 0, mcycle := 0, minstret := 0
    stvec := 0, scounteren := 0, senvcfg := 0, sscratch := 0, sepc := 0, scause := 0, stval := 0, satp := 0, resv := none }

/-- A command processor (R356, R373). -/
structure Cp where
  fwsv    : BitVec 16
  lnkrt   : Word
  cxsel   : Word
  cxdata  : Word                    -- what its last read of a device CSR gave
  swap    : Nat                     -- swapctl [2:0]
  swapRes : Nat                     -- swapctl [7:4]
  served  : Bool                    -- its queues are served by its partner
  newVer  : BitVec 16               -- the version under verification
  oldVer  : BitVec 16               -- of the previous image, kept until take-back
  image   : Word                    -- the physical address of the new image
  entry   : Word                    -- the entry address of the image on which it last restarted (R373)
  oldEntry : Word                   -- of the previous image, kept until take-back
  hart    : Hart
  deriving DecidableEq, Repr

/-- A CP after reset (R356). -/
def Cp.init : Cp :=
  { fwsv := Config.bootVersion, lnkrt := 1500000, cxsel := 0, cxdata := 0, swap := 0, swapRes := 0,
    served := false, newVer := 0, oldVer := 0, image := 0, entry := Config.bootEntry, oldEntry := 0, hart := Hart.start Config.bootEntry }

/-- The security controller (R373, R374, R401). -/
structure SecCtl where
  available : Bool
  sessKeys  : Bool
  wrapKey   : Bool
  badVerify : Nat
  logged    : Nat
  attest    : Bool
  deriving DecidableEq, Repr

/-- A SPUT under way: its context and pc, and the element count at which it has sent all of its own (R386). -/
structure Sending where
  ctx  : Nat
  pc   : Word
  goal : Nat
  deriving DecidableEq, Repr

/-- A stream of a tackle (R385 to R388). `held` says that its handle names it, `opened` that the peer's matching SOPEN has
come, `key` is where its block lies in memory. -/
structure Stream where
  id     : Nat                      -- the model's own number of the stream
  tackle : Nat
  handle : Nat
  held   : Bool
  core   : Nat
  launch : Nat
  ctx    : Nat
  sid    : Nat
  block  : Word
  key    : Nat
  dbl    : List Word
  dir    : Nat
  q      : Nat
  win    : Nat
  etype  : Nat
  total  : Nat
  moved  : Nat
  opener : Word                     -- the pc of its SOPEN
  sends  : List Sending             -- the SPUTs under way
  tx     : List (List Byte)         -- tokens that SPUTs have read and not sent yet, oldest first
  stage  : List Byte                -- elements that a SGET has taken out of the window while it waits for the rest
  writers : List Nat                -- the contexts that have written elements of it, with the one that opened it
  acked  : Nat
  credit : Nat                      -- free slots of the peer's window
  opened : Bool
  code   : Nat
  peerEnd : Bool                    -- the peer's close has come
  rx     : List (List Byte)         -- tokens received and not yet taken, oldest first
  rxPart : List Byte                -- the bytes of a token whose last flit has not come yet
  deriving DecidableEq, Repr

/-- A tackle (R380 to R383). -/
structure Tackle where
  holder : Option Nat
  slots  : AMap Nat                 -- graph queue number to its slot count
  queues : AMap (List (List Byte))  -- published tokens of each graph queue, oldest first
  graph  : List GOp
  stop   : Bool                     -- the graph has stopped (R383)
  ctxs   : List Nat                 -- streamer contexts of cores 0 to 2
  deriving DecidableEq, Repr

/-- A tackle that is not granted. -/
def Tackle.init : Tackle := { holder := none, slots := [], queues := [], graph := [], stop := false, ctxs := [] }

/-- A shroud link (R377 to R379). -/
structure Shroud where
  lanes    : Nat
  up       : Bool
  training : Bool
  peers    : List Flit              -- peer SOPENs that no local SOPEN has met yet
  sent     : List Flit              -- flits sent to the peer, oldest first
  acked    : Nat                    -- how many of them the peer's end has acknowledged (R377)
  deriving DecidableEq, Repr

/-- A shroud before bring-up. -/
def Shroud.init : Shroud := { lanes := 0, up := false, training := false, peers := [], sent := [], acked := 0 }

/-- A long link (R284). -/
structure LongLink where
  up       : Bool
  training : Bool
  rerouted : Bool
  share    : AMap Nat               -- by partition: its credits on each network and direction, in flits (R282)
  deriving DecidableEq, Repr

/-- A long link before bring-up. -/
def LongLink.init : LongLink := { up := false, training := false, rerouted := false, share := [] }

/-- What the platform holds (22_platform.md). -/
structure Platform where
  stage     : Nat
  ready     : Bool
  stageDone : Bool                  -- the work of the current stage has ended well
  held      : Bool                  -- the device stays at this stage (R396, R397)
  fuses     : AMap Nat              -- key: quadrant * 16 + column; the fused-off row (R396)
  sensors   : AMap Nat              -- key: quadrant * 8 + sensor; the junction temperature last read, in degrees C (R399)
  throttled : List Bool             -- per quadrant, thermal (R399)
  capThrot  : Bool                  -- power cap (R400)
  pcap      : Byte
  capmiss   : Bool
  coldOnly  : Bool                  -- a thermal trip has asked for a cold reset (R399)
  i3cAddr   : Option Nat
  tapIr     : Nat                   -- 0 BYPASS, 1 IDCODE, 2 SAMPLE/PRELOAD, 3 EXTEST
  tapDr     : BitVec 32             -- the data register the last TAP instruction selected
  debug     : Bool                  -- a debug unlock with the right token has come (R401)
  msix      : List (Nat × Nat)      -- interrupts raised: function, vector; newest first
  aer       : Nat                   -- errors logged through AER (R394)
  reports   : List (Nat × Nat × Nat)  -- reports of the CPs to the host: kind, launch or port, value; newest first
  deriving DecidableEq, Repr

/-- The platform at power-on: nothing has run yet. -/
def Platform.init : Platform :=
  { stage := 0, ready := false, stageDone := false, held := false, fuses := [], sensors := [], throttled := [false, false, false, false],
    capThrot := false, pcap := 0, capmiss := false, coldOnly := false, i3cAddr := none, tapIr := 1,
    tapDr := 0x1D192F2F#32, debug := false, msix := [], aer := 0, reports := [] }

/-- Where an event happens: the one or two numbers that name its unit (a context, packet, core, mast, queue, ...), in the
order that `Instr` lists them. -/
structure Place where
  a : Nat
  b : Nat
  deriving DecidableEq, Repr

/-- Who acts next (the model's own; log entry 1). -/
inductive Turn where
  /-- A cycle of this core: the ready strand of the highest effective priority issues (R72). `stalled` are the strands that
  the core's timing keeps from being ready in this cycle (R73, log entry 13). -/
  | issue (core : Nat) (stalled : List Nat)
  /-- This event happens at this place. -/
  | event (i : Instr) (p : Place)
  /-- The host writes a command code that R361 does not list to the control page of a function (R392). -/
  | ccmd (fn : Nat) (code : Byte)
  /-- The hart of this command processor takes an interrupt, or executes one instruction (R356, log entry 79). -/
  | cp (n : Nat)
  deriving DecidableEq, Repr

/-- The agent that issues: its core number, context, task and launch. Core numbers from 8,192 name tackle cores
(8192 + 8 * tackle + core) and from 16,384 halyard harts (16384 + 2 * mast + halyard). -/
structure Cur where
  core   : Nat
  ctx    : Nat
  task   : Nat
  launch : Nat
  deriving DecidableEq, Repr

/-- The whole device. -/
structure State where
  mem      : List Host.Cell
  ecc      : AMap Bool              -- doubles with wrong check bits: true uncorrectable, false correctable (R129)
  cur      : Cur
  ctxs     : AMap Context
  tasks    : AMap Task              -- key: launch * 65536 + core
  cores    : AMap Core
  masts    : AMap Mast
  launches : AMap Launch
  roots    : AMap Word              -- the ASID root table (R347); an ASID that is not listed is not valid
  net      : List Packet            -- in flight, in the order sent
  queues   : AMap Queue
  parts    : AMap Partition
  pages    : AMap CtlPage           -- by function: 0 and 1 physical, 2 + v virtual function v
  cps      : AMap Cp
  sec      : SecCtl
  tackles  : AMap Tackle
  streams  : List Stream
  shrouds  : AMap Shroud
  links    : AMap LongLink          -- by quadrant pair: 4 * lower + higher
  plat     : Platform
  agenda   : List Turn
  place    : Place                  -- of the event that happens
  nextCtx  : Nat
  nextPkt  : Nat
  nextId   : Nat
  freeCtr  : Nat
  deriving DecidableEq, Repr

/-- The device right after power-on reset (R392, R397): bring-up has not begun its first stage, nothing is granted,
no context, queue or partition exists, and memory lists nothing. -/
def State.reset : State :=
  { mem := [], ecc := [], cur := ⟨0, 0, 0, 0⟩, ctxs := [], tasks := [], cores := [], masts := [], launches := [], roots := [],
    net := [], queues := [], parts := [], pages := [], cps := [],
    sec := { available := true, sessKeys := true, wrapKey := true, badVerify := 0, logged := 0, attest := true },
    tackles := [], streams := [], shrouds := [], links := [], plat := Platform.init,
    agenda := [], place := ⟨0, 0⟩, nextCtx := 1, nextPkt := 0, nextId := 0, freeCtr := 0 }

end Sys2Proof.Machine
end

