-- ==== Sys2Proof/Machine/Ops.lean ====
section
/-! DEFINITION. The named operations over the state that the meanings share: entities, registers, windows, taking a trap
and returning from one, waiting, addresses and their checks, memory, the store buffer and the scoreboard's conflicts. -/

namespace Sys2Proof.Machine

/-! ### How a meaning ends -/

/-- How a meaning stops before its effect: a trap of R83, a wait of R80, or an event that does not happen here. -/
inductive Stop where
  | trap (cause : Nat) (addr info : Word)
  | wait
  | off
  deriving DecidableEq, Repr

/-- A meaning's computation: a value, or a stop. -/
abbrev Ex (α : Type) := Except Stop α

/-- Stops with a trap. -/
def trapX {α : Type} (cause : Nat) (addr info : Word) : Ex α := .error (.trap cause addr info)

/-- Waits at the instruction: restartable there (R80). -/
def waitX {α : Type} : Ex α := .error .wait

/-- The event does not happen here. -/
def offX {α : Type} : Ex α := .error .off

/-- Stops with `e` unless the condition holds. -/
def need (c : Bool) (e : Stop) : Ex Unit := if c then .ok () else .error e

/-! ### Entities -/

/-- The engine of a core number. -/
def engineOf (core : Nat) : Engine := if core < 8192 then .mast else if core < 16384 then .tackle else .hart

/-- The mast (or 1,024 + tackle) of a core number (R4). -/
def mastOf (core : Nat) : Nat :=
  match engineOf core with
  | .mast => core / 8
  | .tackle => 1024 + (core - 8192) / 8
  | .hart => (core - 16384) / 2

/-- The quadrant of a mast core (R4). -/
def quadOf (core : Nat) : Nat := (core / 4096) * 2 + (core / 8 % 32) / 16

/-- The key of a launch's task on a core. -/
def taskKey (launch core : Nat) : Nat := launch * 65536 + core

/-- The context that acts. -/
def State.ctx (s : State) : Context := s.ctxs.get s.cur.ctx Context.init

/-- The task of the context that acts. -/
def State.task (s : State) : Task := s.tasks.get s.cur.task Task.init

/-- The core that acts. -/
def State.core (s : State) : Core := s.cores.get s.cur.core Core.init

/-- The mast of the core that acts. -/
def State.mast (s : State) : Mast := s.masts.get (mastOf s.cur.core) Mast.init

/-- The launch of the context that acts. -/
def State.launch (s : State) : Launch := s.launches.get s.cur.launch Launch.init

/-- Replaces the context that acts. -/
def State.setCtx (s : State) (c : Context) : State := { s with ctxs := s.ctxs.set s.cur.ctx c }

/-- Replaces the task of the context that acts. -/
def State.setTask (s : State) (t : Task) : State := { s with tasks := s.tasks.set s.cur.task t }

/-- Replaces the core that acts. -/
def State.setCore (s : State) (c : Core) : State := { s with cores := s.cores.set s.cur.core c }

/-- Replaces the mast of the core that acts. -/
def State.setMast (s : State) (m : Mast) : State := { s with masts := s.masts.set (mastOf s.cur.core) m }

/-- Replaces the launch of the context that acts. -/
def State.setLaunch (s : State) (l : Launch) : State := { s with launches := s.launches.set s.cur.launch l }

/-- A context by number. -/
def State.ctxAt (s : State) (c : Nat) : Context := s.ctxs.get c Context.init

/-- A task by key. -/
def State.taskAt (s : State) (k : Nat) : Task := s.tasks.get k Task.init

/-- A core by number. -/
def State.coreAt (s : State) (c : Nat) : Core := s.cores.get c Core.init

/-- A mast by number. -/
def State.mastAt (s : State) (m : Nat) : Mast := s.masts.get m Mast.init

/-- A launch by number. -/
def State.launchAt (s : State) (l : Nat) : Launch := s.launches.get l Launch.init

/-- Replaces a context by number. -/
def State.putCtx (s : State) (k : Nat) (c : Context) : State := { s with ctxs := s.ctxs.set k c }

/-- Replaces a task by key. -/
def State.putTask (s : State) (k : Nat) (t : Task) : State := { s with tasks := s.tasks.set k t }

/-- Replaces a core by number. -/
def State.putCore (s : State) (k : Nat) (c : Core) : State := { s with cores := s.cores.set k c }

/-- Replaces a mast by number. -/
def State.putMast (s : State) (k : Nat) (m : Mast) : State := { s with masts := s.masts.set k m }

/-- Replaces a launch by number. -/
def State.putLaunch (s : State) (k : Nat) (l : Launch) : State := { s with launches := s.launches.set k l }

/-- The state with a context as the one that acts. -/
def State.focus (s : State) (c : Nat) : State :=
  { s with cur := ⟨(s.ctxAt c).core, c, (s.ctxAt c).task, (s.ctxAt c).launch⟩ }

/-- The state with a task's core as the one that acts, and no context. -/
def State.focusTask (s : State) (k : Nat) : State :=
  { s with cur := ⟨(s.taskAt k).core, 0, k, (s.taskAt k).launch⟩ }

/-- The engine that acts. -/
def State.engine (s : State) : Engine := engineOf s.cur.core

/-- The number of the mast that acts. -/
def State.mastNo (s : State) : Nat := mastOf s.cur.core

/-- Takes a fresh free value (log entry 2). -/
def State.takeFree (s : State) : Word × State := (Config.freeValue s.freeCtr, { s with freeCtr := s.freeCtr + 1 })

/-! ### Registers (R21, R71, R74, R75) -/

/-- Reads a register: w names an entry of the window, g0 is zero, g1 to g7 belong to the task. -/
def State.reg (s : State) : Reg → Word
  | .w i => s.ctx.file.get ((s.ctx.base + i.val) % 128) 0
  | .g i => if i.val = 0 then 0 else s.task.globals.get i.val 0

/-- Writes a register; a write to g0 is discarded. -/
def State.setReg (s : State) (r : Reg) (v : Word) : State :=
  match r with
  | .w i => s.setCtx { s.ctx with file := s.ctx.file.set ((s.ctx.base + i.val) % 128) v }
  | .g i => if i.val = 0 then s else s.setTask { s.task with globals := s.task.globals.set i.val v }

/-- The program counter of the context that acts. -/
def State.pc (s : State) : Word := s.ctx.pc

/-- Jumps. -/
def State.setPc (s : State) (a : Word) : State := s.setCtx { s.ctx with pc := a }

/-- Goes on behind an instruction of `n` words. -/
def State.advance (s : State) (n : Nat) : State := s.setPc (s.pc + Word.of (4 * n))

/-- Writes a result and goes on behind an instruction of `n` words. -/
def State.result (s : State) (n : Nat) (d : Reg) (v : Word) : State := (s.setReg d v).advance n

/-! ### Keys of memory (log entry 4) -/

/-- The key of a byte of a core's local space (R107, R110). -/
def localKey (core off : Nat) : Nat := 2 ^ 60 + core * 2 ^ 17 + off

/-- The key of a byte of a mast's bank space, or of a tackle's SRAM (R107, R380). -/
def bankKey (mast off : Nat) : Nat := 2 ^ 61 + mast * 2 ^ 20 + off

/-- The key of a byte of a mast's halyard microcode memory (R305). -/
def ucodeKey (mast off : Nat) : Nat := 2 ^ 62 + mast * 2 ^ 13 + off

/-- The keys below 2^52 are physical addresses (R345). -/
def isHostKey (k : Nat) : Bool := decide (2 ^ 51 ≤ k) && decide (k < 2 ^ 52)

/-- The halyard number of a hart core. -/
def hyNo (core : Nat) : Nat := (core - 16384) % 2

/-- A halyard of a mast. -/
def Mast.hy (m : Mast) (h : Nat) : Halyard := if h = 0 then m.hy0 else m.hy1

/-- Replaces a halyard of a mast. -/
def Mast.setHy (m : Mast) (h : Nat) (y : Halyard) : Mast := if h = 0 then { m with hy0 := y } else { m with hy1 := y }

/-- Whether every move that context `c` has queued before place `ord` of its stores and packets has been performed. A hart and its
moves are one agent, whose stores, packets and loads follow its earlier moves (R318, R322, R325); other contexts queue none. -/
def State.movesDone (s : State) (c ord : Nat) : Bool :=
  match engineOf (s.ctxAt c).core with
  | .hart => ((s.mastAt (mastOf (s.ctxAt c).core)).hy (hyNo (s.ctxAt c).core)).queue.all fun v => decide (ord ≤ v.order)
  | _ => true

/-- Whether every move that the context that acts has queued has been performed. -/
def State.moved (s : State) : Bool := s.movesDone s.cur.ctx s.ctx.order

/-! ### Failing a launch (R85, R368) -/

/-- Tells the CP that a task of the launch has failed: the first failure is kept. -/
def State.failLaunch (s : State) (l : Nat) (f : Failure) : State :=
  let la := s.launchAt l
  if la.failure = none then s.putLaunch l { la with failure := some f } else s

/-- Marks the tasks that a failure is about: their records and messages are not dispatched any more (R170). -/
def State.markFailed (s : State) (f : Task → Bool) : State :=
  { s with tasks := s.tasks.map fun p => if f p.2 then (p.1, { p.2 with failed := true }) else p }

/-- Marks a task as failed and tells the CP (R170). -/
def State.failTask (s : State) (k : Nat) (cause : Nat) (addr info : Word) : State :=
  let t := s.taskAt k
  (s.putTask k { t with failed := true }).failLaunch t.launch ⟨cause, 0, t.core, addr, info⟩

/-! ### Check bits and plain writes (R129, R130) -/

/-- The keys of the doubles that [k, k + n) touches. -/
def dblKeys (k n : Nat) : List Nat := if n = 0 then [] else (List.range ((k + n - 1) / 8 - k / 8 + 1)).map (k / 8 + ·)

/-- Whether a double in [k, k + n) is uncorrectable; the first such key. -/
def State.badDouble (s : State) (k n : Nat) : Option Nat :=
  (dblKeys k n).find? fun d => s.ecc.has d && s.ecc.get d false

/-- The mast of a bank key. -/
def bankKeyMast (k : Nat) : Nat := (k - 2 ^ 61) / 2 ^ 20

/-- Whether a key lies in bank space. -/
def isBankKey (k : Nat) : Bool := decide (2 ^ 61 ≤ k) && decide (k < 2 ^ 62)

/-- Counts `n` corrected errors for the launch that holds the bank (R129, R131). -/
def State.countCorrected (s : State) (key n : Nat) : State :=
  if n = 0 || !isBankKey key then s
  else
    let m := bankKeyMast key
    match ((s.mastAt m).banks.get ((key - 2 ^ 61) % 2 ^ 20 / 65536) Bank.init).holder with
    | none => s
    | some l => { s with tasks := s.tasks.map fun p =>
        if p.2.launch = l && mastOf p.2.core = m && p.2.live then
          (p.1, { p.2 with bcec := Nat.min (p.2.bcec + n) (2 ^ 32 - 1) }) else p }

/-- The check bits after a write of [k, k + n): a double written whole is correct; a part of an uncorrectable double
leaves it so; a part of a correctable double corrects it (R129). -/
def eccAfterWrite (ecc : AMap Bool) (k n : Nat) : AMap Bool :=
  ecc.filter fun p => !(decide (k < 8 * p.1 + 8) && decide (8 * p.1 < k + n)
    && (!p.2 || (decide (k ≤ 8 * p.1) && decide (8 * p.1 + 8 ≤ k + n))))

/-- The correctable doubles that a partial write of [k, k + n) corrects. -/
def partialCorrected (ecc : AMap Bool) (k n : Nat) : Nat :=
  (ecc.filter fun p => decide (k < 8 * p.1 + 8) && decide (8 * p.1 < k + n) && !p.2
    && !(decide (k ≤ 8 * p.1) && decide (8 * p.1 + 8 ≤ k + n))).length

/-- The first double of the line that an armed injection names (R130). A bank number of a swapped pair names the physical bank
of that number (log entry 67). -/
def binjKey (mast : Nat) (b : Word) : Nat := bankKey mast (bits b 51 48 * 65536 + bits b 41 32 * 64)

/-- Takes the injections that a write of [k, k + n) meets (R130): the named double gets check bits that are wrong in the
chosen bits, or right where the mask is zero. -/
def State.inject (s : State) (k n : Nat) : State :=
  if !isBankKey k then s
  else
    let m := bankKeyMast k
    let hit (t : Task) : Bool := t.live && decide (mastOf t.core = m) && bit t.binj 63
      && decide (k < binjKey m t.binj + 64) && decide (binjKey m t.binj < k + n)
    let mark (e : AMap Bool) (t : Task) : AMap Bool :=
      let w := popcN 8 (bits t.binj 7 0)
      let d := binjKey m t.binj / 8 + bits t.binj 10 8
      if w = 0 then e.filter fun p => decide (p.1 ≠ d) else AMap.set e d (decide (w % 2 = 0))
    { s with
      tasks := s.tasks.map fun p => if hit p.2 then (p.1, { p.2 with binj := setBits p.2.binj 63 63 0 }) else p
      ecc := (s.tasks.filter fun p => hit p.2).foldl (fun e p => mark e p.2) s.ecc }

/-- Writes bytes at a key: the bytes, their check bits, and the injections they meet. Every agent's write ends here. -/
def State.write (s : State) (k : Nat) (bs : List Byte) : State :=
  let c := partialCorrected s.ecc k bs.length
  let s := { s with mem := Memory.write s.mem k bs, ecc := eccAfterWrite s.ecc k bs.length }
  (s.countCorrected k c).inject k bs.length

/-- Corrects the correctable doubles that a read of [k, k + n) meets, and counts them (R129). -/
def State.correct (s : State) (k n : Nat) : State :=
  let hit := (dblKeys k n).filter fun d => s.ecc.has d && !s.ecc.get d false
  ({ s with ecc := s.ecc.filter fun p => !(hit.contains p.1) }).countCorrected k hit.length

/-- The double at a key. -/
def State.dbl (s : State) (k : Nat) : Word := Word.of (ofBytes (Memory.read s.mem k 8))

/-- Writes a double at a key. -/
def State.setDbl (s : State) (k : Nat) (w : Word) : State := s.write k (toBytes 8 w.toNat)

/-! ### Windows (R75) -/

/-- The memory key of the spill pointer of a context: the spill area lies in its core's local memory (R79). -/
def spillKey (c : Context) (wsp : Word) : Nat := localKey c.core (wsp.toNat % 2 ^ 17)

/-- Spills `g` groups of four entries. -/
def spillGroups : Nat → Context → State → Context × State
  | 0, c, s => (c, s)
  | g + 1, c, s =>
    let ws := (List.range 4).map fun i => c.file.get ((c.low + i) % 128) 0
    spillGroups g { c with wsp := c.wsp + 32, low := c.low + 4 } (s.write (spillKey c c.wsp) (wordsToBytes ws))

/-- Refills groups of four entries while L lies above B; `fuel` bounds their number. -/
def fillGroups : Nat → Context → State → Context × State
  | 0, c, s => (c, s)
  | g + 1, c, s =>
    if c.base < c.low then
      let c := { c with wsp := c.wsp - 32, low := c.low - 4 }
      let k := spillKey c c.wsp
      let file := (List.range 4).foldl (fun f i => AMap.set f ((c.low + i) % 128) (s.dbl (k + 8 * i))) c.file
      fillGroups g { c with file := file } s
    else (c, s)

/-- The groups that a slide of `n` entries spills. -/
def slideGroups (c : Context) (n : Nat) : Nat :=
  if 128 < c.base + 32 + n - c.low then (c.base + 32 + n - c.low - 128 + 3) / 4 else 0

/-- Whether the spill area and the window leave `reserve` bytes after a slide (R75). -/
def slideFits (c : Context) (n reserve : Nat) : Bool :=
  let g := slideGroups c n
  let free : Int := (c.wspl.toNat : Int) - c.wsp.toNat - 32 * g
  let room : Int := 128 - ((c.base : Int) + 32 + n - c.low - 4 * g)
  decide (0 ≤ free) && decide ((reserve : Int) ≤ free + 8 * room)

/-- Raises B by `n` and clears the entries that are new to the window. -/
def Context.raise (c : Context) (n : Nat) : Context :=
  let b := c.base + n
  { c with
    base := b
    file := (List.range n).foldl (fun f i => AMap.set f ((b + 32 - n + i) % 128) 0) c.file }

/-- slide_up of the context that acts, after its check (R75). -/
def State.slideUp (s : State) (n : Nat) : State :=
  let (c, s) := spillGroups (slideGroups s.ctx n) s.ctx s
  s.setCtx (c.raise n)

/-- slide_down of the context that acts (R75). A slide by more than B, which only a forged link word asks for, leaves B at 0 (log
entry 74). -/
def State.slideDown (s : State) (n : Nat) : State :=
  let (c, s) := fillGroups 64 { s.ctx with base := s.ctx.base - n } s
  s.setCtx c

/-- Pops loop entries whose base lies above B (R102). -/
def State.popLoops (s : State) : State :=
  s.setCtx { s.ctx with loops := s.ctx.loops.dropWhile fun e => decide (s.ctx.base < e.base) }

/-! ### Taking a trap and returning from one (R83 to R86) -/

/-- A hart has no trap handler: the transfer stops, with the cause and the address (R313). -/
def State.hartFault (s : State) (cause : Nat) (addr : Word) : State :=
  let y := s.mast.hy (hyNo s.cur.core)
  let s := s.setMast (s.mast.setHy (hyNo s.cur.core)
    { y with stage := .ended, fault := some (cause, addr), queue := [], plan := [] })
  s.setCtx { s.ctx with status := .stopped }

/-- A trap inside a trap handler: the context stops, the trap CSRs keep the first trap, the task has failed (R85). -/
def State.doubleTrap (s : State) (cause : Nat) : State :=
  let s := s.setCtx { s.ctx with dcause := BitVec.ofNat 8 cause, status := .failed, waitStart := none }
  s.failTask s.cur.task s.ctx.trapcause.toNat s.ctx.trapaddr s.ctx.trappc

/-- Taking a trap (R83): the trap CSRs, `intrap`, a slide of a whole window, and the jump to tvec. `ret` is the address
that trappc receives. -/
def State.trapEntry (s : State) (cause : Nat) (addr info ret : Word) : State :=
  match s.engine with
  | .hart => s.hartFault cause addr
  | _ =>
    if s.ctx.intrap then s.doubleTrap cause
    else
      let s := s.setCtx { s.ctx with trapcause := BitVec.ofNat 8 cause, trapaddr := addr, trapinfo := info, trappc := ret,
                                     intrap := true, status := .running, waitStart := none, await := .none }
      (s.slideUp 32).setPc s.task.tvec

/-- The lane grant shrinks to the reefs in use when a trap is left or a context resumes with pend set (R242). -/
def shrinkGrant (c : Context) : Context :=
  if c.vpend && decide (c.vl < c.vgrant) then { c with vgrant := 16 * ((c.vl + 15) / 16) } else c

/-- ERET (R86): leaves the trap handler, or else the interrupt handler. -/
def State.eret (s : State) : Ex State :=
  if s.ctx.intrap then
    let s := s.slideDown 32
    let s := s.setCtx (shrinkGrant { s.ctx with intrap := false, pc := s.ctx.trappc })
    .ok s.popLoops
  else if s.ctx.inui then
    let s := s.slideDown 32
    let s := s.setCtx { s.ctx with inui := false, pc := s.ctx.uipc }
    .ok s.popLoops
  else trapX 0x15 s.pc 0xFFF

/-- A core whose strands wait no more for a new steal round (R178). -/
def Core.awake (c : Core) : Core :=
  if c.strands.any (·.resting) then { c with strands := c.strands.map fun st => { st with resting := false } } else c

/-- A core of which a context has become resumable: it joins the line, and strands may steal again (R80, R178). -/
def Core.resumable (c : Core) (k : Nat) : Core := { c.awake with parked := c.parked ++ [k] }

/-- Wakes the strands of a core that wait for a new steal round (R178). -/
def State.wakeSteals (s : State) (core : Nat) : State := s.putCore core (s.coreAt core).awake

/-- A core whose strand has found work: its steal round, if one ran, is over (R176). -/
def Core.foundWork (c : Core) (strand : Nat) : Core :=
  { c with strands := c.strands.modify strand fun st => { st with stealAt := none, resting := false } }

/-- Signals a parked context: it becomes resumable, behind those of its core signalled before (R80). -/
def State.signal (s : State) (k : Nat) : State :=
  let x := s.ctxAt k
  if x.status = .parked then
    (s.putCtx k { x with status := .resumable }).putCore x.core ((s.coreAt x.core).resumable k)
  else s

/-- The context waits at its instruction: nothing changes but its status and the start of the wait (R80). -/
def State.waiting (s : State) : State :=
  s.setCtx { s.ctx with
    status := .waiting
    waitStart := match s.ctx.waitStart with | some t => some t | none => some s.core.cyc }

/-- Ends a meaning of an instruction: a next state, the trap it takes, or the wait at its pc. An instruction that
completes ends the context's wait. -/
def State.finish (s : State) (x : Ex State) : Host.Outcome State Fault Refusal :=
  match x with
  | .ok t => .next t
  | .error (.trap cause addr info) => .next (s.trapEntry cause addr info s.pc)
  | .error .wait => .next s.waiting
  | .error .off => .next s

/-- An event whose own conditions do not hold when its turn comes does not happen: its turn passes and nothing changes
(log entry 60). -/
def State.passed (s : State) : Host.Outcome State Fault Refusal := .next s

/-- Ends a meaning of an event: a next state, or its turn passes. -/
def State.happen (s : State) (x : Ex State) : Host.Outcome State Fault Refusal :=
  match x with
  | .ok t => .next t
  | .error _ => s.passed

/-! ### Addresses (R107 to R111, R350) -/

/-- The space of an effective address (R107). -/
def space (ea : Word) : Nat := bits ea 63 60

/-- Whether every bit that R107 marks zero is zero. -/
def zeroFieldsOk (ea : Word) : Bool :=
  match space ea with
  | 0x0 => decide (bits ea 59 57 = 0)
  | 0x8 => decide (bits ea 59 17 = 0)
  | 0x9 => decide (bits ea 59 20 = 0)
  | 0xA => decide (bits ea 59 45 = 0) && decide (bits ea 31 17 = 0)
  | 0xB => decide (bits ea 59 42 = 0) && decide (bits ea 31 20 = 0)
  | _ => false

/-- Why an address is checked (R350). -/
inductive Acc where
  | load | store | atomic | fetch | net | netW | deque | dequeW | move | moveW
  deriving DecidableEq, Repr

/-- Whether an access writes. -/
def Acc.writes : Acc → Bool
  | .store | .atomic | .netW | .dequeW | .moveW => true
  | _ => false

/-- The access kinds that a kind of declared range admits (R348). -/
def admits (rangeKind : Nat) : Acc → Bool
  | .load => decide (rangeKind = 0) || decide (rangeKind = 3) || decide (rangeKind = 4)
  | .store | .atomic | .move | .moveW => decide (rangeKind = 0) || decide (rangeKind = 3)
  | .fetch => decide (rangeKind = 4)
  | .net | .netW => decide (rangeKind = 1)
  | .deque | .dequeW => decide (rangeKind = 2)

/-- The declared range that holds [v, v + n). -/
def rangeOf (rs : List Range) (v n : Nat) : Option Range :=
  rs.find? fun r => decide (r.vbase ≤ v) && decide (v + n ≤ r.vbase + r.len)

/-- The valid extent that holds an address. -/
def extentOf (xs : List Extent) (v : Nat) : Option Extent := xs.find? fun x => decide (x.vbase ≤ v) && decide (v < x.vend)

/-- The extents that serve the agent: a halyard's own, or the task's (R349). -/
def State.extents (s : State) : List Extent :=
  match s.engine with
  | .hart => (s.mast.hy (hyNo s.cur.core)).extents
  | _ => s.task.extents

/-- extent_check (R350): the physical address, or a trap 0x05 with its code. A miss, and the first write through an
armed extent, wait for the walker. -/
def State.extentCheck (s : State) (ea : Word) (n : Nat) (k : Acc) : Ex Nat := do
  let v := ea.toNat % 2 ^ 57
  match rangeOf s.launch.ranges v n with
  | none => trapX 0x05 ea 1
  | some r =>
    need (admits r.kind k) (.trap 0x05 ea 2)
    need (!k.writes || r.w) (.trap 0x05 ea 3)
    match extentOf s.extents v with
    | none => waitX
    | some x =>
      need (!k.writes || x.w) (.trap 0x05 ea 3)
      need (!(k.writes && x.warm)) .wait
      .ok (x.pbase + (v - x.vbase))

/-- The inbox shares of a task: offset and size (R285). -/
def Task.inboxShares (t : Task) : List (Nat × Nat) := [(t.ibOff.req, t.ib.req), (t.ibOff.rep, t.ib.rep), (t.ibOff.sys, t.ib.sys)]

/-- local_ok (R109, R110, R380). The yard window admits ST and ST.rel into the task's slots (R212). -/
def State.localOk (s : State) (off n : Nat) (k : Acc) : Bool :=
  match s.engine with
  | .tackle => decide (off + n ≤ 0x4000)
  | .hart => false
  | .mast =>
    if off < 0x18000 then decide (s.task.locb ≤ off) && decide (off + n ≤ s.task.locl)
    else if off < 0x1A000 then
      decide (k = .load) && s.task.inboxShares.any fun p => decide (p.1 ≤ off) && decide (off + n ≤ p.1 + p.2)
    else if off < 0x1B000 then false
    else if off < 0x1B400 then decide (k = .store) && decide (n = 8) && decide ((off - 0x1B000) / 64 < s.task.ny)
    else false

/-- The pair in which a bank is the front (R126). -/
def Mast.pairOf (m : Mast) (b : Nat) : Option Pair := m.pairs.find? fun p => decide (p.front = b)

/-- The bank that a bank number of an address reaches (R126, R127). -/
def Mast.resolve (m : Mast) (b : Nat) : Nat :=
  match m.pairOf b with
  | some p => if p.swapped then p.shadow else b
  | none => b

/-- Whether a launch holds a bank. -/
def Mast.holds (m : Mast) (l b : Nat) : Bool := decide ((m.banks.get b Bank.init).holder = some l)

/-- Whether a bank number is the shadow bank of a pair. -/
def Mast.isShadow (m : Mast) (b : Nat) : Bool := m.pairs.any fun p => decide (p.shadow = b)

/-- bank_ok (R109, R118, R126, R380). -/
def State.bankOk (s : State) (b : Nat) : Bool :=
  match s.engine with
  | .tackle => decide (b < 3)
  | _ => s.mast.holds s.cur.launch b && !s.mast.isShadow b

/-- The bank offset that an offset of space 0x9 reaches, the front bank of a pair resolved. -/
def Mast.physOff (m : Mast) (off : Nat) : Nat := m.resolve (off / 65536 % 16) * 65536 + off % 65536

/-- The memory key of a bank address. -/
def State.bankAt (s : State) (ea : Word) : Nat := bankKey s.mastNo (s.mast.physOff (bits ea 19 0))

/-- Whether [a, a + n) lies in a range. -/
def within (lo : Word) (len : Nat) (a : Word) (n : Nat) : Bool :=
  decide (lo.toNat ≤ a.toNat) && decide (a.toNat + n ≤ lo.toNat + len)

/-- Whether an access of a hart stays in the ranges that its transfer declares (R310, R313); others declare none. DEDUCED (log entry 33): a load
of the hart may lie in either range, and a move reads the read range alone. -/
def State.declared (s : State) (ea : Word) (n : Nat) (writes : Bool) : Bool :=
  match s.engine with
  | .hart =>
    match (s.mast.hy (hyNo s.cur.core)).journal.head? with
    | some t => within t.wlo t.wlen ea n || (!writes && within t.rlo t.rlen ea n)
    | none => false
  | _ => true

/-- mem_check (R109): the memory key, or the first trap in its order. For space 0xB the key is 0. -/
def State.memCheck (s : State) (ea : Word) (n : Nat) (k : Acc) (spaces : List Nat) : Ex Nat := do
  need (decide (ea.toNat % n = 0)) (.trap 0x03 ea 0)
  need (spaces.contains (space ea) && zeroFieldsOk ea) (.trap 0x04 ea 0)
  need (s.declared ea n k.writes) (.trap 0x04 ea 0)
  match space ea with
  | 0x8 =>
    need (s.localOk (bits ea 16 0) n k) (.trap 0x04 ea 0)
    .ok (localKey s.cur.core (bits ea 16 0))
  | 0x9 =>
    need (s.bankOk (bits ea 19 16)) (.trap 0x04 ea 0)
    .ok (s.bankAt ea)
  | 0x0 => s.extentCheck ea n k
  | _ => .ok 0

/-- Whether [ea, ea + n) lies in held banks of space 0x9 that are no shadow banks; the first failing byte otherwise. -/
def State.bankRange (s : State) (ea : Word) (n : Nat) : Option Word :=
  if space ea ≠ 0x9 || !zeroFieldsOk ea then some ea
  else
    let off := bits ea 19 0
    let first := off / 65536
    let lastB := Nat.min ((off + n - 1) / 65536) 16
    ((List.range (lastB - first + 1)).map (first + ·)).findSome? fun b =>
      if b < 16 && s.bankOk b then none
      else some (if b = first then ea else 0x9000000000000000 + Word.of (b * 65536))

/-! ### The scoreboard's conflicts (R196 to R201) -/

/-- The granules that [off, off + n) of bank space touches. -/
def granules (off n : Nat) : Nat × Nat := (off / 32, (off + n + 31) / 32)

/-- Whether an interval conflicts with an access of [lo, hi) granules. -/
def Interval.conflicts (i : Interval) (write : Bool) (lo hi : Nat) : Bool :=
  i.armed && (write || i.write) && decide (i.lo < hi) && decide (lo < i.hi)

/-- Whether some entry conflicts. Every live entry is older than an access that takes its place now. -/
def conflict (es : List SbEntry) (write : Bool) (lo hi : Nat) : Bool := es.any fun e => e.ivals.any (·.conflicts write lo hi)

/-- The entry of the transfer that a hart runs (R201: it never waits on its own entry). -/
def State.ownEntry (s : State) : Option Nat :=
  match s.engine with
  | .hart => (s.mast.hy (hyNo s.cur.core)).journal.head?.map (·.entry)
  | _ => none

/-- The entries, with their intervals, that an access of the agent that acts looks at. A hart's accesses lie inside its transfer's own
intervals, and whatever conflicts with these and is younger waits for the transfer: only what is older counts (R201). -/
def State.others (s : State) : List SbEntry :=
  match s.ownEntry with
  | none => s.mast.sb
  | some id =>
    let at_ := ((s.mast.sb.find? fun e => decide (e.id = id)).map (·.seq)).getD s.mast.nextSb
    (s.mast.sb.filter fun e => decide (e.id ≠ id)).map fun e => { e with ivals := e.ivals.filter fun i => decide (i.place < at_) }

/-- sb_wait for [off, off + n) of physical bank space. -/
def State.sbFree (s : State) (write : Bool) (off n : Nat) : Bool :=
  let g := granules off n
  !conflict s.others write g.1 g.2

/-- The physical offset in bank space of a bank key. -/
def keyOff (k : Nat) : Nat := (k - 2 ^ 61) % 2 ^ 20

/-- Whether [off, off + n) touches an armed barrier object (R228). -/
def Mast.touchesArmed (m : Mast) (off n : Nat) : Bool :=
  m.trackers.any fun t => decide (off < t.2 + 32) && decide (t.2 < off + n)

/-! ### Loads and stores (R112, R114) -/

/-- The bytes of a read with the context's own buffered stores laid over them (R114, R325). -/
def forward (buf : List BufStore) (ea : Word) (bs : List Byte) : List Byte :=
  buf.foldl (fun acc st =>
    acc.zipIdx.map fun p =>
      let a := ea.toNat + p.2
      if st.ea.toNat ≤ a && a < st.ea.toNat + st.bytes.length then st.bytes.getD (a - st.ea.toNat) 0 else p.1) bs

/-- Whether buffered stores cover every byte of a read. -/
def covered (buf : List BufStore) (ea : Word) (n : Nat) : Bool :=
  (List.range n).all fun i => buf.any fun st =>
    decide (st.ea.toNat ≤ ea.toNat + i) && decide (ea.toNat + i < st.ea.toNat + st.bytes.length)

/-- Whether an address lies in the yard queue window (R110, R212). -/
def inYardWindow (ea : Word) : Bool :=
  decide (space ea = 0x8) && decide (0x1B000 ≤ bits ea 16 0) && decide (bits ea 16 0 < 0x1B400)

/-- Whether a store of the context that acts posts a yard command at its drain (R213). -/
def State.posts (s : State) (st : BufStore) : Bool := s.engine = .mast && inYardWindow st.ea && decide (bits st.ea 5 3 = 7)

/-- Whether the context that acts has a buffered store that posts a yard command: its command is not registered yet. -/
def State.posting (s : State) : Bool := s.ctx.storeBuf.any s.posts

/-- Reads `n` bytes at a checked address: waits for the moves that a hart has queued before (R325), for older conflicting entries
(space 0x9) and for the registration of the commands that the context has stored before (R239, log entry 68), takes the trap of an
uncorrectable double, corrects a correctable one (R129). A read that the store buffer covers whole reads no double (R325). -/
def State.readChecked (s : State) (ea : Word) (key n : Nat) : Ex (List Byte × State) := do
  need s.moved .wait
  need (space ea ≠ 0x9 || !s.posting) .wait
  need (space ea ≠ 0x9 || s.engine = .tackle || s.sbFree false (keyOff key) n) .wait
  need ((s.badDouble key n).isNone || covered s.ctx.storeBuf ea n) (.trap 0x0E ea 0)
  .ok (forward s.ctx.storeBuf ea (Memory.read s.mem key n), if covered s.ctx.storeBuf ea n then s else s.correct key n)

/-- A load (R112). -/
def State.load (s : State) (ea : Word) (n : Nat) (spaces : List Nat) : Ex (Nat × State) := do
  let key ← s.memCheck ea n .load spaces
  let (bs, s) ← s.readChecked ea key n
  .ok (ofBytes bs, s)

/-- Appends a checked store to the store buffer of the context that acts; a release waits for every older packet. -/
def State.buffer (s : State) (ea : Word) (key : Nat) (bs : List Byte) (rel : Bool) : State :=
  let c := s.ctx
  s.setCtx { c with storeBuf := c.storeBuf ++ [⟨ea, key, bs, c.order, if rel then c.order else c.relOrd⟩],
                    order := c.order + 1 }

/-! ### Delivery of user-level events (R88) -/

/-- Whether an event may be delivered at this wait: an operation that has left the core goes first (R297, R264). -/
def Await.interruptible : Await → Bool
  | .reply _ _ _ => false
  | .ea _ => false
  | _ => true

/-- Whether the context that acts takes its oldest pending event at this boundary. -/
def State.deliverable (s : State) : Bool :=
  let c := s.ctx
  c.uien && !c.intrap && !c.inui && !c.pending.isEmpty && !c.eopValid && c.await.interruptible
    && (c.status = .running || c.status = .waiting)

/-! ### The spaces of loads and stores -/

/-- The spaces of the loads (R108, R304). -/
def State.loadSpaces (s : State) : List Nat := match s.engine with | .hart => [0x0, 0x9] | _ => [0x0, 0x8, 0x9]

/-- The spaces of the stores (R108, R304). -/
def State.storeSpaces (s : State) : List Nat := match s.engine with | .hart => [0x0, 0x9, 0xB] | _ => [0x0, 0x8, 0x9, 0xB]

end Sys2Proof.Machine
end

