-- ==== Sys2Proof/Machine/Operands.lean ====
section
/-! DEFINITION. Operand forms: sources of every tag at every type (R25 to R29, R90, R95, R244), effective addresses (R22)
and branch targets (R23). -/

namespace Sys2Proof.Machine

/-- An entry of the constant bank (R27). -/
def State.const (s : State) (k : Nat) : Word := s.launch.consts.get k 0

/-- A literal, sign-extended (R28). -/
def litWord (n : BitVec 6) : Word := n.signExtend 64

/-- A source with tags 00, 10 and 11, as 64 bits (R90). -/
def State.src (s : State) : Src → Word
  | .reg r => s.reg r
  | .const k => s.const k.val
  | .lit n => litWord n

/-- A source with tags 00 and 10. -/
def State.rc (s : State) : RcSrc → Word
  | .reg r => s.reg r
  | .const k => s.const k.val

/-- A source as an integer of a type (R29, R44, R90). -/
def State.isrc (s : State) (t : ITy) (x : Src) : Int := t.val (s.src x)

/-- A source as the bits of a floating-point type: a literal gives its integer value, converted exactly (R28, R95). -/
def State.fsrc (s : State) (t : ETy) : Src → Nat
  | .lit n => litBits t n.toInt
  | x => (s.src x).toNat % 2 ^ t.width

/-- The element type of a scalar floating-point width. -/
def ftyEty : FTy → ETy
  | .f32 => .f32
  | .f64 => .f64

/-- Whether a literal's integer value is exact in a floating-point type. -/
def litExact (t : ETy) (n : BitVec 6) : Bool :=
  match t.fmt.decode (litBits t n.toInt) with
  | .fin sg m e => decide (0 ≤ e ∨ m % 2 ^ (-e).toNat = 0) &&
      decide ((if sg then (-1 : Int) else 1) * (if 0 ≤ e then m * 2 ^ e.toNat else m / 2 ^ (-e).toNat) = n.toInt)
  | _ => false

/-- A source of a lane instruction for lane `e` (R244), as the bits of its type. -/
def State.vsrc (s : State) (t : ETy) (x : VSrc) (e : Nat) : Nat :=
  match x with
  | .vec v => (((s.ctx.v.getD v.val []).getD e 0).toNat) % 2 ^ t.width
  | .lit n => if t.isInt then (litWord n).toNat % 2 ^ t.width else litBits t n.toInt
  | .reg r => (s.reg r).toNat % 2 ^ t.width
  | .const k => (s.const k.val).toNat % 2 ^ t.width

/-- The effective address of format M (R22). -/
def State.ea (s : State) (base : Reg) (off : BitVec 12) (size : Nat) : Word :=
  s.reg base + off.signExtend 64 * Word.of size

/-- The target of a branch with a 15-bit offset (R23). -/
def State.target (s : State) (off : BitVec 15) : Word := s.pc + off.signExtend 64 * 4

/-- The target of a FAR form (R24). -/
def State.farTarget (s : State) (off : BitVec 32) : Word := s.pc + off.signExtend 64 * 4

end Sys2Proof.Machine
end

