-- ==== Sys2Proof/Machine/Packets.lean ====
section
/-! DEFINITION. Shared operations on packets and on the scoreboard: send shares (R285, R286), the sending discipline (R295),
order of delivery (R283, R328, R329), partitions, and the registration of entries (R197, R204). -/

namespace Sys2Proof.Machine

/-! ### Shares and packets -/

/-- A share by network code (R280): request 0, reply 1, system 3. -/
def Shares.get (x : Shares) (net : Nat) : Nat := if net = 0 then x.req else if net = 1 then x.rep else x.sys

/-- Adds to a share. -/
def Shares.add (x : Shares) (net n : Nat) : Shares :=
  if net = 0 then { x with req := x.req + n } else if net = 1 then { x with rep := x.rep + n } else { x with sys := x.sys + n }

/-- Takes from a share. -/
def Shares.sub (x : Shares) (net n : Nat) : Shares :=
  if net = 0 then { x with req := x.req - n } else if net = 1 then { x with rep := x.rep - n } else { x with sys := x.sys - n }

/-- The free bytes of a task's send share (R287). -/
def Task.sqFree (t : Task) (net : Nat) : Nat := t.sq.get net - t.sqUsed.get net

/-- The bytes that a packet of `n` bytes occupies (R286). -/
def packetBytes (n : Nat) : Nat := 32 * ((n + 31) / 32)

/-- The bytes of messages in an inbox share. -/
def Task.inboxUsed (t : Task) (net : Nat) : Nat :=
  ((t.inbox.filter fun m => decide (m.net = net)).map fun m => packetBytes m.len).sum

/-- Whether a reply of `n` bytes can be reserved in the reply inbox share (R286, R297). -/
def Task.replyRoom (t : Task) (n : Nat) : Bool := decide (t.inboxUsed 1 + t.ibRsv + n ≤ t.ib.rep)

/-- The memory controller of a physical address, for heap atomics (R296): that of its stack, or the host port (R345). -/
def memCtl (key : Nat) : Nat := if isHostKey key then 32776 else 32768 + key / 2 ^ 36 % 8

/-- The 32-byte flits of a packet of `n` bytes (R3). -/
def flitsOf (n : Nat) : Nat := if n = 0 then 1 else (n + 31) / 32

/-- Whether the context's kind lets it send request-network and system-network packets (R295). -/
def State.mayTravel (s : State) : Bool :=
  match s.ctx.kind with
  | .req | .rep | .sys => false
  | _ => true

/-- The trap of the sending discipline (R295). -/
def State.discipline (s : State) : Ex Unit := need s.mayTravel (.trap 0x15 s.pc 0xFFE)

/-- The trap of a share without room (R290). -/
def State.needShare (s : State) (net n : Nat) : Ex Unit :=
  need (s.engine = .hart || n ≤ s.task.sqFree net) (.trap 0x07 s.pc (Word.of (net * 4096 + n)))

/-- Places a packet of the context that acts in its send queue: its share is charged (except for a hart, R304), and its
order is the context's next. `rel` says that it is a release (R329). -/
def State.emit (s : State) (net dst n : Nat) (rel : Bool) (k : PKind) : State :=
  let c := s.ctx
  let hart := decide (s.engine = .hart)
  let p : Packet := ⟨s.nextPkt, net, s.cur.core, dst, s.cur.launch, s.cur.ctx, c.order, if rel then c.order else c.relOrd,
                     if hart then 0 else n, flitsOf n, false, k⟩
  let s := { s with net := s.net ++ [p], nextPkt := s.nextPkt + 1 }
  let s := s.setCtx { c with order := c.order + 1 }
  if hart then s else s.setTask { s.task with sqUsed := s.task.sqUsed.add net n }

/-- Places a packet of `n` bytes of a unit of a core: no share is charged and no context orders it (log entry 70). -/
def State.emitUnit (s : State) (net src dst launch n : Nat) (k : PKind) : State :=
  { s with net := s.net ++ [⟨s.nextPkt, net, src, dst, launch, 0, 0, 0, 0, flitsOf n, false, k⟩], nextPkt := s.nextPkt + 1 }

/-- Changes the use of a send partition: of the steal partition, which the core's deque unit holds, or of a share of the
launch's task there (R285). -/
def State.useSq (s : State) (net src launch : Nat) (f : Nat → Nat) : State :=
  if net = 2 then s.putCore src { s.coreAt src with stealSq := f (s.coreAt src).stealSq }
  else
    let k := taskKey launch src
    let u := (s.taskAt k).sqUsed
    s.putTask k { s.taskAt k with
      sqUsed := if net = 0 then { u with req := f u.req } else if net = 1 then { u with rep := f u.rep }
                else { u with sys := f u.sys } }

/-- The free bytes of a send partition or share (R285, R287). -/
def State.sqRoom (s : State) (net src launch : Nat) : Nat :=
  if net = 2 then 512 - (s.coreAt src).stealSq else (s.taskAt (taskKey launch src)).sqFree net

/-- Places a packet of `n` bytes of a unit of a core in the partition or share that it occupies (R286). -/
def State.emitHeld (s : State) (net src dst launch n : Nat) (k : PKind) : State :=
  let p : Packet := ⟨s.nextPkt, net, src, dst, launch, 0, 0, 0, packetBytes n, flitsOf n, false, k⟩
  let s := { s with net := s.net ++ [p], nextPkt := s.nextPkt + 1 }
  s.useSq net src launch (· + p.bytes)

/-- A packet by number. -/
def State.packet (s : State) (id : Nat) : Option Packet := s.net.find? fun p => decide (p.id = id)

/-- Removes a packet. A packet that is removed before its PACKET_LEAVE gives its share space back too. -/
def State.drop (s : State) (p : Packet) : State :=
  let s := { s with net := s.net.filter fun q => decide (q.id ≠ p.id) }
  if p.left || p.bytes = 0 then s else s.useSq p.net p.src p.launch (· - p.bytes)

/-- Whether a packet has been received and waits in the receiving unit. -/
def PKind.received : PKind → Bool
  | .fetch _ _ _ _ held => held
  | _ => false

/-- Whether a packet is the oldest on its way of its source, destination and network (R283). -/
def State.isFront (s : State) (p : Packet) : Bool :=
  s.net.all fun q => q.kind.received || !(decide (q.src = p.src) && decide (q.dst = p.dst) && decide (q.net = p.net)) || decide (p.id ≤ q.id)

/-- Whether every packet placed before `p` with its source, destination and network has left (R283). -/
def State.inTurn (s : State) (p : Packet) : Bool :=
  s.net.all fun q => q.left || !(decide (q.src = p.src) && decide (q.dst = p.dst) && decide (q.net = p.net)) || decide (p.id ≤ q.id)

/-- Whether a packet writes memory of others: the accesses of R328 that a release must follow. -/
def PKind.isAccess : PKind → Bool
  | .rstore _ _ | .arrival _ _ | .atomic _ _ _ _ _ _ _ | .join _ | .msg _ _ | .sysMsg _ _ => true
  | _ => false

/-- Whether every access packet of context `c` placed before `ord` has been applied, and every move that a hart has queued before it
performed. -/
def State.packetsDone (s : State) (c ord : Nat) : Bool :=
  (s.net.all fun q => !(decide (q.ctx = c) && q.kind.isAccess && decide (q.order < ord))) && s.movesDone c ord

/-! ### References (R139) -/

/-- The state of a port word or reference. -/
def refState (r : Word) : Nat := bits r 63 61
/-- The core of a reference. -/
def refCore (r : Word) : Nat := bits r 15 3
/-- The port of a reference. -/
def refPort (r : Word) : Nat := bits r 1 0
/-- The slot of a reference. -/
def refSlot (r : Word) : Nat := bits r 35 16
/-- The generation of a reference. -/
def refGen (r : Word) : Nat := bits r 51 36
/-- Whether a reference names the heap store. -/
def refHeap (r : Word) : Bool := bit r 2
/-- The key of a reference's slot in the task's node map. -/
def refKey (r : Word) : Nat := (if refHeap r then 2 ^ 20 else 0) + refSlot r

/-- A register-form reference (state LINKED). -/
def mkRef (core key gen port : Nat) : Word :=
  Word.of (2 ^ 61 + gen * 2 ^ 36 + (key % 2 ^ 20) * 2 ^ 16 + core * 8 + (if 2 ^ 20 ≤ key then 4 else 0) + port)

/-- A reference with another port. -/
def withPort (r : Word) (p : Nat) : Word := setBits r 1 0 p

/-- A port word of a state (1 LINKED, 3 LOCKED) that names the port of a reference. -/
def portWord (state : Nat) (r : Word) : Word := Word.of (state * 2 ^ 61 + bits r 51 0)

/-- A FWD word (R140). -/
def fwdWord (meeting : Bool) (r : Word) : Word := Word.of (2 * 2 ^ 61 + (if meeting then 2 ^ 60 else 0) + bits r 51 0)

/-- Whether a port word names the port of a reference. -/
def refers (w r : Word) : Bool := decide (bits w 51 0 = bits r 51 0)

/-- The register form of the port that a port word names. -/
def refOfWord (w : Word) : Word := portWord 1 w

/-- Whether two references name ports of the same node. -/
def sameNode (a b : Word) : Bool := decide (bits a 51 2 = bits b 51 2)

/-! ### Paths and long links (R280 to R284) -/

/-- The quadrant of an agent, by its number: of a core's, hart's or tackle's die, of a memory stack (R3) or of a CP. The
host port lies in none. -/
def quadAny (core : Nat) : Option Nat :=
  if 65536 ≤ core then some ((core - 65536) / 2 % 4)
  else if 32768 ≤ core then (if core < 32776 then some ((core - 32768) / 2) else none)
  else
    match engineOf core with
    | .mast => some (quadOf core)
    | .hart => if mastOf core < 1024 then some (quadOf (8 * mastOf core)) else some ((mastOf core - 1024) / 8 % 4)
    | .tackle => some ((mastOf core - 1024) / 8 % 4)

/-- The mast at which an agent's packets enter and leave the mesh; none for the agents at a die's edge, whose place the
spec does not give (log entry 70). -/
def mastPlace (core : Nat) : Option Nat :=
  if 32768 ≤ core then none
  else
    match engineOf core with
    | .mast => some (mastOf core)
    | .hart => if mastOf core < 1024 then some (mastOf core) else none
    | .tackle => none

/-- What a packet passes on its way: a mast's router, or a long link. -/
inductive Hop where
  | mast (m : Nat)
  | link (k : Nat)
  deriving DecidableEq, Repr

/-- The numbers from `a` to `b`, both included, in the order in which a packet passes them. -/
def towards (a b : Nat) : List Nat :=
  if a ≤ b then (List.range (b - a + 1)).map (a + ·) else (List.range (a - b + 1)).map (a - ·)

/-- The masts of a leg from mast `a` to mast `b`, one dimension first (R280). -/
def leg (yFirst : Bool) (a b : Nat) : List Nat :=
  if yFirst then (towards (a / 32) (b / 32)).map (· * 32 + a % 32) ++ ((towards (a % 32) (b % 32)).drop 1).map (b / 32 * 32 + ·)
  else (towards (a % 32) (b % 32)).map (a / 32 * 32 + ·) ++ ((towards (a / 32) (b / 32)).drop 1).map (· * 32 + b % 32)

/-- Whether a network routes Y before X (R280): the reply and the system network. -/
def yFirst (net : Nat) : Bool := decide (net = 1) || decide (net = 3)

/-- The in-quadrant position (x, y) of the gateway of quadrant `q` to quadrant `r` (R281). -/
def gatewayAt (q r : Nat) : Nat × Nat :=
  match q, r with
  | 0, 1 => (15, 8)
  | 0, 2 => (8, 15)
  | 0, _ => (15, 15)
  | 1, 0 => (0, 8)
  | 1, 2 => (0, 15)
  | 1, _ => (7, 15)
  | 2, 0 => (8, 0)
  | 2, 1 => (15, 0)
  | 2, _ => (15, 7)
  | _, 0 => (0, 0)
  | _, 1 => (7, 0)
  | _, _ => (0, 7)

/-- The gateway mast of quadrant `q` to quadrant `r`. -/
def gateway (q r : Nat) : Nat :=
  let p := gatewayAt q r
  (q / 2 * 16 + p.2) * 32 + q % 2 * 16 + p.1

/-- The key of a quadrant pair's long link. -/
def linkKey (a b : Nat) : Nat := if a < b then 4 * a + b else 4 * b + a

/-- The quadrants other than two. -/
def otherQuads (a b : Nat) : List Nat := [0, 1, 2, 3].filter fun q => decide (q ≠ a) && decide (q ≠ b)

/-- A long link. -/
def State.linkAt (s : State) (k : Nat) : LongLink := s.links.get k LongLink.init

/-- The quadrants that follow `a` on the way to `b`: `b`, after the pair's lower-numbered other quadrant where their link has been
rerouted (R284); the links of that path may have been rerouted themselves. Where reroutes lead in a circle, the path ends after `f`
of them on a link that trains, and its packets wait (log entry 70). -/
def State.quadsVia (s : State) : Nat → Nat → Nat → List Nat
  | 0, _, b => [b]
  | f + 1, a, b =>
    let m := (otherQuads a b).headD 0
    if (s.linkAt (linkKey a b)).rerouted then s.quadsVia f a m ++ s.quadsVia f m b else [b]

/-- The quadrants that follow `a` on the way to `b`. -/
def State.quadsTo (s : State) (a b : Nat) : List Nat := s.quadsVia 3 a b

/-- The quadrants that a packet enters after its own (R281, R282). DESIGN CHOICE (log entry 78): with spread on, a packet to a memory controller
or a CP in another quadrant takes the detour of R282 too, which speaks of packets to a core. -/
def State.quadPath (s : State) (p : Packet) : List Nat :=
  match quadAny p.src, quadAny p.dst with
  | some a, some b =>
    if a = b then []
    else if (s.taskAt (taskKey p.launch p.src)).spread then
      let h := (p.src % 8 + p.src / 8 % 32 + p.src / 256 % 32 + b) % 2
      let m := (otherQuads a b).getD h 0
      s.quadsTo a m ++ s.quadsTo m b
    else s.quadsTo a b
  | _, _ => []

/-- The masts of a leg whose ends may lie at the die's edge. -/
def legHops (y : Bool) : Option Nat → Option Nat → List Hop
  | some a, some b => (leg y a b).map .mast
  | some a, none => [.mast a]
  | none, some b => [.mast b]
  | none, none => []

/-- The hops from place `a` in quadrant `q` over the quadrants `qs` to place `b`. -/
def hopsFrom (y : Bool) : Nat → Option Nat → List Nat → Option Nat → List Hop
  | _, a, [], b => legHops y a b
  | q, a, r :: rs, b =>
    legHops y a (some (gateway q r)) ++ .link (linkKey q r) :: hopsFrom y r (some (gateway r q)) rs b

/-- The path of a packet (R280 to R282, R284): the masts and long links that it passes, in order. -/
def State.path (s : State) (p : Packet) : List Hop :=
  hopsFrom (yFirst p.net) ((quadAny p.src).getD 0) (mastPlace p.src) (s.quadPath p) (mastPlace p.dst)

/-- The quadrants that `qs` steps through from `q`, as the links crossed. -/
def linkSteps : Nat → List Nat → List (Nat × Nat)
  | _, [] => []
  | q, r :: rs => (q, r) :: linkSteps r rs

/-- The long links that a packet crosses, each with the quadrant it comes from. -/
def State.linksFor (s : State) (p : Packet) : List (Nat × Nat) := linkSteps ((quadAny p.src).getD 0) (s.quadPath p)

/-- Whether no link on a packet's path is down or retraining. A router always forwards, a fused-off mast's too (R6). -/
def State.pathReady (s : State) (p : Packet) : Bool :=
  (s.path p).all fun h =>
    match h with
    | .mast _ => true
    | .link k => (s.linkAt k).up && !(s.linkAt k).training

/-- The replay buffer of a long link at quadrant `q`: the packets on it whose flits its far end `r` has not acknowledged, in
the order sent (R284). -/
def State.replay (s : State) (q r : Nat) : List Packet := s.net.filter fun p => p.left && !p.kind.received && (s.linksFor p).contains (q, r)

/-- The credits of a partition and network on the way from quadrant `q` to `r` that are in use: the flits that hold a buffer
slot at the far end (R282, R284). -/
def State.creditsUsed (s : State) (q r part net : Nat) : Nat :=
  (((s.replay q r).filter fun p => decide (p.net = net) && decide ((s.launchAt p.launch).part = part)).map (·.flits)).sum

/-- Whether a packet finds the credits of its own partition and network on every long link that it crosses (R282, R284). -/
def State.hasCredits (s : State) (p : Packet) : Bool :=
  (s.linksFor p).all fun l =>
    let part := (s.launchAt p.launch).part
    decide (s.creditsUsed l.1 l.2 part p.net + p.flits
      ≤ (s.linkAt (linkKey l.1 l.2)).share.get part Config.linkShare)

/-- Whether a slot holds a join thimble: a thimble whose ports forward nothing (R158, R159). -/
def Node.isJoin (n : Node) : Bool := n.thim && n.ports.all fun w => refState w ≠ 2

/-- Whether a slot holds a join thimble that context `c` made before its place `ord`. -/
def Node.joinOf (n : Node) (c ord : Nat) : Bool := n.isJoin && decide (n.in0 = Word.of c) && decide (n.in1.toNat < ord)

/-- Whether a packet of a message waits for a splice that its context has issued before it, or for the collapse of a join thimble
that it has made (R157, R294). -/
def State.spliceHolds (s : State) (p : Packet) : Bool :=
  (match p.kind with | .msg _ _ | .sysMsg _ _ => true | _ => false) &&
    (((s.coreAt p.src).splices.any fun x => decide (x.ctx = p.ctx) && decide (x.order < p.order)) ||
      (s.taskAt (taskKey p.launch p.src)).nodes.any fun n => n.2.joinOf p.ctx p.order)

/-- Whether the task at a packet's destination has room in its inbox share for a request that its units consume: the packet
takes and gives back its space in the event that applies it (R286). -/
def State.inboxRoom (s : State) (p : Packet) : Bool :=
  match p.kind with
  | .msg _ _ => true
  | _ =>
    let t := s.taskAt (taskKey p.launch p.dst)
    p.net != 0 || !t.live || decide (t.inboxUsed 0 + packetBytes (32 * p.flits) ≤ t.ib.req)

/-- Whether a packet can be applied or delivered: it has left its source, its path is ready, it is the oldest of its way, its
context's earlier stores have drained and a hart's earlier moves have been performed (R318, R328), for a release its context's earlier packets have been applied (R329), and for a
message its context's earlier splices have ended (R294). -/
def State.mayApply (s : State) (p : Packet) : Bool :=
  p.left && s.pathReady p && s.isFront p && s.inboxRoom p && (p.ctx = 0 ||
    ((s.ctxAt p.ctx).storeBuf.all fun st => !(decide (st.order < p.order))) && s.movesDone p.ctx p.order && !s.spliceHolds p &&
     s.net.all fun q => decide (q.id = p.id) || !(decide (q.ctx = p.ctx) && q.kind.isAccess && decide (q.order < p.rel)))

/-- Whether every store and access packet of the context that acts which its last releasing fence names has been performed
(R331): what every later write of the context waits for. -/
def State.released (s : State) : Bool :=
  (s.ctx.storeBuf.all fun st => decide (s.ctx.relOrd ≤ st.order)) && s.packetsDone s.cur.ctx s.ctx.relOrd

/-- Whether the context's stores to space 0x9 have drained, and everything that a releasing fence before names is performed: what
a publication of ring slots waits for (R199, R331). -/
def State.bankDrained (s : State) : Bool := s.released && s.ctx.storeBuf.all fun st => decide (space st.ea ≠ 0x9)

/-! ### Partitions (R358) -/

/-- Whether a mast, by id (R4), lies in a partition. -/
def Partition.hasMast (p : Partition) (m : Nat) : Bool :=
  let x := m % 32
  let y := m / 32
  decide (p.x0 ≤ x) && decide (x < p.x0 + p.w) && decide (p.y0 ≤ y) && decide (y < p.y0 + p.h)

/-- The partition of a launch. -/
def State.partOf (s : State) (l : Nat) : Partition := s.parts.get (s.launchAt l).part Partition.init

/-- Whether a core id names a core of the launch's partition. -/
def State.coreIn (s : State) (l core : Nat) : Bool := decide (core < 8192) && (s.partOf l).hasMast (core / 8)

/-- Whether a mast id names a mast of the launch's partition. -/
def State.mastIn (s : State) (l m : Nat) : Bool := decide (m < 1024) && (s.partOf l).hasMast m

/-! ### Registering scoreboard entries (R197, R204) -/

/-- The lowest free entry number of a range. -/
def freeEntry (es : List SbEntry) (lo n : Nat) : Option Nat :=
  ((List.range n).map (lo + ·)).find? fun i => es.all fun e => decide (e.id ≠ i)

/-- The entry that core `c` of the mast takes: its number, and whether it is shared. `own` and `any` tell that an older
registration of the core, or of the mast, waits. -/
def Mast.entryFor (m : Mast) (c : Nat) (own any : Bool) : Option (Nat × Bool) :=
  match (if own then none else freeEntry m.sb (16 * c) 16) with
  | some i => some (i, false)
  | none => if any then none else (freeEntry m.sb 128 128).map (·, true)

/-- Whether a waiter for an entry counts: its launch runs, or is the one that resumes. -/
def State.sbWaits (s : State) : SbWaiter → Bool
  | .issue k | .drain k =>
    decide ((s.launchAt (s.ctxAt k).launch).status = .resident) && !(s.launchAt (s.ctxAt k).launch).killed
  | .resume l => decide ((s.launchAt l).status = .preempted) && !(s.launchAt l).killed

/-- The registrations of a mast that wait and are older than that of `w`; those of launches that do not run are passed over. -/
def State.sbAhead (s : State) (mast : Nat) (w : SbWaiter) : List (Nat × SbWaiter) :=
  ((s.mastAt mast).sbWait.takeWhile fun x => !(decide (x.2 = w))).filter fun x => s.sbWaits x.2

/-- The entry that a registration by core `c` of a mast for `w` takes now: a freed entry goes to the oldest waiting
registration (R204). -/
def State.entryOn (s : State) (mast c : Nat) (w : SbWaiter) : Option (Nat × Bool) :=
  let ahead := s.sbAhead mast w
  (s.mastAt mast).entryFor c (ahead.any fun x => decide (x.1 = c)) (!ahead.isEmpty)

/-- Notes that a registration waits, behind those that wait already. -/
def State.awaitEntry (s : State) (mast c : Nat) (w : SbWaiter) : State :=
  let m := s.mastAt mast
  if m.sbWait.contains (c, w) then s else s.putMast mast { m with sbWait := m.sbWait ++ [(c, w)] }

/-- Takes a registration off the list of those that wait. -/
def State.endAwait (s : State) (mast : Nat) (w : SbWaiter) : State :=
  let m := s.mastAt mast
  if m.sbWait.any (fun x => decide (x.2 = w)) then
    s.putMast mast { m with sbWait := m.sbWait.filter fun x => !(decide (x.2 = w)) }
  else s

/-- Registers an entry at the end of mast order. -/
def Mast.register (m : Mast) (e : SbEntry) : Mast :=
  { m with
    sb := m.sb ++ [{ e with seq := m.nextSb, ivals := e.ivals.map fun i => { i with place := m.nextSb } }]
    nextSb := m.nextSb + 1 }

/-- Retires an entry (R203). -/
def Mast.retire (m : Mast) (id : Nat) : Mast := { m with sb := m.sb.filter fun e => decide (e.id ≠ id) }

/-- The entries older than an entry in mast order. -/
def Mast.olderThan (m : Mast) (id : Nat) : List SbEntry := m.sb.takeWhile fun e => decide (e.id ≠ id)

/-- The granule interval of [off, off + n) of physical bank space. -/
def rangeIval (write : Bool) (off n : Nat) : Interval := ⟨write, (granules off n).1, (granules off n).2, true, none, 0⟩

/-- The places in physical bank space of [off, off + n) as the launch names it, bank by bank, a front bank resolved (R126,
R196): offset and length. -/
def Mast.pieces (m : Mast) (off n : Nat) : List (Nat × Nat) :=
  if n = 0 then []
  else
    let first := off / 65536
    let last := (off + n - 1) / 65536
    (List.range (last - first + 1)).map fun i =>
      let b := first + i
      let lo := if b * 65536 < off then off else b * 65536
      let hi := if off + n < (b + 1) * 65536 then off + n else (b + 1) * 65536
      (m.resolve b * 65536 + lo % 65536, hi - lo)

/-- The one interval of a bank range of an operand (R198): where the range crosses banks of which one is a swapped pair's, the
interval that bounds its places (log entry 69). -/
def Mast.ivalsOf (m : Mast) (write : Bool) (off n : Nat) : List Interval :=
  match m.pieces off n with
  | [] => []
  | p :: ps =>
    let lo := ps.foldl (fun a q => Nat.min a q.1) p.1
    let hi := ps.foldl (fun a q => Nat.max a (q.1 + q.2)) (p.1 + p.2)
    [rangeIval write lo (hi - lo)]

/-- Whether an access of [off, off + n) of bank space, as the launch names it, is free of conflicts with `es`. -/
def Mast.rangeFree (m : Mast) (es : List SbEntry) (write : Bool) (off n : Nat) : Bool :=
  (m.pieces off n).all fun p => !conflict es write (granules p.1 p.2).1 (granules p.1 p.2).2

/-! ### The form in which the CP saves an entry (R197, R209) -/

/-- An interval word. -/
def Interval.word (i : Interval) : Nat :=
  if i.lo < i.hi then 2 ^ 31 + (if i.write then 2 ^ 30 else 0) + i.lo * 2 ^ 15 + (i.hi - 1)
  else if i.write then 2 ^ 30 else 0

/-- The ring byte of an interval. -/
def Interval.ringByte (i : Interval) : Nat := match i.ring with | some q => 128 + q % 32 | none => 0

/-- The four doubles of an entry. -/
def SbEntry.words (e : SbEntry) : List Word :=
  let iv (k : Nat) : Nat := (e.ivals[k]?.map Interval.word).getD 0
  let armed := (e.ivals.zipIdx.map fun p => if p.1.armed then 2 ^ (36 + p.2) else 0).sum
  let rings := (e.ivals.zipIdx.map fun p => p.1.ringByte * 2 ^ (8 * p.2)).sum
  [Word.of (e.tag.toNat * 2 ^ 48 + e.kind * 2 ^ 44 + e.core * 2 ^ 41 + (if e.shared then 2 ^ 40 else 0) + armed),
   Word.of (iv 0 + iv 1 * 2 ^ 32), Word.of (iv 2 + iv 3 * 2 ^ 32), Word.of rings]

/-- The interval `k` of a saved entry, where it holds one. -/
def savedIval (ws : List Word) (k : Nat) : Option Interval :=
  let w := bits (ws.getD (1 + k / 2) 0) (32 * (k % 2) + 31) (32 * (k % 2))
  let r := bits (ws.getD 3 0) (8 * k + 7) (8 * k)
  if w / 2 ^ 31 = 0 && r / 128 = 0 then none
  else some {
    write := decide (w / 2 ^ 30 % 2 = 1), lo := w / 2 ^ 15 % 2 ^ 15, hi := if w / 2 ^ 31 = 0 then 0 else w % 2 ^ 15 + 1
    armed := bit (ws.getD 0 0) (36 + k), ring := if r / 128 = 0 then none else some (r % 32), place := 0 }

/-- The entry of a saved form, under number `id` and for a launch. -/
def SbEntry.ofWords (ws : List Word) (id launch : Nat) : SbEntry :=
  let d := ws.getD 0 0
  { id := id, tag := BitVec.ofNat 16 (bits d 63 48), kind := bits d 47 44, core := bits d 43 41, shared := bit d 40,
    launch := launch, ivals := (List.range 4).filterMap (savedIval ws), seq := 0 }

/-- The bytes of [off, off + n) of the mast's bank space, each bank resolved. -/
def State.bankBytes (s : State) (mast off n : Nat) : List Byte :=
  (List.range n).map fun i => s.mem |> fun m => Memory.get m (bankKey mast ((s.mastAt mast).physOff (off + i)))

end Sys2Proof.Machine
end

