-- ==== Sys2Proof/Machine/LoadStore.lean ====
section
/-! DEFINITION. Loads, stores, prefetches and fences (R108 to R114, R136, R137, R212, R330, R331). -/

namespace Sys2Proof.Machine

/-! ### Loads -/

/-- A load instruction of format M: size, how the bytes become a register value, and whether it is an acquire, which
waits for the store buffer before it reads (R112, R330). -/
def State.loadOp (s : State) (d base : Reg) (off : BitVec 12) (n : Nat) (ext : Nat → Word) (acq : Bool) :
    Host.Outcome State Fault Refusal :=
  s.finish (do
    let ea := s.ea base off n
    let key ← s.memCheck ea n .load s.loadSpaces
    need (!acq || s.ctx.storeBuf.isEmpty) .wait
    let p ← s.readChecked ea key n
    .ok (p.2.result 1 d (ext (ofBytes p.1))))

/-- LDB.i8. -/
def execLdbI8 (d base : Reg) (off : BitVec 12) (s : State) := s.loadOp d base off 1 (fun x => ofInt (sextN 8 x)) false
/-- LDB.n8. -/
def execLdbN8 (d base : Reg) (off : BitVec 12) (s : State) := s.loadOp d base off 1 Word.of false
/-- LDH.i16. -/
def execLdhI16 (d base : Reg) (off : BitVec 12) (s : State) := s.loadOp d base off 2 (fun x => ofInt (sextN 16 x)) false
/-- LDH.n16. -/
def execLdhN16 (d base : Reg) (off : BitVec 12) (s : State) := s.loadOp d base off 2 Word.of false
/-- LD.i32. -/
def execLdI32 (d base : Reg) (off : BitVec 12) (s : State) := s.loadOp d base off 4 (fun x => ofInt (sextN 32 x)) false
/-- LD.n32. -/
def execLdN32 (d base : Reg) (off : BitVec 12) (s : State) := s.loadOp d base off 4 Word.of false
/-- LD. -/
def execLd (d base : Reg) (off : BitVec 12) (s : State) := s.loadOp d base off 8 Word.of false
/-- LD.acq. -/
def execLdAcq (d base : Reg) (off : BitVec 12) (s : State) := s.loadOp d base off 8 Word.of true
/-- LD.acq.n32. -/
def execLdAcqN32 (d base : Reg) (off : BitVec 12) (s : State) := s.loadOp d base off 4 Word.of true

/-! ### Stores -/

/-- The window slot of a yard window address. -/
def yardSlot (ea : Word) : Nat := (bits ea 16 0 - 0x1B000) / 64

/-- The key of a launch's window slot. -/
def ySlotKey (launch slot : Nat) : Nat := launch * 16 + slot

/-- The check and the mark of a store into the yard window: it waits while its slot is busy, and a store to double 7
makes the slot busy (R212). -/
def State.yardStore (s : State) (ea : Word) : Ex State := do
  let k := ySlotKey s.cur.launch (yardSlot ea)
  let sl := s.core.yslots.get k YSlot.init
  need (!sl.busy) .wait
  .ok (if bits ea 5 3 = 7 then s.setCore { s.core with yslots := s.core.yslots.set k { sl with busy := true } } else s)

/-- A store to space 0xB: a remote write of 32 bytes on the request network (R113). -/
def State.remoteStore (s : State) (ea : Word) (bs : List Byte) (rel : Bool) : Ex State := do
  s.needShare 0 32
  .ok (s.emit 0 (8 * bits ea 41 32) 32 rel (.rstore ea bs))

/-- A store of `n` bytes (R112): every check at issue, then the store buffer, or a packet for space 0xB. -/
def State.storeBytes (s : State) (ea : Word) (bs : List Byte) (rel : Bool) : Ex State := do
  need (space ea ≠ 0xB || s.mayTravel) (.trap 0x15 s.pc 0xFFE)
  let key ← s.memCheck ea bs.length .store s.storeSpaces
  if space ea = 0xB then s.remoteStore ea bs rel
  else do
    need (space ea ≠ 0x9 || !s.mast.touchesArmed (keyOff key) bs.length) (.trap 0x0C s.pc 0)
    let s ← if inYardWindow ea && s.engine = .mast then s.yardStore ea else .ok s
    .ok (s.buffer ea key bs rel)

/-- A store instruction of format M. -/
def State.storeOp (s : State) (d base : Reg) (off : BitVec 12) (n : Nat) (rel : Bool) : Host.Outcome State Fault Refusal :=
  s.finish (do
    let t ← s.storeBytes (s.ea base off n) (toBytes n (s.reg d).toNat) rel
    .ok (t.advance 1))

/-- STB. -/
def execStb (d base : Reg) (off : BitVec 12) (s : State) := s.storeOp d base off 1 false
/-- STH. -/
def execSth (d base : Reg) (off : BitVec 12) (s : State) := s.storeOp d base off 2 false
/-- ST.n32. -/
def execStN32 (d base : Reg) (off : BitVec 12) (s : State) := s.storeOp d base off 4 false
/-- ST. -/
def execSt (d base : Reg) (off : BitVec 12) (s : State) := s.storeOp d base off 8 false
/-- ST.rel. -/
def execStRel (d base : Reg) (off : BitVec 12) (s : State) := s.storeOp d base off 8 true
/-- ST.rel.n32. -/
def execStRelN32 (d base : Reg) (off : BitVec 12) (s : State) := s.storeOp d base off 4 true

/-! ### PREF and FENCE -/

/-- PREF checks alignment and space only, and changes no architectural value (R136). -/
def State.pref (s : State) (base : Reg) (off : BitVec 12) : Host.Outcome State Fault Refusal :=
  s.finish (do
    let ea := s.ea base off 64
    need (bits ea 5 0 = 0) (.trap 0x03 ea 0)
    need (s.loadSpaces.contains (space ea) && zeroFieldsOk ea) (.trap 0x04 ea 0)
    .ok (s.advance 1))

/-- PREF #0. -/
def execPrefCode (base : Reg) (off : BitVec 12) (s : State) := s.pref base off
/-- PREF #1. -/
def execPrefHeap (base : Reg) (off : BitVec 12) (s : State) := s.pref base off

/-- Whether a destination agent lies in a scope of the agent that acts (R329): a quadrant's agents are its cores, harts,
tackles and atomic units. -/
def inScope (sc : Scope) (own dst : Nat) : Bool :=
  match sc with
  | .strand => false
  | .core => decide (own = dst)
  | .mast => decide (dst < 32768) && decide (mastOf own = mastOf dst)
  | .quad => decide (quadAny own = quadAny dst)
  | .dev | .sys => true

/-- Whether the context's remote stores, arrivals and posted atomics to targets in the scope are applied, those of a hart's queued moves
among them (R304, R328, R331). -/
def State.scopeDone (s : State) (sc : Scope) : Bool :=
  (s.net.all fun q =>
    let posted := match q.kind with | .rstore _ _ | .arrival _ _ | .atomic _ _ _ _ _ true _ => true | _ => false
    !(decide (q.ctx = s.cur.ctx) && posted && inScope sc s.cur.core q.dst)) &&
  (s.engine ≠ .hart || (s.mast.hy (hyNo s.cur.core)).queue.all fun v =>
    !(decide (space v.dst = 0xB) && inScope sc s.cur.core (8 * bits v.dst 41 32)))

/-- The context's later writes are releases from here on (R331). -/
def State.markRelease (s : State) : State := s.setCtx { s.ctx with relOrd := s.ctx.order }

/-- FENCE.sl: the store buffer has drained, and a hart's moves, whose writes are drained stores (R318), have been performed (R331). -/
def State.drained (s : State) : Bool := s.ctx.storeBuf.isEmpty && s.moved

/-- The release condition at dev, measured now (R329): every earlier store of the context that acts has drained and every earlier access
packet has been applied. What an instruction that releases, the registration of an operation among them (R335), waits for. -/
def State.settled (s : State) : Bool := s.drained && s.packetsDone s.cur.ctx s.ctx.order

/-- What an instruction that counts as a write waits for beside its own wait (R200): the context's earlier stores have drained (R325), and what
its last releasing fence names has been performed (R331). -/
def State.writesDone (s : State) : Bool := s.drained && s.released

/-- Whether a scope is dev or sys. -/
def Scope.wide : Scope → Bool
  | .dev | .sys => true
  | _ => false

/-- FENCE.sc (R331, R332). -/
def execFenceSc (sc : Scope) (s : State) : Host.Outcome State Fault Refusal :=
  s.finish (do
    need (sc = .strand || s.drained) .wait
    .ok ((if Scope.wide sc then s.markRelease else s).advance 1))

/-- FENCE.sl (R331). -/
def execFenceSl (sc : Scope) (s : State) : Host.Outcome State Fault Refusal :=
  s.finish (do
    need (sc = .strand || s.drained) .wait
    .ok (s.advance 1))

/-- FENCE.acq (R331): earlier loads are performed already (R325). -/
def execFenceAcq (_sc : Scope) (s : State) : Host.Outcome State Fault Refusal := .next (s.advance 1)

/-- FENCE.rel (R331). -/
def execFenceRel (sc : Scope) (s : State) : Host.Outcome State Fault Refusal :=
  s.finish (do
    need (Scope.wide sc || s.scopeDone sc) .wait
    .ok ((if sc = .strand then s else s.markRelease).advance 1))

end Sys2Proof.Machine
end

