-- ==== Sys2Proof/Machine/Atomics.lean ====
section
/-! DEFINITION. Local and bank atomics (R115 to R117). Each is one indivisible event, so a bank's lock bit (R117) is held
only inside it. -/

namespace Sys2Proof.Machine

/-- Whether buffered stores of the context touch [ea, ea + n). -/
def State.ownStores (s : State) (ea : Word) (n : Nat) : Bool :=
  s.ctx.storeBuf.any fun st => decide (st.ea.toNat < ea.toNat + n) && decide (ea.toNat < st.ea.toNat + st.bytes.length)

/-- The new value of a double for each operation (R115, R296); ACAS compares with `v` and stores `nw`. -/
def AtomOp.apply (op : AtomOp) (old v nw : Word) : Word :=
  match op with
  | .add => old + v
  | .cas => if old = v then nw else old
  | .xch => v
  | .min => if old.toInt ≤ v.toInt then old else v
  | .minN => if old.toNat ≤ v.toNat then old else v
  | .max => if old.toInt ≤ v.toInt then v else old
  | .maxN => if old.toNat ≤ v.toNat then v else old
  | .and => old &&& v
  | .or => old ||| v

/-- Reads and replaces the double at a checked address of space 0x8 or 0x9 (R115): the old value and the state. A release
before it (R331, R333), a hart's earlier moves (R325) and the context's own stores to the double come first. `same` tells whether a comparison that fails
writes the old value back, as R115 states, or nothing, as R296 states. -/
def State.atomicAt (s : State) (ea : Word) (key : Nat) (op : AtomOp) (v nw : Word) (same : Bool) : Ex (Word × State) := do
  need (space ea ≠ 0x9 || !s.mast.touchesArmed (keyOff key) 8) (.trap 0x0C s.pc 0)
  need (s.released && s.moved && !s.ownStores ea 8) .wait
  need (space ea ≠ 0x9 || s.engine = .tackle || s.sbFree true (keyOff key) 8) .wait
  need (s.badDouble key 8).isNone (.trap 0x0E ea 0)
  let s := s.correct key 8
  let old := s.dbl key
  .ok (old, if op = .cas && old ≠ v && !same then s else s.setDbl key (op.apply old v nw))

/-- A local or bank atomic of `n` words. -/
def State.atomicOp (s : State) (d base : Reg) (off : BitVec 12) (n spc : Nat) (op : AtomOp) (nw : Word) :
    Host.Outcome State Fault Refusal :=
  s.finish (do
    let ea := s.ea base off 8
    let key ← s.memCheck ea 8 .atomic [spc]
    let p ← s.atomicAt ea key op (s.reg d) nw true
    .ok (p.2.result n d p.1))

/-- AADD. -/
def execAadd (d base : Reg) (off : BitVec 12) (s : State) := s.atomicOp d base off 1 0x8 .add 0
/-- ACAS: d holds the expected value, the extension the new one. -/
def execAcas (d base : Reg) (off : BitVec 12) (nw : Src) (s : State) := s.atomicOp d base off 2 0x8 .cas (s.src nw)
/-- AXCH. -/
def execAxch (d base : Reg) (off : BitVec 12) (s : State) := s.atomicOp d base off 1 0x8 .xch 0
/-- AMIN.i64. -/
def execAminI64 (d base : Reg) (off : BitVec 12) (s : State) := s.atomicOp d base off 1 0x8 .min 0
/-- AMIN.n64. -/
def execAminN64 (d base : Reg) (off : BitVec 12) (s : State) := s.atomicOp d base off 1 0x8 .minN 0
/-- AMAX.i64. -/
def execAmaxI64 (d base : Reg) (off : BitVec 12) (s : State) := s.atomicOp d base off 1 0x8 .max 0
/-- AMAX.n64. -/
def execAmaxN64 (d base : Reg) (off : BitVec 12) (s : State) := s.atomicOp d base off 1 0x8 .maxN 0
/-- AAND. -/
def execAand (d base : Reg) (off : BitVec 12) (s : State) := s.atomicOp d base off 1 0x8 .and 0
/-- AOR. -/
def execAor (d base : Reg) (off : BitVec 12) (s : State) := s.atomicOp d base off 1 0x8 .or 0
/-- BADD. -/
def execBadd (d base : Reg) (off : BitVec 12) (s : State) := s.atomicOp d base off 1 0x9 .add 0
/-- BCAS. -/
def execBcas (d base : Reg) (off : BitVec 12) (nw : Src) (s : State) := s.atomicOp d base off 2 0x9 .cas (s.src nw)

end Sys2Proof.Machine
end

