-- ==== Sys2Proof/Machine/Deque.lean ====
section
/-! DEFINITION. Shared operations on references, node slots and deques (R139 to R146, R149, R165 to R168), and the creation
and the end of contexts (R79, R105, R170, R293). -/

namespace Sys2Proof.Machine

/-! ### Node slots -/

/-- A slot of a task's store. -/
def Task.node (t : Task) (key : Nat) : Node := t.nodes.get key Node.init

/-- Replaces a slot. -/
def Task.setNode (t : Task) (key : Nat) (n : Node) : Task := { t with nodes := t.nodes.set key n }

/-- A port word. -/
def Node.port (n : Node) (p : Nat) : Word := n.ports.getD p 0

/-- Replaces a port word. -/
def Node.setPort (n : Node) (p : Nat) (w : Word) : Node := { n with ports := n.ports.set p w }

/-- Whether a slot is free (R146). -/
def Node.free (n : Node) : Bool := !(n.live || n.thim || n.rel)

/-- A slot that returns to the free pool (R141). -/
def Node.freed (n : Node) : Node := { Node.init with gen := n.gen + 1 }

/-- The slot that NNEW takes: the lowest free local slot, else the lowest free heap slot (R149). -/
def Task.freeSlot (t : Task) : Option Nat :=
  match (List.range t.nlsz).find? fun i => (t.node i).free with
  | some i => some i
  | none => ((List.range (Nat.min t.nhsz (t.nodes.length + 1))).find? fun i => (t.node (2 ^ 20 + i)).free).map (2 ^ 20 + ·)

/-- The header of a node (R138). -/
def Node.header (n : Node) : Word :=
  Word.of (n.gen.toNat * 2 ^ 48 + n.ilen.toNat * 2 ^ 32 + n.uflags.toNat * 2 ^ 24 + (if n.live then 2 ^ 23 else 0)
    + (if n.thim then 2 ^ 22 else 0) + (if n.rel then 2 ^ 21 else 0) + (n.arity % 4) * 2 ^ 12 + n.kind.toNat)

/-- The translation of a heap slot for the task that acts (R142, R145, R350); a local slot needs none. -/
def State.slotReady (s : State) (key : Nat) (k : Acc) : Ex Unit :=
  if 2 ^ 20 ≤ key then (s.extentCheck (s.task.nhbase + Word.of (64 * (key - 2 ^ 20))) 64 k).map fun _ => () else .ok ()

/-- The translation of the heap slots of a launch's task on a core that a unit of the core reaches: a miss holds the unit's
operation (R351). -/
def State.unitReady (s : State) (task : Nat) (keys : List Nat) (k : Acc) : Ex Unit :=
  keys.foldlM (fun _ key => (s.focusTask task).slotReady key k) ()

/-- Whether a node can be read from the slot that it leaves: its slot is translated, and a heap slot holds no uncorrectable double
(R170, R395). -/
def State.nodeReadable (s : State) (task key : Nat) : Ex Unit := do
  s.unitReady task [key] .netW
  if 2 ^ 20 ≤ key then do
    let t := s.focusTask task
    let va := t.task.nhbase + Word.of (64 * (key - 2 ^ 20))
    let k ← t.extentCheck va 64 .netW
    need (s.badDouble k 64).isNone (.trap 0x0E va 0)
  else .ok ()

/-- chk of R142 for the core and task that act; `port` asks for a port within the arity, `k` tells whether the instruction
writes the slot. -/
def State.chk (s : State) (r : Word) (port : Bool) (k : Acc) : Ex Unit := do
  let bad (c : Nat) : Stop := .trap c s.pc r
  need (refState r = 1 && bits r 59 52 = 0 && bits r 60 60 = 0) (bad 0x04)
  need (refCore r = s.cur.core) (bad 0x04)
  need (refHeap r || refSlot r < s.task.nlsz) (bad 0x04)
  need (!refHeap r || refSlot r < s.task.nhsz) (bad 0x04)
  s.slotReady (refKey r) k
  let n := s.task.node (refKey r)
  need (n.live && n.gen.toNat = refGen r) (bad 0x12)
  need (!port || refPort r ≤ n.arity) (bad 0x0C)

/-- The node that a checked reference names. -/
def State.nodeOf (s : State) (r : Word) : Node := s.task.node (refKey r)

/-- Replaces the node that a checked reference names. -/
def State.setNodeOf (s : State) (r : Word) (n : Node) : State := s.setTask (s.task.setNode (refKey r) n)

/-- The port word that a checked reference names. -/
def State.word (s : State) (r : Word) : Word := (s.nodeOf r).port (refPort r)

/-- Writes the port word that a checked reference names. -/
def State.setWord (s : State) (r w : Word) : State := s.setNodeOf r ((s.nodeOf r).setPort (refPort r) w)

/-! ### Deques (R165 to R168) -/

/-- The capacity of a task's spill segment, in blocks of 128 records. -/
def Task.spillCap (t : Task) : Nat := (t.dslim.toNat - t.dsbase.toNat) / 2048

/-- The heap address of block `i` of the spill queue, counted from the oldest (R168). -/
def Task.blockVa (t : Task) (i : Nat) : Word :=
  t.dsbase + Word.of (2048 * ((t.spillPos + i) % (if t.spillCap = 0 then 1 else t.spillCap)))

/-- Makes room for one more resident record: moves the 128 oldest to the spill queue where 256 places are taken. None
where the spill queue is full (R168). -/
def Task.room (t : Task) : Option Task :=
  if t.deque.length + t.reserved < 256 then some t
  else if t.spilled.length < t.spillCap then
    some { t with deque := t.deque.drop 128, spilled := t.spilled ++ [t.deque.take 128] }
  else none

/-- Pushes a record at the bottom. -/
def Task.push (t : Task) (r : Record) : Option Task := t.room.map fun t => { t with deque := t.deque ++ [r] }

/-- Whether a push on a task's deque moves a block. -/
def Task.spills (t : Task) : Bool := decide (256 ≤ t.deque.length + t.reserved) && decide (t.spilled.length < t.spillCap)

/-- Room for one more resident record on a task's deque: a block that moves is written by the deque unit, through an extent
(R168, R350). `full` is the trap where the spill queue is full. -/
def State.roomOn (s : State) (k : Nat) (full : Stop) : Ex State := do
  let t := s.taskAt k
  if t.spills then
    let _ ← (s.focusTask k).extentCheck (t.blockVa t.spilled.length) 2048 .dequeW
  match t.room with
  | some t => .ok (s.putTask k t)
  | none => .error full

/-- A push by an instruction of the context that acts: cause 0x0B where the spill queue is full, with a trapinfo of 0 (log entry 75). -/
def State.pushX (s : State) (r : Record) : Ex State := do
  let s ← s.roomOn s.cur.task (.trap 0x0B s.pc 0)
  .ok ((s.setTask { s.task with deque := s.task.deque ++ [r] }).wakeSteals s.cur.core)

/-- What a fault of a unit's operation does: it fails the task (R168, R170). -/
def State.orFail (s : State) (k : Nat) (x : Ex State) : Ex State :=
  match x with
  | .error (.trap cause addr info) => .ok (s.failTask k cause addr info)
  | _ => x

/-- A push by any other agent on a task's deque: the task fails where the spill queue is full. -/
def State.pushOn (s : State) (k : Nat) (r : Record) : Ex State :=
  s.orFail k (do
    let s ← s.roomOn k (.trap 0x0B 0 0)
    .ok ((s.putTask k { s.taskAt k with deque := (s.taskAt k).deque ++ [r] }).wakeSteals (s.taskAt k).core))

/-- Whether a pop brings back a spilled block: no record is resident, and no place that a JOIN has reserved, which counts as one (R186). -/
def Task.refills (t : Task) : Bool := t.deque.isEmpty && decide (t.reserved = 0) && !t.spilled.isEmpty

/-- Brings back the newest spilled block where no record is resident. -/
def Task.refill (t : Task) : Task :=
  if t.refills then { t with deque := t.spilled.getLastD [], spilled := t.spilled.dropLast } else t

/-- Pops the bottom record, refilling from the spill segment (R168). A reserved place holds no record yet: where nothing else is resident,
there is none to pop until the JOIN ends (R186). -/
def Task.pop (t : Task) : Option (Record × Task) :=
  let t := t.refill
  match t.deque.getLast? with
  | some r => some (r, { t with deque := t.deque.dropLast })
  | none => none

/-- Pops the bottom record of a task's deque: a block that comes back is read through an extent (R168, R350). -/
def State.popOn (s : State) (k : Nat) : Ex (Option (Record × State)) := do
  let t := s.taskAt k
  if t.refills then
    let _ ← (s.focusTask k).extentCheck (t.blockVa (t.spilled.length - 1)) 2048 .deque
  .ok (t.pop.map fun p => (p.1, s.putTask k p.2))

/-- A redex record: the flags user and origin go to double 0 of the first reference (R166). -/
def redexRecord (x y : Word) (user origin : Nat) : Record :=
  ⟨setBits (setBits x 59 56 user) 55 54 origin, y, false⟩

/-- A task record (R165). -/
def taskRecord (index user origin : Nat) (arg0 : BitVec 32) (arg1 : Word) : Record :=
  ⟨Word.of (6 * 2 ^ 61 + user * 2 ^ 56 + origin * 2 ^ 54 + index * 2 ^ 32 + arg0.toNat), arg1, false⟩

/-- w2 of a handler: the record's flags with the pinned bit clear (R166, R170). -/
def recordFlags (r : Record) : Word := Word.of (bits r.d0 59 54 * 4)

/-! ### Contexts -/

/-- The contexts of a task that exist. -/
def State.liveCtxs (s : State) (task : Nat) : List (Nat × Context) :=
  s.ctxs.filter fun p => decide (p.2.status ≠ .none) && decide (p.2.task = task)

/-- The lowest of a task's sixteen spill areas that no live context holds; none where sixteen contexts live (R79). -/
def State.freeArea (s : State) (task : Nat) : Option Nat :=
  (List.range 16).find? fun a => (s.liveCtxs task).all fun p => decide (p.2.area ≠ a)

/-- The local offset of a spill area (R111); on a streamer core, an area of the model's own behind the local data. -/
def Task.spillBase (t : Task) (area : Nat) : Nat :=
  if t.core < 8192 then t.piece + 4096 + 64 * t.nlsz + area * t.spillSz else 0x10000 + area * t.spillSz

/-- A local offset as an address of space 0x8. -/
def localAddr (off : Nat) : Word := Word.of (8 * 2 ^ 60 + off)

/-- Creates a context of a task on a strand (R105, R170): window empty, depth 0, CSRs at their values at creation. The
strand's age stays as it is until it issues (R72). Who creates one has seen that a spill area is free. -/
def State.newCtx (s : State) (task strand : Nat) (kind : CtxKind) (pc w0 w1 w2 : Word) : Nat × State :=
  let t := s.taskAt task
  let a := (s.freeArea task).getD 0
  let c : Context := { Context.init with
    kind := kind, status := .running, core := t.core, strand := strand, task := task, launch := t.launch, pc := pc
    file := [(0, w0), (1, w1), (2, w2)], area := a
    wspb := localAddr (t.spillBase a), wspl := localAddr (t.spillBase a + t.spillSz), wsp := localAddr (t.spillBase a) }
  let id := s.nextCtx
  let s := { s with ctxs := s.ctxs.set id c, nextCtx := id + 1 }
  let co := s.coreAt t.core
  (id, s.putCore t.core { co with strands := co.strands.modify strand fun st =>
    { st with ctx := some id, stealAt := none, resting := false } })

/-- Frees the strand of a context. -/
def State.freeStrand (s : State) (c : Context) : State :=
  let co := s.coreAt c.core
  s.putCore c.core { co with strands := co.strands.modify c.strand fun st => { st with ctx := none } }

/-- The context that acts ends: its lanes, pending events, spill area, park entry and loop stack go (R293). The launch
counts the events that go with it. -/
def State.endCtx (s : State) : State :=
  let c := s.ctx
  let s := s.setLaunch { s.launch with evdrop := s.launch.evdrop + c.pending.length }
  let s := s.freeStrand c
  { s with ctxs := s.ctxs.erase s.cur.ctx }

/-- Whether an address lies inside a task's handler bounds (R287). -/
def Task.inHbnd (t : Task) (h : Word) : Bool :=
  decide (t.cbase.toNat + t.hlo ≤ h.toNat) && decide (h.toNat < t.cbase.toNat + t.hhi)

/-- A strand that runs nothing and waits for no meeting. -/
def Strand.idle (st : Strand) : Bool := st.ctx.isNone && st.meeting.isNone

/-- A strand of a core. -/
def Core.strand (c : Core) (i : Nat) : Strand := c.strands.getD i { Strand.init with ctx := some 0 }

end Sys2Proof.Machine
end

