-- ==== Sys2Proof/Machine/Nodes.lean ====
section
/-! DEFINITION. Node instructions (R148 to R154, R159): NNEW, NFREE, NLD, NST, PGET, PLINK, SPLICE and SPLICE.j. -/

namespace Sys2Proof.Machine

/-- Cause 0x0C with a value in trapinfo (R142, R148). Where no rule gives trapinfo of a 0x0C, the model writes 0 (log entry 75). -/
def State.bad0C (s : State) (info : Word) : Stop := .trap 0x0C s.pc info

/-- A node operation is a write: it follows what a releasing fence before it names (R331, R335). -/
def State.needReleased (s : State) : Ex Unit := need s.released .wait

/-- NNEW (R149). -/
def State.nnew (s : State) (d : Reg) (kind arity : Word) : Ex State := do
  need (kind.toNat ≤ 0xFFE && kind.toNat < s.task.nkind) (s.bad0C kind)
  need (arity.toNat ≤ 3) (s.bad0C arity)
  match s.task.freeSlot with
  | none => trapX 0x0A s.pc 0
  | some k => do
    s.slotReady k .netW
    s.needReleased
    let g := (s.task.node k).gen
    let n : Node := { Node.init with gen := g, live := true, kind := BitVec.ofNat 12 kind.toNat, arity := arity.toNat }
    .ok ((s.setTask (s.task.setNode k n)).result 1 d (mkRef s.cur.core k g.toNat 0))

/-- NNEW. -/
def execNnew (d : Reg) (kind arity : Src) (s : State) := s.finish (s.nnew d (s.src kind) (s.src arity))

/-! ### Payload headers (R144) -/

/-- The memory key of a payload header named by a global address: a heap address, or a bank that the launch holds, of any
mast (log entry 35). -/
def State.payloadKey (s : State) (a : Word) (k : Acc) : Ex Nat := do
  need (zeroFieldsOk a) (.trap 0x04 a 0)
  if space a = 0xB then
    let m := bits a 41 32
    let b := bits a 19 16
    let mast := s.mastAt m
    need (s.mastIn s.cur.launch m && mast.holds s.cur.launch b && !mast.isShadow b
      && (m = s.mastNo || (mast.pairOf b).isNone)) (.trap 0x04 a 0)
    .ok (bankKey m (mast.physOff (bits a 19 0)))
  else s.extentCheck a 8 k

/-- The sharer count of a payload header. -/
def countOf (w : Word) : Nat := bits w 63 48

/-- The memory key that a buffered store reaches. -/
def State.storeKey (s : State) (st : BufStore) : Nat := if space st.ea = 0x9 then s.bankAt st.ea else st.key

/-- Whether the context's own earlier stores to [key, key + n) are still on their way: in its buffer, or as packets to that
mast. -/
def State.keyStores (s : State) (key n : Nat) : Bool :=
  (s.ctx.storeBuf.any fun st => decide (s.storeKey st < key + n) && decide (key < s.storeKey st + st.bytes.length)) ||
    (isBankKey key && s.net.any fun p =>
      decide (p.ctx = s.cur.ctx) && p.kind.isAccess && decide (mastOf p.dst = bankKeyMast key) && decide (p.dst < 16384))

/-- Whether an access of a bank double of any mast waits for older entries of its scoreboard (R201). -/
def State.keyBusy (s : State) (write : Bool) (key n : Nat) : Bool :=
  isBankKey key && conflict (s.mastAt (bankKeyMast key)).sb write (granules (keyOff key) n).1 (granules (keyOff key) n).2

/-- The header double of a payload, read and to be written indivisibly (R144): its key, its value and the state, with a
correctable double corrected. The context's own stores to it come first (R325), and so do older scoreboard entries (R201).
Cause 0x0E where it is uncorrectable or its count is 0. -/
def State.payload (s : State) (a : Word) : Ex (Nat × Word × State) := do
  let k ← s.payloadKey a .atomic
  need (!(isBankKey k && (s.mastAt (bankKeyMast k)).touchesArmed (keyOff k) 8)) (s.bad0C 0)
  need (s.released && !s.keyStores k 8 && !s.keyBusy true k 8) .wait
  need (s.badDouble k 8).isNone (.trap 0x0E a 0)
  need (countOf (s.dbl k) ≠ 0) (.trap 0x0E a 0)
  .ok (k, s.dbl k, s.correct k 8)

/-- Writes the sharer count of a payload header. -/
def State.setCount (s : State) (k : Nat) (n : Nat) : State := s.setDbl k (setBits (s.dbl k) 63 48 n)

/-! ### NFREE (R150) -/

/-- Whether a reference names a node of the context's current redex. -/
def State.inRedex (s : State) (r : Word) : Bool :=
  decide (s.ctx.cur0 ≠ 0) && (sameNode r s.ctx.cur0 || sameNode r s.ctx.cur1)

/-- Whether NFREE may leave this port word of node `n` (R150). -/
def State.portFreeable (s : State) (n w : Word) : Bool :=
  match refState w with
  | 1 | 3 => sameNode w n || s.inRedex w
  | 4 => false
  | _ => true

/-- The names of a splice's dying port: the one it was issued with, and those that meetings gave it. -/
def Splice.names (sp : Splice) : List Word := sp.x :: sp.also

/-- Whether a splice of a port of this node of a launch is in flight, in whatever core's unit. -/
def State.splicing (s : State) (launch : Nat) (n : Word) : Bool :=
  s.cores.any fun c => c.2.splices.any fun sp => decide ((s.taskAt sp.task).launch = launch) && sp.names.any (sameNode n)

/-- NFREE. -/
def State.nfree (s : State) (d n : Reg) : Ex State := do
  let r := s.reg n
  s.chk r false .netW
  s.needReleased
  let nd := s.nodeOf r
  need (nd.ports.all (s.portFreeable r)) (s.bad0C 0)
  let release (s : State) : State :=
    s.setNodeOf r (if s.splicing s.cur.launch r then { nd with live := false, rel := true } else nd.freed)
  if nd.desc = 0 then .ok ((release s).result 1 d 0)
  else do
    let p ← s.payload nd.desc
    let s := p.2.2.setCount p.1 (countOf p.2.1 - 1)
    .ok ((release s).result 1 d (if countOf p.2.1 = 1 then nd.desc else 0))

/-- NFREE. -/
def execNfree (d n : Reg) (s : State) := s.finish (s.nfree d n)

/-! ### NLD, NST, PGET (R151, R152) -/

/-- A double of a node (R138). -/
def Node.double (n : Node) (k : Nat) : Word :=
  if k = 0 then n.header else if k = 1 then n.desc else if k ≤ 5 then n.port (k - 2) else if k = 6 then n.in0 else n.in1

/-- NLD. -/
def execNld (d n : Reg) (k : Fin 8) (s : State) : Host.Outcome State Fault Refusal :=
  s.finish (do
    s.chk (s.reg n) false .net
    .ok (s.result 1 d ((s.nodeOf (s.reg n)).double k.val)))

/-- Whether NST accepts a descriptor: zero, or a multiple of 64 that is an address of space 0x0 or 0xB, its zero fields zero
(R107, R151, R345). -/
def descOk (v : Word) : Bool := decide (v = 0) || (decide (bits v 5 0 = 0) && (space v = 0x0 || space v = 0xB) && zeroFieldsOk v)

/-- NST. -/
def execNst (d n : Reg) (k : Fin 8) (s : State) : Host.Outcome State Fault Refusal :=
  s.finish (do
    let r := s.reg n
    let v := s.reg d
    s.chk r false .netW
    s.needReleased
    let nd := s.nodeOf r
    if k.val = 0 then do
      need (bits v 36 32 ≤ 16) (s.bad0C 0)
      .ok ((s.setNodeOf r { nd with ilen := BitVec.ofNat 5 (bits v 36 32), uflags := BitVec.ofNat 8 (bits v 31 24) }).advance 1)
    else if k.val = 1 then do
      need (descOk v) (s.bad0C 0)
      .ok ((s.setNodeOf r { nd with desc := v }).advance 1)
    else if k.val ≤ 5 then trapX 0x0C s.pc 0
    else .ok ((s.setNodeOf r (if k.val = 6 then { nd with in0 := v } else { nd with in1 := v })).advance 1))

/-- PGET. -/
def execPget (d n : Reg) (i : Src) (s : State) : Host.Outcome State Fault Refusal :=
  s.finish (do
    s.chk (s.reg n) false .net
    need ((s.src i).toNat ≤ (s.nodeOf (s.reg n)).arity) (s.bad0C 0)
    .ok (s.result 1 d (withPort (s.reg n) (s.src i).toNat)))

/-! ### PLINK and SPLICE (R153, R154, R159) -/

/-- PLINK: two principal ports make a redex, whose record is pushed with origin 00. -/
def execPlink (x y : Reg) (s : State) : Host.Outcome State Fault Refusal :=
  s.finish (do
    let a := s.reg x
    let b := s.reg y
    s.chk a true .netW
    s.chk b true .netW
    s.needReleased
    need (a ≠ b && refState (s.word a) = 0 && refState (s.word b) = 0) (s.bad0C 0)
    let t := (s.setWord a (portWord 1 b)).setWord b (portWord 1 a)
    let t ← if refPort a = 0 && refPort b = 0 then t.pushX (redexRecord a b 0 0) else .ok t
    .ok (t.advance 1))

/-- Names a port, or another binding, as the end of a host binding (R154). -/
def State.bindHost (s : State) (h : Nat) (w : Word) : State :=
  s.setLaunch { s.launch with hostbind := s.launch.hostbind.set h w }

/-- The states that SPLICE asks of a dying port: a wire that is not being spliced (R154). -/
def State.dyingOk (s : State) (x : Word) : Ex Unit := do
  need (refState (s.word x) ≠ 0 && refState (s.word x) ≠ 2) (s.bad0C 0)
  need (refState (s.word x) ≠ 3) .wait

/-- The first phase of a splice of x to y, both of this core (R154). -/
def State.splice (s : State) (x y : Word) : State :=
  let w := s.word x
  if refState w = 4 then ((s.setWord y w).bindHost (bits w 19 0) y).setWord x 0
  else
    let z := refOfWord w
    let s := (s.setWord y (portWord 3 z)).setWord x (fwdWord false y)
    let c := s.ctx
    let s := s.setCore { s.core with splices := s.core.splices ++ [⟨s.cur.task, s.cur.ctx, x, y, z, .start, c.order, [], x⟩] }
    s.setCtx { c with order := c.order + 1 }

/-- SPLICE. -/
def execSplice (x y : Reg) (s : State) : Host.Outcome State Fault Refusal :=
  s.finish (do
    let a := s.reg x
    let b := s.reg y
    s.chk a true .netW
    s.chk b true .netW
    s.needReleased
    need (refState (s.word b) = 0) (s.bad0C 0)
    s.dyingOk a
    need (s.core.splices.length < 32) .wait
    .ok ((s.splice a b).advance 1))

/-- A join thimble before its two splices (R159). The model keeps the number of the context that made it, and its place among that
context's stores and packets, in the slot's inline state, which no instruction reaches. -/
def joinThimble (g : BitVec 16) (ctx order : Nat) : Node :=
  { Node.init with gen := g, thim := true, kind := 0xFFF, arity := 1, in0 := Word.of ctx, in1 := Word.of order }

/-- SPLICE.j. -/
def execSpliceJ (x z : Reg) (s : State) : Host.Outcome State Fault Refusal :=
  s.finish (do
    let a := s.reg x
    let b := s.reg z
    s.chk a true .netW
    s.chk b true .netW
    s.needReleased
    need (s.inRedex a && s.inRedex b && a ≠ b) (s.bad0C 0)
    s.dyingOk a
    s.dyingOk b
    need (!(refState (s.word a) = 1 && refers (s.word a) b)) (s.bad0C 0)
    match s.task.freeSlot with
    | none => trapX 0x0A s.pc 0
    | some k => do
      s.slotReady k .netW
      need (s.core.splices.length < 31) .wait
      let g := (s.task.node k).gen
      let t := s.setTask (s.task.setNode k (joinThimble g s.cur.ctx s.ctx.order))
      let r := mkRef s.cur.core k g.toNat 0
      .ok (((t.splice a r).splice b (withPort r 1)).advance 1))

end Sys2Proof.Machine
end

