-- ==== Sys2Proof/Machine/Rings.lean ====
section
/-! DEFINITION. Rings (R132 to R135): QSET, QWAIT, QRESV, QADV and QHEAD. -/

namespace Sys2Proof.Machine

/-- A ring as QSET defines it. -/
def Ring.fresh (base size count : Nat) : Ring :=
  { base := base, size := size, count := count, rel := 0, take := 0, pub := 0, resv := 0, coreTaken := [], released := [],
    pubEarly := [], waitTake := [], waitResv := [] }

/-- The key of a launch's ring. -/
def ringKey (launch q : Nat) : Nat := launch * 32 + q

/-- A ring that is defined for a launch. -/
def Mast.ringOf (m : Mast) (launch q : Nat) : Option Ring :=
  if m.rings.has (ringKey launch q) then some (m.rings.get (ringKey launch q) (Ring.fresh 0 0 1)) else none

/-- Replaces a ring. -/
def Mast.setRing (m : Mast) (launch q : Nat) (r : Ring) : Mast := { m with rings := m.rings.set (ringKey launch q) r }

/-- The offset of slot `i` in the launch's view of bank space. -/
def Ring.off (r : Ring) (i : Nat) : Nat := r.base + i % r.count * r.size

/-- A bank offset as an address of space 0x9. -/
def bankAddr (off : Nat) : Word := Word.of (9 * 2 ^ 60 + off)

/-- slot_addr (R133). -/
def Ring.slotAddr (r : Ring) (i : Nat) : Word := bankAddr (r.off i)

/-- Moves a counter over the slots of a list that follow it; `fuel` bounds the run. -/
def runOver : Nat → Nat → List Nat → Nat × List Nat
  | 0, k, l => (k, l)
  | f + 1, k, l => if l.contains k then runOver f (k + 1) (l.filter fun i => decide (i ≠ k)) else (k, l)

/-- Releases taken slots: rel advances over a contiguous run of released slots (R133). -/
def Ring.release (r : Ring) (slots : List Nat) : Ring :=
  let p := runOver (r.released.length + slots.length) r.rel (r.released ++ slots)
  { r with rel := p.1, released := p.2 }

/-- Publishes reserved slots of an operation: pub advances over a contiguous run of published slots. -/
def Ring.publish (r : Ring) (slots : List Nat) : Ring :=
  let p := runOver (r.pubEarly.length + slots.length) r.pub (r.pubEarly ++ slots)
  { r with pub := p.1, pubEarly := p.2 }

/-- The intervals, not yet placed, of `n` slots from slot `i`: one, or two where they wrap, or an unarmed one where no slot is
held (R199). -/
def Ring.ivals (r : Ring) (m : Mast) (write : Bool) (q i n : Nat) : List Interval :=
  let part (k c : Nat) : List Interval := (m.ivalsOf write (r.base + k * r.size) (c * r.size)).map fun v => { v with ring := some q }
  if n = 0 then [⟨write, 0, 0, false, some q, 0⟩]
  else
    let k := i % r.count
    if k + n ≤ r.count then part k n else part k (r.count - k) ++ part 0 (n - (r.count - k))

/-- Whether two intervals cover the same granules in the same mode. -/
def Interval.same (i j : Interval) : Bool := decide ({ i with place := 0 } = { j with place := 0 })

/-- Sets the intervals of ring `q` in an entry: one that covers what it covered before keeps its place in mast order, a new one
takes the next place (R199, R200). -/
def Mast.rearm (m : Mast) (id q : Nat) (is : List Interval) : Mast :=
  { m with
    sb := m.sb.map fun e =>
      if e.id = id then
        { e with ivals := (e.ivals.filter fun i => decide (i.ring ≠ some q)) ++ is.map fun i =>
          match e.ivals.find? fun j => i.same j with
          | some j => j
          | none => { i with place := m.nextSb } }
      else e
    nextSb := m.nextSb + 1 }

/-- Whether a registered operation of the launch names the ring (R132). -/
def Mast.namesRing (m : Mast) (launch q : Nat) : Bool :=
  m.sb.any fun e => decide (e.launch = launch) && e.ivals.any fun i => decide (i.ring = some q)

/-- Whether a yard command names a ring as an operand: a descriptor of the ring form in double 2, or of a YMMA in double 3 (R215). -/
def YCmd.namesRing (c : YCmd) (q : Nat) : Bool :=
  let cop := bits (c.dbl.getD 0 0) 63 56
  let is (k : Nat) : Bool := bit (c.dbl.getD k 0) 63 && decide (bits (c.dbl.getD k 0) 4 0 = q)
  ([1, 3, 4].contains cop && is 2) || (cop = 1 && is 3)

/-- Whether a posted yard command of the launch on the mast that acts names a ring: one that waits to be rejected with its gang too,
which has no entry (R132, R216). -/
def State.postedRing (s : State) (q : Nat) : Bool :=
  (List.range 8).any fun c => (s.coreAt (8 * s.mastNo + c)).yqueue.any fun y => decide (y.launch = s.cur.launch) && y.namesRing q

/-- Whether a ring of the launch that acts is quiet (R132). -/
def State.quiet (s : State) (q : Nat) : Bool :=
  match s.mast.ringOf s.cur.launch q with
  | none => true
  | some r => decide (r.rel = r.take) && decide (r.pub = r.resv) && !s.mast.namesRing s.cur.launch q && !s.postedRing q

/-- The rings granted to the launch on the mast that acts. -/
def State.grant (s : State) : Grant := s.mast.grants.get s.cur.launch Grant.init

/-- QSET (R132). It counts as a write, which comes after the context's own stores, those that post a command among them (R200, R325). -/
def execQset (q : Fin 32) (base : RcSrc) (lgcnt : Fin 9) (size : BitVec 11) (s : State) : Host.Outcome State Fault Refusal :=
  s.finish (do
    let b := s.rc base
    let total := 32 * size.toNat * 2 ^ lgcnt.val
    need (q.val < s.grant.rings) (s.bad0C 0)
    need (bits b 4 0 = 0) (.trap 0x03 b 0)
    let off := bits b 19 0
    need (space b = 0x9 && zeroFieldsOk b && off + total ≤ 2 ^ 20) (s.bad0C 0)
    let banks := (List.range 16).filter fun k => decide (k * 65536 < off + total) && decide (off < (k + 1) * 65536)
    need (banks.all fun k => s.mast.holds s.cur.launch k && !s.mast.isShadow k && (s.mast.pairOf k).isNone) (s.bad0C 0)
    need (s.writesDone && s.quiet q.val && s.mast.rangeFree s.mast.sb true off total) .wait
    .ok ((s.setMast (s.mast.setRing s.cur.launch q.val (Ring.fresh off (32 * size.toNat) (2 ^ lgcnt.val)))).advance 2))

/-- QSET.clr (R132). DESIGN CHOICE (log entry 78): it comes after the context's own stores as QSET does. -/
def execQsetClr (q : Fin 32) (s : State) : Host.Outcome State Fault Refusal :=
  s.finish (do
    need (q.val < s.grant.rings) (s.bad0C 0)
    need (s.writesDone && s.quiet q.val) .wait
    .ok ((s.setMast { s.mast with rings := s.mast.rings.erase (ringKey s.cur.launch q.val) }).advance 2))

/-- The ring of a ring instruction, with `n` within its count (R134). -/
def State.ringFor (s : State) (q : Fin 32) (n : Nat) : Ex Ring :=
  match s.mast.ringOf s.cur.launch q.val with
  | none => .error (s.bad0C 0)
  | some r => if r.count < n then .error (s.bad0C 0) else .ok r

/-- Replaces a ring of the launch that acts. -/
def State.putRing (s : State) (q : Fin 32) (r : Ring) : State := s.setMast (s.mast.setRing s.cur.launch q.val r)

/-- Whether the waiter of context `k` may go where `ok` says which counts a ring satisfies: no waiter before it in issue order is
satisfied too (R134). A context that does not wait yet comes behind all. DESIGN CHOICE (log entry 78): only QWAIT and QRESV stand in
this line; the takes of a yard and of a VREDQ are no ring instructions of R134, and go ahead of it. -/
def firstServed (ws : List (Nat × Nat)) (k : Nat) (ok : Nat → Bool) : Bool :=
  (ws.takeWhile fun w => decide (w.1 ≠ k)).all fun w => !ok w.2

/-- The list of waiters with one more behind, where it is not listed. -/
def joinWaiters (ws : List (Nat × Nat)) (k n : Nat) : List (Nat × Nat) := if ws.any fun w => w.1 = k then ws else ws ++ [(k, n)]

/-- The list without the waiter of a context. -/
def leaveWaiters (ws : List (Nat × Nat)) (k : Nat) : List (Nat × Nat) := ws.filter fun w => decide (w.1 ≠ k)

/-- Whether `n` slots of a ring can be taken, and reserved. -/
def Ring.canTake (r : Ring) (n : Nat) : Bool := decide (n ≤ r.pub - r.take)
/-- Whether `n` slots can be reserved. -/
def Ring.canResv (r : Ring) (n : Nat) : Bool := decide (r.resv + n - r.rel ≤ r.count)

/-- QWAIT (R134). -/
def execQwait (d : Reg) (q : Fin 32) (n : Src) (s : State) : Host.Outcome State Fault Refusal :=
  s.finish (do
    let k := (s.src n).toNat
    let r ← s.ringFor q k
    if k = 0 || (r.canTake k && firstServed r.waitTake s.cur.ctx r.canTake) then
      let r' := { r with
        take := r.take + k, coreTaken := r.coreTaken ++ (List.range k).map (r.take + ·), waitTake := leaveWaiters r.waitTake s.cur.ctx }
      .ok ((s.putRing q r').result 1 d (r.slotAddr r.take))
    else .ok (s.putRing q { r with waitTake := joinWaiters r.waitTake s.cur.ctx k }).waiting)

/-- QRESV (R134). -/
def execQresv (d : Reg) (q : Fin 32) (n : Src) (s : State) : Host.Outcome State Fault Refusal :=
  s.finish (do
    let k := (s.src n).toNat
    let r ← s.ringFor q k
    if k = 0 || (r.canResv k && firstServed r.waitResv s.cur.ctx r.canResv) then
      .ok ((s.putRing q { r with resv := r.resv + k, waitResv := leaveWaiters r.waitResv s.cur.ctx }).result 1 d (r.slotAddr r.resv))
    else .ok (s.putRing q { r with waitResv := joinWaiters r.waitResv s.cur.ctx k }).waiting)

/-- QADV.p (R134). Slots are published only after they are written (R199): the context's stores to bank space drain first (log
entry 73). -/
def execQadvP (q : Fin 32) (n : Src) (s : State) : Host.Outcome State Fault Refusal :=
  s.finish (do
    let k := (s.src n).toNat
    let r ← s.ringFor q k
    need (k ≤ r.resv - r.pub) (s.bad0C 0)
    need s.bankDrained .wait
    let p := runOver r.pubEarly.length (r.pub + k) r.pubEarly
    .ok ((s.putRing q { r with pub := p.1, pubEarly := p.2 }).advance 1))

/-- QADV.c (R134). -/
def execQadvC (q : Fin 32) (n : Src) (s : State) : Host.Outcome State Fault Refusal :=
  s.finish (do
    let k := (s.src n).toNat
    let r ← s.ringFor q k
    need (k ≤ r.coreTaken.length) (s.bad0C 0)
    s.needReleased
    .ok ((s.putRing q { r.release (r.coreTaken.take k) with coreTaken := r.coreTaken.drop k }).advance 1))

/-- QHEAD (R134). -/
def execQhead (d : Reg) (q : Fin 32) (s : State) : Host.Outcome State Fault Refusal :=
  s.finish (do
    let r ← s.ringFor q 0
    .ok (s.result 1 d (Word.of ((r.resv % 65536) * 2 ^ 48 + (r.pub % 65536) * 2 ^ 32 + (r.take % 65536) * 2 ^ 16
      + r.rel % 65536))))

end Sys2Proof.Machine
end

