-- ==== Sys2Proof/Machine/Barriers.lean ====
section
/-! DEFINITION. Barrier objects (R228 to R233) and the swap of phase pairs (R128): BARR, BWAIT, BSTAT, PAIR_SWAP and
REMOTE_ARRIVAL. An object is named by its mast and the physical offset of its first byte in the mast's bank space. -/

namespace Sys2Proof.Machine

/-- Double `k` of an object, as the barrier machinery reads it: a free value where it is uncorrectable, since no rule gives an
arrival another outcome (log entry 2). -/
def State.objDbl (s : State) (mast off k : Nat) : Word :=
  let key := bankKey mast (off + 8 * k)
  if (s.badDouble key 8).isSome then Config.badDouble (off + 8 * k) (s.dbl key) else s.dbl key

/-- The doubles of an object that a step of the barrier machinery reads are corrected and counted (R129). -/
def State.objCorrect (s : State) (mast off : Nat) (ks : List Nat) : State :=
  ks.foldl (fun s k => s.correct (bankKey mast (off + 8 * k)) 8) s

/-- Writes double `k` of an object. -/
def State.setObj (s : State) (mast off k : Nat) (w : Word) : State := s.setDbl (bankKey mast (off + 8 * k)) w

/-- Whether an object is armed: a tracker holds it (R228). -/
def Mast.armed (m : Mast) (off : Nat) : Bool := m.trackers.any fun t => decide (t.2 = off)

/-- The merge of status values (R226). -/
def mergeStatus (a b : Word) : Word :=
  let ra := bits a 19 16
  let rb := bits b 19 16
  let r := if ra = 0 then rb else if rb = 0 then ra else Nat.min ra rb
  setBits (a ||| b) 19 16 r

/-- The pairs whose barrier an object is. -/
def Mast.pairsAt (m : Mast) (off : Nat) : List Pair := m.pairs.filter fun p => decide (m.physOff p.bar = off)

/-- Replaces a pair, named by its front bank. -/
def Mast.setPair (m : Mast) (p : Pair) : Mast :=
  { m with pairs := m.pairs.map fun q => if q.front = p.front then p else q }

/-- Whether some entry overlaps a bank, as for a write of the whole bank. -/
def Mast.bankBusy (m : Mast) (b : Nat) : Bool := conflict m.sb true (b * 2048) ((b + 1) * 2048)

/-- Whether an interval placed in mast order before `place` overlaps a bank. -/
def Mast.bankBusyAt (m : Mast) (b place : Nat) : Bool :=
  m.sb.any fun e => e.ivals.any fun i => decide (i.place < place) && i.conflicts true (b * 2048) ((b + 1) * 2048)

/-- Whether a pair's swap, whose barrier has completed at a place in mast order, must wait: for the entries older than the
completion, and for no younger one (R128, R200, R201). -/
def Mast.swapBlocked (m : Mast) (p : Pair) (place : Nat) : Bool := m.bankBusyAt p.front place || m.bankBusyAt p.shadow place

/-- The phase flip of an object (R230). -/
def State.flip (s : State) (mast off : Nat) : State :=
  let s := s.objCorrect mast off [0, 1, 3]
  let d0 := s.objDbl mast off 0
  let gen := (bits d0 63 48 + 1) % 65536
  let phase := 1 - bits d0 32 32
  let s := s.setObj mast off 2 (s.objDbl mast off 3)
  let s := s.setObj mast off 3 0
  let s := s.setObj mast off 1 (setBits (s.objDbl mast off 1) 31 0 0)
  s.setObj mast off 0 (Word.of (gen * 2 ^ 48 + phase * 2 ^ 32 + bits d0 31 0))

/-- An interval of an entry that a pair's swap meets, which is younger than the completion: it moves with the front bank's name from
bank `a` to bank `b`, where it lies in the front bank as a whole, and bounds both banks otherwise (R196, R200, log entry 27). -/
def Interval.swapIn (i : Interval) (a b : Nat) : Interval :=
  let inside := decide (a * 2048 ≤ i.lo) && decide (i.hi ≤ (a + 1) * 2048)
  if !i.armed || i.hi ≤ a * 2048 || (a + 1) * 2048 ≤ i.lo then i
  else if inside then { i with lo := i.lo - a * 2048 + b * 2048, hi := i.hi - a * 2048 + b * 2048 }
  else { i with lo := Nat.min i.lo (b * 2048), hi := Nat.max i.hi ((b + 1) * 2048) }

/-- The bank that the name of a pair's front bank reaches, and the one that it reaches after the next swap. -/
def Pair.current (p : Pair) : Nat := if p.swapped then p.shadow else p.front
/-- The other bank of a pair. -/
def Pair.other (p : Pair) : Nat := if p.swapped then p.front else p.shadow

/-- The swap of the pairs of an object, after its phase has flipped. The entries that overlap their banks still are younger. -/
def Mast.swapPairs (m : Mast) (off : Nat) : Mast :=
  let ps := m.pairsAt off
  let fs := ps.map (·.front)
  { m with
    pairs := m.pairs.map fun q => if fs.contains q.front then { q with swapped := !q.swapped, due := none, late := [] } else q
    sb := m.sb.map fun e => { e with ivals := e.ivals.map fun i => ps.foldl (fun i p => i.swapIn p.current p.other) i } }

/-- Whether an interval has to wait for the swap of a pair, which counts as an older write of both banks (R128, R200, R201). -/
def Mast.swapAhead (m : Mast) (i : Interval) : Bool :=
  m.pairs.any fun p =>
    match p.due with
    | some d => decide (d ≤ i.place) && (i.conflicts true (p.front * 2048) ((p.front + 1) * 2048) || i.conflicts true (p.shadow * 2048) ((p.shadow + 1) * 2048))
    | none => false

/-- complete (R230): the flip, and the swap of the object's pairs in the same event; blocked pairs become due. -/
def State.completePhase (s : State) (mast off : Nat) : State :=
  let m := s.mastAt mast
  let ps := m.pairsAt off
  if ps.any (fun p => m.swapBlocked p m.nextSb) then
    s.putMast mast (ps.foldl (fun n p => n.setPair { p with due := some m.nextSb }) m)
  else
    let t := s.flip mast off
    if ps.isEmpty then t else t.putMast mast ((t.mastAt mast).swapPairs off)

/-- arrive (R230) of one status at an object. An arrival at a pair's barrier whose phase is complete waits for the swap. -/
def State.arrive (s : State) (mast launch off : Nat) (st : Word) : State :=
  if !(s.mastAt mast).armed off then
    s.putLaunch launch { s.launchAt launch with arrdrop := (s.launchAt launch).arrdrop + 1 }
  else
    match ((s.mastAt mast).pairsAt off).find? (·.due.isSome) with
    | some p => s.putMast mast ((s.mastAt mast).setPair { p with late := p.late ++ [(launch, st)] })
    | none =>
      let s := s.objCorrect mast off [0, 1, 3]
      let s := s.setObj mast off 3 (mergeStatus (s.objDbl mast off 3) st)
      let d1 := s.objDbl mast off 1
      let n := (bits d1 31 0 + 1) % 2 ^ 32
      let s := s.setObj mast off 1 (setBits d1 31 0 n)
      if n = bits (s.objDbl mast off 0) 31 0 then s.completePhase mast off else s

/-- PAIR_SWAP (R128) of the pair whose front bank is `place.b` on mast `place.a`: the delayed completion of its barrier's phase,
which swaps every pair of that barrier, and then the arrivals that came while it waited. -/
def execPairSwap (s : State) : Host.Outcome State Fault Refusal :=
  let m := s.mastAt s.place.a
  match m.pairOf s.place.b with
  | some p =>
    let off := m.physOff p.bar
    let ps := m.pairsAt off
    if p.due.isSome && !(ps.any fun q => m.swapBlocked q (q.due.getD 0)) then
      let t := s.flip s.place.a off
      let t := t.putMast s.place.a ((t.mastAt s.place.a).swapPairs off)
      .next ((ps.flatMap (·.late)).foldl (fun t a => t.arrive s.place.a a.1 off a.2) t)
    else s.passed
  | none => s.passed

/-! ### Instructions -/

/-- The address check of the barrier instructions (R231): the physical offset of the object, for space 0x9. -/
def State.objCheck (s : State) (a : Word) (spaces : List Nat) : Ex Nat := do
  need (bits a 4 0 = 0) (.trap 0x03 a 0)
  need (spaces.contains (space a) && zeroFieldsOk a) (.trap 0x04 a 0)
  need (space a ≠ 0x9 || s.engine = .tackle || s.mast.holds s.cur.launch (bits a 19 16)) (s.bad0C 0)
  need (space a ≠ 0x9 || s.engine = .tackle || !s.mast.isShadow (bits a 19 16)) (.trap 0x04 a 0)
  .ok (s.mast.physOff (bits a 19 0))

/-- A read of a double of an object by an instruction (R129, R232). -/
def State.objRead (s : State) (a : Word) (off k : Nat) : Ex (Word × State) := do
  let key := bankKey s.mastNo (off + 8 * k)
  need (s.badDouble key 8).isNone (.trap 0x0E (a + Word.of (8 * k)) 0)
  .ok (s.dbl key, s.correct key 8)

/-- BARR (R231): a release. -/
def execBarr (a : RcSrc) (s : State) : Host.Outcome State Fault Refusal :=
  s.finish (do
    let ea := s.rc a
    need (space ea ≠ 0xB || s.mayTravel) (.trap 0x15 s.pc 0xFFE)
    let off ← s.objCheck ea [0x9, 0xB]
    if space ea = 0xB then do
      s.needShare 0 32
      .ok ((s.emit 0 (8 * bits ea 41 32) 32 true (.arrival ea 0)).advance 1)
    else do
      need s.settled .wait
      .ok ((s.arrive s.mastNo s.cur.launch off 0).advance 1))

/-- The stores in the buffers of the mast's contexts that touch [off, off + n) of physical bank space. -/
def State.mastStores (s : State) (off n : Nat) : List (Nat × Nat) :=
  s.ctxs.flatMap fun p =>
    if mastOf p.2.core = s.mastNo then
      (p.2.storeBuf.filter fun st => decide (space st.ea = 0x9) &&
        (s.mast.pieces (bits st.ea 19 0) st.bytes.length).any fun q => decide (q.1 < off + n) && decide (off < q.1 + q.2)).map
        fun st => (p.1, st.order)
    else []

/-- Whether a store is still in its context's buffer. -/
def State.buffered (s : State) (q : Nat × Nat) : Bool := (s.ctxAt q.1).storeBuf.any fun st => decide (st.order = q.2)

/-- The stores that a BARR.arm waits for: those of the start of its wait. -/
def State.armStores (s : State) (off : Nat) : List (Nat × Nat) :=
  match s.ctx.await with
  | .stores l => l
  | _ => s.mastStores off 32

/-- BARR.arm (R231). -/
def execBarrArm (d : Reg) (a : RcSrc) (n : Src) (s : State) : Host.Outcome State Fault Refusal :=
  s.finish (do
    let off ← s.objCheck (s.rc a) [0x9]
    let k := (s.src n).toNat
    need (k ≠ 0 && k < 2 ^ 32 && !s.mast.armed off) (s.bad0C 0)
    if s.grant.bars ≤ (s.mast.trackers.filter fun t => decide (t.1 = s.cur.launch)).length then .ok (s.result 1 d 0)
    else do
      s.needReleased
      let l := s.armStores off
      if l.any s.buffered || !s.sbFree true off 32 then .ok (s.setCtx { s.ctx with await := .stores l }).waiting
      else
        let m := s.mastNo
        let p ← s.objRead (s.rc a) off 0
        let s := p.2.setObj m off 0 (Word.of (bits p.1 63 48 * 2 ^ 48 + bits p.1 32 32 * 2 ^ 32 + k))
        let s := s.setObj m off 1 0x8000000000000000
        let s := (s.setObj m off 2 0).setObj m off 3 0
        .ok ((s.setMast { s.mast with trackers := s.mast.trackers ++ [(s.cur.launch, off)] }).result 1 d 1))

/-- BARR.dis (R231). -/
def execBarrDis (a : RcSrc) (s : State) : Host.Outcome State Fault Refusal :=
  s.finish (do
    let off ← s.objCheck (s.rc a) [0x9]
    need (s.mast.armed off && (s.mast.pairsAt off).isEmpty) (s.bad0C 0)
    s.needReleased
    let p ← s.objRead (s.rc a) off 1
    let s := p.2.setObj s.mastNo off 1 (setBits p.1 63 63 0)
    .ok ((s.setMast { s.mast with trackers := s.mast.trackers.filter fun t => decide (t.2 ≠ off) }).advance 1))

/-- BWAIT and BWAIT.g (R232). -/
def State.bwait (s : State) (d : Reg) (a : Word) (go : Word → Bool) : Host.Outcome State Fault Refusal :=
  s.finish (do
    let off ← s.objCheck a [0x9]
    need (s.mast.armed off) (s.bad0C 0)
    let p ← s.objRead a off 0
    need (go p.1) .wait
    .ok (p.2.result 1 d p.1))

/-- BWAIT: the phase. -/
def execBwait (d : Reg) (a : RcSrc) (v : Src) (s : State) :=
  s.bwait d (s.rc a) fun w => decide (bits w 32 32 ≠ bits (s.src v) 0 0)

/-- BWAIT.g: the generation. -/
def execBwaitG (d : Reg) (a : RcSrc) (v : Src) (s : State) :=
  s.bwait d (s.rc a) fun w => decide (bits w 63 48 ≠ bits (s.src v) 15 0)

/-- BSTAT (R232). -/
def execBstat (d : Reg) (a : RcSrc) (k : Src) (s : State) : Host.Outcome State Fault Refusal :=
  s.finish (do
    let off ← s.objCheck (s.rc a) [0x9]
    need ((s.src k).toNat ≤ 3) (s.bad0C 0)
    let p ← s.objRead (s.rc a) off (s.src k).toNat
    .ok (p.2.result 1 d p.1))

/-! ### Arrivals from other masts -/

/-- The core of the task for which an agent of a launch sends: that of the task whose transfer a halyard runs, or the agent's own. -/
def State.senderCore (s : State) (launch agent : Nat) : Nat :=
  match engineOf agent with
  | .hart =>
    match ((s.mastAt (mastOf agent)).hy (hyNo agent)).journal.find? fun t => t.launch = launch with
    | some t => (s.taskAt t.task).core
    | none => 8 * mastOf agent
  | _ => agent

/-- An isolation fault (R113): the task for which `agent` sends fails, and the launch with it, with cause 0x40, the task's core and the
address (R170, R368). -/
def State.isolation (s : State) (launch agent : Nat) (ea : Word) : State :=
  let core := s.senderCore launch agent
  (s.markFailed fun t => decide (t.launch = launch) && decide (t.core = core)).failLaunch launch ⟨0x40, 0, core, ea, 0⟩

/-- REMOTE_ARRIVAL (R231) of packet `place.a`. -/
def execRemoteArrival (s : State) : Host.Outcome State Fault Refusal :=
  match s.packet s.place.a with
  | some p =>
    match p.kind with
    | .arrival ea st =>
      if s.mayApply p then
        let mast := bits ea 41 32
        let m := s.mastAt mast
        let s := s.drop p
        if m.holds p.launch (bits ea 19 16) && !m.isShadow (bits ea 19 16) then
          .next (s.arrive mast p.launch (m.physOff (bits ea 19 0)) st)
        else .next (s.isolation p.launch p.src ea)
      else s.passed
    | _ => s.passed
  | none => s.passed

end Sys2Proof.Machine
end

