-- ==== Sys2Proof/Machine/Banks.lean ====
section
/-! DEFINITION. Banks (R118 to R128): BCLAIM, BFREE, BFMT and BPAIR; and the scoreboard instructions SBQ and SBWAIT (R206,
R207). -/

namespace Sys2Proof.Machine

/-- A bank's handle (R119). -/
def handleOf (k : Nat) : Word := bankAddr (k * 65536)

/-- The bank that a handle names, held by the launch that acts: cause 0x0C otherwise (R119). -/
def State.handle (s : State) (h : Word) : Ex Nat := do
  let k := bits h 19 16
  need (h = handleOf k && s.mast.holds s.cur.launch k) (s.bad0C 0)
  .ok k

/-- Disarms the injections aimed at a bank of the mast that acts (R130). -/
def State.disarm (s : State) (k : Nat) : State :=
  { s with tasks := s.tasks.map fun p =>
      if mastOf p.2.core = s.mastNo && decide (bits p.2.binj 51 48 = k) then
        (p.1, { p.2 with binj := setBits p.2.binj 63 63 0 }) else p }

/-- Writes zero, with fresh check bits, to [lo, hi) of the memory keys (R120). -/
def State.scrub (s : State) (lo hi : Nat) : State :=
  { s with mem := Memory.clear s.mem lo hi, ecc := s.ecc.filter fun p => !(decide (lo ≤ 8 * p.1) && decide (8 * p.1 < hi)) }

/-- Replaces a bank of the mast that acts. -/
def State.setBank (s : State) (k : Nat) (b : Bank) : State := s.setMast { s.mast with banks := s.mast.banks.set k b }

/-- A bank of the mast that acts. -/
def State.bank (s : State) (k : Nat) : Bank := s.mast.banks.get k Bank.init

/-- BCLAIM (R120). The scrub is a write: it comes after the context's own earlier stores, which may name the bank under an earlier grant
(R325, R331); it waits for no bank. -/
def execBclaim (d : Reg) (pin : Bool) (s : State) : Host.Outcome State Fault Refusal :=
  s.finish (match (List.range 16).find? fun k => s.grant.banks.contains k && !s.mast.holds s.cur.launch k with
  | none => .ok (s.result 1 d 0)
  | some k => do
    need s.writesDone .wait
    let s := (s.disarm k).scrub (bankKey s.mastNo (k * 65536)) (bankKey s.mastNo ((k + 1) * 65536))
    .ok ((s.setBank k { holder := some s.cur.launch, pinned := pin, table := 0, type := 4 }).result 1 d (handleOf k)))

/-- Whether a ring of the launch covers a part of a bank. -/
def Mast.ringOver (m : Mast) (launch k : Nat) : Bool :=
  m.rings.any fun p => decide (p.1 / 32 = launch) && decide (p.2.base < (k + 1) * 65536)
    && decide (k * 65536 < p.2.base + p.2.size * p.2.count)

/-- Whether a bank is the front or shadow bank of a pair. -/
def Mast.paired (m : Mast) (k : Nat) : Bool := m.pairs.any fun p => decide (p.front = k) || decide (p.shadow = k)

/-- Whether an armed object lies in a bank. -/
def Mast.armedIn (m : Mast) (k : Nat) : Bool := m.trackers.any fun t => decide (t.2 / 65536 = k)

/-- The transfers of a mast's two journals. -/
def Mast.transfers (m : Mast) : List Transfer := m.hy0.journal ++ m.hy1.journal

/-- Whether an address of space 0x9 lies in a bank. -/
def inBank (a : Word) (k : Nat) : Bool := decide (space a = 0x9) && decide (bits a 19 16 = k)

/-- The transfers of a halyard that still have a mailbox to write and an arrival to make: one that has done so waits only for its
event to be posted (R317). -/
def Halyard.arriving (y : Halyard) : List Transfer := (if y.stage = .reported then y.journal.tail else y.journal).filter fun t => !t.told

/-- Whether a command or transfer of the launch still has an arrival or a mailbox write to make in a bank (R121). -/
def State.arrivalsDue (s : State) (k : Nat) : Bool :=
  ((List.range 8).any fun c => (s.coreAt (8 * s.mastNo + c)).yqueue.any fun y =>
    decide (y.launch = s.cur.launch) && bit (y.dbl.getD 0 0) 52 && decide (bits (y.dbl.getD 1 0) 19 16 = k)) ||
  (s.mast.hy0.arriving ++ s.mast.hy1.arriving).any fun t => decide (t.launch = s.cur.launch) && ((t.bar ≠ 0 && inBank t.bar k) || (t.mbox ≠ 0 && inBank t.mbox k))

/-- The waits of BFREE for a bank (R121). -/
def State.bankQuiet (s : State) (k : Nat) : Bool := !s.mast.bankBusy k && !s.arrivalsDue k

/-- BFREE (R121). Like BFMT and BPAIR it counts as a write, which comes after the context's own stores, those that post a command
among them (R200, R325). -/
def execBfree (h : RcSrc) (s : State) : Host.Outcome State Fault Refusal :=
  s.finish (do
    let k ← s.handle (s.rc h)
    need (!s.mast.ringOver s.cur.launch k && !s.mast.paired k && !s.mast.armedIn k) (s.bad0C 0)
    need (s.writesDone && s.bankQuiet k) .wait
    .ok (((s.disarm k).setBank k { s.bank k with holder := none, pinned := false }).advance 1))

/-- The bank whose format register a bank number names: of a pair, the current front or shadow bank. -/
def Mast.fmtBank (m : Mast) (k : Nat) : Nat :=
  match m.pairs.find? fun p => decide (p.shadow = k) with
  | some p => if p.swapped then p.front else k
  | none => m.resolve k

/-- BFMT (R123). -/
def execBfmt (h : RcSrc) (fmt : Src) (s : State) : Host.Outcome State Fault Refusal :=
  s.finish (do
    let k ← s.handle (s.rc h)
    let f := s.src fmt
    need (bits f 63 8 = 0 && bits f 3 0 < 0xE) (s.bad0C 0)
    need (bits f 3 0 < 0xC || s.grant.ctabs.contains (bits f 7 4)) (s.bad0C 0)
    let b := s.mast.fmtBank k
    need (s.writesDone && !s.mast.bankBusy b) .wait
    .ok ((s.setBank b { s.bank b with table := bits f 7 4, type := bits f 3 0 }).advance 1))

/-- Waits until the entries of a list, taken when the wait began, have retired. -/
def State.waitEntries (s : State) (l : List Nat) (go : State → State) : Ex State :=
  let l := match s.ctx.await with | .entries l => l | _ => l
  if s.mast.sb.any fun e => l.contains e.seq then .ok (s.setCtx { s.ctx with await := .entries l }).waiting else .ok (go s)

/-- BFMT.rd (R123). -/
def execBfmtRd (d : Reg) (h : RcSrc) (s : State) : Host.Outcome State Fault Refusal :=
  s.finish (do
    let k ← s.handle (s.rc h)
    let b := s.bank (s.mast.fmtBank k)
    .ok (s.result 1 d (Word.of ((if s.mast.paired k then 512 else 0) + (if b.pinned then 256 else 0) + 16 * b.table + b.type))))

/-- BPAIR (R126). -/
def execBpair (b : Reg) (front shadow : RcSrc) (s : State) : Host.Outcome State Fault Refusal :=
  s.finish (do
    let f ← s.handle (s.rc front)
    let sh ← s.handle (s.rc shadow)
    let l := s.cur.launch
    need (f ≠ sh && !s.mast.paired f && !s.mast.paired sh && !s.mast.ringOver l f && !s.mast.ringOver l sh) (s.bad0C 0)
    let a := s.reg b
    need (bits a 4 0 = 0) (.trap 0x03 a 0)
    let k := bits a 19 16
    need (space a = 0x9 && zeroFieldsOk a && s.mast.holds l k && k ≠ f && k ≠ sh) (s.bad0C 0)
    need (!s.mast.isShadow k) (.trap 0x04 a 0)
    need (s.writesDone && !s.mast.bankBusy sh) .wait
    let p : Pair := { front := f, shadow := sh, bar := bits a 19 0, swapped := false, due := none, late := [] }
    .ok ((s.setMast { s.mast with pairs := s.mast.pairs ++ [p] }).advance 1))

/-- BPAIR.clr (R126). A held bank that is the front of no pair takes cause 0x0C (log entry 67). -/
def execBpairClr (front : RcSrc) (s : State) : Host.Outcome State Fault Refusal :=
  s.finish (do
    let f ← s.handle (s.rc front)
    match s.mast.pairOf f with
    | none => .error (s.bad0C 0)
    | some p => do
      need (s.writesDone && s.bankQuiet p.front && s.bankQuiet p.shadow && p.due.isNone) .wait
      .ok ((s.setMast { s.mast with pairs := s.mast.pairs.filter fun q => decide (q.front ≠ f) }).advance 1))

/-! ### The scoreboard's instructions -/

/-- The core in its mast. -/
def State.coreIx (s : State) : Nat := s.cur.core % 8

/-- The entry that a registration of the context that acts takes now (R204). -/
def State.myEntry (s : State) : Option (Nat × Bool) := s.entryOn s.mastNo s.coreIx (.issue s.cur.ctx)

/-- The context that acts waits for an entry, in line with the registrations that wait (R204). -/
def State.awaitMine (s : State) : State := (s.awaitEntry s.mastNo s.coreIx (.issue s.cur.ctx)).waiting

/-- The context that acts takes an entry: it no longer waits for one. -/
def State.tookEntry (s : State) : State := s.endAwait s.mastNo (.issue s.cur.ctx)

/-- SBQ (R206). -/
def execSbq (d : Reg) (s : State) : Host.Outcome State Fault Refusal :=
  let es := s.mast.sb
  let shared := (es.filter fun e => decide (128 ≤ e.id)).length
  let own := (es.filter fun e => decide (e.core = s.coreIx)).length
  let mine := (es.filter fun e => decide (e.id / 16 = s.coreIx)).length
  .next (s.result 1 d (Word.of (es.length * 2 ^ 32 + (128 - shared) * 2 ^ 16 + own * 2 ^ 8 + (16 - mine))))

/-- SBWAIT and SBWAIT.r (R207). -/
def State.sbwait (s : State) (a n : Word) (write : Bool) : Host.Outcome State Fault Refusal :=
  s.finish (do
    if n = 0 then .ok (s.advance 1)
    else do
      need (space a = 0x9 && zeroFieldsOk a) (.trap 0x04 a 0)
      let off := bits a 19 0
      need (off + n.toNat ≤ 2 ^ 20) (.trap 0x04 a 0)
      let banks := (List.range 16).filter fun k => decide (k * 65536 < off + n.toNat) && decide (off < (k + 1) * 65536)
      need (banks.all (s.mast.holds s.cur.launch)) (s.bad0C 0)
      need (!banks.any s.mast.isShadow) (.trap 0x04 a 0)
      need s.drained .wait
      let ps := s.mast.pieces off n.toNat
      let es := s.mast.sb.filter fun e => ps.any fun p =>
        e.ivals.any (·.conflicts write (granules p.1 p.2).1 (granules p.1 p.2).2)
      s.waitEntries (es.map (·.seq)) fun s => s.advance 1)

/-- SBWAIT. -/
def execSbwait (a : RcSrc) (n : Src) (s : State) := s.sbwait (s.rc a) (s.src n) true
/-- SBWAIT.r. -/
def execSbwaitR (a : RcSrc) (n : Src) (s : State) := s.sbwait (s.rc a) (s.src n) false

end Sys2Proof.Machine
end

