-- ==== Sys2Proof/WellFormed.lean ====
section
/-! DEFINITION. The conditions that the types of `Instr` do not state: the values that the instructions' chapters
mark reserved. An instruction has an encoding when it is well-formed. -/

namespace Sys2Proof

/-- The CSR numbers that a chapter assigns (R105, R131, R147, R188, R255, R260, R287, R307, R312, R354). -/
def csrAssigned (n : Nat) : Bool :=
  [0x000, 0x010, 0x011, 0x012, 0x013, 0x014, 0x015, 0x018, 0x019, 0x01A, 0x01B, 0x01C, 0x020, 0x021, 0x022, 0x023, 0x024,
   0x040, 0x041, 0x042, 0x060, 0x061, 0x062, 0x063, 0x064, 0x065, 0x066, 0x067,
   0x080, 0x081, 0x082, 0x083, 0x084, 0x085, 0x086].contains n ||
  [0x0A0, 0x0A1, 0x0A2, 0x0A3, 0x0C0, 0x0C1, 0x0C2, 0x0C3, 0x0E0, 0x0E1, 0x0E2, 0x0E3, 0x0E4,
   0x100, 0x101, 0x102, 0x103, 0x104, 0x105, 0x106, 0x107, 0x108, 0x110, 0x111, 0x112, 0x113, 0x114, 0x115,
   0x120, 0x121, 0x122].contains n

/-- The CSR numbers of the range that R104 closes to task access. -/
def csrClosed (n : Nat) : Bool := decide (0x140 ≤ n) && decide (n ≤ 0x17F)

/-- The CSR numbers whose reads are rows of their own: hlaunch, mvwait, hidx and hidxw. -/
def csrReadRow (n : Nat) : Bool := [0x107, 0x113, 0x114, 0x115].contains n

/-- The CSR numbers whose writes are rows of their own: binj and mvgo. -/
def csrWriteRow (n : Nat) : Bool := [0x0E0, 0x112].contains n

/-- The effect of token `t` of a VXP program on the height of the stack (R249): values it takes and leaves. -/
def vxpShape (t : Nat) : Nat × Nat :=
  if t ≤ 4 then (0, 1) else if t ≤ 0xA then (2, 1) else if t = 0xB then (3, 1) else if t ≤ 0xD then (1, 1)
  else if t = 0xE then (1, 2) else (2, 2)

/-- Walks a VXP program (R249) and answers the number of its first bad token. -/
def vxpBad (isInt : Bool) : List Nat → Nat → Nat → Nat → Bool → Option Nat
  | [], k, depth, _, ended => if ended || depth = 1 then none else some (k - 1)
  | t :: ts, k, depth, ops, ended =>
    if ended then (if t = 0 then vxpBad isInt ts (k + 1) depth ops true else some k)
    else if t = 0 then (if k = 0 || depth ≠ 1 then some k else vxpBad isInt ts (k + 1) depth ops true)
    else
      let (takes, leaves) := vxpShape t
      let ops' := if 5 ≤ t ∧ t ≤ 0xD then ops + 1 else ops
      if depth < takes || 4 < depth - takes + leaves || 7 < ops' || (isInt && t = 8) then some k
      else vxpBad isInt ts (k + 1) (depth - takes + leaves) ops' false

/-- The twelve tokens of a VXP program (R249). -/
def vxpTokens (prog : Nat) : List Nat := (List.range 12).map fun k => prog / 16 ^ k % 16

/-- Whether a lane type is an integer type. -/
def VTy.isInt : VTy → Bool
  | .i32 | .n32 => true
  | _ => false

/-- The frame sizes of R77. -/
def frameOk (f : Nat) : Bool := [4, 8, 12, 16, 20, 24, 28].contains f

/-- The fields of BFX and BFI (R93). -/
def fieldOk (pos len : Nat) : Bool := decide (1 ≤ len) && decide (pos + len ≤ 64)

/-- Whether an instruction holds no reserved value. -/
def WellFormed : Instr → Bool
  | .bfx _ _ _ pos len => fieldOk pos.toNat len.toNat
  | .bfi _ _ pos len => fieldOk pos.toNat len.toNat
  | .call f _ => frameOk f
  | .callx f _ => frameOk f
  | .loop _ off => decide (1 ≤ off.toInt)
  | .lfor _ _ off _ _ => decide (2 ≤ off.toInt)
  | .vmulz t _ _ _ _ => !t.isInt
  | .vidx t _ _ _ _ => t.isInt
  | .vxp t _ _ _ _ _ prog _ => (vxpBad t.isInt (vxpTokens prog.toNat) 0 0 0 false).isNone
  | .qset _ _ _ size => decide (size ≠ 0)
  | .csrr _ n => (csrAssigned n.toNat || csrClosed n.toNat) && !csrReadRow n.toNat
  | .csrw n _ => (csrAssigned n.toNat || csrClosed n.toNat) && !csrWriteRow n.toNat
  | _ => true

end Sys2Proof
end

