-- ==== Sys2Proof/Decode.lean ====
section
/-! DEFINITION. Decoding of instruction words (R18 to R43) and, after it, the encoder, both from the encoding tables of
the instructions' chapters. Decoding is total: it answers an instruction, or the step of R38 that fails and the field
of R39. -/

namespace Sys2Proof

/-- Why a decode fails: word `k` is missing; cause 0x01 or cause 0x02 with the field of R39. -/
inductive DecErr where
  | short (k : Nat)
  | illegal (field : Nat)
  | operand (field : Nat)
  deriving DecidableEq, Repr

/-- A decoding step. -/
abbrev Dec (α : Type) := Except DecErr α

/-! ### Words and fields (R20) -/

/-- Bits [hi:lo] of an instruction word. -/
def fld (w hi lo : Nat) : Nat := w / 2 ^ lo % 2 ^ (hi + 1 - lo)

/-- A field that must be zero: reserved_bits of R38. -/
def zeroF (field x : Nat) : Dec Unit := if x = 0 then .ok () else .error (.illegal field)

/-- A field whose value must be one the chapter lists: reserved_value of R38. -/
def listed (field : Nat) (c : Bool) : Dec Unit := if c then .ok () else .error (.illegal field)

/-- An operand that must be accepted: the last check of R38. -/
def accept {α : Type} (field : Nat) (x : Option α) : Dec α :=
  match x with
  | some v => .ok v
  | none => .error (.operand field)

/-- An untagged register field (R21); a hart has w0 to w31 and g0 only (R303). -/
def regOf (e : Engine) (n : Nat) : Option Reg :=
  if n < 32 then some (.w (Fin.ofNat 32 n))
  else if n < 40 ∧ (e ≠ .hart ∨ n = 32) then some (.g (Fin.ofNat 8 (n - 32)))
  else none

/-- A source that accepts tags 00, 10 and 11 (R25); a hart has no constant bank (R303). -/
def srcOf (e : Engine) (tag n : Nat) : Option Src :=
  if tag = 0 then (regOf e n).map .reg
  else if tag = 2 then (if e = .hart then none else some (.const (Fin.ofNat 64 n)))
  else if tag = 3 then some (.lit (BitVec.ofNat 6 n))
  else none

/-- A source that accepts tags 00 and 10. -/
def rcOf (e : Engine) (tag n : Nat) : Option RcSrc :=
  if tag = 0 then (regOf e n).map .reg
  else if tag = 2 then (if e = .hart then none else some (.const (Fin.ofNat 64 n)))
  else none

/-- A source of class 100 that accepts every tag (R244). -/
def vsrcOf (e : Engine) (tag n : Nat) : Option VSrc :=
  if tag = 0 then (regOf e n).map .reg
  else if tag = 1 then (if n < 16 then some (.vec (Fin.ofNat 16 n)) else none)
  else if tag = 2 then some (.const (Fin.ofNat 64 n))
  else if tag = 3 then some (.lit (BitVec.ofNat 6 n))
  else none

/-- A tagged source that must be a vector register. -/
def vecOf (tag n : Nat) : Option (Fin 16) := if tag = 1 ∧ n < 16 then some (Fin.ofNat 16 n) else none

/-- A tagged source that accepts tag 00 only. -/
def refOf (e : Engine) (tag n : Nat) : Option Reg := if tag = 0 then regOf e n else none

/-- A name field (R26): rings 32, handles 16. -/
def nameOf (lim tag n : Nat) : Option Nat := if tag = 0 ∧ n < lim then some n else none

/-- The type code of R30. -/
def ityOf (m : Nat) : ITy := if m = 0 then .i64 else if m = 1 then .n64 else if m = 2 then .i32 else .n32

/-- The rounding code of R30. -/
def rndOf (m : Nat) : Rnd := if m = 0 then .rne else if m = 1 then .rz else if m = 2 then .ru else .rd

/-- The lane type of R34. -/
def vtyOf (m : Nat) : VTy := if m = 0 then .f32 else if m = 1 then .i32 else if m = 2 then .n32 else .f64

/-- The predicate of R245. -/
def predOf (m : Nat) : Pred := if m = 0 then .all else if m = 1 then .m1 else if m = 2 then .m2 else .m3

/-- The relation of R248. -/
def relOf (m : Nat) : Rel := if m = 0 then .eq else if m = 1 then .lt else if m = 2 then .le else .ne

/-- The scope of R137. -/
def scopeOf (m : Nat) : Option Scope :=
  if m = 0 then some .strand else if m = 1 then some .core else if m = 2 then some .mast else if m = 3 then some .quad
  else if m = 4 then some .dev else if m = 5 then some .sys else none

/-- The element type of a code (R31). -/
def etyOf (m : Nat) : Option ETy :=
  if m = 0 then some .i8 else if m = 1 then some .i16 else if m = 2 then some .i32 else if m = 3 then some .i64
  else if m = 4 then some .n8 else if m = 5 then some .n16 else if m = 6 then some .n32 else if m = 7 then some .n64
  else if m = 8 then some .bf16 else if m = 9 then some .f16 else if m = 10 then some .f32 else if m = 11 then some .f64
  else if m = 12 then some .ef8a else if m = 13 then some .ef8b else none

/-- The words of an instruction, as numbers. -/
structure Words where
  w0 : Nat
  w1 : Nat
  w2 : Nat
  deriving DecidableEq, Repr

namespace Words

variable (w : Words)

/-- Field d of formats T, I, M and S, and c of format B. -/
def d : Nat := fld w.w0 23 18
/-- Field ta. -/
def ta : Nat := fld w.w0 17 16
/-- Field a. -/
def a : Nat := fld w.w0 15 10
/-- Field tb. -/
def tb : Nat := fld w.w0 9 8
/-- Field b. -/
def b : Nat := fld w.w0 7 2
/-- Field mod. -/
def mod : Nat := fld w.w0 1 0
/-- Field imm of format I. -/
def imm : Nat := fld w.w0 9 0
/-- Field cond of format B. -/
def cond : Nat := fld w.w0 17 15
/-- Field off of format B. -/
def boff : Nat := fld w.w0 14 0
/-- Field base of format M. -/
def base : Nat := fld w.w0 17 12
/-- Field off of format M. -/
def moff : Nat := fld w.w0 11 0
/-- Field csr of format S. -/
def csr : Nat := fld w.w0 17 6
/-- The zero field of format S. -/
def z : Nat := fld w.w0 5 0

end Words

/-! ### Opcodes (R35, R37, R303) -/

/-- Whether an opcode is assigned (R35). -/
def assigned (op : Nat) : Bool :=
  (decide (0x01 ≤ op) && decide (op ≤ 0x1F)) || (decide (0x20 ≤ op) && decide (op ≤ 0x34)) ||
  (decide (0x41 ≤ op) && decide (op ≤ 0x5C)) || (decide (0x61 ≤ op) && decide (op ≤ 0x6F)) ||
  (decide (0x81 ≤ op) && decide (op ≤ 0x9A)) || (decide (0xA1 ≤ op) && decide (op ≤ 0xAE)) ||
  (decide (0xC1 ≤ op) && decide (op ≤ 0xCB)) || (decide (0xD0 ≤ op) && decide (op ≤ 0xD4)) ||
  (decide (0xE1 ≤ op) && decide (op ≤ 0xF4))

/-- Whether an engine decodes an assigned opcode (R37, R303). -/
def decodedBy (e : Engine) (op : Nat) : Bool :=
  match e with
  | .mast => op < 0xF1
  | .tackle => decide (op < 0x60) || (decide (0xE0 ≤ op) && !(decide (0xE4 ≤ op) && decide (op ≤ 0xEA)))
  | .hart => decide (op < 0x20) || [0x20, 0x21, 0x22, 0x23, 0x24, 0x25, 0x26, 0x27, 0x28, 0x2D, 0x2E, 0x2F].contains op
      || (decide (0x41 ≤ op) && decide (op ≤ 0x4F)) || (decide (0x59 ≤ op) && decide (op ≤ 0x5C))
      || [0xE3, 0xED, 0xEE, 0xEF].contains op

/-- The number of words of an opcode's format (R19, R35). -/
def opWords (op : Nat) : Nat :=
  if op = 0x94 then 3
  else if [0x0E, 0x0F, 0x11, 0x22, 0x25, 0x26, 0x27, 0x28, 0x2A, 0x2E, 0x51, 0x5A, 0x6E, 0xA1, 0xE5].contains op then 2
  else 1

/-! ### Shared layouts -/

/-- `OP d, a, b` of format T with three checked operands; `mk` builds the instruction. -/
def dec3 {α β : Type} (e : Engine) (w : Words) (fa : Engine → Nat → Nat → Option α) (fb : Engine → Nat → Nat → Option β)
    (mk : Reg → α → β → Instr) : Dec Instr := do
  let d ← accept 1 (regOf e w.d)
  let a ← accept 2 (fa e w.ta w.a)
  let b ← accept 3 (fb e w.tb w.b)
  .ok (mk d a b)

/-- `OP d, a` of format T after its zero checks. -/
def dec2 {α : Type} (e : Engine) (w : Words) (fa : Engine → Nat → Nat → Option α) (mk : Reg → α → Instr) : Dec Instr := do
  let d ← accept 1 (regOf e w.d)
  let a ← accept 2 (fa e w.ta w.a)
  .ok (mk d a)

/-- `OP a, b` of format T after its zero checks. -/
def decAB {α β : Type} (e : Engine) (w : Words) (fa : Engine → Nat → Nat → Option α) (fb : Engine → Nat → Nat → Option β)
    (mk : α → β → Instr) : Dec Instr := do
  let a ← accept 2 (fa e w.ta w.a)
  let b ← accept 3 (fb e w.tb w.b)
  .ok (mk a b)

/-- `OP d, [base+off]` of format M. -/
def decM (e : Engine) (w : Words) (mk : Reg → Reg → BitVec 12 → Instr) : Dec Instr := do
  let d ← accept 1 (regOf e w.d)
  let b ← accept 4 (regOf e w.base)
  .ok (mk d b (BitVec.ofNat 12 w.moff))

/-- A format-S word whose fields are all zero. -/
def decS0 (w : Words) (i : Instr) : Dec Instr := do
  zeroF 1 w.d
  zeroF 5 w.csr
  zeroF 5 w.z
  .ok i

/-- A T-format instruction of class 100 with a vector destination, two sources and a predicate. -/
def decV {α β : Type} (e : Engine) (w : Words) (ok : Bool) (fa : Engine → Nat → Nat → Option α)
    (fb : Engine → Nat → Nat → Option β) (mk : VTy → Fin 16 → α → β → Pred → Instr) : Dec Instr := do
  listed 1 ok
  let a ← accept 2 (fa e w.ta w.a)
  let b ← accept 3 (fb e w.tb w.b)
  .ok (mk (vtyOf (w.d / 16)) (Fin.ofNat 16 w.d) a b (predOf w.mod))

/-- The operand of an OPND extension (R24). -/
def opndExt (e : Engine) (w : Words) : Option Src := srcOf e (fld w.w1 31 30) (fld w.w1 29 24)

/-! ### The classes (R35) -/

/-- Class 000: scalar arithmetic (R91 to R97). -/
def dec000 (e : Engine) (op : Nat) (w : Words) : Dec Instr :=
  match op with
  | 0x01 => dec3 e w srcOf srcOf (.add (ityOf w.mod))
  | 0x02 => dec3 e w srcOf srcOf (.sub (ityOf w.mod))
  | 0x03 => dec3 e w srcOf srcOf (.mul (ityOf w.mod))
  | 0x04 => dec3 e w srcOf srcOf (.mulh (ityOf w.mod))
  | 0x05 => dec3 e w srcOf srcOf (.div (ityOf w.mod))
  | 0x06 => dec3 e w srcOf srcOf (.rem (ityOf w.mod))
  | 0x07 => dec3 e w srcOf srcOf (.min (ityOf w.mod))
  | 0x08 => dec3 e w srcOf srcOf (.max (ityOf w.mod))
  | 0x09 => dec3 e w srcOf srcOf (.slt (ityOf w.mod))
  | 0x0A => dec3 e w srcOf srcOf (.seq (ityOf w.mod))
  | 0x0B => dec3 e w srcOf srcOf
      (if w.mod = 0 then .and else if w.mod = 1 then .or else if w.mod = 2 then .xor else .andn)
  | 0x0C => dec3 e w srcOf srcOf
      (if w.mod = 0 then .shl else if w.mod = 1 then .shr else if w.mod = 2 then .sra else .rot)
  | 0x0D =>
    let fc := w.tb * 64 + w.b
    if fc ≤ 2 then do
      listed 5 (w.mod % 2 = 1)
      let t := if w.mod = 1 then BTy.n64 else BTy.n32
      dec2 e w srcOf (if fc = 0 then .clz t else if fc = 1 then .ctz t else .popc t)
    else do
      listed 3 ([0x10, 0x11, 0x12, 0x20, 0x21, 0x22].contains fc)
      listed 5 (w.mod = 0)
      dec2 e w srcOf (if fc = 0x10 then .sextI8 else if fc = 0x11 then .sextI16 else if fc = 0x12 then .sextI32
        else if fc = 0x20 then .zextN8 else if fc = 0x21 then .zextN16 else .zextN32)
  | 0x0E => do
    zeroF 3 (w.tb * 64 + w.b)
    zeroF 6 (fld w.w1 31 14 + fld w.w1 7 7)
    listed 5 (w.mod < 2)
    listed 6 (fieldOk (fld w.w1 13 8) (fld w.w1 6 0))
    dec2 e w srcOf fun d a => .bfx (w.mod = 1) d a (BitVec.ofNat 6 (fld w.w1 13 8)) (BitVec.ofNat 7 (fld w.w1 6 0))
  | 0x0F => do
    zeroF 3 (w.tb * 64 + w.b)
    zeroF 6 (fld w.w1 31 14 + fld w.w1 7 7)
    listed 5 (w.mod = 0)
    listed 6 (fieldOk (fld w.w1 13 8) (fld w.w1 6 0))
    dec2 e w srcOf fun d a => .bfi d a (BitVec.ofNat 6 (fld w.w1 13 8)) (BitVec.ofNat 7 (fld w.w1 6 0))
  | 0x10 => do
    zeroF 2 (w.ta * 64 + w.a)
    let d ← accept 1 (regOf e w.d)
    .ok (.li d (BitVec.ofNat 10 w.imm))
  | 0x11 => do
    zeroF 2 w.a
    zeroF 5 w.imm
    zeroF 6 (if w.ta = 2 then fld w.w1 31 9 else 0)
    let d ← accept 1 (regOf e w.d)
    if w.ta = 3 then .ok (.liLit32 d (BitVec.ofNat 32 w.w1))
    else if w.ta = 2 ∧ e ≠ .hart then .ok (.liCidx d (Fin.ofNat 512 w.w1))
    else .error (.operand 2)
  | 0x12 => dec3 e w srcOf srcOf (.faddF32 (rndOf w.mod))
  | 0x13 => dec3 e w srcOf srcOf (.faddF64 (rndOf w.mod))
  | 0x14 => dec3 e w srcOf srcOf (.fsubF32 (rndOf w.mod))
  | 0x15 => dec3 e w srcOf srcOf (.fsubF64 (rndOf w.mod))
  | 0x16 => dec3 e w srcOf srcOf (.fmulF32 (rndOf w.mod))
  | 0x17 => dec3 e w srcOf srcOf (.fmulF64 (rndOf w.mod))
  | 0x18 => dec3 e w srcOf srcOf (.fmaF32 (rndOf w.mod))
  | 0x19 => dec3 e w srcOf srcOf (.fmaF64 (rndOf w.mod))
  | 0x1A => dec3 e w srcOf srcOf (.fdivF32 (rndOf w.mod))
  | 0x1B => dec3 e w srcOf srcOf (.fdivF64 (rndOf w.mod))
  | 0x1C => do
    listed 5 (w.mod ≠ 3)
    dec3 e w srcOf srcOf (if w.mod = 0 then .fminF32 else if w.mod = 1 then .fmaxF32 else .fcmpF32)
  | 0x1D => do
    listed 5 (w.mod ≠ 3)
    dec3 e w srcOf srcOf (if w.mod = 0 then .fminF64 else if w.mod = 1 then .fmaxF64 else .fcmpF64)
  | 0x1E => do
    zeroF 3 (w.tb * 4 + w.b / 16)
    listed 3 (w.b % 16 = 10 || w.b % 16 = 11)
    dec2 e w srcOf (.fsqrt (if w.b % 16 = 10 then .f32 else .f64) (rndOf w.mod))
  | 0x1F =>
    match etyOf (w.tb * 4 + w.b / 16), etyOf (w.b % 16) with
    | some dst, some src => dec2 e w srcOf (.fcvt dst src (rndOf w.mod))
    | _, _ => .error (.illegal 3)
  | _ => .error (.illegal 0)

/-- A conditional branch without an extension (R98). -/
def decBranch (e : Engine) (w : Words) (mk : ITy → Bool → Reg → BitVec 15 → Instr) : Dec Instr := do
  let c ← accept 1 (regOf e w.d)
  .ok (mk (ityOf (w.cond % 4)) (w.cond / 4 = 1) c (BitVec.ofNat 15 w.boff))

/-- A conditional branch with an OPND extension (R98). -/
def decBranchX (e : Engine) (w : Words) (mk : ITy → Bool → Reg → BitVec 15 → Src → Instr) : Dec Instr := do
  zeroF 6 (fld w.w1 23 0)
  let c ← accept 1 (regOf e w.d)
  let y ← accept 6 (opndExt e w)
  .ok (mk (ityOf (w.cond % 4)) (w.cond / 4 = 1) c (BitVec.ofNat 15 w.boff) y)

/-- Class 001: control (R35, R77 to R101). -/
def dec001 (e : Engine) (op : Nat) (w : Words) : Dec Instr :=
  match op with
  | 0x20 => do
    zeroF 5 w.z
    let d ← accept 1 (regOf e w.d)
    .ok (.nop d (BitVec.ofNat 12 w.csr))
  | 0x21 => do
    zeroF 1 w.d
    zeroF 5 w.cond
    .ok (.br (BitVec.ofNat 15 w.boff))
  | 0x22 => do
    zeroF 1 w.d
    zeroF 5 (w.cond + w.boff)
    .ok (.brFar (BitVec.ofNat 32 w.w1))
  | 0x23 => decBranch e w .bz
  | 0x24 => decBranch e w .bnz
  | 0x25 => decBranchX e w .beq
  | 0x26 => decBranchX e w .bne
  | 0x27 => decBranchX e w .blt
  | 0x28 => decBranchX e w .bge
  | 0x29 => do
    zeroF 5 w.cond
    listed 1 (frameOk w.d)
    .ok (.call w.d (BitVec.ofNat 15 w.boff))
  | 0x2A => do
    zeroF 1 w.d
    zeroF 5 (w.cond + w.boff)
    .ok (.callFar (BitVec.ofNat 32 w.w1))
  | 0x2B => do
    zeroF 3 (w.tb * 64 + w.b)
    zeroF 5 w.mod
    listed 1 (frameOk w.d)
    let a ← accept 2 (rcOf e w.ta w.a)
    .ok (.callx w.d a)
  | 0x2C => decS0 w .ret
  | 0x2D => do
    zeroF 5 w.cond
    listed 5 (1 ≤ (BitVec.ofNat 15 w.boff).toInt)
    let c ← accept 1 (regOf e w.d)
    .ok (.loop c (BitVec.ofNat 15 w.boff))
  | 0x2E => do
    zeroF 5 (w.cond / 4)
    zeroF 6 (fld w.w1 15 0)
    listed 5 (2 ≤ (BitVec.ofNat 15 w.boff).toInt)
    let c ← accept 1 (regOf e w.d)
    let l ← accept 6 (opndExt e w)
    let s ← accept 6 (srcOf e (fld w.w1 23 22) (fld w.w1 21 16))
    .ok (.lfor (ityOf (w.cond % 4)) c (BitVec.ofNat 15 w.boff) l s)
  | 0x2F => decS0 w .lend
  | 0x30 => do
    zeroF 3 (w.tb * 64 + w.b)
    zeroF 5 w.mod
    dec2 e w srcOf .park
  | 0x31 => decS0 w .yield
  | 0x32 => do
    zeroF 1 w.d
    let a ← accept 2 (srcOf e w.ta w.a)
    .ok (.trap a (BitVec.ofNat 10 w.imm))
  | 0x33 => decS0 w .eret
  | 0x34 => do
    zeroF 1 w.d
    zeroF 2 (w.ta * 64 + w.a)
    .ok (.bkpt (BitVec.ofNat 10 w.imm))
  | _ => .error (.illegal 0)

/-- An M word with an OPND extension (R115). -/
def decMX (e : Engine) (w : Words) (mk : Reg → Reg → BitVec 12 → Src → Instr) : Dec Instr := do
  zeroF 6 (fld w.w1 23 0)
  let d ← accept 1 (regOf e w.d)
  let b ← accept 4 (regOf e w.base)
  let n ← accept 6 (opndExt e w)
  .ok (mk d b (BitVec.ofNat 12 w.moff) n)

/-- Class 010: loads, stores, local and bank atomics, PREF and FENCE (R112, R115, R136, R137). -/
def dec010 (e : Engine) (op : Nat) (w : Words) : Dec Instr :=
  match op with
  | 0x41 => decM e w .ldbI8
  | 0x42 => decM e w .ldbN8
  | 0x43 => decM e w .ldhI16
  | 0x44 => decM e w .ldhN16
  | 0x45 => decM e w .ldI32
  | 0x46 => decM e w .ldN32
  | 0x47 => decM e w .ld
  | 0x48 => decM e w .stb
  | 0x49 => decM e w .sth
  | 0x4A => decM e w .stN32
  | 0x4B => decM e w .st
  | 0x4C => decM e w .ldAcq
  | 0x4D => decM e w .stRel
  | 0x4E => decM e w .ldAcqN32
  | 0x4F => decM e w .stRelN32
  | 0x50 => decM e w .aadd
  | 0x51 => decMX e w .acas
  | 0x52 => decM e w .axch
  | 0x53 => decM e w .aminI64
  | 0x54 => decM e w .aminN64
  | 0x55 => decM e w .amaxI64
  | 0x56 => decM e w .amaxN64
  | 0x57 => decM e w .aand
  | 0x58 => decM e w .aor
  | 0x59 => decM e w .badd
  | 0x5A => decMX e w .bcas
  | 0x5B => do
    listed 1 (w.d < 2)
    let b ← accept 4 (regOf e w.base)
    .ok ((if w.d = 0 then Instr.prefCode else Instr.prefHeap) b (BitVec.ofNat 12 w.moff))
  | 0x5C => do
    zeroF 1 w.d
    zeroF 2 (w.ta * 64 + w.a)
    zeroF 5 (fld w.w0 9 6 + fld w.w0 3 3)
    match scopeOf (fld w.w0 2 0) with
    | none => .error (.illegal 5)
    | some sc =>
      let k := fld w.w0 5 4
      .ok (if k = 0 then .fenceSc sc else if k = 1 then .fenceSl sc else if k = 2 then .fenceAcq sc else .fenceRel sc)
  | _ => .error (.illegal 0)

/-- Class 011: nodes and redexes (R148, R180). -/
def dec011 (e : Engine) (op : Nat) (w : Words) : Dec Instr :=
  match op with
  | 0x61 => do
    listed 5 (w.mod = 0)
    dec3 e w srcOf srcOf .nnew
  | 0x62 => do
    zeroF 3 (w.tb * 64 + w.b)
    listed 5 (w.mod = 0)
    dec2 e w refOf .nfree
  | 0x63 => do
    listed 5 (w.moff < 8)
    decM e w fun d n _ => .nld d n (Fin.ofNat 8 w.moff)
  | 0x64 => do
    listed 5 (w.moff < 8)
    decM e w fun d n _ => .nst d n (Fin.ofNat 8 w.moff)
  | 0x65 => do
    listed 5 (w.mod = 0)
    dec3 e w refOf srcOf .pget
  | 0x66 => do
    zeroF 1 w.d
    listed 5 (w.mod = 0)
    decAB e w refOf refOf .plink
  | 0x67 => do
    zeroF 1 w.d
    listed 5 (w.mod < 2)
    decAB e w refOf refOf (if w.mod = 0 then .splice else .spliceJ)
  | 0x68 => do
    listed 5 (w.mod = 0)
    dec3 e w refOf refOf .ndup
  | 0x69 => do
    zeroF 3 (w.tb * 64 + w.b)
    listed 5 (w.mod = 0)
    dec2 e w refOf .nown
  | 0x6A => do
    listed 1 (w.d < 16)
    listed 5 (w.mod = 0)
    decAB e w refOf refOf (.rpush (Fin.ofNat 16 w.d))
  | 0x6B => do
    zeroF 2 (w.ta * 64 + w.a)
    zeroF 3 (w.tb * 64 + w.b)
    listed 5 (w.mod = 0)
    let d ← accept 1 (if w.d < 31 then some (Fin.ofNat 31 w.d) else none)
    .ok (.rpop d)
  | 0x6C => do
    listed 5 (w.mod = 0)
    let d ← accept 1 (if w.d < 31 then some (Fin.ofNat 31 w.d) else none)
    decAB e w refOf refOf (.meet d)
  | 0x6D => do
    listed 5 (w.mod = 0)
    dec3 e w srcOf srcOf .rule
  | 0x6E => do
    zeroF 6 (fld w.w1 23 0)
    listed 1 (w.d < 16)
    listed 5 (w.mod = 0)
    let h ← accept 2 (rcOf e w.ta w.a)
    let a0 ← accept 3 (srcOf e w.tb w.b)
    let a1 ← accept 6 (opndExt e w)
    .ok (.fork (Fin.ofNat 16 w.d) h a0 a1)
  | 0x6F => do
    zeroF 3 (w.tb * 64 + w.b)
    listed 5 (w.mod = 0)
    dec2 e w rcOf .join
  | _ => .error (.illegal 0)

/-- Class 100: the lane pool (R243 to R252). -/
def dec100 (e : Engine) (op : Nat) (w : Words) : Dec Instr :=
  match op with
  | 0x81 => do
    zeroF 3 (w.tb * 64 + w.b)
    listed 5 (w.mod = 0)
    dec2 e w srcOf .vclaim
  | 0x82 => do
    zeroF 1 w.d
    zeroF 2 (w.ta * 64 + w.a)
    zeroF 3 (w.tb * 64 + w.b)
    listed 5 (w.mod = 0)
    .ok .vyield
  | 0x83 => do
    zeroF 3 (w.tb * 64 + w.b)
    listed 5 (w.mod = 0)
    dec2 e w srcOf .vren
  | 0x84 => do
    let b ← accept 4 (regOf e w.base)
    .ok (.vld (vtyOf (w.d / 16)) (Fin.ofNat 16 w.d) b (BitVec.ofNat 12 w.moff))
  | 0x85 => do
    let b ← accept 4 (regOf e w.base)
    .ok (.vst (vtyOf (w.d / 16)) (Fin.ofNat 16 w.d) b (BitVec.ofNat 12 w.moff))
  | 0x86 => decV e w true rcOf (fun _ t n => vecOf t n) .vgath
  | 0x87 => decV e w true vsrcOf vsrcOf .vadd
  | 0x88 => decV e w true vsrcOf vsrcOf .vsub
  | 0x89 => decV e w true vsrcOf vsrcOf .vmul
  | 0x8A => decV e w (!(vtyOf (w.d / 16)).isInt) vsrcOf vsrcOf .vmulz
  | 0x8B => decV e w true vsrcOf vsrcOf .vfma
  | 0x8C => decV e w true vsrcOf vsrcOf .vmin
  | 0x8D => decV e w true vsrcOf vsrcOf .vmax
  | 0x8E => do
    zeroF 1 (w.d / 4 % 4)
    decAB e w vsrcOf vsrcOf (.vcmp (relOf w.mod) (vtyOf (w.d / 16)) (Fin.ofNat 4 w.d))
  | 0x8F => decAB e w vsrcOf vsrcOf (.vsel (vtyOf (w.d / 16)) (Fin.ofNat 16 w.d) (Fin.ofNat 4 w.mod))
  | 0x90 => do
    zeroF 3 (w.tb + w.b / 4 % 4)
    let a ← accept 2 (vsrcOf e w.ta w.a)
    .ok (.vcvt (vtyOf (w.d / 16)) (vtyOf (w.b / 16)) (rndOf (w.b % 4)) (Fin.ofNat 16 w.d) a (predOf w.mod))
  | 0x91 => dec3 e w rcOf srcOf (.vsum (vtyOf w.mod))
  | 0x92 => dec3 e w rcOf srcOf (.vmaxr (vtyOf w.mod))
  | 0x93 => do
    let d ← accept 1 (regOf e w.d)
    let q ← accept 2 (nameOf 32 w.ta w.a)
    let c ← accept 3 (refOf e w.tb w.b)
    .ok (.vredq (vtyOf w.mod) d (Fin.ofNat 32 q) c)
  | 0x94 =>
    let prog := w.w1 + 2 ^ 32 * fld w.w2 15 0
    match vxpBad (vtyOf (w.d / 16)).isInt (vxpTokens prog) 0 0 0 false with
    | some k => .error (.illegal (if k < 8 then 6 else 7))
    | none => do
      let x0 ← accept 2 (vsrcOf e w.ta w.a)
      let x1 ← accept 3 (vsrcOf e w.tb w.b)
      let x2 ← accept 7 (vsrcOf e (fld w.w2 23 22) (fld w.w2 21 16))
      let x3 ← accept 7 (vsrcOf e (fld w.w2 31 30) (fld w.w2 29 24))
      .ok (.vxp (vtyOf (w.d / 16)) (Fin.ofNat 16 w.d) x0 x1 x2 x3 (BitVec.ofNat 48 prog) (predOf w.mod))
  | 0x95 => decV e w (w.d / 16 = 2) rcOf vsrcOf fun _ v a b p => .vrank v a b p
  | 0x96 => decV e w (w.d / 16 = 2) rcOf vsrcOf fun _ v a b p => .vselect v a b p
  | 0x97 => do
    zeroF 3 (w.tb * 64 + w.b)
    listed 1 (w.d / 16 = 2)
    let a ← accept 2 (vsrcOf e w.ta w.a)
    .ok (.vpopc (Fin.ofNat 16 w.d) a (predOf w.mod))
  | 0x98 => decV e w true (fun _ t n => vecOf t n) vsrcOf .vshuf
  | 0x99 => do
    zeroF 3 (w.tb * 64 + w.b)
    let a ← accept 2 (srcOf e w.ta w.a)
    .ok (.vbcast (vtyOf (w.d / 16)) (Fin.ofNat 16 w.d) a (predOf w.mod))
  | 0x9A => decV e w (vtyOf (w.d / 16)).isInt srcOf srcOf .vidx
  | _ => .error (.illegal 0)

/-- The zero bits of QSET's OWN word (R132). -/
def ownZero (w : Words) : Nat := fld w.w1 31 20 + fld w.w1 15 11

/-- Class 101: rings, banks, the scoreboard and barriers (R119, R132, R134, R206, R231). R119 names the accepted tags of
some sources only, no zero fields for a mod that it does not list, and R132 and R134 leave fields and mods of the ring instructions
open, and R134 says that QHEAD's d is zero beside a table in which it is the destination: the model's choices are in log entry 65. -/
def dec101 (e : Engine) (op : Nat) (w : Words) : Dec Instr :=
  match op with
  | 0xA1 =>
    if w.mod = 1 then do
      zeroF 2 (w.ta * 64 + w.a)
      zeroF 3 (w.tb * 64 + w.b)
      zeroF 6 w.w1
      listed 1 (w.d < 32)
      .ok (.qsetClr (Fin.ofNat 32 w.d))
    else do
      zeroF 3 (w.tb * 64 + w.b)
      zeroF 6 (ownZero w)
      listed 1 (w.d < 32)
      listed 5 (w.mod = 0)
      listed 6 (fld w.w1 19 16 < 9 && fld w.w1 10 0 ≠ 0)
      let a ← accept 2 (rcOf e w.ta w.a)
      .ok (.qset (Fin.ofNat 32 w.d) a (Fin.ofNat 9 (fld w.w1 19 16)) (BitVec.ofNat 11 (fld w.w1 10 0)))
  | 0xA2 => do
    listed 5 (w.mod = 0)
    dec3 e w (fun _ t n => nameOf 32 t n) srcOf fun d q n => .qwait d (Fin.ofNat 32 q) n
  | 0xA3 => do
    listed 5 (w.mod = 0)
    dec3 e w (fun _ t n => nameOf 32 t n) srcOf fun d q n => .qresv d (Fin.ofNat 32 q) n
  | 0xA4 => do
    zeroF 1 w.d
    listed 5 (w.mod < 2)
    decAB e w (fun _ t n => nameOf 32 t n) srcOf fun q n =>
      (if w.mod = 0 then Instr.qadvP else Instr.qadvC) (Fin.ofNat 32 q) n
  | 0xA5 => do
    zeroF 3 (w.tb * 64 + w.b)
    listed 5 (w.mod = 0)
    dec2 e w (fun _ t n => nameOf 32 t n) fun d q => .qhead d (Fin.ofNat 32 q)
  | 0xA6 => do
    zeroF 2 (w.ta * 64 + w.a)
    zeroF 3 (w.tb * 64 + w.b)
    listed 5 (w.mod < 2)
    let d ← accept 1 (regOf e w.d)
    .ok (.bclaim d (w.mod = 1))
  | 0xA7 => do
    zeroF 1 w.d
    zeroF 3 (w.tb * 64 + w.b)
    listed 5 (w.mod = 0)
    let a ← accept 2 (rcOf e w.ta w.a)
    .ok (.bfree a)
  | 0xA8 =>
    if w.mod = 0 then do
      zeroF 1 w.d
      decAB e w rcOf srcOf .bfmt
    else if w.mod = 1 then do
      zeroF 1 w.d
      decAB e w srcOf srcOf .bfmtTab
    else if w.mod = 2 then do
      zeroF 3 (w.tb * 64 + w.b)
      dec2 e w rcOf .bfmtRd
    else do
      zeroF 1 w.d
      .error (.illegal 5)
  | 0xA9 =>
    if w.mod = 1 then do
      zeroF 1 w.d
      zeroF 3 (w.tb * 64 + w.b)
      let a ← accept 2 (rcOf e w.ta w.a)
      .ok (.bpairClr a)
    else do
      listed 5 (w.mod = 0)
      dec3 e w rcOf rcOf .bpair
  | 0xAA => do
    zeroF 2 (w.ta * 64 + w.a)
    zeroF 3 (w.tb * 64 + w.b)
    listed 5 (w.mod = 0)
    let d ← accept 1 (regOf e w.d)
    .ok (.sbq d)
  | 0xAB => do
    zeroF 1 w.d
    listed 5 (w.mod < 2)
    decAB e w rcOf srcOf (if w.mod = 0 then .sbwait else .sbwaitR)
  | 0xAC =>
    if w.mod = 1 then dec3 e w rcOf srcOf .barrArm
    else do
      zeroF 1 w.d
      zeroF 3 (w.tb * 64 + w.b)
      listed 5 (w.mod ≠ 3)
      let a ← accept 2 (rcOf e w.ta w.a)
      .ok (if w.mod = 0 then .barr a else .barrDis a)
  | 0xAD => do
    listed 5 (w.mod < 2)
    dec3 e w rcOf srcOf (if w.mod = 0 then .bwait else .bwaitG)
  | 0xAE => do
    listed 5 (w.mod = 0)
    dec3 e w rcOf srcOf .bstat
  | _ => .error (.illegal 0)

/-- A handle number in the d field (R268). -/
def handleD (w : Words) : Option (Fin 16) := if w.d < 16 then some (Fin.ofNat 16 w.d) else none

/-- `OP ed, ex, ey` of R268. -/
def decE3 (w : Words) (mk : Fin 16 → Fin 16 → Fin 16 → Instr) : Dec Instr := do
  listed 5 (w.mod = 0)
  let d ← accept 1 (handleD w)
  let x ← accept 2 (nameOf 16 w.ta w.a)
  let y ← accept 3 (nameOf 16 w.tb w.b)
  .ok (mk d (Fin.ofNat 16 x) (Fin.ofNat 16 y))

/-- `OP e, a, n` of R268. -/
def decEA (e : Engine) (w : Words) (mk : Fin 16 → RcSrc → Src → Instr) : Dec Instr := do
  listed 5 (w.mod = 0)
  let d ← accept 1 (handleD w)
  let a ← accept 2 (rcOf e w.ta w.a)
  let n ← accept 3 (srcOf e w.tb w.b)
  .ok (mk d a n)

/-- Class 110: envelopes and special functions (R253, R268). -/
def dec110 (e : Engine) (op : Nat) (w : Words) : Dec Instr :=
  match op with
  | 0xC1 => do
    listed 5 (w.mod = 0)
    dec3 e w (fun _ t n => nameOf 16 t n) srcOf fun d q n => .eclaim d (Fin.ofNat 16 q) n
  | 0xC2 => do
    listed 5 (w.mod = 0)
    dec3 e w (fun _ t n => nameOf 16 t n) srcOf fun d q n => .ecap d (Fin.ofNat 16 q) n
  | 0xC3 =>
    if w.mod = 1 then do
      zeroF 1 w.d
      zeroF 3 (w.tb * 64 + w.b)
      let q ← accept 2 (nameOf 16 w.ta w.a)
      .ok (.eclrFree (Fin.ofNat 16 q))
    else do
      listed 5 (w.mod = 0)
      dec3 e w (fun _ t n => nameOf 16 t n) srcOf fun d q n => .eclr d (Fin.ofNat 16 q) n
  | 0xC4 => decEA e w .eins
  | 0xC5 => decE3 w .emax
  | 0xC6 => decE3 w .esum
  | 0xC7 => decE3 w .einf
  | 0xC8 => do
    zeroF 3 (w.tb * 64 + w.b)
    listed 5 (w.mod = 0)
    let d ← accept 1 (handleD w)
    let x ← accept 2 (nameOf 16 w.ta w.a)
    .ok (.eleg d (Fin.ofNat 16 x))
  | 0xC9 => decEA e w .eeval
  | 0xCA => decEA e w .eread
  | 0xCB => do
    zeroF 3 (w.tb * 64 + w.b)
    listed 5 (w.mod = 0)
    dec2 e w (fun _ t n => nameOf 16 t n) fun d q => .ecnt d (Fin.ofNat 16 q)
  | 0xD0 => do
    listed 5 (w.mod = 0)
    dec3 e w rcOf srcOf .vexp2
  | 0xD1 => do
    listed 5 (w.mod = 0)
    dec3 e w rcOf srcOf .vlog2
  | 0xD2 => do
    listed 5 (w.mod = 0)
    dec3 e w rcOf srcOf .vrcp
  | 0xD3 => do
    listed 5 (w.mod = 0)
    dec3 e w rcOf srcOf .vrsq
  | 0xD4 => do
    listed 5 (w.mod = 0)
    dec3 e w rcOf srcOf .vtanh
  | _ => .error (.illegal 0)

/-- A remote atomic that has no .n64 form (R296). -/
def decRA (e : Engine) (w : Words) (mk : Bool → Reg → RcSrc → Src → Instr) : Dec Instr := do
  zeroF 5 (w.mod / 2)
  dec3 e w rcOf srcOf (mk (w.mod = 1))

/-- A stream instruction with a count or a handle (R386). -/
def decStream (e : Engine) (w : Words) (mk : Reg → Src → Instr) : Dec Instr := do
  zeroF 3 (w.tb * 64 + w.b)
  listed 5 (w.mod = 0)
  dec2 e w srcOf mk

/-- Whether a CSR number belongs to a unit that a tackle core lacks (R381). -/
def tackleAbsent (n : Nat) : Bool :=
  (decide (0x040 ≤ n) && decide (n ≤ 0x066)) || (decide (0x068 ≤ n) && decide (n ≤ 0x07F)) ||
  (decide (0x0A0 ≤ n) && decide (n ≤ 0x0DF)) || (decide (0x100 ≤ n) && decide (n ≤ 0x11F))

/-- Whether a CSR number is one of a hart's (R312). -/
def hartCsr (n : Nat) : Bool := decide (0x110 ≤ n) && decide (n ≤ 0x115)

/-- Whether a CSR number is no reserved value on an engine (R38, R103, R312, R381). -/
def csrOn (e : Engine) (n : Nat) : Bool :=
  csrClosed n || (csrAssigned n && (match e with
    | .mast => true
    | .tackle => !tackleAbsent n
    | .hart => hartCsr n || decide (n = 0)))

/-- Whether a read of a CSR number is no reserved value on an engine. On a tackle core every number of 0x080 to 0x09F and of 0x0E0 to
0x0FF reads, whether or not a chapter assigns it (R381). -/
def csrReads (e : Engine) (n : Nat) : Bool :=
  csrOn e n || (decide (e = .tackle) && (decide (0x080 ≤ n ∧ n ≤ 0x09F) || decide (0x0E0 ≤ n ∧ n ≤ 0x0FF)))

/-- Class 111: messages, remote atomics, triggers, CSRs, SYSC and streams (R103, R289, R296, R298, R375, R386). -/
def dec111 (e : Engine) (op : Nat) (w : Words) : Dec Instr :=
  match op with
  | 0xE1 => do
    listed 5 (w.mod ≠ 3)
    dec3 e w rcOf srcOf (.send (if w.mod = 0 then .req else if w.mod = 1 then .rep else .sys))
  | 0xE2 => do
    listed 5 (w.mod < 2)
    dec3 e w rcOf srcOf (.sendi (w.mod = 1))
  | 0xE3 => decS0 w .hret
  | 0xE4 => decRA e w .aaddRemote
  | 0xE5 => do
    zeroF 5 (w.mod / 2)
    zeroF 6 (fld w.w1 23 0)
    let d ← accept 1 (regOf e w.d)
    let a ← accept 2 (rcOf e w.ta w.a)
    let b ← accept 3 (srcOf e w.tb w.b)
    let n ← accept 6 (opndExt e w)
    .ok (.acasRemote (w.mod = 1) d a b n)
  | 0xE6 => decRA e w .axchRemote
  | 0xE7 => dec3 e w rcOf srcOf (.aminRemote (w.mod % 2 = 1) (w.mod / 2 = 1))
  | 0xE8 => dec3 e w rcOf srcOf (.amaxRemote (w.mod % 2 = 1) (w.mod / 2 = 1))
  | 0xE9 => decRA e w .aandRemote
  | 0xEA => decRA e w .aorRemote
  | 0xEB => do
    listed 5 (w.mod = 0)
    dec3 e w rcOf rcOf .tbind
  | 0xEC => do
    zeroF 1 w.d
    zeroF 3 (w.tb * 64 + w.b)
    listed 5 (w.mod = 0)
    let a ← accept 2 (rcOf e w.ta w.a)
    .ok (.tunbind a)
  | 0xED => do
    zeroF 5 w.z
    listed 5 (csrReads e w.csr)
    let d ← accept 1 (regOf e w.d)
    .ok (if w.csr = 0x107 then .launchRead d else if w.csr = 0x113 then .mvwait d else if w.csr = 0x114 then .hidx d
      else if w.csr = 0x115 then .hidxw d else .csrr d (BitVec.ofNat 12 w.csr))
  | 0xEE => do
    zeroF 5 w.z
    listed 5 (csrOn e w.csr)
    let d ← accept 1 (regOf e w.d)
    .ok (if w.csr = 0x0E0 then .binjArm d else if w.csr = 0x112 then .mvgo d else .csrw (BitVec.ofNat 12 w.csr) d)
  | 0xEF => do
    zeroF 5 w.csr
    zeroF 5 w.z
    let d ← accept 1 (regOf e w.d)
    .ok (.cyc d)
  | 0xF0 => do
    listed 5 (w.imm < 3)
    dec2 e w srcOf (if w.imm = 0 then .syscBeat else if w.imm = 1 then .syscInfo else .syscFail)
  | 0xF1 => do
    zeroF 3 (w.tb * 64 + w.b)
    listed 5 (w.mod = 0)
    dec2 e w rcOf .sopen
  | 0xF2 => decStream e w .sput
  | 0xF3 => decStream e w .sget
  | 0xF4 => decStream e w .sclose
  | _ => .error (.illegal 0)

/-- Decodes the words of an instruction on an engine, after the opcode has been found assigned (R38). -/
def decodeBody (e : Engine) (w : Words) : Dec Instr :=
  let op := fld w.w0 31 24
  if op < 0x20 then dec000 e op w
  else if op < 0x40 then dec001 e op w
  else if op < 0x60 then dec010 e op w
  else if op < 0x80 then dec011 e op w
  else if op < 0xA0 then dec100 e op w
  else if op < 0xC0 then dec101 e op w
  else if op < 0xE0 then dec110 e op w
  else dec111 e op w

/-- Whether an engine has an instruction with this first word (the first check of R38). -/
def opOk (e : Engine) (w0 : Nat) : Bool := assigned (fld w0 31 24) && decodedBy e (fld w0 31 24)

/-- Decodes the instruction at the front of a list of words, in the order of R38. -/
def decodeWords (e : Engine) (ws : List Nat) : Dec Instr :=
  match ws with
  | [] => .error (.short 0)
  | w0 :: rest =>
    if !opOk e w0 then .error (.illegal 0)
    else if rest.length + 1 < opWords (fld w0 31 24) then .error (.short (rest.length + 1))
    else decodeBody e ⟨w0, rest.getD 0 0, rest.getD 1 0⟩

/-- The words of a list of bytes, each little-endian (R18); a tail shorter than a word is dropped. -/
def bytesToIWords : List Byte → List Nat
  | b0 :: b1 :: b2 :: b3 :: bs => (b0.toNat + 256 * b1.toNat + 65536 * b2.toNat + 16777216 * b3.toNat) :: bytesToIWords bs
  | _ => []

/-- Decodes the instruction at the front of any list of bytes. -/
def decode (e : Engine) (bs : List Byte) : Dec Instr := decodeWords e (bytesToIWords bs)

/-! ### The encoder -/

/-- The field of a register (R21). -/
def Reg.code : Reg → Nat
  | .w i => i.val
  | .g i => 32 + i.val

/-- The tag and field of a source (R25), as eight bits with the tag on top. -/
def Src.code : Src → Nat
  | .reg r => r.code
  | .const k => 128 + k.val
  | .lit n => 192 + n.toNat

/-- As `Src.code`. -/
def RcSrc.code : RcSrc → Nat
  | .reg r => r.code
  | .const k => 128 + k.val

/-- As `Src.code`. -/
def VSrc.code : VSrc → Nat
  | .reg r => r.code
  | .vec v => 64 + v.val
  | .const k => 128 + k.val
  | .lit n => 192 + n.toNat

/-- The type code of R30. -/
def ITy.code : ITy → Nat
  | .i64 => 0 | .n64 => 1 | .i32 => 2 | .n32 => 3

/-- The mod of CLZ, CTZ and POPC (R32). -/
def BTy.code : BTy → Nat
  | .n64 => 1 | .n32 => 3

/-- The rounding code of R30. -/
def Rnd.code : Rnd → Nat
  | .rne => 0 | .rz => 1 | .ru => 2 | .rd => 3

/-- The lane type code of R34. -/
def VTy.code : VTy → Nat
  | .f32 => 0 | .i32 => 1 | .n32 => 2 | .f64 => 3

/-- The predicate code of R245. -/
def Pred.code : Pred → Nat
  | .all => 0 | .m1 => 1 | .m2 => 2 | .m3 => 3

/-- The relation code of R248. -/
def Rel.code : Rel → Nat
  | .eq => 0 | .lt => 1 | .le => 2 | .ne => 3

/-- The scope code of R137. -/
def Scope.enc : Scope → Nat
  | .strand => 0 | .core => 1 | .mast => 2 | .quad => 3 | .dev => 4 | .sys => 5

/-- The element type code of R31. -/
def ETy.enc : ETy → Nat
  | .i8 => 0 | .i16 => 1 | .i32 => 2 | .i64 => 3 | .n8 => 4 | .n16 => 5 | .n32 => 6 | .n64 => 7
  | .bf16 => 8 | .f16 => 9 | .f32 => 10 | .f64 => 11 | .ef8a => 12 | .ef8b => 13

/-- 1 for true. -/
def bitOf (b : Bool) : Nat := if b then 1 else 0

/-- A T word: ta:a and tb:b are eight bits each (R20). -/
def encT (op d a b mod : Nat) : Nat := op * 2 ^ 24 + d * 2 ^ 18 + a * 2 ^ 10 + b * 2 ^ 2 + mod

/-- An I word (R20). -/
def encI (op d a imm : Nat) : Nat := op * 2 ^ 24 + d * 2 ^ 18 + a * 2 ^ 10 + imm

/-- A B word (R20). -/
def encB (op c cond off : Nat) : Nat := op * 2 ^ 24 + c * 2 ^ 18 + cond * 2 ^ 15 + off

/-- An M word (R20). -/
def encM (op d base off : Nat) : Nat := op * 2 ^ 24 + d * 2 ^ 18 + base * 2 ^ 12 + off

/-- An S word (R20). -/
def encS (op d csr : Nat) : Nat := op * 2 ^ 24 + d * 2 ^ 18 + csr * 2 ^ 6

/-- An OPND extension word (R24). -/
def encOpnd (y : Src) : Nat := y.code * 2 ^ 24

/-- A vector destination (R34). -/
def encV (t : VTy) (v : Fin 16) : Nat := t.code * 16 + v.val

/-- The cond field of a conditional branch (R33). -/
def encCond (t : ITy) (likely : Bool) : Nat := bitOf likely * 4 + t.code

/-- The words of an instruction, as numbers; an event has none. -/
def encode : Instr → List Nat
  | .add t d a b => [encT 0x01 d.code a.code b.code t.code]
  | .sub t d a b => [encT 0x02 d.code a.code b.code t.code]
  | .mul t d a b => [encT 0x03 d.code a.code b.code t.code]
  | .mulh t d a b => [encT 0x04 d.code a.code b.code t.code]
  | .div t d a b => [encT 0x05 d.code a.code b.code t.code]
  | .rem t d a b => [encT 0x06 d.code a.code b.code t.code]
  | .min t d a b => [encT 0x07 d.code a.code b.code t.code]
  | .max t d a b => [encT 0x08 d.code a.code b.code t.code]
  | .slt t d a b => [encT 0x09 d.code a.code b.code t.code]
  | .seq t d a b => [encT 0x0A d.code a.code b.code t.code]
  | .and d a b => [encT 0x0B d.code a.code b.code 0]
  | .or d a b => [encT 0x0B d.code a.code b.code 1]
  | .xor d a b => [encT 0x0B d.code a.code b.code 2]
  | .andn d a b => [encT 0x0B d.code a.code b.code 3]
  | .shl d a b => [encT 0x0C d.code a.code b.code 0]
  | .shr d a b => [encT 0x0C d.code a.code b.code 1]
  | .sra d a b => [encT 0x0C d.code a.code b.code 2]
  | .rot d a b => [encT 0x0C d.code a.code b.code 3]
  | .clz t d a => [encT 0x0D d.code a.code 0x00 t.code]
  | .ctz t d a => [encT 0x0D d.code a.code 0x01 t.code]
  | .popc t d a => [encT 0x0D d.code a.code 0x02 t.code]
  | .sextI8 d a => [encT 0x0D d.code a.code 0x10 0]
  | .sextI16 d a => [encT 0x0D d.code a.code 0x11 0]
  | .sextI32 d a => [encT 0x0D d.code a.code 0x12 0]
  | .zextN8 d a => [encT 0x0D d.code a.code 0x20 0]
  | .zextN16 d a => [encT 0x0D d.code a.code 0x21 0]
  | .zextN32 d a => [encT 0x0D d.code a.code 0x22 0]
  | .bfx natural d a pos len => [encT 0x0E d.code a.code 0 (bitOf natural), pos.toNat * 2 ^ 8 + len.toNat]
  | .bfi d a pos len => [encT 0x0F d.code a.code 0 0, pos.toNat * 2 ^ 8 + len.toNat]
  | .li d imm => [encI 0x10 d.code 0 imm.toNat]
  | .liLit32 d lit => [encI 0x11 d.code 192 0, lit.toNat]
  | .liCidx d k => [encI 0x11 d.code 128 0, k.val]
  | .faddF32 r d a b => [encT 0x12 d.code a.code b.code r.code]
  | .faddF64 r d a b => [encT 0x13 d.code a.code b.code r.code]
  | .fsubF32 r d a b => [encT 0x14 d.code a.code b.code r.code]
  | .fsubF64 r d a b => [encT 0x15 d.code a.code b.code r.code]
  | .fmulF32 r d a b => [encT 0x16 d.code a.code b.code r.code]
  | .fmulF64 r d a b => [encT 0x17 d.code a.code b.code r.code]
  | .fmaF32 r d a b => [encT 0x18 d.code a.code b.code r.code]
  | .fmaF64 r d a b => [encT 0x19 d.code a.code b.code r.code]
  | .fdivF32 r d a b => [encT 0x1A d.code a.code b.code r.code]
  | .fdivF64 r d a b => [encT 0x1B d.code a.code b.code r.code]
  | .fminF32 d a b => [encT 0x1C d.code a.code b.code 0]
  | .fmaxF32 d a b => [encT 0x1C d.code a.code b.code 1]
  | .fcmpF32 d a b => [encT 0x1C d.code a.code b.code 2]
  | .fminF64 d a b => [encT 0x1D d.code a.code b.code 0]
  | .fmaxF64 d a b => [encT 0x1D d.code a.code b.code 1]
  | .fcmpF64 d a b => [encT 0x1D d.code a.code b.code 2]
  | .fsqrt t r d a => [encT 0x1E d.code a.code (match t with | .f32 => 10 | .f64 => 11) r.code]
  | .fcvt dst src r d a => [encT 0x1F d.code a.code (dst.enc * 16 + src.enc) r.code]
  | .nop d csr => [encS 0x20 d.code csr.toNat]
  | .br off => [encB 0x21 0 0 off.toNat]
  | .brFar off => [encB 0x22 0 0 0, off.toNat]
  | .bz t lk c off => [encB 0x23 c.code (encCond t lk) off.toNat]
  | .bnz t lk c off => [encB 0x24 c.code (encCond t lk) off.toNat]
  | .beq t lk c off y => [encB 0x25 c.code (encCond t lk) off.toNat, encOpnd y]
  | .bne t lk c off y => [encB 0x26 c.code (encCond t lk) off.toNat, encOpnd y]
  | .blt t lk c off y => [encB 0x27 c.code (encCond t lk) off.toNat, encOpnd y]
  | .bge t lk c off y => [encB 0x28 c.code (encCond t lk) off.toNat, encOpnd y]
  | .call f off => [encB 0x29 f 0 off.toNat]
  | .callFar off => [encB 0x2A 0 0 0, off.toNat]
  | .callx f a => [encT 0x2B f a.code 0 0]
  | .ret => [encS 0x2C 0 0]
  | .loop c off => [encB 0x2D c.code 0 off.toNat]
  | .lfor t c off l st => [encB 0x2E c.code t.code off.toNat, l.code * 2 ^ 24 + st.code * 2 ^ 16]
  | .lend => [encS 0x2F 0 0]
  | .park d a => [encT 0x30 d.code a.code 0 0]
  | .yield => [encS 0x31 0 0]
  | .trap a imm => [encI 0x32 0 a.code imm.toNat]
  | .eret => [encS 0x33 0 0]
  | .bkpt imm => [encI 0x34 0 0 imm.toNat]
  | .ldbI8 d b o => [encM 0x41 d.code b.code o.toNat]
  | .ldbN8 d b o => [encM 0x42 d.code b.code o.toNat]
  | .ldhI16 d b o => [encM 0x43 d.code b.code o.toNat]
  | .ldhN16 d b o => [encM 0x44 d.code b.code o.toNat]
  | .ldI32 d b o => [encM 0x45 d.code b.code o.toNat]
  | .ldN32 d b o => [encM 0x46 d.code b.code o.toNat]
  | .ld d b o => [encM 0x47 d.code b.code o.toNat]
  | .stb d b o => [encM 0x48 d.code b.code o.toNat]
  | .sth d b o => [encM 0x49 d.code b.code o.toNat]
  | .stN32 d b o => [encM 0x4A d.code b.code o.toNat]
  | .st d b o => [encM 0x4B d.code b.code o.toNat]
  | .ldAcq d b o => [encM 0x4C d.code b.code o.toNat]
  | .stRel d b o => [encM 0x4D d.code b.code o.toNat]
  | .ldAcqN32 d b o => [encM 0x4E d.code b.code o.toNat]
  | .stRelN32 d b o => [encM 0x4F d.code b.code o.toNat]
  | .aadd d b o => [encM 0x50 d.code b.code o.toNat]
  | .acas d b o y => [encM 0x51 d.code b.code o.toNat, encOpnd y]
  | .axch d b o => [encM 0x52 d.code b.code o.toNat]
  | .aminI64 d b o => [encM 0x53 d.code b.code o.toNat]
  | .aminN64 d b o => [encM 0x54 d.code b.code o.toNat]
  | .amaxI64 d b o => [encM 0x55 d.code b.code o.toNat]
  | .amaxN64 d b o => [encM 0x56 d.code b.code o.toNat]
  | .aand d b o => [encM 0x57 d.code b.code o.toNat]
  | .aor d b o => [encM 0x58 d.code b.code o.toNat]
  | .badd d b o => [encM 0x59 d.code b.code o.toNat]
  | .bcas d b o y => [encM 0x5A d.code b.code o.toNat, encOpnd y]
  | .prefCode b o => [encM 0x5B 0 b.code o.toNat]
  | .prefHeap b o => [encM 0x5B 1 b.code o.toNat]
  | .fenceSc sc => [encI 0x5C 0 0 sc.enc]
  | .fenceSl sc => [encI 0x5C 0 0 (16 + sc.enc)]
  | .fenceAcq sc => [encI 0x5C 0 0 (32 + sc.enc)]
  | .fenceRel sc => [encI 0x5C 0 0 (48 + sc.enc)]
  | .nnew d k a => [encT 0x61 d.code k.code a.code 0]
  | .nfree d n => [encT 0x62 d.code n.code 0 0]
  | .nld d n k => [encM 0x63 d.code n.code k.val]
  | .nst d n k => [encM 0x64 d.code n.code k.val]
  | .pget d n i => [encT 0x65 d.code n.code i.code 0]
  | .plink x y => [encT 0x66 0 x.code y.code 0]
  | .splice x y => [encT 0x67 0 x.code y.code 0]
  | .spliceJ x z => [encT 0x67 0 x.code z.code 1]
  | .ndup d t s => [encT 0x68 d.code t.code s.code 0]
  | .nown d n => [encT 0x69 d.code n.code 0 0]
  | .rpush f x y => [encT 0x6A f.val x.code y.code 0]
  | .rpop d => [encT 0x6B d.val 0 0 0]
  | .meet d x y => [encT 0x6C d.val x.code y.code 0]
  | .rule d a b => [encT 0x6D d.code a.code b.code 0]
  | .fork f h a0 a1 => [encT 0x6E f.val h.code a0.code 0, encOpnd a1]
  | .join d a => [encT 0x6F d.code a.code 0 0]
  | .vclaim d n => [encT 0x81 d.code n.code 0 0]
  | .vyield => [encT 0x82 0 0 0 0]
  | .vren d n => [encT 0x83 d.code n.code 0 0]
  | .vld t v b o => [encM 0x84 (encV t v) b.code o.toNat]
  | .vst t v b o => [encM 0x85 (encV t v) b.code o.toNat]
  | .vgath t v a ix p => [encT 0x86 (encV t v) a.code (64 + ix.val) p.code]
  | .vadd t v a b p => [encT 0x87 (encV t v) a.code b.code p.code]
  | .vsub t v a b p => [encT 0x88 (encV t v) a.code b.code p.code]
  | .vmul t v a b p => [encT 0x89 (encV t v) a.code b.code p.code]
  | .vmulz t v a b p => [encT 0x8A (encV t v) a.code b.code p.code]
  | .vfma t v a b p => [encT 0x8B (encV t v) a.code b.code p.code]
  | .vmin t v a b p => [encT 0x8C (encV t v) a.code b.code p.code]
  | .vmax t v a b p => [encT 0x8D (encV t v) a.code b.code p.code]
  | .vcmp r t m a b => [encT 0x8E (t.code * 16 + m.val) a.code b.code r.code]
  | .vsel t v m a b => [encT 0x8F (encV t v) a.code b.code m.val]
  | .vcvt dst src r v a p => [encT 0x90 (encV dst v) a.code (src.code * 16 + r.code) p.code]
  | .vsum t d a n => [encT 0x91 d.code a.code n.code t.code]
  | .vmaxr t d a n => [encT 0x92 d.code a.code n.code t.code]
  | .vredq t d q c => [encT 0x93 d.code q.val c.code t.code]
  | .vxp t v x0 x1 x2 x3 prog p =>
    [encT 0x94 (encV t v) x0.code x1.code p.code, prog.toNat % 2 ^ 32,
     prog.toNat / 2 ^ 32 + x2.code * 2 ^ 16 + x3.code * 2 ^ 24]
  | .vrank v a b p => [encT 0x95 (encV .n32 v) a.code b.code p.code]
  | .vselect v a b p => [encT 0x96 (encV .n32 v) a.code b.code p.code]
  | .vpopc v a p => [encT 0x97 (encV .n32 v) a.code 0 p.code]
  | .vshuf t v a b p => [encT 0x98 (encV t v) (64 + a.val) b.code p.code]
  | .vbcast t v a p => [encT 0x99 (encV t v) a.code 0 p.code]
  | .vidx t v a b p => [encT 0x9A (encV t v) a.code b.code p.code]
  | .qset q base lg size => [encT 0xA1 q.val base.code 0 0, lg.val * 2 ^ 16 + size.toNat]
  | .qsetClr q => [encT 0xA1 q.val 0 0 1, 0]
  | .qwait d q n => [encT 0xA2 d.code q.val n.code 0]
  | .qresv d q n => [encT 0xA3 d.code q.val n.code 0]
  | .qadvP q n => [encT 0xA4 0 q.val n.code 0]
  | .qadvC q n => [encT 0xA4 0 q.val n.code 1]
  | .qhead d q => [encT 0xA5 d.code q.val 0 0]
  | .bclaim d pin => [encT 0xA6 d.code 0 0 (bitOf pin)]
  | .bfree h => [encT 0xA7 0 h.code 0 0]
  | .bfmt h f => [encT 0xA8 0 h.code f.code 0]
  | .bfmtTab i c => [encT 0xA8 0 i.code c.code 1]
  | .bfmtRd d h => [encT 0xA8 d.code h.code 0 2]
  | .bpair b f sh => [encT 0xA9 b.code f.code sh.code 0]
  | .bpairClr f => [encT 0xA9 0 f.code 0 1]
  | .sbq d => [encT 0xAA d.code 0 0 0]
  | .sbwait a n => [encT 0xAB 0 a.code n.code 0]
  | .sbwaitR a n => [encT 0xAB 0 a.code n.code 1]
  | .barr a => [encT 0xAC 0 a.code 0 0]
  | .barrArm d a n => [encT 0xAC d.code a.code n.code 1]
  | .barrDis a => [encT 0xAC 0 a.code 0 2]
  | .bwait d a v => [encT 0xAD d.code a.code v.code 0]
  | .bwaitG d a v => [encT 0xAD d.code a.code v.code 1]
  | .bstat d a k => [encT 0xAE d.code a.code k.code 0]
  | .eclaim d q n => [encT 0xC1 d.code q.val n.code 0]
  | .ecap d q n => [encT 0xC2 d.code q.val n.code 0]
  | .eclr hi q lo => [encT 0xC3 hi.code q.val lo.code 0]
  | .eclrFree q => [encT 0xC3 0 q.val 0 1]
  | .eins q a n => [encT 0xC4 q.val a.code n.code 0]
  | .emax d x y => [encT 0xC5 d.val x.val y.val 0]
  | .esum d x y => [encT 0xC6 d.val x.val y.val 0]
  | .einf d x y => [encT 0xC7 d.val x.val y.val 0]
  | .eleg d x => [encT 0xC8 d.val x.val 0 0]
  | .eeval q a n => [encT 0xC9 q.val a.code n.code 0]
  | .eread q a n => [encT 0xCA q.val a.code n.code 0]
  | .ecnt d q => [encT 0xCB d.code q.val 0 0]
  | .vexp2 d a n => [encT 0xD0 d.code a.code n.code 0]
  | .vlog2 d a n => [encT 0xD1 d.code a.code n.code 0]
  | .vrcp d a n => [encT 0xD2 d.code a.code n.code 0]
  | .vrsq d a n => [encT 0xD3 d.code a.code n.code 0]
  | .vtanh d a n => [encT 0xD4 d.code a.code n.code 0]
  | .send vn d a n => [encT 0xE1 d.code a.code n.code (match vn with | .req => 0 | .rep => 1 | .sys => 2)]
  | .sendi rep d a n => [encT 0xE2 d.code a.code n.code (bitOf rep)]
  | .hret => [encS 0xE3 0 0]
  | .aaddRemote t d a v => [encT 0xE4 d.code a.code v.code (bitOf t)]
  | .acasRemote t d a x nw => [encT 0xE5 d.code a.code x.code (bitOf t), encOpnd nw]
  | .axchRemote t d a v => [encT 0xE6 d.code a.code v.code (bitOf t)]
  | .aminRemote t n d a v => [encT 0xE7 d.code a.code v.code (bitOf n * 2 + bitOf t)]
  | .amaxRemote t n d a v => [encT 0xE8 d.code a.code v.code (bitOf n * 2 + bitOf t)]
  | .aandRemote t d a v => [encT 0xE9 d.code a.code v.code (bitOf t)]
  | .aorRemote t d a v => [encT 0xEA d.code a.code v.code (bitOf t)]
  | .tbind k a h => [encT 0xEB k.code a.code h.code 0]
  | .tunbind a => [encT 0xEC 0 a.code 0 0]
  | .csrr d n => [encS 0xED d.code n.toNat]
  | .csrw n s => [encS 0xEE s.code n.toNat]
  | .cyc d => [encS 0xEF d.code 0]
  | .binjArm s => [encS 0xEE s.code 0x0E0]
  | .launchRead d => [encS 0xED d.code 0x107]
  | .syscBeat d a => [encI 0xF0 d.code a.code 0]
  | .syscInfo d a => [encI 0xF0 d.code a.code 1]
  | .syscFail d a => [encI 0xF0 d.code a.code 2]
  | .sopen d a => [encT 0xF1 d.code a.code 0 0]
  | .sput h n => [encT 0xF2 h.code n.code 0 0]
  | .sget h n => [encT 0xF3 h.code n.code 0 0]
  | .sclose d h => [encT 0xF4 d.code h.code 0 0]
  | .mvgo s => [encS 0xEE s.code 0x112]
  | .mvwait d => [encS 0xED d.code 0x113]
  | .hidx d => [encS 0xED d.code 0x114]
  | .hidxw d => [encS 0xED d.code 0x115]
  | _ => []

/-- The bytes of a list of words (R18). -/
def iwordsToBytes (ws : List Nat) : List Byte :=
  ws.flatMap fun w => [BitVec.ofNat 8 w, BitVec.ofNat 8 (w / 256), BitVec.ofNat 8 (w / 65536), BitVec.ofNat 8 (w / 16777216)]

/-- The engine whose encoding an instruction belongs to: the streams to a tackle core, the rest to a mast core. -/
def nativeEngine (w0 : Nat) : Engine := if 0xF1 ≤ fld w0 31 24 then .tackle else .mast

/-- The bytes of an instruction given as the opcode table numbers its bits: the first word in bits 31 to 0. An
instruction longer than `nbits` has zero operand words. -/
def tableBytes (nbits w : Nat) : List Byte :=
  let v := w % 2 ^ nbits
  iwordsToBytes [v % 2 ^ 32, v / 2 ^ 32 % 2 ^ 32, v / 2 ^ 64 % 2 ^ 32]

/-- The instruction that this decoder reads from an instruction's bits, as the opcode table numbers them. -/
def decodeTableWord (nbits w : Nat) : Option Instr :=
  match decode (nativeEngine (w % 2 ^ 32)) (tableBytes nbits w) with
  | .ok i => some i
  | .error _ => none

end Sys2Proof
end

