-- ==== Sys2Proof/Machine/Flags.lean ====
section
/-! DEFINITION. Conditions and status words: the comparisons of branches and loops (R98, R100), and the relations of lane
compares (R248). The device has no flag register; a comparison writes a register, and units report in status words. -/

namespace Sys2Proof.Machine

/-- cont of LFOR and LEND (R100): `v` and `lim` are compared in the type, `step` is signed. -/
def loopCont (v lim step : Int) : Bool := (decide (0 < step) && decide (v < lim)) || (decide (step < 0) && decide (lim < v))

/-- The relation of VCMP (R248) on the bits of a type. -/
def relHolds (r : Rel) (t : ETy) (x y : Nat) : Bool :=
  if t.isInt then
    let a := t.intVal x
    let b := t.intVal y
    match r with
    | .eq => decide (a = b)
    | .lt => decide (a < b)
    | .le => decide (a ≤ b)
    | .ne => decide (a ≠ b)
  else
    let c := fCmp t.fmt x y
    match r with
    | .eq => decide (c = 2)
    | .lt => decide (c = 1)
    | .le => decide (c = 1) || decide (c = 2)
    | .ne => decide (c ≠ 2)

/-- The lesser of two integers. -/
def intMin (x y : Int) : Int := if x ≤ y then x else y

/-- The greater of two integers. -/
def intMax (x y : Int) : Int := if x ≤ y then y else x

/-- 1 or 0. -/
def intOf (b : Bool) : Int := if b then 1 else 0

end Sys2Proof.Machine
end

