-- ==== Sys2Proof/Machine/SpliceUnit.lean ====
section
/-! DEFINITION. The splice unit of a core (R155, R156, R159, R160): RELINK, SPLICE_SWAP, COLLAPSE and REPOINT. Each event is
one step of a loop of those rules. -/

namespace Sys2Proof.Machine

/-- The task of a launch on the core that a reference names. -/
def refTask (launch : Nat) (r : Word) : Nat := taskKey launch (refCore r)

/-- The node that a reference names, on whatever core, where the slot is occupied and the generation matches. -/
def State.nodeAt (s : State) (launch : Nat) (r : Word) : Option Node :=
  let n := (s.taskAt (refTask launch r)).node (refKey r)
  if n.free || decide (n.gen.toNat ≠ refGen r) then none else some n

/-- Replaces the node that a reference names, on whatever core. -/
def State.putNode (s : State) (launch : Nat) (r : Word) (n : Node) : State :=
  let k := refTask launch r
  s.putTask k ((s.taskAt k).setNode (refKey r) n)

/-- The port word that a reference names, on whatever core. -/
def State.wordAt (s : State) (launch : Nat) (r : Word) : Word :=
  ((s.taskAt (refTask launch r)).node (refKey r)).port (refPort r)

/-- Writes the port word that a reference names, on whatever core. -/
def State.putWord (s : State) (launch : Nat) (r w : Word) : State :=
  s.putNode launch r (((s.taskAt (refTask launch r)).node (refKey r)).setPort (refPort r) w)

/-- swap(t, from, to) of R155: the word found, or none. -/
def State.swap (s : State) (launch : Nat) (t old new : Word) : Option Word × State :=
  match s.nodeAt launch t with
  | none => (none, s)
  | some n =>
    let w := n.port (refPort t)
    if refers w old && (refState w = 1 || refState w = 3) then
      (some w, s.putWord launch t (portWord (refState w) new))
    else (some w, s)

/-- Whether the slot that a reference names is reserved for a node that a meeting is moving there (R175): a swap that has
followed the node's forward waits until the node is installed. -/
def State.inFlight (s : State) (launch : Nat) (r : Word) : Bool :=
  (s.coreAt (refCore r)).meetings.any fun m => decide (m.task = refTask launch r) &&
    (decide (m.slot = some (refKey r)) || (m.later.isSome && m.spare.contains (refKey r)))

/-- Releases a forwarding port of a meeting thimble; the slot returns to the pool with its last one (R160). -/
def State.releaseFwd (s : State) (launch : Nat) (r : Word) : State :=
  match s.nodeAt launch r with
  | none => s
  | some n =>
    if !n.thim then s
    else
      let n := n.setPort (refPort r) 0
      s.putNode launch r (if n.ports.all (· = 0) then n.freed else n)

/-- The translation of the slot of a forward that a unit may release, wherever it lies: a thimble in another core's heap store is written
through an extent there (R350, R351). -/
def State.fwdReady (s : State) (launch : Nat) (r : Word) : Ex Unit :=
  match s.nodeAt launch r with
  | some n => if n.thim then s.unitReady (refTask launch r) [refKey r] .netW else .ok ()
  | none => .ok ()

/-- The translation of the slot of another name of a dying port, which the splice's end writes: it releases a forward there, or frees a released
slot, wherever that lies (R350, R351). -/
def State.nameReady (s : State) (launch : Nat) (r : Word) : Ex Unit :=
  match s.nodeAt launch r with
  | some n => if n.thim || n.rel then s.unitReady (refTask launch r) [refKey r] .netW else .ok ()
  | none => .ok ()

/-- A splice of a launch whose dying port belongs to a node that a meeting moves from `old` to `new` (R160). -/
def Splice.renamed (sp : Splice) (old new : Word) : Splice :=
  match sp.names.find? (sameNode old) with
  | some p => { sp with also := sp.also ++ [withPort new (refPort p)] }
  | none => sp

/-- Every splice in flight learns the new place of its dying port. -/
def State.renameSplices (s : State) (launch : Nat) (old new : Word) : State :=
  { s with cores := s.cores.map fun c =>
      (c.1, { c.2 with splices := c.2.splices.map fun sp => if (s.taskAt sp.task).launch = launch then sp.renamed old new else sp }) }

/-- The splice of a launch that runs for a dying port, by any of its names. -/
def State.spliceOf (s : State) (launch : Nat) (r : Word) : Option Splice :=
  s.cores.findSome? fun c => c.2.splices.find? fun sp => decide ((s.taskAt sp.task).launch = launch) && sp.names.any (refers r)

/-- key(p) of R155 for a dying port: that of the name with which its own splice was issued, so that both ends of a wire compare the same
two keys wherever meetings have moved their nodes (R156). -/
def State.portKey (s : State) (launch : Nat) (r : Word) : Nat :=
  match s.spliceOf launch r with
  | some sp => sp.x.toNat
  | none => r.toNat

/-- The splice at index `ix` of a core completes: the state of its endpoint becomes LINKED, whatever the endpoint names by
now, the forward at x is released, and a released slot whose last splice it was returns to the pool (R150, R155). A slot that a meeting holds
for the node on its way is no released slot: the node still comes (R175). -/
def State.completeSplice (s : State) (core ix : Nat) (launch : Nat) (sp : Splice) : State :=
  let s := s.putWord launch sp.y (portWord 1 (s.wordAt launch sp.y))
  let c := s.coreAt core
  let c := { c with splices := c.splices.eraseIdx ix }
  let s := sp.names.foldl (fun s x => s.releaseFwd launch x) (s.putCore core c)
  sp.names.foldl (fun s x =>
    match s.nodeAt launch x with
    | some n => if n.rel && !s.splicing launch x && !s.inFlight launch x then s.putNode launch x n.freed else s
    | none => s) s

/-- Replaces the splice at an index. -/
def State.setSplice (s : State) (core ix : Nat) (sp : Splice) : State :=
  let c := s.coreAt core
  s.putCore core { c with splices := c.splices.set ix sp }

/-- Whether a port is a principal port of a node: one that no thimble holds (R146, R158). -/
def State.principal (s : State) (launch : Nat) (r : Word) : Bool :=
  refPort r = 0 && (match s.nodeAt launch r with | some n => !n.thim | none => true)

/-- The redex record that a last swap pushes where both ends are principal ports (R156). A swap that leaves a port of a join
thimble at an end is not the wire's last: the thimble's collapse is (R159). DESIGN CHOICE (log entry 16): the record of a splice names
its new endpoint first, and that of a collapse the far end of the thimble's port 0. -/
def State.lastSwap (s : State) (task : Nat) (a b : Word) : Ex State :=
  let l := (s.taskAt task).launch
  if s.principal l a && s.principal l b then s.pushOn task (redexRecord a b 0 2) else .ok s

/-- Writes a splice's endpoint: it is LOCKED and names `z`. An endpoint that some other end has swapped since then keeps what
it names (R155, R156). -/
def State.relock (s : State) (launch : Nat) (sp : Splice) (z : Word) : State :=
  if refers (s.wordAt launch sp.y) sp.z then s.putWord launch sp.y (portWord 3 z) else s

/-- What the splice does with the word `r` that its swap at z found (R155). A word that names its dying port by another of its names is
swapped next. -/
def State.relinkWith (s : State) (core ix launch : Nat) (sp : Splice) (r : Option Word) : Ex State :=
  match r with
  | none => .ok (s.setSplice core ix { sp with stage := .waitOther })
  | some w =>
    if refers w sp.own && (refState w = 1 || refState w = 3) then
      (s.completeSplice core ix launch sp).lastSwap sp.task sp.y sp.z
    else if (refState w = 1 || refState w = 3) && sp.names.any (refers w) then
      .ok (s.setSplice core ix { sp with own := refOfWord w, stage := .start })
    else if refState w = 2 && bit w 60 then
      let z := refOfWord w
      .ok (((s.releaseFwd launch sp.z).relock launch sp z).setSplice core ix { sp with z := z, stage := .start })
    else if refState w = 2 then
      if refers (s.wordAt launch sp.y) sp.z && sp.x.toNat < s.portKey launch sp.z then
        let y2 := refOfWord w
        .ok ((s.relock launch sp y2).setSplice core ix { sp with z := y2, stage := .start })
      else .ok (s.setSplice core ix { sp with stage := .waitOther })
    else if refState w = 3 then .ok (s.setSplice core ix { sp with stage := .start })
    else .ok (s.setSplice core ix { sp with stage := .waitOther })

/-- The slots of a core, among references, that a unit of the core reaches. -/
def slotsOn (core : Nat) (rs : List Word) : List Nat := (rs.filter fun r => decide (refCore r = core)).map refKey

/-- Whether a swap may leave its core: a swap takes room of the task's request share, and reserves room for its reply (R286). -/
def State.swapRoom (s : State) (task : Nat) : Ex Unit :=
  need (decide (32 ≤ (s.taskAt task).sqFree 0) && (s.taskAt task).replyRoom 32) .wait

/-- Sends a swap to the core that holds the port. -/
def State.sendSwap (s : State) (core task launch : Nat) (t old new : Word) (rp : Bool) : State :=
  let s := s.putTask task { s.taskAt task with ibRsv := (s.taskAt task).ibRsv + 32 }
  s.emitHeld 0 core (refCore t) launch 32 (.swap t old new rp)

/-- The reply to a swap that a core waits for, where it can be taken in: its packet, and the word found. -/
def State.swapReply (s : State) (core launch : Nat) (t old new : Word) (rp : Bool) : Option (Packet × Option Word) :=
  s.net.findSome? fun p =>
    match p.kind with
    | .swapped t' old' new' rp' w =>
      if p.dst = core && p.launch = launch && t' = t && old' = old && new' = new && rp' = rp && s.mayApply p then some (p, w)
      else none
    | _ => none

/-- Takes in a reply: its reserved room is free again (R286). -/
def State.takeReply (s : State) (task : Nat) (p : Packet) : State :=
  let s := s.drop p
  s.putTask task { s.taskAt task with ibRsv := (s.taskAt task).ibRsv - 32 }

/-- One round of the loop of R155 for the splice at an index of a core. -/
def State.relink (s : State) (core ix : Nat) (sp : Splice) : Ex State := do
  let launch := (s.taskAt sp.task).launch
  s.unitReady sp.task (slotsOn core [sp.x, sp.y, sp.z]) .netW
  sp.also.foldlM (fun _ x => s.nameReady launch x) ()
  match sp.stage with
  | .start =>
    if refCore sp.z = core then do
      need (!s.inFlight launch sp.z) .wait
      let p := s.swap launch sp.z sp.own sp.y
      p.2.relinkWith core ix launch sp p.1
    else do
      s.swapRoom sp.task
      .ok ((s.setSplice core ix { sp with stage := .swapping }).sendSwap core sp.task launch sp.z sp.own sp.y false)
  | .swapping =>
    match s.swapReply core launch sp.z sp.own sp.y false with
    | some (p, w) => do
      s.fwdReady launch sp.z
      (s.takeReply sp.task p).relinkWith core ix launch sp w
    | none => waitX
  | .waitOther => do
    need (!refers (s.wordAt launch sp.y) sp.z) .wait
    .ok (s.completeSplice core ix launch sp)

/-- RELINK (R155) of the splice at index `place.b` of the core `place.a`: one round of its loop. A fault of the unit fails the
task. -/
def execRelink (s : State) : Host.Outcome State Fault Refusal :=
  match (s.coreAt s.place.a).splices[s.place.b]? with
  | none => s.passed
  | some sp => s.happen (s.orFail sp.task (s.relink s.place.a s.place.b sp))

/-- SPLICE_SWAP (R155): the swap of packet `place.a` runs at the core that holds the port, and its reply leaves. -/
def execSpliceSwap (s : State) : Host.Outcome State Fault Refusal :=
  match s.packet s.place.a with
  | some p =>
    match p.kind with
    | .swap t old new rp =>
      let task := taskKey p.launch p.dst
      s.happen (s.orFail task (do
        need (s.mayApply p && !s.inFlight p.launch t) .wait
        s.unitReady task [refKey t] .netW
        let q := (s.drop p).swap p.launch t old new
        .ok (q.2.emitUnit 1 p.dst p.src p.launch 32 (.swapped t old new rp q.1))))
    | _ => s.passed
  | none => s.passed

/-- lock_if of R159: locks a LINKED word that names the given port. -/
def State.lockable (s : State) (launch : Nat) (at_ port : Word) : Bool :=
  match s.nodeAt launch at_ with
  | some n => refState (n.port (refPort at_)) = 1 && refers (n.port (refPort at_)) port
  | none => false

/-- Whether the slot of a far end that a collapse locks is translated on its core (R350, R351). -/
def State.farReady (s : State) (launch : Nat) (w : Word) : Ex Unit :=
  if refState w = 1 then s.unitReady (refTask launch (refOfWord w)) [refKey w] .netW else .ok ()

/-- collapse(T) of R159, for the join thimble in slot `place.b` of the task `place.a`. -/
def State.collapse (s : State) : Ex State := do
  let k := s.place.a
  let slot := s.place.b
  let t := s.taskAt k
  let n := t.node slot
  let l := t.launch
  let c := s.coreAt t.core
  let p0 := mkRef t.core slot n.gen.toNat 0
  let p1 := withPort p0 1
  let w0 := n.port 0
  let w1 := n.port 1
  let gone (s : State) : State := s.putTask k ((s.taskAt k).setNode slot n.freed)
  let bind (s : State) (h : Word) (w : Word) : State :=
    let la := s.launchAt l
    s.putLaunch l { la with hostbind := la.hostbind.set (bits h 19 0) w }
  need (n.isJoin && !c.splices.any (fun sp => sp.task = k && sameNode sp.y p0)) .off
  s.unitReady k [slot] .netW
  s.farReady l w0
  s.farReady l w1
  if refState w0 = 4 && refState w1 = 4 then .ok (gone (bind (bind s w0 w1) w1 w0))
  else if refState w0 = 4 && refState w1 = 1 then
    let q := refOfWord w1
    if s.lockable l q p1 then .ok (gone (bind (s.putWord l q w0) w0 q)) else offX
  else if refState w1 = 4 && refState w0 = 1 then
    let q := refOfWord w0
    if s.lockable l q p0 then .ok (gone (bind (s.putWord l q w1) w1 q)) else offX
  else if refState w0 = 1 && refState w1 = 1 then
    let p := refOfWord w0
    let q := refOfWord w1
    if s.lockable l p p0 && s.lockable l q p1 then
      let t := (s.putWord l p (portWord 1 q)).putWord l q (portWord 1 p)
      (gone t).lastSwap k p q
    else offX
  else offX

/-- COLLAPSE (R159) of the join thimble in slot `place.b` of the task `place.a`: both its splices have completed and the locks of its
far ends succeed, or its wires end at the host. A miss of an extent holds it, and a fault of the unit fails the task (R351). -/
def execCollapse (s : State) : Host.Outcome State Fault Refusal := s.happen (s.orFail s.place.a s.collapse)

/-- The repointing at an index ends. -/
def State.endRepoint (s : State) (core ix : Nat) : State :=
  let c := s.coreAt core
  s.putCore core { c with repoints := c.repoints.eraseIdx ix }

/-- Replaces the repointing at an index. -/
def State.setRepoint (s : State) (core ix : Nat) (r : Repointing) : State :=
  let c := s.coreAt core
  s.putCore core { c with repoints := c.repoints.set ix r }

/-- Two nodes at the ends of one wire may have been moved at the same time. The repointing that reaches the far end through
its meeting forward `via` then joins both ends: the port at the new place names the far end's new place, and that forward is
released too (R156, R160). -/
def State.joinMoved (s : State) (launch : Nat) (p : Repointing) : State :=
  match p.via with
  | some v =>
    let own := s.wordAt launch p.new
    if refers own v then (s.putWord launch p.new (portWord (refState own) p.far)).releaseFwd launch v else s
  | none => s

/-- What a repointing does with the word that its swap found (R160). -/
def State.repointWith (s : State) (core ix launch : Nat) (p : Repointing) (r : Option Word) : State :=
  match r with
  | none => s.endRepoint core ix
  | some w =>
    if refers w p.old && (refState w = 1 || refState w = 3) then ((s.endRepoint core ix).releaseFwd launch p.old).joinMoved launch p
    else if refState w = 2 && bit w 60 then
      s.setRepoint core ix { p with far := refOfWord w, via := some p.far, stage := .start }
    else s.endRepoint core ix

/-- One swap of a repointing at an index of a core (R160). The forwards that it releases lie on other cores, and are written through extents
there (R350). -/
def State.repoint (s : State) (core ix : Nat) (p : Repointing) : Ex State := do
  let launch := (s.taskAt p.task).launch
  s.unitReady p.task (slotsOn core [p.new, p.far]) .netW
  (p.old :: p.via.toList).foldlM (fun _ r => s.fwdReady launch r) ()
  match p.stage with
  | .start =>
    if refCore p.far = core then do
      need (!s.inFlight launch p.far) .wait
      let q := s.swap launch p.far p.old p.new
      .ok (q.2.repointWith core ix launch p q.1)
    else do
      s.swapRoom p.task
      .ok ((s.setRepoint core ix { p with stage := .swapping }).sendSwap core p.task launch p.far p.old p.new true)
  | .swapping =>
    match s.swapReply core launch p.far p.old p.new true with
    | some (q, w) => .ok ((s.takeReply p.task q).repointWith core ix launch p w)
    | none => waitX
  | .waitOther => waitX

/-- REPOINT (R160) of the entry `place.b` of the core `place.a`: one swap of a far end from a moved port to its new place. -/
def execRepoint (s : State) : Host.Outcome State Fault Refusal :=
  match (s.coreAt s.place.a).repoints[s.place.b]? with
  | none => s.passed
  | some p => s.happen (s.orFail p.task (s.repoint s.place.a s.place.b p))

end Sys2Proof.Machine
end

