-- ==== Sys2Proof/Machine/Translation.lean ====
section
/-! DEFINITION. Translation (R345 to R354): the page-table walk, the fill of an extent and dirty requests. -/

namespace Sys2Proof.Machine

/-! ### Walks (R345 to R347, R352) -/

/-- The first physical address behind HBM (R345). -/
def hbmEnd : Nat := 0x8000000000

/-- Whether a physical address lies in HBM. -/
def isHbm (p : Nat) : Bool := decide (p < hbmEnd)

/-- The slice that holds an HBM address: 32 * stack + slice (R395). -/
def sliceOf (p : Nat) : Nat := p / 0x80000000

/-- The pseudo-channel of its stack that serves an HBM address (R395). -/
def pseudoChannel (pa : Nat) : Nat := 6 * (sliceOf pa % 32) + pa % 2 ^ 31 / 256 % 6

/-- Whether some other partition holds the slice of an HBM address (R395). -/
def State.foreignSlice (s : State) (part p : Nat) : Bool :=
  s.parts.any fun x => decide (x.1 ≠ part) && x.2.live && x.2.slices.contains (sliceOf p)

/-- The index of a virtual address at a level of the table (R346). -/
def walkIndex (level v : Nat) : Nat := v / 2 ^ (16 + 9 * level) % (if level = 4 then 32 else 512)

/-- A leaf that a walk has found: the key of its entry, the entry, and the size of its page. -/
structure Leaf where
  key   : Nat
  entry : Word
  size  : Nat
  deriving DecidableEq, Repr

/-- The physical base of a leaf's page. -/
def Leaf.frame (l : Leaf) : Nat := bits l.entry 51 12 * 4096

/-- Whether the fields that R346 keeps at zero are zero. -/
def entryRaz (e : Word) : Bool := decide (bits e 63 52 = 0) && decide (bits e 11 8 = 0) && decide (bits e 4 2 = 0)

/-- The walk from the table at `tbl` of a level: a leaf, or the level at which it fails. Tables lie in device memory. -/
def State.walkFrom (s : State) (v : Nat) : Nat → Nat → Except Nat Leaf
  | 0, tbl =>
    let k := tbl + 8 * walkIndex 0 v
    let e := s.dbl k
    if !isHbm k || (s.badDouble k 8).isSome || !entryRaz e then .error 0
    else if bits e 1 0 = 2 ∧ bits e 15 12 = 0 then .ok ⟨k, e, 0x10000⟩ else .error 0
  | n + 1, tbl =>
    let k := tbl + 8 * walkIndex (n + 1) v
    let e := s.dbl k
    if !isHbm k || (s.badDouble k 8).isSome || !entryRaz e then .error (n + 1)
    else if bits e 1 0 = 1 then s.walkFrom v n (bits e 51 12 * 4096)
    else if n = 0 ∧ bits e 1 0 = 3 ∧ bits e 24 12 = 0 then .ok ⟨k, e, 0x2000000⟩ else .error (n + 1)

/-- Whether a frame is one that the kind of a range may map to, and no other partition's (R348, R352, R395). -/
def State.frameOk (s : State) (part kind p : Nat) : Bool :=
  if kind = 3 then isHostKey p else isHbm p && !s.foreignSlice part p

/-- The walk of a virtual address for a launch: its leaf, or the level at which it fails. -/
def State.walk (s : State) (launch kind v : Nat) : Except Nat Leaf :=
  let la := s.launchAt launch
  let r := s.roots.get la.asid 0
  if !bit r 63 then .error 4
  else
    match s.walkFrom v 4 (bits r 51 8 * 256) with
    | .error l => .error l
    | .ok l => if s.frameOk la.part kind l.frame then .ok l else .error (if l.size = 0x10000 then 0 else 1)

/-- The physical address of a virtual one by the table alone, as the CP reads and writes for a launch. -/
def State.translate (s : State) (launch kind v : Nat) : Except Nat Nat :=
  (s.walk launch kind v).map fun l => l.frame + v % l.size

/-! ### Fills (R349) -/

/-- The most that an extent covers. -/
def extentMax : Nat := 0x100000000

/-- The extent under construction and the leaves that it covers. -/
structure Fill where
  lo     : Nat
  hi     : Nat
  pbase  : Nat
  w      : Bool
  leaves : List Leaf
  deriving DecidableEq, Repr

/-- Whether a leaf permits writes. -/
def Leaf.writable (l : Leaf) : Bool := bit l.entry 5

/-- The part of a leaf's page around `v` that lies in a range: its first and last virtual address. -/
def pageIn (r : Range) (l : Leaf) (v : Nat) : Nat × Nat :=
  let a := v / l.size * l.size
  (if a < r.vbase then r.vbase else a, if r.vbase + r.len < a + l.size then r.vbase + r.len else a + l.size)

/-- Extends upward, page by page; `fuel` bounds the pages. -/
def State.fillUp (s : State) (launch : Nat) (r : Range) : Nat → Fill → Fill
  | 0, f => f
  | n + 1, f =>
    if r.vbase + r.len ≤ f.hi then f
    else
      match s.walk launch r.kind f.hi with
      | .error _ => f
      | .ok l =>
        let p := pageIn r l f.hi
        if l.writable = f.w ∧ l.frame + f.hi % l.size = f.pbase + (f.hi - f.lo) ∧ p.2 - f.lo ≤ extentMax then
          s.fillUp launch r n { f with hi := p.2, leaves := l :: f.leaves }
        else f

/-- Extends downward, page by page. -/
def State.fillDown (s : State) (launch : Nat) (r : Range) : Nat → Fill → Fill
  | 0, f => f
  | n + 1, f =>
    if f.lo ≤ r.vbase then f
    else
      match s.walk launch r.kind (f.lo - 1) with
      | .error _ => f
      | .ok l =>
        let p := pageIn r l (f.lo - 1)
        if l.writable = f.w ∧ l.frame + (f.lo - 1) % l.size + 1 = f.pbase ∧ f.hi - p.1 ≤ extentMax then
          s.fillDown launch r n { f with lo := p.1, pbase := f.pbase - (f.lo - p.1), leaves := l :: f.leaves }
        else f

/-- The extent around an address of a range, or the level at which its walk fails. -/
def State.fillFor (s : State) (launch : Nat) (r : Range) (v : Nat) : Except Nat Fill :=
  match s.walk launch r.kind v with
  | .error l => .error l
  | .ok l =>
    let p := pageIn r l v
    let f : Fill := ⟨p.1, p.2, l.frame + p.1 % l.size, l.writable, [l]⟩
    .ok (s.fillDown launch r 65536 (s.fillUp launch r 65536 f))

/-- Sets a bit in every leaf that lacks it, by compare-and-swap on the entry (R349, R350). -/
def State.setLeafBits (s : State) (b : Nat) (ls : List Leaf) : State :=
  ls.foldl (fun s l => if bit (s.dbl l.key) b then s else s.setDbl l.key (s.dbl l.key ||| Word.of (2 ^ b))) s

/-- The extent of a fill; it is W-armed where it permits writes and some covered leaf is not dirty. -/
def Fill.extent (f : Fill) (r : Range) (ix : Nat) : Extent :=
  ⟨f.lo, f.hi, f.pbase, f.w && r.w, f.w && r.w && f.leaves.any fun l => !bit l.entry 7, ix⟩

/-- The form of an extent in which the CP saves it (R349). -/
def Extent.words (x : Extent) : List Word :=
  [Word.of (2 ^ 63 + (if x.w then 2 ^ 62 else 0) + (if x.warm then 2 ^ 61 else 0) + x.vbase / 65536 * 65536 + x.range % 16),
   Word.of (x.vend / 65536 * 65536 % 2 ^ 57), Word.of (x.pbase / 65536 * 65536 % 2 ^ 52)]

/-- The extent of a saved form. A vend of 0 is the end of the address space. -/
def Extent.ofWords (ws : List Word) : Extent :=
  let d (k : Nat) : Word := ws.getD k 0
  let e := bits (d 1) 56 16 * 65536
  ⟨bits (d 0) 56 16 * 65536, if e = 0 then 2 ^ 57 else e, bits (d 2) 51 16 * 65536, bit (d 0) 62, bit (d 0) 61, bits (d 0) 3 0⟩

/-- Eight extents at most: a ninth replaces the one filled longest ago. -/
def addExtent (xs : List Extent) (x : Extent) : List Extent := (if 8 ≤ xs.length then xs.tail else xs) ++ [x]

/-- The walk of a launch fails: the whole launch fails, every task of it (R352, R368). -/
def State.walkFailed (s : State) (launch core v level : Nat) : State :=
  (s.markFailed fun t => decide (t.launch = launch)).failLaunch launch ⟨0x41, 0, core, Word.of v, Word.of level⟩

/-! ### The owners of extents -/

/-- A place that holds extents: a task, by its key, or a halyard, numbered from 2^40. -/
def hyOwner : Nat := 2 ^ 40

/-- The launch of an owner. -/
def State.ownerLaunch (s : State) (k : Nat) : Nat :=
  if k < hyOwner then (s.taskAt k).launch
  else (((s.mastAt ((k - hyOwner) / 2)).hy ((k - hyOwner) % 2)).journal.head?.map (·.launch)).getD 0

/-- The core that a failure of an owner names. -/
def State.ownerCore (s : State) (k : Nat) : Nat :=
  if k < hyOwner then (s.taskAt k).core
  else (((s.mastAt ((k - hyOwner) / 2)).hy ((k - hyOwner) % 2)).journal.head?.map fun t => (s.taskAt t.task).core).getD 0

/-- The extents of an owner. -/
def State.ownerExtents (s : State) (k : Nat) : List Extent :=
  if k < hyOwner then (s.taskAt k).extents else ((s.mastAt ((k - hyOwner) / 2)).hy ((k - hyOwner) % 2)).extents

/-- Replaces the extents of an owner. -/
def State.setOwnerExtents (s : State) (k : Nat) (xs : List Extent) : State :=
  if k < hyOwner then s.putTask k { s.taskAt k with extents := xs }
  else
    let m := (k - hyOwner) / 2
    s.putMast m ((s.mastAt m).setHy ((k - hyOwner) % 2) { (s.mastAt m).hy ((k - hyOwner) % 2) with extents := xs })

/-- Counts a fill of a task (R354). -/
def State.countFill (s : State) (k : Nat) : State :=
  if k < hyOwner then s.putTask k { s.taskAt k with xrefill := Nat.min ((s.taskAt k).xrefill + 1) (2 ^ 32 - 1) } else s

/-- Whether a launch's agents run (R369). -/
def State.launchRuns (s : State) (l : Nat) : Bool :=
  decide ((s.launchAt l).status = .resident) && !(s.launchAt l).killed

/-- A fill: every covered leaf gets its accessed bit, and the owner holds the extent. -/
def State.filled (s : State) (k : Nat) (rs : List Range) (r : Range) (f : Fill) : State :=
  let s := s.setLeafBits 6 f.leaves
  (s.setOwnerExtents k (addExtent (s.ownerExtents k) (f.extent r (rs.findIdx fun x => x = r)))).countFill k

/-- EXTENT_FILL (R349, R351) of the owner `place.a` for the address `place.b`, which none of its extents holds. -/
def execExtentFill (s : State) : Host.Outcome State Fault Refusal :=
  let k := s.place.a
  let v := s.place.b
  let l := s.ownerLaunch k
  let rs := (s.launchAt l).ranges
  match rangeOf rs v 1 with
  | none => s.passed
  | some r =>
    if s.launchRuns l && (extentOf (s.ownerExtents k) v).isNone then
      match s.fillFor l r v with
      | .error level => .next (s.walkFailed l (s.ownerCore k) v level)
      | .ok f => .next (s.filled k rs r f)
    else s.passed

/-! ### Dirty requests (R350) -/

/-- The leaves that cover [v, stop), from walks of its pages; or the address and level at which a walk fails. -/
def State.leavesOf (s : State) (launch kind stop : Nat) : Nat → Nat → Except (Nat × Nat) (List Leaf)
  | 0, _ => .ok []
  | n + 1, v =>
    if stop ≤ v then .ok []
    else
      match s.walk launch kind v with
      | .error l => .error (v, l)
      | .ok l => (s.leavesOf launch kind stop n (v / l.size * l.size + l.size)).map (l :: ·)

/-- The acknowledgement of a dirty request for an extent: every covered leaf is dirty, and the extent is armed no more. -/
def State.dirtied (s : State) (k : Nat) (x : Extent) (ls : List Leaf) : State :=
  let s := s.setLeafBits 7 ls
  s.setOwnerExtents k ((s.ownerExtents k).map fun y => if y = x then { y with warm := false } else y)

/-- The leaves of an extent of a launch. -/
def State.extentLeaves (s : State) (l : Nat) (x : Extent) : Except (Nat × Nat) (List Leaf) :=
  s.leavesOf l ((s.launchAt l).ranges.getD x.range ⟨0, 0, 0, false⟩).kind x.vend 65537 x.vbase

/-- DIRTY_REQUEST (R350) of the owner `place.a` for its armed extent that holds `place.b`. -/
def execDirtyRequest (s : State) : Host.Outcome State Fault Refusal :=
  let k := s.place.a
  let l := s.ownerLaunch k
  match extentOf (s.ownerExtents k) s.place.b with
  | none => s.passed
  | some x =>
    if x.warm && s.launchRuns l then
      match s.extentLeaves l x with
      | .error (v, level) => .next (s.walkFailed l (s.ownerCore k) v level)
      | .ok ls => .next (s.dirtied k x ls)
    else s.passed

/-! ### Accesses of many lines (R350, R351) -/

/-- The owner of the extents of the agent that acts. -/
def State.myOwner (s : State) : Nat :=
  match s.engine with
  | .hart => hyOwner + 2 * s.mastNo + hyNo s.cur.core
  | _ => s.cur.task

/-- The check of one line of a long access of the agent that acts (R350): the fill of a miss and a dirty request happen within
the access, so that an access of more lines than eight extents hold can end (log entry 56). A walk that fails leaves the
access waiting for EXTENT_FILL, which fails the launch. -/
def State.ensure (s : State) (v : Nat) (k : Acc) : Ex State := do
  let ea := Word.of v
  let o := s.myOwner
  match rangeOf s.launch.ranges v 1 with
  | none => trapX 0x05 ea 1
  | some r => do
    need (admits r.kind k) (.trap 0x05 ea 2)
    need (!k.writes || r.w) (.trap 0x05 ea 3)
    let s ← match extentOf s.extents v with
      | some _ => .ok s
      | none =>
        match s.fillFor s.cur.launch r v with
        | .error _ => waitX
        | .ok f => .ok (s.filled o s.launch.ranges r f)
    match extentOf s.extents v with
    | none => waitX
    | some x => do
      need (!k.writes || x.w) (.trap 0x05 ea 3)
      if k.writes && x.warm then
        match s.extentLeaves s.cur.launch x with
        | .error _ => waitX
        | .ok ls => .ok (s.dirtied o x ls)
      else .ok s

/-- The check of one line by a unit of a task's core. -/
def State.ensureFor (s : State) (task : Nat) (ea : Word) (k : Acc) : Ex State := do
  let t ← (s.focusTask task).ensure (ea.toNat % 2 ^ 57) k
  .ok { t with cur := s.cur }

/-- The address and the level at which a walk fails that the check of an access at `v` makes, if one does (R352). -/
def State.failingWalk (s : State) (v : Nat) (k : Acc) : Option (Nat × Nat) :=
  match rangeOf s.launch.ranges v 1 with
  | none => none
  | some r =>
    match extentOf s.extents v with
    | none => match s.fillFor s.cur.launch r v with | .error l => some (v, l) | .ok _ => none
    | some x =>
      if k.writes && x.warm then match s.extentLeaves s.cur.launch x with | .error e => some e | .ok _ => none
      else none

/-- The check of every line of [v, stop), extent by extent; `fuel` bounds their number. -/
def State.ensureSpan (k : Acc) (stop : Nat) : Nat → Nat → State → Ex State
  | 0, _, s => .ok s
  | n + 1, v, s =>
    if stop ≤ v then .ok s
    else do
      let s ← s.ensure v k
      State.ensureSpan k stop n (match extentOf s.extents v with | some x => x.vend | none => stop) s

end Sys2Proof.Machine
end

