-- ==== Sys2Proof/Machine/Redex.lean ====
section
/-! DEFINITION. Redexes: RPUSH, RPOP, MEET, RULE, FORK, JOIN (R180 to R186), and the events of the net unit, the deque unit
and dispatch (R169 to R179). -/

namespace Sys2Proof.Machine

/-! ### RPUSH, RPOP, RULE, FORK -/

/-- The check of a reference by RPUSH and MEET (R181). -/
def rpushOk (r : Word) : Bool := decide (refState r = 1) && decide (bits r 60 52 = 0) && decide (refPort r = 0)

/-- RPUSH (R181). -/
def execRpush (f : Fin 16) (x y : Reg) (s : State) : Host.Outcome State Fault Refusal :=
  s.finish (do
    need (rpushOk (s.reg x) && rpushOk (s.reg y)) (s.bad0C 0)
    s.needReleased
    let t ← s.pushX (redexRecord (s.reg x) (s.reg y) f.val 1)
    .ok (t.advance 1))

/-- The register d of a pair of destinations (R180). -/
def pairReg (d : Fin 31) (i : Nat) : Reg := .w (Fin.ofNat 32 (d.val + i))

/-- Writes a pair of destinations and goes on. -/
def State.result2 (s : State) (d : Fin 31) (a b : Word) : State := ((s.setReg (pairReg d 0) a).setReg (pairReg d 1) b).advance 1

/-- RPOP (R182). A place that a JOIN has reserved counts as a resident record: where it is the only one, RPOP waits until the JOIN ends (R186,
log entry 76). -/
def execRpop (d : Fin 31) (s : State) : Host.Outcome State Fault Refusal :=
  s.finish (do
    match ← s.popOn s.cur.task with
    | none => if s.task.reserved = 0 then .ok (s.result2 d 0 0) else waitX
    | some (r, t) => .ok (t.result2 d r.d0 r.d1))

/-- The entry of the rule table for two kinds (R172). -/
def ruleIndex (k1 k2 : Nat) : Nat :=
  let a := Nat.min k1 k2
  let b := Nat.max k1 k2
  b * (b + 1) / 2 + a

/-- The handler of a pair of kinds (R172), read from the rule table in the heap. -/
def State.ruleOf (s : State) (k1 k2 : Nat) : Ex Word := do
  let ea := s.task.rtbase + Word.of (8 * ruleIndex k1 k2)
  let key ← s.extentCheck ea 8 .load
  need (s.badDouble key 8).isNone (.trap 0x0E ea 0)
  .ok (s.dbl key)

/-- RULE (R184). -/
def execRule (d : Reg) (k1 k2 : Src) (s : State) : Host.Outcome State Fault Refusal :=
  s.finish (do
    need ((s.src k1).toNat < s.task.nkind) (s.bad0C (s.src k1))
    need ((s.src k2).toNat < s.task.nkind) (s.bad0C (s.src k2))
    let h ← s.ruleOf (s.src k1).toNat (s.src k2).toNat
    .ok (s.result 1 d h))

/-- The handler index of an address (R185): none where the address is below cbase or the index does not fit. -/
def Task.handlerIndex (t : Task) (h : Word) : Option Nat :=
  if h.toNat < t.cbase.toNat ∨ 2 ^ 20 ≤ (h.toNat - t.cbase.toNat) / 4 then none else some ((h.toNat - t.cbase.toNat) / 4)

/-- FORK (R185). -/
def execFork (f : Fin 16) (h : RcSrc) (a0 a1 : Src) (s : State) : Host.Outcome State Fault Refusal :=
  s.finish (do
    let hv := s.rc h
    need (bits hv 1 0 = 0) (.trap 0x03 hv 0)
    match s.task.handlerIndex hv with
    | none => trapX 0x0C s.pc 0
    | some i => do
      s.needReleased
      let t ← s.pushX (taskRecord i f.val 0 (BitVec.ofNat 32 (s.src a0).toNat) (s.src a1))
      .ok (t.advance 2))

/-! ### JOIN (R186) -/

/-- The arrival at a join object whose doubles lie at `key`: the new count and the continuation, or the cause. -/
def State.joinAt (s : State) (key : Nat) : Except Nat (Word × Word × State) :=
  if (s.badDouble key 16).isSome then .error 0x0E
  else
    let s := s.correct key 16
    let count := s.dbl key
    let cont := s.dbl (key + 8)
    if count = 0 ∨ bits cont 63 61 ≠ 6 ∨ bits cont 60 60 ≠ 0 ∨ bits cont 55 52 ≠ 0 then .error 0x0C
    else .ok (count - 1, cont, s.setDbl key (count - 1))

/-- The record that the last arrival pushes: the continuation with origin 10, and the object's address. -/
def joinRecord (cont a : Word) : Record := ⟨setBits cont 55 54 2, a, false⟩

/-- JOIN ends with a count: the continuation goes into the reserved place where it is zero. -/
def State.joinDone (s : State) (d : Reg) (a count cont : Word) : State :=
  let t := s.task
  let s := if count = 0 then (s.setTask { t with deque := t.deque ++ [joinRecord cont a] }).wakeSteals s.cur.core else s
  s.result 1 d count

/-- The checks of a JOIN address (R186), with the memory key for spaces 0x8 and 0x9. -/
def State.joinCheck (s : State) (a : Word) : Ex Nat := do
  need (space a ≠ 0xA || s.mayTravel) (.trap 0x15 s.pc 0xFFE)
  need (bits a 3 0 = 0) (.trap 0x03 a 0)
  need ([0x8, 0x9, 0xA].contains (space a) && zeroFieldsOk a) (.trap 0x04 a 0)
  need (space a ≠ 0x8 || (bits a 16 0 < 0x18000 && s.localOk (bits a 16 0) 16 .atomic)) (.trap 0x04 a 0)
  need (space a ≠ 0x9 || s.bankOk (bits a 19 16)) (.trap 0x04 a 0)
  let key := if space a = 0x8 then localKey s.cur.core (bits a 16 0) else s.bankAt a
  need (space a ≠ 0x9 || !s.mast.touchesArmed (keyOff key) 16) (.trap 0x0C s.pc 0)
  need (space a ≠ 0xA || s.coreIn s.cur.launch (bits a 44 32)) (.trap 0x0C s.pc 0)
  .ok key

/-- JOIN whose request has left: it waits for the reply, and a reserved place of the deque waits with it. -/
def State.joinReply (s : State) (d : Reg) (a : Word) (x : Answer) : Ex State := do
  let t := s.setTask { s.task with reserved := s.task.reserved - 1 }
  match x with
  | .joined count cont => .ok (t.joinDone d a count cont)
  | .value v => .ok (t.result 1 d v)
  | .fault cause _ => .ok (t.trapEntry cause a 0 t.pc)

/-- JOIN. -/
def State.join (s : State) (d : Reg) (a : Word) : Ex State := do
  let key ← s.joinCheck a
  if space a = 0xA then s.needShare 0 32
  let s ← s.roomOn s.cur.task (.trap 0x0B s.pc 0)
  need s.settled .wait
  need (space a ≠ 0xA || s.task.replyRoom 32) .wait
  if space a = 0xA then do
    let s := s.setTask { s.task with reserved := s.task.reserved + 1, ibRsv := s.task.ibRsv + 32 }
    let id := s.nextPkt
    let s := s.emit 0 (bits a 44 32) 32 true (.join a)
    .ok (s.setCtx { s.ctx with await := .reply id d none }).waiting
  else do
    need (space a ≠ 0x9 || s.sbFree true (keyOff key) 16) .wait
    match s.joinAt key with
    | .error c => trapX c a 0
    | .ok (count, cont, s) => .ok (s.joinDone d a count cont)

/-- JOIN: a request that has left is not restarted. -/
def execJoin (d : Reg) (a : RcSrc) (s : State) : Host.Outcome State Fault Refusal :=
  match s.ctx.await with
  | .reply _ _ (some x) => s.finish (s.joinReply d (s.rc a) x)
  | .reply _ _ none => .next s.waiting
  | _ => s.finish (s.join d (s.rc a))

/-- JOIN_TARGET (R186) of packet `place.a`: the arrival at the object's core, and the reply. -/
def execJoinTarget (s : State) : Host.Outcome State Fault Refusal :=
  match s.packet s.place.a with
  | some p =>
    match p.kind with
    | .join a =>
      if s.mayApply p then
        let t := s.taskAt (taskKey p.launch p.dst)
        let off := bits a 16 0
        let s := s.drop p
        if !(t.live && decide (t.locb ≤ off) && decide (off + 16 ≤ t.locl)) then
          .next (s.emitUnit 1 p.dst p.src p.launch 32 (.answer p.ctx (.fault 0x04 a)))
        else
          match s.joinAt (localKey p.dst off) with
          | .error c => .next (s.emitUnit 1 p.dst p.src p.launch 32 (.answer p.ctx (.fault c a)))
          | .ok (count, cont, s) => .next (s.emitUnit 1 p.dst p.src p.launch 32 (.answer p.ctx (.joined count cont)))
      else s.passed
    | _ => s.passed
  | none => s.passed

/-! ### Meetings (R173 to R175) -/

/-- The weight of a node (R173). -/
def State.weight (s : State) (launch : Nat) (r : Word) : Nat := ((s.taskAt (refTask launch r)).node (refKey r)).ilen.toNat

/-- What the core that holds a redex record does (R174): nothing, a handoff, or moves (true: y). -/
inductive MeetPlan where
  | ready
  | handoff (core : Nat)
  | moves (l : List Bool)
  deriving DecidableEq, Repr

/-- The check of a node of a record where the node lies (R175): the cause where it fails. -/
def State.meetCheck (s : State) (launch : Nat) (r : Word) (others : List Word) : Option Nat :=
  match s.nodeAt launch r with
  | none => some 0x12
  | some n =>
    if !n.live then some 0x12
    else if (refState (n.port 0) = 1 || refState (n.port 0) = 3) && others.any (refers (n.port 0)) then none else some 0x0C

/-- Whether the second node of a pair is the lighter one (R173). -/
def State.yLighter (s : State) (launch : Nat) (x y : Word) : Bool :=
  let wx := s.weight launch x
  let wy := s.weight launch y
  decide (wy < wx) || (decide (wy = wx) && decide (x.toNat < y.toNat))

/-- The plan of R174 on core `e`. -/
def State.meetPlan (s : State) (launch e : Nat) (x y : Word) : MeetPlan :=
  let yl := s.yLighter launch x y
  let heavy := refCore (if yl then x else y)
  let light := refCore (if yl then y else x)
  if heavy = e then (if light = e then .ready else .moves [yl])
  else if light = e ∨ light = heavy then .handoff heavy
  else .moves [yl, !yl]

/-- The first failed check of the nodes that lie on the core (R175). -/
def State.localCheck (s : State) (launch e : Nat) (x y : Word) : Option Nat :=
  match (if refCore x = e then s.meetCheck launch x [y] else none) with
  | some c => some c
  | none => if refCore y = e then s.meetCheck launch y [x] else none

/-- The register forms of a redex record's references. -/
def Record.refs (r : Record) : Word × Word := (refOfWord r.d0, refOfWord r.d1)

/-- Replaces a meeting of a core. -/
def State.setMeeting (s : State) (core : Nat) (m : Meeting) : State :=
  let c := s.coreAt core
  s.putCore core { c with meetings := c.meetings.map fun q => if q.id = m.id then m else q }

/-- Removes a meeting of a core. -/
def State.dropMeeting (s : State) (core id : Nat) : State :=
  let c := s.coreAt core
  s.putCore core { c with meetings := c.meetings.filter fun q => decide (q.id ≠ id) }

/-- Room for a fetch to leave: 32 bytes of the task's request share, and 64 bytes reserved for the node in the reply (R286). -/
def State.fetchRoom (s : State) (task : Nat) : Bool :=
  decide (32 ≤ (s.taskAt task).sqFree 0) && (s.taskAt task).replyRoom 64

/-- Chooses and holds `n` slots of a task's store, as NNEW would; none where they do not suffice (R175 step 1). -/
def holdSlots : Nat → Task → Option (List Nat × Task)
  | 0, t => some ([], t)
  | n + 1, t =>
    match t.freeSlot with
    | none => none
    | some k => (holdSlots n (t.setNode k { t.node k with rel := true })).map fun p => (k :: p.1, p.2)

/-- Gives held slots back. -/
def freeSlots (t : Task) (ks : List Nat) : Task := ks.foldl (fun t k => t.setNode k { t.node k with rel := false }) t

/-- Starts the next move of a meeting, for which a slot is held (R175 step 2): it sends a fetch. -/
def State.nextMove (s : State) (core launch : Nat) (m : Meeting) : State :=
  match m.toMove, m.spare with
  | yMoves :: rest, k :: ks =>
    let g := ((s.taskAt m.task).node k).gen
    let r := if yMoves then m.y else m.x
    let o := if yMoves then m.x else m.y
    let s := s.setMeeting core { m with
      toMove := rest, slot := some k, spare := ks, movedY := m.movedY || yMoves, movedX := m.movedX || !yMoves }
    let s := s.putTask m.task { s.taskAt m.task with ibRsv := (s.taskAt m.task).ibRsv + 64 }
    s.emitHeld 0 core (refCore r) launch 32 (.fetch m.id r o (mkRef core k g.toNat 0) false)
  | _, _ => s

/-- Registers a meeting for a strand that dispatches or a context at MEET, and starts its first move. Every slot that its moves
need is chosen here, so a store that is full fails it with 0x0A before anything has changed (R175, log entry 17). -/
def State.startMeeting (s : State) (core task launch : Nat) (strand ctx : Option Nat) (r : Record) (mv : List Bool) (full : Stop) :
    Ex (Nat × State) := do
  need (s.fetchRoom task) .wait
  match holdSlots mv.length (s.taskAt task) with
  | none => .error full
  | some (ks, t) => do
    s.unitReady task ks .netW
    let m : Meeting := ⟨s.nextId, task, strand, ctx, r, r.refs.1, r.refs.2, mv, none, ks, false, false, none, none⟩
    let s := s.putTask task t
    let c := s.coreAt core
    let s := { s.putCore core { c with meetings := c.meetings ++ [m] } with nextId := s.nextId + 1 }
    .ok (m.id, s.nextMove core launch m)

/-- Whether no port of a node of a task is LOCKED (R171). -/
def State.unlocked (s : State) (task : Nat) (r : Word) : Bool :=
  ((s.taskAt task).node (refKey r)).ports.all fun w => refState w ≠ 3

/-- Whether every far end of the moved nodes has been repointed or passed through (R175 step 4): their thimbles are gone. -/
def State.meetingDone (s : State) (launch : Nat) (m : Meeting) : Bool :=
  let gone (r : Word) : Bool := match s.nodeAt launch r with | some n => !n.thim | none => true
  m.toMove.isEmpty && m.slot.isNone && (!m.movedX || gone m.record.refs.1) && (!m.movedY || gone m.record.refs.2)

/-- The order in which a handler receives the nodes of a met redex (R171). Where both moved, the keys are those of the new references
(log entry 17). -/
def State.meetOrder (s : State) (launch : Nat) (x y : Word) (movedX movedY : Bool) : Word × Word :=
  let kx := ((s.taskAt (refTask launch x)).node (refKey x)).kind.toNat
  let ky := ((s.taskAt (refTask launch y)).node (refKey y)).kind.toNat
  if kx < ky then (x, y) else if ky < kx then (y, x)
  else if movedX && !movedY then (y, x) else if movedY && !movedX then (x, y)
  else if s.yLighter launch x y then (x, y) else (y, x)

/-- The nodes that a meeting moves after the one under way. -/
def Meeting.laterRefs (m : Meeting) : List Word := m.toMove.map fun yMoves => if yMoves then m.y else m.x

/-- The first failed check of the moves of a meeting that follow the one under way, made before its node moves, so that a
meeting that fails changes nothing (R175, R183, log entry 17). -/
def State.laterCheck (s : State) (launch : Nat) (m : Meeting) : Option Nat :=
  m.laterRefs.findSome? fun r => s.meetCheck launch r [if r = m.y then m.x else m.y]

/-- Whether a meeting's later moves can be made as well: their nodes can be read. -/
def State.laterReady (s : State) (launch : Nat) (m : Meeting) : Ex Unit :=
  m.laterRefs.foldlM (fun _ r => s.nodeReadable (refTask launch r) (refKey r)) ()

/-- Whether a port of a node that a meeting moves later is LOCKED. -/
def State.laterLocked (s : State) (launch : Nat) (m : Meeting) : Bool :=
  m.laterRefs.any fun r => ((s.nodeAt launch r).map fun n => n.ports.any fun w => refState w = 3).getD false

/-- The meeting thimble that a node leaves, which forwards its ports to its new place (R138, R175). -/
def Node.moved (n : Node) (new : Word) : Node :=
  { Node.init with
    gen := n.gen, thim := true, kind := 0xFFF, arity := n.arity
    ports := n.ports.zipIdx.map fun q => if refState q.1 = 0 then q.1 else fwdWord true (withPort new q.2) }

/-- A node leaves its slot to a meeting thimble. -/
def State.leaveSlot (s : State) (launch : Nat) (r new : Word) (n : Node) : State :=
  (s.putNode launch r (n.moved new)).renameSplices launch r new

/-- A fetch that is served: the node, its core's slot as a meeting thimble, and the reply. -/
def State.serveFetch (s : State) (p : Packet) (id : Nat) (r new : Word) (n : Node) : State :=
  ((s.drop p).leaveSlot p.launch r new n).emitUnit 1 p.dst p.src p.launch 64 (.fetched id (some n) 0)

/-- The node that a meeting moves second leaves its slot together with the first, so that no check of it can fail any more; its own
fetch brings it (R183, log entry 17). -/
def State.takeLater (s : State) (core launch : Nat) (m : Meeting) : State :=
  match m.laterRefs, m.spare with
  | r :: _, k :: _ =>
    match s.nodeAt launch r with
    | some n =>
      (s.setMeeting core { m with later := some n }).leaveSlot launch r (mkRef core k ((s.taskAt m.task).node k).gen.toNat 0) n
    | none => s
  | _, _ => s

/-- MEET_FETCH (R175) of packet `place.a`: the node's core checks it, copies it into the reply and leaves a meeting
thimble. It waits in the net unit until no port is LOCKED, and holds back no other packet meanwhile (R191). Where both nodes of a
pair move, the first fetch waits for both and takes both. -/
def execMeetFetch (s : State) : Host.Outcome State Fault Refusal :=
  match s.packet s.place.a with
  | some p =>
    match p.kind with
    | .fetch id r o new held =>
      let task := taskKey p.launch p.dst
      let mt := (s.coreAt p.src).meetings.find? fun m => m.id = id
      let also := mt.map fun m => [m.x, m.y, m.record.refs.1, m.record.refs.2]
      let others := o :: (also.getD []).filter fun w => !sameNode w r
      let failed (s : State) (c : Nat) : State := (s.drop p).emitUnit 1 p.dst p.src p.launch 32 (.fetched id none c)
      s.happen (do
        need (held || s.mayApply p) .wait
        match mt.bind fun m => m.later.map fun n => (m, n) with
        | some (m, n) =>
          .ok (((s.drop p).setMeeting p.src { m with later := none }).emitUnit 1 p.dst p.src p.launch 64 (.fetched id (some n) 0))
        | none =>
          match (do s.nodeReadable task (refKey r); (mt.map (s.laterReady p.launch)).getD (.ok ())) with
          | .error (.trap c _ _) => .ok (failed s c)
          | .error e => .error e
          | .ok _ =>
            match s.meetCheck p.launch r others, mt.bind (s.laterCheck p.launch), s.nodeAt p.launch r with
            | none, none, some n =>
              if (n.ports.any fun w => refState w = 3) || (mt.map (s.laterLocked p.launch)).getD false then
                .ok { s with net := s.net.map fun q => if q.id = p.id then { q with kind := .fetch id r o new true } else q }
              else
                let t := s.serveFetch p id r new n
                .ok ((mt.map (t.takeLater p.src p.launch)).getD t)
            | some c, _, _ => .ok (failed s c)
            | none, some c, _ => .ok (failed s c)
            | none, none, none => .ok (failed s 0x12))
    | _ => s.passed
  | none => s.passed

/-- The repointings of a node that has moved from `old` to `new` (R160): one for each wired port; a HOST port has its
binding updated and its forward released at once. The forward of a port whose own splice is in flight stays until a relink
passes through it or that splice completes (R155). -/
def State.installPorts (s : State) (core task launch : Nat) (old new : Word) (n : Node) (id : Nat) : State :=
  n.ports.zipIdx.foldl (fun s q =>
    let o := withPort old q.2
    let w := withPort new q.2
    match refState q.1 with
    | 1 =>
      let c := s.coreAt core
      s.putCore core { c with repoints := c.repoints ++ [⟨task, o, w, refOfWord q.1, none, .start, id⟩] }
    | 4 =>
      let la := s.launchAt launch
      (s.putLaunch launch { la with hostbind := la.hostbind.set (bits q.1 19 0) w }).releaseFwd launch o
    | 2 =>
      if (s.spliceOf launch o).isSome then s else s.releaseFwd launch o
    | _ => s) s

/-- The old place of the node that a meeting has just fetched. -/
def Meeting.fetched (m : Meeting) : Word := if m.movedY && decide (m.y = m.record.refs.2) then m.y else m.x

/-- The node of a meeting's move arrives: it is installed in its slot, its far ends are to be repointed, and the next move
starts; a failed check fails the meeting and gives its slots back (R175). -/
def State.installMoved (s : State) (core launch : Nat) (m : Meeting) (k : Nat) (node : Option Node) (cause : Nat) : State :=
  let t := s.taskAt m.task
  let g := (t.node k).gen
  match node with
  | none =>
    let s := s.putTask m.task (freeSlots t (k :: m.spare))
    s.setMeeting core { m with slot := none, spare := [], toMove := [], failed := some (cause, 0) }
  | some n =>
    let new := mkRef core k g.toNat 0
    let yMoved := m.movedY && decide (m.y = m.record.refs.2)
    let old := m.fetched
    let m := { m with slot := none, x := if yMoved then m.x else new, y := if yMoved then new else m.y }
    let s := s.putTask m.task (t.setNode k { n with gen := g })
    let s := (s.setMeeting core m).installPorts core m.task launch old new n m.id
    s.nextMove core launch m

/-- MEET_INSTALL (R175) of packet `place.a`. The slot that it fills, and the thimble that it may release forwards of, are written through
extents (R350). The packet's reserved room is free again; a move that follows waits for room of its
own. -/
def execMeetInstall (s : State) : Host.Outcome State Fault Refusal :=
  match s.packet s.place.a with
  | some p =>
    match p.kind with
    | .fetched id node cause =>
      match (s.coreAt p.dst).meetings.find? fun m => m.id = id with
      | some m =>
        match m.slot with
        | some k =>
          s.happen (s.orFail m.task (do
            need (s.mayApply p) .wait
            s.unitReady m.task [k] .netW
            if node.isSome then s.fwdReady p.launch m.fetched
            let s := s.drop p
            let s := s.putTask m.task { s.taskAt m.task with ibRsv := (s.taskAt m.task).ibRsv - 64 }
            need (node.isNone || m.toMove.isEmpty || s.fetchRoom m.task) .wait
            .ok (s.installMoved p.dst p.launch m k node cause)))
        | none => s.passed
      | none => s.passed
    | _ => s.passed
  | none => s.passed

/-- A context of a reply message sends no packet: a MEET of nodes that do not both lie on its core, which would move one or hand them
off, takes cause 0x15 before any other (R295). DESIGN CHOICE (log entry 78): heap accesses, the count updates of NDUP, NOWN and NFREE, and the
swaps that the splice unit sends for a SPLICE are no packets that an instruction of the context places; they are not restricted. -/
def State.needSend (s : State) (x y : Word) : Ex Unit :=
  need (s.ctx.kind ≠ .rep || (refCore x = s.cur.core && refCore y = s.cur.core)) (.trap 0x15 s.pc 0xFFE)

/-- Whether a handoff finds room in the steal send partition (R285). -/
def State.stealRoom (s : State) (core n : Nat) : Bool := decide (packetBytes n ≤ s.sqRoom 2 core 0)

/-- MEET (R183), with the meeting of the context for this pair where one runs. A task that has failed hands off nothing any more:
its MEET waits until the launch is killed (R170). trapinfo of its checks is 0 (log entry 75). -/
def State.meet (s : State) (d : Fin 31) (x y : Word) : Ex State := do
  s.needSend x y
  need (rpushOk x && rpushOk y && !sameNode x y) (s.bad0C 0)
  match s.core.meetings.find? fun m => m.ctx = some s.cur.ctx && m.record.refs = (x, y) with
  | some m =>
    match m.failed with
    | some (c, i) => .ok ((s.dropMeeting s.cur.core m.id).trapEntry c s.pc i s.pc)
    | none => do
      s.unitReady s.cur.task (slotsOn s.cur.core [m.x, m.y]) .net
      need (s.meetingDone s.cur.launch m && s.unlocked s.cur.task m.x && s.unlocked s.cur.task m.y) .wait
      let o := s.meetOrder s.cur.launch m.x m.y m.movedX m.movedY
      .ok ((s.dropMeeting s.cur.core m.id).result2 d o.1 o.2)
  | none => do
    s.unitReady s.cur.task (slotsOn s.cur.core [x, y]) .net
    match s.localCheck s.cur.launch s.cur.core x y with
    | some c => trapX c s.pc 0
    | none =>
      match s.meetPlan s.cur.launch s.cur.core x y with
      | .ready => do
        need (s.unlocked s.cur.task x && s.unlocked s.cur.task y) .wait
        let o := s.meetOrder s.cur.launch x y false false
        .ok (s.result2 d o.1 o.2)
      | .handoff h => do
        need (!s.task.failed && s.stealRoom s.cur.core 16) .wait
        .ok ((s.emitHeld 2 s.cur.core h s.cur.launch 16 (.handoff { redexRecord x y 0 1 with pinned := true })).result2 d 0 0)
      | .moves mv => do
        let p ← s.startMeeting s.cur.core s.cur.task s.cur.launch none (some s.cur.ctx) (redexRecord x y 0 1) mv (.trap 0x0A s.pc 0)
        .ok p.2.waiting

/-- MEET. -/
def execMeet (d : Fin 31) (x y : Reg) (s : State) := s.finish (s.meet d (s.reg x) (s.reg y))

/-! ### Dispatch (R169, R170) -/

/-- Whether a task may run: it is granted, has not failed, and its launch is neither pre-empted nor killed. -/
def State.taskRuns (s : State) (t : Task) : Bool :=
  t.live && !t.failed && decide ((s.launchAt t.launch).status = .resident) && !(s.launchAt t.launch).killed

/-- The tasks resident on a core that may run, in the order of R169: by priority, and in the order of dispatch. -/
def State.tasksOf (s : State) (core : Nat) : List (Nat × Task) :=
  let ts := s.tasks.filter fun p => decide (p.2.core = core) && s.taskRuns p.2
  (List.range 8).reverse.flatMap fun pr => ts.filter fun p => decide (bits p.2.tprio 2 0 = pr)

/-- The messages of a task that wait for a strand. -/
def Task.waitingMsgs (t : Task) : List Msg := t.inbox.filter fun m => !m.taken

/-- Whether the contexts of a launch may issue: it is resident and not killed. -/
def State.runs (s : State) (launch : Nat) : Bool :=
  decide ((s.launchAt launch).status = .resident) && !(s.launchAt launch).killed

/-- The free reefs of a mast (R240). -/
def State.freeReefs (s : State) (mast : Nat) : Nat :=
  16 - ((s.ctxs.filter fun p => decide (mastOf p.2.core = mast)).map fun p => p.2.vgrant / 16).sum

/-- The resumption of a mast that waits for reefs and is served first: the oldest, of launches that run (R242). -/
def State.firstReefs (s : State) (mast : Nat) : Option Nat :=
  (s.mastAt mast).reefWait.find? fun k => s.runs (s.ctxAt k).launch

/-- Whether a strand of its core can take a context up again: it has been signalled. -/
def State.mayReenter (s : State) (c : Context) : Bool := s.runs c.launch && c.status = .resumable

/-- Whether a strand of the core may take new work: it is idle and no context of the core can be resumed (R169, R291). -/
def State.mayTakeNew (s : State) (core strand : Nat) : Bool :=
  decide (core < 8192) && !(s.coreAt core).cfence && ((s.coreAt core).strand strand).idle
    && s.ctxs.all fun p => decide (p.2.core ≠ core) || !s.mayReenter p.2

/-- Whether a strand of the core may look for a record: it may take new work, and no message that it could take waits (R169). A task whose sixteen contexts live takes none (R79). -/
def State.mayDispatch (s : State) (core strand : Nat) : Bool :=
  s.mayTakeNew core strand && (s.tasksOf core).all fun p => p.2.waitingMsgs.isEmpty || (s.freeArea p.1).isNone

/-- A record that is never dispatched again (R170): it is kept with the failure report, and the task fails. -/
def State.withhold (s : State) (k : Nat) (r : Record) (cause : Nat) (addr info : Word) : State :=
  let t := s.taskAt k
  (s.putTask k { t with withheld := t.withheld ++ [r] }).failTask k cause addr info

/-- Creates the context of a record and starts it at its handler; a handler outside hbnd takes cause 0x06 (R170). -/
def State.startRecord (s : State) (k strand : Nat) (kind : CtxKind) (h w0 w1 w2 c0 c1 : Word) : State :=
  let p := s.newCtx k strand kind h w0 w1 w2
  let s := p.2.focus p.1
  let s := s.setCtx { s.ctx with cur0 := c0, cur1 := c1 }
  if (s.taskAt k).inHbnd h then s else s.trapEntry 0x06 h 0 h

/-- The end of a redex record's dispatch: its rule's handler, or the pair is dropped and counted (R170). -/
def State.finishRedex (s : State) (core strand k : Nat) (r : Record) (x y : Word) : Ex State := do
  let s := { s.focusTask k with cur := ⟨core, 0, k, (s.taskAt k).launch⟩ }
  let n (r : Word) : Nat := (s.task.node (refKey r)).kind.toNat
  match s.ruleOf (n x) (n y) with
  | .error (.trap c a i) => .ok (s.withhold k r c a i)
  | .error e => .error e
  | .ok h =>
    if h = 0 then .ok (s.setLaunch { s.launch with drops := s.launch.drops + 1 })
    else .ok (s.startRecord k strand .redex h x y (recordFlags r) x y)

/-- Gives or takes the meeting that a strand waits for. -/
def State.strandMeeting (s : State) (core strand : Nat) (m : Option Nat) : State :=
  let c := s.coreAt core
  s.putCore core { c with strands := c.strands.modify strand fun st => { st with meeting := m, stealAt := none, resting := false } }

/-- A fault that a meeting or a rule lookup finds before the context exists withholds the record (R170). -/
def State.orWithhold (s : State) (k : Nat) (r : Record) (x : Ex State) : Ex State :=
  match x with
  | .error (.trap c a i) => .ok (s.withhold k r c a i)
  | _ => x

/-- A popped redex record is met, handed off, or dispatched (R170, R174, R175). -/
def State.dispatchRedex (s : State) (core strand k : Nat) (r : Record) : Ex State :=
  let l := (s.taskAt k).launch
  let x := r.refs.1
  let y := r.refs.2
  s.orWithhold k r (do
    s.unitReady k (slotsOn core [x, y]) .net
    match s.localCheck l core x y with
    | some c => trapX c 0 0
    | none =>
      match s.meetPlan l core x y with
      | .ready => do
        need (s.unlocked k x && s.unlocked k y) .off
        let o := s.meetOrder l x y false false
        s.finishRedex core strand k r o.1 o.2
      | .handoff h => do
        need (s.stealRoom core 16) .off
        .ok (s.emitHeld 2 core h l 16 (.handoff { r with pinned := true }))
      | .moves mv => do
        let p ← s.startMeeting core k l (some strand) none r mv (.trap 0x0A 0 0)
        .ok (p.2.strandMeeting core strand (some p.1)))

/-- The dispatch of a record popped from a task's deque (R170). -/
def State.dispatchRecord (s : State) (core strand k : Nat) (r : Record) : Ex State :=
  if bits r.d0 63 61 = 6 then
    let h := (s.taskAt k).cbase + Word.of (4 * bits r.d0 51 32)
    .ok (s.startRecord k strand .task h (Word.of (bits r.d0 31 0)) r.d1 (recordFlags r) 0 0)
  else s.dispatchRedex core strand k r

/-- A strand whose meeting has ended goes on with its record, and reads its nodes through extents (R350). The record of a task that has failed meanwhile is not dispatched any
more, and one of a launch that is stopped waits (R170). -/
def State.dispatchMet (s : State) (core strand : Nat) (m : Meeting) : Ex State := do
  let l := (s.taskAt m.task).launch
  let t := s.taskAt m.task
  let ended := (s.dropMeeting core m.id).strandMeeting core strand none
  match m.failed with
  | some (c, i) => .ok (ended.withhold m.task m.record c 0 i)
  | none =>
    match s.unitReady m.task (slotsOn core [m.x, m.y]) .net with
    | .error (.trap c a i) => .ok (ended.withhold m.task m.record c a i)
    | .error e => .error e
    | .ok _ => do
      need (s.meetingDone l m && s.unlocked m.task m.x && s.unlocked m.task m.y) .off
      if t.failed then .ok (ended.putTask m.task { t with withheld := t.withheld ++ [m.record] })
      else do
        need (s.taskRuns t && (s.freeArea m.task).isSome) .off
        let o := s.meetOrder l m.x m.y m.movedX m.movedY
        ended.finishRedex core strand m.task m.record o.1 o.2

/-- DISPATCH (R169, R170) by strand `place.b` of core `place.a`: the bottom record of the first task that has one, or the
record whose meeting has ended. -/
def execDispatch (s : State) : Host.Outcome State Fault Refusal :=
  let core := s.place.a
  let strand := s.place.b
  let st := (s.coreAt core).strand strand
  s.happen (
    match st.meeting with
    | some id =>
      match (s.coreAt core).meetings.find? fun m => m.id = id with
      | some m => s.dispatchMet core strand m
      | none => offX
    | none =>
      if !s.mayDispatch core strand then offX
      else
        match (s.tasksOf core).find? fun p => p.2.pop.isSome && (s.freeArea p.1).isSome with
        | some (k, _) => s.orFail k (do
          match ← s.popOn k with
          | some (r, t) => (t.putCore core ((t.coreAt core).foundWork strand)).dispatchRecord core strand k r
          | none => offX)
        | none => offX)

/-! ### Handoffs and steals (R174, R176 to R178) -/

/-- HANDOFF_ARRIVE (R174) of packet `place.a`. -/
def execHandoffArrive (s : State) : Host.Outcome State Fault Refusal :=
  match s.packet s.place.a with
  | some p =>
    match p.kind with
    | .handoff r =>
      s.happen (do
        need (s.mayApply p) .wait
        (s.drop p).pushOn (taskKey p.launch p.dst) r)
    | _ => s.passed
  | none => s.passed

/-- Takes `n` records that are not pinned from the top of a list. -/
def takeUnpinned : Nat → List Record → List Record × List Record
  | 0, rs => ([], rs)
  | _ + 1, [] => ([], [])
  | n + 1, r :: rs =>
    if r.pinned then
      let p := takeUnpinned (n + 1) rs
      (p.1, r :: p.2)
    else
      let p := takeUnpinned n rs
      (r :: p.1, p.2)

/-- Takes records from the spilled blocks, oldest first, and then from the resident ones (R168, R177). -/
def takeBlocks : Nat → List (List Record) → List Record × List (List Record)
  | _, [] => ([], [])
  | n, b :: bs =>
    let p := takeUnpinned n b
    let q := takeBlocks (n - p.1.length) bs
    (p.1 ++ q.1, if p.2.isEmpty then q.2 else p.2 :: q.2)

/-- How many spilled blocks, oldest first, are looked at to take `n` records that are not pinned. -/
def blocksRead : Nat → List (List Record) → Nat
  | _, [] => 0
  | n, b :: bs => if n = 0 then 0 else 1 + blocksRead (n - (takeUnpinned n b).1.length) bs

/-- How many records a victim's task yields (R177). -/
def Task.yields (t : Task) : Nat := Nat.min (((t.spilled.flatten ++ t.deque).filter fun r => !r.pinned).length / 2) 15

/-- The records that a victim's task yields, and what it keeps (R177). -/
def Task.yield (t : Task) : List Record × Task :=
  let k := t.yields
  let p := takeBlocks k t.spilled
  let q := takeUnpinned (k - p.1.length) t.deque
  (p.1 ++ q.1, { t with
    spilled := p.2, spillPos := t.spillPos + (t.spilled.length - p.2.length), deque := q.2 })

/-- STEAL_REQUEST (R177) of packet `place.a`: the victim's deque unit answers; every spilled block that it looks at is read through an extent
(R350), and the reply waits for room in the steal send partition. -/
def execStealRequest (s : State) : Host.Outcome State Fault Refusal :=
  match s.packet s.place.a with
  | some p =>
    match p.kind with
    | .stealReq strand =>
      let k := taskKey p.launch p.dst
      let t := s.taskAt k
      let q := if s.taskRuns t then t.yield else ([], t)
      let n := if q.1.isEmpty then 32 else 16 * q.1.length
      s.happen (s.orFail k (do
        need (s.mayApply p && s.stealRoom p.dst n) .wait
        let n := if s.taskRuns t then blocksRead t.yields t.spilled else 0
        let s ← (List.range n).foldlM (fun s i => s.ensureFor k (t.blockVa i) .deque) s
        let s := s.drop p
        let s := if s.taskRuns t then s.putTask k { q.2 with extents := (s.taskAt k).extents, xrefill := (s.taskAt k).xrefill } else s
        .ok (s.emitHeld 2 p.dst p.src p.launch n (.stealRep strand q.1))))
    | _ => s.passed
  | none => s.passed

/-- STEAL_REPLY (R177) of packet `place.a`: the yielded records land at the bottom in their order, and the round ends
where some came. -/
def execStealReply (s : State) : Host.Outcome State Fault Refusal :=
  match s.packet s.place.a with
  | some p =>
    match p.kind with
    | .stealRep strand rs =>
      s.happen (do
        need (s.mayApply p) .wait
        let s ← rs.foldlM (fun s r => s.pushOn (taskKey p.launch p.dst) r) (s.drop p)
        let c := s.coreAt p.dst
        .ok (s.putCore p.dst { c with strands := c.strands.modify strand fun st =>
          { st with asking := false, stealAt := if rs.isEmpty then st.stealAt else none } }))
    | _ => s.passed
  | none => s.passed

/-- The victims that a core asks for one task, in the order of R176. -/
def State.victims (s : State) (core : Nat) (t : Task) : List Nat :=
  let m := core / 8
  let c := core % 8
  let own := (List.range 7).map fun i => 8 * m + (c + i + 1) % 8
  let x := m % 32
  let y := m / 32
  let at_ (ok : Bool) (m' : Nat) : List Nat :=
    if ok && s.mastIn t.launch m' && (t.sdom = 2 || quadOf (8 * m') = quadOf core) then [8 * m' + c] else []
  if t.sdom = 0 then own
  else own ++ at_ (x < 31) (m + 1) ++ at_ (0 < x) (m - 1) ++ at_ (y < 31) (m + 32) ++ at_ (0 < y) (m - 32)

/-- The requests of a round (R176): launch and victim. -/
def State.stealList (s : State) (core : Nat) : List (Nat × Nat) :=
  (s.tasksOf core).flatMap fun p => (s.victims core p.2).map fun v => (p.2.launch, v)

/-- Whether a strand may start a round of steals: the last one ended with a yield or has been woken, or began 512 cycles ago
(R178). -/
def Core.mayRound (c : Core) (st : Strand) : Bool := !st.resting || decide (512 ≤ (c.cyc - st.round).toNat)

/-- STEAL_ROUND (R176, R178) of strand `place.b` of core `place.a`, which has found no work: the next request of its
round, or the end of a round in which no victim yielded. -/
def execStealRound (s : State) : Host.Outcome State Fault Refusal :=
  let core := s.place.a
  let strand := s.place.b
  let c := s.coreAt core
  let st := c.strand strand
  let i := st.stealAt.getD 0
  let set (s : State) (f : Strand → Strand) : State :=
    let c := s.coreAt core
    s.putCore core { c with strands := c.strands.modify strand f }
  if s.mayDispatch core strand && !st.asking && (st.stealAt.isSome || c.mayRound st)
      && (s.tasksOf core).all (fun p => p.2.pop.isNone) then
    let s := if st.stealAt.isNone then set s fun st => { st with round := c.cyc, resting := false } else s
    match (s.stealList core)[i]? with
    | some (l, v) =>
      if s.stealRoom core 32 then
        .next ((set s fun st => { st with asking := true, stealAt := some (i + 1) }).emitHeld 2 core v l 32 (.stealReq strand))
      else s.passed
    | none => .next (set s fun st => { st with stealAt := none, resting := true })
  else s.passed

end Sys2Proof.Machine
end

