-- ==== Sys2Proof/Machine/Lanes.lean ====
section
/-! DEFINITION. The lane pool (R240 to R252): grants, vector registers, elementwise instructions, VXP, vector memory access,
reductions and VREDQ. -/

namespace Sys2Proof.Machine

/-! ### Grants (R240 to R243) -/

/-- The reefs that a growth may take: none while a resumption waits for reefs, which is served before (R242). -/
def State.growReefs (s : State) : Nat := if (s.firstReefs s.mastNo).isSome then 0 else s.freeReefs s.mastNo

/-- Sets pend in every other context of a mast that holds at least two reefs (R241). -/
def State.setPend (s : State) (mast but : Nat) : State :=
  { s with ctxs := s.ctxs.map fun p =>
      if p.1 ≠ but && mastOf p.2.core = mast && 32 ≤ p.2.vgrant then (p.1, { p.2 with vpend := true }) else p }

/-- clear_vregs for a width (R243). -/
def Context.clearV (c : Context) (vl : Nat) : Context :=
  { c with vl := vl, v := List.replicate 16 (List.replicate vl 0), m := List.replicate 4 (List.replicate vl false) }

/-- Raises a number to a multiple of 16. -/
def up16 (n : Nat) : Nat := 16 * ((n + 15) / 16)

/-- The grant grows by as many of the wanted reefs as it may (R243). -/
def State.growTo (s : State) (w : Nat) : State :=
  let c := s.ctx
  let g := c.vgrant + 16 * Nat.min ((w - c.vgrant) / 16) s.growReefs
  let s := s.setCtx { c with vgrant := g }
  if g < w then s.setPend s.mastNo s.cur.ctx else s

/-- VCLAIM (R243). -/
def execVclaim (d : Reg) (n : Src) (s : State) : Host.Outcome State Fault Refusal :=
  let w := Nat.min 256 (up16 (s.src n).toNat)
  let s := s.setCtx { s.ctx with vwant := w }
  let s := if w ≤ s.ctx.vgrant then s.setCtx { s.ctx with vgrant := w } else s.growTo w
  let s := s.setCtx ({ s.ctx with vpend := false }.clearV s.ctx.vgrant)
  .next (s.result 1 d (Word.of s.ctx.vgrant))

/-- VREN (R243). -/
def execVren (d : Reg) (n : Src) (s : State) : Host.Outcome State Fault Refusal :=
  let k := (s.src n).toNat
  let s := if s.ctx.vpend && 32 ≤ s.ctx.vgrant then s.setCtx { s.ctx with vgrant := 16 * ((s.ctx.vgrant + 31) / 32) }
    else if s.ctx.vgrant < s.ctx.vwant then s.growTo s.ctx.vwant else s
  let g := s.ctx.vgrant
  let vl := if k = 0 then g else Nat.min k g
  let s := s.setCtx ({ s.ctx with vpend := false }.clearV vl)
  .next (s.result 1 d (Word.of vl))

/-- VYIELD (R243). -/
def execVyield (s : State) : Host.Outcome State Fault Refusal :=
  .next ((s.setCtx ({ s.ctx with vgrant := 0, vwant := 0, vpend := false }.clearV 0)).advance 1)

/-! ### Vector registers and lane operations (R244 to R249) -/

/-- An element of a vector register; elements at and above vl are never asked. -/
def Context.velem (c : Context) (v e : Nat) : Word := (c.v.getD v []).getD e 0

/-- A mask bit. -/
def Context.mbit (c : Context) (m e : Nat) : Bool := (c.m.getD m []).getD e false

/-- Whether lane `e` is active under a predicate (R245). -/
def Context.active (c : Context) (p : Pred) (e : Nat) : Bool :=
  match p with
  | .all => true
  | .m1 => c.mbit 1 e
  | .m2 => c.mbit 2 e
  | .m3 => c.mbit 3 e

/-- Sets the active elements of a vector register. -/
def Context.setV (c : Context) (v : Fin 16) (p : Pred) (f : Nat → Nat) : Context :=
  { c with v := c.v.set v.val ((List.range c.vl).map fun e => if c.active p e then Word.of (f e) else c.velem v.val e) }

/-- vl = 0 takes cause 0x0C (R246). -/
def State.needVl (s : State) : Ex Unit := need (s.ctx.vl ≠ 0) (s.bad0C 0)

/-- An elementwise instruction of `n` words: `f` gives the bits of element `e` (R245). -/
def State.lanes (s : State) (n : Nat) (v : Fin 16) (p : Pred) (f : Nat → Nat) : Host.Outcome State Fault Refusal :=
  s.finish (do
    s.needVl
    .ok ((s.setCtx (s.ctx.setV v p f)).advance n))

/-- x + y of a lane type. -/
def laneAdd (t : VTy) (x y : Nat) : Nat := if t.isInt then (x + y) % 2 ^ 32 else fAdd t.ety.fmt .rne x y
/-- x - y of a lane type. -/
def laneSub (t : VTy) (x y : Nat) : Nat := if t.isInt then (x + (2 ^ 32 - y)) % 2 ^ 32 else fSub t.ety.fmt .rne x y
/-- x * y of a lane type. -/
def laneMul (t : VTy) (x y : Nat) : Nat := if t.isInt then (x * y) % 2 ^ 32 else fMul t.ety.fmt .rne x y
/-- VMULZ: +0 where a factor is a zero (R247). -/
def laneMulz (t : VTy) (x y : Nat) : Nat :=
  if (t.ety.fmt.decode x).isZero || (t.ety.fmt.decode y).isZero then 0 else laneMul t x y
/-- x * y + z of a lane type, rounded once. -/
def laneFma (t : VTy) (x y z : Nat) : Nat := if t.isInt then (x * y + z) % 2 ^ 32 else fFma t.ety.fmt .rne x y z
/-- The lesser value (R247). -/
def laneMin (t : VTy) (x y : Nat) : Nat :=
  if t.isInt then (if t.ety.intVal x ≤ t.ety.intVal y then x else y) else fMin t.ety.fmt x y
/-- The greater value (R247). -/
def laneMax (t : VTy) (x y : Nat) : Nat :=
  if t.isInt then (if t.ety.intVal x ≤ t.ety.intVal y then y else x) else fMax t.ety.fmt x y
/-- A floating-point value with its sign bit set by `f`; a NaN is canonical (R49). -/
def laneSign (t : VTy) (f : Bool → Bool) (x : Nat) : Nat :=
  let fm := t.ety.fmt
  if fm.decode x = .nan then fm.nan else fm.signed (f (x.testBit (fm.ebits + fm.mbits))) (x % 2 ^ (fm.ebits + fm.mbits))
/-- NEG of VXP (R249). -/
def laneNeg (t : VTy) (x : Nat) : Nat := if t.isInt then (2 ^ 32 - x) % 2 ^ 32 else laneSign t (!·) x
/-- ABS of VXP (R249). -/
def laneAbs (t : VTy) (x : Nat) : Nat :=
  match t with
  | .i32 => if x.testBit 31 then (2 ^ 32 - x) % 2 ^ 32 else x
  | .n32 => x
  | _ => laneSign t (fun _ => false) x

/-- An elementwise instruction of two sources. -/
def State.lanes2 (s : State) (t : VTy) (v : Fin 16) (a b : VSrc) (p : Pred) (f : Nat → Nat → Nat) :
    Host.Outcome State Fault Refusal :=
  s.lanes 1 v p fun e => f (s.vsrc t.ety a e) (s.vsrc t.ety b e)

/-- VADD. -/
def execVadd (t : VTy) (v : Fin 16) (a b : VSrc) (p : Pred) (s : State) := s.lanes2 t v a b p (laneAdd t)
/-- VSUB. -/
def execVsub (t : VTy) (v : Fin 16) (a b : VSrc) (p : Pred) (s : State) := s.lanes2 t v a b p (laneSub t)
/-- VMUL. -/
def execVmul (t : VTy) (v : Fin 16) (a b : VSrc) (p : Pred) (s : State) := s.lanes2 t v a b p (laneMul t)
/-- VMULZ. -/
def execVmulz (t : VTy) (v : Fin 16) (a b : VSrc) (p : Pred) (s : State) := s.lanes2 t v a b p (laneMulz t)
/-- VFMA: d is also read. -/
def execVfma (t : VTy) (v : Fin 16) (a b : VSrc) (p : Pred) (s : State) : Host.Outcome State Fault Refusal :=
  s.lanes 1 v p fun e =>
    laneFma t (s.vsrc t.ety a e) (s.vsrc t.ety b e) ((s.ctx.velem v.val e).toNat % 2 ^ t.ety.width)
/-- VMIN. -/
def execVmin (t : VTy) (v : Fin 16) (a b : VSrc) (p : Pred) (s : State) := s.lanes2 t v a b p (laneMin t)
/-- VMAX. -/
def execVmax (t : VTy) (v : Fin 16) (a b : VSrc) (p : Pred) (s : State) := s.lanes2 t v a b p (laneMax t)

/-- VCMP (R248): not predicated. -/
def execVcmp (r : Rel) (t : VTy) (m : Fin 4) (a b : VSrc) (s : State) : Host.Outcome State Fault Refusal :=
  s.finish (do
    s.needVl
    let c := s.ctx
    let bitsOf := (List.range c.vl).map fun e => relHolds r t.ety (s.vsrc t.ety a e) (s.vsrc t.ety b e)
    .ok ((s.setCtx { c with m := c.m.set m.val bitsOf }).advance 1))

/-- VSEL (R248). -/
def execVsel (t : VTy) (v : Fin 16) (m : Fin 4) (a b : VSrc) (s : State) : Host.Outcome State Fault Refusal :=
  s.lanes 1 v .all fun e => if s.ctx.mbit m.val e then s.vsrc t.ety a e else s.vsrc t.ety b e

/-- VCVT (R248, R52). -/
def execVcvt (dst src : VTy) (r : Rnd) (v : Fin 16) (a : VSrc) (p : Pred) (s : State) : Host.Outcome State Fault Refusal :=
  s.lanes 1 v p fun e => convert dst.ety src.ety r .mode (s.vsrc src.ety a e)

/-- The index of a batch token, or all ones (R247). -/
def rankOf (w : Word) (y : Nat) : Nat :=
  let k := (y + (2 ^ 32 - bits w 63 32)) % 2 ^ 32
  if k < 32 && (bits w 31 0).testBit k then popcN k (bits w 31 0) else 0xFFFFFFFF

/-- The token of a batch slot, or all ones (R247). -/
def selectOf (w : Word) (y : Nat) : Nat :=
  match selectFrom 32 (bits w 31 0) 0 y with
  | some k => (bits w 63 32 + k) % 2 ^ 32
  | none => 0xFFFFFFFF

/-- VRANK. -/
def execVrank (v : Fin 16) (a : RcSrc) (b : VSrc) (p : Pred) (s : State) : Host.Outcome State Fault Refusal :=
  s.lanes 1 v p fun e => rankOf (s.rc a) (s.vsrc .n32 b e)

/-- VSELECT. -/
def execVselect (v : Fin 16) (a : RcSrc) (b : VSrc) (p : Pred) (s : State) : Host.Outcome State Fault Refusal :=
  s.lanes 1 v p fun e => selectOf (s.rc a) (s.vsrc .n32 b e)

/-- VPOPC. -/
def execVpopc (v : Fin 16) (a : VSrc) (p : Pred) (s : State) : Host.Outcome State Fault Refusal :=
  s.lanes 1 v p fun e => popcN 32 (s.vsrc .n32 a e)

/-- VSHUF (R247): data moves only within a reef. -/
def execVshuf (t : VTy) (v : Fin 16) (a : Fin 16) (b : VSrc) (p : Pred) (s : State) : Host.Outcome State Fault Refusal :=
  s.lanes 1 v p fun e =>
    let f := e / 16 * 16 + s.vsrc .n32 b e % 16
    if f < s.ctx.vl then s.vsrc t.ety (.vec a) f else 0

/-- A scalar source of a lane instruction, as a lane source. -/
def Src.lane : Src → VSrc
  | .reg r => .reg r
  | .const k => .const k
  | .lit n => .lit n

/-- VBCAST. -/
def execVbcast (t : VTy) (v : Fin 16) (a : Src) (p : Pred) (s : State) : Host.Outcome State Fault Refusal :=
  s.lanes 1 v p fun e => s.vsrc t.ety (Src.lane a) e

/-- VIDX. -/
def execVidx (t : VTy) (v : Fin 16) (a b : Src) (p : Pred) (s : State) : Host.Outcome State Fault Refusal :=
  s.lanes 1 v p fun e => (s.vsrc t.ety (Src.lane a) e + e * s.vsrc t.ety (Src.lane b) e) % 2 ^ 32

/-- One token of a VXP program on a lane's stack, top first (R249). -/
def vxpStep (t : VTy) (ins : Nat → Nat) (tok : Nat) (st : List Nat) : List Nat :=
  match tok, st with
  | 0x5, b :: a :: r => laneAdd t a b :: r
  | 0x6, b :: a :: r => laneSub t a b :: r
  | 0x7, b :: a :: r => laneMul t a b :: r
  | 0x8, b :: a :: r => laneMulz t a b :: r
  | 0x9, b :: a :: r => laneMin t a b :: r
  | 0xA, b :: a :: r => laneMax t a b :: r
  | 0xB, c :: b :: a :: r => laneFma t a b c :: r
  | 0xC, a :: r => laneNeg t a :: r
  | 0xD, a :: r => laneAbs t a :: r
  | 0xE, a :: r => a :: a :: r
  | 0xF, b :: a :: r => a :: b :: r
  | k, r => ins (k - 1) :: r

/-- Runs a VXP program up to its END. -/
def vxpRun (t : VTy) (ins : Nat → Nat) : List Nat → List Nat → Nat
  | [], st => st.headD 0
  | k :: ks, st => if k = 0 then st.headD 0 else vxpRun t ins ks (vxpStep t ins k st)

/-- VXP (R249). -/
def execVxp (t : VTy) (v : Fin 16) (x0 x1 x2 x3 : VSrc) (prog : BitVec 48) (p : Pred) (s : State) :
    Host.Outcome State Fault Refusal :=
  s.lanes 3 v p fun e =>
    vxpRun t (fun k => s.vsrc t.ety (match k with | 0 => x0 | 1 => x1 | 2 => x2 | _ => x3) e) (vxpTokens prog.toNat) []

/-! ### Vector memory access (R250) -/

/-- Checks [ea, ea + n) as one range of held banks (R250). -/
def State.rangeCheck (s : State) (ea : Word) (size n : Nat) : Ex Unit := do
  need (ea.toNat % size = 0) (.trap 0x03 ea 0)
  match s.bankRange ea n with
  | some a => trapX 0x04 a 0
  | none => .ok ()

/-- The physical keys of the bytes of a bank range, in order, as runs that do not leave a bank: key, offset in the range,
length. -/
def State.bankRuns (s : State) (ea : Word) (n : Nat) : List (Nat × Nat × Nat) :=
  let off := bits ea 19 0
  (List.range ((off + n - 1) / 65536 - off / 65536 + 1)).map fun i =>
    let b := off / 65536 + i
    let lo := if b * 65536 < off then off else b * 65536
    let hi := if off + n < (b + 1) * 65536 then off + n else (b + 1) * 65536
    (bankKey s.mastNo (s.mast.physOff lo), lo - off, hi - lo)

/-- Reads [ea, ea + n) of the mast's banks as one load: the waits of R201, the strand's own stores, check bits (R129). An
uncorrectable double traps, and a correctable one is corrected, unless the strand's own stores cover all that is read (log entry 74). -/
def State.bankRead (s : State) (ea : Word) (n : Nat) : Ex (List Byte × State) := do
  need (!s.posting && s.mast.rangeFree s.mast.sb false (bits ea 19 0) n) .wait
  let rs := s.bankRuns ea n
  match rs.findSome? fun r => (s.badDouble r.1 r.2.2).map fun d => (r, d) with
  | some (r, d) =>
    if covered s.ctx.storeBuf ea n then .ok () else
    trapX 0x0E (ea + Word.of (r.2.1 + (8 * d - r.1))) 0
  | none => .ok ()
  let bs := rs.flatMap fun r => Memory.read s.mem r.1 r.2.2
  .ok (forward s.ctx.storeBuf ea bs, if covered s.ctx.storeBuf ea n then s else rs.foldl (fun s r => s.correct r.1 r.2.2) s)

/-- VLD. -/
def execVld (t : VTy) (v : Fin 16) (base : Reg) (off : BitVec 12) (s : State) : Host.Outcome State Fault Refusal :=
  s.finish (do
    s.needVl
    let ea := s.ea base off t.size
    let n := s.ctx.vl * t.size
    s.rangeCheck ea t.size n
    let p ← s.bankRead ea n
    let c := p.2.ctx.setV v .all fun e => ofBytes ((p.1.drop (e * t.size)).take t.size)
    .ok ((p.2.setCtx c).advance 1))

/-- Whether a range of bank space, as addresses name it, touches an armed barrier object (R228). -/
def State.touchesObj (s : State) (ea : Word) (n : Nat) : Bool :=
  (s.bankRuns ea n).any fun r => s.mast.touchesArmed (keyOff r.1) r.2.2

/-- VST: the bytes of a whole vector enter the store buffer as one store. -/
def execVst (t : VTy) (v : Fin 16) (base : Reg) (off : BitVec 12) (s : State) : Host.Outcome State Fault Refusal :=
  s.finish (do
    s.needVl
    let ea := s.ea base off t.size
    let n := s.ctx.vl * t.size
    s.rangeCheck ea t.size n
    need (!s.touchesObj ea n) (s.bad0C 0)
    let bs := (List.range s.ctx.vl).flatMap fun e => toBytes t.size (s.ctx.velem v.val e).toNat
    .ok ((s.buffer ea 0 bs false).advance 1))

/-- Reads the elements of a gather in order of lane. -/
def State.gather (size : Nat) (ea : Nat → Word) : List Nat → State → Ex (List (Nat × Nat) × State)
  | [], s => .ok ([], s)
  | e :: es, s => do
    let p ← s.bankRead (ea e) size
    let q ← State.gather size ea es p.2
    .ok ((e, ofBytes p.1) :: q.1, q.2)

/-- Checks the elements of a gather in order of lane. -/
def State.gatherCheck (s : State) (size : Nat) (ea : Nat → Word) : List Nat → Ex Unit
  | [] => .ok ()
  | e :: es => do
    s.rangeCheck (ea e) size size
    s.gatherCheck size ea es

/-- VGATH. -/
def execVgath (t : VTy) (v : Fin 16) (a : RcSrc) (idx : Fin 16) (p : Pred) (s : State) : Host.Outcome State Fault Refusal :=
  s.finish (do
    s.needVl
    let ea (e : Nat) : Word := s.rc a + Word.of ((s.ctx.velem idx.val e).toNat % 2 ^ 32 * t.size)
    let es := (List.range s.ctx.vl).filter (s.ctx.active p)
    s.gatherCheck t.size ea es
    let r ← State.gather t.size ea es s
    .ok ((r.2.setCtx (r.2.ctx.setV v p fun e => ((r.1.find? fun q => q.1 = e).getD (0, 0)).2)).advance 1))

/-! ### Reductions (R58, R251, R252) -/

/-- The largest power of two below `n`, for `n` of at least 2. -/
def halfOf (n : Nat) : Nat := 2 ^ Nat.log2 (n - 1)

/-- The tree of R58 over a list; `fuel` bounds its height. -/
def tree (op : Nat → Nat → Nat) : Nat → List Nat → Nat
  | 0, xs => xs.headD 0
  | f + 1, xs =>
    if xs.length ≤ 1 then xs.headD 0
    else op (tree op f (xs.take (halfOf xs.length))) (tree op f (xs.drop (halfOf xs.length)))

/-- The elements of a list of bytes. -/
def elems : Nat → Nat → List Byte → List Nat
  | 0, _, _ => []
  | n + 1, size, bs => ofBytes (bs.take size) :: elems n size (bs.drop size)

/-- The canonical result of a reduction (R49). -/
def canonical (t : VTy) (x : Nat) : Nat :=
  if !t.isInt && decide (t.ety.fmt.decode x = .nan) then t.ety.fmt.nan else x

/-- VSUM and VMAXR (R251). -/
def State.reduce (s : State) (t : VTy) (d : Reg) (a n : Word) (op : Nat → Nat → Nat) (ifNone : Nat) :
    Host.Outcome State Fault Refusal :=
  s.finish (do
    s.needVl
    if n = 0 then .ok (s.result 1 d (t.ety.toReg ifNone))
    else do
      let bytes := n.toNat * t.size
      s.rangeCheck a t.size bytes
      let p ← s.bankRead a bytes
      .ok (p.2.result 1 d (t.ety.toReg (canonical t (tree op 20 (elems n.toNat t.size p.1))))))

/-- VSUM. -/
def execVsum (t : VTy) (d : Reg) (a : RcSrc) (n : Src) (s : State) := s.reduce t d (s.rc a) (s.src n) (laneAdd t) 0

/-- The result of VMAXR for no elements (R251). -/
def maxrZero : VTy → Nat
  | .f32 => 0xFF800000
  | .f64 => 0xFFF0000000000000
  | .i32 => 0x80000000
  | .n32 => 0

/-- VMAXR. -/
def execVmaxr (t : VTy) (d : Reg) (a : RcSrc) (n : Src) (s : State) :=
  s.reduce t d (s.rc a) (s.src n) (laneMax t) (maxrZero t)

/-- VREDQ (R252): once its context's earlier accesses are performed (R202, R335), it registers its entry and waits; each slot is one VREDQ_SLOT event, and the instruction completes when
its count is 0. Its tag is the unit's issue count before this issue (log entry 74). -/
def execVredq (t : VTy) (d : Reg) (q : Fin 32) (c : Reg) (s : State) : Host.Outcome State Fault Refusal :=
  s.finish (do
    s.needVl
    match s.mast.ringOf s.cur.launch q.val with
    | none => .error (s.bad0C 0)
    | some r => do
      need (r.size % t.size = 0) (s.bad0C 0)
      match s.ctx.await with
      | .vredq e _ _ _ _ => do
        need (s.reg c = 0) .wait
        .ok ((s.setMast (s.mast.retire e)).advance 1)
      | _ => do
        need s.settled .wait
        match s.myEntry with
        | none => .ok s.awaitMine
        | some (e, sh) =>
          let s := s.tookEntry
          if s.reg c = 0 then .ok (s.advance 1)
          else
            let m := s.mast
            let en : SbEntry := ⟨e, m.sfCount, 5, s.coreIx, sh, s.cur.launch, r.ivals m false q.val 0 0, 0⟩
            let s := s.setMast { m.register en with sfCount := m.sfCount + 1 }
            .ok (s.setCtx { s.ctx with await := .vredq e t d q c }).waiting)

/-- Retires the entry of a VREDQ that stops part-way (R252). -/
def State.stopVredq (s : State) : State :=
  match s.ctx.await with
  | .vredq e _ _ _ _ => (s.setMast (s.mast.retire e)).setCtx { s.ctx with await := .none }
  | _ => s

/-- Whether ring `q` of the context that acts has a published slot that a VREDQ can read: every entry that conflicts with it, but for
`own`, has retired (R201, R252). -/
def State.slotReadable (s : State) (q : Fin 32) (own : Option Nat) : Bool :=
  match s.mast.ringOf s.cur.launch q.val with
  | some r => decide (r.take < r.pub) && s.mast.rangeFree (s.mast.sb.filter fun x => decide (some x.id ≠ own)) false (r.off r.take) r.size
  | none => false

/-- One slot of a VREDQ: armed at its take, waits of R201 for entries other than its own, summed, and released. -/
def State.vredqSlot (s : State) (e : Nat) (t : VTy) (d : Reg) (q : Fin 32) (c : Reg) : Ex State := do
  match s.mast.ringOf s.cur.launch q.val with
  | none => offX
  | some r => do
    need (s.reg c ≠ 0 && s.slotReadable q (some e)) (.off)
    let ea := r.slotAddr r.take
    let rs := s.bankRuns ea r.size
    match rs.findSome? fun p => (s.badDouble p.1 p.2.2).map fun k => ea + Word.of (p.2.1 + (8 * k - p.1)) with
    | some a => .ok (s.stopVredq.trapEntry 0x0E a 0 s.pc)
    | none =>
      let xs := elems (r.size / t.size) t.size (rs.flatMap fun p => Memory.read s.mem p.1 p.2.2)
      let sum := laneAdd t ((s.reg d).toNat % 2 ^ t.ety.width) (tree (laneAdd t) 17 xs)
      let s := rs.foldl (fun s p => s.correct p.1 p.2.2) s
      let r' := { r with take := r.take + 1 }.release [r.take]
      let s := s.setMast ((s.mast.setRing s.cur.launch q.val r').rearm e q.val (r'.ivals s.mast false q.val r'.take 0))
      let s := s.setReg d (t.ety.toReg (canonical t sum))
      .ok (s.setReg c (s.reg c - 1))

/-- VREDQ_SLOT (R252) of context `place.a`, while its launch runs: a VREDQ for whose context an event is deliverable stops first. -/
def execVredqSlot (s : State) : Host.Outcome State Fault Refusal :=
  let s := s.focus s.place.a
  match s.ctx.await with
  | .vredq e t d q c =>
    if s.ctx.status = .waiting && s.runs s.cur.launch && !s.deliverable then s.happen (s.vredqSlot e t d q c) else s.passed
  | _ => s.passed

end Sys2Proof.Machine
end

