-- ==== Sys2Proof/Machine/SpecialFn.lean ====
section
/-! DEFINITION. The special-function queue (R253, R254): VEXP2, VLOG2, VRCP, VRSQ, VTANH, SF_START and SF_RETIRE. The
transcendental values are computed in fixed point with 224 fraction bits, from below, and rounded once (log entry 30). -/

namespace Sys2Proof.Machine

/-- The fraction bits of the fixed-point values. -/
def fxBits : Nat := 224

/-- The fixed-point one. -/
def fxOne : Nat := 2 ^ fxBits

/-- The sum of 1 / (k 2^k) from `k` on, `n` terms, from below. -/
def ln2From : Nat → Nat → Nat
  | 0, _ => 0
  | n + 1, k => fxOne / (k * 2 ^ k) + ln2From n (k + 1)

/-- ln 2, from below. -/
def fxLn2 : Nat := ln2From 224 1

/-- The terms of the exponential series from the `k`-th on, `n` of them, where `term` is the `k`-th. -/
def expFrom : Nat → Nat → Nat → Nat → Nat
  | 0, _, _, _ => 0
  | n + 1, t, k, term => term + expFrom n t (k + 1) (term * t / fxOne / (k + 1))

/-- e^t for a fixed-point t of at most 32, from below. -/
def fxExp (t : Nat) : Nat := expFrom 200 t 0 fxOne

/-- The terms z^(2k+1) / (2k+1) of the inverse hyperbolic tangent, `n` of them from the `k`-th on. -/
def atanhFrom : Nat → Nat → Nat → Nat → Nat
  | 0, _, _, _ => 0
  | n + 1, z2, k, pw => pw / (2 * k + 1) + atanhFrom n z2 (k + 1) (pw * z2 / fxOne)

/-- ln y for a fixed-point y in [1, 2). -/
def fxLn (y : Nat) : Nat :=
  let z := (y - fxOne) * fxOne / (y + fxOne)
  2 * atanhFrom 80 (z * z / fxOne) 0 z

/-- FP32. -/
def f32 : Fmt := ETy.fmt .f32

/-- Rounds a value that lies just above `v` / 2^224 and is no FP32 value or midpoint. -/
def fxRound (neg : Bool) (v : Nat) (e : Int) : Nat := f32.round .rne .mode neg (2 * v + 1) 1 (e - fxBits - 1)

/-- 2^x (R253). -/
def fnExp2 (x : Nat) : Nat :=
  match f32.decode x with
  | .nan => f32.nan
  | .inf s => if s then 0 else f32.infinity false
  | .fin s m e =>
    if m = 0 then 0x3F800000
    else if 0 ≤ ratLog2 m 1 + e - 8 then (if s then 0 else f32.infinity false)
    else
      let fx : Nat := if 0 ≤ e then m * 2 ^ e.toNat * fxOne else m * fxOne / 2 ^ (-e).toNat
      let whole := fx / fxOne
      let frac := fx % fxOne
      if frac = 0 then f32.round .rne .mode false 1 1 (if s then -(whole : Int) else whole)
      else if s then fxRound false (fxExp ((fxOne - frac) * fxLn2 / fxOne)) (-(whole : Int) - 1)
      else fxRound false (fxExp (frac * fxLn2 / fxOne)) whole

/-- log2 x (R253). -/
def fnLog2 (x : Nat) : Nat :=
  match f32.decode x with
  | .nan => f32.nan
  | .inf s => if s then f32.nan else f32.infinity false
  | .fin s m e =>
    if m = 0 then f32.infinity true
    else if s then f32.nan
    else
      let k : Int := (Nat.log2 m : Int) + e
      let y := m * fxOne / 2 ^ Nat.log2 m
      if y = fxOne then f32.round .rne .mode (decide (k < 0)) k.natAbs 1 0
      else
        let v : Int := k * (fxOne : Nat) + (fxLn y * fxOne / fxLn2 : Nat)
        if v < 0 then f32.round .rne .mode true (2 * v + 1).natAbs 1 (-(fxBits : Int) - 1)
        else fxRound false v.toNat 0

/-- 1 / x (R253). -/
def fnRcp (x : Nat) : Nat := fDiv f32 .rne 0x3F800000 x

/-- 1 / sqrt x (R253). -/
def fnRsq (x : Nat) : Nat :=
  match f32.decode x with
  | .nan => f32.nan
  | .inf s => if s then f32.nan else 0
  | .fin s m e =>
    if m = 0 then f32.infinity s
    else if s then f32.nan
    else
      -- an even exponent g, and r = floor (2^200 / sqrt n)
      let n := if e.emod 2 = 0 then m else 2 * m
      let g := if e.emod 2 = 0 then e else e - 1
      let r := isqrtFrom 210 (2 ^ 400 / n) 0
      f32.round .rne .mode false (2 * r + (if r * r * n = 2 ^ 400 then 0 else 1)) 1 (-(g / 2) - 200 - 1)

/-- tanh x (R253): x itself below 2^-13 and 1 from 16 on, where the exact value rounds so. -/
def fnTanh (x : Nat) : Nat :=
  match f32.decode x with
  | .nan => f32.nan
  | .inf s => f32.signed s 0x3F800000
  | .fin s m e =>
    if m = 0 then f32.signed s 0
    else if ratLog2 m 1 + e < -13 then x % 2 ^ 32
    else if 4 ≤ ratLog2 m 1 + e then f32.signed s 0x3F800000
    else
      let t : Nat := if 0 ≤ e then 2 * m * 2 ^ e.toNat * fxOne else 2 * m * fxOne / 2 ^ (-e).toNat
      let q := fxExp t
      fxRound s ((q - fxOne) * fxOne / (q + fxOne)) 0

/-- A function of the queue on FP32 bits. -/
def SfFn.apply (f : SfFn) (x : Nat) : Nat :=
  match f with
  | .exp2 => fnExp2 x
  | .log2 => fnLog2 x
  | .rcp => fnRcp x
  | .rsq => fnRsq x
  | .tanh => fnTanh x

/-! ### Issue -/

/-- A special-function request (R254). Of its two ranges the destination's is checked first, and its tag is the unit's issue count before
this issue (log entry 74). -/
def State.special (s : State) (f : SfFn) (d : Reg) (a n : Word) : Host.Outcome State Fault Refusal :=
  s.finish (do
    if n = 0 then .ok (s.advance 1)
    else do
      let k := n.toNat
      need (k ≤ 2 ^ 18) (s.bad0C 0)
      let dst := s.reg d
      need (dst.toNat % 4 = 0) (.trap 0x03 dst 0)
      need (a.toNat % 4 = 0) (.trap 0x03 a 0)
      s.rangeCheck dst 4 (4 * k)
      s.rangeCheck a 4 (4 * k)
      let o := bits a 19 0
      let p := bits dst 19 0
      need (o = p || o + 4 * k ≤ p || p + 4 * k ≤ o) (s.bad0C 0)
      need (!s.touchesObj dst (4 * k)) (s.bad0C 0)
      need (s.settled && s.mast.sfQueue.length < 64) .wait
      match s.myEntry with
      | none => .ok s.awaitMine
      | some (e, sh) =>
        let s := s.tookEntry
        let m := s.mast
        let en : SbEntry := ⟨e, m.sfCount, 6, s.coreIx, sh, s.cur.launch, m.ivalsOf false o (4 * k) ++ m.ivalsOf true p (4 * k), 0⟩
        let q : SfReq := ⟨s.cur.launch, f, p, o, k, e, false, 0⟩
        .ok ((s.setMast { m.register en with sfCount := m.sfCount + 1, sfQueue := m.sfQueue ++ [q] }).advance 1))

/-- VEXP2. -/
def execVexp2 (d : Reg) (a : RcSrc) (n : Src) (s : State) := s.special .exp2 d (s.rc a) (s.src n)
/-- VLOG2. -/
def execVlog2 (d : Reg) (a : RcSrc) (n : Src) (s : State) := s.special .log2 d (s.rc a) (s.src n)
/-- VRCP. -/
def execVrcp (d : Reg) (a : RcSrc) (n : Src) (s : State) := s.special .rcp d (s.rc a) (s.src n)
/-- VRSQ. -/
def execVrsq (d : Reg) (a : RcSrc) (n : Src) (s : State) := s.special .rsq d (s.rc a) (s.src n)
/-- VTANH. -/
def execVtanh (d : Reg) (a : RcSrc) (n : Src) (s : State) := s.special .tanh d (s.rc a) (s.src n)

/-! ### The queue -/

/-- Whether an operation's entry must wait for older conflicting entries, or for a swap that is due (R128, R201); `own` are entries
that it never waits on. -/
def Mast.opBlocked (m : Mast) (id : Nat) (own : List Nat) : Bool :=
  (m.sb.filter fun e => decide (e.id = id)).any fun e => e.ivals.any fun i => i.armed &&
    (m.swapAhead i || m.sb.any fun o => decide (o.id ≠ id) && !own.contains o.id &&
      o.ivals.any fun j => decide (j.place < i.place) && j.conflicts i.write i.lo i.hi)

/-- SF_START (R254) on mast `place.a`: the head of the queue starts when its older conflicting entries have retired. -/
def execSfStart (s : State) : Host.Outcome State Fault Refusal :=
  let m := s.mastAt s.place.a
  match m.sfQueue with
  | q :: rest =>
    if !q.started && !m.opBlocked q.entry [] then
      .next (s.putMast s.place.a { m with sfQueue := { q with started := true } :: rest })
    else s.passed
  | [] => s.passed

/-- Physical runs of a bank range of any mast. -/
def State.runsOf (s : State) (mast off n : Nat) : List (Nat × Nat × Nat) :=
  if n = 0 then []
  else (List.range ((off + n - 1) / 65536 - off / 65536 + 1)).map fun i =>
    let b := off / 65536 + i
    let lo := if b * 65536 < off then off else b * 65536
    let hi := if off + n < (b + 1) * 65536 then off + n else (b + 1) * 65536
    (bankKey mast ((s.mastAt mast).physOff lo), lo - off, hi - lo)

/-- Writes bytes to a bank range of a mast. -/
def State.writeBank (s : State) (mast off : Nat) (bs : List Byte) : State :=
  (s.runsOf mast off bs.length).foldl (fun s r => s.write r.1 ((bs.drop r.2.1).take r.2.2)) s

/-- Reads a bank range of a mast: its bytes, and the offsets in the range of the doubles that are uncorrectable. -/
def State.readBank (s : State) (mast off n : Nat) : List Byte × (Nat → Bool) × State :=
  let rs := s.runsOf mast off n
  let bad (i : Nat) : Bool := rs.any fun r => decide (r.2.1 ≤ i) && decide (i < r.2.1 + r.2.2) &&
    s.ecc.has ((r.1 + (i - r.2.1)) / 8) && s.ecc.get ((r.1 + (i - r.2.1)) / 8) false
  (rs.flatMap fun r => Memory.read s.mem r.1 r.2.2, bad, rs.foldl (fun s r => s.correct r.1 r.2.2) s)

/-- The next elements, 32 at most, of the started request at the head of the queue (R254). -/
def State.sfChunk (s : State) (mast : Nat) (q : SfReq) : State :=
  let k := Nat.min 32 (q.n - q.wrote)
  let r := s.readBank mast (q.src + 4 * q.wrote) (4 * k)
  let out := (elems k 4 r.1).zipIdx.flatMap fun p => toBytes 4 (if r.2.1 (4 * p.2) then 0x7FC00000 else q.fn.apply p.1)
  r.2.2.writeBank mast (q.dst + 4 * q.wrote) out

/-- SF_RETIRE (R254) on mast `place.a`: the started request writes its next 32 elements, and with the last of them it retires. A
request of a killed launch stops here, at the boundary of 32 elements that it has reached. -/
def execSfRetire (s : State) : Host.Outcome State Fault Refusal :=
  match (s.mastAt s.place.a).sfQueue with
  | q :: rest =>
    if q.started && !(s.launchAt q.launch).killed then
      let s := s.sfChunk s.place.a q
      let m := s.mastAt s.place.a
      .next (s.putMast s.place.a (
        if q.n ≤ q.wrote + 32 then { m.retire q.entry with sfQueue := rest }
        else { m with sfQueue := { q with wrote := q.wrote + 32 } :: rest }))
    else s.passed
  | [] => s.passed

end Sys2Proof.Machine
end

