-- ==== Sys2Proof/Machine/Envelope.lean ====
section
/-! DEFINITION. The envelope accumulator (R257 to R276): the exact procedures on envelopes, the EA queue, and the EA
instructions. Values are FP64 bit patterns; exact intermediates are dyadic numbers. -/

namespace Sys2Proof.Machine

/-! ### Numbers -/

/-- FP64. -/
def f64 : Fmt := ETy.fmt .f64
/-- +∞. -/
def ePos : Nat := 0x7FF0000000000000
/-- -∞. -/
def eNeg : Nat := 0xFFF0000000000000
/-- Whether a value is a NaN. -/
def eNan (x : Nat) : Bool := decide (f64.decode x = .nan)
/-- Whether a value is finite. -/
def eFin (x : Nat) : Bool := match f64.decode x with | .fin _ _ _ => true | _ => false
/-- x < y. -/
def eLt (x y : Nat) : Bool := decide (fCmp f64 x y = 1)
/-- x = y as numbers. -/
def eEq (x y : Nat) : Bool := decide (fCmp f64 x y = 2)
/-- x ≤ y. -/
def eLe (x y : Nat) : Bool := eLt x y || eEq x y
/-- A rounded sum. -/
def eAdd (x y : Nat) : Nat := fAdd f64 .rne x y
/-- The negation. -/
def eNegate (x : Nat) : Nat := if x.testBit 63 then x % 2 ^ 63 else x % 2 ^ 63 + 2 ^ 63
/-- A fused product and sum. -/
def eFma (x y z : Nat) : Nat := fFma f64 .rne x y z

/-- An exact dyadic number n * 2^e. -/
structure Dyadic where
  n : Int
  e : Int
  deriving DecidableEq, Repr

/-- The exact value of a finite pattern. -/
def dyOf (x : Nat) : Dyadic :=
  match f64.decode x with
  | .fin s m e => ⟨if s then -(m : Int) else m, e⟩
  | _ => ⟨0, 0⟩

/-- The exact difference. -/
def dySub (x y : Dyadic) : Dyadic :=
  let e := if x.e ≤ y.e then x.e else y.e
  ⟨x.n * (2 ^ (x.e - e).toNat : Nat) - y.n * (2 ^ (y.e - e).toNat : Nat), e⟩

/-- The exact sum. -/
def dyAdd (x y : Dyadic) : Dyadic := dySub x ⟨-y.n, y.e⟩

/-- The exact product. -/
def dyMul (x y : Dyadic) : Dyadic := ⟨x.n * y.n, x.e + y.e⟩

/-- A dyadic number rounded once to FP64; an exact zero is `z`. -/
def dyRound (x : Dyadic) (z : Nat) : Nat :=
  if x.n = 0 then z else f64.round .rne .mode (decide (x.n < 0)) x.n.natAbs 1 x.e

/-- A length of R273: its exact value, and the zero that it is where it is zero (-0 for the domain [+0, -0]). -/
structure ELen where
  d : Dyadic
  z : Nat
  deriving DecidableEq, Repr

/-- The length that a pattern holds. -/
def ELen.of (x : Nat) : ELen := ⟨dyOf x, if (dyOf x).n = 0 then x else 0⟩

/-- The sum of two lengths, which R273 does not round. -/
def ELen.add (x y : ELen) : ELen := ⟨dyAdd x.d y.d, eAdd x.z y.z⟩

/-- `t + len`, rounded once (R273). -/
def addLen (t : Nat) (len : ELen) : Nat := dyRound (dyAdd (dyOf t) len.d) (if len.d.n = 0 then eAdd t len.z else 0)

/-- `v + a * len`, rounded once (R273). A zero product keeps its sign. -/
def fmaLen (a : Nat) (len : ELen) (v : Nat) : Nat :=
  let p := dyMul (dyOf a) len.d
  dyRound (dyAdd p (dyOf v)) (if p.n = 0 then eFma a len.z v else 0)

/-- bp of two lines (R261): the exact quotient, rounded once. -/
def bp (a1 b1 a2 b2 : Nat) : Nat :=
  let num := dySub (dyOf b2) (dyOf b1)
  let den := dySub (dyOf a1) (dyOf a2)
  if num.n = 0 then 0
  else f64.round .rne .mode (decide (num.n < 0) != decide (den.n < 0)) num.n.natAbs den.n.natAbs (num.e - den.e)

/-! ### Build and simplify (R262, R263) -/

/-- A candidate line. -/
structure Line where
  a  : Nat
  b  : Nat
  op : Nat
  ix : Nat
  deriving DecidableEq, Repr

/-- Whether a line comes before another in the order of R262. -/
def Line.before (u v : Line) : Bool :=
  if !eEq u.a v.a then eLt u.a v.a
  else if !eEq u.b v.b then eLt v.b u.b
  else if u.op ≠ v.op then decide (u.op < v.op)
  else decide (u.ix ≤ v.ix)

/-- Inserts into a sorted list. -/
def insertBy {α : Type} (le : α → α → Bool) (x : α) : List α → List α
  | [] => [x]
  | y :: ys => if le x y then x :: y :: ys else y :: insertBy le x ys

/-- A stable sort. -/
def sortBy {α : Type} (le : α → α → Bool) (xs : List α) : List α := xs.foldr (insertBy le) []

/-- Drops each line whose slope equals that of the kept line before it. -/
def dropFrom : Line → List Line → List Line
  | x, [] => [x]
  | x, y :: r => if eEq x.a y.a then dropFrom x r else x :: dropFrom y r

/-- Drops each line whose slope equals that of the line before it. -/
def dropEqual : List Line → List Line
  | [] => []
  | x :: r => dropFrom x r

/-- A piece as numbers. -/
structure EPiece where
  a : Nat
  b : Nat
  x : Nat
  deriving DecidableEq, Repr

/-- Removes the pieces of zero length under a new line from the stack, top first, and answers where the line begins. -/
def popStack (l : Line) (lo : Nat) : List EPiece → Nat × List EPiece
  | [] => (lo, [])
  | t :: r =>
    let x := bp t.a t.b l.a l.b
    if eLe x t.x then popStack l lo r else (x, t :: r)

/-- Puts one line on the stack (R262). -/
def pushLine (lo hi : Nat) (st : List EPiece) (l : Line) : List EPiece :=
  let p := popStack l lo st
  if !p.2.isEmpty && eLe hi p.1 then p.2 else ⟨l.a, l.b, p.1⟩ :: p.2

/-- build (R262). -/
def build (ls : List Line) (lo hi : Nat) : List EPiece :=
  ((dropEqual (sortBy Line.before ls)).foldl (pushLine lo hi) []).reverse

/-- Whether the lift of a piece is within the tolerance; a tolerance of zero, which a NaN or a negative one counts as, drops
nothing (R263). -/
def liftOk (etol : Nat) (p j : EPiece) (xs : Nat) : Bool :=
  let c := dySub (dyMul (dySub (dyOf j.a) (dyOf p.a)) (dyOf xs)) (dySub (dyOf p.b) (dyOf j.b))
  match f64.decode etol with
  | .inf false => true
  | .fin false m _ => decide (m ≠ 0) && decide ((dySub c (dyOf etol)).n ≤ 0)
  | _ => false

/-- simplify (R263): `p` is the last kept piece and `j` the piece under test. -/
def simplifyFrom (etol hi : Nat) : EPiece → EPiece → List EPiece → List EPiece
  | _, j, [] => [j]
  | p, j, q :: r =>
    let xs := bp p.a p.b q.a q.b
    let stop := match r with | z :: _ => z.x | [] => hi
    if eLt p.x xs && eLt xs stop && liftOk etol p j xs then simplifyFrom etol hi p { q with x := xs } r
    else j :: simplifyFrom etol hi j q r

/-- simplify (R263). -/
def simplify (etol hi : Nat) : List EPiece → List EPiece
  | p :: j :: r => p :: simplifyFrom etol hi p j r
  | l => l

/-! ### Envelopes (R257, R258) -/

/-- An envelope: void, or a domain with its pieces (none: no-lines). -/
structure Env where
  void : Bool
  lo   : Nat
  hi   : Nat
  ps   : List EPiece
  deriving DecidableEq, Repr

/-- The void envelope. -/
def Env.none : Env := ⟨true, 0, 0, []⟩

/-- A no-lines envelope. -/
def Env.flat (lo hi : Nat) : Env := ⟨false, lo, hi, []⟩

/-- Whether an envelope is no-lines. -/
def Env.isFlat (f : Env) : Bool := !f.void && f.ps.isEmpty

/-- The envelope of lines on a domain, simplified. -/
def Env.ofLines (etol : Nat) (ls : List Line) (lo hi : Nat) : Env :=
  if eLt hi lo then .none else ⟨false, lo, hi, simplify etol hi (build ls lo hi)⟩

/-- The pieces of an envelope as lines of an operand. -/
def Env.lines (f : Env) (op : Nat) : List Line := f.ps.zipIdx.map fun p => ⟨p.1.a, p.1.b, op, p.2⟩

/-- The ends of the pieces: the next piece's x, or hi. -/
def Env.ends (f : Env) : List Nat := (f.ps.drop 1).map (·.x) ++ [f.hi]

/-- The last piece that begins at or before t. -/
def Env.pieceAt (f : Env) (t : Nat) : EPiece :=
  ((f.ps.reverse.find? fun p => eLe p.x t).orElse fun _ => f.ps.head?).getD ⟨0, 0, 0⟩

/-- A computed value that rounds to an infinity is a fault of kind 2 (R265). -/
def fin2 (x : Nat) : Option Nat := if eFin x then some x else Option.none

/-- EMAX (R271). DESIGN CHOICE (log entry 78): of the bounds +0 and -0, max and min take as FMAX and FMIN do, -0 below +0 (R96). -/
def envMax (etol : Nat) (x y : Env) : Env :=
  if x.void || y.void then .none
  else
    let lo := fMax f64 x.lo y.lo
    let hi := fMin f64 x.hi y.hi
    if eLt hi lo then .none
    else if x.isFlat && y.isFlat then .flat lo hi
    else .ofLines etol (x.lines 0 ++ y.lines (if x.isFlat then 0 else 1)) lo hi

/-- The lines of ESUM's pairs, in the order of their overlaps. -/
def sumLines : List (EPiece × EPiece) → Nat → Option (List Line)
  | [], _ => some []
  | (p, q) :: r, k => do
    let a ← fin2 (eAdd p.a q.a)
    let b ← fin2 (eAdd p.b q.b)
    let l ← sumLines r (k + 1)
    some (⟨a, b, 0, k⟩ :: l)

/-- The pairs of pieces whose intervals overlap on a domain (R271). -/
def sumPairs (x y : Env) (lo hi : Nat) : List (EPiece × EPiece) :=
  if eEq lo hi then [(x.pieceAt lo, y.pieceAt lo)]
  else
    let all : List (Nat × EPiece × EPiece) := (x.ps.zip x.ends).flatMap fun p => (y.ps.zip y.ends).filterMap fun q =>
      let st := fMax f64 (fMax f64 p.1.x q.1.x) lo
      let en := fMin f64 (fMin f64 p.2 q.2) hi
      if eLt st en then some (st, p.1, q.1) else Option.none
    (sortBy (fun u v => eLe u.1 v.1) all).map (·.2)

/-- ESUM (R271). -/
def envSum (etol : Nat) (x y : Env) : Option Env :=
  if x.void || y.void then some .none
  else
    let lo := fMax f64 x.lo y.lo
    let hi := fMin f64 x.hi y.hi
    if eLt hi lo then some .none
    else if x.isFlat || y.isFlat then some (.flat lo hi)
    else (sumLines (sumPairs x y lo hi) 0).map fun ls => .ofLines etol ls lo hi

/-- The lines of the vertices of a conjugate. -/
def legLines : List (Nat × EPiece) → Nat → Option (List Line)
  | [], _ => some []
  | (v, p) :: r, k => do
    let f ← fin2 (eFma p.a v p.b)
    let l ← legLines r (k + 1)
    some (⟨v, eNegate f, 0, k⟩ :: l)

/-- The vertices of an envelope in the lines state (R272). -/
def Env.vertices (f : Env) : List (Nat × EPiece) :=
  match f.ps with
  | [] => []
  | p :: r =>
    (if eFin f.lo then [(f.lo, p)] else []) ++ r.map (fun q => (q.x, q)) ++
      (if eFin f.hi && !eEq f.hi f.lo then [(f.hi, (p :: r).getLastD p)] else [])

/-- ELEG (R272). -/
def envLeg (etol : Nat) (x : Env) : Option Env :=
  if x.void then some (.flat eNeg ePos)
  else
    match x.ps with
    | [] => some .none
    | p :: r =>
      let q := (p :: r).getLastD p
      if x.vertices.isEmpty then some ⟨false, p.a, p.a, [⟨0, eNegate p.b, p.a⟩]⟩
      else
        let lo := if eFin x.lo then eNeg else p.a
        let hi := if eFin x.hi then ePos else q.a
        (legLines x.vertices 0).map fun ls => .ofLines etol ls lo hi

/-- Merges consecutive equal slopes behind `x`: the first piece's slope, and the sum of the lengths. -/
def mergeFrom : Nat × ELen → List (Nat × ELen) → List (Nat × ELen)
  | x, [] => [x]
  | x, y :: r => if eEq x.1 y.1 then mergeFrom (x.1, x.2.add y.2) r else x :: mergeFrom y r

/-- Merges consecutive equal slopes (R273). -/
def mergeSlopes : List (Nat × ELen) → List (Nat × ELen)
  | [] => []
  | x :: r => mergeFrom x r

/-- Emits the merged pieces from (t, v) on (R273). A first piece of length 0, and sums that round to one breakpoint, stay as R273 writes
them, although R257 lets breakpoints rise strictly (log entry 74). -/
def infPieces : List (Nat × ELen) → Bool → Nat → Nat → Option (List EPiece)
  | [], _, _, _ => some []
  | (a, len) :: r, first, t, v => do
    let ps ← if first || decide (0 < len.d.n) then do
        let b ← fin2 (eFma (eNegate a) t v)
        some [⟨a, b, t⟩]
      else some []
    let v' ← fin2 (fmaLen a len v)
    let t' ← fin2 (addLen t len)
    let rest ← infPieces r false t' v'
    some (ps ++ rest)

/-- A slope with its length, which is rounded once; a length that rounds to an infinity is a fault of kind 2 (R273). -/
def slopeOf (p : EPiece × Nat) : Option (Nat × ELen) := (fin2 (fSub f64 .rne p.2 p.1.x)).map fun l => (p.1.a, ELen.of l)

/-- The slopes and lengths of an envelope's pieces. -/
def Env.slopes (f : Env) : Option (List (Nat × ELen)) := (f.ps.zip f.ends).mapM slopeOf

/-- EINF (R273). DESIGN CHOICE (log entry 78): where a bound is infinite, each of the three steps simplifies its result under etol, as its own
rule states; the cap is looked at for the final value alone. -/
def envInf (etol : Nat) (x y : Env) : Option Env :=
  if x.void || y.void then some .none
  else if x.isFlat || y.isFlat then
    let sum (u v : Nat) : Option Nat := if !eFin u then some u else if !eFin v then some v else fin2 (eAdd u v)
    do
      let lo ← sum x.lo y.lo
      let hi ← sum x.hi y.hi
      some (.flat lo hi)
  else if eFin x.lo && eFin x.hi && eFin y.lo && eFin y.hi then do
    let sx ← x.slopes
    let sy ← y.slopes
    let m := mergeSlopes (sortBy (fun u v => eLe u.1 v.1) (sx ++ sy))
    let px := x.ps.headD ⟨0, 0, 0⟩
    let py := y.ps.headD ⟨0, 0, 0⟩
    let t ← fin2 (eAdd x.lo y.lo)
    let hi ← fin2 (eAdd x.hi y.hi)
    let fx ← fin2 (eFma px.a x.lo px.b)
    let fy ← fin2 (eFma py.a y.lo py.b)
    let v ← fin2 (eAdd fx fy)
    let ps ← infPieces m true t v
    some ⟨false, t, hi, simplify etol hi ps⟩
  else do
    let lx ← envLeg etol x
    let ly ← envLeg etol y
    let sm ← envSum etol lx ly
    envLeg etol sm

/-- f at a point (R274). -/
def Env.eval (f : Env) (t : Nat) : Nat :=
  if eNan t then 0x7FF8000000000000
  else if f.void || eLt t f.lo || eLt f.hi t then ePos
  else if f.ps.isEmpty then eNeg
  else if eFin t then
    let p := f.pieceAt t
    eFma p.a t p.b
  else
    let p := if t = ePos then f.ps.getLastD ⟨0, 0, 0⟩ else f.ps.headD ⟨0, 0, 0⟩
    if eEq p.a 0 then p.b else if p.a.testBit 63 = t.testBit 63 then ePos else eNeg

/-! ### Handles (R259) -/

/-- The key of a launch's handle. -/
def handleKey (launch e : Nat) : Nat := launch * 16 + e

/-- A handle of a launch. -/
def Mast.envH (m : Mast) (launch e : Nat) : Handle := m.handles.get (handleKey launch e) Handle.init

/-- Replaces a handle. -/
def Mast.setEnvH (m : Mast) (launch e : Nat) (h : Handle) : Mast := { m with handles := m.handles.set (handleKey launch e) h }

/-- The envelope of a handle. -/
def Handle.env (h : Handle) : Env :=
  ⟨h.void, h.lo.toNat, h.hi.toNat, h.pieces.map fun p => ⟨p.a.toNat, p.b.toNat, p.x.toNat⟩⟩

/-- A handle with another envelope. -/
def Handle.withEnv (h : Handle) (f : Env) : Handle :=
  { h with void := f.void, lo := Word.of f.lo, hi := Word.of f.hi,
           pieces := f.ps.map fun p => ⟨Word.of p.a, Word.of p.b, Word.of p.x⟩ }

/-- The cells of a launch's grant that no handle reserves. -/
def Mast.freeCells (m : Mast) (launch : Nat) : Nat :=
  (m.grants.get launch Grant.init).env.2 -
    ((m.handles.filter fun p => decide (p.1 / 16 = launch) && p.2.held).map fun p => p.2.cap).sum

/-- Double 0 of the header (R275). -/
def Handle.head (h : Handle) : Word := Word.of ((if h.void then 2 ^ 63 else 0) + h.pieces.length)

/-- The bytes that EREAD writes (R275). -/
def Handle.image (h : Handle) : List Byte :=
  wordsToBytes ([h.head, if h.void then Word.of ePos else h.lo, if h.void then Word.of eNeg else h.hi, Word.of h.cap] ++
    h.pieces.flatMap fun p => [p.a, p.b, p.x, 0])

/-! ### The operations of the queue (R264 to R275) -/

/-- The trapinfo of cause 0x11 (R265). -/
def faultInfo (kind index : Nat) : Word := Word.of (kind * 2 ^ 56 + index)

/-- A new envelope for the destination: a fault of kind 2, an overflow of the destination's cap, or a commit (R265). -/
def EaOp.put (pc : Word) (h : Handle) (f : Option Env) : EaResult :=
  match f with
  | none => .fault 0x11 pc (faultInfo 2 0)
  | some f => if h.cap < f.ps.length then .overflow f.ps.length else .commit (h.withEnv f)

/-- The first bad line that EINS reads (R265, R270); one faults also where e is void (log entry 76). -/
def badLine : List Nat → Nat → Option Nat
  | a :: b :: r, k => if eFin a && eFin b then badLine r (k + 1) else some k
  | _, _ => none

/-- The lines that EINS reads. -/
def newLines : List Nat → Nat → List Line
  | a :: b :: r, k => ⟨a, b, 1, k⟩ :: newLines r (k + 1)
  | _, _ => []

/-- What an operation does, from the handles and the doubles it reads at its start; `pc` is its instruction's. -/
def EaOp.compute (o : EaOp) (m : Mast) (pc : Word) (xs : List Nat) : EaResult :=
  let h := m.envH o.launch o.ed
  let x := (m.envH o.launch o.ex).env
  let y := (m.envH o.launch o.ey).env
  let t := o.etol.toNat
  match o.kind with
  | .claim =>
    let c := if o.n = 0 then 256 else o.n.toNat
    if h.held || m.freeCells o.launch < c then .value 0
    else .claimed { held := true, cap := c, void := false, lo := Word.of eNeg, hi := Word.of ePos, pieces := [] } 1
  | .cap =>
    if o.n.toNat < h.pieces.length || m.freeCells o.launch < o.n.toNat - h.cap then .value 0
    else .claimed { h with cap := o.n.toNat } 1
  | .clr =>
    let lo := o.a.toNat
    let hi := o.hi.toNat
    if eNan lo || eNan hi || lo = ePos || hi = eNeg then .fault 0x11 pc (faultInfo 3 0)
    else .commit (h.withEnv (if eLt hi lo then .none else .flat lo hi))
  | .free => .commit Handle.init
  | .ins =>
    match badLine xs 0 with
    | some k => .fault 0x11 (o.a + Word.of (16 * k)) (faultInfo 1 k)
    | none =>
      if h.void || xs.isEmpty then .nothing
      else EaOp.put pc h (some (.ofLines t (h.env.lines 0 ++ newLines xs 0) h.env.lo h.env.hi))
  | .max => EaOp.put pc h (some (envMax t x y))
  | .sum => EaOp.put pc h (envSum t x y)
  | .inf => EaOp.put pc h (envInf t x y)
  | .leg => EaOp.put pc h (envLeg t x)
  | .eval => .write (wordsToBytes (xs.map fun v => Word.of (h.env.eval v)))
  | .read => if o.n.toNat < 32 + 32 * h.pieces.length then .fault 0x0C pc 0 else .write h.image
  | .cnt => .value h.head

/-- The handles that an operation names and that must be held (R259, R264). -/
def EaOp.names (o : EaOp) : List Nat :=
  match o.kind with
  | .claim => []
  | .max | .sum | .inf => [o.ed, o.ex, o.ey]
  | .leg => [o.ed, o.ex]
  | _ => [o.ed]

/-- The doubles that an operation reads. -/
def EaOp.reads (o : EaOp) : Nat :=
  match o.kind with
  | .ins => 2 * o.n.toNat
  | .eval => o.n.toNat
  | _ => 0

/-- The start of an operation: the handles are checked again, the banks are read, and the result is computed. An uncorrectable error
in any double comes before a bad line (log entry 76). -/
def State.eaCompute (s : State) (mast : Nat) (o : EaOp) : EaResult × State :=
  let m := s.mastAt mast
  let pc := (s.ctxAt o.ctx).pc
  if o.names.any fun e => !(m.envH o.launch e).held then (.fault 0x0C pc 0, s)
  else
    let k := o.reads
    let r := s.readBank mast (bits o.a 19 0) (8 * k)
    match (List.range k).find? fun i => r.2.1 (8 * i) with
    | some i => (.fault 0x0E (o.a + Word.of (8 * i)) 0, s)
    | none => (o.compute m pc (elems k 8 r.1), r.2.2)

/-- EA_START (R264) on mast `place.a`: the head of the queue starts when its older conflicting entries have retired. -/
def execEaStart (s : State) : Host.Outcome State Fault Refusal :=
  let mast := s.place.a
  let m := s.mastAt mast
  match m.eaQueue with
  | o :: rest =>
    if o.result.isNone && !(match o.entry with | some e => m.opBlocked e [] | none => false) then
      let r := s.eaCompute mast o
      .next (r.2.putMast mast { r.2.mastAt mast with eaQueue := { o with result := some r.1 } :: rest })
    else s.passed
  | [] => s.passed

/-- estat (R260). -/
def estatWord (handle code need : Nat) : Word := Word.of (need * 2 ^ 16 + handle * 2 ^ 8 + code)

/-- The end of an operation for its context: estat, eop, and the outcome that its instruction takes (R264, R265). -/
def State.eaEnd (s : State) (o : EaOp) (r : EaResult) : State :=
  let c := s.ctxAt o.ctx
  let p : Word × EaOut :=
    match r with
    | .overflow k =>
      let e := estatWord o.ed 1 k
      (e, if c.eamask then .done 0 else .trap 0x10 c.pc e)
    | .fault cause addr info => (estatWord o.ed (if cause = 0x11 then 2 else 3) 0, .trap cause addr info)
    | .value w | .claimed _ w => (estatWord o.ed 0 0, .done w)
    | _ => (estatWord o.ed 0 0, .done 0)
  s.putCtx o.ctx { c with estat := p.1, eopValid := false, eopTag := 0, await := .ea (some p.2) }

/-- EA_COMMIT (R264) on mast `place.a`: the started operation commits, retires its entry, and ends. -/
def execEaCommit (s : State) : Host.Outcome State Fault Refusal :=
  let mast := s.place.a
  match (s.mastAt mast).eaQueue with
  | o :: rest =>
    match o.result with
    | some r =>
      let s :=
        match r with
        | .commit h | .claimed h _ => s.putMast mast ((s.mastAt mast).setEnvH o.launch o.ed h)
        | .write bs => s.writeBank mast (bits o.a 19 0) bs
        | _ => s
      let m := s.mastAt mast
      let m := match o.entry with | some e => m.retire e | none => m
      .next ((s.putMast mast { m with eaQueue := rest }).eaEnd o r)
    | none => s.passed
  | [] => s.passed

/-! ### Issue (R259, R264, R276) -/

/-- A handle name that the launch's grant has; `held` asks that it is held (R259). -/
def State.envName (s : State) (e : Nat) (held : Bool) : Ex Unit :=
  need (e < s.grant.env.1 && (!held || (s.mast.envH s.cur.launch e).held)) (s.bad0C 0)

/-- The range check of EINS, EEVAL and EREAD (R276, R228). -/
def State.envRange (s : State) (a : Word) (len : Nat) (write : Bool) : Ex Unit := do
  need (a.toNat % 8 = 0) (.trap 0x03 a 0)
  let off := bits a 19 0
  need (space a = 0x9 && zeroFieldsOk a && off + len ≤ 2 ^ 20) (.trap 0x04 a 0)
  let banks := (List.range 16).filter fun k => decide (len ≠ 0) && decide (k * 65536 < off + len) && decide (off < (k + 1) * 65536)
  need (!banks.any s.mast.isShadow) (.trap 0x04 a 0)
  need (banks.all (s.mast.holds s.cur.launch)) (s.bad0C 0)
  need (!write || len = 0 || !s.touchesObj a len) (s.bad0C 0)

/-- Enqueues an operation with the intervals of its range, and lets its context wait for it (R264). Its tag is the unit's issue count
with this issue in it (log entry 74). -/
def State.eaIssue (s : State) (o : EaOp) (reads writes : Nat) : Ex State := do
  need (s.settled && s.mast.eaQueue.length < 32) .wait
  let m := s.mast
  let tag := m.eaCount + 1
  let off := bits o.a 19 0
  let is := m.ivalsOf false off reads ++ m.ivalsOf true off writes
  let go (m : Mast) (entry : Option Nat) : State :=
    let s := s.tookEntry.setMast { m with eaCount := tag, eaQueue := m.eaQueue ++ [{ o with entry := entry, tag := tag }] }
    (s.setCtx { s.ctx with eopValid := true, eopTag := tag, await := .ea none }).waiting
  if is.isEmpty then .ok (go m none)
  else
    match s.myEntry with
    | none => .ok s.awaitMine
    | some (e, sh) => .ok (go (s.tookEntry.mast.register ⟨e, tag.toNat, 4, s.coreIx, sh, s.cur.launch, is, 0⟩) (some e))

/-- An operation of the context that acts. -/
def State.eaOp (s : State) (k : EaKind) (ed ex ey : Nat) (a n hi : Word) : EaOp :=
  ⟨s.cur.ctx, s.cur.launch, k, ed, ex, ey, a, n, hi, s.ctx.etol, none, 0, none⟩

/-- An EA instruction: it takes the outcome of its operation, waits for it, or issues. `d` receives a result. -/
def State.envOp (s : State) (d : Option Reg) (issue : Ex State) : Host.Outcome State Fault Refusal :=
  match s.ctx.await with
  | .ea none => .next s.waiting
  | .ea (some (.trap c a i)) => .next (s.trapEntry c a i s.pc)
  | .ea (some (.done w)) => .next (match d with | some d => s.result 1 d w | none => s.advance 1)
  | _ => s.finish issue

/-- ECLAIM (R269). Its bound on c is checked at issue and leaves estat alone (log entry 76). -/
def execEclaim (d : Reg) (e : Fin 16) (n : Src) (s : State) :=
  s.envOp (some d) (do
    s.envName e.val false
    need ((s.src n).toNat ≤ 4096) (s.bad0C 0)
    s.eaIssue (s.eaOp .claim e.val 0 0 0 (s.src n) 0) 0 0)

/-- ECAP (R269). Its bounds on n are checked at issue and leave estat alone (log entry 76). -/
def execEcap (d : Reg) (e : Fin 16) (n : Src) (s : State) :=
  s.envOp (some d) (do
    s.envName e.val true
    need (s.src n ≠ 0 && (s.src n).toNat ≤ 4096) (s.bad0C 0)
    s.eaIssue (s.eaOp .cap e.val 0 0 0 (s.src n) 0) 0 0)

/-- ECLR (R269). -/
def execEclr (hi : Reg) (e : Fin 16) (lo : Src) (s : State) :=
  s.envOp none (do
    s.envName e.val true
    s.eaIssue (s.eaOp .clr e.val 0 0 (Word.of (s.fsrc .f64 lo)) 0 (s.reg hi)) 0 0)

/-- ECLR.free (R269). -/
def execEclrFree (e : Fin 16) (s : State) :=
  s.envOp none (do
    s.envName e.val true
    s.eaIssue (s.eaOp .free e.val 0 0 0 0 0) 0 0)

/-- EINS (R270). -/
def execEins (e : Fin 16) (a : RcSrc) (n : Src) (s : State) :=
  s.envOp none (do
    s.envName e.val true
    need ((s.src n).toNat ≤ 4096) (s.bad0C 0)
    s.envRange (s.rc a) (16 * (s.src n).toNat) false
    s.eaIssue (s.eaOp .ins e.val 0 0 (s.rc a) (s.src n) 0) (16 * (s.src n).toNat) 0)

/-- An operation on two operand handles and a destination. -/
def State.ea3 (s : State) (k : EaKind) (ed ex ey : Fin 16) : Host.Outcome State Fault Refusal :=
  s.envOp none (do
    s.envName ed.val true
    s.envName ex.val true
    s.envName ey.val true
    s.eaIssue (s.eaOp k ed.val ex.val ey.val 0 0 0) 0 0)

/-- EMAX (R271). -/
def execEmax (ed ex ey : Fin 16) (s : State) := s.ea3 .max ed ex ey
/-- ESUM (R271). -/
def execEsum (ed ex ey : Fin 16) (s : State) := s.ea3 .sum ed ex ey
/-- EINF (R273). -/
def execEinf (ed ex ey : Fin 16) (s : State) := s.ea3 .inf ed ex ey

/-- ELEG (R272). -/
def execEleg (ed ex : Fin 16) (s : State) :=
  s.envOp none (do
    s.envName ed.val true
    s.envName ex.val true
    s.eaIssue (s.eaOp .leg ed.val ex.val 0 0 0 0) 0 0)

/-- EEVAL (R274). -/
def execEeval (e : Fin 16) (a : RcSrc) (n : Src) (s : State) :=
  s.envOp none (do
    s.envName e.val true
    need ((s.src n).toNat ≤ 4096) (s.bad0C 0)
    s.envRange (s.rc a) (8 * (s.src n).toNat) true
    s.eaIssue (s.eaOp .eval e.val 0 0 (s.rc a) (s.src n) 0) (8 * (s.src n).toNat) (8 * (s.src n).toNat))

/-- EREAD (R275). -/
def execEread (e : Fin 16) (a : RcSrc) (n : Src) (s : State) :=
  s.envOp none (do
    s.envName e.val true
    s.envRange (s.rc a) (s.src n).toNat true
    s.eaIssue (s.eaOp .read e.val 0 0 (s.rc a) (s.src n) 0) 0 (s.src n).toNat)

/-- ECNT (R275). -/
def execEcnt (d : Reg) (e : Fin 16) (s : State) :=
  s.envOp (some d) (do
    s.envName e.val true
    s.eaIssue (s.eaOp .cnt e.val 0 0 0 0 0) 0 0)

end Sys2Proof.Machine
end

