-- ==== Sys2Proof/Machine/Network.lean ====
section
/-! DEFINITION. Messages, remote atomics, triggers and the net unit (R280 to R301): SEND, SENDI, HRET, the remote atomics,
TBIND, TUNBIND, and the events of packets, inboxes and long links. -/

namespace Sys2Proof.Machine

/-! ### SEND and SENDI (R288 to R290) -/

/-- The number of the CP that serves a queue, as a source or destination of packets (R292; log entry 40). -/
def cpNode (queue : Nat) : Nat := 65536 + queue % 8

/-- Reads a message of `n` bytes as a load reads it (R289). -/
def State.messageBytes (s : State) (a : Word) (n : Nat) : Ex (List Byte × State) :=
  if space a = 0x9 then s.bankRead a n
  else do
    s.readChecked a (localKey s.cur.core (bits a 16 0)) n

/-- The place check of a message (R289). -/
def State.messagePlace (s : State) (a : Word) (n : Nat) : Bool :=
  if space a = 0x8 then zeroFieldsOk a && bits a 16 0 < 0x18000 && s.localOk (bits a 16 0) n .load
  else (s.bankRange a n).isNone

/-- Whether double 0 of an inline message is well formed for its length (R289). -/
def inlineOk (w : Word) (n : Nat) : Bool :=
  let k := bits w 52 48
  decide (bits w 63 60 = 0xF) && decide (bits w 59 53 = 0) && decide (bits w 47 0 = 0) && decide (1 ≤ k) && decide (k ≤ 24)
    && decide (8 + 8 * ((k + 1) / 2) ≤ n)

/-- SEND and SENDI (R289). -/
def State.send (s : State) (net : Nat) (d : Reg) (a n : Word) (inl : Bool) : Host.Outcome State Fault Refusal :=
  s.finish (do
    need (s.engine = .mast) (s.bad0C 0)
    need (if net = 1 then s.ctx.kind ≠ .rep else s.mayTravel) (.trap 0x15 s.pc 0xFFE)
    need (8 ≤ n.toNat && n.toNat ≤ 256 && n.toNat % 8 = 0) (s.bad0C 0)
    need (a.toNat % 8 = 0) (.trap 0x03 a 0)
    need (s.messagePlace a n.toNat) (.trap 0x04 a 0)
    let dst := s.reg d
    need (net = 3 || (dst.toNat < 2 ^ 13 && s.coreIn s.cur.launch dst.toNat)) (s.bad0C 0)
    need (net ≠ 3 || dst.toNat ≤ 15) (s.bad0C 0)
    let m ← s.messageBytes a n.toNat
    need (!inl || inlineOk (Word.of (ofBytes (m.1.take 8))) n.toNat) (s.bad0C 0)
    let size := packetBytes n.toNat
    s.needShare net size
    let t := m.2
    if net = 3 then .ok ((t.emit 3 (cpNode t.launch.queue) size true (.sysMsg dst.toNat m.1)).advance 1)
    else .ok ((t.emit net dst.toNat size true (.msg m.1 inl)).advance 1))

/-- The network code of a SEND. -/
def netCode : SendNet → Nat
  | .req => 0
  | .rep => 1
  | .sys => 3

/-- SEND. -/
def execSend (vn : SendNet) (d : Reg) (a : RcSrc) (n : Src) (s : State) := s.send (netCode vn) d (s.rc a) (s.src n) false
/-- SENDI. -/
def execSendi (rep : Bool) (d : Reg) (a : RcSrc) (n : Src) (s : State) :=
  s.send (if rep then 1 else 0) d (s.rc a) (s.src n) true

/-! ### HRET (R293, R311, R381) -/

/-- Whether a join thimble that the context made still stands (R157). -/
def State.thimblesLeft (s : State) : Bool :=
  s.task.nodes.any fun p => p.2.isJoin && decide (p.2.in0 = Word.of s.cur.ctx)

/-- HRET on a core. -/
def State.hretCore (s : State) : Ex State := do
  need (s.core.splices.all fun sp => decide (sp.ctx ≠ s.cur.ctx)) .wait
  need (!s.thimblesLeft) .wait
  need (s.drained && !s.ctx.eopValid) .wait
  let s := s.setTask { s.task with inbox := s.task.inbox.filter fun m => !(m.taken && decide (m.ctx = s.cur.ctx)) }
  .ok s.endCtx

/-- HRET on a halyard hart: the kernel of the transfer ends, with w8[7:0] as its user code (R311). -/
def State.hretHart (s : State) : Ex State := do
  let y := s.mast.hy (hyNo s.cur.core)
  need (s.drained && y.queue.isEmpty) .wait
  let y := { y with stage := .ended, user := BitVec.ofNat 8 (s.reg (.w 8)).toNat }
  let s := s.setMast (s.mast.setHy (hyNo s.cur.core) y)
  .ok (s.setCtx { s.ctx with status := .stopped })

/-- HRET. -/
def execHret (s : State) : Host.Outcome State Fault Refusal :=
  s.finish (match s.engine with | .hart => s.hretHart | _ => s.hretCore)

/-! ### Triggers (R298 to R300) -/

/-- fire (R299) of a local offset of a task. -/
def State.fire (s : State) (k off : Nat) : Ex State :=
  let t := s.taskAt k
  if t.bind.has off then
    let b := t.bind.get off (0, 0)
    s.pushOn k (taskRecord b.1 0 1 b.2 (localAddr off))
  else if t.pendTrig.length < 16 then .ok (s.putTask k { t with pendTrig := t.pendTrig ++ [off] })
  else .ok (s.failTask k 0x43 (localAddr off) 0)

/-- The checks of a trigger's address (R298). -/
def State.trigCheck (s : State) (ea : Word) : Ex Unit := do
  need (s.engine = .mast) (s.bad0C 0)
  need (ea.toNat % 8 = 0) (.trap 0x03 ea 0)
  need (space ea = 0x8 && zeroFieldsOk ea && s.localOk (bits ea 16 0) 8 .atomic) (.trap 0x04 ea 0)

/-- TBIND (R298). -/
def execTbind (k : Reg) (a h : RcSrc) (s : State) : Host.Outcome State Fault Refusal :=
  s.finish (do
    let ea := s.rc a
    let hv := s.rc h
    s.trigCheck ea
    need (bits hv 1 0 = 0) (.trap 0x03 hv 0)
    match s.task.handlerIndex hv with
    | none => .error (s.bad0C 0)
    | some i => do
      let off := bits ea 16 0
      need (s.task.bind.has off || s.task.bind.length < 32) (s.bad0C 0)
      let n := (s.task.pendTrig.filter fun p => decide (p = off)).length
      let t := s.setTask { s.task with
        bind := s.task.bind.set off (i, BitVec.ofNat 32 (s.reg k).toNat)
        pendTrig := s.task.pendTrig.filter fun p => decide (p ≠ off) }
      let u ← (List.range n).foldlM (fun s _ => s.fire s.cur.task off) t
      .ok (u.advance 1))

/-- TUNBIND (R298). -/
def execTunbind (a : RcSrc) (s : State) : Host.Outcome State Fault Refusal :=
  s.finish (do
    let ea := s.rc a
    s.trigCheck ea
    .ok ((s.setTask { s.task with bind := s.task.bind.erase (bits ea 16 0) }).advance 1))

/-! ### Remote atomics (R296, R297) -/

/-- Whether the accepted spaces of a remote atomic hold an address. -/
def atomSpace (ea : Word) : Bool := [0x0, 0x8, 0x9, 0xA, 0xB].contains (space ea) && zeroFieldsOk ea

/-- Sends the request of a travelling atomic (R297). -/
def State.atomSend (s : State) (d : Reg) (n dst : Nat) (k : PKind) (posted trig : Bool) : Ex State := do
  s.needShare 0 32
  if posted then .ok ((s.emit 0 dst 32 trig k).advance n)
  else do
    need (s.task.replyRoom 32) .wait
    let id := s.nextPkt
    let s := s.setTask { s.task with ibRsv := s.task.ibRsv + 32 }
    let s := s.emit 0 dst 32 trig k
    .ok (s.setCtx { s.ctx with await := .reply id d none }).waiting

/-- The issue of a remote atomic (R297). -/
def State.atomIssue (s : State) (d : Reg) (n : Nat) (ea : Word) (op : AtomOp) (v nw : Word) (trig : Bool) : Ex State := do
  let sp := space ea
  need (sp = 0x8 || sp = 0x9 || s.mayTravel) (.trap 0x15 s.pc 0xFFE)
  need (ea.toNat % 8 = 0) (.trap 0x03 ea 0)
  need (atomSpace ea) (.trap 0x04 ea 0)
  need (!trig || sp = 0x8 || sp = 0xA) (s.bad0C 0)
  let posted := decide (d = .g 0)
  match sp with
  | 0x8 | 0x9 => do
    let key ← s.memCheck ea 8 .atomic [0x8, 0x9]
    need (!trig || s.settled) .wait
    match s.atomicAt ea key op v nw false with
    | .ok p =>
      let t ← if trig && decide (p.1 ≠ 0) && decide (p.2.dbl key = 0) then p.2.fire s.cur.task (bits ea 16 0) else .ok p.2
      .ok (t.result n d p.1)
    | .error (.trap 0x0E a i) =>
      if posted then .ok ((s.isolation s.cur.launch s.cur.core ea).advance n) else .error (.trap 0x0E a i)
    | .error e => .error e
  | 0x0 => do
    let key ← s.extentCheck ea 8 .atomic
    s.atomSend d n (memCtl key) (.atomic op ea v nw trig posted key) posted trig
  | 0xA => do
    need (s.coreIn s.cur.launch (bits ea 44 32)) (s.bad0C 0)
    s.atomSend d n (bits ea 44 32) (.atomic op ea v nw trig posted 0) posted trig
  | _ => do
    need (s.mastIn s.cur.launch (bits ea 41 32)) (s.bad0C 0)
    s.atomSend d n (8 * bits ea 41 32) (.atomic op ea v nw trig posted 0) posted trig

/-- The reply of a remote atomic that has left the core. -/
def State.atomReply (s : State) (d : Reg) (n : Nat) (ea : Word) (x : Answer) : State :=
  match x with
  | .value w => s.result n d w
  | .joined w _ => s.result n d w
  | .fault c _ => s.trapEntry c ea 0 s.pc

/-- A remote atomic of `n` words. -/
def State.ratomic (s : State) (n : Nat) (d : Reg) (ea : Word) (op : AtomOp) (v nw : Word) (trig : Bool) :
    Host.Outcome State Fault Refusal :=
  match s.ctx.await with
  | .reply _ _ (some x) => .next (s.atomReply d n ea x)
  | .reply _ _ none => .next s.waiting
  | _ => s.finish (s.atomIssue d n ea op v nw trig)

/-- AADD. -/
def execAaddRemote (t : Bool) (d : Reg) (a : RcSrc) (v : Src) (s : State) := s.ratomic 1 d (s.rc a) .add (s.src v) 0 t
/-- ACAS. -/
def execAcasRemote (t : Bool) (d : Reg) (a : RcSrc) (e nw : Src) (s : State) :=
  s.ratomic 2 d (s.rc a) .cas (s.src e) (s.src nw) t
/-- AXCH. -/
def execAxchRemote (t : Bool) (d : Reg) (a : RcSrc) (v : Src) (s : State) := s.ratomic 1 d (s.rc a) .xch (s.src v) 0 t
/-- AMIN. -/
def execAminRemote (t natural : Bool) (d : Reg) (a : RcSrc) (v : Src) (s : State) :=
  s.ratomic 1 d (s.rc a) (if natural then .minN else .min) (s.src v) 0 t
/-- AMAX. -/
def execAmaxRemote (t natural : Bool) (d : Reg) (a : RcSrc) (v : Src) (s : State) :=
  s.ratomic 1 d (s.rc a) (if natural then .maxN else .max) (s.src v) 0 t
/-- AAND. -/
def execAandRemote (t : Bool) (d : Reg) (a : RcSrc) (v : Src) (s : State) := s.ratomic 1 d (s.rc a) .and (s.src v) 0 t
/-- AOR. -/
def execAorRemote (t : Bool) (d : Reg) (a : RcSrc) (v : Src) (s : State) := s.ratomic 1 d (s.rc a) .or (s.src v) 0 t

/-! ### Packets at their targets -/

/-- The place of a remote atomic at its target: its memory key, or none for an address outside the launch's region (R297). -/
def State.atomTarget (s : State) (p : Packet) (ea : Word) (key : Nat) : Option Nat :=
  match space ea with
  | 0xA =>
    let t := s.taskAt (taskKey p.launch p.dst)
    let off := bits ea 16 0
    if t.live && t.locb ≤ off && off + 8 ≤ t.locl then some (localKey p.dst off) else none
  | 0xB =>
    let mast := bits ea 41 32
    let m := s.mastAt mast
    let b := bits ea 19 16
    if m.holds p.launch b && !m.paired b then some (bankKey mast (bits ea 19 0)) else none
  | _ => some key

/-- Whether the double of a remote atomic lies in an armed object (R228). -/
def State.atomArmed (s : State) (ea : Word) : Bool :=
  decide (space ea = 0xB) && (s.mastAt (bits ea 41 32)).touchesArmed (bits ea 19 0) 8

/-- Whether the bank double of a remote atomic waits for older entries (R201). -/
def State.atomWaits (s : State) (ea : Word) : Bool :=
  decide (space ea = 0xB) &&
    let g := granules (bits ea 19 0) 8
    conflict (s.mastAt (bits ea 41 32)).sb true g.1 g.2

/-- Answers a request: a reply, or for a posted one an isolation fault where it has failed (R297). -/
def State.atomAnswer (s : State) (p : Packet) (ea : Word) (posted : Bool) (a : Answer) : State :=
  match posted, a with
  | true, .fault _ _ => s.isolation p.launch p.src ea
  | true, _ => s
  | false, a => s.emitUnit 1 p.dst p.src p.launch 32 (.answer p.ctx a)

/-- RATOMIC_TARGET (R297) of packet `place.a`. -/
def execRatomicTarget (s : State) : Host.Outcome State Fault Refusal :=
  let u0 := s
  match s.packet s.place.a with
  | some p =>
    match p.kind with
    | .atomic op ea v nw trig posted key =>
      if !s.mayApply p || s.atomWaits ea then s.passed
      else
        let s := s.drop p
        if s.atomArmed ea then .next ((s.isolation p.launch p.src ea).atomAnswer p ea posted (.fault 0x04 ea))
        else
          match s.atomTarget p ea key with
          | none => .next (s.atomAnswer p ea posted (.fault 0x04 ea))
          | some k =>
            if (s.badDouble k 8).isSome then .next (s.atomAnswer p ea posted (.fault 0x0E ea))
            else
              let t := s.correct k 8
              let old := t.dbl k
              let t := if op = .cas && old ≠ v then t else t.setDbl k (op.apply old v nw)
              let u := if trig && old ≠ 0 && t.dbl k = 0 then t.fire (taskKey p.launch p.dst) (bits ea 16 0) else .ok t
              u0.happen (u.map fun u => u.atomAnswer p ea posted (.value old))
    | _ => s.passed
  | none => s.passed

/-- The bank that a remote store reaches (R113): of a pair, the current shadow bank. -/
def Mast.storeBank (m : Mast) (b : Nat) : Nat :=
  match m.pairOf b with
  | some p => if p.swapped then b else p.shadow
  | none => b

/-- REMOTE_STORE_APPLY (R113) of packet `place.a`. -/
def execRemoteStoreApply (s : State) : Host.Outcome State Fault Refusal :=
  match s.packet s.place.a with
  | some p =>
    match p.kind with
    | .rstore ea bs =>
      let mast := bits ea 41 32
      let m := s.mastAt mast
      let b := bits ea 19 16
      let off := m.storeBank b * 65536 + bits ea 15 0
      let g := granules off bs.length
      if !s.mayApply p || conflict m.sb true g.1 g.2 then s.passed
      else
        let s := s.drop p
        if !m.holds p.launch b || m.isShadow b || m.touchesArmed (off / 8 * 8) 8 then .next (s.isolation p.launch p.src ea)
        else .next (s.write (bankKey mast off) bs)
    | _ => s.passed
  | none => s.passed

/-- REPLY_ARRIVE (R286) of packet `place.a`: the answer reaches the waiting context. -/
def execReplyArrive (s : State) : Host.Outcome State Fault Refusal :=
  match s.packet s.place.a with
  | some p =>
    match p.kind with
    | .answer c a =>
      match (s.ctxAt c).await with
      | .reply id d none =>
        if s.mayApply p then
          let x := s.ctxAt c
          let s := (s.drop p).putCtx c { x with await := .reply id d (some a) }
          let t := s.taskAt x.task
          .next (s.putTask x.task { t with ibRsv := t.ibRsv - (if t.ibRsv < 32 then t.ibRsv else 32) })
        else s.passed
      | _ => s.passed
    | _ => s.passed
  | none => s.passed

/-- PACKET_LEAVE (R286) of packet `place.a`: its last flit leaves, once its way has the credits that it needs (R284), and its
send share or partition gets its space back. Packets of one source, destination and network leave in order (R283). -/
def execPacketLeave (s : State) : Host.Outcome State Fault Refusal :=
  match s.packet s.place.a with
  | some p =>
    if p.left || !s.hasCredits p || !s.pathReady p || !s.inTurn p then s.passed
    else
      let s := if p.bytes = 0 then s else s.useSq p.net p.src p.launch (· - p.bytes)
      .next { s with net := s.net.map fun q => if q.id = p.id then { q with left := true } else q }
  | none => s.passed

/-! ### Inboxes (R286, R291, R292) -/

/-- Whether [off, off + n) is free of the messages of a share. -/
def Task.runFree (t : Task) (net off n : Nat) : Bool :=
  t.inbox.all fun m => decide (m.net ≠ net) || decide (off + n ≤ m.off) || decide (m.off + packetBytes m.len ≤ off)

/-- The lowest free run of a share for a message of `n` bytes: none where the share lacks room (R286). -/
def Task.runFor (t : Task) (net n : Nat) : Option Nat :=
  let size := packetBytes n
  let rsv := if net = 1 then t.ibRsv else 0
  if t.ib.get net < t.inboxUsed net + rsv + size then none
  else ((List.range ((t.ib.get net - size) / 32 + 1)).map fun i => t.ibOff.get net + 32 * i).find? fun o => t.runFree net o size

/-- MSG_ARRIVE (R286) of packet `place.a`. A packet to a task that is gone is discarded (R301). -/
def execMsgArrive (s : State) : Host.Outcome State Fault Refusal :=
  match s.packet s.place.a with
  | some p =>
    match p.kind with
    | .msg bs inl =>
      let k := taskKey p.launch p.dst
      let t := s.taskAt k
      if !s.mayApply p then s.passed
      else if !t.live || (s.launchAt p.launch).killed then .next (s.drop p)
      else
        match t.runFor p.net bs.length with
        | none => s.passed
        | some off =>
          let s := (s.drop p).write (localKey p.dst off) bs
          let t := s.taskAt k
          .next (s.putTask k { t with inbox := t.inbox ++ [⟨p.net, Word.of p.src, bs.length, inl, off, false, 0⟩] })
    | _ => s.passed
  | none => s.passed

/-- The message that a strand takes next: its task's key and its place in the inbox (R291). A task whose sixteen contexts live
takes none (R79). -/
def State.nextMessage (s : State) (core : Nat) : Option (Nat × Nat × Msg) :=
  [1, 3, 0].findSome? fun net => ((s.tasksOf core).filter fun p => (s.freeArea p.1).isSome).findSome? fun p =>
    (p.2.inbox.zipIdx.find? fun q => !q.1.taken && decide (q.1.net = net)).map fun q => (p.1, q.2, q.1)

/-- The kind of a message's context. -/
def msgKind (net : Nat) : CtxKind := if net = 1 then .rep else if net = 3 then .sys else .req

/-- The dispatch of a message (R292). DEDUCED (log entry 78): a message is inline where SENDI has sent it (R288's two forms), whatever double 0 of
a SEND begins with. -/
def State.dispatchMsg (s : State) (core strand k ix : Nat) (m : Msg) : State :=
  let base := localAddr m.off
  let head := s.dbl (localKey core m.off)
  let n := bits head 52 48
  let skip := if m.inl then 8 + 8 * ((n + 1) / 2) else 8
  let pc := if m.inl then base + 8 else head
  let p := s.newCtx k strand (msgKind m.net) pc (base + Word.of skip) m.source (Word.of (m.len - skip))
  let s := p.2.focus p.1
  let s := s.setTask { s.task with inbox := s.task.inbox.set ix { m with taken := true, ctx := p.1 } }
  let s := s.setCtx { s.ctx with msgOff := m.off, msgLen := m.len, msgCode := if m.inl then n else 0 }
  if m.inl || (bits head 1 0 = 0 && s.task.inHbnd head) then s
  else
    let s := if m.source.toNat < 65536 then s.emitUnit 1 core m.source.toNat s.cur.launch 32 .errReply else s
    s.trapEntry 0x06 head 0 head

/-- MSG_DISPATCH (R291, R292) by strand `place.b` of core `place.a`. -/
def execMsgDispatch (s : State) : Host.Outcome State Fault Refusal :=
  let core := s.place.a
  if s.mayTakeNew core s.place.b then
    match s.nextMessage core with
    | some (k, ix, m) => .next (s.dispatchMsg core s.place.b k ix m)
    | none => s.passed
  else s.passed

/-- ERROR_REPLY (R292) of packet `place.a`. -/
def execErrorReply (s : State) : Host.Outcome State Fault Refusal :=
  match s.packet s.place.a with
  | some p =>
    match p.kind with
    | .errReply =>
      if s.mayApply p then
        let k := taskKey p.launch p.dst
        let s := s.drop p
        let t := s.taskAt k
        .next (s.putTask k { t with mfault := Nat.min (t.mfault + 1) (2 ^ 32 - 1) })
      else s.passed
    | _ => s.passed
  | none => s.passed

/-! ### Long links (R284) -/

/-- LINK_RETRAIN (R284) of link `place.a`: a retrain begins, or the one that runs ends. No packet is lost or reordered. -/
def execLinkRetrain (s : State) : Host.Outcome State Fault Refusal :=
  let l := s.linkAt s.place.a
  if l.up then .next { s with links := s.links.set s.place.a { l with training := !l.training } }
  else s.passed

/-- LINK_REROUTE (R284) of link `place.a`: a retrain that lasts too long moves the link's traffic to the path through the
pair's lower-numbered other quadrant. -/
def execLinkReroute (s : State) : Host.Outcome State Fault Refusal :=
  let l := s.linkAt s.place.a
  if l.up && l.training && !l.rerouted then
    .next { s with links := s.links.set s.place.a { l with rerouted := true } }
  else s.passed

end Sys2Proof.Machine
end

