-- ==== Sys2Proof/Machine/Csr.lean ====
section
/-! DEFINITION. Control and status registers (R103 to R106, R130, R131, R147, R188, R255, R260, R287, R307, R312, R354, R381)
and system calls (R375). -/

namespace Sys2Proof.Machine

/-- The illegal-instruction trap of a CSR instruction whose number is reserved on its engine: field 5 and its word (R39). -/
def State.csrIllegal (s : State) (i : Instr) : Stop := .trap 0x01 s.pc (Word.of (5 * 2 ^ 32 + (encode i).headD 0))

/-- Whether an access to CSR `n` is privileged on the engine that acts: the trap 0x15 with the number (R103, R104, R312). -/
def State.csrPrivilege (s : State) (n : Nat) : Ex Unit :=
  need (!csrClosed n && (s.engine ≠ .mast || !hartCsr n)) (.trap 0x15 s.pc (Word.of n))

/-- Whether CSR `n` exists on the engine that acts. -/
def State.csrExists (s : State) (n : Nat) : Bool := csrOn s.engine n

/-- Whether CSR `n` can be read on the engine that acts. -/
def State.csrReadable (s : State) (n : Nat) : Bool := csrReads s.engine n

/-- tstat (R105). -/
def Context.tstat (c : Context) : Word :=
  Word.of (c.dcause.toNat * 256 + (if c.eamask then 4 else 0) + (if c.inui then 2 else 0) + (if c.intrap then 1 else 0))

/-- Four 16-bit fields. -/
def pack4 (a b c d : Nat) : Word := Word.of (a + b * 2 ^ 16 + c * 2 ^ 32 + d * 2 ^ 48)

/-- bheld (R131). -/
def State.bheld (s : State) : Word :=
  let m := s.mast
  let mask (f : Nat → Bool) : Nat := ((List.range 16).map fun k => if m.holds s.cur.launch k && f k then 2 ^ k else 0).sum
  pack4 (mask fun _ => true) (mask fun k => (m.banks.get k Bank.init).pinned) (mask m.paired) 0

/-- eheld (R260). -/
def State.eheld (s : State) : Word :=
  let m := s.mast
  Word.of (((List.range 16).map fun e => if (m.envH s.cur.launch e).held then 2 ^ e else 0).sum
    + m.freeCells s.cur.launch * 2 ^ 16)

/-- The value of a CSR of a mast core. -/
def State.csr (s : State) (n : Nat) : Word :=
  let c := s.ctx
  let t := s.task
  match n with
  | 0x000 => s.core.cyc
  | 0x010 => c.trapcause.zeroExtend 64
  | 0x011 => c.trapaddr
  | 0x012 => c.trappc
  | 0x013 => c.trapinfo
  | 0x014 => t.tvec
  | 0x015 => c.tstat
  | 0x018 => Word.ofBool c.uien
  | 0x019 => c.uicause.zeroExtend 64
  | 0x01A => c.xid
  | 0x01B => c.uipc
  | 0x01C => t.uivec
  | 0x020 => c.parkthr
  | 0x021 => c.wspb
  | 0x022 => c.wspl
  | 0x023 => c.wsp
  | 0x024 => Word.of c.loops.length
  | 0x040 => Word.of t.nlsz
  | 0x041 => Word.of t.nhsz
  | 0x042 => t.nhbase
  | 0x060 => t.rtbase
  | 0x061 => Word.of t.nkind
  | 0x062 => t.dsbase
  | 0x063 => t.dslim
  | 0x064 => Word.of t.sdom
  | 0x065 => c.cur0
  | 0x066 => c.cur1
  | 0x067 => t.cbase
  | 0x080 => pack4 (t.sqFree 0) (t.sqFree 1) (512 - s.core.stealSq) (t.sqFree 3)
  | 0x081 => pack4 t.sq.req t.sq.rep 512 t.sq.sys
  | 0x082 => pack4 t.ib.req t.ib.rep 1024 t.ib.sys
  | 0x083 => Word.of (t.hhi * 2 ^ 32 + t.hlo)
  | 0x084 => Word.of t.mfault
  | 0x085 => Word.ofBool t.spread
  | 0x086 => Word.of (t.bind.length + t.pendTrig.length * 256)
  | 0x0A0 => Word.of c.vl
  | 0x0A1 => Word.of c.vgrant
  | 0x0A2 => Word.of c.vwant
  | 0x0A3 => Word.ofBool c.vpend
  | 0x0C0 => c.etol
  | 0x0C1 => c.estat
  | 0x0C2 => Word.of ((if c.eopValid then 2 ^ 16 else 0) + c.eopTag.toNat)
  | 0x0C3 => s.eheld
  | 0x0E0 => t.binj
  | 0x0E1 => Word.of t.bcec
  | 0x0E2 => localAddr t.locb
  | 0x0E3 => localAddr t.locl
  | 0x0E4 => s.bheld
  | 0x100 => c.hsrc
  | 0x101 => c.hdst
  | 0x102 => c.hlen
  | 0x103 => c.hstr
  | 0x104 => c.hpb
  | 0x105 => c.harg
  | 0x106 => c.hctl
  | 0x108 => Word.of ((64 - s.mast.hy1.journal.length) * 2 ^ 16 + (64 - s.mast.hy0.journal.length))
  | 0x120 => Word.of t.asid
  | 0x121 => Word.of t.xrefill
  | 0x122 => t.xrange
  | _ => 0

/-- The value of a CSR on a tackle core (R381). -/
def State.csrTackle (s : State) (n : Nat) : Word :=
  if n = 0x0E2 then 0
  else if n = 0x0E3 then 0x4000
  else if n = 0x083 ∨ n = 0x085 then s.csr n
  else if (0x080 ≤ n ∧ n ≤ 0x09F) ∨ (0x0E0 ≤ n ∧ n ≤ 0x0FF) then 0
  else s.csr n

/-- The value of a CSR on a hart (R312); mvgo is write-only, so it reads as zero (R9). -/
def State.csrHart (s : State) (n : Nat) : Word :=
  let y := s.mast.hy (hyNo s.cur.core)
  if n = 0x110 then y.mvsrc else if n = 0x111 then y.mvdst else if n = 0 then s.core.cyc else 0

/-- CSRR (R103). -/
def execCsrr (d : Reg) (csr : BitVec 12) (s : State) : Host.Outcome State Fault Refusal :=
  s.finish (do
    let n := csr.toNat
    s.csrPrivilege n
    need (s.csrReadable n) (s.csrIllegal (.csrr d csr))
    .ok (s.result 1 d (match s.engine with | .mast => s.csr n | .tackle => s.csrTackle n | .hart => s.csrHart n)))

/-- The CSRs whose Task write column reads "trap". -/
def csrWriteTraps (n : Nat) : Bool :=
  [0x021, 0x022, 0x040, 0x041, 0x042, 0x060, 0x061, 0x062, 0x063, 0x081, 0x082, 0x083, 0x085, 0x0E2, 0x0E3].contains n

/-- Writes a CSR that a task may set; a write to any other is ignored (R9). -/
def State.setCsr (s : State) (n : Nat) (v : Word) : State :=
  let c := s.ctx
  match n with
  | 0x010 => s.setCtx { c with trapcause := v.truncate 8 }
  | 0x011 => s.setCtx { c with trapaddr := v }
  | 0x012 => s.setCtx { c with trappc := v }
  | 0x013 => s.setCtx { c with trapinfo := v }
  | 0x014 => s.setTask { s.task with tvec := v }
  | 0x015 => s.setCtx { c with eamask := bit v 2 }
  | 0x018 => s.setCtx { c with uien := bit v 0 }
  | 0x01B => s.setCtx { c with uipc := v }
  | 0x01C => s.setTask { s.task with uivec := v }
  | 0x020 => s.setCtx { c with parkthr := v }
  | 0x0C0 => s.setCtx { c with etol := v }
  | 0x100 => s.setCtx { c with hsrc := v }
  | 0x101 => s.setCtx { c with hdst := v }
  | 0x102 => s.setCtx { c with hlen := v }
  | 0x103 => s.setCtx { c with hstr := v }
  | 0x104 => s.setCtx { c with hpb := v }
  | 0x105 => s.setCtx { c with harg := v }
  | 0x106 => s.setCtx { c with hctl := v }
  | _ => s

/-- Writes a CSR of a hart. -/
def State.setHartCsr (s : State) (n : Nat) (v : Word) : State :=
  let h := hyNo s.cur.core
  let y := s.mast.hy h
  if n = 0x110 then s.setMast (s.mast.setHy h { y with mvsrc := v })
  else if n = 0x111 then s.setMast (s.mast.setHy h { y with mvdst := v })
  else s

/-- CSRW (R103). -/
def execCsrw (csr : BitVec 12) (r : Reg) (s : State) : Host.Outcome State Fault Refusal :=
  s.finish (do
    let n := csr.toNat
    s.csrPrivilege n
    need (s.csrExists n) (s.csrIllegal (.csrw csr r))
    need (!csrWriteTraps n) (.trap 0x15 s.pc (Word.of n))
    .ok ((if s.engine = .hart then s.setHartCsr n (s.reg r) else s.setCsr n (s.reg r)).advance 1))

/-- CYC (R103). -/
def execCyc (d : Reg) (s : State) : Host.Outcome State Fault Refusal := .next (s.result 1 d s.core.cyc)

/-- The fields of binj that are not zero (R130). -/
def binjFields (v : Word) : Word := v &&& 0x800F03FF000007FF

/-- Whether a write of binj is legal (R130): one that arms names a bank that the launch holds and a mask of 0, 1, 2, 4, 6 or 8
bits. -/
def State.binjOk (s : State) (v : Word) : Bool :=
  let w := popcN 8 (bits v 7 0)
  let held := s.bankOk (bits v 51 48) || (s.engine = .mast && s.mast.holds s.cur.launch (bits v 51 48))
  !bit v 63 || (held && w ≠ 3 && w ≠ 5 && w ≠ 7)

/-- BINJ_ARM, a CSRW of binj (R130). -/
def execBinjArm (r : Reg) (s : State) : Host.Outcome State Fault Refusal :=
  s.finish (do
    let v := s.reg r
    need (s.engine ≠ .hart) (s.csrIllegal (.binjArm r))
    need (s.binjOk v) (s.bad0C 0)
    .ok ((if s.engine = .tackle then s else s.setTask { s.task with binj := binjFields v }).advance 1))

/-! ### System calls (R375) -/

/-- The checks of SYSC: absent on a tackle core (R381), the sending discipline, and the room for its request. -/
def State.syscCheck (s : State) : Ex Unit := do
  need (s.engine ≠ .tackle) (s.bad0C 0)
  s.discipline
  s.needShare 3 32

/-- The queue of the launch that acts. -/
def State.queue (s : State) : Queue := s.queues.get s.launch.queue Queue.init

/-- SYSC 0: beat. -/
def execSyscBeat (d : Reg) (_a : Src) (s : State) : Host.Outcome State Fault Refusal :=
  s.finish (do
    s.syscCheck
    let s := { s with queues := s.queues.set s.launch.queue { s.queue with wcount := 0, wstep := 0 } }
    .ok (s.result 1 d 0))

/-- SYSC 1: info. -/
def execSyscInfo (d : Reg) (_a : Src) (s : State) : Host.Outcome State Fault Refusal :=
  s.finish (do
    s.syscCheck
    .ok (s.result 1 d s.task.ltask))

/-- SYSC 2: fail. The context issues nothing more, and its task dispatches nothing more (R170, R368). -/
def execSyscFail (_d : Reg) (a : Src) (s : State) : Host.Outcome State Fault Refusal :=
  s.finish (do
    s.syscCheck
    let f : Failure := ⟨0x42, bits (s.src a) 31 0, s.cur.core, s.ctx.trapaddr, s.ctx.trappc⟩
    .ok (((s.setTask { s.task with failed := true }).failLaunch s.cur.launch f).setCtx { s.ctx with status := .failed }))

end Sys2Proof.Machine
end

