-- ==== Sys2Proof/Machine/Contexts.lean ====
section
/-! DEFINITION. The life of a context on its core: parking and resumption (R80, R242) and the delivery of user-level
events (R88). -/

namespace Sys2Proof.Machine

/-! ### Parking (R80) -/

/-- The contexts of a core that are parked or resumable. -/
def State.parkedOn (s : State) (core : Nat) : Nat :=
  (s.ctxs.filter fun p => decide (p.2.core = core) && (p.2.status = .parked || p.2.status = .resumable)).length

/-- Whether the spill area can take every resident entry. -/
def Context.parkRoom (c : Context) : Bool := decide (c.wsp.toNat + 8 * (c.base + 32 - c.low) ≤ c.wspl.toNat)

/-- Whether a wait that began at `start` has lasted parkthr cycles; the greatest value never parks. -/
def parkDue (thr start now : Word) : Bool := decide (thr ≠ BitVec.allOnes 64) && decide (thr ≤ now - start)

/-- Whether a wait lets its context park: the reply of an atomic or SYSC that has left the core does not (R297). -/
def Await.parks : Await → Bool
  | .reply _ _ Option.none => false
  | _ => true

/-- Spills every resident entry, so that L is B + 32. -/
def State.spillAll (s : State) : State :=
  let p := spillGroups ((s.ctx.base + 32 - s.ctx.low) / 4) s.ctx s
  p.2.setCtx p.1

/-- PARK_CONTEXT (R80) of context `place.a`. An event of the agenda reaches this only while the wait's condition is not met
(`State.mayHappen`). -/
def execParkContext (s : State) : Host.Outcome State Fault Refusal :=
  let s := s.focus s.place.a
  let c := s.ctx
  match c.waitStart with
  | some start =>
    if c.status = .waiting && s.engine ≠ .hart && parkDue c.parkthr start s.core.cyc && s.parkedOn c.core < 12 && c.parkRoom
        && c.await.parks then
      let s := s.stopVredq.spillAll
      let s := s.setCtx { s.ctx with
        status := .parked
        waitStart := match s.ctx.await with | .park _ _ _ => s.ctx.waitStart | _ => none }
      .next (s.freeStrand s.ctx)
    else s.passed
  | none => s.passed

/-! ### Resumption (R80, R169, R242) -/

/-- The context that a free strand of a core takes: the first one signalled, of launches that run. -/
def State.nextResume (s : State) (core : Nat) : Option Nat := (s.coreAt core).parked.find? fun c => s.runs (s.ctxAt c).launch

/-- The resumption of a context on a strand: entries B to B + 31 are filled, the lane grant shrinks to the reefs in use
where pend is set, and the waiting instruction is executed again. The strand's steal round, if one ran, is over (R176); its age stays
as it is until it issues (R72). -/
def State.resumeOn (s : State) (core strand k : Nat) : State :=
  let co := s.coreAt core
  let s := s.putCore core { co with
    parked := co.parked.filter fun c => decide (c ≠ k)
    strands := co.strands.modify strand fun st => { st with ctx := some k, stealAt := none, resting := false } }
  let s := s.focus k
  let p := fillGroups 64 { shrinkGrant s.ctx with status := .running, strand := strand } s
  p.2.setCtx p.1

/-- RESUME_CONTEXT (R80) by strand `place.b` of core `place.a`. -/
def execResumeContext (s : State) : Host.Outcome State Fault Refusal :=
  let core := s.place.a
  let co := s.coreAt core
  if (co.strand s.place.b).idle && !co.cfence then
    match s.nextResume core with
    | some k => .next (s.resumeOn core s.place.b k)
    | none => s.passed
  else s.passed

/-! ### Reefs for the resumptions of pre-empted contexts (R241, R242) -/

/-- The pool of a mast serves the resumptions that wait, oldest first: each takes the reefs of its elements and joins its core's line
of signalled contexts. The first that does not find its reefs sets pend in their holders. `fuel` bounds their number. -/
def State.serveReefs : Nat → Nat → State → State
  | 0, _, s => s
  | f + 1, mast, s =>
    match s.firstReefs mast with
    | none => s
    | some k =>
      let c := s.ctxAt k
      if (c.vl + 15) / 16 ≤ s.freeReefs mast then
        let s := s.putMast mast { s.mastAt mast with reefWait := (s.mastAt mast).reefWait.filter fun x => decide (x ≠ k) }
        let s := s.putCtx k { c with vgrant := up16 c.vl, status := .resumable }
        State.serveReefs f mast (s.putCore c.core ((s.coreAt c.core).resumable k))
      else s.setPend mast k

/-- Every pool serves its waiting resumptions. -/
def State.servePools (s : State) : State :=
  (s.masts.filter fun m => !m.2.reefWait.isEmpty).foldl (fun s m => State.serveReefs m.2.reefWait.length m.1 s) s

/-! ### User-level events (R88) -/

/-- A mast in whose lines of waiting registrations and ring slots a context stands no longer. -/
def Mast.forget (m : Mast) (l k : Nat) : Mast :=
  { m with
    sbWait := m.sbWait.filter fun w => !(decide (w.2 = .issue k))
    rings := m.rings.map fun p =>
      if p.1 / 32 = l then (p.1, { p.2 with waitTake := leaveWaiters p.2.waitTake k, waitResv := leaveWaiters p.2.waitResv k }) else p }

/-- Whether a context stands in a line of a mast. -/
def Mast.inLine (m : Mast) (l k : Nat) : Bool :=
  (m.sbWait.any fun w => decide (w.2 = .issue k)) ||
    m.rings.any fun p => decide (p.1 / 32 = l) && ((p.2.waitTake.any fun w => decide (w.1 = k)) || p.2.waitResv.any fun w => decide (w.1 = k))

/-- A wait of a context is over: it stands in no line of its mast any more. A wait that starts again joins behind (R134, R204). -/
def State.leaveLines (s : State) (k : Nat) : State :=
  let c := s.ctxAt k
  if engineOf c.core ≠ .mast || !(s.mastAt (mastOf c.core)).inLine c.launch k then s
  else s.putMast (mastOf c.core) ((s.mastAt (mastOf c.core)).forget c.launch k)

/-- deliver(ev) of the oldest pending event. A PARK that waits completes with 0 first (R81); any other wait starts again after the
handler. -/
def State.deliver (s : State) : State :=
  let s := s.leaveLines s.cur.ctx
  let s := match s.ctx.await with | .park d _ _ => s.result 1 d 0 | _ => s.stopVredq
  match s.ctx.pending with
  | [] => s
  | e :: es =>
    let s := s.setCtx { s.ctx with
      uicause := e.source, xid := e.id, uipc := s.ctx.pc, inui := true, pending := es, status := .running
      waitStart := none, await := .none }
    (s.slideUp 32).setPc (if e.handler ≠ 0 then e.handler else s.task.uivec)

/-- DELIVER_EVENT (R88) of context `place.a`. -/
def execDeliverEvent (s : State) : Host.Outcome State Fault Refusal :=
  let s := s.focus s.place.a
  if s.deliverable && !s.core.cfence && s.runs s.cur.launch then .next s.deliver else s.passed

end Sys2Proof.Machine
end

