-- ==== Sys2Proof/Machine/Image.lean ====
section
/-! DEFINITION. The checks of a launch (R362, R364, R367): the image's rules (R192, R382, R407, R408), its ranges (R348), its
resources and its root. -/

namespace Sys2Proof.Machine

/-- Whether the elements of a list differ from each other. -/
def distinct : List Nat → Bool
  | [] => true
  | x :: xs => !xs.contains x && distinct xs

/-! ### The image (cause 1) -/

/-- The bytes of the code image. -/
def imageCode (i : Image) : Nat := 4 * i.text.length

/-- The offsets at which an instruction of a section begins, and that of its end: `skip` words of an instruction are left, and
`off` is where the list begins (R19). -/
def labelPlaces : Nat → Nat → List IWord → List Nat
  | _, off, [] => [off]
  | 0, off, w :: ws => off :: labelPlaces (opWords (fld w.toNat 31 24) - 1) (off + 4) ws
  | skip + 1, off, _ :: ws => labelPlaces skip (off + 4) ws

/-- Whether an offset is that of a label of the text: of one of its instructions or of its end (R403, R407). -/
def inText (i : Image) (off : Nat) : Bool := (labelPlaces 0 0 i.text).contains off

/-- The resource declarations (R407). -/
def resourcesOk (i : Image) : Bool :=
  decide (1 ≤ i.banks) && decide (i.banks ≤ 16) && decide (i.rings ≤ 32) && decide (i.tiles ≤ 8)
    && decide (1 ≤ i.yq) && decide (i.yq ≤ 16) && decide (i.bars ≤ 64)
    && (match i.env with
        | some (h, c) => decide (1 ≤ h) && decide (h ≤ 16) && decide (1 ≤ c) && decide (c ≤ 4096)
        | none => true)
    && decide (i.nstoreL % 4096 = 0) && decide (4096 ≤ i.nstoreL) && decide (i.nstoreL ≤ 65536) && decide (i.nstoreH ≤ 2 ^ 20)
    && decide (i.wspill % 32 = 0) && decide (1024 ≤ i.wspill)
    && decide (i.ldata % 256 = 0) && decide (256 ≤ i.ldata) && decide (i.ldata ≤ 65536)
    && decide (1 ≤ i.dspill) && decide (i.dspill ≤ 65536)

/-- The network shares (R285). -/
def sharesOk (i : Image) : Bool :=
  let ok (lo hi n : Nat) : Bool := decide (n % 32 = 0) && decide (lo ≤ n) && decide (n ≤ hi)
  ok 32 2048 i.sq.1 && ok 32 1024 i.sq.2.1 && ok 32 512 i.sq.2.2
    && ok 256 4096 i.ib.1 && ok 256 2048 i.ib.2.1 && ok 256 1024 i.ib.2.2

/-- Kinds, rules, constants and code tables (R27, R124, R172). -/
def tablesOk (i : Image) : Bool :=
  decide (1 ≤ i.nkind) && decide (i.nkind ≤ 4095)
    && i.rules.all (fun r => decide (r.1 < i.nkind) && decide (r.2.1 < i.nkind) && inText i r.2.2)
    && distinct (i.rules.map fun r => Nat.max r.1 r.2.1 * 4096 + Nat.min r.1 r.2.1)
    && i.consts.all (fun c => decide (8 ≤ c.1) && decide (c.1 < 512)) && distinct (i.consts.map (·.1))
    && i.ctab.all (fun c => decide (c.1 < 16)) && distinct (i.ctab.map (·.1))

/-- The labels of the code image (R340, R365, R407). -/
def labelsOk (i : Image) : Bool :=
  inText i i.entry && decide (i.entry < 2 ^ 22)
    && (match i.tvec with | some o => inText i o | none => true)
    && (match i.uivec with | some o => inText i o | none => true)
    && (match i.hbnd with
        | some (lo, hi) => inText i lo && inText i hi && decide (lo < hi)
        | none => true)

/-- Nodes, wires and host bindings (R192, R408): every port up to a node's arity is named exactly once, and no other. -/
def netOk (i : Image) : Bool :=
  let ends := i.wires.flatMap (fun w => [w.1, w.2]) ++ i.hbinds.map (·.2)
  let key (p : IPort) : Nat := 4 * p.node + p.port.val
  i.nodes.all (fun n => decide (n.kind < i.nkind) && decide (n.arity ≤ 3)
      && (match n.payload with | some o => decide (o ≤ i.data.length) | none => true))
    && ends.all (fun p => match i.nodes[p.node]? with | some n => decide (p.port.val ≤ n.arity) | none => false)
    && distinct (ends.map key) && decide (ends.length = (i.nodes.map fun n => n.arity + 1).sum)
    && i.hbinds.all (fun h => decide (h.1 ≤ 4095)) && distinct (i.hbinds.map (·.1))

/-- Halyard kernels (R305). -/
def kernelsOk (i : Image) : Bool :=
  i.hker.all (fun k => decide (16 ≤ k.1) && decide (k.1 ≤ 31) && (labelPlaces 0 0 i.hcode).contains k.2)
    && distinct (i.hker.map (·.1))

/-- The number of a tackle. -/
def tackleNo (p t : Nat) : Nat := 2 * p + t

/-- One operation of a graph (R382). -/
def graphOpOk (qs : List (Nat × Nat)) (o : GOp) : Bool :=
  let known (q : Nat) : Bool := qs.any fun x => decide (x.1 = q)
  let n := o.ins.length
  decide (3 ≤ o.core) && decide (o.core ≤ 6) && known o.out && o.ins.all known && !o.dst.isEf8 && !o.src.isEf8
    && (match o.kind with
        | .sum | .max => decide (2 ≤ n) && decide (n ≤ 4)
        | .fwd | .cvt | .zpack | .zunpack => decide (n = 1))

/-- Tackles and their graphs (R380, R382). -/
def tacklesOk (i : Image) : Bool :=
  i.tacks.all (fun t => decide (t.1 < 16) && decide (t.2.1 < 2) && inText i t.2.2)
    && distinct (i.tacks.map fun t => tackleNo t.1 t.2.1)
    && distinct (i.tgraphs.map (·.1))
    && i.tgraphs.all fun g =>
      (i.tacks.any fun t => decide (tackleNo t.1 t.2.1 = g.1))
        && g.2.1.all (fun q => decide (q.1 < 16) && decide (2 ≤ q.2) && decide (q.2 ≤ 64)) && distinct (g.2.1.map (·.1))
        && decide ((g.2.1.map (·.2)).sum ≤ 256) && decide (g.2.2.length ≤ 8) && g.2.2.all (graphOpOk g.2.1)

/-- Whether an image is well formed (cause 1). -/
def imageOk (i : Image) : Bool :=
  resourcesOk i && sharesOk i && tablesOk i && labelsOk i && netOk i && kernelsOk i && tacklesOk i

/-! ### The ranges (cause 2) -/

/-- A range of a launch's table (R348), from its three doubles; none where a field breaks the rule. -/
def rangeOfWords (a b c : Word) : Option Range :=
  let r : Range := ⟨bits a 56 0, b.toNat, bits c 7 4, bit c 0⟩
  if bits a 63 57 = 0 ∧ r.vbase % 65536 = 0 ∧ r.len % 65536 = 0 ∧ 65536 ≤ r.len ∧ r.vbase + r.len ≤ 2 ^ 57
      ∧ bits c 63 8 = 0 ∧ bits c 3 1 = 0 ∧ r.kind ≤ 4 ∧ (r.kind = 4 → !r.w) ∧ (r.kind = 1 → r.w) ∧ (r.kind = 2 → r.w)
  then some r else none

/-- The range table at a physical address, or none. -/
def State.readRanges (s : State) (pa : Nat) : Nat → Option (List Range)
  | 0 => some []
  | n + 1 =>
    match rangeOfWords (s.dbl pa) (s.dbl (pa + 8)) (s.dbl (pa + 16)), s.readRanges (pa + 24) n with
    | some r, some rs => some (r :: rs)
    | _, _ => none

/-- Whether no two ranges overlap. -/
def rangesApart : List Range → Bool
  | [] => true
  | r :: rs => (rs.all fun q => decide (r.vbase + r.len ≤ q.vbase) || decide (q.vbase + q.len ≤ r.vbase)) && rangesApart rs

/-- The first range of kind heap (R348). -/
def heapRange (rs : List Range) : Range := (rs.find? fun r => decide (r.kind = 0)).getD ⟨0, 0, 0, false⟩

/-- The rule table's address (R348). -/
def ruleTable (i : Image) (r : Range) : Nat := r.vbase + r.len - 64 * ((4 * i.nkind * (i.nkind + 1) + 63) / 64)

/-- Segments of `size` bytes in the ranges of a kind, in order; `n` at most. -/
def carve (rs : List Range) (kind size n : Nat) : List Nat :=
  ((rs.filter fun r => decide (r.kind = kind)).flatMap fun r =>
    (List.range (Nat.min n (if size = 0 then n else r.len / size))).map fun j => r.vbase + j * size).take n

/-- The bytes between the heap node stores of two tasks: each store's base is a multiple of 64 KiB (R147). -/
def nodeStep (slots : Nat) : Nat := (64 * slots + 65535) / 65536 * 65536

/-- The masts of a partition, in the order of their ids. -/
def Partition.masts (p : Partition) : List Nat :=
  (List.range p.h).flatMap fun j => (List.range p.w).map fun i => (p.y0 + j) * 32 + p.x0 + i

/-- The cores of a partition. -/
def Partition.cores (p : Partition) : List Nat := p.masts.flatMap fun m => (List.range 8).map fun c => 8 * m + c

/-- The core of a number in the partition's frame (R192); none outside it. -/
def Partition.coreOf (p : Partition) (k : Nat) : Option Nat :=
  let x := k / 8 % 32
  let y := k / 256
  if x < p.w ∧ y < p.h then some (((p.y0 + y) * 32 + p.x0 + x) * 8 + k % 8) else none

/-- Whether the ranges serve the image on `n` cores (cause 2). -/
def rangesOk (i : Image) (imageVa : Word) (rs : List Range) (n : Nat) : Bool :=
  let h := heapRange rs
  rangesApart rs && rs.any (fun r => decide (r.kind = 0))
    && (match rangeOf rs imageVa.toNat (imageCode i) with | some r => decide (r.kind = 4) | none => false)
    && decide ((carve rs 2 (2048 * i.dspill) n).length = n)
    && (decide (i.nstoreH = 0) || decide ((carve rs 1 (nodeStep i.nstoreH) n).length = n))
    && decide (64 * ((4 * i.nkind * (i.nkind + 1) + 63) / 64) ≤ h.len) && decide (h.vbase + i.data.length ≤ ruleTable i h)

/-! ### The resources (cause 3) -/

/-- The size of a task's piece of local data (R111). -/
def pieceSize (i : Image) : Nat := 4096 + i.nstoreL + 16 * i.wspill + i.ldata

/-- The units of 256 bytes that the halyard code takes (R305). -/
def ucodeUnits (i : Image) : Nat := (4 * i.hcode.length + 255) / 256

/-- Whether the resources fit in the partition with no other launch resident (cause 3). -/
def fitsAlone (i : Image) (p : Partition) : Bool :=
  decide (pieceSize i ≤ 0x18000) && decide (ucodeUnits i ≤ 16)
    && i.nodes.all (fun n => (p.coreOf n.core).isSome)
    && i.nodes.all (fun n => decide ((i.nodes.filter fun m => decide (m.core = n.core)).length ≤ i.nstoreL / 64))

/-- The cause of a launch's rejection: the lowest that applies (R364). -/
def rejection (img : Option Image) (imageVa : Word) (rs : Option (List Range)) (root : Nat) (p : Partition) : Option Nat :=
  match img with
  | none => some 1
  | some i =>
    if !imageOk i then some 1
    else
      match rs with
      | none => some 2
      | some rs =>
        if !rangesOk i imageVa rs p.cores.length then some 2
        else if !fitsAlone i p then some 3
        else if !isHbm root then some 4
        else none

end Sys2Proof.Machine
end

