-- ==== Sys2Proof/Machine/Ef8.lean ====
section
/-! DEFINITION. EF8 tiles (R60 to R69): code tables, decoding with its faults, and writing within a budget. -/

namespace Sys2Proof

/-! ### Code tables (R63) -/

/-- The code length of a symbol. -/
def codeLen (t : Word) (sym : Nat) : Nat := bits t (4 * sym + 3) (4 * sym)

/-- A code: its length, its value and its symbol. -/
structure Code where
  len : Nat
  val : Nat
  sym : Nat
  deriving DecidableEq, Repr

/-- The symbols that have codes, sorted by length and then symbol. -/
def codeOrder (t : Word) : List (Nat × Nat) :=
  (List.range 15).flatMap fun l => ((List.range 16).filter fun s => decide (codeLen t s = l + 1)).map fun s => (l + 1, s)

/-- The canonical codes of a sorted list: `prev` is the length and value of the code before. -/
def codesFrom : Option (Nat × Nat) → List (Nat × Nat) → List Code
  | _, [] => []
  | none, (l, s) :: r => ⟨l, 0, s⟩ :: codesFrom (some (l, 0)) r
  | some (pl, pv), (l, s) :: r => let v := (pv + 1) * 2 ^ (l - pl); ⟨l, v, s⟩ :: codesFrom (some (l, v)) r

/-- The codes of a table. -/
def codesOf (t : Word) : List Code := codesFrom none (codeOrder t)

/-- Whether a table keeps R63: lengths of at most 8, and the sum of 2^(-length) at most 1. -/
def tableOk (t : Word) : Bool :=
  let cs := codeOrder t
  cs.all (fun p => decide (p.1 ≤ 8)) && decide ((cs.map fun p => 2 ^ (8 - p.1)).sum ≤ 256)

/-! ### Bit streams -/

/-- The bits of a byte, bit 7 first. -/
def byteBits (b : Byte) : List Bool := (List.range 8).map fun i => b.getLsbD (7 - i)

/-- The number whose bits, most significant first, are given. -/
def bitsNum (bs : List Bool) : Nat := bs.foldl (fun n b => 2 * n + (if b then 1 else 0)) 0

/-- The bits of a number, most significant first. -/
def numBits (len n : Nat) : List Bool := (List.range len).map fun i => n / 2 ^ (len - 1 - i) % 2 = 1

/-- The code that a stream begins with. -/
def matchCode (cs : List Code) (bs : List Bool) : Option Code :=
  cs.find? fun c => decide (c.len ≤ bs.length) && decide (bitsNum (bs.take c.len) = c.val)

/-- Reads `n` tokens: the symbols and the bits that remain. -/
def readTokens (cs : List Code) : Nat → List Bool → Option (List Nat × List Bool)
  | 0, bs => some ([], bs)
  | n + 1, bs =>
    match matchCode cs bs with
    | none => none
    | some c =>
      match readTokens cs n (bs.drop c.len) with
      | none => none
      | some (ts, r) => some (c.sym :: ts, r)

/-- The bytes of a stream of bits, bit 7 first, padded with zeros. `fuel` bounds their number. -/
def packBits : Nat → List Bool → List Byte
  | 0, _ => []
  | f + 1, bs => if bs.isEmpty then [] else
      let h := bs.take 8
      BitVec.ofNat 8 (bitsNum h * 2 ^ (8 - h.length)) :: packBits f (bs.drop 8)

/-! ### Elements (R47, R48, R62) -/

/-- Rebuilds an element from its nibble and its symbol. -/
def joinElem (nib sym : Nat) : Nat := (nib / 8) * 128 + sym * 8 + nib % 8

/-- The nibble of an element: its sign and its low three bits. -/
def nibbleOf (x : Nat) : Nat := x / 128 % 2 * 8 + x % 8

/-- The symbol of an element: its bits [6:3]. -/
def symbolOf (x : Nat) : Nat := x / 8 % 16

/-! ### Decoding (R60, R65, R67) -/

/-- The half at an offset. -/
def halfAt (bs : List Byte) (off : Nat) : Nat := ofBytes ((bs.drop off).take 2)

/-- A decoded block: its place in the tile, its size and its 32 elements. `lost` says that a byte of it could not be read. -/
structure Ef8Block where
  off   : Nat
  size  : Nat
  elems : List Nat
  lost  : Bool
  deriving DecidableEq, Repr

/-- A decoded tile: its variant, its scale as an exact value, and its blocks. -/
structure Ef8Tile where
  variant : ETy
  scale   : FVal
  blocks  : List Ef8Block
  deriving DecidableEq, Repr

/-- The end of the block at an offset, by its header; none where the header breaks R67. -/
def blockEnd (bs : List Byte) (off : Nat) : Option Nat :=
  let h := halfAt bs off
  let len := h / 64 % 32
  if h % 64 ≠ 0 ∨ 24 < len ∨ (h / 2048 % 2 = 1 ∧ len ≠ 16) ∨ bs.length < off + (18 + len) then none else some (off + 18 + len)

/-- Decodes the block at an offset; none is the format fault. -/
def decodeBlock (tab : Nat → Option Word) (bs : List Byte) (off : Nat) : Option Ef8Block :=
  match blockEnd bs off with
  | none => none
  | some e =>
    let h := halfAt bs off
    let len := e - off - 18
    let plane := (bs.drop (off + 2)).take 16
    let nib (i : Nat) : Nat := (plane.getD (i / 2) 0).toNat / (if i % 2 = 0 then 1 else 16) % 16
    let stream := (bs.drop (off + 18)).take len
    let syms : Option (List Nat) :=
      if h / 2048 % 2 = 1 then some ((List.range 32).map fun i => (stream.getD (i / 2) 0).toNat / (if i % 2 = 0 then 1 else 16) % 16)
      else
        match tab (h / 4096) with
        | none => none
        | some t =>
          if !tableOk t then none
          else
            match readTokens (codesOf t) 32 (stream.flatMap byteBits) with
            | none => none
            | some (ts, r) => if r.length < 8 && r.all (!·) then some ts else none
    syms.map fun ts => ⟨off, e - off, (List.range 32).map fun i => joinElem (nib i) (ts.getD i 0), false⟩

/-- Reads the block at an offset where `bad` tells the bytes that are lost: a block with a lost byte is lost, and it takes the
format fault only for what its own header says (R315). -/
def readBlock (tab : Nat → Option Word) (bad : Nat → Bool) (bs : List Byte) (off : Nat) : Option Ef8Block :=
  if (List.range 2).any fun i => bad (off + i) then some ⟨off, 2, [], true⟩
  else
    match blockEnd bs off with
    | none => none
    | some e => if (List.range (e - off)).any fun i => bad (off + i) then some ⟨off, e - off, [], true⟩ else decodeBlock tab bs off

/-- Reads the blocks whose offsets stand at the places of a list; the offsets rise, and the block of a lost offset is lost. A block is
read at its offset, also where the blocks leave gaps, overlap or do not follow the table (log entry 76). -/
def readBlocks (tab : Nat → Option Word) (bad : Nat → Bool) (bs : List Byte) : Option Nat → List Nat → Option (List Ef8Block)
  | _, [] => some []
  | prev, p :: ps =>
    if bad p || bad (p + 1) then (readBlocks tab bad bs prev ps).map (⟨p, 2, [], true⟩ :: ·)
    else
      let o := halfAt bs p
      if (match prev with | none => false | some q => decide (o ≤ q)) then none
      else
        match readBlock tab bad bs o with
        | none => none
        | some b => (readBlocks tab bad bs (some o) ps).map (b :: ·)

/-- The scale of a tile header: 1 where absent; none where it is not a positive finite value (R65). -/
def tileScale (h : Word) : Option FVal :=
  if !bit h 31 then some (.fin false 1 0)
  else
    match ETy.fmt .f32 |>.decode (bits h 63 32) with
    | .fin false m e => if m = 0 then none else some (.fin false m e)
    | _ => none

/-- Decodes a tile of at least `need` blocks whose type code is `t`: none is the format fault (R67, R217). A tile whose header is
lost has no block. `tab` gives the
code tables that the operation may use, `bad` the bytes of uncorrectable doubles. The count of valid blocks of a tile that is not incomplete is not looked at
beyond its range (log entry 66). -/
def decodeTile (tab : Nat → Option Word) (bad : Nat → Bool) (t : ETy) (need : Nat) (bs : List Byte) : Option Ef8Tile :=
  let h := Word.of (ofBytes (bs.take 8))
  let n := bits h 10 0
  let v : ETy := if bit h 29 then .ef8b else .ef8a
  if (List.range 8).any bad then some ⟨t, .fin false 1 0, []⟩
  else if bs.length < 8 ∨ n = 0 ∨ 1024 < n ∨ n < bits h 21 11 ∨ bit h 30 ∨ bits h 28 22 ≠ 0 ∨ v ≠ t ∨ n < need then none
  else
    match tileScale h with
    | none => none
    | some sc =>
      (readBlocks tab bad bs none ((List.range n).map fun i => 8 + 2 * i)).map fun bl => ⟨v, sc, bl⟩

/-- The exact value of an element of a tile: its decoded value times the scale (R65). -/
def Ef8Tile.value (t : Ef8Tile) (x : Nat) : FVal := FVal.mul (t.variant.fmt.decode x) t.scale

/-- An exact value in a type (R52, R53). -/
def convertVal (dst : ETy) (mode : Rnd) (o : Ovf) (v : FVal) : Nat :=
  if dst.isInt then
    match v with
    | .nan => 0
    | .inf s => dst.intBits (if s then dst.minInt else dst.maxInt)
    | .fin s m e => dst.intBits (dst.sat (roundInt mode s m e))
  else dst.fmt.ofVal mode (if dst = .ef8a then .saturate else o) v

/-- An element of a tile in a type (R65): its own bits where neither a conversion nor a scale changes it. -/
def Ef8Tile.elem (t : Ef8Tile) (td : ETy) (x : Nat) : Nat :=
  if td = t.variant && t.scale = .fin false 1 0 then x else convertVal td .rne .saturate (t.value x)

/-! ### Writing (R66, R68) -/

/-- The nibble plane of 32 elements. -/
def planeOf (xs : List Nat) : List Byte :=
  (List.range 16).map fun i => BitVec.ofNat 8 (nibbleOf (xs.getD (2 * i) 0) + 16 * nibbleOf (xs.getD (2 * i + 1) 0))

/-- The bits of a coded stream; none where a symbol has no code. -/
def codeBits (cs : List Code) : List Nat → Option (List Bool)
  | [] => some []
  | x :: xs =>
    match cs.find? fun c => c.sym = symbolOf x with
    | none => none
    | some c => (codeBits cs xs).map (numBits c.len c.val ++ ·)

/-- A block of 32 elements under a code table. The table field of an escape block, and a table that breaks R63, are the
model's choices (log entry 66). -/
def encodeBlock (table : Nat) (t : Word) (xs : List Nat) : List Byte :=
  let raw : List Byte := (List.range 16).map fun i =>
    BitVec.ofNat 8 (symbolOf (xs.getD (2 * i) 0) + 16 * symbolOf (xs.getD (2 * i + 1) 0))
  let escape := toBytes 2 (table * 4096 + 2048 + 16 * 64) ++ planeOf xs ++ raw
  match codeBits (codesOf t) xs with
  | none => escape
  | some b =>
    let s := packBits 64 b
    if 24 < s.length then escape else toBytes 2 (table * 4096 + s.length * 64) ++ planeOf xs ++ s

/-- The blocks that fit whole from an offset up to a budget. -/
def blocksWithin (budget : Nat) : Nat → List (List Byte) → List (Nat × List Byte)
  | _, [] => []
  | off, b :: r => if off + b.length ≤ budget then (off, b) :: blocksWithin budget (off + b.length) r else []

/-- The bytes of a tile of the given elements (32 for each block) within a budget of at least 8 bytes, and whether it
overruns (R66, R68). DESIGN CHOICE (log entry 66): R66 does not say which scale a writer uses; it is 1.0, scalep is 0 and no scale is
written. A tile of no block or of more than 1,024 is written by the same rule. -/
def encodeTile (v : ETy) (table : Nat) (t : Word) (budget : Nat) (blocks : List (List Nat)) : List Byte × Bool :=
  let n := blocks.length
  let header (valid : Nat) (inc : Bool) : List Byte :=
    toBytes 8 ((if inc then 2 ^ 30 else 0) + (if v = .ef8b then 2 ^ 29 else 0) + valid * 2048 + n)
  if budget < 8 + 2 * n then (header 0 true, true)
  else
    let done := blocksWithin budget (8 + 2 * n) (blocks.map (encodeBlock table t))
    let offs := (List.range n).flatMap fun i => toBytes 2 ((done.getD i (0, [])).1)
    let short := decide (done.length < n)
    (header done.length short ++ offs ++ done.flatMap (·.2), short)

end Sys2Proof
end

