-- ==== Sys2Proof/Machine/Yards.lean ====
section
/-! DEFINITION. Yards (R211 to R227, R234 to R237): command records and their checks, posting, ring slots, gangs, scheduling,
the k-step (R54 to R57), the other commands, and retirement. Core numbers are those of the device; a core's place in its
mast is its number modulo 8, and its yard is half of that. -/

namespace Sys2Proof.Machine

/-! ### The record (R214, R215, R217, R221) -/

/-- Double `k` of a record. -/
def YCmd.d (c : YCmd) (k : Nat) : Word := c.dbl.getD k 0
/-- The command code. -/
def YCmd.cop (c : YCmd) : Nat := bits (c.d 0) 63 56
/-- The command priority. -/
def YCmd.prio (c : YCmd) : Nat := bits (c.d 0) 55 53
/-- Whether the command arrives at a barrier. -/
def YCmd.bar (c : YCmd) : Bool := bit (c.d 0) 52
/-- Whether the tile starts at +0. -/
def YCmd.zf (c : YCmd) : Bool := bit (c.d 0) 51
/-- Whether A is an expert batch. -/
def YCmd.bat (c : YCmd) : Bool := bit (c.d 0) 50
/-- Whether a conversion is named. -/
def YCmd.cvt (c : YCmd) : Bool := bit (c.d 0) 49
/-- The scoreboard tag. -/
def YCmd.tag (c : YCmd) : Nat := bits (c.d 0) 47 32
/-- The type code of A, or of the bank side. -/
def YCmd.fa (c : YCmd) : Nat := bits (c.d 0) 31 28
/-- The type code of B. -/
def YCmd.fb (c : YCmd) : Nat := bits (c.d 0) 27 24
/-- The rounding mode of a named conversion (R30). -/
def YCmd.rnd (c : YCmd) : Nat := bits (c.d 0) 23 22
/-- The tile view. -/
def YCmd.view (c : YCmd) : Nat := bits (c.d 0) 21 20
/-- The tile name. -/
def YCmd.tile (c : YCmd) : Nat := bits (c.d 0) 2 0
/-- The offset of the barrier object. -/
def YCmd.baddr (c : YCmd) : Nat := bits (c.d 1) 19 0
/-- The depth in elements. -/
def YCmd.depth (c : YCmd) : Nat := bits (c.d 4) 31 16
/-- The partners of a gang. -/
def YCmd.gmask (c : YCmd) : Nat := bits (c.d 5) 63 56
/-- The gang tag. -/
def YCmd.gtag (c : YCmd) : Nat := bits (c.d 5) 47 32
/-- The offset of the batch word. -/
def YCmd.boff (c : YCmd) : Nat := bits (c.d 5) 19 0

/-- The rounding mode of a code (R30). -/
def rndOf (n : Nat) : Rnd := if n = 0 then .rne else if n = 1 then .rz else if n = 2 then .ru else .rd

/-- Whether an operand descriptor has the ring form (R215). -/
def isRing (x : Word) : Bool := bit x 63
/-- The ring of a descriptor. -/
def descRing (x : Word) : Nat := bits x 4 0
/-- The offset of a bank range. -/
def descOff (x : Word) : Nat := bits x 19 0
/-- The length of a bank range. -/
def descLen (x : Word) : Nat := bits x 39 20
/-- The stride of a bank range. -/
def descStride (x : Word) : Nat := bits x 55 40

/-- The pair of input types that YMMA accepts, with the k-step depth (R217). -/
def mmaTypes (a b : Nat) : Option (ETy × ETy × Nat) :=
  match ETy.ofCode a, ETy.ofCode b with
  | some .bf16, some .bf16 => some (.bf16, .bf16, 32)
  | some x, some y =>
    if x.isEf8 && y.isEf8 then some (x, y, 64)
    else if (x = .i8 || x = .n8) && (y = .i8 || y = .n8) then some (x, y, 64)
    else none
  | _, _ => none

/-- The type of a tile view. -/
def YCmd.viewTy (c : YCmd) : ETy := if c.view = 1 then .i32 else .f32

/-- The bits of double 0 that a command code uses (R214). Every code uses prio and tag, YNOP and YZERO too (log entry 29). -/
def yardUsed (cop : Nat) (cvt : Bool) : Word :=
  let base : Word := 0xFFF0FFFF00000000
  match cop with
  | 1 => base ||| 0x000C0000FF000007
  | 2 => base ||| 7
  | 3 | 4 => base ||| 0x0002000000300007 ||| (if cvt then 0x00000000F0C00000 else 0)
  | 5 => base ||| 0x00000000F0000007
  | _ => base

/-- The doubles that must be zero for a command code. -/
def yardZeros (cop : Nat) : List Nat :=
  match cop with
  | 1 => [6, 7]
  | 3 | 4 => [3, 4, 5, 6, 7]
  | 5 => [3, 4, 6, 7]
  | _ => [2, 3, 4, 5, 6, 7]

/-! ### Checks at posting (R216) -/

/-- Whether a bank range, as the launch names it, lies in held banks that are no shadow banks. -/
def Mast.rangeHeld (m : Mast) (l off n : Nat) : Bool :=
  decide (off + n ≤ 2 ^ 20) && decide (0 < n) &&
    (List.range ((off + n - 1) / 65536 - off / 65536 + 1)).all fun i =>
      m.holds l (off / 65536 + i) && !m.isShadow (off / 65536 + i)

/-- Whether a bank range, as the launch names it, touches an armed object (R228). -/
def State.rangeArmed (s : State) (mast off n : Nat) : Bool :=
  (s.runsOf mast off n).any fun r => (s.mastAt mast).touchesArmed (keyOff r.1) r.2.2

/-- What a command asks of an operand: its rows, the bytes of a row, the size of an element, ring slots, the bytes that a
slot must have, and whether it is EF8 or written. -/
structure Operand where
  rows   : Nat
  rowLen : Nat
  size   : Nat
  slots  : Nat
  slotLen : Nat
  ef8    : Bool
  write  : Bool
  deriving DecidableEq, Repr

/-- `c` as a list of reject codes. -/
def codeIf (b : Bool) (c : Nat) : List Nat := if b then [c] else []

/-- The failed checks of an operand descriptor (R215, R216). The destination range of a ring is that of all its slots, since the one
that the command will reserve is not known yet (log entry 29). -/
def State.descCodes (s : State) (mast l : Nat) (x : Word) (o : Operand) : List Nat :=
  let m := s.mastAt mast
  if isRing x then
    codeIf (decide (bits x 62 5 ≠ 0)) 2 ++
      match m.ringOf l (descRing x) with
      | none => [6]
      | some r =>
        codeIf (o.write && s.rangeArmed mast r.base (r.size * r.count)) 3 ++
        codeIf (decide (r.count < o.slots) || decide (r.size < o.slotLen)) 6
  else
    let len := descLen x
    let held := m.rangeHeld l (descOff x) (if len = 0 then 1 else len)
    codeIf (decide (bits x 62 56 ≠ 0) || (o.ef8 && decide (descStride x ≠ 0))) 2 ++
    codeIf (!held || (o.write && s.rangeArmed mast (descOff x) len)) 3 ++
    codeIf (decide (len = 0) || (!o.ef8 && decide (0 < o.rows) && (decide (descStride x % o.size ≠ 0)
      || decide (descStride x < o.rowLen) || decide (len < (o.rows - 1) * descStride x + o.rowLen)))) 5 ++
    codeIf (o.ef8 && o.write && decide (len < 8)) 7

/-- The failed checks that every command has: zero fields, and the barrier's place. -/
def State.commonCodes (s : State) (mast l : Nat) (c : YCmd) : List Nat :=
  codeIf (decide (5 < c.cop)) 1 ++
  codeIf (decide (c.d 0 &&& ~~~(yardUsed c.cop c.cvt) ≠ 0) || (yardZeros c.cop).any (fun k => decide (c.d k ≠ 0))
    || decide (bits (c.d 1) 63 20 ≠ 0) || (c.bar && decide (c.baddr % 32 ≠ 0)) || (!c.bar && decide (c.d 1 ≠ 0))) 2 ++
  codeIf (c.bar && !((s.mastAt mast).holds l (c.baddr / 65536) && !(s.mastAt mast).isShadow (c.baddr / 65536))) 3

/-- The failed check of the tile name. -/
def State.tileCodes (s : State) (mast l : Nat) (c : YCmd) : List Nat :=
  codeIf (decide (((s.mastAt mast).grants.get l Grant.init).tiles ≤ c.tile)) 4

/-- The lowest bit of a mask of eight bits. -/
def lowBit (g : Nat) : Nat := ctzFrom 8 g 0

/-- Whether the mask of a gang YMMA passes R221's own checks for the core that posts it. -/
def gangOk (core : Nat) (c : YCmd) : Bool := decide (2 ≤ popcN 8 c.gmask) && decide (lowBit c.gmask = core % 8)

/-- Whether every partner of a gang has a task of the launch. -/
def State.partnersLive (s : State) (mast l : Nat) (c : YCmd) : Bool :=
  (List.range 8).all fun k => c.gmask / 2 ^ k % 2 = 0 || (s.taskAt (taskKey l (8 * mast + k))).live

/-- The row count of a YMMA: its field, or what the batch word gave. -/
def YCmd.rowsM (c : YCmd) : Nat := c.m

/-- The A operand of a YMMA: its first m rows (R217, log entry 76). -/
def mmaA (t : ETy) (k m : Nat) : Operand :=
  { rows := m, rowLen := k * (t.width / 8), size := t.width / 8, slots := m,
    slotLen := if t.isEf8 then 0 else k * (t.width / 8), ef8 := t.isEf8, write := false }

/-- The B operand of a YMMA. -/
def mmaB (t : ETy) (k : Nat) : Operand :=
  { rows := k, rowLen := 32 * (t.width / 8), size := t.width / 8, slots := 1,
    slotLen := if t.isEf8 then 0 else k * 32 * (t.width / 8), ef8 := t.isEf8, write := false }

/-- An operand of which only the slots that it needs are known: its type code names no type. -/
def untypedOperand (slots : Nat) (write : Bool) : Operand :=
  { rows := 0, rowLen := 0, size := 1, slots := slots, slotLen := 0, ef8 := false, write := write }

/-- The failed checks of a YMMA. A batch word in a shadow bank has code 6, as one in any bank that the launch does not read (R234, log
entry 76). -/
def State.mmaCodes (s : State) (mast core l : Nat) (c : YCmd) : List Nat :=
  let m := s.mastAt mast
  let d4 := c.d 4
  let d5 := c.d 5
  codeIf (decide (bits d4 63 32 ≠ 0) || decide (bits d4 15 6 ≠ 0) || decide (bits d5 55 48 ≠ 0) || decide (bits d5 31 20 ≠ 0)
    || (!c.bat && decide (c.boff ≠ 0)) || (decide (c.gmask = 0) && decide (c.gtag ≠ 0))) 2 ++
  codeIf (decide (c.gmask ≠ 0) && (!gangOk core c || c.bat || isRing (c.d 2) || !s.partnersLive mast l c)) 8 ++
  codeIf (c.bat && (!isRing (c.d 2) || isRing (c.d 3) || decide (c.boff % 8 ≠ 0) || !m.rangeHeld l c.boff 8)) 6 ++
  codeIf (if c.bat then decide (bits d4 5 0 ≠ 0) else decide (bits d4 5 0 = 0) || decide (32 < bits d4 5 0)) 5 ++
  codeIf (decide (c.gmask ≠ 0) && decide (bits d4 5 0 ≠ 32)) 5 ++
  codeIf (match mmaTypes c.fa c.fb with
    | none => true
    | some (_, _, dep) => decide (c.depth = 0) || decide (c.depth % dep ≠ 0)) 5 ++
  s.descCodes mast l (c.d 2) (match ETy.ofCode c.fa with | some t => mmaA t c.depth c.m | none => untypedOperand c.m false) ++
  s.descCodes mast l (c.d 3) (match ETy.ofCode c.fb with | some t => mmaB t c.depth | none => untypedOperand 1 false)

/-- The table and type of the bank side of a YLOAD or YSTORE with cvt = 0 (R219), from the register of a bank. -/
def Mast.bankFmt (m : Mast) (b : Nat) : Nat × Nat :=
  let k := m.banks.get (m.fmtBank b) Bank.init
  (k.table, k.type)

/-- The bank whose format register counts for a descriptor: that of the range's start, or of the ring's base. -/
def Mast.sideBank (m : Mast) (l : Nat) (x : Word) : Nat :=
  if isRing x then ((m.ringOf l (descRing x)).map fun r => r.base / 65536).getD 0 else descOff x / 65536

/-- The table and type code of a bank side: the type that the command names, or the register's. -/
def State.sideFmt (s : State) (mast : Nat) (c : YCmd) : Nat × Nat :=
  let m := s.mastAt mast
  let f := match c.bfmt with | some f => f | none => m.bankFmt (m.sideBank c.launch (c.d 2))
  if c.cvt then (f.1, c.fa) else f

/-- The operand of a YLOAD or YSTORE for a bank side of a type. -/
def sideOperand (t : ETy) (write : Bool) : Operand :=
  { rows := 32, rowLen := 32 * (t.width / 8), size := t.width / 8, slots := 1,
    slotLen := if t.isEf8 then 0 else 1024 * (t.width / 8), ef8 := t.isEf8, write := write }

/-- The failed checks of a YLOAD or YSTORE. -/
def State.copyCodes (s : State) (mast l : Nat) (c : YCmd) : List Nat :=
  codeIf (decide (1 < c.view)) 2 ++
  match ETy.ofCode (s.sideFmt mast c).2 with
  | none => 5 :: s.descCodes mast l (c.d 2) (untypedOperand 1 (decide (c.cop = 4)))
  | some t =>
    codeIf (c.cvt && t.isEf8 && decide (c.rnd ≠ 0)) 5 ++
      s.descCodes mast l (c.d 2) (sideOperand t (decide (c.cop = 4)))

/-- The banks that an interval covers: those of its granules, or those of its ring where it holds no slot yet. -/
def Mast.banksOf (m : Mast) (launch : Nat) (i : Interval) : List Nat :=
  let r := match i.ring with
    | some q => if i.armed then (i.lo * 32, i.hi * 32) else
        match m.ringOf launch q with
        | some r => (r.base, r.base + r.size * r.count)
        | none => (0, 0)
    | none => (i.lo * 32, i.hi * 32)
  (List.range 16).filter fun k => decide (k * 65536 < r.2) && decide (r.1 < (k + 1) * 65536)

/-- Whether a yard command decodes or encodes with code table `k`: it reads a type of EF8, whose blocks may name any table (R64), or
it writes a side in EF8 under that table (R66, R217, R219). -/
def State.yardTable (s : State) (k : Nat) (c : YCmd) : Bool :=
  let f := s.sideFmt s.mastNo c
  match c.cop with
  | 1 => decide (12 ≤ c.fa) || decide (12 ≤ c.fb)
  | 3 => decide (12 ≤ f.2)
  | 4 => decide (12 ≤ f.2) && decide (f.1 = k)
  | 5 => decide (12 ≤ c.fa)
  | _ => false

/-- Whether a halyard's transfer decodes or encodes with code table `k`: it reads an EF8 bank, or it writes an EF8 bank of that
table, or a heap side in EF8. -/
def State.transferTable (s : State) (k : Nat) (e : SbEntry) (t : Transfer) : Bool :=
  decide (12 ≤ t.htype) || e.ivals.any fun i => (s.mast.banksOf e.launch i).any fun b =>
    decide (12 ≤ (s.bank b).type) && (!i.write || decide ((s.bank b).table = k))

/-- Whether a live operation of the launch that acts decodes or encodes with code table `k` (R124). -/
def State.usesTable (s : State) (k : Nat) (e : SbEntry) : Bool :=
  decide (e.launch = s.cur.launch) &&
    (((s.coreAt (8 * s.mastNo + e.core)).yqueue.any fun c => decide (c.entry = some e.id) && s.yardTable k c) ||
      (e.kind = 3 && s.mast.transfers.any fun t => decide (t.entry = e.id) && s.transferTable k e t))

/-- The live operations of the launch on the mast that decode or encode with a table. -/
def State.codecEntries (s : State) (k : Nat) : List Nat := (s.mast.sb.filter (s.usesTable k)).map (·.seq)

/-- BFMT.tab (R124). -/
def execBfmtTab (id code : Src) (s : State) : Host.Outcome State Fault Refusal :=
  s.finish (do
    let k := (s.src id).toNat
    need (s.grant.ctabs.contains k) (s.bad0C 0)
    s.waitEntries (s.codecEntries k) fun s => (s.setMast { s.mast with ctab := s.mast.ctab.set k (s.src code) }).advance 1)

/-- The failed checks of a YGANG's tile and slice, which its gang reports (R222). -/
def State.sliceCodes (s : State) (mast l : Nat) (c : YCmd) : List Nat :=
  let x := c.d 2
  s.tileCodes mast l c ++
  (if isRing x then [8]
   else codeIf (decide (bits x 62 56 ≠ 0)) 2 ++
     codeIf (!(s.mastAt mast).rangeHeld l (descOff x) (if descLen x = 0 then 1 else descLen x)) 3 ++ codeIf (decide (descLen x = 0)) 5)

/-- The failed checks of a YGANG's own fields. -/
def State.gangFieldCodes (s : State) (mast core l : Nat) (c : YCmd) : List Nat :=
  codeIf (!s.partnersLive mast l c) 8 ++
  codeIf (decide (bits (c.d 5) 55 48 ≠ 0) || decide (bits (c.d 5) 31 0 ≠ 0)) 2 ++
  codeIf (decide (popcN 8 c.gmask < 2) || decide (c.gmask / 2 ^ (core % 8) % 2 = 0) || decide (lowBit c.gmask = core % 8)) 8

/-- The failed checks that reject a command at posting, and those that its gang reports. -/
def State.yardCodes (s : State) (mast core l : Nat) (c : YCmd) : List Nat × List Nat :=
  let common := s.commonCodes mast l c
  match c.cop with
  | 0 => (common, [])
  | 1 =>
    let all := common ++ s.tileCodes mast l c ++ s.mmaCodes mast core l c
    if c.gmask ≠ 0 && gangOk core c then ([], all) else (all, [])
  | 2 => (common ++ s.tileCodes mast l c, [])
  | 3 | 4 => (common ++ s.tileCodes mast l c ++ s.copyCodes mast l c, [])
  | 5 => (common ++ s.gangFieldCodes mast core l c, s.sliceCodes mast l c)
  | _ => (common, [])

/-- The lowest code of a list; 0 for none. -/
def lowest (l : List Nat) : Nat := l.foldl (fun a b => if a = 0 then b else Nat.min a b) 0

/-! ### Queues -/

/-- The head of a core's yard queue. -/
def State.yhead (s : State) (core : Nat) : Option YCmd := (s.coreAt core).yqueue.head?

/-- Replaces the head of a core's yard queue. -/
def State.setYhead (s : State) (core : Nat) (c : YCmd) : State :=
  s.putCore core { s.coreAt core with yqueue := c :: (s.coreAt core).yqueue.tail }

/-- Makes the slot of a command free again (R213). -/
def State.freeYSlot (s : State) (core l slot : Nat) : State :=
  let co := s.coreAt core
  let k := ySlotKey l slot
  s.putCore core { co with yslots := co.yslots.set k { co.yslots.get k YSlot.init with busy := false } }

/-- Whether a command's barrier can be reported to (R216). A bank that BPAIR has made a shadow bank since the posting takes no
arrival (log entry 29). -/
def State.barOk (s : State) (mast : Nat) (c : YCmd) : Bool :=
  c.bar && decide (c.baddr % 32 = 0) && (s.mastAt mast).holds c.launch (c.baddr / 65536)
    && !(s.mastAt mast).isShadow (c.baddr / 65536)

/-- Adds to a count of the completion record, which saturates (R367). -/
def satAdd (a b : Nat) : Nat := Nat.min (a + b) (2 ^ 32 - 1)

/-- Reports a status to a command's barrier; a rejected command without one is counted (R216, R226). -/
def State.yardReport (s : State) (mast : Nat) (c : YCmd) (st : Word) : State :=
  if s.barOk mast c then s.arrive mast c.launch ((s.mastAt mast).physOff c.baddr) st
  else if bit st 7 then
    s.putLaunch c.launch { s.launchAt c.launch with yrej := satAdd (s.launchAt c.launch).yrej 1 }
  else s

/-- The status of a rejection (R226). -/
def rejectStatus (code : Nat) : Word := Word.of (code * 65536 + 128)

/-- The read or write intervals of an operand descriptor at registration (R198, R199). -/
def Mast.descIvals (m : Mast) (write : Bool) (x : Word) : List Interval :=
  if isRing x then [⟨write, 0, 0, false, some (descRing x), 0⟩] else m.ivalsOf write (descOff x) (descLen x)

/-- The intervals of a command (R198, R234). -/
def Mast.yardIvals (m : Mast) (c : YCmd) : List Interval :=
  match c.cop with
  | 1 => m.descIvals false (c.d 2) ++ m.descIvals false (c.d 3) ++ (if c.bat then m.ivalsOf false c.boff 8 else [])
  | 3 => m.descIvals false (c.d 2)
  | 4 => m.descIvals true (c.d 2)
  | _ => m.descIvals false (c.d 2)

/-- The command of a slot's doubles. -/
def newCmd (l slot : Nat) (d : List Word) : YCmd :=
  { launch := l, slot := slot, dbl := d, entry := none, stage := .posted, reject := 0, kstep := 0, w16 := 0,
    m := bits (d.getD 4 0) 5 0, batchM := none, taken := [], bfmt := none, status := 0, member := false }

/-- The batch word of an expert batch (R234), as the yard reads it: a free value of its place and bits where its double is
uncorrectable (log entry 2). None while an older entry that conflicts is live. -/
def State.batchWord (s : State) (mast : Nat) (c : YCmd) : Option (Word × State) :=
  let m := s.mastAt mast
  if !m.rangeFree m.sb false c.boff 8 then none
  else
    let k := bankKey mast (m.physOff c.boff)
    if (s.badDouble k 8).isSome then some (Config.badDouble c.boff (s.dbl k), s) else some (s.dbl k, s.correct k 8)

/-- Seals the batch of a command (R234, R235): m is the number of tokens in its map. -/
def State.seal (s : State) (mast : Nat) (c : YCmd) : Option (YCmd × State) :=
  if c.cop = 1 && c.bat && c.boff % 8 = 0 && (s.mastAt mast).rangeHeld c.launch c.boff 8 then
    (s.batchWord mast c).map fun p =>
      let n := popcN 32 (bits p.1 31 0)
      ({ c with m := n, batchM := some n }, p.2)
  else some (c, s)

/-- Appends a command to its core's queue. -/
def State.enqueue (s : State) (core : Nat) (c : YCmd) : State :=
  s.putCore core { s.coreAt core with yqueue := (s.coreAt core).yqueue ++ [c] }

/-- The outcome of the checks of a record (R216): it is rejected at once, or stays in the queue until its gang is rejected; none
where it passes. -/
def State.postChecked (s : State) (core : Nat) (c : YCmd) : Option State :=
  let codes := s.yardCodes (core / 8) core c.launch c
  if !codes.1.isEmpty then
    some ((s.freeYSlot core c.launch c.slot).yardReport (core / 8) c (rejectStatus (lowest (codes.1 ++ codes.2))))
  else if !codes.2.isEmpty then some (s.enqueue core { c with reject := lowest codes.2 })
  else none

/-- Registers a command that has passed its checks and appends it to its queue; none while no entry is free for it (R204). -/
def State.postValid (s : State) (core : Nat) (c : YCmd) : Option State :=
  let mast := core / 8
  if c.cop = 0 || c.cop = 2 then some (s.enqueue core c)
  else
    (s.entryOn mast (core % 8) (.drain s.cur.ctx)).map fun e =>
      let s := s.endAwait mast (.drain s.cur.ctx)
      let m := s.mastAt mast
      let en : SbEntry :=
        ⟨e.1, BitVec.ofNat 16 c.tag, if c.cop = 5 then 2 else 1, core % 8, e.2, c.launch, m.yardIvals c, 0⟩
      (s.putMast mast (m.register en)).enqueue core { c with entry := some e.1 }

/-- Posting of a slot by the context that acts (R213, R216): none while the double-7 store must wait. The record is checked before
its batch is sealed, so that a rejected command reads no bank, and the sealed batch against its ring after. A command that is rejected waits for no entry
any more (R204). -/
def State.post (s : State) (core l slot : Nat) : Option State :=
  let c := newCmd l slot ((s.coreAt core).yslots.get (ySlotKey l slot) YSlot.init).dbl
  let noEntry (t : State) : State := t.endAwait (core / 8) (.drain s.cur.ctx)
  match s.postChecked core c with
  | some t => some (noEntry t)
  | none =>
    match s.seal (core / 8) c with
    | none => none
    | some (c, s) =>
      match s.postChecked core c with
      | some t => some (noEntry t)
      | none => s.postValid core c

/-! ### Ring slots (R135, R199, R218, R219) -/

/-- The ring operands of a command in the order in which their slots are taken: ring, slots, written. -/
def YCmd.rings (c : YCmd) : List (Nat × Nat × Bool) :=
  match c.cop with
  | 1 => if c.m = 0 then [] else
      (if isRing (c.d 2) then [(descRing (c.d 2), c.m, false)] else []) ++
      (if isRing (c.d 3) then [(descRing (c.d 3), 1, false)] else [])
  | 3 => if isRing (c.d 2) then [(descRing (c.d 2), 1, false)] else []
  | 4 => if isRing (c.d 2) then [(descRing (c.d 2), 1, true)] else []
  | _ => []

/-- Whether a command has its ring slots. -/
def YCmd.ringsTaken (c : YCmd) : Bool := decide (c.taken.length = c.rings.length)

/-- The intervals of the slots of ring `q` that a command has taken. -/
def Mast.takenIvals (m : Mast) (c : YCmd) (r : Ring) (write : Bool) (q : Nat) : List Interval :=
  (c.taken.filter fun t => decide (t.1 = q)).flatMap fun t => r.ivals m write q t.2.1 t.2.2

/-- Takes or reserves the slots of a head's next ring operand where they are there. A YSTORE whose slot holds an armed barrier
object by then is rejected with code 3, and one whose slot is too small for its bank's format with code 6 (R228, log entry 29). -/
def State.takeNext (s : State) (core : Nat) (c : YCmd) : Option State :=
  let mast := core / 8
  let m := s.mastAt mast
  match c.rings[c.taken.length]?, c.entry with
  | some (q, n, write), some e =>
    match m.ringOf c.launch q with
    | none => none
    | some r =>
      let first := if write then r.resv else r.take
      let ok := if write then decide (r.resv + n - r.rel ≤ r.count) else decide (n ≤ r.pub - r.take)
      if !ok then none
      else
        let r' := if write then { r with resv := r.resv + n } else { r with take := r.take + n }
        let f := if c.cop = 1 || c.cvt then none else some (m.bankFmt (r.base / 65536))
        let c := { c with taken := c.taken ++ [(q, first, n)], bfmt := f }
        let m := m.setRing c.launch q r'
        let s := s.putMast mast (m.rearm e q (m.takenIvals c r' write q))
        let small := match f with
          | none => false
          | some x => match ETy.ofCode x.2 with
            | none => true
            | some t => !t.isEf8 && decide (r.size < 1024 * (t.width / 8))
        let armed := write && s.rangeArmed mast (r.off first) r.size
        some (s.setYhead core (if armed || small then
          { c with stage := .finished, status := rejectStatus (if armed then 3 else 6) } else c))
  | _, _ => none

/-- A head that waits for ring slots takes what is there, operand by operand; `fuel` bounds their number. -/
def State.takeRings : Nat → Nat → State → State
  | 0, _, s => s
  | f + 1, core, s =>
    match s.yhead core with
    | none => s
    | some c => if c.stage = .finished then s else
        match s.takeNext core c with
        | none => s
        | some s => State.takeRings f core s

/-! ### Scheduling (R224) -/

/-- The core numbers of a command's gang, in order; of another command, its own core. -/
def gangCores (core : Nat) (c : YCmd) : List Nat :=
  if c.member then ((List.range 8).filter fun k => decide (c.gmask / 2 ^ k % 2 = 1)).map fun k => core / 8 * 8 + k else [core]

/-- The command of core `k` that belongs to a command of core `core`: the command itself, or the first YGANG of its gang. -/
def State.gangPart (s : State) (core : Nat) (c : YCmd) (k : Nat) : YCmd :=
  if k = core then c
  else ((s.coreAt k).yqueue.find? fun g => g.cop = 5 && decide (g.launch = c.launch) && decide (g.gmask = c.gmask)
    && decide (g.gtag = c.gtag)).getD c

/-- The tiles that a command needs: launch, yard of the mast, and name. -/
def State.tilesOf (s : State) (core : Nat) (c : YCmd) : List (Nat × Nat × Nat) :=
  if c.cop = 0 then []
  else (gangCores core { c with member := decide (c.cop = 1) && decide (c.gmask ≠ 0) }).map fun k =>
    (c.launch, k % 8 / 2, (s.gangPart core c k).tile)

/-- Whether a command has begun, from its first k-step on, and has not retired (R224); a command without k-steps begins with its
work. -/
def YCmd.began (c : YCmd) : Bool :=
  if c.cop = 1 then decide (0 < c.kstep) else c.stage = .finished && c.cop ≠ 0 && !bit c.status 7

/-- Whether some other begun command of the mast holds a tile that a head needs: a head, or one that a resumption has put behind the
commands of other launches (R236). -/
def State.tileHeld (s : State) (core : Nat) (c : YCmd) : Bool :=
  (List.range 8).any fun k =>
    let o := core / 8 * 8 + k
    o ≠ core && (s.coreAt o).yqueue.any fun h =>
      h.cop ≠ 5 && h.began && (s.tilesOf o h).any fun t => (s.tilesOf core c).contains t

/-- Whether the head of a core is ready. -/
def State.yready (s : State) (core : Nat) : Bool :=
  match s.yhead core with
  | none => false
  | some c => c.cop ≠ 5 && c.reject = 0 && c.stage ≠ .finished && c.ringsTaken && (c.gmask = 0 || c.cop ≠ 1 || c.member)
      && !s.tileHeld core c

/-- w of a command, in k-step units. -/
def YCmd.w (c : YCmd) : Nat := c.w16 / 16

/-- The effective priority of a command. -/
def YCmd.eff (c : YCmd) : Nat := Nat.min 15 (c.prio + c.w / 256)

/-- The two cores of a yard of a mast. -/
def yardCores (mast yard : Nat) : List Nat := [8 * mast + 2 * yard, 8 * mast + 2 * yard + 1]

/-- The core whose head a yard runs. -/
def Mast.runs (m : Mast) (yard : Nat) : Option Nat := (m.running.getD yard none)

/-- Sets the core whose head a yard runs. -/
def State.setRunning (s : State) (mast yard : Nat) (c : Option Nat) : State :=
  s.putMast mast { s.mastAt mast with running := (s.mastAt mast).running.set yard c }

/-- The better of two ready heads: effective priority, then w, then the lower core. -/
def State.better (s : State) (a b : Nat) : Nat :=
  match s.yhead a, s.yhead b with
  | some x, some y =>
    if x.eff < y.eff then b else if y.eff < x.eff then a else if x.w < y.w then b else if y.w < x.w then a else Nat.min a b
  | some _, none => a
  | _, _ => b

/-- The ready head that a yard picks. -/
def State.bestHead (s : State) (mast yard : Nat) : Option Nat :=
  match (yardCores mast yard).filter s.yready with
  | [] => none
  | [a] => some a
  | a :: b :: _ => some (s.better a b)

/-- Adds cycles of other work to w of the ready heads of a yard other than `own`. -/
def State.ageHeads (s : State) (mast yard own cycles : Nat) : State :=
  (yardCores mast yard).foldl (fun s k =>
    if k ≠ own && s.yready k then
      match s.yhead k with
      | some c => s.setYhead k { c with w16 := c.w16 + cycles }
      | none => s
    else s) s

/-- Starts or goes on with the head of a core. -/
def State.runHead (s : State) (mast yard core : Nat) : State :=
  match s.yhead core with
  | none => s
  | some c => (s.setYhead core { c with stage := .running }).setRunning mast yard (some core)

/-- A head takes over from the running command (R224). -/
def State.takeOver (s : State) (mast yard old new : Nat) : State :=
  let s := match s.yhead old with
    | none => s
    | some c => s.setYhead old { c with stage := .displaced, status := c.status ||| 4 }
  (s.runHead mast yard new).ageHeads mast yard new 8

/-- Whether an entry of a gang, or the command's own, must still wait (R201). -/
def State.gangBlocked (s : State) (mast : Nat) (cores : List Nat) : Bool :=
  let es := cores.filterMap fun k => (s.yhead k).bind (·.entry)
  es.any fun e => (s.mastAt mast).opBlocked e es

/-- Whether a chosen command has not begun and cannot yet: its tile is held, or older conflicting entries are live. -/
def State.stuck (s : State) (core : Nat) (c : YCmd) : Bool :=
  !c.began && (s.tileHeld core c || s.gangBlocked (core / 8) (gangCores core c))

/-- A chosen command that cannot begin gives way to a ready head that can, since that head may hold the entry that it waits for (R205,
log entry 29): none where there is no such head. -/
def State.giveWay (s : State) (mast yard core : Nat) (c : YCmd) : Option State :=
  ((yardCores mast yard).find? fun k => k ≠ core && s.yready k && (s.yhead k).any fun h => !s.stuck k h).map fun k =>
    (s.setYhead core { c with stage := .posted }).runHead mast yard k

/-- The yard's choice: none where it has none to make. A chosen command that cannot begin gives way (log entry 29). -/
def State.yardChoice (s : State) (mast yard : Nat) : Option State :=
  match (s.mastAt mast).runs yard with
  | none => (s.bestHead mast yard).map (s.runHead mast yard)
  | some core =>
    match s.yhead core with
    | none => none
    | some c =>
      if c.stage ≠ .ready then (if c.stage = .running && s.stuck core c then s.giveWay mast yard core c else none)
      else
        match (yardCores mast yard).find? fun k => k ≠ core && s.yready k && decide (c.eff < ((s.yhead k).getD c).eff) with
        | some k => some (s.takeOver mast yard core k)
        | none => some (s.runHead mast yard core)

/-- Whether some head of a yard finds ring slots to take. -/
def State.yardTakes (s : State) (mast yard : Nat) : Bool :=
  (yardCores mast yard).any fun k =>
    match s.yhead k with
    | some c => c.stage ≠ .finished && (s.takeNext k c).isSome
    | none => false

/-- YARD_SCHEDULE (R224) of yard `place.b` of mast `place.a`: heads take their ring slots, and the yard chooses its work. -/
def execYardSchedule (s : State) : Host.Outcome State Fault Refusal :=
  let mast := s.place.a
  let yard := s.place.b
  let took := s.yardTakes mast yard
  let s := (yardCores mast yard).foldl (fun s k => s.takeRings 2 k) s
  match s.yardChoice mast yard with
  | some s => .next s
  | none => if took then .next s else s.passed

/-- The command of code `cop` that the yard of a core runs now: the core's head, which begins only while no other holds its tile. -/
def State.running (s : State) (core cop : Nat) : Option YCmd :=
  match s.yhead core with
  | some c =>
    if c.cop = cop && c.stage = .running && (s.mastAt (core / 8)).runs (core % 8 / 2) = some core && (c.began || !s.tileHeld core c)
    then some c else none
  | none => none

/-- Ends a unit of work of a core's head: its next state, and the age of the other heads. -/
def State.worked (s : State) (core cycles : Nat) (c : YCmd) : State :=
  (s.setYhead core c).ageHeads (core / 8) (core % 8 / 2) core cycles

/-! ### Tiles -/

/-- The key of a tile. -/
def tileKey (l yard name : Nat) : Nat := l * 32 + yard * 8 + name

/-- A tile. -/
def State.tileAt (s : State) (mast l yard name : Nat) : Tile := (s.mastAt mast).tiles.get (tileKey l yard name) Tile.init

/-- Replaces a tile. -/
def State.setTile (s : State) (mast l yard name : Nat) (t : Tile) : State :=
  s.putMast mast { s.mastAt mast with tiles := (s.mastAt mast).tiles.set (tileKey l yard name) t }

/-- An element of a tile. -/
def Tile.elem (t : Tile) (i j : Nat) : Nat := (t.elems.get (32 * i + j) 0).toNat

/-- Writes the 32 elements of a row that is neither poisoned nor in error. -/
def Tile.setRow (t : Tile) (i : Nat) (xs : List Nat) : Tile :=
  { t with elems := (List.range 32).foldl (fun e j => AMap.set e (32 * i + j) (BitVec.ofNat 32 (xs.getD j 0))) t.elems }

/-- Rows 0 to m - 1 at zero bits with their poison clear. -/
def Tile.zeroRows (t : Tile) (m : Nat) : Tile :=
  let keep := ~~~(BitVec.ofNat 32 (2 ^ m - 1))
  { elems := t.elems.filter fun p => decide (32 * m ≤ p.1), poison := t.poison &&& keep, bad := t.bad &&& keep }

/-- Whether a row is poisoned. -/
def Tile.poisoned (t : Tile) (i : Nat) : Bool := t.poison.getLsbD i

/-- The bits of a set of rows. -/
def rowMask (rows : List Nat) : Nat := (rows.map fun i => 2 ^ i).sum

/-- The status of a set of rows with a kind of error, 16 operr or 32 accerr (R226). -/
def rowStatus (mask kind : Nat) : Word := if mask = 0 then 0 else Word.of (mask * 2 ^ 32 + kind)

/-- A read of rows 0 to m - 1 of a tile by its yard: a row with an uncorrectable error becomes poisoned (R227). It answers the tile
and the rows found. -/
def Tile.readRows (t : Tile) (m : Nat) : Tile × Nat :=
  let rows := rowMask ((List.range m).filter fun i => t.bad.getLsbD i)
  ({ t with poison := t.poison ||| BitVec.ofNat 32 rows, bad := t.bad &&& ~~~(BitVec.ofNat 32 rows) }, rows)

/-! ### The k-step (R54 to R57) -/

/-- A floating-point k-step of one element (R55). -/
def kstepF (acc : Nat) (ts : List FVal) : Nat :=
  let f := ETy.fmt .f32
  let all := f.decode acc :: ts
  let pinf := all.contains (.inf false)
  let ninf := all.contains (.inf true)
  if all.contains .nan || (pinf && ninf) then f.nan
  else if pinf then f.infinity false
  else if ninf then f.infinity true
  else
    let fs : List (Bool × Nat × Int) := all.filterMap fun t => match t with | .fin s m e => if m = 0 then none else some (s, m, e) | _ => none
    let exps := fs.map fun t => (Nat.log2 t.2.1 : Int) + t.2.2
    match exps with
    | [] => 0
    | x :: xs =>
      let top := xs.foldl (fun a b => if a < b then b else a) x
      let q := top - 63
      let part (t : Bool × Nat × Int) : Nat × Bool :=
        let sh := t.2.2 - q
        if 0 ≤ sh then (t.2.1 * 2 ^ sh.toNat, false)
        else (t.2.1 / 2 ^ (-sh).toNat, decide (t.2.1 % 2 ^ (-sh).toNat ≠ 0))
      let sum : Int := fs.foldl (fun (a : Int) t => if t.1 then a - (part t).1 else a + (part t).1) 0
      let sticky := fs.any fun t => (part t).2
      if sum = 0 then 0
      else f.round .rne .mode (decide (sum < 0)) (2 * sum.natAbs + (if sticky then 1 else 0)) 1 (top - 64)

/-- The exact value of a yard input; an integer is its own significand. -/
def exactOf (t : ETy) (x : Nat) : FVal :=
  if t.isInt then .fin (decide (t.intVal x < 0)) (t.intVal x).natAbs 0 else t.fmt.decode x

/-- The integer that an exact value of an integer input stands for. -/
def intOfVal : FVal → Int
  | .fin s m _ => if s then -(m : Int) else m
  | _ => 0

/-- An integer k-step of one element (R56). -/
def kstepI (acc : Nat) (a b : List FVal) : Nat :=
  let sum := (a.zip b).foldl (fun (x : Int) p => x + intOfVal p.1 * intOfVal p.2) acc
  (sum.emod (2 ^ 32 : Nat)).toNat

/-- A k-step of one element. -/
def kstepElem (int : Bool) (acc : Nat) (a b : List FVal) : Nat :=
  if int then kstepI acc a b else kstepF acc ((a.zip b).map fun p => FVal.mul p.1 p.2)

/-! ### Operands of YMMA (R217) -/

/-- The offset of the bytes of a tile or row set: where a descriptor's operand starts, with its ring slot. -/
def Mast.operandAt (m : Mast) (l : Nat) (x : Word) (slot : Nat) : Nat × Nat :=
  if isRing x then
    match m.ringOf l (descRing x) with
    | some r => (r.off slot, r.size)
    | none => (0, 0)
  else (descOff x, descLen x)

/-- The code tables that an operation of a launch may use (R124). -/
def Mast.tables (m : Mast) (l : Nat) (k : Nat) : Option Word :=
  if (m.grants.get l Grant.init).ctabs.contains k then some (m.ctab.get k 0) else none

/-- Whether some double of [off, off + n) of bank space is uncorrectable. -/
def State.bankBad (s : State) (mast off n : Nat) : Bool := (s.runsOf mast off n).any fun r => (s.badDouble r.1 r.2.2).isSome

/-- Reads and decodes an EF8 tile of bank space: blocks of which a byte is in an uncorrectable double are lost, and of a tile whose
header is, all (R227). -/
def State.readTile (s : State) (mast l : Nat) (t : ETy) (need off len : Nat) : Option Ef8Tile :=
  decodeTile ((s.mastAt mast).tables l) (fun i => s.bankBad mast (off + i) 1) t need (s.readBank mast off len).1

/-- Corrects what a read of [off, off + n) meets. -/
def State.bankCorrect (s : State) (mast off n : Nat) : State := (s.readBank mast off n).2.2

/-- The ring slots of operand A and operand B: their first slots. -/
def YCmd.slotA (c : YCmd) : Nat := (c.taken.getD 0 (0, 0, 0)).2.1
/-- The ring slot of B. -/
def YCmd.slotB (c : YCmd) : Nat := (c.taken.getD (if isRing (c.d 2) then 1 else 0) (0, 0, 0)).2.1

/-- A row of an operand: the descriptor `x`, its first slot, whether each row has its own slot, the elements of a whole row,
the row, and the elements [k0, k0 + n) wanted. It answers the exact values, and whether an uncorrectable double lies under
them. -/
def State.opRow (s : State) (mast l : Nat) (t : ETy) (x : Word) (slot : Nat) (perRow : Bool) (width i k0 n : Nat) :
    List FVal × Bool :=
  let m := s.mastAt mast
  let own := perRow && isRing x
  let at_ := m.operandAt l x (if own then slot + i else slot)
  if t.isEf8 then
    match s.readTile mast l t 0 at_.1 at_.2 with
    | none => ([], false)
    | some tile =>
      let b0 := (if own then 0 else i * (width / 32)) + k0 / 32
      let bs := (tile.blocks.drop b0).take (n / 32)
      (bs.flatMap fun b => b.elems.map tile.value, tile.blocks.isEmpty || bs.any (·.lost))
  else
    let e := t.width / 8
    let off := at_.1 + (if own then 0 else if isRing x then i * width * e else i * descStride x) + k0 * e
    ((elems n e (s.readBank mast off (n * e)).1).map (exactOf t), s.bankBad mast off (n * e))

/-- Whether an EF8 operand fails its check (R67, R218): every tile of it. -/
def State.opFault (s : State) (mast l : Nat) (t : ETy) (x : Word) (slot : Nat) (perRow : Bool) (rows width : Nat) : Bool :=
  if !t.isEf8 then false
  else
    let m := s.mastAt mast
    if perRow && isRing x then
      (List.range rows).any fun i =>
        let a := m.operandAt l x (slot + i)
        (s.readTile mast l t (width / 32) a.1 a.2).isNone
    else
      let a := m.operandAt l x slot
      (s.readTile mast l t (rows * (width / 32)) a.1 a.2).isNone

/-- The reads of an operand, corrected and counted (R129): of EF8 tiles whole, of other operands row by row. -/
def State.opCorrect (s : State) (mast l : Nat) (t : ETy) (x : Word) (slot : Nat) (perRow : Bool) (rows width : Nat) : State :=
  let m := s.mastAt mast
  let own := perRow && isRing x
  let e := t.width / 8
  if t.isEf8 && !own then s.bankCorrect mast (m.operandAt l x slot).1 (m.operandAt l x slot).2
  else
    (List.range rows).foldl (fun s i =>
      let a := m.operandAt l x (if own then slot + i else slot)
      if t.isEf8 then s.bankCorrect mast a.1 a.2
      else s.bankCorrect mast (a.1 + (if own then 0 else if isRing x then i * width * e else i * descStride x)) (width * e)) s

/-- The reads of a YMMA: every slice of its gang and B (R129, R223). -/
def State.mmaCorrect (s : State) (mast : Nat) (c : YCmd) (ta tb : ETy) (cores : List Nat) : State :=
  let s' := cores.foldl (fun t k =>
    let a := (s.yhead k).getD c
    t.opCorrect mast c.launch ta (a.d 2) a.slotA true (if a.cop = 5 then 32 else c.m) c.depth) s
  s'.opCorrect mast c.launch tb (c.d 3) c.slotB false c.depth 32

/-- One k-step of a slice (R55 to R57, R227): `a` is the slice's command with its tile, `c` the YMMA whose B it uses. -/
def State.kstep (s : State) (mast core : Nat) (c a : YCmd) (ta tb : ETy) (dep k : Nat) : State × Word :=
  let l := c.launch
  let yard := core % 8 / 2
  let m := if a.cop = 5 then 32 else c.m
  let brows := (List.range dep).map fun i => s.opRow mast l tb (c.d 3) c.slotB false 32 (k * dep + i) 0 32
  let bbad := brows.any (·.2)
  let q := (s.tileAt mast l yard a.tile).readRows m
  let step (t : Tile × List Nat) (i : Nat) : Tile × List Nat :=
    let r := s.opRow mast l ta (a.d 2) a.slotA true c.depth i (k * dep) dep
    if bbad || r.2 then (t.1, i :: t.2)
    else if t.1.poisoned i then t
    else
      (t.1.setRow i ((List.range 32).map fun j =>
        kstepElem ta.isInt (t.1.elem i j) r.1 (brows.map fun b => b.1.getD j (.fin false 0 0))), t.2)
  let r := (List.range m).foldl step (q.1, [])
  let mask := rowMask r.2
  let s := s.setTile mast l yard a.tile { r.1 with poison := r.1.poison ||| BitVec.ofNat 32 mask }
  (s, rowStatus mask 16 ||| rowStatus q.2 32)

/-! ### YMMA and its gang (R218, R221 to R223) -/

/-- ORs status bits into the head of a core. -/
def State.addStatus (s : State) (core : Nat) (st : Word) : State :=
  match s.yhead core with
  | some c => s.setYhead core { c with status := c.status ||| st }
  | none => s

/-- The cores whose slice, or whose B, fails its EF8 check. One such slice keeps the whole gang from its k-steps (R218, R223, log
entry 29). -/
def State.mmaFaults (s : State) (mast : Nat) (c : YCmd) (ta tb : ETy) (cores : List Nat) : List Nat :=
  if s.opFault mast c.launch tb (c.d 3) c.slotB false c.depth 32 then cores
  else cores.filter fun k =>
    let a := (s.yhead k).getD c
    s.opFault mast c.launch ta (a.d 2) a.slotA true (if a.cop = 5 then 32 else c.m) c.depth

/-- The next k-step of a running YMMA: its slice's tile is zeroed first where zf says so. -/
def State.mmaStep (s : State) (core : Nat) (c : YCmd) (ta tb : ETy) (dep : Nat) (cores : List Nat) : State :=
  let mast := core / 8
  let per := c.depth / dep
  let k := cores.getD (c.kstep / per) core
  let a := (s.yhead k).getD c
  let s := if c.kstep % per = 0 && c.zf then
      s.setTile mast c.launch (k % 8 / 2) a.tile ((s.tileAt mast c.launch (k % 8 / 2) a.tile).zeroRows c.m) else s
  let p := s.kstep mast k c a ta tb dep (c.kstep % per)
  let s := p.1.addStatus k p.2
  let c := (s.yhead core).getD c
  let done := decide (c.kstep + 1 = per * cores.length)
  s.worked core 16 { c with kstep := c.kstep + 1, stage := if done then .finished else .ready }

/-- YMMA (R218) of core `place.a`: one k-step. -/
def execYmma (s : State) : Host.Outcome State Fault Refusal :=
  let core := s.place.a
  let mast := core / 8
  match s.running core 1 with
  | none => s.passed
  | some c =>
    match mmaTypes c.fa c.fb with
    | none => s.passed
    | some (ta, tb, dep) =>
      let cores := gangCores core c
      if c.m = 0 then .next (s.worked core 0 { c with stage := .finished })
      else if s.gangBlocked mast cores then s.passed
      else
        let faults := if c.kstep = 0 then s.mmaFaults mast c ta tb cores else []
        if !faults.isEmpty then
          let s := faults.foldl (fun s k => s.addStatus k 64) s
          .next (s.worked core 0 { (s.yhead core).getD c with stage := .finished })
        else
          let s := if c.kstep = 0 then s.mmaCorrect mast c ta tb cores else s
          .next (s.mmaStep core c ta tb dep cores)

/-- YGANG (R221, R222) of core `place.a`: the command, at its queue's head, joins the gang it names. -/
def execYgang (s : State) : Host.Outcome State Fault Refusal :=
  match s.yhead s.place.a with
  | some c =>
    if c.cop = 5 && c.stage = .posted then .next (s.setYhead s.place.a { c with stage := .waiting })
    else s.passed
  | none => s.passed

/-! ### Retirement (R203, R213, R223, R226) -/

/-- Releases the slots that a command took, and publishes those that it reserved (R135), those of a rejected store too (log entry 76). -/
def State.giveSlots (s : State) (mast : Nat) (c : YCmd) : State :=
  c.taken.foldl (fun s t =>
    let m := s.mastAt mast
    match m.ringOf c.launch t.1 with
    | none => s
    | some r =>
      let slots := (List.range t.2.2).map (t.2.1 + ·)
      s.putMast mast (m.setRing c.launch t.1 (if c.cop = 4 then r.publish slots else r.release slots))) s

/-- Takes the head of a core off its queue: its slots, its entry and its window slot become free. -/
def State.popHead (s : State) (core : Nat) (c : YCmd) : State :=
  let mast := core / 8
  let s := s.giveSlots mast c
  let s := match c.entry with | some e => s.putMast mast ((s.mastAt mast).retire e) | none => s
  let s := s.putCore core { s.coreAt core with yqueue := (s.coreAt core).yqueue.tail }
  s.freeYSlot core c.launch c.slot

/-- Takes the heads of some cores off their queues in one event, and then reports each one's status. -/
def State.retireHeads (s : State) (mast : Nat) (hs : List (Nat × YCmd)) (st : YCmd → Word) : State :=
  let s := hs.foldl (fun s h => s.popHead h.1 h.2) s
  hs.foldl (fun s h => s.yardReport mast h.2 (st h.2)) s

/-- The heads of some cores. -/
def State.headsOf (s : State) (cores : List Nat) : List (Nat × YCmd) :=
  cores.filterMap fun k => (s.yhead k).map fun c => (k, c)

/-- Whether a YGANG's fa or slice disagrees with the lead's YMMA (R222). -/
def sliceBad (lead : YCmd) (g : YCmd) : Bool :=
  g.reject ≠ 0 || g.fa ≠ lead.fa ||
    (lead.reject = 0 &&
      match mmaTypes lead.fa lead.fb with
      | none => false
      | some (ta, _, _) =>
        let o := mmaA ta lead.depth 32
        let x := g.d 2
        if o.ef8 then descStride x ≠ 0
        else decide (descStride x % o.size ≠ 0) || decide (descStride x < o.rowLen) || decide (descLen x < 31 * descStride x + o.rowLen))

/-- GANG_FORM (R222) of the lead core `place.a`: the gang forms, or the whole of it is rejected. -/
def execGangForm (s : State) : Host.Outcome State Fault Refusal :=
  let core := s.place.a
  let mast := core / 8
  match s.yhead core with
  | none => s.passed
  | some c =>
    let cores := gangCores core { c with member := true }
    let joined := (cores.filter fun k => decide (k ≠ core)).all fun k =>
      match s.yhead k with
      | some g => g.cop = 5 && g.gmask = c.gmask && g.gtag = c.gtag && g.stage = .waiting && !g.member && g.launch = c.launch
      | none => false
    if c.cop = 1 && c.gmask ≠ 0 && !c.member && gangOk core c && joined then
      let hs := s.headsOf cores
      let bad := hs.any fun h => h.1 ≠ core && sliceBad c h.2
      let code := lowest ((if c.reject = 0 then [] else [c.reject]) ++ (if bad then [8] else []))
      if code ≠ 0 then .next (s.retireHeads mast hs fun _ => rejectStatus code)
      else .next (hs.foldl (fun s h => s.setYhead h.1 { h.2 with member := true }) s)
    else s.passed

/-- The partners of a gang whose slice or tile had an error, as bits (R223). -/
def partnerBits (hs : List (Nat × YCmd)) : Nat :=
  (hs.map fun h => if bits h.2.status 6 4 = 0 then 0 else 2 ^ (h.1 % 8)).sum

/-- The status that a retiring command reports (R223, R226). -/
def retireStatus (lead : YCmd) (hs : List (Nat × YCmd)) (c : YCmd) : Word :=
  let p := if lead.member then partnerBits hs else 0
  c.status ||| (lead.status &&& 4) ||| Word.of (p * 2 ^ 24)

/-- YARD_RETIRE (R203, R213, R226) of core `place.a`: its finished head, with its whole gang. -/
def execYardRetire (s : State) : Host.Outcome State Fault Refusal :=
  let core := s.place.a
  let mast := core / 8
  match s.yhead core with
  | none => s.passed
  | some c =>
    if c.stage = .finished && c.cop ≠ 5 && (c.gmask = 0 || c.cop ≠ 1 || c.member) then
      let hs := s.headsOf (gangCores core c)
      let s := if (s.mastAt mast).runs (core % 8 / 2) = some core then s.setRunning mast (core % 8 / 2) none else s
      .next (s.retireHeads mast hs (retireStatus c hs))
    else s.passed

/-! ### YNOP, YZERO, YLOAD and YSTORE (R219, R220) -/

/-- YNOP (R220) of core `place.a`. -/
def execYnop (s : State) : Host.Outcome State Fault Refusal :=
  match s.running s.place.a 0 with
  | some c => .next (s.worked s.place.a 2 { c with stage := .finished })
  | none => s.passed

/-- YZERO (R220) of core `place.a`. -/
def execYzero (s : State) : Host.Outcome State Fault Refusal :=
  let core := s.place.a
  match s.running core 2 with
  | some c =>
    let s := s.setTile (core / 8) c.launch (core % 8 / 2) c.tile Tile.init
    .next (s.worked core 4 { c with stage := .finished })
  | none => s.passed

/-- The cycles of a YLOAD or YSTORE (R237). -/
def copyCycles (side view : ETy) : Nat := if side = view then 40 else 72

/-- A bank-side element in the tile's view, or the other way (R125, R219). A named conversion between equal types, for which R52 has
no row, copies, and makes a NaN canonical (log entry 66). -/
def YCmd.conv (c : YCmd) (dst src : ETy) (x : Nat) : Nat :=
  if c.cvt then convert dst src (rndOf c.rnd) .mode x else if dst = src then x else convert dst src .rne .saturate x

/-- The place of row `i` of a bank side that is not EF8. -/
def Mast.sideRow (m : Mast) (c : YCmd) (t : ETy) (i : Nat) : Nat :=
  let x := c.d 2
  (m.operandAt c.launch x c.slotA).1 + i * (if isRing x then 32 * (t.width / 8) else descStride x)

/-- YLOAD of a bank side that is not EF8: rows, and the rows whose doubles are uncorrectable. -/
def State.loadRows (s : State) (mast : Nat) (c : YCmd) (t : ETy) : List (List Nat × Bool) :=
  (List.range 32).map fun i =>
    let off := (s.mastAt mast).sideRow c t i
    ((elems 32 (t.width / 8) (s.readBank mast off (32 * (t.width / 8))).1).map (c.conv c.viewTy t),
      s.bankBad mast off (32 * (t.width / 8)))

/-- YLOAD of an EF8 tile of 32 blocks; none is the format fault. -/
def State.loadTile (s : State) (mast : Nat) (c : YCmd) (t : ETy) : Option (List (List Nat × Bool)) :=
  let a := (s.mastAt mast).operandAt c.launch (c.d 2) c.slotA
  (s.readTile mast c.launch t 32 a.1 a.2).map fun tile =>
    (List.range 32).map fun i =>
      match tile.blocks[i]? with
      | some b => (b.elems.map fun x => convertVal c.viewTy .rne (if c.cvt then .mode else .saturate) (tile.value x), b.lost)
      | none => ([], true)

/-- YLOAD (R219) of core `place.a`. -/
def execYload (s : State) : Host.Outcome State Fault Refusal :=
  let core := s.place.a
  let mast := core / 8
  match s.running core 3 with
  | none => s.passed
  | some c =>
    match ETy.ofCode (s.sideFmt mast c).2 with
    | none => s.passed
    | some t =>
      if s.gangBlocked mast [core] then s.passed
      else
        let rows := if t.isEf8 then s.loadTile mast c t else some (s.loadRows mast c t)
        match rows with
        | none => .next (s.worked core (copyCycles t c.viewTy) { c with stage := .finished, status := c.status ||| 64 })
        | some rows =>
          let bad := (rows.zipIdx.filter fun p => p.1.2).map (·.2)
          let tile := rows.zipIdx.foldl (fun (t : Tile) p => t.setRow p.2 p.1.1) Tile.init
          let s := s.opCorrect mast c.launch t (c.d 2) c.slotA false 32 32
          let s := s.setTile mast c.launch (core % 8 / 2) c.tile { tile with poison := BitVec.ofNat 32 (rowMask bad) }
          .next (s.worked core (copyCycles t c.viewTy) { c with stage := .finished, status := c.status ||| rowStatus (rowMask bad) 16 })

/-- The elements that YSTORE reads of a tile row: the poison value for a poisoned row (R227). -/
def Tile.storeRow (t : Tile) (view : ETy) (i : Nat) : List Nat :=
  (List.range 32).map fun j => if t.poisoned i then (if view = .i32 then 0x80000000 else 0x7FC00000) else t.elem i j

/-- YSTORE (R219) of core `place.a`. A value beyond an EF8 bank side's range saturates, with cvt = 1 too (log entry 66). -/
def execYstore (s : State) : Host.Outcome State Fault Refusal :=
  let core := s.place.a
  let mast := core / 8
  match s.running core 4 with
  | none => s.passed
  | some c =>
    let f := s.sideFmt mast c
    match ETy.ofCode f.2 with
    | none => s.passed
    | some t =>
      if s.gangBlocked mast [core] then s.passed
      else
        let tile := ((s.tileAt mast c.launch (core % 8 / 2) c.tile).readRows 32).1
        let s := s.setTile mast c.launch (core % 8 / 2) c.tile tile
        let rows := (List.range 32).map fun i => tile.storeRow c.viewTy i
        let st := rowStatus (rowMask ((List.range 32).filter tile.poisoned)) 32
        let m := s.mastAt mast
        if t.isEf8 then
          let a := m.operandAt c.launch (c.d 2) c.slotA
          let enc := encodeTile t f.1 (m.ctab.get f.1 0) a.2 (rows.map fun r => r.map fun x => convert t c.viewTy .rne .saturate x)
          let s := s.writeBank mast a.1 enc.1
          .next (s.worked core 72 { c with stage := .finished, status := c.status ||| st ||| (if enc.2 then 8 else 0) })
        else
          let s := rows.zipIdx.foldl (fun s p =>
            s.writeBank mast (m.sideRow c t p.2) (p.1.flatMap fun x => toBytes (t.width / 8) (c.conv t c.viewTy x))) s
          .next (s.worked core (copyCycles t c.viewTy) { c with stage := .finished, status := c.status ||| st })

end Sys2Proof.Machine
end

