-- ==== Sys2Proof/Machine/Halyard.lean ====
section
/-! DEFINITION. Halyards (R303 to R320): the launch read, transfers and their start, the hart's registers, the moves of the
datapath, zero-run streams (R70, R316) and completion. -/

namespace Sys2Proof.Machine

/-! ### Ranges (R310) -/

/-- The check of the places that a whole range names (R109, R348). -/
def State.spanPlaces (s : State) (a : Word) (n : Nat) (k : Acc) (spaces : List Nat) : Ex Unit := do
  need (spaces.contains (space a) && zeroFieldsOk a) (.trap 0x04 a 0)
  match space a with
  | 0x9 =>
    match s.bankRange a n with
    | some b => trapX 0x04 b 0
    | none => .ok ()
  | 0x0 =>
    match rangeOf s.launch.ranges (a.toNat % 2 ^ 57) n with
    | none => trapX 0x05 a 1
    | some r => do
      need (admits r.kind k) (.trap 0x05 a 2)
      need (!k.writes || r.w) (.trap 0x05 a 3)
  | _ => need (bits a 19 0 + n ≤ 2 ^ 20) (.trap 0x04 a 0)

/-- The check of a whole range, as a load or a store: its places, and line by line its translation (R109, R350). -/
def State.spanCheck (s : State) (a : Word) (n : Nat) (k : Acc) (spaces : List Nat) : Ex State := do
  s.spanPlaces a n k spaces
  let v := a.toNat % 2 ^ 57
  if space a = 0x0 then State.ensureSpan k (v + n) (n / 65536 + 2) v s else .ok s

/-- The bounding range of `rows` rows of `len` bytes from `a` with a stride: its first byte and its length. -/
def boundRange (a : Word) (rows len : Nat) (stride : Int) : Word × Nat :=
  let span := ((rows : Int) - 1) * stride
  (a + ofInt (if span < 0 then span else 0), span.natAbs + len)

/-- The intervals of a range, where it lies in the mast's own banks (R198, R310). -/
def Mast.spanIvals (m : Mast) (write : Bool) (a : Word) (n : Nat) : List Interval :=
  if space a = 0x9 && n ≠ 0 then m.ivalsOf write (bits a 19 0) n else []

/-! ### The launch read (R307 to R310) -/

/-- The parameter block as eight doubles. -/
def paramBlock (bs : List Byte) : List Word := bytesToWords 8 bs

/-- The id of a transfer (R308). -/
def transferId (seq h slot : Nat) : BitVec 16 := BitVec.ofNat 16 (seq % 256 * 256 + h * 128 + 64 + slot)

/-- The lowest free place of a journal of 64; none where it holds 64 transfers. -/
def Halyard.freeSlot (y : Halyard) : Option Nat :=
  if 64 ≤ y.journal.length then none else (List.range 64).find? fun j => y.journal.all fun t => decide (t.slot ≠ j)

/-- The halyard that `sel` names, with its free place: for 10, halyard 0 where it has one, else halyard 1. -/
def Mast.journalFor (m : Mast) (sel : Nat) : Option (Nat × Nat) :=
  let of (h : Nat) : Option (Nat × Nat) := (m.hy h).freeSlot.map fun j => (h, j)
  if sel < 2 then of sel else (of 0).orElse fun _ => of 1

/-- Whether a mailbox address keeps its rule (R309). -/
def mboxOk (a : Word) : Bool := decide (a.toNat % 16 = 0) && (decide (space a = 0x0) || decide (space a = 0x9)) && zeroFieldsOk a

/-- Whether a barrier address keeps its rule, in a bank that the launch holds and that is no pair's shadow bank (R231, R309). -/
def State.barAddrOk (s : State) (a : Word) : Bool :=
  decide (a.toNat % 32 = 0) && decide (space a = 0x9) && zeroFieldsOk a && s.mast.holds s.cur.launch (bits a 19 16)
    && !s.mast.isShadow (bits a 19 16)

/-- The checks of a parameter block (R309). -/
def State.blockOk (s : State) (p : List Word) : Bool :=
  let d (k : Nat) : Word := p.getD k 0
  decide (bits (d 6) 63 38 = 0) && !bit (d 6) 36 && decide (bits (d 6) 35 32 < 0xE) && (d 0 = 0 || mboxOk (d 0))
    && (d 1 = 0 || s.barAddrOk (d 1)) && decide (bits (d 2) 1 0 = 0)

/-- Whether hctl names a kernel that is shipped, or bound by the launch (R306, R308). -/
def State.kernelOk (s : State) (c : Word) : Bool :=
  decide (bits c 63 16 = 0) && decide (bits c 7 2 = 0) && decide (bits c 1 0 ≠ 3) &&
    (decide (bits c 15 8 ≤ 4) || s.launch.kernels.has (bits c 15 8))

/-- The signed strides of hstr: source and destination. -/
def srcStride (w : Word) : Int := sextN 32 (bits w 31 0)
/-- The destination stride. -/
def dstStride (w : Word) : Int := sextN 32 (bits w 63 32)

/-- Whether hlen holds rows and a row length (R307). -/
def lenOk (w : Word) : Bool :=
  decide (1 ≤ bits w 63 32) && decide (bits w 63 32 ≤ 65535) && decide (1 ≤ bits w 31 0) && decide (bits w 31 0 ≤ 65536)

/-- Appends a transfer to a journal and registers its entry: one indivisible event. -/
def State.journal (s : State) (h e : Nat) (shared : Bool) (t : Transfer) (is : List Interval) : State :=
  let m := s.mast
  let y := m.hy h
  let m := m.register ⟨e, t.id, 3, s.coreIx, shared, s.cur.launch, is, 0⟩
  s.setMast (m.setHy h { y with journal := y.journal ++ [t], seq := (y.seq + 1) % 256 })

/-- The transfer of a launch read. -/
def State.transferOf (s : State) (p : List Word) (h slot e : Nat) (rr wr : Word × Nat) : Transfer :=
  let c := s.ctx
  let d (k : Nat) : Word := p.getD k 0
  { slot := slot, id := transferId ((s.mast.hy h).seq + 1) h slot, launch := s.cur.launch, task := s.cur.task, ctx := s.cur.ctx,
    hsrc := c.hsrc, hdst := c.hdst, hlen := c.hlen, hstr := c.hstr, harg := c.harg, kernel := bits c.hctl 15 8,
    mbox := d 0, bar := d 1, hand := d 2, irq := bit (d 6) 37, htype := bits (d 6) 35 32, budget := bits (d 6) 31 0,
    arg2 := d 7, rlo := rr.1, rlen := rr.2, wlo := wr.1, wlen := wr.2, entry := e, copy := none, told := false }

/-- Whether a range of the mast's own banks touches an armed barrier object (R228). -/
def State.spanArmed (s : State) (a : Word) (n : Nat) : Bool := decide (space a = 0x9) && s.rangeArmed s.mastNo (bits a 19 0) n

/-- The launch read (R308). -/
def State.launchRead (s : State) (d : Reg) : Ex State := do
  need s.settled .wait
  let c := s.ctx
  need (s.kernelOk c.hctl) (s.bad0C 0)
  let key ← s.memCheck c.hpb 64 .load [0x0, 0x9]
  let r ← s.readChecked c.hpb key 64
  let p := paramBlock r.1
  need (s.blockOk p) (s.bad0C 0)
  let rlen := bits (p.getD 4 0) 31 0
  let wlen := bits (p.getD 4 0) 63 32
  need (lenOk c.hlen || (16 ≤ bits c.hctl 15 8 && rlen ≠ 0 && wlen ≠ 0)) (s.bad0C 0)
  let rows := bits c.hlen 63 32
  let len := bits c.hlen 31 0
  let rr := if rlen ≠ 0 then (p.getD 3 0, rlen) else boundRange c.hsrc rows len (srcStride c.hstr)
  let wr := if wlen ≠ 0 then (p.getD 5 0, wlen) else boundRange c.hdst rows len (dstStride c.hstr)
  let s ← r.2.spanCheck rr.1 rr.2 .load [0x0, 0x9]
  let s ← s.spanCheck wr.1 wr.2 .store [0x0, 0x9, 0xB]
  need (!s.spanArmed wr.1 wr.2) (s.bad0C 0)
  match s.mast.journalFor (bits c.hctl 1 0) with
  | none => .ok (s.result 1 d 0)
  | some (h, slot) =>
    match s.myEntry with
    | none => .ok s.awaitMine
    | some (e, sh) =>
      let s := s.tookEntry
      let t := s.transferOf p h slot e rr wr
      let s := s.journal h e sh t (s.mast.spanIvals false rr.1 rr.2 ++ s.mast.spanIvals true wr.1 wr.2)
      .ok (s.result 1 d (t.id.zeroExtend 64))

/-- LAUNCH_READ (R308), a CSRR of hlaunch; the number is absent on a tackle core and on a hart (R312, R381). -/
def execLaunchRead (d : Reg) (s : State) : Host.Outcome State Fault Refusal :=
  s.finish (do
    need (s.engine = .mast) (s.csrIllegal (.launchRead d))
    s.launchRead d)

/-! ### A transfer that runs -/

/-- The core number of a halyard's hart. -/
def hartCore (mast h : Nat) : Nat := 16384 + 2 * mast + h

/-- The state with a halyard as the agent that acts, for a transfer. -/
def State.asHart (s : State) (mast h : Nat) (t : Transfer) : State :=
  { s with cur := ⟨hartCore mast h, ((s.mastAt mast).hy h).hart, t.task, t.launch⟩ }

/-- A halyard of a mast. -/
def State.hyAt (s : State) (mast h : Nat) : Halyard := (s.mastAt mast).hy h

/-- Replaces a halyard of a mast. -/
def State.putHy (s : State) (mast h : Nat) (y : Halyard) : State := s.putMast mast ((s.mastAt mast).setHy h y)

/-- The effective budget (R309, R313). -/
def Transfer.budgetOf (t : Transfer) : Nat := if t.budget = 0 then t.wlen else t.budget

/-- The heap side's element type. -/
def Transfer.hty (t : Transfer) : ETy := (ETy.ofCode t.htype).getD .n8

/-- The element type of an address, and its code table (R125): the register of a bank that the launch holds, or htype. Of a bank that
it does not hold nothing is looked at: no access there passes its checks, and what such a bank holds is another launch's (R11, R12). -/
def State.sideType (s : State) (mast : Nat) (t : Transfer) (a : Word) : ETy × Option Nat :=
  let reg (f : Nat × Nat) : ETy × Option Nat := ((ETy.ofCode f.2).getD .n8, some f.1)
  match space a with
  | 0x9 => if (s.mastAt mast).holds t.launch (bits a 19 16) then reg ((s.mastAt mast).bankFmt (bits a 19 16)) else (.n8, none)
  | 0xB =>
    let m := s.mastAt (bits a 41 32)
    let b := m.banks.get (m.storeBank (bits a 19 16)) Bank.init
    if m.holds t.launch (bits a 19 16) then reg (b.table, b.type) else (.n8, none)
  | _ => (t.hty, none)

/-- Stops a transfer (R313). -/
def State.stopTransfer (s : State) (mast h cause : Nat) (addr : Word) : State :=
  let y := s.hyAt mast h
  let s := s.putHy mast h { y with stage := .ended, fault := some (cause, addr), queue := [], plan := [] }
  if y.hart = 0 then s else s.putCtx y.hart { s.ctxAt y.hart with status := .stopped, waitStart := none }

/-- An address moved by rows of a stride. -/
def rowAddr (a : Word) (i : Nat) (stride : Int) : Word := a + ofInt (i * stride)

/-- The moves of a shipped kernel (R306, R317). Modes 8 and above are the kernels' own: 8 copies a row of `n` bytes, 10
compresses one, 11 expands one, 12 gathers and 13 scatters one (the source or destination is the address of its index). -/
def kernelPlan (t : Transfer) : List Move :=
  let rows := bits t.hlen 63 32
  let len := bits t.hlen 31 0
  let src (i : Nat) : Word := rowAddr t.hsrc i (srcStride t.hstr)
  let dst (i : Nat) : Word := rowAddr t.hdst i (dstStride t.hstr)
  let ix (i : Nat) : Word := t.harg + Word.of (4 * i)
  (List.range rows).map fun i =>
    match t.kernel with
    | 0 => ⟨src i, dst i, 8, len, 0, 0⟩
    | 1 => ⟨src i, t.hdst, 10, len, 0, 0⟩
    | 2 => ⟨t.hsrc, dst i, 11, len, 0, 0⟩
    | 3 => ⟨ix i, dst i, 12, len, 0, 0⟩
    | _ => ⟨src i, ix i, 13, len, 0, 0⟩

/-- The moves of a transfer that no hart runs: a shipped kernel, or the copy of NOWN or NDUP. -/
def planOf (t : Transfer) : List Move :=
  if t.copy.isSome then [⟨t.rlo, t.wlo, 0, t.rlen, 0, 0⟩] else if t.kernel ≤ 4 then kernelPlan t else []

/-- The first byte of a transfer's write range, and of every further bank that it reaches. -/
def writeSides (t : Transfer) : List Word :=
  if space t.wlo = 0x0 then [t.wlo]
  else
    let low := bits t.wlo 15 0
    t.wlo :: ((List.range ((low + t.wlen + 65535) / 65536)).drop 1).map fun i => t.wlo + Word.of (65536 * i - low)

/-- Whether a transfer is known to write a compressed or EF8 destination: some destination of a shipped kernel's moves, for SCATTER and a
launch's own kernel some bank of the write range, or a budget that its parameter block gives a launch's own kernel. A compressing
move of such a kernel that has given none shows only as it is queued (R313, log entry 33). -/
def State.needsBudget (s : State) (mast : Nat) (t : Transfer) : Bool :=
  let ef8 (l : List Word) : Bool := l.any fun a => (s.sideType mast t a).1.isEf8
  t.copy.isNone &&
    if t.kernel < 4 then decide (t.kernel = 1) || ef8 ((kernelPlan t).map (·.dst))
    else ef8 (writeSides t) || (4 < t.kernel && t.budget ≠ 0)

/-- The context of a hart at its kernel's entry (R311). -/
def hartCtx (mast h : Nat) (t : Transfer) (pc : Nat) : Context :=
  { Context.init with
    kind := .hart, status := .running, core := hartCore mast h, task := t.task, launch := t.launch, pc := Word.of pc
    file := [(0, t.hsrc), (1, t.hdst), (2, t.hlen), (3, t.hstr), (4, t.harg), (5, t.arg2), (6, Word.of t.budget),
             (7, t.id.zeroExtend 64)] }

/-- HALYARD_START (R311, R313) on halyard `place.b` of mast `place.a`. -/
def execHalyardStart (s : State) : Host.Outcome State Fault Refusal :=
  let mast := s.place.a
  let h := s.place.b
  let y := s.hyAt mast h
  match y.journal with
  | t :: _ =>
    if y.stage = .idle && s.runs t.launch then
      let y := { y with stage := .running, hart := 0, plan := planOf t, queue := [], flags := 0, packOff := 0, fault := none,
                        derrAddr := 0, user := 0, mvsrc := 0, mvdst := 0, ixLines := [], ixCur := [], extents := [] }
      if t.told then .next (s.putHy mast h { y with stage := .reported })
      else if s.needsBudget mast t && t.budgetOf < 8 then .next ((s.putHy mast h y).stopTransfer mast h 0x0D t.hdst)
      else if t.copy.isSome || t.kernel ≤ 4 then .next (s.putHy mast h y)
      else
        let unit := ((s.mastAt mast).grants.get t.launch Grant.init).ucode.1
        let pc := 0x1000 + 256 * unit + (s.launchAt t.launch).kernels.get t.kernel 0
        let id := s.nextCtx
        let s := { s with ctxs := s.ctxs.set id (hartCtx mast h t pc), nextCtx := id + 1 }
        .next (s.putHy mast h { y with hart := id })
    else s.passed
  | [] => s.passed

/-! ### Reads and writes of the datapath -/

/-- The runs of memory of a range of the datapath: key, offset in the range, length. Its lines are translated one after another
(R350, R351). -/
def State.mvRuns (s : State) (a : Word) (n : Nat) (k : Acc) (spaces : List Nat) : Ex (List (Nat × Nat × Nat) × State) := do
  s.spanPlaces a n k spaces
  match space a with
  | 0x9 => .ok (s.runsOf s.mastNo (bits a 19 0) n, s)
  | 0x0 => do
    let v := a.toNat % 2 ^ 57
    let cuts := (List.range ((v + n - 1) / 65536 - v / 65536 + 1)).map fun i =>
      let lo := Nat.max v ((v / 65536 + i) * 65536)
      let hi := Nat.min (v + n) ((v / 65536 + i + 1) * 65536)
      (lo, hi)
    cuts.foldlM (fun (p : List (Nat × Nat × Nat) × State) c => do
      let s ← p.2.ensure c.1 k
      let key ← s.extentCheck (Word.of c.1) 1 k
      .ok (p.1 ++ [(key, c.1 - v, c.2 - c.1)], s)) ([], s)
  | _ => .ok ([], s)

/-- Whether a launch may read [a, a + n) of space 0xB: it lies in banks that the launch holds on a mast of its partition, none of
them a pair's shadow bank (R11, R109). -/
def State.farBanks (s : State) (l : Nat) (a : Word) (n : Nat) : Bool :=
  let m := bits a 41 32
  let off := bits a 19 0
  zeroFieldsOk a && s.mastIn l m && decide (off + n ≤ 2 ^ 20) &&
    (List.range 16).all fun b =>
      !(decide (off < (b + 1) * 65536) && decide (b * 65536 < off + n)) || ((s.mastAt m).holds l b && !(s.mastAt m).isShadow b)

/-- The runs of a read. A copy of NOWN or NDUP also reads a payload in the launch's banks of any mast, by its global address. -/
def State.mvSource (s : State) (t : Transfer) (a : Word) (n : Nat) : Ex (List (Nat × Nat × Nat) × State) :=
  if space a = 0xB && t.copy.isSome then do
    need (s.farBanks t.launch a n) (.trap 0x04 a 0)
    .ok (s.runsOf (bits a 41 32) (bits a 19 0) n, s)
  else s.mvRuns a n .move [0x0, 0x9]

/-- Reads a range: its bytes, which of them lie in uncorrectable doubles, and the state with the others corrected. -/
def State.mvRead (s : State) (t : Transfer) (a : Word) (n : Nat) : Ex (List Byte × (Nat → Bool) × State) := do
  let (rs, s) ← s.mvSource t a n
  let bad (i : Nat) : Bool := rs.any fun r => decide (r.2.1 ≤ i) && decide (i < r.2.1 + r.2.2) &&
    s.ecc.has ((r.1 + (i - r.2.1)) / 8) && s.ecc.get ((r.1 + (i - r.2.1)) / 8) false
  .ok (rs.flatMap fun r => Memory.read s.mem r.1 r.2.2, bad, rs.foldl (fun s r => s.correct r.1 r.2.2) s)

/-- Bytes cut at the boundaries of doubles; `fuel` bounds the pieces. -/
def dblPieces : Nat → Word → List Byte → List (Word × List Byte)
  | 0, _, _ => []
  | f + 1, a, bs =>
    if bs.isEmpty then []
    else
      let n := 8 - a.toNat % 8
      (a, bs.take n) :: dblPieces f (a + Word.of n) (bs.drop n)

/-- Places the packet of a remote store of a move of the hart that acts: its place among the hart's stores and packets is that of the
move (R304, R318, R328). -/
def State.emitMove (s : State) (v : Move) (dst : Nat) (k : PKind) : State :=
  { s with
    net := s.net ++ [⟨s.nextPkt, 0, s.cur.core, dst, s.cur.launch, s.cur.ctx, v.order, v.rel, 0, flitsOf 32, false, k⟩]
    nextPkt := s.nextPkt + 1 }

/-- Writes a range. To space 0xB it sends remote stores (R304), those of a hart's move, the head of its queue, in their place (R328). -/
def State.mvWrite (s : State) (a : Word) (bs : List Byte) : Ex State := do
  if bs.isEmpty then .ok s
  else if space a = 0xB then
    let dst := 8 * bits a 41 32
    .ok ((dblPieces (bs.length + 1) a bs).foldl (fun s p =>
      match (s.mast.hy (hyNo s.cur.core)).queue with
      | [] => s.emitUnit 0 s.cur.core dst s.cur.launch 32 (.rstore p.1 p.2)
      | v :: _ => s.emitMove v dst (.rstore p.1 p.2)) s)
  else do
    let (rs, s) ← s.mvRuns a bs.length .moveW [0x0, 0x9, 0xB]
    .ok (rs.foldl (fun s r => s.write r.1 ((bs.drop r.2.1).take r.2.2)) s)

/-- Writes an EF8 tile: its header last (R66). -/
def State.mvTile (s : State) (a : Word) (bs : List Byte) : Ex State := do
  let s ← s.mvWrite (a + 8) (bs.drop 8)
  s.mvWrite a (bs.take 8)

/-- The outcome of a move: the state, its flags (R314) and the first poisoned source address. -/
structure Moved where
  s     : State
  flags : Nat
  addr  : Word

/-- The first byte of a range that lies in an uncorrectable double. -/
def firstBad (n : Nat) (bad : Nat → Bool) : Option Nat := (List.range n).find? bad

/-- The flags and address of a read. -/
def derrOf (a : Word) (n : Nat) (bad : Nat → Bool) : Nat × Word :=
  match firstBad n bad with
  | some i => (2, Word.of ((a.toNat + i) / 8 * 8))
  | none => (0, 0)

/-- The bytes of a raw read: ones for every uncorrectable double (R315). -/
def rawBytes (bs : List Byte) (bad : Nat → Bool) : List Byte := bs.zipIdx.map fun p => if bad p.2 then 0xFF#8 else p.1

/-- A raw move of `n` bytes. -/
def State.moveRaw (s : State) (t : Transfer) (src dst : Word) (n : Nat) : Ex Moved := do
  let r ← s.mvRead t src n
  let u ← r.2.2.mvWrite dst (rawBytes r.1 r.2.1)
  let f := derrOf src n r.2.1
  .ok ⟨u, f.1, f.2⟩

/-- A move that zeroes `n` bytes. -/
def State.moveZero (s : State) (dst : Word) (n : Nat) : Ex Moved := do
  let t ← s.mvWrite dst (List.replicate n 0)
  .ok ⟨t, 0, 0⟩

/-- What an element decoded from an uncorrectable double becomes (R315). -/
def poisonElem (t : ETy) : Nat := if t.isInt then t.intBits t.minInt else t.fmt.nan

/-- The elements of a source side that is not EF8, as its own bits: those of uncorrectable doubles are poison (R315). -/
def poisoned (t : ETy) (xs : List Nat) (bad : Nat → Bool) : List Nat :=
  let e := t.width / 8
  xs.zipIdx.map fun p => if (List.range e).any fun i => bad (p.2 * e + i) then poisonElem t else p.1

/-- The most bytes that an EF8 tile can have. -/
def ef8Max : Nat := 8 + 2 * 1024 + 42 * 1024

/-- The bytes from an address to the end of a range, at most `cap`. -/
def roomIn (lo : Word) (len : Nat) (a : Word) (cap : Nat) : Nat := Nat.min cap (lo.toNat + len - a.toNat)

/-- The budget of a writer whose compressed or EF8 destination starts at `dst`: the effective budget, or what is left of the
declared write range (R68, R310). -/
def Transfer.budgetAt (t : Transfer) (dst : Word) : Nat := roomIn t.wlo t.wlen dst t.budgetOf

/-- The bytes of a tile up to the end of a list of its blocks. -/
def tileEnd (blocks : List Ef8Block) : Nat := blocks.foldl (fun n b => Nat.max n (b.off + b.size)) 8

/-- The EF8 tile in the `room` bytes from `a`, of at least `want` blocks. One that breaks R67 in what can be read takes cause 0x0D
(R69, R315). -/
def State.ef8At (s : State) (t : Transfer) (a : Word) (ty : ETy) (want room : Nat) : Ex Ef8Tile := do
  let r ← s.mvRead t a room
  match decodeTile (s.mast.tables t.launch) r.2.1 ty want r.1 with
  | none => trapX 0x0D a 0
  | some tile => .ok tile

/-- The elements of a source side, converted to the destination's type (R125, R315): those of the `n` elements from `a`, or
for EF8 the first `n` of the tile in the `room` bytes there (all of them for none). A block of which a byte is lost is poison; a
lost header makes poison of the elements asked for, of a block where none are named (log entry 71). -/
def State.sourceElems (s : State) (t : Transfer) (a : Word) (ts td : ETy) (n : Option Nat) (room : Nat) :
    Ex (List Nat × Nat × Word × State) := do
  if ts.isEf8 then do
    let want := (n.getD 32 + 31) / 32
    let tile ← s.ef8At t a ts want (Nat.min room ef8Max)
    let blocks := match n with | some _ => tile.blocks.take want | none => tile.blocks
    let r ← s.mvRead t a (tileEnd blocks)
    let f := derrOf a (tileEnd blocks) r.2.1
    let xs := if blocks.isEmpty then List.replicate (n.getD 32) (poisonElem td)
      else blocks.flatMap fun b => if b.lost then List.replicate 32 (poisonElem td) else b.elems.map (tile.elem td)
    .ok (match n with | some k => xs.take k | none => xs, f.1, f.2, r.2.2)
  else do
    let e := ts.width / 8
    let k := n.getD 0
    let r ← s.mvRead t a (k * e)
    let xs := (elems k e r.1).zipIdx.map fun p =>
      if (List.range e).any fun i => r.2.1 (p.2 * e + i) then poisonElem td
      else if ts = td then p.1 else convert td ts .rne .saturate p.1
    let f := derrOf a (k * e) r.2.1
    .ok (xs, f.1, f.2, r.2.2)

/-- Blocks of 32 elements; the last is filled up with free values of its elements (log entry 2). `fuel` bounds their
number. -/
def blocksOf : Nat → List Nat → List (List Nat)
  | 0, _ => []
  | f + 1, xs =>
    if xs.isEmpty then []
    else if xs.length < 32 then [xs ++ (List.range (32 - xs.length)).map fun i => (Config.padElem xs i).toNat]
    else xs.take 32 :: blocksOf f (xs.drop 32)

/-- The word of a code table of the mast whose bank a destination names (R66): the halyard's own, or that of space 0xB. -/
def State.codeFor (s : State) (dst : Word) (table : Option Nat) : Word :=
  let m := if space dst = 0xB then s.mastAt (bits dst 41 32) else s.mast
  match table with | some k => m.ctab.get k 0 | none => 0

/-- Whether the source, or the destination, of a move stays in the declared ranges (R310, R313). -/
def needIn (lo : Word) (len : Nat) (a : Word) (n : Nat) : Ex Unit := need (within lo len a n) (.trap 0x04 a 0)

/-- The check of a part of a move that reads [a, a + n): the declared read range, and the spaces of a source (R304, R313). -/
def State.readPart (s : State) (t : Transfer) (a : Word) (n : Nat) : Ex State := do
  needIn t.rlo t.rlen a n
  need (space a ≠ 0xB || t.copy.isSome) (.trap 0x04 a 0)
  if space a = 0xB then .ok s else s.spanCheck a n .move [0x0, 0x9]

/-- The check of a part of a move that writes [a, a + n): the declared write range, the spaces of a destination, and armed
barrier objects (R228, R304, R313). -/
def State.writePart (s : State) (t : Transfer) (a : Word) (n : Nat) : Ex State := do
  needIn t.wlo t.wlen a n
  let s ← s.spanCheck a n .moveW [0x0, 0x9, 0xB]
  need (!s.spanArmed a n) (.trap 0x0C a 0)
  .ok s

/-- Writes elements to a destination side: bytes, or an EF8 tile within the budget (R66, R68). -/
def State.destElems (s : State) (t : Transfer) (dst : Word) (td : ETy) (table : Option Nat) (xs : List Nat) : Ex (State × Nat) := do
  if td.isEf8 then do
    let enc := encodeTile td (table.getD 0) (s.codeFor dst table) (t.budgetAt dst) (blocksOf (xs.length + 1) xs)
    let s ← s.mvTile dst enc.1
    .ok (s, if enc.2 then 4 else 0)
  else do
    let s ← s.writePart t dst (xs.length * (td.width / 8))
    let s ← s.mvWrite dst (xs.flatMap fun x => toBytes (td.width / 8) x)
    .ok (s, 0)

/-- The bytes of an EF8 tile that is copied unchanged, within a budget: the blocks that fit whole, in a header that says so
(R68). The list gives the place and size of its blocks. -/
def fitTile (budget : Nat) (bs : List Byte) (blocks : List (Nat × Nat)) : List Byte × Bool :=
  let n := blocks.length
  if bs.length ≤ budget then (bs, false)
  else
    let fit := if budget < 8 + 2 * n then [] else blocks.takeWhile fun b => decide (b.1 + b.2 ≤ budget)
    let h := setBits (setBits (Word.of (ofBytes (bs.take 8))) 21 11 fit.length) 30 30 1
    let offs := (List.range n).flatMap fun i => toBytes 2 ((fit.getD i (0, 0)).1)
    let stop := (fit.getLast?.map fun b => b.1 + b.2).getD (8 + 2 * n)
    (toBytes 8 h.toNat ++ (if budget < 8 + 2 * n then [] else offs ++ (bs.take stop).drop (8 + 2 * n)), true)

/-- A copy of an EF8 tile between sides of one type and table: its bytes are unchanged, within the budget (R68, R125): the tile up
to its `n` first elements, or a row of `bytes` bytes, whose tile is looked at only where the budget cuts it. -/
def State.moveTile (s : State) (t : Transfer) (ty : ETy) (src dst : Word) (n : Option Nat) (bytes : Nat) : Ex Moved := do
  let room := match n with | some _ => roomIn t.rlo t.rlen src ef8Max | none => bytes
  let whole := n.isNone && bytes ≤ t.budgetAt dst
  let blocks ← if whole then .ok [] else (s.ef8At t src ty (match n with | some k => (k + 31) / 32 | none => 0) room).map (·.blocks)
  let len := match n with
    | none => bytes
    | some k => if blocks.isEmpty then Nat.min room (8 + (k + 31) / 32 * 44) else tileEnd blocks
  let r ← s.mvRead t src len
  let f := derrOf src len r.2.1
  let p := fitTile (t.budgetAt dst) (rawBytes r.1 r.2.1) (blocks.map fun b => (b.off, b.size))
  let u ← r.2.2.mvTile dst p.1
  .ok ⟨u, f.1 ||| (if p.2 then 4 else 0), f.2⟩

/-- Whether the two sides of a copy have the same type and, for EF8, the same table (R125): of two masts, the same codes too. -/
def State.sameSide (s : State) (src dst : Word) (a b : ETy × Option Nat) : Bool :=
  decide (a.1 = b.1) && (!a.1.isEf8 || (decide (a.2 = b.2) && decide (s.codeFor src a.2 = s.codeFor dst b.2)))

/-- A copy under R125: of `n` source elements, or of a row of `bytes` source bytes. -/
def State.moveCopy (s : State) (t : Transfer) (src dst : Word) (n : Option Nat) (bytes : Nat) : Ex Moved := do
  let a := s.sideType s.mastNo t src
  let b := s.sideType s.mastNo t dst
  if s.sameSide src dst a b then
    if a.1.isEf8 then s.moveTile t a.1 src dst n bytes
    else s.moveRaw t src dst (match n with | some k => k * (a.1.width / 8) | none => bytes)
  else do
    let k := match n with | some k => some k | none => if a.1.isEf8 then none else some (bytes / (a.1.width / 8))
    let x ← s.sourceElems t src a.1 b.1 k (match n with | some _ => roomIn t.rlo t.rlen src ef8Max | none => bytes)
    let w ← x.2.2.2.destElems t dst b.1 b.2 x.1
    .ok ⟨w.1, x.2.1 ||| w.2, x.2.2.1⟩

/-! ### Zero runs (R70, R316) -/

/-- Whether an element is zero for the zero detector (R70). -/
def zeroElem (t : ETy) (x : Nat) : Bool := if t.isInt then decide (x % 2 ^ t.width = 0) else decide (x % 2 ^ (t.width - 1) = 0)

/-- Maximal runs of zero elements and of literals. -/
def zeroRuns (t : ETy) : List Nat → List (Bool × List Nat)
  | [] => []
  | x :: xs =>
    match zeroRuns t xs with
    | (z, r) :: rest => if z = zeroElem t x then (z, x :: r) :: rest else (zeroElem t x, [x]) :: (z, r) :: rest
    | [] => [(zeroElem t x, [x])]

/-- Fills a list of bytes up to a multiple of 8. -/
def pad8 (bs : List Byte) : List Byte := bs ++ List.replicate ((8 - bs.length % 8) % 8) 0

/-- A record of a zero-run stream. -/
def runRecord (t : ETy) (r : Bool × List Nat) : List Byte :=
  if r.1 then toBytes 8 (2 ^ 62 + r.2.length)
  else toBytes 8 (2 ^ 63 + r.2.length) ++ pad8 (r.2.flatMap fun x => toBytes (t.width / 8) x)

/-- The records that fit whole in a budget; whether all do. -/
def fitRecords (budget : Nat) : Nat → List (List Byte) → List Byte × Bool
  | _, [] => ([], true)
  | used, r :: rs =>
    if used + r.length ≤ budget then let q := fitRecords budget (used + r.length) rs; (r ++ q.1, q.2) else ([], false)

/-- A zero-run stream of elements within a budget: its bytes, and whether it overruns. -/
def zeroStream (t : ETy) (budget : Nat) (xs : List Nat) : List Byte × Bool :=
  let p := fitRecords budget 0 ((zeroRuns t xs).map (runRecord t) ++ [toBytes 8 0])
  (p.1, !p.2)

/-- How the expansion of a stream ends: its elements and the bytes used, at a malformed record, or at the end of the bytes there
are. -/
inductive Expansion where
  | elems (xs : List Nat) (used : Nat)
  | malformed
  | short
  deriving DecidableEq, Repr

/-- Elements before the rest of an expansion. -/
def Expansion.after (xs : List Nat) (used : Nat) : Expansion → Expansion
  | .elems ys n => .elems (xs ++ ys) (used + n)
  | e => e

/-- Expands a stream of `count` more elements of a type (R316); `bad` tells the bytes of uncorrectable doubles, from byte `at_` of
the stream on. Literals of such doubles are poison; a record's head in one makes poison of every element that is left, since
the move does not stop there (R315, log entry 71). -/
def expandRuns (t : ETy) (bad : Nat → Bool) : Nat → Nat → Nat → List Byte → Expansion
  | 0, _, _, _ => .malformed
  | f + 1, at_, count, bs =>
    let w := Word.of (ofBytes (bs.take 8))
    let n := bits w 31 0
    let e := t.width / 8
    if bs.length < 8 then .short
    else if (List.range 8).any fun i => bad (at_ + i) then .elems (List.replicate count (poisonElem t)) 8
    else if bits w 61 32 ≠ 0 then .malformed
    else if bits w 63 62 = 0 then (if n = 0 ∧ count = 0 then .elems [] 8 else .malformed)
    else if n = 0 ∨ count < n then .malformed
    else if bits w 63 62 = 1 then (expandRuns t bad f (at_ + 8) (count - n) (bs.drop 8)).after (List.replicate n 0) 8
    else if bits w 63 62 = 2 then
      let len := (n * e + 7) / 8 * 8
      if bs.length < 8 + len then .short
      else if ((bs.drop (8 + n * e)).take (len - n * e)).any fun x => decide (x ≠ 0) then .malformed
      else
        (expandRuns t bad f (at_ + 8 + len) (count - n) (bs.drop (8 + len))).after
          (poisoned t (elems n e (bs.drop 8)) fun i => bad (at_ + 8 + i)) (8 + len)
    else .malformed

/-- A compressing move within a budget: of `n` source elements, or of a row of `bytes` source bytes; an EF8 side is a tile (R312),
of which the elements in its own type are compressed. The outcome and the bytes written. -/
def State.moveZip (s : State) (t : Transfer) (src dst : Word) (n : Option Nat) (bytes budget : Nat) : Ex (Moved × Nat) := do
  let ty := (s.sideType s.mastNo t src).1
  let k := match n with | some k => some k | none => if ty.isEf8 then none else some (bytes / (ty.width / 8))
  let x ← s.sourceElems t src ty ty k (match n with | some _ => roomIn t.rlo t.rlen src ef8Max | none => bytes)
  let p := zeroStream ty budget x.1
  let w ← x.2.2.2.mvWrite dst p.1
  .ok (⟨w, x.2.1 ||| (if p.2 then 4 else 0), x.2.2.1⟩, p.1.length)

/-- The bytes of a stream of `n` elements that an expanding move may read. -/
def Transfer.streamRoom (t : Transfer) (src : Word) (n : Nat) : Nat := roomIn t.rlo t.rlen src (16 * n + 8)

/-- An expanding move of `n` destination elements, an EF8 side being a tile (R312): the outcome and the bytes read. A record that is malformed takes cause 0x0D
(R316), one that reaches beyond the declared range 0x04 (R313). -/
def State.moveUnzip (s : State) (t : Transfer) (src dst : Word) (n : Nat) : Ex (Moved × Nat) := do
  let side := s.sideType s.mastNo t dst
  let room ← s.mvRead t src (t.streamRoom src n)
  match expandRuns side.1 room.2.1 (2 * n + 2) 0 n room.1 with
  | .malformed => trapX 0x0D src 0
  | .short => trapX 0x04 src 0
  | .elems xs used => do
    let r ← s.mvRead t src used
    let w ← r.2.2.destElems t dst side.1 side.2 xs
    let f := derrOf src used r.2.1
    .ok (⟨w.1, f.1 ||| w.2, f.2⟩, used)

/-! ### Moves -/

/-- The bytes that a copied row of `n` source bytes writes at `dst`; of an EF8 source one element at least: the rest is checked once
its tile has been read. -/
def State.rowOut (s : State) (t : Transfer) (src dst : Word) (n : Nat) : Nat :=
  let a := s.sideType s.mastNo t src
  let b := s.sideType s.mastNo t dst
  let e := b.1.width / 8
  if b.1.isEf8 then Nat.max 8 (t.budgetAt dst) else if s.sameSide src dst a b then n else if a.1.isEf8 then e
  else n / (a.1.width / 8) * e

/-- The bytes that a move reads and writes (none: it does not). Of an EF8 side or a stream it is what its range leaves room for. -/
def State.moveSizes (s : State) (t : Transfer) (v : Move) : Option Nat × Option Nat :=
  let a := s.sideType s.mastNo t v.src
  let b := s.sideType s.mastNo t v.dst
  let e := a.1.width / 8
  let tile := Nat.max 8 (roomIn t.rlo t.rlen v.src ef8Max)
  let budget := Nat.max 8 (t.budgetAt v.dst)
  match v.mode with
  | 0 => (some v.n, some v.n)
  | 1 => (some (if a.1.isEf8 then tile else v.n * e), some (if b.1.isEf8 then budget else v.n * (b.1.width / 8)))
  | 2 => (some (if a.1.isEf8 then tile else v.n * e), some budget)
  | 3 => (some (Nat.max 8 (t.streamRoom v.src v.n)), some (if b.1.isEf8 then budget else v.n * (b.1.width / 8)))
  | 4 => (some (4 * v.n), none)
  | 5 => (none, some v.n)
  | 10 => (some v.n, some budget)
  | 11 => (some 8, some (if b.1.isEf8 then budget else v.n))
  | 12 => (some 4, some (s.rowOut t t.hsrc v.dst v.n))
  | 13 => (some v.n, none)
  | _ => (some v.n, some (s.rowOut t v.src v.dst v.n))

/-- Whether a move writes a compressed or EF8 destination (R313). -/
def State.packs (s : State) (t : Transfer) (v : Move) : Bool :=
  v.mode = 2 || v.mode = 10 || ([1, 3, 8, 11].contains v.mode && (s.sideType s.mastNo t v.dst).1.isEf8)

/-- The check of a move (R304, R312, R313). -/
def State.moveCheck (s : State) (t : Transfer) (v : Move) : Ex State := do
  need (!s.packs t v || 8 ≤ t.budgetOf) (.trap 0x0D v.dst 0)
  let z := s.moveSizes t v
  let s ← match z.1 with | some n => s.readPart t v.src n | none => .ok s
  let s ← if v.mode = 13 then s.readPart t v.dst 4 else .ok s
  match z.2 with
  | some n => s.writePart t v.dst n
  | none => .ok s

/-- The index at an address. -/
def State.indexAt (s : State) (t : Transfer) (a : Word) : Ex (Nat × Nat × Word × State) := do
  let r ← s.mvRead t a 4
  let f := derrOf a 4 r.2.1
  .ok (ofBytes (rawBytes r.1 r.2.1), f.1, f.2, r.2.2)

/-- Advances the place of a packed stream. -/
def State.packBy (s : State) (mast h n : Nat) : State :=
  let y := s.hyAt mast h
  s.putHy mast h { y with packOff := y.packOff + n }

/-- A gather or scatter of one row, whose index stands at `ix`: `row` gives the address of the table's row. -/
def State.moveIndexed (s : State) (t : Transfer) (ix : Word) (go : State → Word → Ex Moved) (table : Word) (stride : Int) : Ex Moved := do
  let i ← s.indexAt t ix
  let m ← go i.2.2.2 (rowAddr table i.1 stride)
  .ok ⟨m.s, m.flags ||| i.2.1, if i.2.1 ≠ 0 then i.2.2.1 else m.addr⟩

/-- Performs a move. -/
def State.move (s : State) (mast h : Nat) (t : Transfer) (v : Move) : Ex Moved := do
  let s ← s.moveCheck t v
  let y := s.hyAt mast h
  match v.mode with
  | 0 => s.moveRaw t v.src v.dst v.n
  | 1 => s.moveCopy t v.src v.dst (some v.n) 0
  | 2 => do
    let p ← s.moveZip t v.src v.dst (some v.n) 0 (t.budgetAt v.dst)
    .ok p.1
  | 3 => do
    let p ← s.moveUnzip t v.src v.dst v.n
    .ok p.1
  | 4 => do
    let r ← s.mvRead t v.src (4 * v.n)
    let line := (elems v.n 4 (rawBytes r.1 r.2.1)).map (BitVec.ofNat 32)
    let f := derrOf v.src (4 * v.n) r.2.1
    .ok ⟨r.2.2.putHy mast h { r.2.2.hyAt mast h with ixLines := y.ixLines ++ [line] }, f.1, f.2⟩
  | 5 => s.moveZero v.dst v.n
  | 10 => do
    let p ← s.moveZip t v.src (v.dst + Word.of y.packOff) none v.n (t.budgetAt v.dst - y.packOff)
    .ok { p.1 with s := p.1.s.packBy mast h p.2 }
  | 11 => do
    let e := (s.sideType mast t v.dst).1.width / 8
    let p ← s.moveUnzip t (v.src + Word.of y.packOff) v.dst (v.n / e)
    .ok { p.1 with s := p.1.s.packBy mast h p.2 }
  | 12 => s.moveIndexed t v.src (fun s row => do
      let s ← s.readPart t row v.n
      s.moveCopy t row v.dst none v.n) t.hsrc (srcStride t.hstr)
  | 13 => s.moveIndexed t v.dst (fun s row => do
      let s ← s.writePart t row (s.rowOut t v.src row v.n)
      s.moveCopy t v.src row none v.n) t.hdst (dstStride t.hstr)
  | _ => s.moveCopy t v.src v.dst none v.n

/-- The next move of a halyard: the oldest one that its hart queued, or the next of its kernel. -/
def Halyard.nextMove (y : Halyard) : Option Move := (y.queue ++ y.plan).head?

/-- A halyard whose next move has been performed. -/
def Halyard.pop (y : Halyard) : Halyard :=
  match y.queue with
  | _ :: r => { y with queue := r }
  | [] => { y with plan := y.plan.tail }

/-- A transfer without a hart ends when its moves are done, or at a budget overrun. -/
def Halyard.afterMove (y : Halyard) (flags : Nat) (addr : Word) : Halyard :=
  let y := { y with flags := y.flags ||| flags, derrAddr := if y.flags / 2 % 2 = 0 then addr else y.derrAddr }
  if y.hart = 0 && (y.plan.isEmpty || flags / 4 % 2 = 1) then { y with stage := .ended, plan := [] } else y

/-- Whether the stores and packets of a halyard's hart that a move has to follow have been performed: its earlier stores (R318,
R325), and what a releasing FENCE before it names (R331). -/
def State.moveInOrder (s : State) (y : Halyard) (v : Move) : Bool :=
  y.hart = 0 || (((s.ctxAt y.hart).storeBuf.all fun st => decide (v.order ≤ st.order)) && s.packetsDone y.hart v.rel)

/-- MOVE_PERFORM (R312, R313, R318) on halyard `place.b` of mast `place.a`. -/
def execMovePerform (s : State) : Host.Outcome State Fault Refusal :=
  let mast := s.place.a
  let h := s.place.b
  let y := s.hyAt mast h
  match y.journal, y.nextMove with
  | t :: _, some v =>
    if y.stage = .running && s.runs t.launch && s.moveInOrder y v && !(s.mastAt mast).opBlocked t.entry [] then
      match (s.asHart mast h t).move mast h t v with
      | .ok m => .next (m.s.putHy mast h ((m.s.hyAt mast h).pop.afterMove m.flags m.addr))
      | .error (.trap c a _) => .next (s.stopTransfer mast h c a)
      | .error _ => s.passed
    else s.passed
  | _, _ => s.passed

/-! ### The registers of a hart (R312) -/

/-- The checks of a hart CSR's number on the engine that acts: privileged on a core, absent on a tackle core. -/
def State.hartOnly (s : State) (n : Nat) (i : Instr) : Ex Unit := do
  s.csrPrivilege n
  need (s.csrExists n) (s.csrIllegal i)

/-- The halyard of the hart that acts. -/
def State.hart (s : State) : Halyard := s.mast.hy (hyNo s.cur.core)

/-- Replaces the halyard of the hart that acts. -/
def State.setHart (s : State) (y : Halyard) : State := s.setMast (s.mast.setHy (hyNo s.cur.core) y)

/-- Whether a count fits its mode. -/
def moveCountOk (mode n : Nat) : Bool :=
  if mode = 0 || mode = 1 then decide (1 ≤ n) && decide (n ≤ 65536) else if mode = 4 then decide (1 ≤ n) && decide (n ≤ 16) else true

/-- MVGO (R312): it checks the move and queues it, in its place among the hart's stores and packets. -/
def execMvgo (r : Reg) (s : State) : Host.Outcome State Fault Refusal :=
  s.finish (do
    s.hartOnly 0x112 (.mvgo r)
    let v := s.reg r
    let mode := bits v 35 32
    let n := bits v 31 0
    need (bits v 63 36 = 0 && mode < 6 && moveCountOk mode n) (.trap 0x01 s.pc 0)
    let y := s.hart
    need (y.queue.length < 8) .wait
    match y.journal with
    | [] => trapX 0x01 s.pc 0
    | t :: _ => do
      let m : Move := ⟨y.mvsrc, y.mvdst, mode, n, s.ctx.order, s.ctx.relOrd⟩
      let s ← s.moveCheck t m
      let s := s.setHart { s.hart with queue := y.queue ++ [m] }
      .ok ((s.setCtx { s.ctx with order := s.ctx.order + 1 }).advance 1))

/-- MVWAIT (R312). -/
def execMvwait (d : Reg) (s : State) : Host.Outcome State Fault Refusal :=
  s.finish (do
    s.hartOnly 0x113 (.mvwait d)
    need s.hart.queue.isEmpty .wait
    .ok (s.result 1 d (Word.of s.hart.flags)))

/-- HIDX (R312, R317). -/
def execHidx (d : Reg) (s : State) : Host.Outcome State Fault Refusal :=
  s.finish (do
    s.hartOnly 0x114 (.hidx d)
    match s.hart.ixLines with
    | [] => waitX
    | l :: r => .ok ((s.setHart { s.hart with ixLines := r, ixCur := l }).result 1 d (Word.of l.length)))

/-- HIDXW (R312, R317). -/
def execHidxw (d : Reg) (s : State) : Host.Outcome State Fault Refusal :=
  s.finish (do
    s.hartOnly 0x115 (.hidxw d)
    match s.hart.ixCur with
    | [] => .ok (s.result 1 d 0xFFFFFFFFFFFFFFFF)
    | x :: r => .ok ((s.setHart { s.hart with ixCur := r }).result 1 d (x.zeroExtend 64)))

/-! ### Completion (R314, R317) -/

/-- The status word of a mailbox (R314). -/
def mboxWord (t : Transfer) (y : Halyard) : Word :=
  let cause := match y.fault with | some f => f.1 | none => 0
  Word.of (t.id.toNat * 2 ^ 48 + cause * 2 ^ 24 + y.user.toNat * 2 ^ 16 + (if y.fault.isSome then 8 else 0) + y.flags % 8 / 2 * 2 + 1)

/-- The address double of a mailbox (R314). -/
def mboxAddr (y : Halyard) : Word := match y.fault with | some f => f.2 | none => y.derrAddr

/-- The status that a transfer merges into its barrier (R226, R317). -/
def transferStatus (y : Halyard) : Word :=
  let bad := match y.fault with | some f => (if f.1 = 0x0D then 64 else 0) + 128 | none => 0
  Word.of (bad + (if y.flags / 4 % 2 = 1 then 8 else 0) + (if y.flags / 2 % 2 = 1 then 16 else 0))

/-- Writes the mailbox: it waits as a drained store, or for the walker. A place that is no longer accessible, or that touches an
armed barrier object, is not written (R228, log entry 34). -/
def State.writeMbox (s : State) (t : Transfer) (y : Halyard) : Ex State :=
  if t.mbox = 0 || s.spanArmed t.mbox 16 then .ok s
  else
    match s.mvRuns t.mbox 16 .moveW [0x0, 0x9] with
    | .error .wait => waitX
    | .error _ => .ok s
    | .ok (rs, s) => do
      need (space t.mbox ≠ 0x9 || rs.all fun r => !conflict s.mast.sb true (granules (keyOff r.1) r.2.2).1 (granules (keyOff r.1) r.2.2).2) .wait
      let bs := wordsToBytes [mboxWord t y, mboxAddr y]
      .ok (rs.foldl (fun s r => s.write r.1 ((bs.drop r.2.1).take r.2.2)) s)

/-- An event enters a context's pending list; a parked context becomes resumable (R88). None while the list is full. -/
def State.postEvent (s : State) (l c : Nat) (e : UEvent) : Option State :=
  if !s.ctxs.has c then some (s.putLaunch l { s.launchAt l with evdrop := satAdd (s.launchAt l).evdrop 1 })
  else
    let x := s.ctxAt c
    if 16 ≤ x.pending.length then none
    else some ((s.putCtx c { x with pending := x.pending ++ [e] }).signal c)

/-- The end of copy `id` for NOWN or NDUP: the context that waits for it finds it done, or finds the fault that stopped it. -/
def State.copyDone (s : State) (c : Nat) (id : BitVec 16) (fault : Option (Nat × Word)) : State :=
  let x := s.ctxAt c
  match x.await with
  | .copy i a => if i = id then (s.putCtx c { x with await := .copied a fault }).signal c else s
  | _ => s

/-- Whether everything that a transfer writes has been performed: its hart's stores and its remote stores (R317). -/
def State.transferWritten (s : State) (mast h : Nat) (t : Transfer) (y : Halyard) : Bool :=
  y.queue.isEmpty && (y.hart = 0 || (s.ctxAt y.hart).storeBuf.isEmpty)
    && s.net.all fun p => !(decide (p.src = hartCore mast h) && decide (p.launch = t.launch))

/-- The entry of an ended transfer retires (R203, R317). -/
def State.retireTransfer (s : State) (mast h : Nat) (t : Transfer) : State :=
  let s := s.putMast mast ((s.mastAt mast).retire t.entry)
  s.putHy mast h { s.hyAt mast h with stage := .retired }

/-- The mailbox of a retired transfer, its arrival, and the end of a copy (R162, R317). -/
def State.reportTransfer (s : State) (mast h : Nat) (t : Transfer) : Ex State := do
  let y := s.hyAt mast h
  let s ← (s.asHart mast h t).writeMbox t y
  let s := if t.bar = 0 then s else s.arrive mast t.launch ((s.mastAt mast).physOff (bits t.bar 19 0)) (transferStatus y)
  let s := match t.copy with | some c => s.copyDone c.1 t.id y.fault | none => s
  .ok (s.putHy mast h { s.hyAt mast h with stage := .reported })

/-- The event of a reported transfer, which then is complete: the halyard is free for the next (R311, R317). None while the context's
pending list is full. -/
def State.endTransfer (s : State) (mast h : Nat) (t : Transfer) : Option State :=
  let y := s.hyAt mast h
  let s := if t.irq then s.postEvent t.launch t.ctx ⟨1, t.id.zeroExtend 64, t.hand⟩ else some s
  s.map fun s =>
    let s := s.putHy mast h { Halyard.init with journal := y.journal.tail, seq := y.seq }
    if y.hart = 0 then s else { s with ctxs := s.ctxs.erase y.hart }

/-- HALYARD_COMPLETE (R317) on halyard `place.b` of mast `place.a`: the next step of an ended transfer's completion. A killed
task's transfer reports nothing (R320). -/
def execHalyardComplete (s : State) : Host.Outcome State Fault Refusal :=
  let mast := s.place.a
  let h := s.place.b
  let y := s.hyAt mast h
  match y.journal with
  | t :: _ =>
    if !s.runs t.launch then s.passed
    else
      match y.stage with
      | .ended => if s.transferWritten mast h t y then .next (s.retireTransfer mast h t) else s.passed
      | .retired => s.happen (s.reportTransfer mast h t)
      | .reported => match s.endTransfer mast h t with | some u => .next u | none => s.passed
      | _ => s.passed
  | [] => s.passed

end Sys2Proof.Machine
end

