-- ==== Sys2Proof/Machine/Streams.lean ====
section
/-! DEFINITION. Shroud links, tackle graphs and streams (R377 to R389). -/

namespace Sys2Proof.Machine

/-! ### The checksum of a parameter block (R386) -/

/-- One step of the CRC-32C of a bit-reflected register. -/
def crcShift (c : BitVec 32) : BitVec 32 := if c.getLsbD 0 then (c >>> 1) ^^^ 0x82F63B78#32 else c >>> 1

/-- One byte of the CRC-32C. -/
def crcByte (c : BitVec 32) (b : Byte) : BitVec 32 :=
  (List.range 8).foldl (fun c _ => crcShift c) (c ^^^ (b.setWidth 32))

/-- CRC-32C of a list of bytes. -/
def crc32c (bs : List Byte) : BitVec 32 := ~~~(bs.foldl crcByte (BitVec.allOnes 32))

/-! ### Numbers -/

/-- The tackle of a core number. -/
def tackleOf (core : Nat) : Nat := (core - 8192) / 8

/-- The shroud of a tackle. -/
def shroudOf (tackle : Nat) : Nat := tackle / 2

/-- A tackle by number. -/
def State.tackleAt (s : State) (t : Nat) : Tackle := s.tackles.get t Tackle.init

/-- Replaces a tackle. -/
def State.putTackle (s : State) (t : Nat) (x : Tackle) : State := { s with tackles := s.tackles.set t x }

/-- A shroud by number. -/
def State.shroudAt (s : State) (n : Nat) : Shroud := s.shrouds.get n Shroud.init

/-- Replaces a shroud. -/
def State.putShroud (s : State) (n : Nat) (x : Shroud) : State := { s with shrouds := s.shrouds.set n x }

/-- Whether a shroud carries flits now: streams pause during a retrain (R379). -/
def Shroud.flows (x : Shroud) : Bool := x.up && !x.training

/-- Sends a flit to the peer. -/
def State.sendFlit (s : State) (n : Nat) (f : Flit) : State :=
  s.putShroud n { s.shroudAt n with sent := (s.shroudAt n).sent ++ [f] }

/-- A stream by tackle and handle. -/
def State.streamOf (s : State) (t h : Nat) : Option Stream :=
  s.streams.find? fun x => decide (x.tackle = t) && x.held && x.opened && decide (x.handle = h)

/-- Replaces a stream. -/
def State.setStream (s : State) (x : Stream) : State :=
  { s with streams := s.streams.map fun y => if y.id = x.id then x else y }

/-- Whether both ends have closed a stream, or its link is down: its receive window is released (R387). -/
def Stream.ended (x : Stream) : Bool := decide (x.code ≠ 0) && x.peerEnd

/-- Whether nothing names a stream any more: its handle is free, and no flit of it can come. -/
def Stream.over (x : Stream) : Bool := !x.held && x.ended

/-- Drops the streams that nothing names. -/
def State.sweepStreams (s : State) : State := { s with streams := s.streams.filter fun x => !x.over }

/-- The size of an element of a stream. -/
def Stream.size (x : Stream) : Nat := ((ETy.ofCode x.etype).getD .n8).width / 8

/-- Whether the hardware alone drives a stream (R385). -/
def Stream.bound (x : Stream) : Bool := decide (x.q ≠ 31) && decide (x.dir ≠ 2)

/-! ### Closing (R387, R388) -/

/-- The status that an arrival of a close merges; none for code 5. -/
def closeStatus (c : Nat) : Option Word :=
  if c = 1 then some 0
  else if c = 2 then some (Word.of (10 * 65536 + 128))
  else if c = 3 ∨ c = 4 then some (Word.of (9 * 65536 + 128))
  else if c = 6 then some 64
  else none

/-- Writes bytes at an offset of a stream's block. In the heap that is a store through the extents of the stream's core (R350): a
miss and a dirty request are served within the step (log entry 56), a walk that fails fails the launch (R352), and a range or page
that takes no store keeps what it holds, since no instruction is there to trap (log entry 38). -/
def State.blockWrite (s : State) (x : Stream) (off : Nat) (bs : List Byte) : State :=
  if space x.block ≠ 0x0 then s.write (x.key + off) bs
  else
    let v := x.block.toNat % 2 ^ 57
    let t : State := { s with cur := ⟨x.core, x.ctx, taskKey x.launch x.core, x.launch⟩ }
    match t.ensure v .store with
    | .ok u =>
      match extentOf u.extents v with
      | some e => { u.write (e.pbase + (v - e.vbase) + off) bs with cur := s.cur }
      | none => s
    | .error _ =>
      match t.failingWalk v .store with
      | some (w, level) => s.walkFailed x.launch x.core w level
      | none => s

/-- Writes the count and the code of a close into the block, and makes the arrival. -/
def State.closeBlock (s : State) (x : Stream) (c : Nat) : State :=
  let s := (s.blockWrite x 56 (toBytes 8 x.moved)).blockWrite x 48 [BitVec.ofNat 8 c]
  let bar := x.dbl.getD 5 0
  match closeStatus c with
  | some st => if bar = 0 then s else s.emitUnit 0 x.core (8 * bits bar 41 32) x.launch 32 (.arrival bar st)
  | none => s

/-- close(c) of a stream: a flit tells the peer, after the retrain where one runs (R379), unless the port is down. -/
def State.closeStream (s : State) (x : Stream) (c : Nat) : State :=
  let s := s.closeBlock x c
  let s := s.setStream { x with code := c, held := x.held && decide (c ≠ 5) }
  let n := shroudOf x.tackle
  let s := if (s.shroudAt n).up then s.sendFlit n (.close (x.tackle % 2) x.sid x.dir c) else s
  s.sweepStreams

/-- Closes every open stream that a condition picks. -/
def State.closeAll (s : State) (f : Stream → Bool) (c : Stream → Nat) : State :=
  (s.streams.filter fun x => x.opened && decide (x.code = 0) && f x).foldl (fun s x => s.closeStream x (c x)) s

/-- Whether a stream's own part had finished when its link failed (R388). -/
def Stream.finished (x : Stream) : Bool :=
  decide (x.total ≤ (if x.dir = 0 then x.moved + (x.stage.length + (x.rx.map (·.length)).sum) / x.size else x.acked))

/-- Whether the stores of a context have drained and its packets have been applied: what a close by it waits for (R387, R389). -/
def State.closeReady (s : State) (c : Nat) : Bool := (s.ctxAt c).storeBuf.isEmpty && s.packetsDone c (s.ctxAt c).order

/-- Whether every write of a stream has drained, of whichever context of its tackle (R389). -/
def State.streamDrained (s : State) (x : Stream) : Bool := x.writers.all fun c => (s.ctxAt c).storeBuf.isEmpty

/-! ### Parameter blocks (R385) -/

/-- The counts of the loop nest, level 0 first. -/
def nestCounts (d : List Word) : List Nat := (List.range 4).map fun j => bits (d.getD 1 0) (16 * j + 15) (16 * j)

/-- The strides of the loop nest, level 0 first. -/
def nestStrides (d : List Word) : List Int :=
  (List.range 4).map fun j => sextN 32 (bits (d.getD (2 + j / 2) 0) (32 * (j % 2) + 31) (32 * (j % 2)))

/-- The offset of element `k` of a nest. -/
def nestOffset : List Nat → List Int → Nat → Int
  | n :: ns, st :: sts, k => (k % n : Nat) * st + nestOffset ns sts (k / n)
  | _, _, _ => 0

/-- The address of element `k` (R385). -/
def nestAddr (d : List Word) (k : Nat) : Word := d.getD 4 0 + ofInt (nestOffset (nestCounts d) (nestStrides d) k)

/-- The first byte of the nest, from its base, and the length of the whole range. -/
def nestSpan (d : List Word) (e : Nat) : Int × Nat :=
  let ps := (nestCounts d).zip (nestStrides d)
  let lo := (ps.map fun p => if p.2 < 0 then ((p.1 : Int) - 1) * p.2 else 0).sum
  let hi := (ps.map fun p => if p.2 < 0 then 0 else ((p.1 : Int) - 1) * p.2).sum
  (lo, (hi - lo).toNat + e)

/-- Whether the fields of a block are in their ranges, for the streamer core `role` (R380, R385, R386). -/
def streamBlockOk (d : List Word) (role : Nat) (slots : Nat → Nat) : Bool :=
  let d6 := d.getD 6 0
  let ty := bits (d.getD 0 0) 47 44
  let e := ((ETy.ofCode ty).getD .n8).width / 8
  let q := bits d6 52 48
  let win := bits d6 47 40
  decide (bits (d.getD 0 0) 43 0 = 0) && decide (bits d6 61 53 = 0) && decide (bits d6 39 8 = 0)
    && decide (ty < 12) && decide (q < 16 ∨ q = 31) && (decide (q = 31) || decide (slots q ≠ 0))
    && (nestCounts d).all (fun n => decide (n ≠ 0)) && (nestStrides d).all (fun st => decide (st % (e : Int) = 0))
    && decide (bits d6 63 62 = role) && decide (role < 3)
    && (decide (role ≠ 0) || (decide (1 ≤ win) && decide (win ≤ 64)))

/-- The slots of bank 3 that the graph of a tackle has taken (R382). -/
def Tackle.graphSlots (t : Tackle) : Nat := (t.slots.map (·.2)).sum

/-- The slots that receive windows hold (R386). -/
def State.windows (s : State) (t : Nat) : Nat :=
  ((s.streams.filter fun x => decide (x.tackle = t) && decide (x.dir = 0) && !x.ended).map (·.win)).sum

/-- The lowest handle of a tackle that no stream has. -/
def State.freeHandle (s : State) (t : Nat) : Option Nat :=
  (List.range 16).find? fun h => s.streams.all fun x => !(decide (x.tackle = t) && x.held && decide (x.handle = h))

/-- Whether a kept flit of the peer opens, or closes, the stream that meets tackle `t`'s of this id and direction. -/
def flitMeets (opens : Bool) (t sid dir : Nat) (f : Flit) : Bool :=
  match f with
  | .open_ t' sid' dir' _ => opens && decide (t' = t % 2) && decide (sid' = sid) && decide ((dir = 0) ≠ (dir' = 0))
  | .close t' sid' dir' _ => !opens && decide (t' = t % 2) && decide (sid' = sid) && decide ((dir = 0) ≠ (dir' = 0))
  | _ => false

/-- The peer's SOPEN that meets a stream: the same id and the opposite direction. -/
def Shroud.peerOpen (x : Shroud) (t sid dir : Nat) : Option (BitVec 32) :=
  match x.peers.find? (flitMeets true t sid dir) with
  | some (.open_ _ _ _ c) => some c
  | _ => none

/-- Whether the peer has closed its stream behind that SOPEN before the local one has met it (R388). -/
def Shroud.peerShut (x : Shroud) (t sid dir : Nat) : Bool := x.peers.any (flitMeets false t sid dir)

/-- A close of the peer for a stream that is not open here: `opening` says that a SOPEN has begun for it, and it is kept behind the
peer's open; else open and close go together. One whose open has been met already says no more than this end knows (log entry 77). -/
def Shroud.keepClose (x : Shroud) (opening : Bool) (t sid dir : Nat) (f : Flit) : Shroud :=
  let d := if dir = 0 then 1 else 0
  let n (opens : Bool) : Nat := x.peers.countP (flitMeets opens t sid d)
  if n true ≤ n false then x
  else if opening then { x with peers := x.peers ++ [f] }
  else { x with peers := x.peers.filter fun g => !flitMeets true t sid d g && !flitMeets false t sid d g }

/-- Takes that SOPEN of the peer away, and its close where it has come. -/
def Shroud.takePeer (x : Shroud) (t sid dir : Nat) : Shroud :=
  { x with peers := (x.peers.eraseP (flitMeets true t sid dir)).eraseP (flitMeets false t sid dir) }

/-! ### Stream instructions (R386) -/

/-- The bytes that the checksum covers. -/
def blockCrc (d : List Word) : BitVec 32 := crc32c (wordsToBytes (d.take 2))

/-- The check and the registration of a SOPEN, before it waits for the peer. -/
def State.sopenStart (s : State) (a : Word) : Ex State := do
  let key ← s.memCheck a 64 .load [0x0, 0x9]
  let r ← s.readChecked a key 64
  let s := r.2
  let d := bytesToWords 8 r.1
  let t := tackleOf s.cur.core
  let x := s.tackleAt t
  let e := ((ETy.ofCode (bits (d.getD 0 0) 47 44)).getD .n8).width / 8
  let dir := bits (d.getD 6 0) 63 62
  let win := bits (d.getD 6 0) 47 40
  need (streamBlockOk d (s.cur.core % 8) (fun q => x.slots.get q 0)) (s.bad0C 0)
  match s.freeHandle t with
  | none => .error (s.bad0C 0)
  | some h => do
    let span := nestSpan d e
    let base := d.getD 4 0
    let s ← if bits (d.getD 6 0) 52 48 ≠ 31 then .ok s else do
      need (base.toNat % e = 0) (.trap 0x03 base 0)
      s.spanCheck (base + ofInt span.1) span.2 (if dir = 0 then .store else .load) [0x0, 0x9]
    need (dir ≠ 0 || win ≤ 256 - x.graphSlots) (s.bad0C 0)
    need (dir ≠ 0 || win + s.windows t + x.graphSlots ≤ 256) .wait
    need (s.shroudAt (shroudOf t)).flows .wait
    let y : Stream :=
      { id := s.nextId + 1, tackle := t, handle := h, held := true, core := s.cur.core, launch := s.cur.launch, ctx := s.cur.ctx,
        sid := bits (d.getD 0 0) 63 48, block := a, key := key, dbl := d, dir := dir, q := bits (d.getD 6 0) 52 48,
        win := if dir = 0 then win else 0, etype := bits (d.getD 0 0) 47 44, total := (nestCounts d).foldl (· * ·) 1,
        moved := 0, opener := s.pc, sends := [], tx := [], stage := [], writers := [s.cur.ctx], acked := 0, credit := 0, opened := false
        code := 0, peerEnd := false, rx := [], rxPart := [] }
    .ok ({ s with streams := s.streams ++ [y], nextId := s.nextId + 1 }.sendFlit (shroudOf t) (.open_ (t % 2) y.sid dir (blockCrc d)))

/-- The stream that the SOPEN at a context's pc is opening. -/
def State.opening (s : State) (ctx : Nat) : Option Stream :=
  s.streams.find? fun x => decide (x.ctx = ctx) && decide (x.opener = (s.ctxAt ctx).pc) && !x.opened && decide (x.code = 0)

/-- The end of a SOPEN where the peer's has come and what its context wrote before has been performed, since code 0 is written to
its block and a close is a release (R387); it waits otherwise. Both ends tell the other of a checksum that differs. A stream that
the peer has closed by now opens and is closed with code 4 (R388, log entry 77). -/
def State.sopenMeet (s : State) (d : Reg) (x : Stream) : State :=
  let n := shroudOf x.tackle
  match (s.shroudAt n).peerOpen x.tackle x.sid x.dir with
  | none => s.waiting
  | some c =>
    if !s.closeReady s.cur.ctx then s.waiting
    else
      let shut := (s.shroudAt n).peerShut x.tackle x.sid x.dir
      let s := s.putShroud n ((s.shroudAt n).takePeer x.tackle x.sid x.dir)
      if c ≠ blockCrc x.dbl then
        let s := (s.closeBlock x 2).sendFlit n (.close (x.tackle % 2) x.sid x.dir 2)
        let s := { s with streams := s.streams.filter fun y => decide (y.id ≠ x.id) }
        s.result 1 d (BitVec.allOnes 64)
      else
        let x := { x with opened := true, peerEnd := shut }
        let s := (s.setStream x).blockWrite x 48 [0#8]
        let s := if x.dir = 0 then s.sendFlit n (.credit (x.tackle % 2) x.sid x.win) else s
        (if shut then s.closeStream x 4 else s).result 1 d (Word.of x.handle)

/-- SOPEN (R386). -/
def execSopen (d : Reg) (a : RcSrc) (s : State) : Host.Outcome State Fault Refusal :=
  match s.opening s.cur.ctx with
  | some x => .next (s.sopenMeet d x)
  | none =>
    s.finish (do
      let t ← s.sopenStart (s.rc a)
      match t.opening t.cur.ctx with
      | some x => .ok (t.sopenMeet d x)
      | none => .ok t.waiting)

/-- The elements of a token. -/
def tokenElems (e : Nat) : Nat := 256 / e

/-- mem_check of an element of a stream, of which a token may need more extents than a task holds: a miss and a dirty request are
served within the step (log entry 56). -/
def State.elemCheck (s : State) (ea : Word) (e : Nat) (k : Acc) : Ex (Nat × State) :=
  match s.memCheck ea e k [0x0, 0x9] with
  | .ok key => .ok (key, s)
  | .error .wait => do
    let s ← s.ensure (ea.toNat % 2 ^ 57) k
    let key ← s.memCheck ea e k [0x0, 0x9]
    .ok (key, s)
  | .error x => .error x

/-- Reads elements `k` to `k + n - 1` of a stream as loads of the acting context. -/
def State.readNest (s : State) (d : List Word) (e : Nat) : Nat → Nat → Ex (List Byte × State)
  | 0, _ => .ok ([], s)
  | n + 1, k => do
    let c ← s.elemCheck (nestAddr d k) e .load
    let r ← c.2.readChecked (nestAddr d k) c.1 e
    let q ← r.2.readNest d e n (k + 1)
    .ok (r.1 ++ q.1, q.2)

/-- Checks elements `k` to `k + n - 1` of a stream as stores. -/
def State.checkNest (s : State) (d : List Word) (e : Nat) : Nat → Nat → Ex Unit
  | 0, _ => .ok ()
  | n + 1, k => do
    let c ← s.elemCheck (nestAddr d k) e .store
    c.2.checkNest d e n (k + 1)

/-- Writes elements from `k` on as stores of the acting context; `n` bounds their number. -/
def State.writeNest (s : State) (d : List Word) (e : Nat) : Nat → Nat → List Byte → Ex State
  | 0, _, _ => .ok s
  | _ + 1, _, [] => .ok s
  | n + 1, k, bs => do
    let c ← s.elemCheck (nestAddr d k) e .store
    (c.2.buffer (nestAddr d k) c.1 (bs.take e) false).writeNest d e n (k + 1) (bs.drop e)

/-- The elements of a list of tokens. -/
def Stream.count (x : Stream) (ts : List (List Byte)) : Nat := (ts.map (·.length)).sum / x.size

/-- The open stream of a handle that a SPUT (`send`) or SGET moves: bound to no queue, and not closed. -/
def State.streamNamed (s : State) (h : Word) (send : Bool) : Ex Stream :=
  match (if h.toNat < 16 then s.streamOf (tackleOf s.cur.core) h.toNat else none) with
  | none => .error (s.bad0C 0)
  | some x => do
    need (!x.bound && decide (x.code = 0) && decide ((x.dir ≠ 0) = send)) (s.bad0C 0)
    .ok x

/-- The checks that SPUT and SGET share. Elements that a SPUT under way has taken count as moved. -/
def State.streamFor (s : State) (h : Word) (n : Nat) (send : Bool) : Ex Stream := do
  let x ← s.streamNamed h send
  need (x.moved + x.count x.tx + n ≤ x.total) (s.bad0C 0)
  .ok x

/-- Whether a graph queue has a free slot. -/
def Tackle.room (t : Tackle) (q : Nat) : Bool := decide ((t.queues.get q []).length < t.slots.get q 0)

/-- Publishes a token on a graph queue. -/
def Tackle.publish (t : Tackle) (q : Nat) (b : List Byte) : Tackle := { t with queues := t.queues.set q (t.queues.get q [] ++ [b]) }

/-- The flits that carry a token of a stream, 32 bytes each; `fuel` bounds their number (R377). -/
def tokenFlits (t sid : Nat) : Nat → List Byte → List Flit
  | 0, bs => [.data t sid bs true]
  | f + 1, bs => if bs.length ≤ 32 then [.data t sid bs true] else .data t sid (bs.take 32) false :: tokenFlits t sid f (bs.drop 32)

/-- Sends a token of a stream to the peer. -/
def State.sendToken (s : State) (x : Stream) (bs : List Byte) : State :=
  (tokenFlits (x.tackle % 2) x.sid 8 bs).foldl (fun s f => s.sendFlit (shroudOf x.tackle) f) s

/-- The tokens of a run of bytes, of 256 bytes each but for the last; `fuel` bounds their number. -/
def cutTokens : Nat → List Byte → List (List Byte)
  | 0, _ => []
  | _ + 1, [] => []
  | f + 1, bs => if bs.length ≤ 256 then [bs] else bs.take 256 :: cutTokens f (bs.drop 256)

/-- Sends the tokens that SPUTs have read while credit lasts, and puts each on the stream's queue where it has one. -/
def State.sendTokens (x : Stream) : List (List Byte) → State → Stream × State
  | [], s => ({ x with tx := [] }, s)
  | b :: rest, s =>
    if x.credit = 0 || !(s.shroudAt (shroudOf x.tackle)).flows || (x.q ≠ 31 && !(s.tackleAt x.tackle).room x.q) then
      ({ x with tx := b :: rest }, s)
    else
      let s := s.sendToken x b
      let s := if x.q = 31 then s else s.putTackle x.tackle ((s.tackleAt x.tackle).publish x.q b)
      State.sendTokens { x with credit := x.credit - 1, moved := x.moved + b.length / x.size } rest s

/-- The SPUT under way at the pc of the context that acts. -/
def Stream.sending (x : Stream) (ctx : Nat) (pc : Word) : Option Sending :=
  x.sends.find? fun p => decide (p.ctx = ctx) && decide (p.pc = pc)

/-- The reads of a SPUT, of all of its elements at its first execution, so that one that traps has sent nothing (R83); its tokens
stand behind those of every earlier SPUT. -/
def State.putRead (s : State) (x : Stream) (n : Nat) : Ex (Sending × Stream × State) := do
  let first := x.moved + x.count x.tx
  let r ← s.readNest x.dbl x.size n first
  let p : Sending := ⟨s.cur.ctx, s.pc, first + n⟩
  .ok (p, { x with sends := x.sends ++ [p], tx := x.tx ++ cutTokens n r.1 }, r.2)

/-- SPUT (R386): it reads its elements and sends them as credit comes; executed again after a wait, it goes on with them (log entry 77). -/
def execSput (h : Reg) (n : Src) (s : State) : Host.Outcome State Fault Refusal :=
  s.finish (do
    let y ← s.streamNamed (s.reg h) true
    let r ←
      match y.sending s.cur.ctx s.pc with
      | some p => .ok (p, y, s)
      | none => do
        let x ← s.streamFor (s.reg h) (s.src n).toNat true
        s.putRead x (s.src n).toNat
    let q := State.sendTokens r.2.1 r.2.1.tx r.2.2
    if r.1.goal ≤ q.1.moved then .ok ((q.2.setStream { q.1 with sends := q.1.sends.erase r.1 }).advance 1)
    else .ok (q.2.setStream q.1).waiting)

/-- Takes `n` bytes from the front of received tokens: the bytes, the tokens left, and the tokens used up. -/
def takeBytes : Nat → Nat → List (List Byte) → List Byte × List (List Byte) × Nat
  | 0, _, ts => ([], ts, 0)
  | _ + 1, _, [] => ([], [], 0)
  | f + 1, n, t :: ts =>
    if n = 0 then ([], t :: ts, 0)
    else if n < t.length then (t.take n, t.drop n :: ts, 0)
    else
      let r := takeBytes f (n - t.length) ts
      (t ++ r.1, r.2.1, r.2.2 + 1)

/-- SGET (R386): it waits for all of its elements, taking them out of the window as they come, and then writes them; while it
waits it has moved none (log entry 77). -/
def execSget (h : Reg) (n : Src) (s : State) : Host.Outcome State Fault Refusal :=
  s.finish (do
    let k := (s.src n).toNat
    let x ← s.streamFor (s.reg h) k false
    s.checkNest x.dbl x.size k x.moved
    let r := takeBytes x.rx.length (k * x.size - x.stage.length) x.rx
    let bs := x.stage ++ r.1
    let credit (t : State) : State :=
      if r.2.2 = 0 then t else t.sendFlit (shroudOf x.tackle) (.credit (x.tackle % 2) x.sid r.2.2)
    if k * x.size ≤ bs.length then do
      let t ← s.writeNest x.dbl x.size k x.moved (bs.take (k * x.size))
      let y := { x with rx := r.2.1, stage := bs.drop (k * x.size), moved := x.moved + k
                        writers := if x.writers.contains s.cur.ctx then x.writers else x.writers ++ [s.cur.ctx] }
      .ok (((credit t).setStream y).advance 1)
    else .ok ((credit s).setStream { x with rx := r.2.1, stage := bs }).waiting)

/-- SCLOSE (R386). Its arrival waits for every write of the stream and for what its own context wrote before (R389). -/
def execSclose (d : Reg) (h : Src) (s : State) : Host.Outcome State Fault Refusal :=
  match (if (s.src h).toNat < 16 then s.streamOf (tackleOf s.cur.core) (s.src h).toNat else none) with
  | none => s.finish (.error (s.bad0C 0))
  | some x =>
    let done := x.moved = x.total ∧ (x.dir = 0 ∨ x.acked = x.total)
    if x.code ≠ 0 then .next ((s.setStream { x with held := false }).sweepStreams.result 1 d (Word.of x.moved))
    else if done ∧ s.closeReady s.cur.ctx ∧ s.streamDrained x then
      let t := s.closeStream x 1
      match t.streamOf x.tackle x.handle with
      | some y => .next ((t.setStream { y with held := false }).sweepStreams.result 1 d (Word.of x.moved))
      | none => .next (t.result 1 d (Word.of x.moved))
    else .next s.waiting

/-! ### The link (R377 to R379) -/

/-- The stream of a tackle that the flits of a stream id now reach, in a direction: the oldest that the peer has not closed. -/
def State.streamBySid (s : State) (t sid : Nat) (recv : Bool) : Option Stream :=
  s.streams.find? fun x => decide (x.tackle = t) && decide (x.sid = sid) && (decide (x.dir = 0) == recv) && x.opened && !x.peerEnd

/-- A token of a stream is complete: it stands in the window, and its elements are acknowledged. -/
def State.tokenIn (s : State) (shroud : Nat) (x : Stream) (b : List Byte) : State :=
  (s.setStream { x with rx := x.rx ++ [b], rxPart := [] }).sendFlit shroud (.ack (x.tackle % 2) x.sid (b.length / x.size))

/-- The replay buffer of this end of a link: the flits that the peer's end has not acknowledged, in the order sent. A flit that
fails its check there, and every flit behind it, is sent again from here, so that the peer takes each once and in order (R377,
log entry 72). -/
def Shroud.replay (x : Shroud) : List Flit := x.sent.drop x.acked

/-- Whether a flit travels on the control channel (R377). -/
def onControl : Flit → Bool
  | .data _ _ _ _ => false
  | _ => true

/-- The credits of a channel that are in use: the flits on it that the peer's end has not acknowledged (R377). -/
def Shroud.creditsUsed (x : Shroud) (control : Bool) : Nat := (x.replay.filter fun f => onControl f == control).length

/-- SHROUD_FLIT_ARRIVE (R377, R386 to R388): a flit of the peer, in order and once. A close of a stream that is still opening here is
kept behind its open; where no SOPEN of it has begun here, open and close go together. -/
def execShroudFlitArrive (shroud : Nat) (f : Flit) (s : State) : Host.Outcome State Fault Refusal :=
  let off : Host.Outcome State Fault Refusal := s.passed
  if !(s.shroudAt shroud).flows then off
  else
    match f with
    | .open_ _ _ _ _ => .next (s.putShroud shroud { s.shroudAt shroud with peers := (s.shroudAt shroud).peers ++ [f] })
    | .data t sid bs last =>
      match s.streamBySid (2 * shroud + t) sid true with
      | some x =>
        let b := x.rxPart ++ bs
        if x.code ≠ 0 then .next s
        else if x.win ≤ x.rx.length ∨ 32 < bs.length ∨ 256 < b.length then off
        else if last then (if b.length ≠ 0 ∧ b.length % x.size = 0 then .next (s.tokenIn shroud x b) else off)
        else if bs.length = 32 then .next (s.setStream { x with rxPart := b })
        else off
      | none => off
    | .ack t sid n =>
      match s.streamBySid (2 * shroud + t) sid false with
      | some x => if x.acked + n ≤ x.moved then .next (s.setStream { x with acked := x.acked + n }) else off
      | none => off
    | .credit t sid n =>
      match s.streamBySid (2 * shroud + t) sid false with
      | some x => .next (s.setStream { x with credit := x.credit + n })
      | none => off
    | .close t sid dir c =>
      match s.streamBySid (2 * shroud + t) sid (decide (dir ≠ 0)) with
      | some x =>
        let x := { x with peerEnd := true }
        let s := s.setStream x
        if x.code = 0 ∧ (c = 5 ∨ c = 6) then
          if s.streamDrained x then .next (s.closeStream x 4) else off
        else .next s.sweepStreams
      | none => .next (s.putShroud shroud ((s.shroudAt shroud).keepClose (s.streams.any fun y =>
          !y.opened && decide (shroudOf y.tackle = shroud) && flitMeets false y.tackle y.sid y.dir f) t sid dir f))
    | .linkAck n =>
      let x := s.shroudAt shroud
      if n ≤ x.replay.length then .next (s.putShroud shroud { x with acked := x.acked + n }) else off

/-- SHROUD_RETRAIN (R378, R379): a retrain begins, and streams pause; the retrain under way ends, with `lanes` good lanes
left. With fewer than four the port is down. -/
def execShroudRetrain (shroud : Nat) (lanes : Nat) (s : State) : Host.Outcome State Fault Refusal :=
  let x := s.shroudAt shroud
  if 16 ≤ shroud ∨ !s.plat.ready then s.passed
  else if !x.training then .next (s.putShroud shroud { x with training := true })
  else
    let n := Nat.min lanes x.lanes
    let s := s.putShroud shroud { x with training := false, lanes := n, up := decide (4 ≤ n) }
    .next (if n < 4 then { s with plat := { s.plat with reports := (1, shroud, n) :: s.plat.reports } } else s)

/-- SHROUD_FAIL (R379, R388): the retrain has passed its limit, or the port is down; every open stream of both tackles closes
with link failure, windows are released, and the CP declares the port down. -/
def execShroudFail (s : State) : Host.Outcome State Fault Refusal :=
  let n := s.place.a
  let x := s.shroudAt n
  let mine (y : Stream) : Bool := decide (shroudOf y.tackle = n)
  if (x.training || !x.up) && decide (n < 16) && s.plat.ready
      && s.streams.all (fun y => !(mine y) || s.streamDrained y) then
    let s := s.putShroud n { x with up := false, training := false, peers := [] }
    let s := s.closeAll mine fun y => if y.finished then 1 else 3
    let xs := (s.streams.filter fun y => !(mine y && !y.opened)).map fun y => if mine y then { y with peerEnd := true } else y
    let s := { s with streams := xs }
    let s := { s with plat := { s.plat with reports := (1, n, 0) :: s.plat.reports } }
    .next s.sweepStreams
  else s.passed

/-! ### Graphs (R382 to R384) -/

/-- The elements of a token. -/
def tokenList (t : ETy) (b : List Byte) : List Nat := elems (b.length / (t.width / 8)) (t.width / 8) b

/-- The bytes of a list of elements. -/
def elemBytes (t : ETy) (xs : List Nat) : List Byte := xs.flatMap fun x => toBytes (t.width / 8) x

/-- One step of SUM (R384): rounded to nearest, or wrapping. -/
def sumStep (t : ETy) (a b : Nat) : Nat := if t.isInt then (a + b) % 2 ^ t.width else fAdd t.fmt .rne a b

/-- One step of MAX, as VMAX (R247). -/
def maxStep (t : ETy) (a b : Nat) : Nat := if t.isInt then (if t.intVal a < t.intVal b then b else a) else fMax t.fmt a b

/-- What an operation makes of its input tokens; none stops the graph: unequal counts, a malformed stream, or a result that
no slot holds. -/
def graphResult (o : GOp) (ins : List (List Byte)) : Option (List Byte) :=
  let xs := ins.map (tokenList o.src)
  let rank (f : Nat → Nat → Nat) : Option (List Byte) :=
    match xs with
    | [] => none
    | x :: rest => if (rest.all fun y => decide (y.length = x.length)) then
        some (elemBytes o.src (rest.foldl (fun acc y => (acc.zip y).map fun p => f p.1 p.2) x)) else none
  let r : Option (List Byte) :=
    match o.kind with
    | .fwd => some (ins.headD [])
    | .sum => rank (sumStep o.src)
    | .max => rank (maxStep o.src)
    | .cvt => some (elemBytes o.dst ((xs.headD []).map (convert o.dst o.src .rne .saturate)))
    | .zpack => some (zeroStream o.src 4096 (xs.headD [])).1
    | .zunpack => (unpackRuns (o.src.width / 8) 33 (ins.headD [])).map (elemBytes o.src)
  match r with
  | some b => if b.length ≤ 256 then some b else none
  | none => none
where
  /-- Expands a whole zero-run stream; none where a record is malformed or the result passes a slot. -/
  unpackRuns (e : Nat) : Nat → List Byte → Option (List Nat)
    | 0, _ => none
    | f + 1, bs =>
      let w := Word.of (ofBytes (bs.take 8))
      let n := bits w 31 0
      if bs.length < 8 ∨ bits w 61 32 ≠ 0 then none
      else if bits w 63 62 = 0 then (if n = 0 then some [] else none)
      else if n = 0 ∨ 256 < n * e then none
      else if bits w 63 62 = 1 then (unpackRuns e f (bs.drop 8)).map (List.replicate n 0 ++ ·)
      else if bits w 63 62 = 2 then
        let len := (n * e + 7) / 8 * 8
        if bs.length < 8 + len ∨ ((bs.drop (8 + n * e)).take (len - n * e)).any (fun x => decide (x ≠ 0)) then none
        else (unpackRuns e f (bs.drop (8 + len))).map (elems n e (bs.drop 8) ++ ·)
      else none

/-- Whether an operation of a graph is ready (R383). -/
def Tackle.opReady (t : Tackle) (o : GOp) : Bool :=
  o.ins.all (fun q => !(t.queues.get q []).isEmpty) && t.room o.out

/-- GRAPH_FIRE (R383) of operation `place.b` of tackle `place.a`. A queue that is named twice gives its head to both inputs. A graph
fault closes the streams once the writes that their contexts made before have drained (R389). -/
def execGraphFire (s : State) : Host.Outcome State Fault Refusal :=
  let t := s.tackleAt s.place.a
  match t.graph[s.place.b]? with
  | none => s.passed
  | some o =>
    let earlier := (t.graph.take s.place.b).any fun p => decide (p.core = o.core) && t.opReady p
    let running := match t.holder with | some l => decide ((s.launchAt l).status = .resident) && !(s.launchAt l).killed | none => false
    if t.opReady o && !earlier && !t.stop && running then
      match graphResult o (o.ins.map fun q => (t.queues.get q []).headD []) with
      | some b =>
        let qs := o.ins.eraseDups.foldl (fun qs q => AMap.set qs q ((qs.get q []).tail)) t.queues
        .next (s.putTackle s.place.a ({ t with queues := qs }.publish o.out b))
      | none =>
        let bound (x : Stream) : Bool := decide (x.tackle = s.place.a) && decide (x.q ≠ 31)
        if s.streams.all fun x => !(bound x && x.opened && decide (x.code = 0)) || s.streamDrained x then
          .next ((s.putTackle s.place.a { t with stop := true }).closeAll bound fun _ => 6)
        else s.passed
    else s.passed

/-- STREAM_TOKEN (R385): the queue-bound stream of handle `place.b` of tackle `place.a` moves one token. -/
def execStreamToken (s : State) : Host.Outcome State Fault Refusal :=
  let off : Host.Outcome State Fault Refusal := s.passed
  let t := s.tackleAt s.place.a
  let n := shroudOf s.place.a
  match s.streams.find? fun x => decide (x.tackle = s.place.a) && decide (x.handle = s.place.b) && x.opened && decide (x.code = 0) with
  | none => off
  | some x =>
    if !x.bound || !(s.shroudAt n).flows || t.stop then off
    else if x.dir = 0 then
      match x.rx with
      | b :: rest =>
        if t.room x.q ∧ x.moved + b.length / x.size ≤ x.total then
          let s := s.putTackle s.place.a (t.publish x.q b)
          .next ((s.setStream { x with rx := rest, moved := x.moved + b.length / x.size }).sendFlit n (.credit (x.tackle % 2) x.sid 1))
        else off
      | [] => off
    else
      match t.queues.get x.q [] with
      | b :: rest =>
        if x.credit ≠ 0 ∧ b.length % x.size = 0 ∧ x.moved + b.length / x.size ≤ x.total then
          let s := s.putTackle s.place.a { t with queues := t.queues.set x.q rest }
          .next ((s.setStream { x with credit := x.credit - 1, moved := x.moved + b.length / x.size }).sendToken x b)
        else off
      | [] => off

end Sys2Proof.Machine
end

