-- ==== Sys2Proof/Machine/Install.lean ====
section
/-! DEFINITION. Dispatch (R111, R118, R124, R132, R189, R193, R211, R212, R229, R259, R285, R305, R343, R347, R364, R380): whether
a launch fits, what it is granted, and how its tasks are made. -/

namespace Sys2Proof.Machine

/-! ### Whether a launch fits -/

/-- Whether a launch counts for the resources that a pre-empted launch gives up; those in `gone` count as pre-empted. -/
def State.lends (s : State) (gone : List Nat) (l : Nat) : Bool :=
  decide ((s.launchAt l).status = .resident) && !gone.contains l

/-- The grants of other launches on a mast. -/
def State.otherGrants (s : State) (l m : Nat) : List (Nat × Grant) := (s.mastAt m).grants.filter fun g => decide (g.1 ≠ l)

/-- The grants of other launches on a mast that count for what a pre-empted launch gives up. -/
def State.heldGrants (s : State) (l : Nat) (gone : List Nat) (m : Nat) : List (Nat × Grant) :=
  (s.otherGrants l m).filter fun g => s.lends gone g.1

/-- Whether a bank number is free for a launch: no resident launch has it in its set, and none keeps it pinned. -/
def State.bankFree (s : State) (l : Nat) (gone : List Nat) (m k : Nat) : Bool :=
  (s.heldGrants l gone m).all (fun g => !g.2.banks.contains k)
    && (let b := (s.mastAt m).banks.get k Bank.init; !(b.pinned && b.holder.isSome && decide (b.holder ≠ some l)))

/-- The bank set of a launch on a mast: the lowest free numbers (R118). -/
def State.bankChoice (s : State) (l : Nat) (gone : List Nat) (m n : Nat) : Option (List Nat) :=
  let free := (List.range 16).filter (s.bankFree l gone m)
  if n ≤ free.length then some (free.take n) else none

/-- Whether two intervals, given as first and length, are apart. -/
def apart (a n b k : Nat) : Bool := decide (a + n ≤ b) || decide (b + k ≤ a)

/-- The microcode units of a launch on a mast: the lowest run of free units (R305). -/
def State.unitChoice (s : State) (l m n : Nat) : Option Nat :=
  (List.range (17 - n)).find? fun u => (s.otherGrants l m).all fun g => apart u n g.2.ucode.1 g.2.ucode.2

/-- The sum of a figure over grants. -/
def sumOf (f : Grant → Nat) (gs : List (Nat × Grant)) : Nat := (gs.map fun g => f g.2).sum

/-- Whether a launch's masts' resources fit on a mast (R118, R124, R132, R211, R229, R259, R305). -/
def State.fitsMast (s : State) (i : Image) (l : Nat) (gone : List Nat) (m : Nat) : Bool :=
  let held := s.heldGrants l gone m
  let all := s.otherGrants l m
  let env := i.env.getD (0, 0)
  (s.bankChoice l gone m i.banks).isSome
    && decide (sumOf (·.rings) held + i.rings ≤ 32) && decide (sumOf (·.tiles) held + i.tiles ≤ 8)
    && decide (sumOf (·.bars) held + i.bars ≤ 64)
    && decide (sumOf (·.env.1) all + env.1 ≤ 16) && decide (sumOf (·.env.2) all + env.2 ≤ 4096)
    && all.all (fun g => g.2.ctabs.all fun k => !(i.ctab.any fun c => decide (c.1 = k)))
    && (s.unitChoice l m (ucodeUnits i)).isSome

/-- The tasks of other launches on a core that count for what a pre-empted launch gives up. -/
def State.heldTasks (s : State) (l : Nat) (gone : List Nat) (core : Nat) : List Task :=
  (s.tasks.filter fun p => decide (p.2.core = core) && decide (p.2.launch ≠ l) && s.lends gone p.2.launch).map (·.2)

/-- The lowest place of a share of `n` bytes in [base, base + size) beside other shares (R285). -/
def shareChoice (others : List (Nat × Nat)) (base size n : Nat) : Option Nat :=
  ((List.range ((size - n) / 32 + 1)).map fun j => base + 32 * j).find? fun a => others.all fun o => apart a n o.1 o.2

/-- The inbox offsets of a task on a core. -/
def inboxChoice (i : Image) (ts : List Task) : Option Shares :=
  match shareChoice (ts.map fun t => (t.ibOff.req, t.ib.req)) 0x18000 4096 i.ib.1,
        shareChoice (ts.map fun t => (t.ibOff.rep, t.ib.rep)) 0x19000 2048 i.ib.2.1,
        shareChoice (ts.map fun t => (t.ibOff.sys, t.ib.sys)) 0x19C00 1024 i.ib.2.2 with
  | some a, some b, some c => some ⟨a, b, c⟩
  | _, _, _ => none

/-- Whether a task fits on a core beside others (R212, R285). -/
def fitsCore (i : Image) (ts : List Task) : Bool :=
  let sum (f : Task → Nat) : Nat := (ts.map f).sum
  decide (sum (·.ny) + i.yq ≤ 16) && decide (sum (·.sq.req) + i.sq.1 ≤ 2048) && decide (sum (·.sq.rep) + i.sq.2.1 ≤ 1024)
    && decide (sum (·.sq.sys) + i.sq.2.2 ≤ 512) && (inboxChoice i ts).isSome

/-- Whether a piece [base, base + size) of local data is free on a core. -/
def pieceFree (ts : List Task) (base size : Nat) : Bool := ts.all fun t => apart base size t.piece (t.locl - t.piece)

/-- The base of a launch's pieces: the lowest that is free on every core of its partition (R111, R343). -/
def State.pieceChoice (s : State) (l : Nat) (gone : List Nat) (cores : List Nat) (size : Nat) : Option Nat :=
  ((List.range 24).map (4096 * ·)).find? fun b =>
    decide (b + size ≤ 0x18000) && cores.all fun c => pieceFree (s.heldTasks l gone c) b size

/-- Whether a launch's tackles are free (R380). -/
def State.tacklesFree (s : State) (i : Image) : Bool := i.tacks.all fun t => (s.tackleAt (tackleNo t.1 t.2.1)).holder.isNone

/-- Whether a launch fits, with the launches of `gone` pre-empted (R364, R366). -/
def State.fits (s : State) (l : Nat) (gone : List Nat) : Bool :=
  match (s.launchAt l).img with
  | none => false
  | some i =>
    let p := s.partOf l
    p.masts.all (s.fitsMast i l gone) && p.cores.all (fun c => fitsCore i (s.heldTasks l gone c))
      && (s.pieceChoice l gone p.cores (pieceSize i)).isSome && s.tacklesFree i

/-! ### Writing to a launch's memory -/

/-- Writes bytes at a virtual address of a launch, page by page; the address and level of a failing walk otherwise. -/
def State.writeVirt (s : State) (launch kind : Nat) : Nat → Nat → List Byte → Except (Nat × Nat) State
  | 0, _, _ => .ok s
  | _ + 1, _, [] => .ok s
  | f + 1, v, b :: bs =>
    match s.walk launch kind v with
    | .error l => .error (v, l)
    | .ok l =>
      let n := l.size - v % l.size
      (s.write (l.frame + v % l.size) ((b :: bs).take n)).writeVirt launch kind f (v + n) ((b :: bs).drop n)

/-- Writes bytes at a virtual address; a failing walk fails the launch (R352). -/
def State.writeFor (s : State) (launch kind v : Nat) (bs : List Byte) : State :=
  match s.writeVirt launch kind (bs.length / 65536 + 2) v bs with
  | .ok t => t
  | .error (a, level) => s.walkFailed launch 0 a level

/-! ### What dispatch makes -/

/-- The rule table (R172): a double for each pair of kinds. -/
def ruleBytes (i : Image) (cbase : Word) : List Byte :=
  (List.range (i.nkind * (i.nkind + 1) / 2)).flatMap fun e =>
    let hit := i.rules.find? fun r => let a := Nat.min r.1 r.2.1; let b := Nat.max r.1 r.2.1; decide (b * (b + 1) / 2 + a = e)
    toBytes 8 (match hit with | some r => (cbase + Word.of r.2.2).toNat | none => 0)

/-- The number of a node of the image among those of its core: its slot (R193). -/
def nodeSlot (i : Image) (n : Nat) : Nat :=
  match i.nodes[n]? with
  | some d => ((i.nodes.take n).filter fun m => decide (m.core = d.core)).length
  | none => 0

/-- The reference of a port of the image (R139, R193). -/
def portRef (i : Image) (p : Partition) (q : IPort) : Word :=
  match i.nodes[q.node]? with
  | some d => mkRef ((p.coreOf d.core).getD 0) (nodeSlot i q.node) 0 q.port.val
  | none => 0

/-- The word that a port of the image starts with: its wire, or its host binding. -/
def portInit (i : Image) (p : Partition) (q : IPort) : Word :=
  match i.wires.find? fun w => w.1 = q || w.2 = q with
  | some w => portWord 1 (portRef i p (if w.1 = q then w.2 else w.1))
  | none =>
    match i.hbinds.find? fun h => h.2 = q with
    | some h => Word.of (4 * 2 ^ 61 + h.1)
    | none => 0

/-- The slot of a node of the image (R192, R193). -/
def nodeInit (i : Image) (p : Partition) (heap : Nat) (n : Nat) (d : INode) : Node :=
  { Node.init with
    live := true, arity := d.arity, kind := BitVec.ofNat 12 d.kind
    desc := match d.payload with | some o => Word.of (heap + o) | none => 0
    ports := (List.range 4).map fun k => if k ≤ d.arity then portInit i p ⟨n, Fin.ofNat 4 k⟩ else 0 }

/-- The nodes of a core. -/
def nodesOn (i : Image) (p : Partition) (heap core : Nat) : AMap Node :=
  (i.nodes.zipIdx.filter fun d => decide (p.coreOf d.1.core = some core)).map fun d =>
    (nodeSlot i d.2, nodeInit i p heap d.2 d.1)

/-- The records of a task (R189): the entry record, then those of the wires between principal ports. -/
def firstRecords (i : Image) (p : Partition) (core : Nat) : List Record :=
  taskRecord (i.entry / 4) 0 3 0 0 ::
    (i.wires.filter fun w => decide (w.1.port = 0) && decide (w.2.port = 0)
      && decide (((i.nodes[w.1.node]?).bind fun d => p.coreOf d.core) = some core)).map fun w =>
        redexRecord (portRef i p w.1) (portRef i p w.2) 0 3

/-- An address of the code image, or zero. -/
def labelVa (base : Word) : Option Nat → Word
  | some o => base + Word.of o
  | none => 0

/-- The task of a launch on the `ix`-th core of its partition. -/
def State.makeTask (s : State) (l ix core piece : Nat) (i : Image) (xs : List Extent) : Task :=
  let la := s.launchAt l
  let p := s.partOf l
  let h := heapRange la.ranges
  let n := p.cores.length
  let off := (inboxChoice i (s.heldTasks l [] core)).getD ⟨0, 0, 0⟩
  let ds := (carve la.ranges 2 (2048 * i.dspill) n).getD ix 0
  { Task.init with
    live := true, launch := l, core := core
    tvec := labelVa la.imageVa i.tvec, uivec := labelVa la.imageVa i.uivec
    nodes := nodesOn i p h.vbase core
    nlsz := i.nstoreL / 64, nhsz := i.nstoreH
    nhbase := Word.of (if i.nstoreH = 0 then 0 else (carve la.ranges 1 (nodeStep i.nstoreH) n).getD ix 0)
    rtbase := Word.of (ruleTable i h), nkind := i.nkind
    dsbase := Word.of ds, dslim := Word.of (ds + 2048 * i.dspill), sdom := la.sdom
    cbase := la.imageVa, csize := imageCode i
    piece := piece, locb := piece + 4096 + i.nstoreL + 16 * i.wspill, locl := piece + pieceSize i, spillSz := i.wspill
    sq := ⟨i.sq.1, i.sq.2.1, i.sq.2.2⟩, ib := ⟨i.ib.1, i.ib.2.1, i.ib.2.2⟩, ibOff := off
    hlo := (i.hbnd.getD (0, imageCode i)).1, hhi := (i.hbnd.getD (0, imageCode i)).2, spread := i.spread
    extents := xs, asid := la.asid, xrange := Word.of (2 ^ la.ranges.length - 1)
    ltask := Word.of (la.seq + la.queue * 2 ^ 16 + la.part * 2 ^ 26), tprio := Word.of la.prio, ny := i.yq }

/-- Scrubs a task's piece of local data (R111, R120) and its inbox shares, where the messages of an earlier launch may have lain: no
choice of a share shows them (R12). -/
def State.scrubPiece (s : State) (t : Task) : State :=
  t.inboxShares.foldl (fun s p => s.scrub (localKey t.core p.1) (localKey t.core (p.1 + p.2)))
    (s.scrub (localKey t.core t.piece) (localKey t.core t.locl))

/-- The grant of a launch on a mast. -/
def State.makeGrant (s : State) (l m : Nat) (i : Image) : Grant :=
  { banks := (s.bankChoice l [] m i.banks).getD [], rings := i.rings, tiles := i.tiles, bars := i.bars
    env := i.env.getD (0, 0), ctabs := i.ctab.map (·.1), ucode := ((s.unitChoice l m (ucodeUnits i)).getD 0, ucodeUnits i) }

/-- Installs a launch on a mast: its grant, its code tables (R124) and its halyard kernels (R305). -/
def State.grantMast (s : State) (l : Nat) (i : Image) (m : Nat) : State :=
  let g := s.makeGrant l m i
  let x := s.mastAt m
  let s := s.putMast m { x with
    grants := x.grants.set l g, ctab := i.ctab.foldl (fun t c => AMap.set t c.1 c.2) x.ctab }
  { s with mem := Memory.write s.mem (ucodeKey m (0x1000 + 256 * g.ucode.1)) (iwordsToBytes (i.hcode.map (·.toNat))) }

/-- Readies the block that a push of dispatch moves: what its check finds missing is filled within the push, a dirty request too (R350, log
entry 56), and a walk that fails fails the launch (R352). -/
def State.readyBlock (s : State) (k : Nat) : State :=
  let t := s.taskAt k
  let v := (t.blockVa t.spilled.length).toNat % 2 ^ 57
  if !t.spills then s
  else
    match s.ensureFor k (Word.of v) .dequeW with
    | .ok u => u
    | .error _ => match (s.focusTask k).failingWalk v .dequeW with | some (a, level) => s.walkFailed t.launch t.core a level | none => s

/-- Pushes records on a task's deque one after another, as any agent does; the task fails where its spill queue is full (R168, R189). -/
def State.pushFirst (s : State) (k : Nat) (rs : List Record) : State :=
  rs.foldl (fun s r =>
    let s := s.readyBlock k
    match s.pushOn k r with | .ok t => t | .error _ => s) s

/-- Installs a launch's task on a core, with its first records. -/
def State.grantCore (s : State) (l : Nat) (i : Image) (piece : Nat) (xs : List Extent) (ix core : Nat) : State :=
  let t := s.makeTask l ix core piece i xs
  ((s.scrubPiece t).putTask (taskKey l core) t).pushFirst (taskKey l core) (firstRecords i (s.partOf l) core)

/-- Installs a launch on a tackle: scrubbed SRAM, the graph, and a context on each streamer core (R380 to R382). -/
def State.grantTackle (s : State) (l : Nat) (i : Image) (xs : List Extent) (t : Nat × Nat × Nat) : State :=
  let n := tackleNo t.1 t.2.1
  let g := (i.tgraphs.find? fun g => decide (g.1 = n)).map (·.2)
  let s := s.scrub (bankKey (1024 + n) 0) (bankKey (1024 + n) 0x40000)
  let la := s.launchAt l
  let p := (List.range 3).foldl (fun (q : List Nat × State) c =>
    let core := 8192 + 8 * n + c
    let k := taskKey l core
    let tk : Task := { Task.init with
      live := true, launch := l, core := core, tvec := labelVa la.imageVa i.tvec, uivec := labelVa la.imageVa i.uivec
      cbase := la.imageVa, csize := imageCode i, locb := 0, locl := 0x4000, spillSz := i.wspill, nkind := i.nkind
      hlo := (i.hbnd.getD (0, imageCode i)).1, hhi := (i.hbnd.getD (0, imageCode i)).2, spread := i.spread
      extents := xs, asid := la.asid, xrange := Word.of (2 ^ la.ranges.length - 1)
      ltask := Word.of (la.seq + la.queue * 2 ^ 16 + la.part * 2 ^ 26), tprio := Word.of la.prio }
    let s := (q.2.scrub (localKey core 0) (localKey core 0x20000)).putTask k tk
    let r := s.newCtx k 0 .streamer (la.imageVa + Word.of t.2.2) (Word.of c) 0 0
    (q.1 ++ [r.1], r.2)) ([], s)
  p.2.putTackle n
    { holder := some l, slots := (g.map (·.1)).getD [], queues := [], graph := (g.map (·.2)).getD [], stop := false, ctxs := p.1 }

/-- The first extents of a launch (R349, R364): one for each of the first eight ranges, from its vbase. -/
def State.firstExtents (s : State) (l : Nat) : List Extent × State :=
  ((s.launchAt l).ranges.take 8).zipIdx.foldl (fun q r =>
    match q.2.fillFor l r.1 r.1.vbase with
    | .error level => (q.1, q.2.walkFailed l 0 r.1.vbase level)
    | .ok f => (q.1 ++ [f.extent r.1 r.2], q.2.setLeafBits 6 f.leaves)) ([], s)

/-- The lowest ASID that no launch holds (R347). -/
def State.freeAsid (s : State) : Nat := ((List.range 65536).find? fun a => !s.roots.has a).getD 0

/-- The constant bank (R27, R362). -/
def constBank (params : List Word) (i : Image) : AMap Word := (params.zipIdx.map fun p => (p.2, p.1)) ++ i.consts

/-- Steps 4 and 5 of dispatch (R364). -/
def State.install (s : State) (l : Nat) (i : Image) : State :=
  let la := s.launchAt l
  let p := s.partOf l
  let piece := (s.pieceChoice l [] p.cores (pieceSize i)).getD 0
  let h := heapRange la.ranges
  let s := { s with nextId := s.nextId + 1 }
  let s := s.putLaunch l { la with
    status := .resident, disp := s.nextId, consts := constBank la.params i
    hostbind := i.hbinds.map fun b => (b.1, portRef i p b.2)
    kernels := i.hker }
  let s := s.writeFor l 4 la.imageVa.toNat (iwordsToBytes (i.text.map (·.toNat)))
  let s := s.writeFor l 0 h.vbase i.data
  let s := s.writeFor l 0 (ruleTable i h) (ruleBytes i la.imageVa)
  let x := s.firstExtents l
  let s := p.masts.foldl (fun s m => s.grantMast l i m) x.2
  let s := p.cores.zipIdx.foldl (fun s c => s.grantCore l i piece x.1 c.2 c.1) s
  i.tacks.foldl (fun s t => s.grantTackle l i x.1 t) s

end Sys2Proof.Machine
end

