-- ==== Sys2Proof/Machine/Preempt.lean ====
section
/-! DEFINITION. Stopping a launch: pre-emption with its saved state, resumption, and the release of everything a launch holds
(R122, R209, R210, R236, R242, R254, R267, R301, R319, R320, R354, R369, R388). -/

namespace Sys2Proof.Machine

/-! ### Shared pieces -/

/-- The contexts of a launch. -/
def State.ctxsOf (s : State) (l : Nat) : List (Nat × Context) := s.ctxs.filter fun p => decide (p.2.launch = l) && decide (p.2.status ≠ .none)

/-- Changes every core. -/
def State.mapCores (s : State) (f : Core → Core) : State := { s with cores := s.cores.map fun p => (p.1, f p.2) }

/-- Changes every mast. -/
def State.mapMasts (s : State) (f : Mast → Mast) : State := { s with masts := s.masts.map fun p => (p.1, f p.2) }

/-- A core without the contexts of a launch on its strands and in its resumption list. -/
def Core.dropCtxs (ids : List Nat) (c : Core) : Core :=
  { c with
    strands := c.strands.map fun st => match st.ctx with | some k => if ids.contains k then { st with ctx := none } else st | none => st
    parked := c.parked.filter fun k => !ids.contains k }

/-- A halyard without the transfers of a launch; one that ran for it is idle. -/
def Halyard.dropLaunch (l : Nat) (y : Halyard) : Halyard :=
  let mine := match y.journal with | t :: _ => decide (t.launch = l) | [] => false
  let y' := if mine then { Halyard.init with seq := y.seq } else y
  { y' with journal := y.journal.filter fun t => decide (t.launch ≠ l) }

/-- A mast without the operations of a launch: scoreboard entries, its wait for entries, EA and special-function queues, journals, and the choice
of a running yard command. -/
def Mast.dropOps (l : Nat) (yards : Nat → Bool) (m : Mast) : Mast :=
  { m with
    sb := m.sb.filter fun e => decide (e.launch ≠ l)
    sbWait := m.sbWait.filter fun w => !(decide (w.2 = .resume l))
    eaQueue := m.eaQueue.filter fun o => decide (o.launch ≠ l)
    sfQueue := m.sfQueue.filter fun r => decide (r.launch ≠ l)
    running := m.running.map fun r => match r with | some c => if yards c then none else some c | none => none
    hy0 := m.hy0.dropLaunch l
    hy1 := m.hy1.dropLaunch l }

/-- Whether the head of a core's yard queue is a command of a launch. -/
def State.headOf (s : State) (l core : Nat) : Bool :=
  match (s.coreAt core).yqueue with
  | c :: _ => decide (c.launch = l)
  | [] => false

/-- The harts that run for a launch. -/
def State.hartsOf (s : State) (l : Nat) : List Nat := ((s.ctxsOf l).filter fun p => decide (p.2.kind = .hart)).map (·.1)

/-- Removes the operations of a launch from every unit (R210, R236, R254, R267, R319, R320). -/
def State.dropOps (s : State) (l : Nat) : State :=
  let ms := s.masts.map fun p => (p.1, p.2.dropOps l (s.headOf l))
  let cs := s.cores.map fun p => (p.1, { p.2 with yqueue := p.2.yqueue.filter fun c => decide (c.launch ≠ l) })
  { s with masts := ms, cores := cs }

/-- Whether a waiter for an entry is a context of a list. -/
def SbWaiter.isOf (ids : List Nat) : SbWaiter → Bool
  | .issue k | .drain k => ids.contains k
  | .resume _ => false

/-- A mast in whose lines no context of a list stands any more: waiting registrations, ring slots and resumptions. -/
def Mast.forgetAll (ids : List Nat) (m : Mast) : Mast :=
  let out (ws : List (Nat × Nat)) : List (Nat × Nat) := ws.filter fun w => !ids.contains w.1
  { m with
    sbWait := m.sbWait.filter fun w => !w.2.isOf ids
    reefWait := m.reefWait.filter fun k => !ids.contains k
    rings := m.rings.map fun p => (p.1, { p.2 with waitTake := out p.2.waitTake, waitResv := out p.2.waitResv }) }

/-- Closes the open streams of a launch with code 5 and forgets those that are opening, of which the peer is told too, since its end
may have opened; the tokens of its tackles go (R388). -/
def State.stopStreams (s : State) (l : Nat) : State :=
  let s := s.closeAll (fun x => decide (x.launch = l)) fun _ => 5
  let tell (s : State) (x : Stream) : State :=
    if (s.shroudAt (shroudOf x.tackle)).up then s.sendFlit (shroudOf x.tackle) (.close (x.tackle % 2) x.sid x.dir 5) else s
  let s := (s.streams.filter fun x => decide (x.launch = l) && !x.opened).foldl tell s
  let s : State := { s with
    streams := s.streams.filter fun x => !(decide (x.launch = l) && !x.opened)
    tackles := s.tackles.map fun p => if p.2.holder = some l then (p.1, { p.2 with queues := [] }) else p }
  s.sweepStreams

/-! ### Pre-emption (R369) -/

/-- Whether every unit of a launch stands at a point where it can be stopped: no context waits for the reply of an operation
that has left its core, its stores have drained, no packet, splice, repointing and meeting of the launch is in flight, no
special-function request has started, and no transfer stands between the retirement of its entry and its report. -/
def State.stoppable (s : State) (l : Nat) : Bool :=
  let mine (k : Nat) : Bool := decide ((s.taskAt k).launch = l)
  let between (y : Halyard) : Bool := y.stage = .retired && y.journal.head?.any fun t => decide (t.launch = l)
  (s.ctxsOf l).all (fun p => p.2.kind = .hart || (p.2.await.parks && p.2.storeBuf.isEmpty))
    && s.net.all (fun p => decide (p.launch ≠ l))
    && s.cores.all (fun c => c.2.splices.all (fun x => !mine x.task) && c.2.repoints.all (fun x => !mine x.task)
        && c.2.meetings.all fun m => !mine m.task)
    && s.masts.all (fun p => !between p.2.hy0 && !between p.2.hy1
        && p.2.sfQueue.all fun r => !(decide (r.launch = l) && r.started))

/-- A context as it is kept while its launch is pre-empted: no strand, no lanes; what its unit answers it is kept. -/
def Context.stop (c : Context) : Context :=
  { c with
    status := if c.status = .failed then .failed else .stopped
    vgrant := 0
    waitStart := match c.await with | .park _ _ _ => c.waitStart | _ => none
    await := match c.await with | .entries _ => .none | .stores _ => .none | .vredq _ _ _ _ _ => .none | a => a }

/-- Stops the contexts of a launch; their entries of VREDQ are retired (R252). -/
def State.stopCtxs (s : State) (l : Nat) : State :=
  let cs := (s.ctxsOf l).filter fun p => decide (p.2.kind ≠ .hart)
  let t := cs.foldl (fun s p => (s.focus p.1).stopVredq) s
  let t := { t with cur := s.cur }
  let t : State := { t with ctxs := t.ctxs.map fun p => if (cs.any fun c => decide (c.1 = p.1)) then (p.1, p.2.stop) else p }
  (t.mapCores (Core.dropCtxs (cs.map (·.1)))).mapMasts (Mast.forgetAll (cs.map (·.1)))

/-- The contexts of a launch that are saved, with their status. -/
def State.statuses (s : State) (l : Nat) : List (Nat × CtxStatus) :=
  ((s.ctxsOf l).filter fun p => decide (p.2.kind ≠ .hart)).map fun p => (p.1, p.2.status)

/-- The journalled transfers of a launch on a halyard, as they are saved: one that has been reported has only its event still to
come (R317, R319). -/
def Halyard.savedMoves (l : Nat) (y : Halyard) : List Transfer :=
  (y.journal.zipIdx.filter fun t => decide (t.1.launch = l)).map fun t =>
    if t.2 = 0 && y.stage = .reported then { t.1 with told := true } else t.1

/-- The places of memory that a pre-empted launch gives up: its pieces, its inbox runs and its unpinned banks. -/
def State.lentPlaces (s : State) (l : Nat) : List (Nat × Nat) :=
  let ts := (s.tasks.filter fun p => decide (p.2.launch = l) && decide (p.2.core < 8192)).map (·.2)
  let tp := ts.flatMap fun t => (localKey t.core t.piece, t.locl - t.piece) ::
    t.inboxShares.map fun q => (localKey t.core q.1, q.2)
  let bp := s.masts.flatMap fun m => (m.2.banks.filter fun b => decide (b.2.holder = some l) && !b.2.pinned).map fun b =>
    (bankKey m.1 (b.1 * 65536), 65536)
  tp ++ bp

/-- Whether a key lies in one of some places. -/
def inPlaces (ps : List (Nat × Nat)) (k : Nat) : Bool := ps.any fun p => decide (p.1 ≤ k) && decide (k < p.1 + p.2)

/-- Zeroes and well-checked doubles in some places. -/
def State.scrubPlaces (s : State) (ps : List (Nat × Nat)) : State :=
  { s with mem := s.mem.filter fun c => !inPlaces ps c.1, ecc := s.ecc.filter fun p => !inPlaces ps (8 * p.1) }

/-- A yard command as it is saved: it goes on at its k-step, and its gang forms again first, from the saved commands of its partners
(R236). -/
def YCmd.saved (c : YCmd) : YCmd :=
  { c with member := false, stage := if c.cop = 5 then .posted else if c.stage = .running then .ready else c.stage }

/-- A pair as it is saved: the place of a swap that is due becomes the number of the launch's entries that are older. -/
def Mast.savedPair (m : Mast) (l : Nat) (p : Pair) : Pair :=
  { p with due := p.due.map fun d => (m.sb.filter fun e => decide (e.launch = l) && decide (e.seq < d)).length }

/-- Everything that the CP saves of a launch whose contexts, of the statuses `cs`, have been stopped (R369). -/
def State.saveOf (s : State) (l : Nat) (cs : List (Nat × CtxStatus)) : Saved :=
  let ps := s.lentPlaces l
  let hy (m : Nat × Mast) (h : Nat) : List (Nat × Nat × Transfer) := ((m.2.hy h).savedMoves l).map fun t => (m.1, h, t)
  { ctxs := cs
    banks := s.masts.flatMap fun m => (m.2.banks.filter fun b => decide (b.2.holder = some l) && !b.2.pinned).map fun b =>
      (m.1, b.1, b.2.table, b.2.type)
    pairs := s.masts.flatMap fun m => (m.2.pairs.filter fun p => m.2.holds l p.front).map fun p => (m.1, m.2.savedPair l p)
    trackers := s.masts.flatMap fun m => (m.2.trackers.filter fun t => decide (t.1 = l)).map fun t => (m.1, t.2)
    mem := s.mem.filter fun c => inPlaces ps c.1
    ecc := s.ecc.filter fun p => inPlaces ps (8 * p.1)
    entries := s.masts.flatMap fun m => (m.2.sb.filter fun e => decide (e.launch = l)).map fun e => (m.1, e.id, e.words)
    extents := s.tasks.flatMap fun t => if t.2.launch = l then t.2.extents.map fun x => (t.1, x.words) else []
    shot := false
    yards := s.cores.flatMap fun c => (c.2.yqueue.filter fun y => decide (y.launch = l)).map fun y =>
      (c.1, y.saved)
    eaOps := s.masts.flatMap fun m => (m.2.eaQueue.filter fun o => decide (o.launch = l)).map fun o => (m.1, { o with result := none })
    sfReqs := s.masts.flatMap fun m => (m.2.sfQueue.filter fun r => decide (r.launch = l)).map fun r => (m.1, r)
    moves := s.masts.flatMap fun m => hy m 0 ++ hy m 1 }

/-- A mast without the unpinned banks, the pairs and the trackers of a launch. -/
def Mast.lend (l : Nat) (m : Mast) : Mast :=
  { m with
    pairs := m.pairs.filter fun p => !m.holds l p.front
    trackers := m.trackers.filter fun t => decide (t.1 ≠ l)
    banks := m.banks.map fun b => if b.2.holder = some l && !b.2.pinned then (b.1, Bank.init) else b }

/-- Pre-empts a launch at once: everything is stopped and saved, and what can be lent is free. -/
def State.preemptNow (s : State) (l why : Nat) : State :=
  let s := s.stopStreams l
  let cs := s.statuses l
  let s := s.stopCtxs l
  let sv := s.saveOf l cs
  let s := (s.dropOps l).scrubPlaces (s.lentPlaces l)
  let hs := s.hartsOf l
  let s : State := { s with
    ctxs := s.ctxs.filter fun p => !hs.contains p.1
    tasks := s.tasks.map fun p => if p.2.launch = l then (p.1, { p.2 with extents := [] }) else p }
  let s := s.mapMasts (Mast.lend l)
  s.putLaunch l { s.launchAt l with status := .preempted, saved := sv, why := why }

/-! ### Resumption -/

/-- The entries that saved ones take (R204, R209): the mast order of the saved ones is kept; none where too few are free. The
map tells, by mast and saved number, the new number. -/
def State.reenter (s : State) (l : Nat) : List (Nat × Nat × List Word) → AMap Nat → Option (AMap Nat × State)
  | [], ren => some (ren, s)
  | (m, old, ws) :: rest, ren =>
    match s.entryOn m (SbEntry.ofWords ws 0 l).core (.resume l) with
    | none => none
    | some (id, sh) =>
      (s.putMast m ((s.mastAt m).register { SbEntry.ofWords ws id l with shared := sh })).reenter l rest (ren.set (m * 256 + old) id)

/-- The armed ring intervals of an entry take the next place in mast order (R200). -/
def Mast.rearmRings (m : Mast) (id : Nat) : Mast :=
  { m with
    sb := m.sb.map fun e =>
      if e.id = id then { e with ivals := e.ivals.map fun i => if i.ring.isSome && i.armed then { i with place := m.nextSb } else i } else e
    nextSb := m.nextSb + 1 }

/-- The operations of a resumed launch take their slots again, in the order of their entries: each arms its ring intervals, after all the
saved entries have registered (R209, log entry 45). -/
def State.rearmSaved (s : State) (es : List (Nat × Nat × List Word)) (ren : AMap Nat) : State :=
  es.foldl (fun s e => s.putMast e.1 ((s.mastAt e.1).rearmRings (ren.get (e.1 * 256 + e.2.1) e.2.1))) s

/-- Whether everything of a pre-empted launch but its scoreboard entries fits again, in its own places (R366). -/
def State.fitsAgain (s : State) (l : Nat) : Bool :=
  match (s.launchAt l).img with
  | none => false
  | some i =>
    let p := s.partOf l
    let sv := (s.launchAt l).saved
    p.masts.all (fun m =>
        let g := (s.mastAt m).grants.get l Grant.init
        let held := s.heldGrants l [] m
        g.banks.all (s.bankFree l [] m) && decide (sumOf (·.rings) held + g.rings ≤ 32)
          && decide (sumOf (·.tiles) held + g.tiles ≤ 8) && decide (sumOf (·.bars) held + g.bars ≤ 64)
          && decide ((s.mastAt m).hy0.journal.length + (sv.moves.filter fun x => decide (x.1 = m) && decide (x.2.1 = 0)).length ≤ 64)
          && decide ((s.mastAt m).hy1.journal.length + (sv.moves.filter fun x => decide (x.1 = m) && decide (x.2.1 = 1)).length ≤ 64)
          && decide ((s.mastAt m).sfQueue.length + (sv.sfReqs.filter fun x => decide (x.1 = m)).length ≤ 64)
          && decide ((s.mastAt m).eaQueue.length + (sv.eaOps.filter fun x => decide (x.1 = m)).length ≤ 32))
      && p.cores.all (fun c =>
        let ts := s.heldTasks l [] c
        let t := s.taskAt (taskKey l c)
        let sum (f : Task → Nat) : Nat := (ts.map f).sum
        decide (sum (·.ny) + i.yq ≤ 16) && decide (sum (·.sq.req) + i.sq.1 ≤ 2048) && decide (sum (·.sq.rep) + i.sq.2.1 ≤ 1024)
          && decide (sum (·.sq.sys) + i.sq.2.2 ≤ 512) && pieceFree ts t.piece (t.locl - t.piece)
          && t.inboxShares.all (fun a => ts.all fun o => o.inboxShares.all fun b => apart a.1 a.2 b.1 b.2))

/-- Whether a pre-empted launch fits again, with its entries. -/
def State.refits (s : State) (l : Nat) : Bool := s.fitsAgain l && (s.reenter l (s.launchAt l).saved.entries []).isSome

/-- A launch that lacks only entries waits for them, behind the registrations that wait already (R204, R209). -/
def State.awaitEntries (s : State) (l : Nat) : State :=
  (s.launchAt l).saved.entries.foldl (fun s e => s.awaitEntry e.1 (SbEntry.ofWords e.2.2 0 l).core (.resume l)) s

/-- A launch that has its entries, or that does not fit for another reason, waits for none. -/
def State.leaveEntries (s : State) (l : Nat) : State :=
  s.mapMasts fun m => { m with sbWait := m.sbWait.filter fun w => !(decide (w.2 = .resume l)) }

/-- The status of a context when its launch resumes: what ran or waited is taken up by a strand again; one with lanes waits
for its reefs (R242). -/
def resumedStatus (vl : Nat) (st : CtxStatus) : CtxStatus :=
  match st with
  | .failed => .failed
  | .none => .none
  | _ => if vl ≠ 0 then .stopped else match st with | .parked => .parked | _ => .resumable

/-- A context joins the resumptions that wait for reefs; the pool serves them as the step ends (R242). -/
def State.awaitReefs (s : State) (k : Nat) : State :=
  let m := mastOf (s.ctxAt k).core
  s.putMast m { s.mastAt m with reefWait := (s.mastAt m).reefWait ++ [k] }

/-- Brings the contexts of a launch back. -/
def State.resumeCtxs (s : State) (cs : List (Nat × CtxStatus)) : State :=
  cs.foldl (fun s c =>
    let x := s.ctxAt c.1
    let st := resumedStatus x.vl c.2
    let s := s.putCtx c.1 { x with status := st }
    match st with
    | .resumable => s.putCore x.core ((s.coreAt x.core).resumable c.1)
    | .stopped => s.awaitReefs c.1
    | _ => s) s

/-- The number that a saved operation's entry has now. -/
def newEntry (ren : AMap Nat) (m e : Nat) : Nat := ren.get (m * 256 + e) e

/-- Restores the banks, pairs and trackers of a launch. A swap that was due stands between the same entries of the launch as before;
`first` tells, by mast, the place of the first of them. -/
def State.restoreBanks (s : State) (l : Nat) (sv : Saved) (first : Nat → Nat) : State :=
  let s := sv.banks.foldl (fun s b =>
    s.putMast b.1 { s.mastAt b.1 with banks := (s.mastAt b.1).banks.set b.2.1 ⟨some l, false, b.2.2.1, b.2.2.2⟩ }) s
  let s := sv.pairs.foldl (fun s p => s.putMast p.1 { s.mastAt p.1 with pairs := (s.mastAt p.1).pairs ++ [{ p.2 with due := p.2.due.map (first p.1 + ·) }] }) s
  sv.trackers.foldl (fun s t => s.putMast t.1 { s.mastAt t.1 with trackers := (s.mastAt t.1).trackers ++ [(l, t.2)] }) s

/-- Puts the saved operations of a launch back behind those of their units. -/
def State.restoreOps (s : State) (sv : Saved) (ren : AMap Nat) : State :=
  let s := sv.yards.foldl (fun s y =>
    s.putCore y.1 { s.coreAt y.1 with yqueue := (s.coreAt y.1).yqueue ++ [{ y.2 with entry := y.2.entry.map (newEntry ren (y.1 / 8)) }] }) s
  let s := sv.eaOps.foldl (fun s o =>
    s.putMast o.1 { s.mastAt o.1 with eaQueue := (s.mastAt o.1).eaQueue ++ [{ o.2 with entry := o.2.entry.map (newEntry ren o.1) }] }) s
  let s := sv.sfReqs.foldl (fun s r =>
    s.putMast r.1 { s.mastAt r.1 with sfQueue := (s.mastAt r.1).sfQueue ++ [{ r.2 with entry := newEntry ren r.1 r.2.entry }] }) s
  sv.moves.foldl (fun s t =>
    let y := (s.mastAt t.1).hy t.2.1
    s.putMast t.1 ((s.mastAt t.1).setHy t.2.1
      { y with journal := y.journal ++ [{ t.2.2 with entry := newEntry ren t.1 t.2.2.entry }] })) s

/-- Restores the extents of a launch, re-walking each where a shootdown of its ASID has taken place in between (R354). -/
def State.restoreExtents (s : State) (l : Nat) (sv : Saved) : State :=
  sv.extents.foldl (fun s p =>
    let x := Extent.ofWords p.2
    let keep (s : State) (x : Extent) : State := s.putTask p.1 { s.taskAt p.1 with extents := (s.taskAt p.1).extents ++ [x] }
    if sv.shot then
      let r := (s.launchAt l).ranges.getD x.range ⟨0, 0, 0, false⟩
      match s.fillFor l r x.vbase with
      | .error level => s.walkFailed l (s.taskAt p.1).core x.vbase level
      | .ok f => keep (s.setLeafBits 6 f.leaves) (f.extent r x.range)
    else keep s x) s

/-- Restores the memory of a launch in the places that it gets back: what others left there goes. -/
def State.restoreMem (s : State) (l : Nat) (sv : Saved) : State :=
  let s := s.scrubPlaces (s.lentPlaces l)
  { s with
    mem := sv.mem.foldl (fun m c => Memory.put m c.1 c.2) s.mem
    ecc := sv.ecc.foldl (fun e p => e.set p.1 p.2) s.ecc }

/-- Resumes a launch that fits again (R366, R369). -/
def State.resumeNow (s : State) (l : Nat) : State :=
  let sv := (s.launchAt l).saved
  match s.reenter l sv.entries [] with
  | none => s
  | some (ren, t) =>
    let t := (t.rearmSaved sv.entries ren).leaveEntries l
    let t := (((t.restoreBanks l sv fun m => (s.mastAt m).nextSb).restoreMem l sv).restoreOps sv ren).restoreExtents l sv
    (t.putLaunch l { t.launchAt l with status := .resident, saved := Saved.init, why := 0 }).resumeCtxs sv.ctxs

/-! ### Release (R210, R365, R369) -/

/-- The strands that wait for a steal of a launch whose packet goes do not wait any more. -/
def State.endSteals (s : State) (l : Nat) : State :=
  (s.net.filter fun p => decide (p.launch = l)).foldl (fun s p =>
    let wake (core strand : Nat) : State :=
      s.putCore core { s.coreAt core with
        strands := (s.coreAt core).strands.modify strand fun st => { st with asking := false, stealAt := none } }
    match p.kind with
    | .stealReq st => wake p.src st
    | .stealRep st _ => wake p.dst st
    | _ => s) s

/-- A core without anything of a launch. -/
def Core.dropLaunch (mine : Nat → Bool) (l : Nat) (c : Core) : Core :=
  let ms := (c.meetings.filter fun m => mine m.task).map (·.id)
  { c with
    strands := c.strands.map fun st => match st.meeting with | some m => if ms.contains m then { st with meeting := none } else st | none => st
    splices := c.splices.filter fun x => !mine x.task
    repoints := c.repoints.filter fun x => !mine x.task
    meetings := c.meetings.filter fun x => !mine x.task
    yslots := c.yslots.filter fun y => decide (y.1 / 16 ≠ l) }

/-- A mast without anything that a launch holds. -/
def Mast.dropLaunch (l : Nat) (m : Mast) : Mast :=
  let g := m.grants.get l Grant.init
  let m := m.lend l
  { m with
    grants := m.grants.erase l
    banks := m.banks.map fun b => if b.2.holder = some l then (b.1, Bank.init) else b
    rings := m.rings.filter fun r => decide (r.1 / 32 ≠ l)
    tiles := m.tiles.filter fun t => decide (t.1 / 32 ≠ l)
    handles := m.handles.filter fun h => decide (h.1 / 16 ≠ l)
    ctab := m.ctab.filter fun c => !g.ctabs.contains c.1 }

/-- The microcode units of a launch, scrubbed at its end (R305). -/
def State.scrubUnits (s : State) (l : Nat) : State :=
  s.masts.foldl (fun s m =>
    let g := (m.2.grants.get l Grant.init).ucode
    if g.2 = 0 then s
    else s.scrub (ucodeKey m.1 (0x1000 + 256 * g.1)) (ucodeKey m.1 (0x1000 + 256 * (g.1 + g.2)))) s

/-- Whether a launch exists and has not ended. -/
def Launch.alive (la : Launch) : Bool := la.status = .checked || la.status = .resident || la.status = .preempted

/-- Stops a launch and releases everything that it holds. Stores already performed stay; what it saved is discarded. -/
def State.release (s : State) (l : Nat) : State :=
  let s := s.stopStreams l
  let cs := s.ctxsOf l
  let evs := (cs.map fun p => p.2.pending.length).sum
  let sfs := (s.masts.map fun m => (m.2.sfQueue.filter fun r => decide (r.launch = l) && !r.started).length).sum
  let tds := ((s.tasks.filter fun p => decide (p.2.launch = l)).map fun p => p.2.pendTrig.length).sum
  let s := (s.endSteals l).dropOps l
  let s := s.mapMasts (Mast.forgetAll (cs.map (·.1)))
  let mine (k : Nat) : Bool := decide ((s.taskAt k).launch = l)
  let s := s.mapCores fun c => (c.dropCtxs (cs.map (·.1))).dropLaunch mine l
  let s := s.scrubUnits l
  let s := s.mapMasts (Mast.dropLaunch l)
  let s := (s.net.filter fun p => decide (p.launch = l)).foldl State.drop s
  let la := s.launchAt l
  let s : State := { s with
    ctxs := s.ctxs.filter fun p => decide (p.2.launch ≠ l)
    tasks := s.tasks.filter fun p => decide (p.2.launch ≠ l)
    streams := s.streams.map fun x => if x.launch = l then { x with held := false } else x
    tackles := s.tackles.map fun p => if p.2.holder = some l then (p.1, Tackle.init) else p
    roots := s.roots.filter fun r => !(decide (r.1 = la.asid) && la.alive) }
  s.sweepStreams.putLaunch l { la with evdrop := la.evdrop + evs, sfcan := la.sfcan + sfs, tdrop := la.tdrop + tds }

end Sys2Proof.Machine
end

