-- ==== Sys2Proof/Machine/Complete.lean ====
section
/-! DEFINITION. The end of a launch (R190, R365, R367, R368, R393, R394): quiescence, failure, kills and the completion record. -/

namespace Sys2Proof.Machine

/-! ### Interrupts and kills -/

/-- The PCIe link of a partition's host accesses (R391). -/
def State.hostLink (s : State) (part : Nat) : Nat :=
  match (s.parts.get part Partition.init).vf with
  | some v => v / 16
  | none => part % 2

/-- The function that a partition belongs to: its virtual function, or the physical function of its link (R358, R391). -/
def State.fnOf (s : State) (part : Nat) : Nat :=
  match (s.parts.get part Partition.init).vf with
  | some v => 2 + v
  | none => s.hostLink part

/-- Raises an MSI-X vector of a function. -/
def State.raise (s : State) (fn vector : Nat) : State := { s with plat := { s.plat with msix := (fn, vector) :: s.plat.msix } }

/-- A queue by number. -/
def State.queueAt (s : State) (q : Nat) : Queue := s.queues.get q Queue.init

/-- Replaces a queue. -/
def State.putQueue (s : State) (k : Nat) (q : Queue) : State := { s with queues := s.queues.set k q }

/-- The interrupt of a queue (R393). -/
def State.queueIrq (s : State) (q : Nat) : State := s.raise (s.fnOf (s.queueAt q).part) (1 + q % 63)

/-- Writes the fields of a descriptor that the CP owns (R359). -/
def State.syncDesc (s : State) (k : Nat) : State :=
  let q := s.queueAt k
  let put (s : State) (i : Nat) (f : Word → Word) : State := s.setDbl (q.descPa + 8 * i) (f (s.dbl (q.descPa + 8 * i)))
  let s := put s 1 fun w => setBits w 31 0 q.head
  let s := put s 2 fun w => setBits (setBits w 25 25 (if q.fenced then 1 else 0)) 24 24 (if q.halted then 1 else 0)
  put s 7 fun w => setBits (setBits w 47 32 q.mcp) 31 16 (q.fhead % 2 ^ q.lgsize)

/-- Changes a queue and its descriptor. -/
def State.setQueue (s : State) (k : Nat) (f : Queue → Queue) : State := (s.putQueue k (f (s.queueAt k))).syncDesc k

/-- Halts a queue and raises its interrupt (R362, R393). -/
def State.haltQueue (s : State) (k : Nat) : State := (s.setQueue k fun q => { q with halted := true }).queueIrq k

/-- The watchdog count of a queue restarts (R371). -/
def State.restartWatch (s : State) (k : Nat) : State := s.putQueue k { s.queueAt k with wcount := 0, wstep := 0 }

/-- Whether a packet is a store of memory that has been performed for its context: one that a kill leaves to its end (R365). -/
def PKind.isStore : PKind → Bool
  | .rstore _ _ => true
  | .atomic _ _ _ _ _ posted _ => posted
  | _ => false

/-- Takes what a kill stops out of the machine: the operations of every unit with their entries, in one event, packets that store
nothing, and what was saved (R210, R236, R254, R267, R320, R369). Unstarted special-function requests are counted. -/
def State.cancel (s : State) (l : Nat) : State :=
  let n := (s.masts.map fun m => (m.2.sfQueue.filter fun r => decide (r.launch = l) && !r.started).length).sum
    + (s.launchAt l).saved.sfReqs.length
  let s := (s.endSteals l).dropOps l
  let s := (s.net.filter fun p => decide (p.launch = l) && !p.kind.isStore).foldl State.drop s
  let la := s.launchAt l
  s.putLaunch l { la with sfcan := la.sfcan + n, saved := Saved.init }

/-! ### The record (R367) -/

/-- A count of the record, saturating. -/
def count32 (n : Nat) : Nat := Nat.min n (2 ^ 32 - 1)

/-- The doubles of a completion record. -/
def recordWords (la : Launch) (status : Nat) (cause user core : Nat) (addr info : Word) : List Word :=
  [Word.of (status * 2 ^ 56 + cause * 2 ^ 48 + la.seq * 2 ^ 32 + user),
   Word.of (count32 la.drops * 2 ^ 32 + count32 la.yrej), Word.of (count32 la.arrdrop * 2 ^ 32 + count32 la.sfcan),
   Word.of (count32 la.evdrop * 2 ^ 32 + count32 la.tdrop), Word.of (core % 8192), addr, info, 1]

/-- The record of a launch that ends with a status: a failure's values only where it failed. -/
def Launch.record (la : Launch) (status : Nat) : List Word :=
  match (if status = 2 then la.failure else none) with
  | some f => recordWords la status f.cause f.user f.core f.addr f.info
  | none => recordWords la status 0 0 0 0 0

/-- The kind of the range that holds an address. -/
def kindAt (rs : List Range) (v n : Nat) : Nat := ((rangeOf rs v n).map (·.kind)).getD 0

/-- Writes bytes at a virtual address of a launch, where its walks succeed. -/
def State.tryWrite (s : State) (l v : Nat) (bs : List Byte) : State :=
  match s.writeVirt l (kindAt (s.launchAt l).ranges v 1) (bs.length / 65536 + 2) v bs with
  | .ok t => t
  | .error _ => s

/-- Writes a completion record (R365); a walk that fails fails the launch (R352). -/
def State.writeRecord (s : State) (l : Nat) (ws : List Word) : State :=
  let la := s.launchAt l
  let s := match s.writeVirt l (kindAt la.ranges la.doneVa.toNat 1) 2 la.doneVa.toNat (wordsToBytes ws) with
    | .ok t => t
    | .error (v, level) => s.walkFailed l 0 v level
  s.queueIrq la.queue

/-- Writes the host bindings (R365); a binding joined to another holds that one's HOST word. -/
def State.writeBindings (s : State) (l : Nat) : State :=
  let la := s.launchAt l
  if la.hbindVa = 0 then s
  else la.hostbind.foldl (fun s b => s.tryWrite l (la.hbindVa.toNat + 8 * b.1) (toBytes 8 b.2.toNat)) s

/-- The address and level at which the walk of a write of `n` bytes fails, where it does. -/
def State.writeFault (s : State) (l v n : Nat) : Option (Nat × Nat) :=
  match s.writeVirt l (kindAt (s.launchAt l).ranges v 1) 2 v (List.replicate n 0) with
  | .ok _ => none
  | .error e => some e

/-- The address and level of the first write of a completion, a host binding or the record, whose walk fails (R352, R365). -/
def State.endFault (s : State) (l : Nat) : Option (Nat × Nat) :=
  let la := s.launchAt l
  let bs := if la.hbindVa = 0 then [] else la.hostbind.map fun b => (la.hbindVa.toNat + 8 * b.1, 8)
  (bs ++ [(la.doneVa.toNat, 64)]).findSome? fun (p : Nat × Nat) => s.writeFault l p.1 p.2

/-! ### Pre-emption and kills (R369) -/

/-- A pre-emption (R369). One that step 1 of the watchdog has asked for, itself or before, completes the launch with status 5; its
queue is halted, and the count restarts (R371). -/
def State.preempt (s : State) (l why : Nat) : State :=
  let la := s.launchAt l
  if why = 3 ∨ la.why = 3 then
    let t := s.preemptNow l 3
    ((t.writeRecord l ((t.launchAt l).record 5)).restartWatch la.queue).haltQueue la.queue
  else s.preemptNow l why

/-- A kill is requested (R369): nothing of the launch issues any more, and its operations are stopped. An alarm's status
replaces any other. -/
def State.kill (s : State) (l code : Nat) : State :=
  let la := s.launchAt l
  if la.killed then s.putLaunch l { la with code := if code = 6 then code else la.code }
  else
    let s := s.cancel l
    s.putLaunch l { s.launchAt l with killed := true, code := code }

/-! ### Completion (R190, R365) -/

/-- Whether a task holds nothing that keeps its launch from quiescence. -/
def Task.quiet (t : Task) : Bool :=
  t.deque.isEmpty && t.spilled.isEmpty && t.waitingMsgs.isEmpty && t.nodes.all fun n => !n.2.isJoin

/-- Whether a packet is a steal request: the one packet that keeps no launch from quiescence (R190). -/
def PKind.isStealReq : PKind → Bool
  | .stealReq _ => true
  | _ => false

/-- Whether a launch is quiescent (R190): no record, no context but a kernel's on its hart, and nothing of the net and deque units in flight.
A command that a yard, the EA or the special-function unit still has is none of these. -/
def State.quiescent (s : State) (l : Nat) : Bool :=
  let mine (k : Nat) : Bool := decide ((s.taskAt k).launch = l)
  s.tasks.all (fun p => decide (p.2.launch ≠ l) || p.2.quiet)
    && (s.ctxsOf l).all (fun p => p.2.kind = .hart) && s.net.all (fun p => decide (p.launch ≠ l) || p.kind.isStealReq || p.kind.isStore)
    && s.cores.all fun c => c.2.splices.all (fun x => !mine x.task) && c.2.repoints.all (fun x => !mine x.task)
        && c.2.meetings.all fun x => !mine x.task

/-- Whether every store, remote store and move of a launch has been performed (R365 step 1): the moves are those of its journalled
transfers, of which a kill leaves none (R320). -/
def State.written (s : State) (l : Nat) : Bool :=
  (s.ctxsOf l).all (fun p => p.2.storeBuf.isEmpty) && s.net.all (fun p => !(decide (p.launch = l) && p.kind.isStore))
    && s.masts.all fun m => m.2.transfers.all fun t => decide (t.launch ≠ l)

/-- What is left of a launch that has ended: its name. -/
def Launch.ended (la : Launch) : Launch :=
  { Launch.init with status := .finished, queue := la.queue, seq := la.seq, ring := la.ring, part := la.part, code := la.code }

/-- Ends a launch with a status: bindings, counts, the record and the return of its resources. A gang queue halts at a
failure (R368, R393), and the watchdog count restarts (R371). -/
def State.complete (s : State) (l status : Nat) : State :=
  let la := s.launchAt l
  let counted := (s.release l).launchAt l
  let s := if la.status = .checked then s else s.writeBindings l
  let s := s.writeRecord l ({ counted with failure := la.failure }.record status)
  let s := s.release l
  let s := s.restartWatch la.queue
  let s := if (s.parts.get la.part Partition.init).gang && decide (status = 2) then
    (s.putQueue la.queue { s.queueAt la.queue with failed := true }).haltQueue la.queue else s
  s.putLaunch l { la with code := status }.ended

/-- Step 2 of dispatch (R347, R364): the lowest free ASID is the launch's, and its root is installed. -/
def State.assignRoot (s : State) (l : Nat) : State :=
  let la := s.launchAt l
  let a := s.freeAsid
  { s with roots := s.roots.set a (Word.of (2 ^ 63 + la.root)) }.putLaunch l { la with asid := a }

/-- A completion record for a launch whose root is not installed. -/
def State.withRoot (s : State) (l : Nat) (f : State → State) : State :=
  let a := s.freeAsid
  let t := f (s.assignRoot l)
  { t with roots := t.roots.erase a }

/-- LAUNCH_COMPLETE (R365) of launch `place.a`: it is quiescent or has been killed, and its stores and moves have been performed. What its yards,
EA and special-function unit still have then goes with its resources (log entry 50). A walk for a host binding or for the record that
fails fails the launch (R352). -/
def execLaunchComplete (s : State) : Host.Outcome State Fault Refusal :=
  let l := s.place.a
  let la := s.launchAt l
  if la.killed && la.alive then
    if !s.written l then s.passed
    else .next (s.complete l la.code)
  else if la.status = .resident ∧ la.failure = none ∧ s.quiescent l ∧ s.written l then
    match s.endFault l with
    | some (v, level) => .next (s.walkFailed l 0 v level)
    | none => .next (s.complete l 1)
  else s.passed

/-- TASK_FAIL (R368) of launch `place.a`: a task of it has failed, so all its tasks are killed, and it completes as failed. -/
def execTaskFail (s : State) : Host.Outcome State Fault Refusal :=
  let l := s.place.a
  let la := s.launchAt l
  if la.failure ≠ none ∧ !la.killed ∧ (la.status = .resident ∨ la.status = .preempted) then .next (s.kill l 2)
  else s.passed

/-- HOST_WRITE_REJECT (R394): a posted host write of launch `place.a` is rejected; AER logs it, also where the launch does not run any more,
and a launch that runs fails. The manual does not say which core and address the record then names (log entry 2). -/
def execHostWriteReject (s : State) : Host.Outcome State Fault Refusal :=
  let l := s.place.a
  let s := { s with plat := { s.plat with aer := s.plat.aer + 1 } }
  if s.runs l then
    let a := s.takeFree
    let b := a.2.takeFree
    let core := a.1.toNat % 8192
    .next ((b.2.markFailed fun t => decide (t.launch = l) && decide (t.core = core)).failLaunch l ⟨0x40, 0, core, b.1, 0⟩)
  else .next s

end Sys2Proof.Machine
end

