-- ==== Sys2Proof/Machine/Control.lean ====
section
/-! DEFINITION. Control: branches, calls, hardware loops, PARK, YIELD and software traps (R35, R75 to R102). -/

namespace Sys2Proof.Machine

/-- Drops the loop entries that a taken branch leaves (R102). -/
def leaveLoops (b : Nat) (target : Word) (es : List LoopEntry) : List LoopEntry :=
  es.dropWhile fun e => decide (e.base = b) && !(decide (e.start ≤ target) && decide (target ≤ e.stop))

/-- Takes a branch (R98, R102). -/
def State.branch (s : State) (target : Word) : State :=
  s.setCtx { s.ctx with pc := target, loops := leaveLoops s.ctx.base target s.ctx.loops }

/-- A conditional branch of `n` words. -/
def State.branchIf (s : State) (c : Bool) (n : Nat) (off : BitVec 15) : Host.Outcome State Fault Refusal :=
  .next (if c then s.branch (s.target off) else s.advance n)

/-- NOP (R35). -/
def execNop (_d : Reg) (_csr : BitVec 12) (s : State) : Host.Outcome State Fault Refusal := .next (s.advance 1)

/-- BR (R98). -/
def execBr (off : BitVec 15) (s : State) : Host.Outcome State Fault Refusal := .next (s.branch (s.target off))

/-- BR, far form (R98). -/
def execBrFar (off : BitVec 32) (s : State) : Host.Outcome State Fault Refusal := .next (s.branch (s.farTarget off))

/-- BZ (R98). The hint does not change the result (R33). -/
def execBz (t : ITy) (_likely : Bool) (c : Reg) (off : BitVec 15) (s : State) :=
  s.branchIf (t.val (s.reg c) = 0) 1 off

/-- BNZ (R98). -/
def execBnz (t : ITy) (_likely : Bool) (c : Reg) (off : BitVec 15) (s : State) :=
  s.branchIf (t.val (s.reg c) ≠ 0) 1 off

/-- BEQ (R98). -/
def execBeq (t : ITy) (_likely : Bool) (c : Reg) (off : BitVec 15) (y : Src) (s : State) :=
  s.branchIf (t.val (s.reg c) = s.isrc t y) 2 off

/-- BNE (R98). -/
def execBne (t : ITy) (_likely : Bool) (c : Reg) (off : BitVec 15) (y : Src) (s : State) :=
  s.branchIf (t.val (s.reg c) ≠ s.isrc t y) 2 off

/-- BLT (R98). -/
def execBlt (t : ITy) (_likely : Bool) (c : Reg) (off : BitVec 15) (y : Src) (s : State) :=
  s.branchIf (t.val (s.reg c) < s.isrc t y) 2 off

/-- BGE (R98). -/
def execBge (t : ITy) (_likely : Bool) (c : Reg) (off : BitVec 15) (y : Src) (s : State) :=
  s.branchIf (s.isrc t y ≤ t.val (s.reg c)) 2 off

/-! ### Calls and returns (R75 to R78) -/

/-- The link word (R76). -/
def linkWord (f : Nat) (ret : Word) : Word := Word.of ((f / 4) * 2 ^ 61 + ret.toNat % 2 ^ 61)

/-- An entry of the context's window stack below the window: resident, or in the spill area (R75). -/
def State.entry (s : State) (k : Nat) : Word :=
  if s.ctx.low ≤ k then s.ctx.file.get (k % 128) 0
  else s.dbl (spillKey s.ctx (s.ctx.wsp - Word.of (8 * (s.ctx.low - k))))

/-- CALL and CALLX (R77) of `n` words with frame `f`. -/
def State.call (s : State) (f n : Nat) (target : Word) : Ex State := do
  need (bits target 1 0 = 0) (.trap 0x03 target 0)
  need (slideFits s.ctx f 512) (.trap 0x09 s.pc 0)
  let t := s.setReg (.w (Fin.ofNat 32 (f - 1))) (linkWord f (s.pc + Word.of (4 * n)))
  let t := t.setCtx { t.ctx with depth := t.ctx.depth + 1 }
  .ok ((t.slideUp f).setPc target)

/-- CALL (R77). -/
def execCall (f : Nat) (off : BitVec 15) (s : State) := s.finish (s.call f 1 (s.target off))

/-- CALL, far form with frame 28 (R77). -/
def execCallFar (off : BitVec 32) (s : State) := s.finish (s.call 28 2 (s.farTarget off))

/-- CALLX (R77). -/
def execCallx (f : Nat) (a : RcSrc) (s : State) := s.finish (s.call f 1 (s.rc a))

/-- RET (R78). DESIGN CHOICE (log entry 74): where B is 0 with depth above 0, after the clamped slide of R75, the link is read at entry 0. -/
def State.doRet (s : State) : Ex State := do
  need (s.ctx.depth ≠ 0) (.trap 0x09 s.pc 1)
  let link := s.entry (s.ctx.base - 1)
  need (bits link 63 61 ≠ 0) (.trap 0x09 s.pc 2)
  let t := s.slideDown (bits link 63 61 * 4)
  let t := t.setCtx { t.ctx with depth := t.ctx.depth - 1 }
  .ok (t.popLoops.setPc (Word.of (bits link 60 0)))

/-- RET (R78). -/
def execRet (s : State) := s.finish s.doRet

/-! ### Hardware loops (R99 to R101) -/

/-- Pushes a loop entry and enters its body, or traps where the stack is full. -/
def State.enterLoop (s : State) (k : LoopKind) (start stop : Word) : Ex State := do
  need (s.ctx.loops.length < 8) (.trap 0x08 s.pc 0)
  .ok (s.setCtx { s.ctx with loops := ⟨k, start, stop, s.ctx.base⟩ :: s.ctx.loops, pc := start })

/-- LOOP (R99). -/
def execLoop (c : Reg) (off : BitVec 15) (s : State) : Host.Outcome State Fault Refusal :=
  let stop := s.target off
  if s.reg c = 0 then .next (s.setPc (stop + 4)) else s.finish (s.enterLoop (.count (s.reg c)) (s.pc + 4) stop)

/-- The signed value of a step at a type's width (R100). -/
def stepVal (t : ITy) (x : Word) : Int := sextN t.width x.toNat

/-- LFOR (R100): the limit and the step are read once. -/
def execLfor (t : ITy) (c : Reg) (off : BitVec 15) (limit step : Src) (s : State) : Host.Outcome State Fault Refusal :=
  let stop := s.target off
  if loopCont (t.val (s.reg c)) (s.isrc t limit) (stepVal t (s.src step)) then
    s.finish (s.enterLoop (.induct c t (s.src limit) (s.src step)) (s.pc + 8) stop)
  else .next (s.setPc (stop + 4))

/-- LEND at the loop entry `e`, the top of the stack (R101). -/
def State.loopEnd (s : State) (e : LoopEntry) : State :=
  let back (s : State) (e : LoopEntry) (go : Bool) : State :=
    if go then s.setCtx { s.ctx with loops := e :: s.ctx.loops.tail, pc := e.start }
    else s.setCtx { s.ctx with loops := s.ctx.loops.tail, pc := s.pc + 4 }
  match e.kind with
  | .count n => back s { e with kind := .count (n - 1) } (n - 1 ≠ 0)
  | .induct c t lim step =>
    let v := t.wrap (t.val (s.reg c) + stepVal t step)
    back (s.setReg c v) e (loopCont (t.val v) (t.val lim) (stepVal t step))

/-- LEND (R101). -/
def execLend (s : State) : Host.Outcome State Fault Refusal :=
  match s.ctx.loops with
  | [] => s.finish (trapX 0x08 s.pc 1)
  | e :: _ => if e.base = s.ctx.base ∧ s.pc = e.stop then .next (s.loopEnd e) else s.finish (trapX 0x08 s.pc 2)

/-! ### Waiting for an event, yielding and software traps -/

/-- The cycle at which a wait of the context began. -/
def State.waitFrom (s : State) : Word := s.ctx.waitStart.getD s.core.cyc

/-- Whether a PARK with a timeout has waited long enough (R81). -/
def parkOver (timeout start now : Word) : Bool := decide (timeout ≠ 0) && decide (timeout ≤ now - start)

/-- PARK (R81): ends at once with 0 while an event is pending, with 1 when its timeout has passed, else waits. -/
def execPark (d : Reg) (timeout : Src) (s : State) : Host.Outcome State Fault Refusal :=
  if s.ctx.pending ≠ [] then .next (s.result 1 d 0)
  else
    let limit := match s.ctx.await with | .park _ t _ => t | _ => s.src timeout
    if parkOver limit s.waitFrom s.core.cyc then .next (s.result 1 d 1)
    else .next (s.setCtx { s.ctx with await := .park d limit s.waitFrom }).waiting

/-- PARK_TIMEOUT (R81): the timeout of a waiting or parked PARK elapses. A waiting PARK completes with 1; a parked context
becomes resumable, and its PARK completes when it is re-executed. -/
def execParkTimeout (s : State) : Host.Outcome State Fault Refusal :=
  let s := s.focus s.place.a
  match s.ctx.await with
  | .park d t start =>
    if parkOver t start s.core.cyc && s.ctx.pending.isEmpty then
      if s.ctx.status = .waiting then
        let s := s.result 1 d 1
        .next (s.setCtx { s.ctx with await := .none, waitStart := none, status := .running })
      else if s.ctx.status = .parked then .next (s.signal s.cur.ctx)
      else s.passed
    else s.passed
  | _ => s.passed

/-- The issuing strand starts again at age 0, and does not issue in the core's next cycle if another strand is ready then (R82). -/
def State.yieldStrand (s : State) : State :=
  s.setCore { s.core with strands := s.core.strands.modify s.ctx.strand fun st => { st with age := 0, yielded := true } }

/-- YIELD (R82). -/
def execYield (s : State) : Host.Outcome State Fault Refusal := .next (s.yieldStrand.advance 1)

/-- TRAP (R87): a non-zero source takes cause 0x14, and trappc is the address behind the TRAP (R83). -/
def execTrap (a : Src) (imm : BitVec 10) (s : State) : Host.Outcome State Fault Refusal :=
  if s.src a = 0 then .next (s.advance 1) else .next (s.trapEntry 0x14 s.pc (imm.signExtend 64) (s.pc + 4))

/-- ERET (R86). -/
def execEret (s : State) := s.finish s.eret

/-- BKPT (R87). -/
def execBkpt (imm : BitVec 10) (s : State) : Host.Outcome State Fault Refusal :=
  .next (s.trapEntry 0x13 s.pc (imm.signExtend 64) (s.pc + 4))

end Sys2Proof.Machine
end

