-- ==== Sys2Proof/Machine/Drain.lean ====
section
/-! DEFINITION. The drain of the store buffer (R112, R212, R213, R330, R331). -/

namespace Sys2Proof.Machine

/-- The store of a double into a yard window slot; the store to double 7 posts the slot (R212, R213). None where that waits
for an entry. A killed launch's command would be cancelled at once, so it is not posted (R236). -/
def State.drainYard (s : State) (core l : Nat) (ea : Word) (v : Word) : Option State :=
  let k := ySlotKey l (yardSlot ea)
  let co := s.coreAt core
  let sl := co.yslots.get k YSlot.init
  let i := bits ea 5 3
  let s := s.putCore core { co with yslots := co.yslots.set k { sl with dbl := sl.dbl.set i v } }
  if i = 7 && s.runs l then s.post core l (yardSlot ea) else some s

/-- The effect of a store at its drain, for the context that acts: none while it must wait (R200, R201, R204). -/
def State.drainEffect (s : State) (st : BufStore) : Option State :=
  if inYardWindow st.ea && s.engine = .mast then
    s.drainYard s.cur.core s.cur.launch st.ea (Word.of (ofBytes st.bytes))
  else if space st.ea = 0x9 && s.engine ≠ .tackle then
    let rs := s.runsOf s.mastNo (bits st.ea 19 0) st.bytes.length
    if rs.all fun r => s.sbFree true (keyOff r.1) r.2.2 then some (s.writeBank s.mastNo (bits st.ea 19 0) st.bytes) else none
  else some (s.write st.key st.bytes)

/-- Whether a store that cannot drain waits for a scoreboard entry, and for nothing else: it posts a command whose batch word, where it
has one, can be read (R204, R234). -/
def State.lacksEntry (s : State) (st : BufStore) : Bool :=
  inYardWindow st.ea && s.engine = .mast && (s.entryOn s.mastNo s.coreIx (.drain s.cur.ctx)).isNone &&
    (s.seal s.mastNo (newCmd s.cur.launch (yardSlot st.ea)
      (s.core.yslots.get (ySlotKey s.cur.launch (yardSlot st.ea)) YSlot.init).dbl)).isSome

/-- STORE_DRAIN (R112) of the oldest store of context `place.a`. A store that follows a release waits until every packet
placed before that release has been applied; one that posts a command registers an operation, a release (R335), and waits for every
older packet; a hart's store waits until its earlier moves have been performed (R325). A command's store that finds no entry waits at the drain, in its turn (R204). -/
def execStoreDrain (s : State) : Host.Outcome State Fault Refusal :=
  let s := s.focus s.place.a
  match s.ctx.storeBuf with
  | [] => s.passed
  | st :: rest =>
    let rel := if s.posts st then st.order else st.rel
    if s.packetsDone s.cur.ctx rel && s.movesDone s.cur.ctx st.order && decide (s.launch.status ≠ .preempted) then
      match (s.setCtx { s.ctx with storeBuf := rest }).drainEffect st with
      | some s => .next s
      | none => .next (if s.lacksEntry st then s.awaitEntry s.mastNo s.coreIx (.drain s.cur.ctx)
          else s.endAwait s.mastNo (.drain s.cur.ctx))
    else s.passed

end Sys2Proof.Machine
end

