-- ==== Sys2Proof/Machine/Payload.lean ====
section
/-! DEFINITION. Payloads that are shared or copied (R161, R162): NDUP and NOWN. The copy is a halyard's transfer. -/

namespace Sys2Proof.Machine

/-- The global address of a spare address: a bank address becomes its space-0xB form (R162). -/
def State.globalAddr (s : State) (a : Word) : Word :=
  if space a = 0x9 then Word.of (11 * 2 ^ 60 + s.mastNo * 2 ^ 32 + bits a 19 0) else a

/-- The bytes of a payload: its header line and its data (R144). -/
def payloadSize (header : Word) : Nat := 64 + bits header 31 0

/-- The checks of a spare address for `n` bytes (R162). -/
def State.spareCheck (s : State) (a : Word) (n : Nat) : Ex State := do
  need (a.toNat % 64 = 0) (.trap 0x03 a 0)
  let s ← s.spanCheck a n .store [0x0, 0x9]
  need (!s.spanArmed a n) (s.bad0C 0)
  .ok s

/-- A payload's address as its source interval: in the mast's own banks, its space-0x9 form. -/
def State.ownBank (s : State) (a : Word) : Word :=
  if space a = 0xB && bits a 41 32 = s.mastNo then bankAddr (bits a 19 0) else a

/-- The transfers of a halyard whose end has not been told to their contexts. -/
def Halyard.untold (y : Halyard) : List Transfer := if y.stage = .reported then y.journal.tail else y.journal

/-- The copy that the context has asked for before and that is still to end: a wait that an event or a stop has ended starts again
on it (R88, R162). -/
def State.copying (s : State) (desc a : Word) : Option (BitVec 16) :=
  ((s.mast.hy0.untold ++ s.mast.hy1.untold).find? fun t =>
    decide (t.copy = some (s.cur.ctx, a)) && decide (t.hsrc = desc) && !t.told).map (·.id)

/-- The transfer of the copy of a payload of `n` bytes to a spare address (R162, R306). -/
def State.copyTransfer (s : State) (desc a : Word) (n h slot e : Nat) : Transfer :=
  { slot := slot, id := transferId ((s.mast.hy h).seq + 1) h slot, launch := s.cur.launch, task := s.cur.task,
    ctx := s.cur.ctx, hsrc := desc, hdst := a, hlen := 0, hstr := 0, harg := 0, kernel := 0, mbox := 0, bar := 0,
    hand := 0, irq := false, htype := 4, budget := 0, arg2 := 0, rlo := desc, rlen := n, wlo := a, wlen := n, entry := e,
    copy := some (s.cur.ctx, a), told := false }

/-- Starts the copy of a payload of `n` bytes to a spare address: it waits for a journal entry and a scoreboard entry, and
then for the copy (R162, R306). Its registration is a release, so it comes after the context's earlier accesses (R335). -/
def State.startCopy (s : State) (desc a : Word) (n : Nat) : Ex State := do
  match s.copying desc a with
  | some id => .ok (s.setCtx { s.ctx with await := .copy id a }).waiting
  | none => do
    need s.settled .wait
    match s.mast.journalFor 2 with
    | none => waitX
    | some (h, slot) =>
      match s.myEntry with
      | none => .ok s.awaitMine
      | some (e, sh) =>
        let s := s.tookEntry
        let is := s.mast.spanIvals false (s.ownBank desc) n ++ s.mast.spanIvals true a n
        let t := s.copyTransfer desc a n h slot e
        let s := s.journal h e sh t is
        .ok (s.setCtx { s.ctx with await := .copy t.id a }).waiting

/-- The end of NOWN and NDUP once the copy is done: the copy has one sharer, and node `r` has it as its payload. -/
def State.adopt (s : State) (r a : Word) : Ex State := do
  let k ← s.payloadKey (s.globalAddr a) .atomic
  need (!s.keyBusy true k 8) .wait
  let s := s.setCount k 1
  .ok (s.setNodeOf r { s.nodeOf r with desc := s.globalAddr a })

/-- The fault that has stopped a copy is the instruction's (log entry 35). -/
def copyFault : Option (Nat × Word) → Ex Unit
  | none => .ok ()
  | some (c, a) => trapX c a 0

/-- NOWN (R162). -/
def State.nown (s : State) (d n : Reg) : Ex State := do
  let r := s.reg n
  s.chk r false .netW
  s.needReleased
  let desc := (s.nodeOf r).desc
  need (desc ≠ 0) (s.bad0C 0)
  match s.ctx.await with
  | .copied a f => do
    copyFault f
    let p ← s.payload desc
    let s ← (p.2.2.setCount p.1 (countOf p.2.1 - 1)).adopt r a
    .ok (s.result 1 d (if countOf p.2.1 = 1 then 2 else 1))
  | .copy _ _ => waitX
  | _ => do
    let p ← s.payload desc
    if countOf p.2.1 = 1 then .ok (p.2.2.result 1 d 0)
    else do
      let a := s.reg d
      let s ← p.2.2.spareCheck a (payloadSize p.2.1)
      s.startCopy desc a (payloadSize p.2.1)

/-- NOWN. -/
def execNown (d n : Reg) (s : State) := s.finish (s.nown d n)

/-- NDUP (R161). -/
def State.ndup (s : State) (d t r : Reg) : Ex State := do
  let x := s.reg t
  let y := s.reg r
  s.chk x false .netW
  s.chk y false .net
  s.needReleased
  let desc := (s.nodeOf y).desc
  need ((s.nodeOf x).desc = 0 && desc ≠ 0) (s.bad0C 0)
  match s.ctx.await with
  | .copied a f => do
    copyFault f
    let s ← s.adopt x a
    .ok (s.result 1 d 1)
  | .copy _ _ => waitX
  | _ => do
    let p ← s.payload desc
    if countOf p.2.1 < 65535 then
      let s := p.2.2.setCount p.1 (countOf p.2.1 + 1)
      .ok ((s.setNodeOf x { s.nodeOf x with desc := desc }).result 1 d 0)
    else do
      let a := s.reg d
      let s ← p.2.2.spareCheck a (payloadSize p.2.1)
      s.startCopy desc a (payloadSize p.2.1)

/-- NDUP. -/
def execNdup (d t r : Reg) (s : State) := s.finish (s.ndup d t r)

end Sys2Proof.Machine
end

