-- ==== Sys2Proof/Machine/Crypto.lean ====
section
/-! DEFINITION. The signature of a CP image (R3, R373): SHA-512, and the verification of ECDSA over P-521. The manual names both and describes
neither; they are those of FIPS 180-4 and FIPS 186 (PRESUMED, log entry 54). -/

namespace Sys2Proof.Machine

/-! ### SHA-512 -/

/-- The greatest r with r^k ≤ x, for an x below 2^(70 k). -/
def intRoot (k x : Nat) : Nat := (List.range 70).reverse.foldl (fun r b => if (r + 2 ^ b) ^ k ≤ x then r + 2 ^ b else r) 0

/-- The primes below 410: eighty of them. -/
def shaPrimes : List Nat := (List.range 410).filter fun n => decide (2 ≤ n) && (List.range n).all fun d => decide (d < 2) || decide (n % d ≠ 0)

/-- The first 64 bits of the fractional part of the k-th root of a prime. -/
def rootBits (k p : Nat) : Word := BitVec.ofNat 64 (intRoot k (p * 2 ^ (64 * k)))

/-- The eighty round constants. -/
def shaK : List Word := shaPrimes.map (rootBits 3)

/-- The eight words that a digest starts from. -/
def shaInit : List Word := (shaPrimes.take 8).map (rootBits 2)

/-- The number that bytes hold, the most significant first. -/
def ofBytesBE (bs : List Byte) : Nat := bs.foldl (fun n b => n * 256 + b.toNat) 0

/-- The `k` low bytes of a number, the most significant first. -/
def toBytesBE (k n : Nat) : List Byte := (List.range k).reverse.map fun i => BitVec.ofNat 8 (n / 256 ^ i)

/-- A message filled up to whole blocks of 128 bytes: a one bit, zeros, and the length in bits. -/
def shaPad (bs : List Byte) : List Byte := bs ++ [0x80#8] ++ List.replicate ((239 - bs.length % 128) % 128) 0 ++ toBytesBE 16 (8 * bs.length)

/-- The next `n` words of a message schedule, which stands with its newest word first. -/
def shaExtend : Nat → List Word → List Word
  | 0, ws => ws
  | n + 1, ws =>
    let w (k : Nat) : Word := ws.getD (k - 1) 0
    let s0 := (w 15).rotateRight 1 ^^^ (w 15).rotateRight 8 ^^^ ((w 15) >>> 7)
    let s1 := (w 2).rotateRight 19 ^^^ (w 2).rotateRight 61 ^^^ ((w 2) >>> 6)
    shaExtend n ((s1 + w 7 + s0 + w 16) :: ws)

/-- The message schedule of a block. -/
def shaSchedule (block : List Byte) : List Word :=
  (shaExtend 64 ((List.range 16).map fun i => BitVec.ofNat 64 (ofBytesBE ((block.drop (8 * i)).take 8))).reverse).reverse

/-- One round over the eight working words, for a constant and a word of the schedule. -/
def shaRound (v : List Word) (kw : Word × Word) : List Word :=
  match v with
  | [a, b, c, d, e, f, g, h] =>
    let s1 := e.rotateRight 14 ^^^ e.rotateRight 18 ^^^ e.rotateRight 41
    let t1 := h + s1 + ((e &&& f) ^^^ (~~~e &&& g)) + kw.1 + kw.2
    let s0 := a.rotateRight 28 ^^^ a.rotateRight 34 ^^^ a.rotateRight 39
    let t2 := s0 + ((a &&& b) ^^^ (a &&& c) ^^^ (b &&& c))
    [t1 + t2, a, b, c, d + t1, e, f, g]
  | _ => v

/-- The digest words after the next `n` blocks. -/
def shaBlocks : Nat → List Byte → List Word → List Word
  | 0, _, h => h
  | n + 1, bs, h => shaBlocks n (bs.drop 128) (List.zipWith (· + ·) h ((shaK.zip (shaSchedule (bs.take 128))).foldl shaRound h))

/-- SHA-512, as a number of 512 bits. -/
def sha512 (bs : List Byte) : BitVec 512 :=
  let p := shaPad bs
  BitVec.ofNat 512 ((shaBlocks (p.length / 128) p shaInit).foldl (fun n w => n * 2 ^ 64 + w.toNat) 0)

/-! ### P-521 -/

/-- The prime of the field. -/
def p521 : Nat := 2 ^ 521 - 1

/-- The coefficient b of the curve y² = x³ - 3 x + b. -/
def p521B : Nat :=
  0x0051953EB9618E1C9A1F929A21A0B68540EEA2DA725B99B315F3B8B489918EF109E156193951EC7E937B1652C0BD3BB1BF073573DF883D2C34F1EF451FD46B503F00

/-- The order of the base point. -/
def p521N : Nat :=
  0x01FFFFFFFFFFFFFFFFFFFFFFFFFFFFFFFFFFFFFFFFFFFFFFFFFFFFFFFFFFFFFFFFFA51868783BF2F966B7FCC0148F709A5D03BB5C9B8899C47AEBB6FB71E91386409

/-- A point of the curve; none is the point at infinity. -/
abbrev EcPoint := Option (Nat × Nat)

/-- The base point. -/
def p521G : EcPoint := some
  (0x00C6858E06B70404E9CD9E3ECB662395B4429C648139053FB521F828AF606B4D3DBAA14B5E77EFE75928FE1DC127A2FFA8DE3348B3C1856A429BF97E7E31C2E5BD66,
   0x011839296A789A3BC0045C8A5FB42C7D1BD998F54449579B446817AFBD17273E662C97EE72995EF42640C550B9013FAD0761353C7086A272C24088BE94769FD16650)

/-- x^e mod m, for an e of at most 521 bits. -/
def powMod (m x e : Nat) : Nat := (List.range 521).reverse.foldl (fun r i => let q := r * r % m; if e.testBit i then q * x % m else q) 1

/-- The inverse modulo a prime. -/
def invMod (m x : Nat) : Nat := powMod m x (m - 2)

/-- x - y modulo the prime of the field, for reduced x and y. -/
def subP (x y : Nat) : Nat := (x + (p521 - y)) % p521

/-- The sum of two points. -/
def EcPoint.add : EcPoint → EcPoint → EcPoint
  | none, q => q
  | p, none => p
  | some (x, y), some (u, v) =>
    if x = u && (y + v) % p521 = 0 then none
    else
      let k := if x = u then subP (3 * x * x % p521) 3 * invMod p521 (2 * y % p521) % p521
        else subP v y * invMod p521 (subP u x) % p521
      let r := subP (subP (k * k % p521) x) u
      some (r, subP (k * subP x r % p521) y)

/-- A multiple of a point, for a factor of at most 521 bits. -/
def EcPoint.mul (k : Nat) (p : EcPoint) : EcPoint :=
  (List.range 521).reverse.foldl (fun r i => let d := EcPoint.add r r; if k.testBit i then EcPoint.add d p else d) none

/-- Whether two coordinates are those of a point of the curve. -/
def onCurve (x y : Nat) : Bool :=
  decide (x < p521) && decide (y < p521) && decide (y * y % p521 = subP ((x * x % p521 * x + p521B) % p521) (3 * x % p521))

/-- Whether (r, s) is an ECDSA signature of a digest by the public key (x, y). -/
def ecdsaVerify (x y : Nat) (digest : BitVec 512) (r s : Nat) : Bool :=
  onCurve x y && decide (0 < r) && decide (r < p521N) && decide (0 < s) && decide (s < p521N) &&
    (let w := invMod p521N s
     match EcPoint.add (EcPoint.mul (digest.toNat * w % p521N) p521G) (EcPoint.mul (r * w % p521N) (some (x, y))) with
     | none => false
     | some (u, _) => decide (u % p521N = r))

/-- Whether 132 bytes, the two numbers of a signature in turn, sign a text by a public key whose two coordinates 132 bytes hold
(R373). -/
def signs (key signature text : List Byte) : Bool :=
  ecdsaVerify (ofBytesBE (key.take 66)) (ofBytesBE (key.drop 66)) (sha512 text)
    (ofBytesBE (signature.take 66)) (ofBytesBE (signature.drop 66))

end Sys2Proof.Machine
end

