-- ==== Sys2Proof/Machine/RvHart.lean ====
section
/-! DEFINITION. The registers of a CP's hart (R356): integer and floating-point registers, control and status registers, and the entry into
and the return from a trap, as the RISC-V privileged architecture has them (PRESUMED, log entry 79). -/

namespace Sys2Proof.Machine

/-! ### Registers -/

/-- An integer register; x0 reads as zero. -/
def Hart.reg (h : Hart) (r : Nat) : Word := if r = 0 then 0 else h.x.get r 0

/-- Writes an integer register; x0 discards. -/
def Hart.setReg (h : Hart) (r : Nat) (v : Word) : Hart := if r = 0 then h else { h with x := h.x.set r v }

/-- A floating-point register as a pattern of a format: a single-precision value is NaN-boxed, and what is not reads as the canonical
NaN. -/
def Hart.freg (h : Hart) (dbl : Bool) (r : Nat) : Nat :=
  let v := h.f.get r 0
  if dbl then v.toNat else if bits v 63 32 = 2 ^ 32 - 1 then bits v 31 0 else 0x7FC00000

/-- The register value of a pattern: a single-precision one is NaN-boxed. -/
def boxed (dbl : Bool) (v : Nat) : Word := if dbl then Word.of v else Word.of ((2 ^ 32 - 1) * 2 ^ 32 + v % 2 ^ 32)

/-- The floating-point state is dirty. -/
def Hart.dirty (h : Hart) : Hart := { h with mstatus := setBits h.mstatus 14 13 3 }

/-- Writes a floating-point register. -/
def Hart.setFreg (h : Hart) (r : Nat) (v : Word) : Hart := { h.dirty with f := h.f.set r v }

/-- Adds exception flags to fflags. -/
def Hart.raise (h : Hart) (flags : Nat) : Hart := { h.dirty with fcsr := h.fcsr ||| Word.of flags }

/-- Whether floating-point instructions run: mstatus.FS is not Off. -/
def Hart.fpOn (h : Hart) : Bool := decide (bits h.mstatus 14 13 ≠ 0)

/-! ### Control and status registers -/

/-- A word with the bits of a mask taken from another. -/
def masked (m old v : Word) : Word := (old &&& ~~~m) ||| (v &&& m)

/-- The fields of mstatus that can be written: SIE, MIE, SPIE, MPIE, SPP, MPP, FS, MPRV, SUM, MXR, TVM, TW, TSR. -/
def mstatusMask : Word := 0x7E79AA

/-- Those that sstatus shows: SIE, SPIE, SPP, FS, SUM, MXR. -/
def sstatusMask : Word := 0xC6122

/-- mstatus as it is read: SXL and UXL are 64 bits, and SD is set while the floating-point state is dirty. -/
def Hart.status (h : Hart) : Word := h.mstatus ||| 0xA00000000 ||| (if bits h.mstatus 14 13 = 3 then 0x8000000000000000 else 0)

/-- Writes mstatus; MPP keeps its value where 2, which is no mode, is written. -/
def Hart.setStatus (h : Hart) (v : Word) : Hart :=
  let v := if bits v 12 11 = 2 then setBits v 12 11 (bits h.mstatus 12 11) else v
  { h with mstatus := masked mstatusMask h.mstatus v }

/-- Whether a counter (bit `i` of the enables) may be read in the hart's mode. -/
def Hart.counterOn (h : Hart) (i : Nat) : Bool := h.mode = 3 || (bit h.mcounteren i && (h.mode = 1 || bit h.scounteren i))

/-- misa: RV64 with A, C, D, F, I, M, S and U. -/
def misa : Word := 0x800000000014112D

/-- A standard register as it is read; none where the hart has none of this number or keeps it from its mode. The hart has no platform
timer (time), and its event counters, event selectors and memory protection entries read as zero. -/
def Hart.csr (h : Hart) (cp n : Nat) : Option Word :=
  let fp (v : Word) : Option Word := if h.fpOn then some v else none
  match n with
  | 0x001 => fp (Word.of (bits h.fcsr 4 0))
  | 0x002 => fp (Word.of (bits h.fcsr 7 5))
  | 0x003 => fp h.fcsr
  | 0x100 => some (h.status &&& (sstatusMask ||| 0x8000000300000000))
  | 0x104 => some (h.mie &&& h.mideleg)
  | 0x105 => some h.stvec
  | 0x106 => some h.scounteren
  | 0x10A => some h.senvcfg
  | 0x140 => some h.sscratch
  | 0x141 => some h.sepc
  | 0x142 => some h.scause
  | 0x143 => some h.stval
  | 0x144 => some (h.mip &&& h.mideleg)
  | 0x180 => if h.mode = 1 && bit h.mstatus 20 then none else some h.satp
  | 0x300 => some h.status
  | 0x301 => some misa
  | 0x302 => some h.medeleg
  | 0x303 => some h.mideleg
  | 0x304 => some h.mie
  | 0x305 => some h.mtvec
  | 0x306 => some h.mcounteren
  | 0x30A => some h.menvcfg
  | 0x320 => some h.mcountinhibit
  | 0x340 => some h.mscratch
  | 0x341 => some h.mepc
  | 0x342 => some h.mcause
  | 0x343 => some h.mtval
  | 0x344 => some h.mip
  | 0xB00 => some h.mcycle
  | 0xB02 => some h.minstret
  | 0xC00 => if h.counterOn 0 then some h.mcycle else none
  | 0xC02 => if h.counterOn 2 then some h.minstret else none
  | 0xF11 | 0xF12 | 0xF13 | 0xF15 => some 0
  | 0xF14 => some (Word.of cp)
  | _ =>
    if (0x323 ≤ n ∧ n < 0x340) ∨ (0xB03 ≤ n ∧ n < 0xB20) ∨ (0x3A0 ≤ n ∧ n < 0x3B0 ∧ n % 2 = 0) ∨ (0x3B0 ≤ n ∧ n < 0x3F0) then some 0
    else if 0xC03 ≤ n ∧ n < 0xC20 then (if h.mode = 3 then some 0 else none)
    else none

/-- Writes a standard register: the fields that can be written, with values that are legal. -/
def Hart.setCsr (h : Hart) (n : Nat) (v : Word) : Hart :=
  match n with
  | 0x001 => { h.dirty with fcsr := setBits h.fcsr 4 0 (bits v 4 0) }
  | 0x002 => { h.dirty with fcsr := setBits h.fcsr 7 5 (bits v 2 0) }
  | 0x003 => { h.dirty with fcsr := Word.of (bits v 7 0) }
  | 0x100 => h.setStatus (masked sstatusMask h.mstatus v)
  | 0x104 => { h with mie := masked h.mideleg h.mie v }
  | 0x105 => { h with stvec := v &&& ~~~2 }
  | 0x106 => { h with scounteren := v &&& 7 }
  | 0x10A => { h with senvcfg := v &&& 1 }
  | 0x140 => { h with sscratch := v }
  | 0x141 => { h with sepc := v &&& ~~~1 }
  | 0x142 => { h with scause := v }
  | 0x143 => { h with stval := v }
  | 0x144 => { h with mip := masked (h.mideleg &&& 2) h.mip v }
  | 0x180 => if bits v 63 60 = 0 ∨ (8 ≤ bits v 63 60 ∧ bits v 63 60 ≤ 10) then { h with satp := v } else h
  | 0x300 => h.setStatus v
  | 0x302 => { h with medeleg := v &&& 0xB3FF }
  | 0x303 => { h with mideleg := v &&& 0x222 }
  | 0x304 => { h with mie := v &&& 0xAAA }
  | 0x305 => { h with mtvec := v &&& ~~~2 }
  | 0x306 => { h with mcounteren := v &&& 7 }
  | 0x30A => { h with menvcfg := v &&& 1 }
  | 0x320 => { h with mcountinhibit := v &&& 5 }
  | 0x340 => { h with mscratch := v }
  | 0x341 => { h with mepc := v &&& ~~~1 }
  | 0x342 => { h with mcause := v }
  | 0x343 => { h with mtval := v }
  | 0x344 => { h with mip := masked 0x222 h.mip v }
  | 0xB00 => { h with mcycle := v }
  | 0xB02 => { h with minstret := v }
  | _ => h

/-! ### Traps -/

/-- Where a trap goes: the base of its vector, or for an interrupt of a vectored one the place of its cause. -/
def vectored (tvec : Word) (interrupt : Bool) (cause : Nat) : Word :=
  (tvec &&& ~~~3) + (if interrupt && bit tvec 0 then Word.of (4 * cause) else 0)

/-- A cause register's value. -/
def causeWord (interrupt : Bool) (cause : Nat) : Word := Word.of (cause + (if interrupt then 2 ^ 63 else 0))

/-- Takes a trap: into S mode where it is delegated and the hart is not in M mode, else into M mode. The pc, the cause and the value go to
the registers of that mode, the interrupt enable is saved and off, the mode is saved, and the hart goes on at the vector. -/
def Hart.trap (h : Hart) (interrupt : Bool) (cause : Nat) (tval : Word) : Hart :=
  let st := h.mstatus
  if h.mode ≠ 3 && bit (if interrupt then h.mideleg else h.medeleg) cause then
    { h with
      sepc := h.pc, scause := causeWord interrupt cause, stval := tval, pc := vectored h.stvec interrupt cause, mode := 1
      mstatus := setBits (setBits (setBits st 5 5 (bits st 1 1)) 1 1 0) 8 8 (if h.mode = 0 then 0 else 1) }
  else
    { h with
      mepc := h.pc, mcause := causeWord interrupt cause, mtval := tval, pc := vectored h.mtvec interrupt cause, mode := 3
      mstatus := setBits (setBits (setBits st 7 7 (bits st 3 3)) 3 3 0) 12 11 h.mode }

/-- MRET. -/
def Hart.mret (h : Hart) : Hart :=
  let st := h.mstatus
  let st' := setBits (setBits (setBits st 3 3 (bits st 7 7)) 7 7 1) 12 11 0
  { h with
    pc := h.mepc, mode := bits st 12 11
    mstatus := if bits st 12 11 = 3 then st' else setBits st' 17 17 0 }

/-- SRET. -/
def Hart.sret (h : Hart) : Hart :=
  let st := h.mstatus
  { h with
    pc := h.sepc, mode := bits st 8 8
    mstatus := setBits (setBits (setBits (setBits st 1 1 (bits st 5 5)) 5 5 1) 8 8 0) 17 17 0 }

/-- The interrupt that the hart takes now: those of M mode come before those of S mode, and of one mode external, software and timer in
this order. -/
def Hart.interrupt (h : Hart) : Option Nat :=
  let p := h.mip &&& h.mie
  let m := if h.mode < 3 || bit h.mstatus 3 then p &&& ~~~h.mideleg else 0
  let s := if h.mode < 1 || (h.mode = 1 && bit h.mstatus 1) then p &&& h.mideleg else 0
  let order := [11, 3, 7, 9, 1, 5]
  (order.find? fun i => bit m i).orElse fun _ => order.find? fun i => bit s i

end Sys2Proof.Machine
end

