-- ==== Sys2Proof/Machine/Queues.lean ====
section
/-! DEFINITION. Command processors (R356 to R374, R410): host commands, launch queues and their records, the watchdog ladder,
partition resets, firmware swaps and alarms. -/

namespace Sys2Proof.Machine

/-! ### Partitions and functions (R358, R361) -/

/-- A partition by number. -/
def State.partAt (s : State) (p : Nat) : Partition := s.parts.get p Partition.init

/-- Whether a function may name a partition: a physical function any, a virtual function its own. -/
def State.mayName (s : State) (fn part : Nat) : Bool := decide (fn < 2) || decide ((s.partAt part).vf = some (fn - 2))

/-- The launches of a condition, by number. -/
def State.launchesWith (s : State) (f : Launch → Bool) : List Nat := (s.launches.filter fun p => f p.2).map (·.1)

/-- The live queues of a partition. -/
def State.queuesOf (s : State) (part : Nat) : List Nat :=
  (s.queues.filter fun p => p.2.live && decide (p.2.part = part)).map (·.1)

/-- The launch of a queue with a sequence number that has not ended. -/
def State.launchNamed (s : State) (q seq : Nat) : Option Nat :=
  (s.launchesWith fun la => la.alive && decide (la.queue = q) && decide (la.seq = seq)).head?

/-! ### Queue descriptors (R359) -/

/-- A descriptor as the host writes it; none where a field breaks the rule. -/
def State.readDesc (s : State) (pa : Nat) : Option Queue :=
  let d (i : Nat) : Word := s.dbl (pa + 8 * i)
  let q : Queue := { Queue.init with
    live := true, descPa := pa, base := bits (d 0) 51 0, tail := bits (d 1) 63 32, part := bits (d 2) 18 14, prio := bits (d 2) 13 11
    lgsize := bits (d 2) 4 0, lim1 := d 3, lim2 := d 4, lim3 := d 5, mbase := bits (d 6) 51 0, mhost := bits (d 7) 63 48
    lgm := bits (d 7) 7 0 }
  if bits (d 0) 63 52 = 0 ∧ q.base % 4096 = 0 ∧ bits (d 2) 63 26 = 0 ∧ bits (d 2) 23 19 = 0 ∧ bits (d 2) 10 5 = 0
      ∧ 4 ≤ q.lgsize ∧ q.lgsize ≤ 16 ∧ bits (d 6) 63 52 = 0 ∧ q.mbase % 32 = 0 ∧ bits (d 7) 15 8 = 0 ∧ q.lgm ≤ 12
  then some q else none

/-! ### Host commands (R361, R392, R410) -/

/-- How a command has gone: what cres tells, or that it still runs. -/
inductive Res where
  | done | error | busy | denied | runs
  deriving DecidableEq, Repr

/-- The code of cres (R392); while a command runs it is that of busy (log entry 76). -/
def Res.code : Res → Nat
  | .done => 0 | .error => 1 | .busy | .runs => 2 | .denied => 3

/-- A function's control page. -/
def State.page (s : State) (fn : Nat) : CtlPage := s.pages.get fn CtlPage.init

/-- The status register of a function's control page (R392). -/
def State.cstat (s : State) (fn : Nat) : Word :=
  Word.of (16 * s.plat.stage) ||| Word.of (2 * (if (s.page fn).run.isSome then 1 else 0)) ||| Word.ofBool s.plat.ready

/-- A command of a function, by its code: the host writes its arguments into the control page, its result stands in cres, and MSI-X
vector 0 tells its end. A command that cannot end yet runs, and its event with `place.a = 1` tells that it goes on, with its own
arguments, which leaves carg to the host; meanwhile every write of a command of the function is ignored, and cres reads 2. Before bring-up has ended a command completes with cres = 2 (R392). Functions
0 and 1 are the physical ones, 2 to 33 the virtual ones; there are no others (R391). -/
def State.command (s : State) (fn code : Nat) (args : List Word) (f : State → Res × State) : State :=
  let p := s.page fn
  if 34 ≤ fn then s
  else
    let goesOn := decide (p.run = some (code, args)) && decide (s.place.a = 1)
    let p := if goesOn then p else { p with carg := args }
    if p.run.isSome && !goesOn then { s with pages := s.pages.set fn { p with cres := Word.of (Res.code .busy) } }
    else
      let r := if s.plat.ready then f s else (Res.busy, s)
      let run := match r.1 with | .runs => some (code, args) | _ => none
      let s := { r.2 with pages := r.2.pages.set fn { p with cres := Word.of r.1.code, run := run } }
      if run.isSome then s else s.raise fn 0

/-- A write of a code that R361 does not list: ignored or too early as any other (R392), and otherwise an error (log entry 44). -/
def State.strayCommand (s : State) (fn code : Nat) : State :=
  if 1 ≤ code ∧ code ≤ 12 then s else s.command fn code (s.page fn).carg fun s => (.error, s)

/-- Whether the words are zero. -/
def allZero (ws : List Word) : Bool := ws.all fun w => decide (w = 0)

/-- A command that names a live queue, which the function may name. -/
def State.onQueue (s : State) (fn : Nat) (a0 : Word) (zeros : List Word) (f : State → Nat → Res × State) : Res × State :=
  let q := bits a0 9 0
  if bits a0 63 10 ≠ 0 ∨ !allZero zeros ∨ !(s.queueAt q).live then (.error, s)
  else if !s.mayName fn (s.queueAt q).part then (.denied, s)
  else f s q

/-- A command that names a launch by queue and seq. -/
def State.onLaunch (s : State) (fn : Nat) (a0 a1 : Word) (zeros : List Word) (f : State → Nat → Nat → Res × State) :
    Res × State :=
  s.onQueue fn a0 zeros fun s q =>
    if bits a1 63 16 ≠ 0 then (.error, s)
    else match s.launchNamed q (bits a1 15 0) with
      | none => (.error, s)
      | some l => f s q l

/-- The slices of a slice map: 32 * stack + slice (R395, R410). -/
def State.sliceMap (s : State) (pa : Nat) : List Nat := (List.range 256).filter fun i => bit (s.dbl (pa + 8 * (i / 64))) (i % 64)

/-- Whether two rectangles of masts overlap. -/
def rectsMeet (a b : Partition) : Bool :=
  decide (a.x0 < b.x0 + b.w) && decide (b.x0 < a.x0 + a.w) && decide (a.y0 < b.y0 + b.h) && decide (b.y0 < a.y0 + a.h)

/-- PARTITION (R358, R410). -/
def State.doPartition (s : State) (fn : Nat) (a0 a1 a2 a3 : Word) : Res × State :=
  let n := bits a0 4 0
  let p : Partition :=
    { live := true, gang := bit a0 9, vf := if bit a0 23 then some (bits a0 20 16) else none
      x0 := bits a1 4 0, y0 := bits a1 12 8, w := bits a1 21 16, h := bits a1 29 24, slices := s.sliceMap a2.toNat }
  let others := s.parts.filter fun x => decide (x.1 ≠ n) && x.2.live
  if 2 ≤ fn then (.denied, s)
  else if bits a0 7 5 ≠ 0 ∨ bits a0 15 10 ≠ 0 ∨ bits a0 22 21 ≠ 0 ∨ bits a0 63 24 ≠ 0 ∨ a3 ≠ 0 then (.error, s)
  else if !bit a0 8 then
    if a1 ≠ 0 ∨ a2 ≠ 0 ∨ !(s.partAt n).live then (.error, s)
    else if !(s.queuesOf n).isEmpty then (.busy, s)
    else (.done, { s with parts := s.parts.set n Partition.init })
  else if bits a1 7 5 ≠ 0 ∨ bits a1 15 13 ≠ 0 ∨ bits a1 23 22 ≠ 0 ∨ bits a1 63 30 ≠ 0 ∨ a2.toNat % 32 ≠ 0 ∨ 2 ^ 52 ≤ a2.toNat
      ∨ p.w = 0 ∨ 32 < p.w ∨ p.h = 0 ∨ 32 < p.h ∨ 32 < p.x0 + p.w ∨ 32 < p.y0 + p.h then (.error, s)
  else if (s.partAt n).live && !(s.queuesOf n).isEmpty then (.busy, s)
  else if others.any (fun x => rectsMeet x.2 p || x.2.slices.any (p.slices.contains ·) || (p.vf.isSome && decide (x.2.vf = p.vf))) then
    (.error, s)
  else (.done, { s with parts := s.parts.set n p })

/-- PARTITION. -/
def execPartition (fn : Nat) (a0 a1 a2 a3 : Word) (s : State) : Host.Outcome State Fault Refusal :=
  .next (s.command fn 1 [a0, a1, a2, a3] fun s => s.doPartition fn a0 a1 a2 a3)

/-- QCREATE (R359, R361). -/
def execQcreate (fn : Nat) (a0 a1 a2 a3 : Word) (s : State) : Host.Outcome State Fault Refusal :=
  .next (s.command fn 2 [a0, a1, a2, a3] fun s =>
    let k := bits a0 9 0
    if bits a0 63 10 ≠ 0 ∨ a1.toNat % 64 ≠ 0 ∨ 2 ^ 52 ≤ a1.toNat ∨ a2 ≠ 0 ∨ a3 ≠ 0 then (.error, s)
    else if (s.queueAt k).live then (.busy, s)
    else match s.readDesc a1.toNat with
      | none => (.error, s)
      | some q =>
        if !(s.partAt q.part).live then (.error, s)
        else if !s.mayName fn q.part then (.denied, s)
        else (.done, (s.putQueue k { q with tail := 0 }).syncDesc k))

/-- QDESTROY (R361): the queue is empty and has no resident launch. -/
def execQdestroy (fn : Nat) (a0 a1 a2 a3 : Word) (s : State) : Host.Outcome State Fault Refusal :=
  .next (s.command fn 3 [a0, a1, a2, a3] fun s =>
    s.onQueue fn a0 [a1, a2, a3] fun s k =>
      let q := s.queueAt k
      if q.head ≠ q.tail ∨ !(s.launchesWith fun la => la.alive && decide (la.queue = k)).isEmpty then (.busy, s)
      else (.done, s.putQueue k Queue.init))

/-- DOORBELL (R359, R361, R370): the descriptor is read again; a launch that has not been dispatched, and the order of R366, take its
new priority, and the tprio of a dispatched task stays. -/
def execDoorbell (fn : Nat) (a0 a1 a2 a3 : Word) (s : State) : Host.Outcome State Fault Refusal :=
  .next (s.command fn 4 [a0, a1, a2, a3] fun s =>
    s.onQueue fn a0 [a1, a2, a3] fun s k =>
      let q := s.queueAt k
      match s.readDesc q.descPa with
      | none => (.error, s)
      | some r =>
        if r.part ≠ q.part then (.error, s)
        else
          let s := s.putQueue k { r with
            head := q.head, fenced := q.fenced, halted := q.halted, failed := q.failed, mcp := q.mcp, fhead := q.fhead, wcount := q.wcount
            wstep := q.wstep }
          (.done, { s with launches := s.launches.map fun p =>
            if p.2.queue = k && p.2.alive then (p.1, { p.2 with prio := r.prio }) else p }))

/-- HALT (R361). -/
def execHalt (fn : Nat) (a0 a1 a2 a3 : Word) (s : State) : Host.Outcome State Fault Refusal :=
  .next (s.command fn 8 [a0, a1, a2, a3] fun s =>
    s.onQueue fn a0 [a1, a2, a3] fun s k => (.done, s.setQueue k fun q => { q with halted := true }))

/-- RUN (R361). -/
def execRun (fn : Nat) (a0 a1 a2 a3 : Word) (s : State) : Host.Outcome State Fault Refusal :=
  .next (s.command fn 9 [a0, a1, a2, a3] fun s =>
    s.onQueue fn a0 [a1, a2, a3] fun s k => (.done, s.setQueue k fun q => { q with halted := false, failed := false }))

/-- PREEMPT (R361, R369) ends when the launch's units stand at their points of stopping; until then it runs. -/
def execPreempt (fn : Nat) (a0 a1 a2 a3 : Word) (s : State) : Host.Outcome State Fault Refusal :=
  .next (s.command fn 5 [a0, a1, a2, a3] fun s =>
    s.onLaunch fn a0 a1 [a2, a3] fun s _ l =>
      let la := s.launchAt l
      if la.killed then (.done, s)
      else if la.status = .resident then (if s.stoppable l then (.done, s.preempt l 2) else (.runs, s))
      else if la.status = .preempted then (.done, (s.leaveEntries l).putLaunch l { la with why := 2 })
      else (.error, s))

/-- RESUME (R361, R371): the watchdog count restarts; the launch goes on now where it fits, or as soon as it does. -/
def execResume (fn : Nat) (a0 a1 a2 a3 : Word) (s : State) : Host.Outcome State Fault Refusal :=
  .next (s.command fn 6 [a0, a1, a2, a3] fun s =>
    s.onLaunch fn a0 a1 [a2, a3] fun s k l =>
      let s := s.restartWatch k
      let la := s.launchAt l
      if la.status ≠ .preempted ∨ la.killed then (.error, s)
      else if s.refits l then (.done, s.resumeNow l)
      else (.done, s.putLaunch l { la with why := 1 }))

/-- KILL (R361, R369). -/
def execKill (fn : Nat) (a0 a1 a2 a3 : Word) (s : State) : Host.Outcome State Fault Refusal :=
  .next (s.command fn 7 [a0, a1, a2, a3] fun s =>
    s.onLaunch fn a0 a1 [a2, a3] fun s _ l => (.done, s.kill l 3))

/-! ### Shootdowns (R353) -/

/-- Whether a packet is a heap atomic on its way, whose address has been translated. -/
def PKind.heapAtomic : PKind → Bool
  | .atomic _ ea _ _ _ _ _ => decide (space ea = 0)
  | _ => false

/-- Whether every access already translated for a launch has been performed: its stores have drained and its heap atomics have
been applied. A pre-empted launch has none (R301). -/
def State.translatedDone (s : State) (l : Nat) : Bool :=
  (s.ctxsOf l).all (fun p => p.2.storeBuf.all fun st => decide (space st.ea ≠ 0))
    && s.net.all fun p => !(decide (p.launch = l) && p.kind.heapAtomic)

/-- Extents outside a request. -/
def keepExtents (all : Bool) (r : Nat) (xs : List Extent) : List Extent := if all then [] else xs.filter fun x => decide (x.range ≠ r)

/-- Marks the extents of a launch invalid on every core and halyard; those that are saved are walked again at its resumption (R354). -/
def State.dropExtents (s : State) (l : Nat) (all : Bool) (r : Nat) : State :=
  let hy (y : Halyard) : Halyard :=
    match y.journal with
    | t :: _ => if t.launch = l then { y with extents := keepExtents all r y.extents } else y
    | [] => y
  let ts := s.tasks.map fun p => if p.2.launch = l then (p.1, { p.2 with extents := keepExtents all r p.2.extents }) else p
  let la := s.launchAt l
  ({ s with tasks := ts }.putLaunch l { la with saved := { la.saved with shot := decide (la.status = LStatus.preempted) } }).mapMasts fun m =>
    { m with hy0 := hy m.hy0, hy1 := hy m.hy1 }

/-- SHOOTDOWN (R353, R410) ends when every access translated through the extents has been performed; until then it runs. -/
def execShootdown (fn : Nat) (a0 a1 a2 a3 : Word) (s : State) : Host.Outcome State Fault Refusal :=
  .next (s.command fn 10 [a0, a1, a2, a3] fun s =>
    if bits a2 7 4 ≠ 0 ∨ bits a2 63 9 ≠ 0 then (.error, s)
    else s.onLaunch fn a0 a1 [a3] fun s _ l =>
      if !bit a2 8 && decide ((s.launchAt l).ranges.length ≤ bits a2 3 0) then (.error, s)
      else if !s.translatedDone l then (.runs, s)
      else (.done, s.dropExtents l (bit a2 8) (bits a2 3 0)))

/-! ### Partition resets (R371, R372) -/

/-- Scrubs the on-chip memory of a partition's cores and masts, and brings them to their state after reset. -/
def State.scrubPartition (s : State) (p : Partition) : State :=
  let ms := p.masts
  let own (m : Nat) : Bool := ms.contains m
  let keyMast (k : Nat) : Option Nat :=
    if k < 2 ^ 60 then none
    else if k < 2 ^ 61 then (let c := (k - 2 ^ 60) / 2 ^ 17; if c < 8192 then some (c / 8) else none)
    else if k < 2 ^ 62 then some ((k - 2 ^ 61) / 2 ^ 20)
    else if (k - 2 ^ 62) % 2 ^ 13 < 0x1000 then none else some ((k - 2 ^ 62) / 2 ^ 13)
  let mine (k : Nat) : Bool := match keyMast k with | some m => own m | none => false
  { s with
    mem := s.mem.filter fun c => !mine c.1
    ecc := s.ecc.filter fun e => !mine (8 * e.1)
    cores := s.cores.filter fun c => !(decide (c.1 < 8192) && own (c.1 / 8))
    masts := s.masts.filter fun m => !own m.1 }

/-- The launches of a partition that have not ended. -/
def State.launchesOfPart (s : State) (part : Nat) : List Nat := s.launchesWith fun la => la.alive && decide (la.part = part)

/-- Performs the stores of a launch to its heap and host buffers, whatever they wait for (R365). -/
def State.flushStores (s : State) (l : Nat) : State :=
  (s.ctxsOf l).foldl (fun s p =>
    let s := p.2.storeBuf.foldl (fun s st => if space st.ea = 0 then s.write st.key st.bytes else s) s
    s.putCtx p.1 { s.ctxAt p.1 with storeBuf := [] }) s

/-- Resets an isolated partition (R371): every launch that has been dispatched is killed, with the status that a kill in progress
gives it already (R369), everything on chip is scrubbed, and the queues wait for RUN. -/
def State.resetIsolated (s : State) (part : Nat) : State :=
  let ls := (s.launchesOfPart part).filter fun l => (s.launchAt l).status ≠ .checked
  let s := ls.foldl (fun s l =>
    let la := s.launchAt l
    (s.flushStores l).complete l (if la.killed then la.code else 3)) s
  let s := s.scrubPartition (s.partAt part)
  (s.queuesOf part).foldl (fun s k => s.setQueue k fun q => { q with fenced := false, halted := true, wcount := 0, wstep := 0 }) s

/-- Resets a gang partition (R372): nothing is saved, and every queue goes back to the record after its last completed FENCE, from
which it takes its records again. -/
def State.resetGang (s : State) (part : Nat) : State :=
  let s := (s.launchesOfPart part).foldl (fun s l =>
    let t := s.release l
    t.putLaunch l (t.launchAt l).ended) s
  let s := s.scrubPartition (s.partAt part)
  (s.queuesOf part).foldl (fun s k => s.setQueue k fun q => { q with head := q.fhead, halted := false, failed := false, wcount := 0, wstep := 0 }) s

/-- RESET (R371, R372, R410). -/
def execReset (fn : Nat) (a0 a1 a2 a3 : Word) (s : State) : Host.Outcome State Fault Refusal :=
  .next (s.command fn 11 [a0, a1, a2, a3] fun s =>
    let p := bits a0 4 0
    if bits a0 63 5 ≠ 0 ∨ !allZero [a1, a2, a3] ∨ !(s.partAt p).live then (.error, s)
    else if !s.mayName fn p then (.denied, s)
    else (.done, if (s.partAt p).gang then s.resetGang p else s.resetIsolated p))

/-! ### Records (R362 to R364) -/

/-- The double `i` of the record at a queue's head. -/
def State.recordDbl (s : State) (k i : Nat) : Word :=
  let q := s.queueAt k
  s.dbl (q.base + 128 * (q.head % 2 ^ q.lgsize) + 8 * i)

/-- Whether a queue's CP takes its next record: none after a thermal trip, until the cold reset (R399). -/
def State.takesRecord (s : State) (k : Nat) : Bool :=
  let q := s.queueAt k
  q.live && !q.halted && decide (q.head ≠ q.tail) && s.plat.ready && !s.plat.coldOnly
    && (s.launchesWith fun la => decide (la.status = .checked) && decide (la.queue = k)).isEmpty

/-- The op of the record at a queue's head. -/
def State.recordOp (s : State) (k : Nat) : Nat := bits (s.recordDbl k 0) 63 56

/-- Whether a NOP or FENCE record holds only op and seq. -/
def State.shortRecordOk (s : State) (k : Nat) : Bool :=
  decide (bits (s.recordDbl k 0) 55 16 = 0) && ((List.range 15).all fun i => decide (s.recordDbl k (i + 1) = 0))

/-- Whether the fields of a LAUNCH record that R362 keeps at zero are zero. -/
def State.launchRecordOk (s : State) (k : Nat) : Bool :=
  let d := s.recordDbl k
  decide (bits (d 0) 55 36 = 0) && decide (bits (d 0) 31 18 = 0) && decide (bits (d 0) 17 16 ≠ 3)
    && decide (bits (d 5) 63 52 = 0) && decide (bits (d 5) 7 0 = 0) && decide (d 14 = 0) && decide (d 15 = 0)

/-- Goes to the next record. -/
def State.nextRecord (s : State) (k : Nat) : State := s.setQueue k fun q => { q with head := (q.head + 1) % 2 ^ 32 }

/-- Whether the done address of a record lies in a writable heap or host-buffer range, on a page that permits writes (R350,
R362). A page that no walk finds is left to the checks of the launch. -/
def State.doneOk (s : State) (root : Nat) (rs : List Range) (v : Word) : Bool :=
  decide (v.toNat % 64 = 0)
    && (match rangeOf rs v.toNat 64 with | some r => r.w && (r.kind = 0 || r.kind = 3) | none => false)
    && (match s.walkFrom v.toNat 4 root with | .ok l => l.writable | .error _ => true)

/-- The ranges of a table that may be broken: those that can be read. -/
def State.looseRanges (s : State) (pa n : Nat) : List Range :=
  (List.range n).filterMap fun i => rangeOfWords (s.dbl (pa + 24 * i)) (s.dbl (pa + 24 * i + 8)) (s.dbl (pa + 24 * i + 16))

/-- LAUNCH (R362, R364): the record at the head of a queue is taken and checked. `img` is the image that stands at its image
address, none where that breaks the format. A record of a reserved op halts the queue too. -/
def execLaunch (k : Nat) (img : Option Image) (s : State) : Host.Outcome State Fault Refusal :=
  if !s.takesRecord k then s.passed
  else if 3 ≤ s.recordOp k then .next (s.haltQueue k)
  else if s.recordOp k ≠ 1 then s.passed
  else
    let d := s.recordDbl k
    let q := s.queueAt k
    let n := bits (d 0) 35 32 + 1
    let loose := s.looseRanges (d 2).toNat n
    if !s.launchRecordOk k || !s.doneOk (bits (d 5) 51 8 * 256) loose (d 3) then .next (s.haltQueue k)
    else
      let rs := s.readRanges (d 2).toNat n
      let l := s.nextId + 1
      let la : Launch := { Launch.init with
        status := .checked, queue := k, seq := bits (d 0) 15 0, ring := q.head, part := q.part, prio := q.prio, img := img
        ranges := rs.getD loose, root := bits (d 5) 51 8 * 256, imageVa := d 1, doneVa := d 3, hbindVa := d 4
        sdom := bits (d 0) 17 16, params := (List.range 8).map fun i => d (6 + i) }
      let s := ({ s with nextId := s.nextId + 1 }.nextRecord k).putLaunch l la
      match rejection img (d 1) rs la.root (s.partAt q.part) with
      | none => .next (s.assignRoot l)
      | some c =>
        .next ((s.withRoot l fun s =>
          (s.writeRecord l (recordWords la 4 c 0 0 0 0)).putLaunch l { la with code := 4 }.ended).restartWatch k)

/-- The launch of a queue that waits for dispatch. -/
def State.waitingLaunch (s : State) (k : Nat) : Option Nat :=
  (s.launchesWith fun la => decide (la.status = .checked) && !la.killed && decide (la.queue = k)).head?

/-- Whether a launch pre-empted by priority in the partition of launch `l`, with a higher priority, fits again: it resumes first (R366). -/
def State.resumesFirst (s : State) (l : Nat) : Bool :=
  let la := s.launchAt l
  (s.launchesWith fun x => x.status = .preempted && decide (x.why = 1) && !x.killed && decide (x.part = la.part)
    && decide (la.prio < x.prio)).any s.refits

/-- LAUNCH_DISPATCH (R363, R364, R366) of queue `place.a`: the launch that has been checked fits. A device that needs a cold reset
dispatches none (R399). -/
def execLaunchDispatch (s : State) : Host.Outcome State Fault Refusal :=
  match s.waitingLaunch s.place.a with
  | some l =>
    match (s.launchAt l).img with
    | some i =>
      if !s.plat.coldOnly && s.fits l [] && !s.resumesFirst l then .next (s.install l i) else s.passed
    | none => s.passed
  | none => s.passed

/-- FENCE_RECORD (R363) at the head of queue `place.a`: every earlier launch of the queue has completed. -/
def execFenceRecord (s : State) : Host.Outcome State Fault Refusal :=
  let k := s.place.a
  if !(s.takesRecord k && decide (s.recordOp k = 2)) then s.passed
  else if !s.shortRecordOk k then .next (s.haltQueue k)
  else if (s.launchesWith fun la => la.alive && decide (la.queue = k)).isEmpty then
    .next ((s.nextRecord k).setQueue k fun q => { q with fhead := q.head })
  else s.passed

/-- NOP_RECORD (R363) at the head of queue `place.a`. -/
def execNopRecord (s : State) : Host.Outcome State Fault Refusal :=
  let k := s.place.a
  if !(s.takesRecord k && decide (s.recordOp k = 0)) then s.passed
  else if s.shortRecordOk k then .next (s.nextRecord k) else .next (s.haltQueue k)

/-! ### Priority pre-emption (R366) -/

/-- Whether launch `a` is chosen as a victim before launch `b`: lower priority, or the same and dispatched later. -/
def State.victimBefore (s : State) (a b : Nat) : Bool :=
  let x := s.launchAt a
  let y := s.launchAt b
  decide (x.prio < y.prio) || (decide (x.prio = y.prio) && decide (y.disp < x.disp))

/-- The launches that a waiting launch may pre-empt: those of its partition that run with a lower priority and hold no tackle. -/
def State.victimsOf (s : State) (l : Nat) : List Nat :=
  let la := s.launchAt l
  s.launchesWith fun x => decide (x.status = .resident) && !x.killed && decide (x.part = la.part) && decide (x.prio < la.prio)
    && (match x.img with | some i => i.tacks.isEmpty | none => true)

/-- PRIORITY_PREEMPT (R366): the waiting launch of queue `place.a` does not fit, and launch `place.b` is its next victim. -/
def execPriorityPreempt (s : State) : Host.Outcome State Fault Refusal :=
  match s.waitingLaunch s.place.a with
  | some l =>
    let vs := s.victimsOf l
    let v := s.place.b
    if vs.contains v && vs.all (fun x => decide (x = v) || s.victimBefore v x) && !s.fits l [] && s.fits l vs && s.stoppable v then
      .next (s.preempt v 1)
    else s.passed
  | none => s.passed

/-- PREEMPTED_RESUME (R366) of launch `place.a`: pre-empted by priority, or resumed by the host, it fits again. One that lacks only
scoreboard entries waits for them (R209). -/
def execPreemptedResume (s : State) : Host.Outcome State Fault Refusal :=
  let l := s.place.a
  let la := s.launchAt l
  if la.status = .preempted && decide (la.why = 1) && !la.killed then
    .next (if s.refits l then s.resumeNow l else if s.fitsAgain l then s.awaitEntries l else s.leaveEntries l)
  else s.passed

/-! ### System messages (R360) -/

/-- The bytes of an entry of the message area. -/
def messageEntry (channel source : Nat) (ltask : Word) (bs : List Byte) : List Byte :=
  let body := bs.take 256
  toBytes 8 (bs.length * 2 ^ 48 + channel * 2 ^ 32 + source) ++ toBytes 8 ltask.toNat ++ List.replicate 16 0 ++ body

/-- SYS_MESSAGE (R360): packet `place.a` becomes an entry of its queue's message area. -/
def execSysMessage (s : State) : Host.Outcome State Fault Refusal :=
  match s.packet s.place.a with
  | some p =>
    match p.kind with
    | .sysMsg channel bs =>
      let k := (s.launchAt p.launch).queue
      let q := s.queueAt k
      if s.mayApply p && decide ((q.mcp + 65536 - q.mhost) % 65536 < 2 ^ q.lgm) then
        let lt := (s.taskAt (taskKey p.launch p.src)).ltask
        let s := (s.drop p).write (q.mbase + 288 * (q.mcp % 2 ^ q.lgm)) (messageEntry channel p.src lt bs)
        .next (s.setQueue k fun q => { q with mcp := (q.mcp + 1) % 65536 })
      else s.passed
    | _ => s.passed
  | none => s.passed

/-! ### Watchdogs (R371, R372) -/

/-- The launches of a queue whose count runs: resident and not pre-empted. -/
def State.watched (s : State) (k : Nat) : List Nat := s.launchesWith fun la => decide (la.status = .resident) && decide (la.queue = k)

/-- Whether a queue has a watchdog of a class. -/
def State.watchdog (s : State) (k : Nat) (gang : Bool) : Bool :=
  let q := s.queueAt k
  q.live && decide (q.lim1 ≠ 0) && decide ((s.partAt q.part).gang = gang)

/-- The count has reached a limit. -/
def Queue.reach (q : Queue) (n : Word) (step : Nat) : Queue :=
  { q with wcount := if q.wcount.toNat < n.toNat then n else q.wcount, wstep := step }

/-- WATCHDOG_STEP_1 (R371) of queue `place.a`: the launches that can be stopped now are pre-empted, which halts the queue; the
others are asked to stop, and are taken when this event comes again or by another pre-emption. A launch that is being killed is
left to its kill (R369). -/
def execWatchdogStep1 (s : State) : Host.Outcome State Fault Refusal :=
  let k := s.place.a
  let ls := s.watched k
  if s.watchdog k false && decide ((s.queueAt k).wstep ≤ 1) && !ls.isEmpty then
    let s := s.putQueue k ((s.queueAt k).reach (s.queueAt k).lim1 1)
    .next (ls.foldl (fun s l =>
      if (s.launchAt l).killed then s
      else if s.stoppable l then s.preempt l 3
      else s.putLaunch l { s.launchAt l with why := 3 }) s)
  else s.passed

/-- WATCHDOG_STEP_2 (R371) of queue `place.a`: a pre-emption has not ended, so the launches are killed. -/
def execWatchdogStep2 (s : State) : Host.Outcome State Fault Refusal :=
  let k := s.place.a
  let ls := s.watched k
  if s.watchdog k false && decide ((s.queueAt k).wstep = 1) && !ls.isEmpty then
    let s := s.setQueue k fun q => { q.reach (q.lim1 + q.lim2) 2 with halted := true }
    .next (ls.foldl (fun s l => s.kill l 3) s)
  else s.passed

/-- Fences every core of a partition (R357, R371). -/
def State.fenceCores (s : State) (p : Partition) : State :=
  p.cores.foldl (fun s c => s.putCore c { s.coreAt c with cfence := true }) s

/-- WATCHDOG_STEP_3 (R371) of queue `place.a`: a kill has not ended, so every core of the partition is fenced. -/
def execWatchdogStep3 (s : State) : Host.Outcome State Fault Refusal :=
  let k := s.place.a
  let q := s.queueAt k
  if s.watchdog k false && decide (q.wstep = 2) && !(s.watched k).isEmpty then
    let s := s.setQueue k fun q => { q.reach (q.lim1 + q.lim2 + q.lim3) 3 with fenced := true }
    let s := s.fenceCores (s.partAt q.part)
    .next ((s.queuesOf q.part).foldl (fun s j => s.setQueue j fun q => { q with halted := true }) s)
  else s.passed

/-- GANG_WATCHDOG (R372) of queue `place.a`; the watchdog of a queue halted by a failure resets nothing. -/
def execGangWatchdog (s : State) : Host.Outcome State Fault Refusal :=
  let k := s.place.a
  let q := s.queueAt k
  if s.watchdog k true && !(s.watched k).isEmpty && !q.failed then .next (s.resetGang q.part)
  else s.passed

/-! ### Core CSRs of the CPs (R356, R357) -/

/-- A CP by number. -/
def State.cpAt (s : State) (n : Nat) : Cp := s.cps.get n Cp.init

/-- Replaces a CP. -/
def State.putCp (s : State) (n : Nat) (c : Cp) : State := { s with cps := s.cps.set n c }

/-- The context of a number, 0 to 15, on a core. -/
def State.ctxOfCore (s : State) (core n : Nat) : Nat :=
  ((s.ctxs.filter fun p => decide (p.2.core = core)).map (·.1)).getD n 0

/-- The state in which a CP reaches a context of a core, or the core's oldest task where there is no such context. -/
def State.reach (s : State) (core n : Nat) : State :=
  let k := s.ctxOfCore core n
  if k ≠ 0 then s.focus k
  else match (s.tasks.filter fun p => decide (p.2.core = core)).head? with
    | some t => s.focusTask t.1
    | none => { s with cur := ⟨core, 0, 0, 0⟩ }

/-- A CSR as a CP reads it. -/
def State.cpRead (s : State) (n : Nat) : Word :=
  if n = 0x140 then s.task.ltask
  else if n = 0x141 then s.task.tprio
  else if n = 0x142 then Word.ofBool s.core.cfence
  else if csrClosed n then 0
  else s.csr n

/-- A CSR as a CP writes it; a number that has no writable field ignores the write, and so does binj where R130 refuses the value, for
which R130 gives a cause to a CSRW only (log entry 53). -/
def State.cpWrite (s : State) (n : Nat) (v : Word) : State :=
  if n = 0x140 then s.setTask { s.task with ltask := Word.of (bits v 30 0) }
  else if n = 0x141 then s.setTask { s.task with tprio := Word.of (bits v 2 0) }
  else if n = 0x142 then s.setCore { s.core with cfence := bit v 0 }
  else if n = 0x0E0 then if s.binjOk v then s.setTask { s.task with binj := binjFields v } else s
  else if csrClosed n then s
  else s.setCsr n v

/-- The lowest mode that reaches a device CSR of a CP: 1 S, 3 M (R356). -/
def cpMode (n : Nat) : Option Nat :=
  match n with
  | 0xFC0 | 0x7C0 | 0x7C1 | 0x7C2 | 0x7C3 => some 3
  | 0xDC0 => some 1
  | _ => none

/-- The fields of cxsel that are not zero. -/
def cxselFields (v : Word) : Word := Word.of (bits v 51 48 * 2 ^ 48 + bits v 34 22 * 2 ^ 22 + bits v 11 0)

/-- The state in which CP `cp` reaches what its cxsel names. -/
def State.reachSel (s : State) (cp : Nat) : State := s.reach (bits (s.cpAt cp).cxsel 34 22) (bits (s.cpAt cp).cxsel 51 48)

/-- The core CSR number of CP `cp`'s cxsel. -/
def State.selCsr (s : State) (cp : Nat) : Nat := bits (s.cpAt cp).cxsel 11 0

/-- A device CSR of a CP as it reads (R356). -/
def State.cpCsr (s : State) (cp n : Nat) : Word :=
  let c := s.cpAt cp
  match n with
  | 0xFC0 => Word.of cp
  | 0xDC0 => c.fwsv.zeroExtend 64
  | 0x7C0 => c.lnkrt
  | 0x7C1 => c.cxsel
  | 0x7C2 => (s.reachSel cp).cpRead (s.selCsr cp)
  | 0x7C3 => Word.of (16 * c.swapRes + c.swap)
  | _ => 0

/-- A write to a device CSR of a CP (R356, R373). -/
def State.setCpCsr (s : State) (cp n : Nat) (v : Word) : State :=
  let c := s.cpAt cp
  match n with
  | 0x7C0 => s.putCp cp { c with lnkrt := v }
  | 0x7C1 => s.putCp cp { c with cxsel := cxselFields v }
  | 0x7C2 => { (s.reachSel cp).cpWrite (s.selCsr cp) v with cur := s.cur }
  | 0x7C3 => s.putCp cp { c with swap := bits v 2 0, swapRes := bits v 7 4 }
  | _ => s

/-- Whether a CP in a mode may read, or write, a device CSR (R356). -/
def cpMay (mode n : Nat) (write : Bool) : Bool :=
  (match cpMode n with | some m => decide (m ≤ mode) | none => false) && (!write || (decide (0x7C0 ≤ n) && decide (n ≤ 0x7C3)))

/-- CXDATA (R356, R357): CP `cp` reads or writes, in its mode, one of its device CSRs; cxdata performs the access on the core CSR that cxsel
names. An access that the mode does not permit raises the illegal-instruction exception, which the CP's hart takes, with no other effect
(log entry 53). -/
def execCxdata (cp : Nat) (sel : CpAccess) (write : Option Word) (s : State) : Host.Outcome State Fault Refusal :=
  if 8 ≤ cp ∨ sel.mode ≠ (s.cpAt cp).hart.mode then s.passed
  else if !cpMay sel.mode sel.csr write.isSome then .next (s.putCp cp { s.cpAt cp with hart := (s.cpAt cp).hart.trap false 2 0 })
  else
    match write with
    | none => .next (s.putCp cp { s.cpAt cp with cxdata := s.cpCsr cp sel.csr })
    | some v => .next (s.setCpCsr cp sel.csr v)

/-! ### Firmware swaps (R373) -/

/-- The partner of a CP. -/
def partner (n : Nat) : Nat := if n % 2 = 0 then n + 1 else n - 1

/-- FWSWAP (R361, R373, R410): the hand-off to the partner begins. -/
def execFwswap (fn : Nat) (a0 a1 a2 a3 : Word) (s : State) : Host.Outcome State Fault Refusal :=
  .next (s.command fn 12 [a0, a1, a2, a3] fun s =>
    let n := bits a0 2 0
    if 2 ≤ fn then (.denied, s)
    else if bits a0 63 3 ≠ 0 ∨ 2 ^ 52 ≤ a1.toNat ∨ a2 ≠ 0 ∨ a3 ≠ 0 then (.error, s)
    else if (s.cpAt n).swap ≠ 0 ∨ (s.cpAt (partner n)).swap ≠ 0 then (.busy, s)
    else (.done, s.putCp n { s.cpAt n with swap := 1, swapRes := 0, served := true, image := a1 }))

/-- A class 1 alarm (R374): logged; the security controller resets and is unavailable for a while. -/
def State.alarm1 (s : State) : State := { s with sec := { s.sec with available := false, badVerify := 0, logged := s.sec.logged + 1 } }

/-- A failed image verification; the eighth in a row raises a class 1 alarm (R374). -/
def State.badImage (s : State) : State :=
  if 8 ≤ s.sec.badVerify + 1 then s.alarm1 else { s with sec := { s.sec with badVerify := s.sec.badVerify + 1 } }

/-- The header of the image that CP `cp` swaps to: 128 bytes at the address that FWSWAP has named (R373). -/
def State.imageHead (s : State) (cp : Nat) : List Byte := Memory.read s.mem (s.cpAt cp).image.toNat 128

/-- The security version of that image. -/
def State.imageVersion (s : State) (cp : Nat) : BitVec 16 := Config.imageVersion (s.imageHead cp)

/-- The security controller's check of an image of a header, a body and a signature: the magic number, the signature over header and body, and
the key's hash, SHA-512, which is the one in fuses (R373, log entry 54). -/
def genuine (head body signature : List Byte) : Bool :=
  let key := toBytesBE 132 Config.signingKey.toNat
  Config.imageMagic head && decide (sha512 key = Config.fusedKey) && signs key signature (head ++ body)

/-- The verdict on the image that CP `cp` swaps to, which its header's length ends: its last 132 bytes are its signature (R373). -/
def State.imageGenuine (s : State) (cp : Nat) : Bool :=
  let a := (s.cpAt cp).image.toNat
  let h := s.imageHead cp
  let n := (Config.imageLength h).toNat
  decide (260 ≤ n) && genuine h (Memory.read s.mem (a + 128) (n - 260)) (Memory.read s.mem (a + n - 132) 132)

/-- The verdict on the boot image (R397). -/
def bootGenuine : Bool :=
  let b := Config.bootImage
  decide (260 ≤ b.length) && genuine (b.take 128) ((b.drop 128).take (b.length - 260)) (b.drop (b.length - 132))

/-- A CP that restarts on an image (R373): its hart stands in M mode at the image's entry (log entry 79). -/
def Cp.restart (c : Cp) (entry : Word) (version : BitVec 16) : Cp :=
  { c with fwsv := version, entry := entry, hart := Hart.start entry }

/-- SWAP_VERIFY (R373): first the partner's acknowledgement ends the hand-off of CP `cp`; then the verdict on its image's signature
and the image's version, which are those of the image in memory, end the verification, and the CP restarts on the image at its entry. -/
def execSwapVerify (cp : Nat) (ok : Bool) (version : BitVec 16) (s : State) : Host.Outcome State Fault Refusal :=
  let c := s.cpAt cp
  if c.swap = 1 then .next (s.putCp cp { c with swap := 2 })
  else if c.swap ≠ 2 ∨ !s.sec.available ∨ ok ≠ s.imageGenuine cp ∨ version ≠ s.imageVersion cp then s.passed
  else if ok && decide (Config.fusedVersion.toNat ≤ version.toNat) then
    .next ({ s with sec := { s.sec with badVerify := 0 } }.putCp cp
      { c.restart (Config.imageEntry (s.imageHead cp)) version with swap := 3, oldVer := c.fwsv, oldEntry := c.entry, newVer := version })
  else
    .next (s.badImage.putCp cp { c with swap := 4, swapRes := 1, served := false, newVer := version })

/-- SWAP_TAKE_BACK (R373) of CP `place.a`: after its load it reclaims its queues; then the partner acknowledges, and it is idle. -/
def execSwapTakeBack (s : State) : Host.Outcome State Fault Refusal :=
  let c := s.cpAt s.place.a
  if c.swap = 3 then .next (s.putCp s.place.a { c with swap := 4, served := false })
  else if c.swap = 4 then .next (s.putCp s.place.a { c with swap := 0, served := false })
  else s.passed

/-- SWAP_TIMEOUT (R373): CP `place.a` has not taken its queues back, so it restarts on its previous image. -/
def execSwapTimeout (s : State) : Host.Outcome State Fault Refusal :=
  let c := s.cpAt s.place.a
  if c.swap = 3 ∨ (c.swap = 4 ∧ c.swapRes = 0) then
    .next (s.putCp s.place.a { c.restart c.oldEntry c.oldVer with swap := 4, swapRes := 2, served := false })
  else s.passed

/-! ### Alarms (R374) -/

/-- Halts every queue and kills every launch that has been dispatched with a status (R374, R399). -/
def State.haltAll (s : State) (code : Nat) : State :=
  let s := (s.queues.filter fun p => p.2.live).foldl (fun s p => s.haltQueue p.1) s
  (s.launchesWith fun la => la.status = .resident || la.status = .preempted).foldl (fun s l => s.kill l code) s

/-- ALARM_CLASS_1. -/
def execAlarmClass1 (s : State) : Host.Outcome State Fault Refusal := .next s.alarm1

/-- The effects of a class 2 alarm. -/
def State.alarm2 (s : State) : State :=
  let s := s.haltAll 6
  { s with sec := { s.sec with sessKeys := false, attest := false, logged := s.sec.logged + 1 } }

/-- ALARM_CLASS_2. -/
def execAlarmClass2 (s : State) : Host.Outcome State Fault Refusal := .next s.alarm2

/-- ALARM_CLASS_3: class 2, and the wrap key of the identity key is erased. -/
def execAlarmClass3 (s : State) : Host.Outcome State Fault Refusal :=
  let s := s.alarm2
  .next { s with sec := { s.sec with wrapKey := false } }

/-- VERIFICATION_AVAILABLE (R374): the security controller has come back after a class 1 alarm. -/
def execVerificationAvailable (s : State) : Host.Outcome State Fault Refusal :=
  if !s.sec.available then .next { s with sec := { s.sec with available := true } }
  else s.passed

end Sys2Proof.Machine
end

