-- ==== Sys2Proof/Machine/Platform.lean ====
section
/-! DEFINITION. Bring-up, power, thermal limits, the board bus and the test access port (R396 to R401). -/

namespace Sys2Proof.Machine

/-- Replaces the platform. -/
def State.setPlat (s : State) (p : Platform) : State := { s with plat := p }

/-- The work of stage `n` ends: the next stage, or the device stays (R397). -/
def State.endStage (s : State) (ok : Bool) : State :=
  s.setPlat (if ok then { s.plat with stage := s.plat.stage + 1, stageDone := true } else { s.plat with held := true, stageDone := false })

/-- Whether a stage's work may run. -/
def State.atStage (s : State) (n : Nat) : Bool := decide (s.plat.stage = n) && !s.plat.held && !s.plat.ready

/-- Whether a key of memory lies in the host's memory. -/
def keepsHost (k : Nat) : Bool := isHostKey k

/-- POWER_ON_RESET (R397): bring-up begins at stage 1. Host memory is not the device's, and an erased wrap key stays erased
(R374). -/
def execPowerOnReset (s : State) : Host.Outcome State Fault Refusal :=
  .next { State.reset with
    mem := s.mem.filter fun c => keepsHost c.1
    sec := { State.reset.sec with wrapKey := s.sec.wrapKey, attest := s.sec.wrapKey }
    plat := { Platform.init with stage := 1 }
    agenda := s.agenda, place := s.place, cur := s.cur
    nextCtx := s.nextCtx, nextPkt := s.nextPkt, nextId := s.nextId, freeCtr := s.freeCtr }

/-- WARM_RESET (R397): stages 2 to 6 again; no queue survives. The CPs start again on the images that they run (log entry 79). -/
def execWarmReset (s : State) : Host.Outcome State Fault Refusal :=
  if s.plat.stage < 2 ∨ s.plat.coldOnly then s.passed
  else
    .next { s with
      ctxs := [], tasks := [], launches := [], roots := [], net := [], queues := [], tackles := [], streams := []
      cps := s.cps.map fun c => (c.1, c.2.restart c.2.entry c.2.fwsv)
      plat := { s.plat with stage := 2, ready := false, stageDone := false, held := false } }

/-- BOOT_VERIFY (R373, R397): stage 1, with the verdict on the boot image. The version check compares the image's version with the fused
minimum. -/
def execBootVerify (ok : Bool) (s : State) : Host.Outcome State Fault Refusal :=
  if s.atStage 1 && s.sec.available && decide (ok = bootGenuine) then
    .next (s.endStage (ok && decide (Config.fusedVersion.toNat ≤ Config.bootVersion.toNat)))
  else s.passed

/-- The fused-off row of a column of a quadrant (R396). -/
def fuseField (q k : Nat) : Nat := (Config.fuseBlock q).toNat / 32 ^ k % 32

/-- The fuse map of every quadrant. -/
def fuseMap : AMap Nat := (List.range 64).map fun i => (i, fuseField (i / 16) (i % 16))

/-- The physical row of a logical row of a column whose row `f` is fused off (R5). -/
def physRow (f l : Nat) : Nat := if l < f then l else l + 1

/-- The physical row of a mast in its quadrant's column, by the map that bring-up has built (R4, R5). -/
def State.physRowOf (s : State) (mast : Nat) : Nat :=
  let q := mast / 512 * 2 + mast % 32 / 16
  physRow (s.plat.fuses.get (16 * q + mast % 16) 16) (mast / 32 % 16)

/-- FUSE_MAP_BUILD (R396, R397): stage 2. -/
def execFuseMapBuild (s : State) : Host.Outcome State Fault Refusal :=
  if s.atStage 2 then .next ((s.setPlat { s.plat with fuses := fuseMap }).endStage (fuseMap.all fun f => decide (f.2 ≤ 16)))
  else s.passed

/-- BRINGUP_SCRUB (R397): stage 3. Everything on chip is scrubbed; the shipped halyard kernels stand in their memories (R305). -/
def execBringupScrub (s : State) : Host.Outcome State Fault Refusal :=
  if s.atStage 3 then
    .next ({ s with
      mem := s.mem.filter fun c => decide (c.1 < 2 ^ 52), ecc := s.ecc.filter fun e => decide (8 * e.1 < 2 ^ 52)
      cores := [], masts := [] }.endStage true)
  else s.passed

/-- HBM_TRAIN (R397): stage 4. -/
def execHbmTrain (ok : Bool) (s : State) : Host.Outcome State Fault Refusal :=
  if s.atStage 4 then
    if ok then
      .next ({ s with
        mem := s.mem.filter fun c => !isHbm c.1, ecc := s.ecc.filter fun e => !isHbm (8 * e.1) }.endStage true)
    else .next (s.endStage false)
  else s.passed

/-- The six long links, by quadrant pair (R284). -/
def longLinks : List Nat := [1, 2, 3, 6, 7, 11]

/-- LINK_TRAIN (R397): stage 5. A shroud that is down is reported, and bring-up goes on. -/
def execLinkTrain (ok : Bool) (shroudsUp : BitVec 16) (s : State) : Host.Outcome State Fault Refusal :=
  if s.atStage 5 then
    if ok then
      let sh := (List.range 16).map fun n =>
        (n, { Shroud.init with lanes := if shroudsUp.getLsbD n then 8 else 0, up := shroudsUp.getLsbD n })
      let down := ((List.range 16).filter fun n => !shroudsUp.getLsbD n).map fun n => (1, n, 0)
      let s := { s with links := longLinks.map fun k => (k, { LongLink.init with up := true }), shrouds := sh }
      .next ((s.setPlat { s.plat with reports := down ++ s.plat.reports }).endStage true)
    else .next (s.endStage false)
  else s.passed

/-- OPEN_COMMANDS (R397): stage 6. -/
def execOpenCommands (s : State) : Host.Outcome State Fault Refusal :=
  if s.atStage 6 then .next (s.setPlat { s.plat with ready := true, stageDone := true })
  else s.passed

/-! ### Heat and power (R399, R400) -/

/-- The junction temperature that a thermal event tells: `place.b` is 8 times the reading, in degrees C, plus the sensor. -/
def State.reading (s : State) : Nat := s.place.b / 8

/-- The sensors of the platform, after the one of quadrant `place.a` that a thermal event names has been read. -/
def State.sensed (s : State) : AMap Nat := s.plat.sensors.set (8 * s.place.a + s.place.b % 8) s.reading

/-- The clock of quadrant `place.a` once a sensor has been read: 470 MHz from a reading above 105 degrees C on, until each of the eight
reads below 100. -/
def State.clocked (s : State) : List Bool :=
  let cool := (List.range 8).all fun i => decide (s.sensed.get (8 * s.place.a + i) 0 < 100)
  if 105 < s.reading then s.plat.throttled.set s.place.a true
  else if cool then s.plat.throttled.set s.place.a false
  else s.plat.throttled

/-- What a reading does (R399): the sensor shows it, the quadrant's clock follows, and above 115 degrees C every launch is killed with
status 6, every queue is halted, and only a cold reset helps. -/
def State.heated (s : State) : State :=
  let t := if 115 < s.reading then s.haltAll 6 else s
  t.setPlat { t.plat with sensors := s.sensed, throttled := s.clocked, coldOnly := t.plat.coldOnly || decide (115 < s.reading) }

/-- THERMAL_THROTTLE (R399) of quadrant `place.a`: a sensor reads above 105 degrees C. -/
def execThermalThrottle (s : State) : Host.Outcome State Fault Refusal :=
  if s.place.a < 4 && decide (105 < s.reading) then .next s.heated else s.passed

/-- THERMAL_RECOVER (R399) of quadrant `place.a`: a sensor reads 105 degrees C or less. -/
def execThermalRecover (s : State) : Host.Outcome State Fault Refusal :=
  if s.place.a < 4 && decide (s.reading ≤ 105) then .next s.heated else s.passed

/-- THERMAL_TRIP (R399) of quadrant `place.a`: a sensor reads above 115 degrees C. -/
def execThermalTrip (s : State) : Host.Outcome State Fault Refusal :=
  if s.place.a < 4 && decide (115 < s.reading) then .next s.heated else s.passed

/-- PCAP_WRITE (R400). -/
def execPcapWrite (v : Byte) (s : State) : Host.Outcome State Fault Refusal := .next (s.setPlat { s.plat with pcap := v })

/-- The cap in milliwatts (R400). -/
def capOf (pcap : Byte) : Option Nat := if 1 ≤ pcap.toNat ∧ pcap.toNat ≤ 249 then some (8000 * pcap.toNat) else none

/-- POWER_CHECK (R400): the power measured, and whether it has stayed at least 5 % below the cap for 10 ms. -/
def execPowerCheck (milliwatts : Nat) (low10ms : Bool) (s : State) : Host.Outcome State Fault Refusal :=
  match capOf s.plat.pcap with
  | none => .next (s.setPlat { s.plat with capThrot := false, capmiss := false })
  | some cap =>
    if cap < milliwatts then .next (s.setPlat { s.plat with capThrot := true, capmiss := s.plat.capmiss || s.plat.capThrot })
    else
      let restore := low10ms && decide (100 * milliwatts ≤ 95 * cap)
      .next (s.setPlat { s.plat with capmiss := s.plat.capmiss && decide (milliwatts = cap), capThrot := s.plat.capThrot && !restore })

/-- The read-only registers that board management reads over I3C (R400), and the cap. -/
inductive I3cReg where
  | junction (quadrant sensor : Nat)
  | coolant
  | rail (n : Nat)
  | cstat (fn : Nat)
  | serial
  | capmiss
  | pcap
  deriving DecidableEq, Repr

/-- What an I3C read of a register gives. The coolant's temperature and the power on a rail are measured outside the model: free
values (log entry 2). -/
def State.i3cRead (s : State) : I3cReg → Word × State
  | .junction q i => (Word.of (s.plat.sensors.get (8 * q + i) 0), s)
  | .coolant => s.takeFree
  | .rail _ => s.takeFree
  | .cstat fn => (s.cstat fn, s)
  | .serial => (Config.certSerial, s)
  | .capmiss => (Word.ofBool s.plat.capmiss, s)
  | .pcap => (s.plat.pcap.setWidth 64, s)

/-- DYNAMIC_ADDRESS_ASSIGN (R400): a seven-bit I3C address (log entry 76). -/
def execDynamicAddressAssign (addr : Nat) (s : State) : Host.Outcome State Fault Refusal :=
  .next (s.setPlat { s.plat with i3cAddr := some (addr % 128) })

/-! ### The test access port (R401) -/

/-- The device identity (R401). -/
def idcodeWord : BitVec 32 := 0x1D192F2F#32

/-- BYPASS (R401). -/
def execBypass (s : State) : Host.Outcome State Fault Refusal := .next (s.setPlat { s.plat with tapIr := 0, tapDr := 0 })

/-- IDCODE (R401). -/
def execIdcode (s : State) : Host.Outcome State Fault Refusal := .next (s.setPlat { s.plat with tapIr := 1, tapDr := idcodeWord })

/-- SAMPLE/PRELOAD (R401): the data register takes what the pins carry (log entry 2). -/
def execSamplePreload (s : State) : Host.Outcome State Fault Refusal :=
  let p := s.takeFree
  .next (p.2.setPlat { p.2.plat with tapIr := 2, tapDr := p.1.setWidth 32 })

/-- EXTEST (R401): the data register drives the pins, and keeps what it was loaded with. -/
def execExtest (s : State) : Host.Outcome State Fault Refusal := .next (s.setPlat { s.plat with tapIr := 3 })

/-- DEBUG_UNLOCK (R374, R401): a wrong token raises a class 2 alarm. -/
def execDebugUnlock (tokenOk : Bool) (s : State) : Host.Outcome State Fault Refusal :=
  if tokenOk then .next (s.setPlat { s.plat with debug := true }) else .next s.alarm2

end Sys2Proof.Machine
end

