-- ==== Sys2Proof/Machine/Scalar.lean ====
section
/-! DEFINITION. Scalar integer instructions (R91 to R94). Each one writes its destination, goes on behind itself and
touches nothing else; no integer instruction traps on a value. -/

namespace Sys2Proof.Machine

/-- `OP.type d, a, b`: the result is an integer, narrowed and extended by the type (R29, R91). -/
def State.intOp (s : State) (t : ITy) (d : Reg) (a b : Src) (f : Int → Int → Int) : Host.Outcome State Fault Refusal :=
  .next (s.result 1 d (t.wrap (f (s.isrc t a) (s.isrc t b))))

/-- `OP d, a, b` on 64 bits. -/
def State.bitOp (s : State) (d : Reg) (a b : Src) (f : Word → Word → Word) : Host.Outcome State Fault Refusal :=
  .next (s.result 1 d (f (s.src a) (s.src b)))

/-- `OP d, a` on 64 bits. -/
def State.unOp (s : State) (d : Reg) (a : Src) (f : Word → Word) : Host.Outcome State Fault Refusal :=
  .next (s.result 1 d (f (s.src a)))

/-- ADD. -/
def execAdd (t : ITy) (d : Reg) (a b : Src) (s : State) := s.intOp t d a b (· + ·)
/-- SUB. -/
def execSub (t : ITy) (d : Reg) (a b : Src) (s : State) := s.intOp t d a b (· - ·)
/-- MUL. -/
def execMul (t : ITy) (d : Reg) (a b : Src) (s : State) := s.intOp t d a b (· * ·)
/-- MULH: bits [2w-1:w] of the product. -/
def execMulh (t : ITy) (d : Reg) (a b : Src) (s : State) :=
  s.intOp t d a b fun x y => (x * y).fdiv (2 ^ t.width : Nat)
/-- DIV (R14, R45). -/
def execDiv (t : ITy) (d : Reg) (a b : Src) (s : State) := s.intOp t d a b t.quot
/-- REM (R14). -/
def execRem (t : ITy) (d : Reg) (a b : Src) (s : State) := s.intOp t d a b t.modulo
/-- MIN. -/
def execMin (t : ITy) (d : Reg) (a b : Src) (s : State) := s.intOp t d a b intMin
/-- MAX. -/
def execMax (t : ITy) (d : Reg) (a b : Src) (s : State) := s.intOp t d a b intMax
/-- SLT. -/
def execSlt (t : ITy) (d : Reg) (a b : Src) (s : State) := s.intOp t d a b fun x y => intOf (x < y)
/-- SEQ. -/
def execSeq (t : ITy) (d : Reg) (a b : Src) (s : State) := s.intOp t d a b fun x y => intOf (x = y)
/-- AND. -/
def execAnd (d : Reg) (a b : Src) (s : State) := s.bitOp d a b (· &&& ·)
/-- OR. -/
def execOr (d : Reg) (a b : Src) (s : State) := s.bitOp d a b (· ||| ·)
/-- XOR. -/
def execXor (d : Reg) (a b : Src) (s : State) := s.bitOp d a b (· ^^^ ·)
/-- ANDN. -/
def execAndn (d : Reg) (a b : Src) (s : State) := s.bitOp d a b fun x y => x &&& ~~~y
/-- SHL: the shift count is y[5:0]. -/
def execShl (d : Reg) (a b : Src) (s : State) := s.bitOp d a b fun x y => x <<< (bits y 5 0)
/-- SHR. -/
def execShr (d : Reg) (a b : Src) (s : State) := s.bitOp d a b fun x y => x >>> (bits y 5 0)
/-- SRA. -/
def execSra (d : Reg) (a b : Src) (s : State) := s.bitOp d a b fun x y => x.sshiftRight (bits y 5 0)
/-- ROT: left. -/
def execRot (d : Reg) (a b : Src) (s : State) := s.bitOp d a b fun x y => x.rotateLeft (bits y 5 0)

/-- The width of CLZ, CTZ and POPC. -/
def bwidth : BTy → Nat
  | .n64 => 64
  | .n32 => 32

/-- CLZ. -/
def execClz (t : BTy) (d : Reg) (a : Src) (s : State) := s.unOp d a fun x => Word.of (clzN (bwidth t) x.toNat)
/-- CTZ. -/
def execCtz (t : BTy) (d : Reg) (a : Src) (s : State) := s.unOp d a fun x => Word.of (ctzFrom (bwidth t) x.toNat 0)
/-- POPC. -/
def execPopc (t : BTy) (d : Reg) (a : Src) (s : State) := s.unOp d a fun x => Word.of (popcN (bwidth t) x.toNat)
/-- SEXT.i8. -/
def execSextI8 (d : Reg) (a : Src) (s : State) := s.unOp d a fun x => ofInt (sextN 8 x.toNat)
/-- SEXT.i16. -/
def execSextI16 (d : Reg) (a : Src) (s : State) := s.unOp d a fun x => ofInt (sextN 16 x.toNat)
/-- SEXT.i32. -/
def execSextI32 (d : Reg) (a : Src) (s : State) := s.unOp d a fun x => ofInt (sextN 32 x.toNat)
/-- ZEXT.n8. -/
def execZextN8 (d : Reg) (a : Src) (s : State) := s.unOp d a fun x => Word.of (x.toNat % 2 ^ 8)
/-- ZEXT.n16. -/
def execZextN16 (d : Reg) (a : Src) (s : State) := s.unOp d a fun x => Word.of (x.toNat % 2 ^ 16)
/-- ZEXT.n32. -/
def execZextN32 (d : Reg) (a : Src) (s : State) := s.unOp d a fun x => Word.of (x.toNat % 2 ^ 32)

/-- BFX (R93). -/
def execBfx (natural : Bool) (d : Reg) (a : Src) (pos : BitVec 6) (len : BitVec 7) (s : State) :
    Host.Outcome State Fault Refusal :=
  let f := (s.src a).toNat >>> pos.toNat
  .next (s.result 2 d (if natural then Word.of (f % 2 ^ len.toNat) else ofInt (sextN len.toNat f)))

/-- BFI (R93): d is also read. -/
def execBfi (d : Reg) (a : Src) (pos : BitVec 6) (len : BitVec 7) (s : State) : Host.Outcome State Fault Refusal :=
  .next (s.result 2 d (setBits (s.reg d) (pos.toNat + len.toNat - 1) pos.toNat (s.src a).toNat))

/-- LI with a 10-bit immediate (R94). -/
def execLi (d : Reg) (imm : BitVec 10) (s : State) : Host.Outcome State Fault Refusal :=
  .next (s.result 1 d (imm.signExtend 64))

/-- LI with a 32-bit literal (R94). -/
def execLiLit32 (d : Reg) (lit : BitVec 32) (s : State) : Host.Outcome State Fault Refusal :=
  .next (s.result 2 d (lit.signExtend 64))

/-- LI of a constant-bank entry (R94). -/
def execLiCidx (d : Reg) (k : Fin 512) (s : State) : Host.Outcome State Fault Refusal :=
  .next (s.result 2 d (s.const k.val))

end Sys2Proof.Machine
end

