-- ==== Sys2Proof/Machine/ScalarFloat.lean ====
section
/-! DEFINITION. Scalar floating-point instructions (R95 to R97). -/

namespace Sys2Proof.Machine

/-- A floating-point result: the register value of the bits (R29: the upper half of an .f32 result is zero). -/
def State.fresult (s : State) (t : ETy) (d : Reg) (v : Nat) : Host.Outcome State Fault Refusal :=
  .next (s.result 1 d (Word.of (v % 2 ^ t.width)))

/-- `OP d, a, b` in a format. -/
def State.fOp (s : State) (t : ETy) (d : Reg) (a b : Src) (f : Nat → Nat → Nat) : Host.Outcome State Fault Refusal :=
  s.fresult t d (f (s.fsrc t a) (s.fsrc t b))

/-- The destination read at a type's width (R95). -/
def State.fdst (s : State) (t : ETy) (d : Reg) : Nat := (s.reg d).toNat % 2 ^ t.width

/-- FADD.f32. -/
def execFaddF32 (r : Rnd) (d : Reg) (a b : Src) (s : State) := s.fOp .f32 d a b (fAdd (ETy.fmt .f32) r)
/-- FADD.f64. -/
def execFaddF64 (r : Rnd) (d : Reg) (a b : Src) (s : State) := s.fOp .f64 d a b (fAdd (ETy.fmt .f64) r)
/-- FSUB.f32. -/
def execFsubF32 (r : Rnd) (d : Reg) (a b : Src) (s : State) := s.fOp .f32 d a b (fSub (ETy.fmt .f32) r)
/-- FSUB.f64. -/
def execFsubF64 (r : Rnd) (d : Reg) (a b : Src) (s : State) := s.fOp .f64 d a b (fSub (ETy.fmt .f64) r)
/-- FMUL.f32. -/
def execFmulF32 (r : Rnd) (d : Reg) (a b : Src) (s : State) := s.fOp .f32 d a b (fMul (ETy.fmt .f32) r)
/-- FMUL.f64. -/
def execFmulF64 (r : Rnd) (d : Reg) (a b : Src) (s : State) := s.fOp .f64 d a b (fMul (ETy.fmt .f64) r)
/-- FMA.f32. -/
def execFmaF32 (r : Rnd) (d : Reg) (a b : Src) (s : State) :=
  s.fOp .f32 d a b fun x y => fFma (ETy.fmt .f32) r x y (s.fdst .f32 d)
/-- FMA.f64. -/
def execFmaF64 (r : Rnd) (d : Reg) (a b : Src) (s : State) :=
  s.fOp .f64 d a b fun x y => fFma (ETy.fmt .f64) r x y (s.fdst .f64 d)
/-- FDIV.f32. -/
def execFdivF32 (r : Rnd) (d : Reg) (a b : Src) (s : State) := s.fOp .f32 d a b (fDiv (ETy.fmt .f32) r)
/-- FDIV.f64. -/
def execFdivF64 (r : Rnd) (d : Reg) (a b : Src) (s : State) := s.fOp .f64 d a b (fDiv (ETy.fmt .f64) r)
/-- FMIN.f32. -/
def execFminF32 (d : Reg) (a b : Src) (s : State) := s.fOp .f32 d a b (fMin (ETy.fmt .f32))
/-- FMAX.f32. -/
def execFmaxF32 (d : Reg) (a b : Src) (s : State) := s.fOp .f32 d a b (fMax (ETy.fmt .f32))
/-- FCMP.f32: the code is written as a 64-bit integer. -/
def execFcmpF32 (d : Reg) (a b : Src) (s : State) : Host.Outcome State Fault Refusal :=
  .next (s.result 1 d (Word.of (fCmp (ETy.fmt .f32) (s.fsrc .f32 a) (s.fsrc .f32 b))))
/-- FMIN.f64. -/
def execFminF64 (d : Reg) (a b : Src) (s : State) := s.fOp .f64 d a b (fMin (ETy.fmt .f64))
/-- FMAX.f64. -/
def execFmaxF64 (d : Reg) (a b : Src) (s : State) := s.fOp .f64 d a b (fMax (ETy.fmt .f64))
/-- FCMP.f64: the code is written as a 64-bit integer. -/
def execFcmpF64 (d : Reg) (a b : Src) (s : State) : Host.Outcome State Fault Refusal :=
  .next (s.result 1 d (Word.of (fCmp (ETy.fmt .f64) (s.fsrc .f64 a) (s.fsrc .f64 b))))
/-- FSQRT (R97). -/
def execFsqrt (t : FTy) (r : Rnd) (d : Reg) (a : Src) (s : State) := 
  s.fresult (ftyEty t) d (fSqrt (ftyEty t).fmt r (s.fsrc (ftyEty t) a))

/-- The source of FCVT: a literal is an integer of an integer type, or converted exactly into a floating-point type. The
manual states no value for a literal that is not exact in an EF8 type: it is a free value of the literal (log entry 2). -/
def State.esrc (s : State) (t : ETy) (a : Src) : Nat :=
  if t.isInt then (s.src a).toNat % 2 ^ t.width
  else
    match a with
    | .lit n => if litExact t n then litBits t n.toInt else (Config.ef8Literal (t = .ef8b) n).toNat
    | x => s.fsrc t x

/-- FCVT (R97, R52). -/
def execFcvt (dst src : ETy) (r : Rnd) (d : Reg) (a : Src) (s : State) : Host.Outcome State Fault Refusal :=
  .next (s.result 1 d (dst.toReg (convert dst src r .mode (s.esrc src a))))

end Sys2Proof.Machine
end

