-- ==== Sys2Proof/Machine/Fetch.lean ====
section
/-! DEFINITION. Fetching and decoding the instruction at the pc (R18, R38 to R40, R292, R305). -/

namespace Sys2Proof.Machine

/-- The physical offset of a word in the microcode memory that the transfer of the acting hart may fetch (R305). -/
def State.hartCodeOk (s : State) (pc : Nat) : Bool :=
  let g := (s.mast.grants.get s.cur.launch Grant.init).ucode
  decide (pc < 0x1000) || (decide (0x1000 + 256 * g.1 ≤ pc) && decide (pc + 4 ≤ 0x1000 + 256 * (g.1 + g.2)))

/-- Whether a local offset is a word of the code that a context's inline message brought. -/
def Context.bringsCode (c : Context) (off : Nat) : Bool :=
  c.msgCode ≠ 0 && decide (c.msgOff + 8 ≤ off) && decide (off + 4 ≤ c.msgOff + 8 + 4 * c.msgCode)

/-- Whether an address is a word of the code that an inline message has brought the task that acts: such words count as code of the task
while the message's context exists, for every context of the task (R292). -/
def State.inlineCode (s : State) (pc : Word) : Bool :=
  space pc = 0x8 && zeroFieldsOk pc && (s.liveCtxs s.cur.task).any fun p => p.2.bringsCode (bits pc 16 0)

/-- Whether a word lies in the code image of the task (R40). -/
def State.inImage (s : State) (pc : Word) : Bool :=
  decide (s.task.cbase.toNat ≤ pc.toNat) && decide (pc.toNat + 4 ≤ s.task.cbase.toNat + s.task.csize)

/-- Fetches the word at an address: the word, or the trap 0x04 of R40 with the address, or the wait of a miss. -/
def State.fetch32 (s : State) (pc : Word) : Ex Nat := do
  need (decide (pc.toNat % 4 = 0)) (.trap 0x04 pc 0)
  match s.engine with
  | .hart => do
    need (s.hartCodeOk pc.toNat) (.trap 0x04 pc 0)
    .ok (if pc.toNat < 0x1000 then (Config.shippedCode pc.toNat).toNat
      else ofBytes (Memory.read s.mem (ucodeKey s.mastNo pc.toNat) 4))
  | _ =>
    if s.inlineCode pc then .ok (ofBytes (Memory.read s.mem (localKey s.cur.core (bits pc 16 0)) 4))
    else do
      need (s.inImage pc) (.trap 0x04 pc 0)
      match s.extentCheck pc 4 .fetch with
      | .ok k => .ok (ofBytes (Memory.read s.mem k 4))
      | .error .wait => waitX
      | .error _ => trapX 0x04 pc 0

/-- Fetches the words of the instruction at the pc, in the order of R38. -/
def State.fetchWords (s : State) : Ex (List Nat) := do
  let w0 ← s.fetch32 s.pc
  if !opOk s.engine w0 then .ok [w0]
  else
    match opWords (fld w0 31 24) with
    | 1 => .ok [w0]
    | 2 => do
      let w1 ← s.fetch32 (s.pc + 4)
      .ok [w0, w1]
    | _ => do
      let w1 ← s.fetch32 (s.pc + 4)
      let w2 ← s.fetch32 (s.pc + 8)
      .ok [w0, w1, w2]

/-- What a strand issues at the pc: the decoded instruction, or the step that its failure is (R38 to R40). An operand
that is not accepted takes cause 0x02 at once. -/
def State.fetchDecode (s : State) : Ex Instr := do
  match s.fetchWords with
  | .error (.trap _ addr _) => .ok (.fetchFault addr)
  | .error e => .error e
  | .ok ws =>
    match decodeWords s.engine ws with
    | .ok i => .ok i
    | .error (.illegal f) => .ok (.illegalInstruction f (BitVec.ofNat 32 (ws.getD 0 0)))
    | .error (.operand f) => trapX 0x02 s.pc (Word.of (f * 2 ^ 32 + ws.getD 0 0 % 2 ^ 32))
    | .error (.short k) => .ok (.fetchFault (s.pc + Word.of (4 * k)))

end Sys2Proof.Machine
end

