-- ==== Sys2Proof/Machine/Traps.lean ====
section
/-! DEFINITION. Failed fetches and decodes (R38 to R40) and failed host reads (R394). -/

namespace Sys2Proof.Machine

/-- ILLEGAL_INSTRUCTION (R38, R39): cause 0x01 at the pc, with the field that failed and the first word. -/
def execIllegalInstruction (field : Nat) (word : IWord) (s : State) : Host.Outcome State Fault Refusal :=
  .next (s.trapEntry 0x01 s.pc (Word.of (field * 2 ^ 32 + word.toNat)) s.pc)

/-- FETCH_FAULT (R40): cause 0x04 at the first word, with the address of the word that failed. trapinfo, which R40 does not give, is
0 (log entry 9). -/
def execFetchFault (addr : Word) (s : State) : Host.Outcome State Fault Refusal :=
  .next (s.trapEntry 0x04 addr 0 s.pc)

/-- The element that a SPUT reads as a load at its first execution: number `place.b` of those it sends (R386, R389). -/
def State.sputRead (s : State) (h : Reg) (n : Src) : Option (Word × Nat) :=
  match s.streamFor (s.reg h) (s.src n).toNat true with
  | .ok x =>
    if (x.sending s.cur.ctx s.pc).isNone && decide (s.place.b < (s.src n).toNat) then
      some (nestAddr x.dbl (x.moved + x.count x.tx + s.place.b), x.size)
    else none
  | .error _ => none

/-- The address and the size of what an instruction reads from memory as a load: a register's load, the parameter block of a launch
read (R308) and of a SOPEN (R386), or an element of a SPUT. -/
def State.loadEa (s : State) (i : Instr) : Option (Word × Nat) :=
  match i with
  | .ldbI8 _ b o => some (s.ea b o 1, 1)
  | .ldbN8 _ b o => some (s.ea b o 1, 1)
  | .ldhI16 _ b o => some (s.ea b o 2, 2)
  | .ldhN16 _ b o => some (s.ea b o 2, 2)
  | .ldI32 _ b o => some (s.ea b o 4, 4)
  | .ldN32 _ b o => some (s.ea b o 4, 4)
  | .ld _ b o => some (s.ea b o 8, 8)
  | .ldAcq _ b o => some (s.ea b o 8, 8)
  | .ldAcqN32 _ b o => some (s.ea b o 4, 4)
  | .launchRead _ => if s.engine = .mast then some (s.ctx.hpb, 64) else none
  | .sopen _ a => if (s.opening s.cur.ctx).isNone then some (s.rc a, 64) else none
  | .sput h n => s.sputRead h n
  | _ => none

/-- PCIE_COMPLETION_TIMEOUT (R394): the load at the pc of context `place.a`, or its element `place.b` for a SPUT, reads host memory, and its read has failed or
found no completion in time. -/
def execPcieCompletionTimeout (s : State) : Host.Outcome State Fault Refusal :=
  let s := s.focus s.place.a
  if s.ctx.status = .running || s.ctx.status = .waiting then
    match s.fetchDecode with
    | .ok i =>
      match s.loadEa i with
      | some (ea, n) =>
        match s.memCheck ea n .load s.loadSpaces with
        | .ok k => if space ea = 0 && isHostKey k then .next (s.trapEntry 0x0E ea 0 s.pc)
            else s.passed
        | .error _ => s.passed
      | none => s.passed
    | .error _ => s.passed
  else s.passed

end Sys2Proof.Machine
end

