-- ==== Sys2Proof/Machine/Dispatch.lean ====
section
/-! DEFINITION. One arm per constructor of `Instr`: the meaning of each step of the device. -/

namespace Sys2Proof.Machine

/-- What each step of the device does. -/
def exec (i : Instr) (s : State) : Host.Outcome State Fault Refusal :=
  match i with
  | .add t d a b => Sys2Proof.Machine.execAdd t d a b s
  | .sub t d a b => Sys2Proof.Machine.execSub t d a b s
  | .mul t d a b => Sys2Proof.Machine.execMul t d a b s
  | .mulh t d a b => Sys2Proof.Machine.execMulh t d a b s
  | .div t d a b => Sys2Proof.Machine.execDiv t d a b s
  | .rem t d a b => Sys2Proof.Machine.execRem t d a b s
  | .min t d a b => Sys2Proof.Machine.execMin t d a b s
  | .max t d a b => Sys2Proof.Machine.execMax t d a b s
  | .slt t d a b => Sys2Proof.Machine.execSlt t d a b s
  | .seq t d a b => Sys2Proof.Machine.execSeq t d a b s
  | .and d a b => Sys2Proof.Machine.execAnd d a b s
  | .or d a b => Sys2Proof.Machine.execOr d a b s
  | .xor d a b => Sys2Proof.Machine.execXor d a b s
  | .andn d a b => Sys2Proof.Machine.execAndn d a b s
  | .shl d a b => Sys2Proof.Machine.execShl d a b s
  | .shr d a b => Sys2Proof.Machine.execShr d a b s
  | .sra d a b => Sys2Proof.Machine.execSra d a b s
  | .rot d a b => Sys2Proof.Machine.execRot d a b s
  | .clz t d a => Sys2Proof.Machine.execClz t d a s
  | .ctz t d a => Sys2Proof.Machine.execCtz t d a s
  | .popc t d a => Sys2Proof.Machine.execPopc t d a s
  | .sextI8 d a => Sys2Proof.Machine.execSextI8 d a s
  | .sextI16 d a => Sys2Proof.Machine.execSextI16 d a s
  | .sextI32 d a => Sys2Proof.Machine.execSextI32 d a s
  | .zextN8 d a => Sys2Proof.Machine.execZextN8 d a s
  | .zextN16 d a => Sys2Proof.Machine.execZextN16 d a s
  | .zextN32 d a => Sys2Proof.Machine.execZextN32 d a s
  | .bfx natural d a pos len => Sys2Proof.Machine.execBfx natural d a pos len s
  | .bfi d a pos len => Sys2Proof.Machine.execBfi d a pos len s
  | .li d imm => Sys2Proof.Machine.execLi d imm s
  | .liLit32 d lit => Sys2Proof.Machine.execLiLit32 d lit s
  | .liCidx d k => Sys2Proof.Machine.execLiCidx d k s
  | .faddF32 r d a b => Sys2Proof.Machine.execFaddF32 r d a b s
  | .faddF64 r d a b => Sys2Proof.Machine.execFaddF64 r d a b s
  | .fsubF32 r d a b => Sys2Proof.Machine.execFsubF32 r d a b s
  | .fsubF64 r d a b => Sys2Proof.Machine.execFsubF64 r d a b s
  | .fmulF32 r d a b => Sys2Proof.Machine.execFmulF32 r d a b s
  | .fmulF64 r d a b => Sys2Proof.Machine.execFmulF64 r d a b s
  | .fmaF32 r d a b => Sys2Proof.Machine.execFmaF32 r d a b s
  | .fmaF64 r d a b => Sys2Proof.Machine.execFmaF64 r d a b s
  | .fdivF32 r d a b => Sys2Proof.Machine.execFdivF32 r d a b s
  | .fdivF64 r d a b => Sys2Proof.Machine.execFdivF64 r d a b s
  | .fminF32 d a b => Sys2Proof.Machine.execFminF32 d a b s
  | .fmaxF32 d a b => Sys2Proof.Machine.execFmaxF32 d a b s
  | .fcmpF32 d a b => Sys2Proof.Machine.execFcmpF32 d a b s
  | .fminF64 d a b => Sys2Proof.Machine.execFminF64 d a b s
  | .fmaxF64 d a b => Sys2Proof.Machine.execFmaxF64 d a b s
  | .fcmpF64 d a b => Sys2Proof.Machine.execFcmpF64 d a b s
  | .fsqrt t r d a => Sys2Proof.Machine.execFsqrt t r d a s
  | .fcvt dst src r d a => Sys2Proof.Machine.execFcvt dst src r d a s
  | .nop d csr => Sys2Proof.Machine.execNop d csr s
  | .br off => Sys2Proof.Machine.execBr off s
  | .brFar off => Sys2Proof.Machine.execBrFar off s
  | .bz t likely c off => Sys2Proof.Machine.execBz t likely c off s
  | .bnz t likely c off => Sys2Proof.Machine.execBnz t likely c off s
  | .beq t likely c off y => Sys2Proof.Machine.execBeq t likely c off y s
  | .bne t likely c off y => Sys2Proof.Machine.execBne t likely c off y s
  | .blt t likely c off y => Sys2Proof.Machine.execBlt t likely c off y s
  | .bge t likely c off y => Sys2Proof.Machine.execBge t likely c off y s
  | .call f off => Sys2Proof.Machine.execCall f off s
  | .callFar off => Sys2Proof.Machine.execCallFar off s
  | .callx f a => Sys2Proof.Machine.execCallx f a s
  | .ret => Sys2Proof.Machine.execRet s
  | .loop c off => Sys2Proof.Machine.execLoop c off s
  | .lfor t c off limit step => Sys2Proof.Machine.execLfor t c off limit step s
  | .lend => Sys2Proof.Machine.execLend s
  | .park d timeout => Sys2Proof.Machine.execPark d timeout s
  | .yield => Sys2Proof.Machine.execYield s
  | .trap a imm => Sys2Proof.Machine.execTrap a imm s
  | .eret => Sys2Proof.Machine.execEret s
  | .bkpt imm => Sys2Proof.Machine.execBkpt imm s
  | .ldbI8 d base off => Sys2Proof.Machine.execLdbI8 d base off s
  | .ldbN8 d base off => Sys2Proof.Machine.execLdbN8 d base off s
  | .ldhI16 d base off => Sys2Proof.Machine.execLdhI16 d base off s
  | .ldhN16 d base off => Sys2Proof.Machine.execLdhN16 d base off s
  | .ldI32 d base off => Sys2Proof.Machine.execLdI32 d base off s
  | .ldN32 d base off => Sys2Proof.Machine.execLdN32 d base off s
  | .ld d base off => Sys2Proof.Machine.execLd d base off s
  | .stb d base off => Sys2Proof.Machine.execStb d base off s
  | .sth d base off => Sys2Proof.Machine.execSth d base off s
  | .stN32 d base off => Sys2Proof.Machine.execStN32 d base off s
  | .st d base off => Sys2Proof.Machine.execSt d base off s
  | .ldAcq d base off => Sys2Proof.Machine.execLdAcq d base off s
  | .stRel d base off => Sys2Proof.Machine.execStRel d base off s
  | .ldAcqN32 d base off => Sys2Proof.Machine.execLdAcqN32 d base off s
  | .stRelN32 d base off => Sys2Proof.Machine.execStRelN32 d base off s
  | .aadd d base off => Sys2Proof.Machine.execAadd d base off s
  | .acas d base off nw => Sys2Proof.Machine.execAcas d base off nw s
  | .axch d base off => Sys2Proof.Machine.execAxch d base off s
  | .aminI64 d base off => Sys2Proof.Machine.execAminI64 d base off s
  | .aminN64 d base off => Sys2Proof.Machine.execAminN64 d base off s
  | .amaxI64 d base off => Sys2Proof.Machine.execAmaxI64 d base off s
  | .amaxN64 d base off => Sys2Proof.Machine.execAmaxN64 d base off s
  | .aand d base off => Sys2Proof.Machine.execAand d base off s
  | .aor d base off => Sys2Proof.Machine.execAor d base off s
  | .badd d base off => Sys2Proof.Machine.execBadd d base off s
  | .bcas d base off nw => Sys2Proof.Machine.execBcas d base off nw s
  | .prefCode base off => Sys2Proof.Machine.execPrefCode base off s
  | .prefHeap base off => Sys2Proof.Machine.execPrefHeap base off s
  | .fenceSc sc => Sys2Proof.Machine.execFenceSc sc s
  | .fenceSl sc => Sys2Proof.Machine.execFenceSl sc s
  | .fenceAcq sc => Sys2Proof.Machine.execFenceAcq sc s
  | .fenceRel sc => Sys2Proof.Machine.execFenceRel sc s
  | .nnew d kind arity => Sys2Proof.Machine.execNnew d kind arity s
  | .nfree d n => Sys2Proof.Machine.execNfree d n s
  | .nld d n k => Sys2Proof.Machine.execNld d n k s
  | .nst d n k => Sys2Proof.Machine.execNst d n k s
  | .pget d n ix => Sys2Proof.Machine.execPget d n ix s
  | .plink x y => Sys2Proof.Machine.execPlink x y s
  | .splice x y => Sys2Proof.Machine.execSplice x y s
  | .spliceJ x z => Sys2Proof.Machine.execSpliceJ x z s
  | .ndup d t rs => Sys2Proof.Machine.execNdup d t rs s
  | .nown d n => Sys2Proof.Machine.execNown d n s
  | .rpush f x y => Sys2Proof.Machine.execRpush f x y s
  | .rpop d => Sys2Proof.Machine.execRpop d s
  | .meet d x y => Sys2Proof.Machine.execMeet d x y s
  | .rule d k1 k2 => Sys2Proof.Machine.execRule d k1 k2 s
  | .fork f h a0 a1 => Sys2Proof.Machine.execFork f h a0 a1 s
  | .join d a => Sys2Proof.Machine.execJoin d a s
  | .vclaim d n => Sys2Proof.Machine.execVclaim d n s
  | .vyield => Sys2Proof.Machine.execVyield s
  | .vren d n => Sys2Proof.Machine.execVren d n s
  | .vld t v base off => Sys2Proof.Machine.execVld t v base off s
  | .vst t v base off => Sys2Proof.Machine.execVst t v base off s
  | .vgath t v a idx p => Sys2Proof.Machine.execVgath t v a idx p s
  | .vadd t v a b p => Sys2Proof.Machine.execVadd t v a b p s
  | .vsub t v a b p => Sys2Proof.Machine.execVsub t v a b p s
  | .vmul t v a b p => Sys2Proof.Machine.execVmul t v a b p s
  | .vmulz t v a b p => Sys2Proof.Machine.execVmulz t v a b p s
  | .vfma t v a b p => Sys2Proof.Machine.execVfma t v a b p s
  | .vmin t v a b p => Sys2Proof.Machine.execVmin t v a b p s
  | .vmax t v a b p => Sys2Proof.Machine.execVmax t v a b p s
  | .vcmp r t m a b => Sys2Proof.Machine.execVcmp r t m a b s
  | .vsel t v m a b => Sys2Proof.Machine.execVsel t v m a b s
  | .vcvt dst src r v a p => Sys2Proof.Machine.execVcvt dst src r v a p s
  | .vsum t d a n => Sys2Proof.Machine.execVsum t d a n s
  | .vmaxr t d a n => Sys2Proof.Machine.execVmaxr t d a n s
  | .vredq t d q c => Sys2Proof.Machine.execVredq t d q c s
  | .vxp t v x0 x1 x2 x3 prog p => Sys2Proof.Machine.execVxp t v x0 x1 x2 x3 prog p s
  | .vrank v a b p => Sys2Proof.Machine.execVrank v a b p s
  | .vselect v a b p => Sys2Proof.Machine.execVselect v a b p s
  | .vpopc v a p => Sys2Proof.Machine.execVpopc v a p s
  | .vshuf t v a b p => Sys2Proof.Machine.execVshuf t v a b p s
  | .vbcast t v a p => Sys2Proof.Machine.execVbcast t v a p s
  | .vidx t v a b p => Sys2Proof.Machine.execVidx t v a b p s
  | .qset q base lgcnt size => Sys2Proof.Machine.execQset q base lgcnt size s
  | .qsetClr q => Sys2Proof.Machine.execQsetClr q s
  | .qwait d q n => Sys2Proof.Machine.execQwait d q n s
  | .qresv d q n => Sys2Proof.Machine.execQresv d q n s
  | .qadvP q n => Sys2Proof.Machine.execQadvP q n s
  | .qadvC q n => Sys2Proof.Machine.execQadvC q n s
  | .qhead d q => Sys2Proof.Machine.execQhead d q s
  | .bclaim d pin => Sys2Proof.Machine.execBclaim d pin s
  | .bfree h => Sys2Proof.Machine.execBfree h s
  | .bfmt h fmt => Sys2Proof.Machine.execBfmt h fmt s
  | .bfmtTab id code => Sys2Proof.Machine.execBfmtTab id code s
  | .bfmtRd d h => Sys2Proof.Machine.execBfmtRd d h s
  | .bpair b front shadow => Sys2Proof.Machine.execBpair b front shadow s
  | .bpairClr front => Sys2Proof.Machine.execBpairClr front s
  | .sbq d => Sys2Proof.Machine.execSbq d s
  | .sbwait a n => Sys2Proof.Machine.execSbwait a n s
  | .sbwaitR a n => Sys2Proof.Machine.execSbwaitR a n s
  | .barr a => Sys2Proof.Machine.execBarr a s
  | .barrArm d a n => Sys2Proof.Machine.execBarrArm d a n s
  | .barrDis a => Sys2Proof.Machine.execBarrDis a s
  | .bwait d a v => Sys2Proof.Machine.execBwait d a v s
  | .bwaitG d a v => Sys2Proof.Machine.execBwaitG d a v s
  | .bstat d a k => Sys2Proof.Machine.execBstat d a k s
  | .eclaim d e n => Sys2Proof.Machine.execEclaim d e n s
  | .ecap d e n => Sys2Proof.Machine.execEcap d e n s
  | .eclr hi e lo => Sys2Proof.Machine.execEclr hi e lo s
  | .eclrFree e => Sys2Proof.Machine.execEclrFree e s
  | .eins e a n => Sys2Proof.Machine.execEins e a n s
  | .emax ed ex ey => Sys2Proof.Machine.execEmax ed ex ey s
  | .esum ed ex ey => Sys2Proof.Machine.execEsum ed ex ey s
  | .einf ed ex ey => Sys2Proof.Machine.execEinf ed ex ey s
  | .eleg ed ex => Sys2Proof.Machine.execEleg ed ex s
  | .eeval e a n => Sys2Proof.Machine.execEeval e a n s
  | .eread e a n => Sys2Proof.Machine.execEread e a n s
  | .ecnt d e => Sys2Proof.Machine.execEcnt d e s
  | .vexp2 d a n => Sys2Proof.Machine.execVexp2 d a n s
  | .vlog2 d a n => Sys2Proof.Machine.execVlog2 d a n s
  | .vrcp d a n => Sys2Proof.Machine.execVrcp d a n s
  | .vrsq d a n => Sys2Proof.Machine.execVrsq d a n s
  | .vtanh d a n => Sys2Proof.Machine.execVtanh d a n s
  | .send vn d a n => Sys2Proof.Machine.execSend vn d a n s
  | .sendi rep d a n => Sys2Proof.Machine.execSendi rep d a n s
  | .hret => Sys2Proof.Machine.execHret s
  | .aaddRemote t d a v => Sys2Proof.Machine.execAaddRemote t d a v s
  | .acasRemote t d a e nw => Sys2Proof.Machine.execAcasRemote t d a e nw s
  | .axchRemote t d a v => Sys2Proof.Machine.execAxchRemote t d a v s
  | .aminRemote t natural d a v => Sys2Proof.Machine.execAminRemote t natural d a v s
  | .amaxRemote t natural d a v => Sys2Proof.Machine.execAmaxRemote t natural d a v s
  | .aandRemote t d a v => Sys2Proof.Machine.execAandRemote t d a v s
  | .aorRemote t d a v => Sys2Proof.Machine.execAorRemote t d a v s
  | .tbind k a h => Sys2Proof.Machine.execTbind k a h s
  | .tunbind a => Sys2Proof.Machine.execTunbind a s
  | .csrr d csr => Sys2Proof.Machine.execCsrr d csr s
  | .csrw csr rs => Sys2Proof.Machine.execCsrw csr rs s
  | .cyc d => Sys2Proof.Machine.execCyc d s
  | .binjArm rs => Sys2Proof.Machine.execBinjArm rs s
  | .launchRead d => Sys2Proof.Machine.execLaunchRead d s
  | .syscBeat d a => Sys2Proof.Machine.execSyscBeat d a s
  | .syscInfo d a => Sys2Proof.Machine.execSyscInfo d a s
  | .syscFail d a => Sys2Proof.Machine.execSyscFail d a s
  | .sopen d a => Sys2Proof.Machine.execSopen d a s
  | .sput h n => Sys2Proof.Machine.execSput h n s
  | .sget h n => Sys2Proof.Machine.execSget h n s
  | .sclose d h => Sys2Proof.Machine.execSclose d h s
  | .mvgo rs => Sys2Proof.Machine.execMvgo rs s
  | .mvwait d => Sys2Proof.Machine.execMvwait d s
  | .hidx d => Sys2Proof.Machine.execHidx d s
  | .hidxw d => Sys2Proof.Machine.execHidxw d s
  | .cxdata cp sel write => Sys2Proof.Machine.execCxdata cp sel write s
  | .partition fn a0 a1 a2 a3 => Sys2Proof.Machine.execPartition fn a0 a1 a2 a3 s
  | .qcreate fn a0 a1 a2 a3 => Sys2Proof.Machine.execQcreate fn a0 a1 a2 a3 s
  | .qdestroy fn a0 a1 a2 a3 => Sys2Proof.Machine.execQdestroy fn a0 a1 a2 a3 s
  | .doorbell fn a0 a1 a2 a3 => Sys2Proof.Machine.execDoorbell fn a0 a1 a2 a3 s
  | .preempt fn a0 a1 a2 a3 => Sys2Proof.Machine.execPreempt fn a0 a1 a2 a3 s
  | .resume fn a0 a1 a2 a3 => Sys2Proof.Machine.execResume fn a0 a1 a2 a3 s
  | .kill fn a0 a1 a2 a3 => Sys2Proof.Machine.execKill fn a0 a1 a2 a3 s
  | .halt fn a0 a1 a2 a3 => Sys2Proof.Machine.execHalt fn a0 a1 a2 a3 s
  | .run fn a0 a1 a2 a3 => Sys2Proof.Machine.execRun fn a0 a1 a2 a3 s
  | .shootdown fn a0 a1 a2 a3 => Sys2Proof.Machine.execShootdown fn a0 a1 a2 a3 s
  | .reset fn a0 a1 a2 a3 => Sys2Proof.Machine.execReset fn a0 a1 a2 a3 s
  | .fwswap fn a0 a1 a2 a3 => Sys2Proof.Machine.execFwswap fn a0 a1 a2 a3 s
  | .swapVerify cp ok version => Sys2Proof.Machine.execSwapVerify cp ok version s
  | .launch queue img => Sys2Proof.Machine.execLaunch queue img s
  | .shroudRetrain shroud lanes => Sys2Proof.Machine.execShroudRetrain shroud lanes s
  | .bootVerify ok => Sys2Proof.Machine.execBootVerify ok s
  | .hbmTrain ok => Sys2Proof.Machine.execHbmTrain ok s
  | .linkTrain ok shroudsUp => Sys2Proof.Machine.execLinkTrain ok shroudsUp s
  | .pcapWrite v => Sys2Proof.Machine.execPcapWrite v s
  | .powerCheck milliwatts low10ms => Sys2Proof.Machine.execPowerCheck milliwatts low10ms s
  | .debugUnlock tokenOk => Sys2Proof.Machine.execDebugUnlock tokenOk s
  | .illegalInstruction field word => Sys2Proof.Machine.execIllegalInstruction field word s
  | .fetchFault addr => Sys2Proof.Machine.execFetchFault addr s
  | .shroudFlitArrive shroud f => Sys2Proof.Machine.execShroudFlitArrive shroud f s
  | .dynamicAddressAssign addr => Sys2Proof.Machine.execDynamicAddressAssign addr s
  | .parkTimeout => Sys2Proof.Machine.execParkTimeout s
  | .storeDrain => Sys2Proof.Machine.execStoreDrain s
  | .joinTarget => Sys2Proof.Machine.execJoinTarget s
  | .vredqSlot => Sys2Proof.Machine.execVredqSlot s
  | .pairSwap => Sys2Proof.Machine.execPairSwap s
  | .remoteArrival => Sys2Proof.Machine.execRemoteArrival s
  | .eaStart => Sys2Proof.Machine.execEaStart s
  | .eaCommit => Sys2Proof.Machine.execEaCommit s
  | .sfStart => Sys2Proof.Machine.execSfStart s
  | .sfRetire => Sys2Proof.Machine.execSfRetire s
  | .ratomicTarget => Sys2Proof.Machine.execRatomicTarget s
  | .ynop => Sys2Proof.Machine.execYnop s
  | .ymma => Sys2Proof.Machine.execYmma s
  | .yzero => Sys2Proof.Machine.execYzero s
  | .yload => Sys2Proof.Machine.execYload s
  | .ystore => Sys2Proof.Machine.execYstore s
  | .ygang => Sys2Proof.Machine.execYgang s
  | .gangForm => Sys2Proof.Machine.execGangForm s
  | .yardSchedule => Sys2Proof.Machine.execYardSchedule s
  | .yardRetire => Sys2Proof.Machine.execYardRetire s
  | .remoteStoreApply => Sys2Proof.Machine.execRemoteStoreApply s
  | .relink => Sys2Proof.Machine.execRelink s
  | .spliceSwap => Sys2Proof.Machine.execSpliceSwap s
  | .collapse => Sys2Proof.Machine.execCollapse s
  | .meetFetch => Sys2Proof.Machine.execMeetFetch s
  | .meetInstall => Sys2Proof.Machine.execMeetInstall s
  | .repoint => Sys2Proof.Machine.execRepoint s
  | .dispatch => Sys2Proof.Machine.execDispatch s
  | .handoffArrive => Sys2Proof.Machine.execHandoffArrive s
  | .stealRequest => Sys2Proof.Machine.execStealRequest s
  | .stealReply => Sys2Proof.Machine.execStealReply s
  | .stealRound => Sys2Proof.Machine.execStealRound s
  | .parkContext => Sys2Proof.Machine.execParkContext s
  | .resumeContext => Sys2Proof.Machine.execResumeContext s
  | .deliverEvent => Sys2Proof.Machine.execDeliverEvent s
  | .msgArrive => Sys2Proof.Machine.execMsgArrive s
  | .msgDispatch => Sys2Proof.Machine.execMsgDispatch s
  | .errorReply => Sys2Proof.Machine.execErrorReply s
  | .replyArrive => Sys2Proof.Machine.execReplyArrive s
  | .packetLeave => Sys2Proof.Machine.execPacketLeave s
  | .linkRetrain => Sys2Proof.Machine.execLinkRetrain s
  | .linkReroute => Sys2Proof.Machine.execLinkReroute s
  | .halyardStart => Sys2Proof.Machine.execHalyardStart s
  | .movePerform => Sys2Proof.Machine.execMovePerform s
  | .halyardComplete => Sys2Proof.Machine.execHalyardComplete s
  | .extentFill => Sys2Proof.Machine.execExtentFill s
  | .dirtyRequest => Sys2Proof.Machine.execDirtyRequest s
  | .swapTakeBack => Sys2Proof.Machine.execSwapTakeBack s
  | .swapTimeout => Sys2Proof.Machine.execSwapTimeout s
  | .launchDispatch => Sys2Proof.Machine.execLaunchDispatch s
  | .fenceRecord => Sys2Proof.Machine.execFenceRecord s
  | .nopRecord => Sys2Proof.Machine.execNopRecord s
  | .launchComplete => Sys2Proof.Machine.execLaunchComplete s
  | .taskFail => Sys2Proof.Machine.execTaskFail s
  | .priorityPreempt => Sys2Proof.Machine.execPriorityPreempt s
  | .preemptedResume => Sys2Proof.Machine.execPreemptedResume s
  | .sysMessage => Sys2Proof.Machine.execSysMessage s
  | .watchdogStep1 => Sys2Proof.Machine.execWatchdogStep1 s
  | .watchdogStep2 => Sys2Proof.Machine.execWatchdogStep2 s
  | .watchdogStep3 => Sys2Proof.Machine.execWatchdogStep3 s
  | .gangWatchdog => Sys2Proof.Machine.execGangWatchdog s
  | .alarmClass1 => Sys2Proof.Machine.execAlarmClass1 s
  | .alarmClass2 => Sys2Proof.Machine.execAlarmClass2 s
  | .alarmClass3 => Sys2Proof.Machine.execAlarmClass3 s
  | .shroudFail => Sys2Proof.Machine.execShroudFail s
  | .graphFire => Sys2Proof.Machine.execGraphFire s
  | .streamToken => Sys2Proof.Machine.execStreamToken s
  | .hostWriteReject => Sys2Proof.Machine.execHostWriteReject s
  | .powerOnReset => Sys2Proof.Machine.execPowerOnReset s
  | .warmReset => Sys2Proof.Machine.execWarmReset s
  | .fuseMapBuild => Sys2Proof.Machine.execFuseMapBuild s
  | .bringupScrub => Sys2Proof.Machine.execBringupScrub s
  | .openCommands => Sys2Proof.Machine.execOpenCommands s
  | .thermalThrottle => Sys2Proof.Machine.execThermalThrottle s
  | .thermalRecover => Sys2Proof.Machine.execThermalRecover s
  | .thermalTrip => Sys2Proof.Machine.execThermalTrip s
  | .bypass => Sys2Proof.Machine.execBypass s
  | .idcode => Sys2Proof.Machine.execIdcode s
  | .samplePreload => Sys2Proof.Machine.execSamplePreload s
  | .extest => Sys2Proof.Machine.execExtest s
  | .pcieCompletionTimeout => Sys2Proof.Machine.execPcieCompletionTimeout s
  | .verificationAvailable => Sys2Proof.Machine.execVerificationAvailable s

end Sys2Proof.Machine
end

