-- ==== Sys2Proof/Machine/Issue.lean ====
section
/-! DEFINITION. What surrounds the issue of one instruction by a strand (R72, R80, R88, R106), and the placing of one
instruction where the next issue fetches it (log entry 1). -/

namespace Sys2Proof.Machine

/-- The context that a strand runs; a halyard's hart has one. -/
def State.strandCtx (s : State) (core strand : Nat) : Nat :=
  match engineOf core with
  | .hart => ((s.mastAt (mastOf core)).hy (hyNo core)).hart
  | _ => (((s.coreAt core).strand strand).ctx).getD 0

/-- The state in which a strand's context acts. -/
def State.issuer (s : State) (core strand : Nat) : State := s.focus (s.strandCtx core strand)

/-- Whether the context that acts issues: it runs or waits, its core is not fenced (R357) and its launch is resident. -/
def State.canIssue (s : State) : Bool :=
  (s.ctx.status = .running || s.ctx.status = .waiting) && !s.core.cfence && s.runs s.cur.launch

/-- The strands after a cycle (R72, R82): the one that issues starts again at age 0, the ready ones that were not chosen grow older
to 63, the others hold; the cycle that YIELD gave away is over. -/
def ageStrands (own : Nat) (ready : List Nat) (xs : List Strand) : List Strand :=
  xs.zipIdx.map fun p =>
    { p.1 with
      age := if p.2 = own then 0 else if ready.contains p.2 then Nat.min 63 (p.1.age + 1) else p.1.age
      yielded := false }

/-- A cycle of the core that acts (R106): its clock goes on, and its strands change as `f` says. -/
def State.cycle (s : State) (f : List Strand → List Strand) : State :=
  let c := s.core
  { s.setCore { c with cyc := c.cyc + 1 + Word.of (Config.freeCycles s.freeCtr), strands := f c.strands } with
    freeCtr := s.freeCtr + 1 }

/-- The cycle in which the context that acts issues, beside ready strands; a context that waited looks again. -/
def State.tick (s : State) (ready : List Nat) : State :=
  let t := s.cycle (ageStrands s.ctx.strand ready)
  t.setCtx { t.ctx with status := .running }

/-- A cycle of a core in which none of its strands is ready. -/
def State.passCycle (s : State) (core : Nat) : State :=
  { ({ s with cur := { s.cur with core := core } }).cycle (ageStrands 4 []) with cur := s.cur }

/-- After an issue of context `k`: an instruction that did not wait, because it has completed or has trapped, ends its wait, and its
places in the lines of its mast go. -/
def State.settle (s : State) (k : Nat) : State :=
  if (s.ctxAt k).status = .waiting then s
  else
    let s := s.leaveLines k
    if (s.ctxAt k).status = .running then s.putCtx k { s.ctxAt k with waitStart := none, await := .none } else s

/-! ### Placing an instruction (log entry 6) -/

/-- The virtual and physical address of the code that `withFetchWord` makes where no strand can issue. -/
def placeBase : Nat := 0x10000

/-- A launch with one running context on core `core`, whose code image of 64 KiB starts at `placeBase`. -/
def State.placeContext (s : State) (core : Nat) : State :=
  let k := taskKey 1 core
  let s := s.putLaunch 1 { s.launchAt 1 with status := .resident, ranges := [⟨placeBase, 0x10000, 4, false⟩] }
  let s := s.putTask k { Task.init with
    live := true, launch := 1, core := core, cbase := Word.of placeBase, csize := 0x10000, tvec := Word.of placeBase
    uivec := Word.of placeBase, spillSz := 4096, locb := 0, locl := 4096
    extents := [⟨placeBase, placeBase + 0x10000, placeBase, false, false, 0⟩] }
  let p := s.newCtx k 0 .task (Word.of placeBase) 0 0 0
  p.2.focus p.1

/-- Whether the next step issues the instruction at the pc of the acting context on an engine, out of a mapped image. -/
def State.fetchReady (s : State) (e : Engine) : Bool :=
  decide (s.agenda = []) && s.canIssue && !s.deliverable && decide (s.engine = e) && decide (e ≠ .hart)
    && !s.inlineCode s.pc && s.inImage s.pc && s.inImage (s.pc + 8)
    && (match s.extentCheck s.pc 12 .fetch with | .ok _ => true | .error _ => false)

/-- Stores the bytes of an instruction at the physical place of the acting context's pc. -/
def State.storeCode (s : State) (bs : List Byte) : State :=
  match s.extentCheck s.pc 12 .fetch with
  | .ok k => { s with mem := Memory.write s.mem k bs }
  | .error _ => s

/-- The state in which the next step fetches and runs the instruction of the table's bits. -/
def State.placeWord (s : State) (nbits w : Nat) : State :=
  let e := nativeEngine (w % 2 ^ 32)
  let s := if s.fetchReady e then s
    else { s.placeContext (match e with | .tackle => 8192 | _ => 0) with agenda := [] }
  s.storeCode (tableBytes nbits w)

end Sys2Proof.Machine
end

