-- ==== Sys2Proof/Machine/Arbiter.lean ====
section
/-! DEFINITION. Who issues: the strands that are ready, the choice among them, and the parked contexts whose condition is met
(R72, R80, R82). -/

namespace Sys2Proof.Machine

/-! ### Conditions of waits -/

/-- Whether an outcome is another state. -/
def moves (s : State) (o : Host.Outcome State Fault Refusal) : Bool :=
  match o with
  | .next t => !decide (t = s)
  | _ => true

/-- Whether an instruction, executed again, only waits again: a VREDQ that would register a new entry and finds no slot to read (R80,
R252). -/
def State.starved (s : State) (i : Instr) : Bool :=
  match i with
  | .vredq _ _ q _ => !s.slotReadable q none &&
    (match exec i (s.setCtx { s.ctx with status := .running }) with | .next t => t.ctx.status = .waiting | _ => false)
  | _ => false

/-- Whether the condition of the wait of the context that acts is met: its instruction, executed again, would not leave everything
as it is; or an event is delivered. -/
def State.conditionMet (s : State) : Bool :=
  s.deliverable ||
    match s.fetchDecode with
    | .error .wait => false
    | .error _ => true
    | .ok i => moves s (exec i s) && !s.starved i

/-- The state in which a parked context would wait at its instruction, with its window filled. -/
def State.unparked (s : State) (k : Nat) : State :=
  let s := s.focus k
  let p := fillGroups 64 s.ctx s
  (p.2.setCtx p.1).waiting

/-- The parked contexts of running launches whose condition is met. -/
def State.toSignal (s : State) : List Nat :=
  (s.ctxs.filter fun p => p.2.status = .parked && s.runs p.2.launch && (s.unparked p.1).conditionMet).map (·.1)

/-- Signals the parked contexts whose condition is met: they become resumable, in the order in which they were signalled (R80). DESIGN CHOICE (log
entry 78): those whose conditions one step meets are signalled in the order of their creation, that of `ctxs`. And the lane pools serve the
resumptions that wait for reefs (R242). -/
def State.sweep (s : State) : State := (s.toSignal.foldl State.signal s).servePools

/-- Whether the context that acts waits in a VREDQ whose next slot can be read: its VREDQ_SLOT is due (R252). -/
def State.slotDue (s : State) : Bool :=
  match s.ctx.await with
  | .vredq e _ _ q c => decide (s.reg c ≠ 0) && s.slotReadable q (some e)
  | _ => false

/-- Whether the turn of an event may come: a context whose wait's condition is met is not parked (R80). -/
def State.mayHappen (s : State) (i : Instr) (p : Place) : Bool :=
  match i with
  | .parkContext => !(s.focus p.a).conditionMet && !(s.focus p.a).slotDue
  | _ => true

/-! ### The choice of a strand (R72) -/

/-- The strands of a core. -/
def strandsOf (core : Nat) : List Nat := match engineOf core with | .hart => [0] | _ => List.range 4

/-- Whether a strand is ready: its context issues, and does not wait. -/
def State.ready (s : State) (core i : Nat) : Bool :=
  let t := s.issuer core i
  t.canIssue && (t.ctx.status = .running || t.conditionMet)

/-- The strands of a core that are ready in this cycle; `stalled` are those that the core's timing holds back. -/
def State.readyStrands (s : State) (core : Nat) (stalled : List Nat) : List Nat :=
  (strandsOf core).filter fun i => !stalled.contains i && s.ready core i

/-- The effective priority of a strand. -/
def State.effPrio (s : State) (core i : Nat) : Nat :=
  bits (s.issuer core i).task.tprio 2 0 + ((s.coreAt core).strand i).age

/-- Whether strand `i` is chosen before strand `j`: one of age 63 before any younger one; else by effective priority, then by age,
then by number. -/
def State.before (s : State) (core i j : Nat) : Bool :=
  let x := ((s.coreAt core).strand i).age
  let y := ((s.coreAt core).strand j).age
  let p := s.effPrio core i
  let q := s.effPrio core j
  if (x = 63) ≠ (y = 63) then decide (x = 63)
  else decide (q < p) || (decide (p = q) && (decide (y < x) || (decide (x = y) && decide (i < j))))

/-- The strand that issues of those that are ready: a strand that has just yielded only where no other is ready (R82). -/
def State.choose (s : State) (core : Nat) (ready : List Nat) : Option Nat :=
  let fresh := ready.filter fun i => !((s.coreAt core).strand i).yielded
  let c := if fresh.isEmpty then ready else fresh
  c.find? fun i => c.all fun j => decide (i = j) || s.before core i j

/-- Whether a core number names an agent that issues: a core, a streamer core of a tackle, or a hart (R3). -/
def isAgent (core : Nat) : Bool :=
  decide (core < 8192) || (decide (8192 ≤ core) && decide (core < 8448) && decide (core % 8 < 3))
    || (decide (16384 ≤ core) && decide (core < 18432))

end Sys2Proof.Machine
end

