-- ==== Sys2Proof/Machine/RvDecode.lean ====
section
/-! DEFINITION. The instructions of the CPs' harts (R356: RV64IMAFDC, Zicsr, Zifencei, and those of the privileged architecture), and their
decoding, as the RISC-V unprivileged architecture encodes them (PRESUMED, log entry 79). -/

namespace Sys2Proof.Machine.Rv

/-- The integer operations of OP and OP-IMM. -/
inductive Alu where
  | add | sub | sll | slt | sltu | xor | srl | sra | or | and | mul | mulh | mulhsu | mulhu | div | divu | rem | remu
  deriving DecidableEq, Repr

/-- The atomic operations. -/
inductive Amo where
  | swap | add | xor | and | or | min | max | minu | maxu
  deriving DecidableEq, Repr

/-- The operations of OP-FP. `w` is the integer's width in bits (32 or 64), `u` whether it is unsigned. -/
inductive Fp where
  | add | sub | mul | div | sqrt
  | sgnj (k : Nat)
  | minMax (max : Bool)
  | compare (k : Nat)
  | toInt (w : Nat) (u : Bool)
  | ofInt (w : Nat) (u : Bool)
  | cast
  | classify | toX | ofX
  deriving DecidableEq, Repr

/-- An instruction. Offsets and immediates are sign-extended integers; `w` marks the 32-bit forms, `dbl` the double-precision ones. -/
inductive Ins where
  | lui (rd : Nat) (imm : Int)
  | auipc (rd : Nat) (imm : Int)
  | jal (rd : Nat) (off : Int)
  | jalr (rd rs : Nat) (off : Int)
  | branch (f3 rs1 rs2 : Nat) (off : Int)
  | load (f3 rd rs : Nat) (off : Int)
  | store (f3 rs2 rs1 : Nat) (off : Int)
  | opImm (a : Alu) (w : Bool) (rd rs : Nat) (imm : Int)
  | op (a : Alu) (w : Bool) (rd rs1 rs2 : Nat)
  | fence | fenceI | ecall | ebreak | mret | sret | wfi | sfence
  | csr (f3 rd src n : Nat)
  | lr (w : Bool) (rd rs : Nat)
  | sc (w : Bool) (rd rs1 rs2 : Nat)
  | amo (a : Amo) (w : Bool) (rd rs1 rs2 : Nat)
  | fload (dbl : Bool) (rd rs : Nat) (off : Int)
  | fstore (dbl : Bool) (rs2 rs1 : Nat) (off : Int)
  | fma (negProd negAdd dbl : Bool) (rd rs1 rs2 rs3 rm : Nat)
  | fp (o : Fp) (dbl : Bool) (rd rs1 rs2 rm : Nat)
  deriving DecidableEq, Repr

/-- Bits [hi:lo] of an instruction. -/
def fld (x hi lo : Nat) : Nat := (x >>> lo) % 2 ^ (hi + 1 - lo)

/-! ### Formats -/

/-- The immediates of formats I, S, B, U and J. -/
def immI (x : Nat) : Int := sextN 12 (fld x 31 20)
def immS (x : Nat) : Int := sextN 12 (fld x 31 25 * 32 + fld x 11 7)
def immB (x : Nat) : Int := sextN 13 (fld x 31 31 * 4096 + fld x 7 7 * 2048 + fld x 30 25 * 32 + fld x 11 8 * 2)
def immU (x : Nat) : Int := sextN 32 (fld x 31 12 * 4096)
def immJ (x : Nat) : Int := sextN 21 (fld x 31 31 * 1048576 + fld x 19 12 * 4096 + fld x 20 20 * 2048 + fld x 30 21 * 2)

/-! ### Words of 32 bits -/

/-- OP-IMM and OP-IMM-32: a shift's amount has six bits, of a 32-bit form five. -/
def decodeImm (x : Nat) (w : Bool) : Option Ins :=
  let rd := fld x 11 7
  let rs := fld x 19 15
  let imm := immI x
  let shift (a : Alu) (n : Nat) : Option Ins := some (.opImm a w rd rs n)
  match fld x 14 12 with
  | 0 => some (.opImm .add w rd rs imm)
  | 1 => if w then (if fld x 31 25 = 0 then shift .sll (fld x 24 20) else none)
      else if fld x 31 26 = 0 then shift .sll (fld x 25 20) else none
  | 5 =>
    if w then (if fld x 31 25 = 0 then shift .srl (fld x 24 20) else if fld x 31 25 = 32 then shift .sra (fld x 24 20) else none)
    else if fld x 31 26 = 0 then shift .srl (fld x 25 20) else if fld x 31 26 = 16 then shift .sra (fld x 25 20) else none
  | 2 => if w then none else some (.opImm .slt false rd rs imm)
  | 3 => if w then none else some (.opImm .sltu false rd rs imm)
  | 4 => if w then none else some (.opImm .xor false rd rs imm)
  | 6 => if w then none else some (.opImm .or false rd rs imm)
  | _ => if w then none else some (.opImm .and false rd rs imm)

/-- The operation of OP's funct7 and funct3, and whether it has a 32-bit form. -/
def aluOf (f7 f3 : Nat) : Option (Alu × Bool) :=
  match f7, f3 with
  | 0, 0 => some (.add, true) | 32, 0 => some (.sub, true) | 0, 1 => some (.sll, true) | 0, 2 => some (.slt, false)
  | 0, 3 => some (.sltu, false) | 0, 4 => some (.xor, false) | 0, 5 => some (.srl, true) | 32, 5 => some (.sra, true)
  | 0, 6 => some (.or, false) | 0, 7 => some (.and, false)
  | 1, 0 => some (.mul, true) | 1, 1 => some (.mulh, false) | 1, 2 => some (.mulhsu, false) | 1, 3 => some (.mulhu, false)
  | 1, 4 => some (.div, true) | 1, 5 => some (.divu, true) | 1, 6 => some (.rem, true) | 1, 7 => some (.remu, true)
  | _, _ => none

/-- OP and OP-32. -/
def decodeOp (x : Nat) (w : Bool) : Option Ins :=
  match aluOf (fld x 31 25) (fld x 14 12) with
  | some (a, both) => if w && !both then none else some (.op a w (fld x 11 7) (fld x 19 15) (fld x 24 20))
  | none => none

/-- The atomic operation of funct5. -/
def amoOf (k : Nat) : Option Amo :=
  match k with
  | 0 => some .add | 1 => some .swap | 4 => some .xor | 8 => some .or | 12 => some .and | 16 => some .min | 20 => some .max
  | 24 => some .minu | 28 => some .maxu | _ => none

/-- AMO. The bits aq and rl ask for an order that every access of a hart has. -/
def decodeAmo (x : Nat) : Option Ins :=
  let rd := fld x 11 7
  let rs1 := fld x 19 15
  let rs2 := fld x 24 20
  let w := fld x 14 12 = 2
  if fld x 14 12 ≠ 2 ∧ fld x 14 12 ≠ 3 then none
  else
    match fld x 31 27 with
    | 2 => if rs2 = 0 then some (.lr w rd rs1) else none
    | 3 => some (.sc w rd rs1 rs2)
    | k => (amoOf k).map fun a => .amo a w rd rs1 rs2

/-- SYSTEM. -/
def decodeSystem (x : Nat) : Option Ins :=
  let f3 := fld x 14 12
  if f3 = 0 then
    if fld x 31 25 = 9 ∧ fld x 11 7 = 0 then some .sfence
    else if fld x 19 7 ≠ 0 then none
    else
      match fld x 31 20 with
      | 0 => some .ecall | 1 => some .ebreak | 0x102 => some .sret | 0x302 => some .mret | 0x105 => some .wfi | _ => none
  else if f3 = 4 then none
  else some (.csr f3 (fld x 11 7) (fld x 19 15) (fld x 31 20))

/-- The integer width and sign of a conversion's rs2 field. -/
def intKind (k : Nat) : Option (Nat × Bool) :=
  match k with | 0 => some (32, false) | 1 => some (32, true) | 2 => some (64, false) | 3 => some (64, true) | _ => none

/-- OP-FP; formats other than S and D are no instructions. -/
def decodeFp (x : Nat) : Option Ins :=
  let rd := fld x 11 7
  let rs1 := fld x 19 15
  let rs2 := fld x 24 20
  let rm := fld x 14 12
  let dbl := fld x 26 25 = 1
  let ins (o : Fp) : Option Ins := some (.fp o dbl rd rs1 rs2 rm)
  if 1 < fld x 26 25 then none
  else
    match fld x 31 27 with
    | 0 => ins .add | 1 => ins .sub | 2 => ins .mul | 3 => ins .div
    | 11 => if rs2 = 0 then ins .sqrt else none
    | 4 => if rm < 3 then ins (.sgnj rm) else none
    | 5 => if rm < 2 then ins (.minMax (rm = 1)) else none
    | 8 => if rs2 < 2 ∧ decide (rs2 = 1) ≠ dbl then ins .cast else none
    | 20 => if rm < 3 then ins (.compare (2 - rm)) else none
    | 24 => (intKind rs2).bind fun k => ins (.toInt k.1 k.2)
    | 26 => (intKind rs2).bind fun k => ins (.ofInt k.1 k.2)
    | 28 => if rs2 ≠ 0 then none else if rm = 0 then ins .toX else if rm = 1 then ins .classify else none
    | 30 => if rs2 = 0 ∧ rm = 0 then ins .ofX else none
    | _ => none

/-- A word of 32 bits. -/
def decodeWord (x : Nat) : Option Ins :=
  let rd := fld x 11 7
  let rs1 := fld x 19 15
  let rs2 := fld x 24 20
  let f3 := fld x 14 12
  let fma (p a : Bool) : Option Ins := if 1 < fld x 26 25 then none else some (.fma p a (fld x 26 25 = 1) rd rs1 rs2 (fld x 31 27) f3)
  match fld x 6 0 with
  | 0x37 => some (.lui rd (immU x))
  | 0x17 => some (.auipc rd (immU x))
  | 0x6F => some (.jal rd (immJ x))
  | 0x67 => if f3 = 0 then some (.jalr rd rs1 (immI x)) else none
  | 0x63 => if f3 = 2 ∨ f3 = 3 then none else some (.branch f3 rs1 rs2 (immB x))
  | 0x03 => if f3 = 7 then none else some (.load f3 rd rs1 (immI x))
  | 0x23 => if 3 < f3 then none else some (.store f3 rs2 rs1 (immS x))
  | 0x13 => decodeImm x false
  | 0x1B => decodeImm x true
  | 0x33 => decodeOp x false
  | 0x3B => decodeOp x true
  | 0x0F => if f3 = 0 then some .fence else if f3 = 1 then some .fenceI else none
  | 0x73 => decodeSystem x
  | 0x2F => decodeAmo x
  | 0x07 => if f3 = 2 ∨ f3 = 3 then some (.fload (f3 = 3) rd rs1 (immI x)) else none
  | 0x27 => if f3 = 2 ∨ f3 = 3 then some (.fstore (f3 = 3) rs2 rs1 (immS x)) else none
  | 0x43 => fma false false
  | 0x47 => fma false true
  | 0x4B => fma true false
  | 0x4F => fma true true
  | 0x53 => decodeFp x
  | _ => none

/-! ### Compressed words -/

/-- A register of the eight that a three-bit field names. -/
def creg (n : Nat) : Nat := 8 + n

/-- The six-bit immediate of format CI. -/
def immCI (x : Nat) : Int := sextN 6 (fld x 12 12 * 32 + fld x 6 2)

/-- Quadrant 0. -/
def decodeC0 (x : Nat) : Option Ins :=
  let rd := creg (fld x 4 2)
  let rs := creg (fld x 9 7)
  let offD : Int := ((fld x 6 5 * 64 + fld x 12 10 * 8 : Nat) : Int)
  let offW : Int := ((fld x 5 5 * 64 + fld x 12 10 * 8 + fld x 6 6 * 4 : Nat) : Int)
  match fld x 15 13 with
  | 0 =>
    let n := fld x 10 7 * 64 + fld x 12 11 * 16 + fld x 5 5 * 8 + fld x 6 6 * 4
    if n = 0 then none else some (.opImm .add false rd 2 n)
  | 1 => some (.fload true rd rs offD)
  | 2 => some (.load 2 rd rs offW)
  | 3 => some (.load 3 rd rs offD)
  | 5 => some (.fstore true rd rs offD)
  | 6 => some (.store 2 rd rs offW)
  | 7 => some (.store 3 rd rs offD)
  | _ => none

/-- Quadrant 1. -/
def decodeC1 (x : Nat) : Option Ins :=
  let r := fld x 11 7
  let rs := creg (fld x 9 7)
  let r2 := creg (fld x 4 2)
  let imm := immCI x
  let shift := fld x 12 12 * 32 + fld x 6 2
  let offJ : Int := sextN 12 (fld x 12 12 * 2048 + fld x 8 8 * 1024 + fld x 10 9 * 256 + fld x 6 6 * 128 + fld x 7 7 * 64
    + fld x 2 2 * 32 + fld x 11 11 * 16 + fld x 5 3 * 2)
  let offB : Int := sextN 9 (fld x 12 12 * 256 + fld x 6 5 * 64 + fld x 2 2 * 32 + fld x 11 10 * 8 + fld x 4 3 * 2)
  match fld x 15 13 with
  | 0 => some (.opImm .add false r r imm)
  | 1 => if r = 0 then none else some (.opImm .add true r r imm)
  | 2 => some (.opImm .add false r 0 imm)
  | 3 =>
    if imm = 0 then none
    else if r = 2 then
      some (.opImm .add false 2 2 (sextN 10 (fld x 12 12 * 512 + fld x 4 3 * 128 + fld x 5 5 * 64 + fld x 2 2 * 32 + fld x 6 6 * 16)))
    else some (.lui r (imm * 4096))
  | 4 =>
    match fld x 11 10 with
    | 0 => some (.opImm .srl false rs rs shift)
    | 1 => some (.opImm .sra false rs rs shift)
    | 2 => some (.opImm .and false rs rs imm)
    | _ =>
      match fld x 12 12, fld x 6 5 with
      | 0, 0 => some (.op .sub false rs rs r2)
      | 0, 1 => some (.op .xor false rs rs r2)
      | 0, 2 => some (.op .or false rs rs r2)
      | 0, _ => some (.op .and false rs rs r2)
      | _, 0 => some (.op .sub true rs rs r2)
      | _, 1 => some (.op .add true rs rs r2)
      | _, _ => none
  | 5 => some (.jal 0 offJ)
  | 6 => some (.branch 0 rs 0 offB)
  | _ => some (.branch 1 rs 0 offB)

/-- Quadrant 2. -/
def decodeC2 (x : Nat) : Option Ins :=
  let r := fld x 11 7
  let r2 := fld x 6 2
  let offLD : Int := ((fld x 4 2 * 64 + fld x 12 12 * 32 + fld x 6 5 * 8 : Nat) : Int)
  let offLW : Int := ((fld x 3 2 * 64 + fld x 12 12 * 32 + fld x 6 4 * 4 : Nat) : Int)
  let offSD : Int := ((fld x 9 7 * 64 + fld x 12 10 * 8 : Nat) : Int)
  let offSW : Int := ((fld x 8 7 * 64 + fld x 12 9 * 4 : Nat) : Int)
  match fld x 15 13 with
  | 0 => some (.opImm .sll false r r (fld x 12 12 * 32 + r2 : Nat))
  | 1 => some (.fload true r 2 offLD)
  | 2 => if r = 0 then none else some (.load 2 r 2 offLW)
  | 3 => if r = 0 then none else some (.load 3 r 2 offLD)
  | 4 =>
    if fld x 12 12 = 0 then
      if r2 ≠ 0 then some (.op .add false r 0 r2) else if r = 0 then none else some (.jalr 0 r 0)
    else if r2 ≠ 0 then some (.op .add false r r r2)
    else if r = 0 then some .ebreak
    else some (.jalr 1 r 0)
  | 5 => some (.fstore true r2 2 offSD)
  | 6 => some (.store 2 r2 2 offSW)
  | _ => some (.store 3 r2 2 offSD)

/-- A compressed word. -/
def decodeHalf (x : Nat) : Option Ins :=
  match fld x 1 0 with | 0 => decodeC0 x | 1 => decodeC1 x | 2 => decodeC2 x | _ => none

/-- Whether the first half of an instruction is all of it. -/
def isHalf (h : Nat) : Bool := decide (fld h 1 0 ≠ 3)

end Sys2Proof.Machine.Rv
end

