-- ==== Sys2Proof/Machine/RvFloat.lean ====
section
/-! DEFINITION. The floating-point arithmetic of the CPs' harts (R356: RV64 with F and D): IEEE 754 with RISC-V's five rounding modes, exception
flags and canonical NaN (PRESUMED, log entry 79). A value is a bit pattern of its format, and a result comes with its flags. -/

namespace Sys2Proof.Machine.Rv

/-- A result and its flags: 16 invalid, 8 divide by zero, 4 overflow, 2 underflow, 1 inexact. -/
abbrev FRes := Nat × Nat

/-- The two formats. -/
def fmt (dbl : Bool) : Fmt := if dbl then ETy.fmt .f64 else ETy.fmt .f32

/-- Whether a pattern is a NaN, and whether it is a signalling one. -/
def isNan (f : Fmt) (x : Nat) : Bool := decide (f.maxFin + 1 < x % 2 ^ (f.ebits + f.mbits))
def isSnan (f : Fmt) (x : Nat) : Bool := isNan f x && !x.testBit (f.mbits - 1)

/-- 16 where one of the operands is a signalling NaN. -/
def snans (f : Fmt) (xs : List Nat) : Nat := if xs.any (isSnan f) then 16 else 0

/-- The canonical NaN of an invalid operation. -/
def invalid (f : Fmt) : FRes := (f.nan, 16)

/-- Whether a magnitude with the fraction `r / q` dropped rounds away from zero: modes 0 RNE, 1 RTZ, 2 RDN, 3 RUP, 4 RMM. -/
def away (rm : Nat) (s : Bool) (n r q : Nat) : Bool :=
  match rm with
  | 0 => decide (q < 2 * r) || (decide (2 * r = q) && decide (n % 2 = 1))
  | 1 => false
  | 2 => s && decide (r ≠ 0)
  | 3 => !s && decide (r ≠ 0)
  | _ => decide (q ≤ 2 * r)

/-- `num / den * 2 ^ sh` as a truncated integer, the fraction dropped, and what it is a fraction of. -/
def scaled (num den : Nat) (sh : Int) : Nat × Nat × Nat :=
  let a := if 0 ≤ sh then num * 2 ^ sh.toNat else num
  let b := if 0 ≤ sh then den else den * 2 ^ (-sh).toNat
  (a / b, a % b, b)

/-- The pattern of an overflow. -/
def overflow (f : Fmt) (rm : Nat) (s : Bool) : Nat :=
  if rm = 1 ∨ (rm = 2 ∧ !s) ∨ (rm = 3 ∧ s) then f.signed s f.maxFin else f.infinity s

/-- Rounds (-1)^s * (num / den) * 2^e once, with overflow, underflow (tininess is looked for after rounding) and inexact. -/
def round (f : Fmt) (rm : Nat) (s : Bool) (num den : Nat) (e : Int) : FRes :=
  if num = 0 then (f.signed s 0, 0)
  else
    let top := ratLog2 num den + e
    let qmin := 1 - f.bias - f.mbits
    let q := if top - f.mbits < qmin then qmin else top - f.mbits
    let p := scaled num den (e - q)
    let n := if away rm s p.1 p.2.1 p.2.2 then p.1 + 1 else p.1
    let mag := (q - qmin).toNat * 2 ^ f.mbits + n
    if f.maxFin < mag then (overflow f rm s, 5)
    else
      let nx := if p.2.1 = 0 then 0 else 1
      let u := scaled num den (e - (top - f.mbits))
      let m := if away rm s u.1 u.2.1 u.2.2 then u.1 + 1 else u.1
      let tiny := decide (top < 1 - f.bias) && (decide (top < -f.bias) || decide (m < 2 ^ (f.mbits + 1)))
      (f.signed s mag, if nx = 1 && tiny then 3 else nx)

/-- Rounds an exact value that is no NaN. -/
def ofVal (f : Fmt) (rm : Nat) : FVal → FRes
  | .nan => (f.nan, 0)
  | .inf s => (f.infinity s, 0)
  | .fin s m e => round f rm s m 1 e

/-- The rounding mode that an exact sum of zero looks at. -/
def zeroMode (rm : Nat) : Rnd := if rm = 2 then .rd else .rne

/-- The rounded value of an exact one that the operands give: a NaN that no operand was is an invalid operation. -/
def result (f : Fmt) (rm : Nat) (xs : List Nat) (v : FVal) : FRes :=
  if xs.any (isNan f) then (f.nan, snans f xs)
  else if v = .nan then invalid f
  else ofVal f rm v

/-- FADD. -/
def add (f : Fmt) (rm x y : Nat) : FRes := result f rm [x, y] (FVal.add (zeroMode rm) (f.decode x) (f.decode y))

/-- FSUB. -/
def sub (f : Fmt) (rm x y : Nat) : FRes := result f rm [x, y] (FVal.add (zeroMode rm) (f.decode x) (f.decode y).neg)

/-- FMUL. -/
def mul (f : Fmt) (rm x y : Nat) : FRes := result f rm [x, y] (FVal.mul (f.decode x) (f.decode y))

/-- The fused forms: the product with a sign, plus or minus the third operand. An infinity times zero is invalid beside a quiet NaN too. -/
def fma (f : Fmt) (negProd negAdd : Bool) (rm x y z : Nat) : FRes :=
  let p := FVal.mul (f.decode x) (f.decode y)
  let p := if negProd then p.neg else p
  let c := if negAdd then (f.decode z).neg else f.decode z
  if p = .nan ∧ !isNan f x ∧ !isNan f y then invalid f
  else result f rm [x, y, z] (FVal.add (zeroMode rm) p c)

/-- FDIV. -/
def div (f : Fmt) (rm x y : Nat) : FRes :=
  if isNan f x || isNan f y then (f.nan, snans f [x, y])
  else
    match f.decode x, f.decode y with
    | .inf _, .inf _ => invalid f
    | .inf s, .fin t _ _ => (f.infinity (s != t), 0)
    | .fin s _ _, .inf t => (f.signed (s != t) 0, 0)
    | .fin s m e, .fin t n g =>
      if n = 0 then (if m = 0 then invalid f else (f.infinity (s != t), 8)) else round f rm (s != t) m n (e - g)
    | _, _ => (f.nan, 0)

/-- FSQRT. -/
def sqrt (f : Fmt) (rm x : Nat) : FRes :=
  match f.decode x with
  | .nan => (f.nan, snans f [x])
  | .inf s => if s then invalid f else (x, 0)
  | .fin s m e =>
    if m = 0 then (x, 0)
    else if s then invalid f
    else
      let odd := e.emod 2
      let n := m * 2 ^ (128 + odd.toNat)
      let r := isqrtFrom 96 n 0
      round f rm false (2 * r + (if r * r = n then 0 else 1)) 1 ((e - odd) / 2 - 65)

/-- FMIN and FMAX: of a NaN and a number the number, of the zeros -0 the smaller. -/
def minMax (f : Fmt) (max : Bool) (x y : Nat) : FRes :=
  let r :=
    if isNan f x then (if isNan f y then f.nan else y)
    else if isNan f y then x
    else
      let c := FVal.cmp (f.decode x) (f.decode y)
      let below := if c = 0 then x.testBit (f.ebits + f.mbits) else decide (c < 0)
      if below != max then x else y
  (r, snans f [x, y])

/-- FEQ (0), FLT (1) and FLE (2): a quiet NaN is invalid for the last two. -/
def compare (f : Fmt) (k x y : Nat) : FRes :=
  if isNan f x || isNan f y then (0, if k = 0 then snans f [x, y] else 16)
  else
    let c := FVal.cmp (f.decode x) (f.decode y)
    (if (match k with | 0 => decide (c = 0) | 1 => decide (c < 0) | _ => decide (c ≤ 0)) then 1 else 0, 0)

/-- FCLASS. -/
def classify (f : Fmt) (x : Nat) : Nat :=
  let s := x.testBit (f.ebits + f.mbits)
  match f.decode x with
  | .nan => if isSnan f x then 256 else 512
  | .inf _ => if s then 1 else 128
  | .fin _ m _ =>
    if m = 0 then (if s then 8 else 16)
    else if x % 2 ^ (f.ebits + f.mbits) < 2 ^ f.mbits then (if s then 4 else 32)
    else if s then 2 else 64

/-- A value as an integer of a range, rounded; out of range it is invalid and the nearest end, and a NaN is the greatest. -/
def toInt (f : Fmt) (rm : Nat) (lo hi : Int) (x : Nat) : Int × Nat :=
  match f.decode x with
  | .nan => (hi, 16)
  | .inf s => (if s then lo else hi, 16)
  | .fin s m e =>
    let p := scaled m 1 e
    let n := if away rm s p.1 p.2.1 p.2.2 then p.1 + 1 else p.1
    let i : Int := if s then -(n : Int) else n
    if i < lo then (lo, 16) else if hi < i then (hi, 16) else (i, if p.2.1 = 0 then 0 else 1)

/-- An integer as a value. -/
def ofInteger (f : Fmt) (rm : Nat) (i : Int) : FRes := round f rm (decide (i < 0)) i.natAbs 1 0

/-- A value of one format in the other. -/
def cast (dst src : Fmt) (rm x : Nat) : FRes :=
  if isNan src x then (dst.nan, snans src [x]) else ofVal dst rm (src.decode x)

end Sys2Proof.Machine.Rv
end

