-- ==== Sys2Proof/Machine/Riscv.lean ====
section
/-! DEFINITION. A step of a CP's hart (R356): its memory with Sv57, the execution of its instructions, and its turn. The instructions are those
of the RISC-V architecture, which R356 names (PRESUMED, log entry 79). -/

namespace Sys2Proof.Machine

open Rv (Ins Alu Amo Fp FRes)

/-- What a part of an instruction gives, or the cause and the value of its exception. -/
abbrev RvEx (α : Type) := Except (Nat × Word) α

/-- The hart of a CP. -/
def State.cpHart (s : State) (cp : Nat) : Hart := (s.cpAt cp).hart

/-- Replaces the hart of a CP. -/
def State.putHart (s : State) (cp : Nat) (h : Hart) : State := s.putCp cp { s.cpAt cp with hart := h }

/-! ### Memory -/

/-- The three kinds of access. -/
inductive RvAcc where
  | fetch | load | store
  deriving DecidableEq, Repr

/-- The causes of an access fault and of a page fault. -/
def RvAcc.accessFault : RvAcc → Nat
  | .fetch => 1 | .load => 5 | .store => 7
def RvAcc.pageFault : RvAcc → Nat
  | .fetch => 12 | .load => 13 | .store => 15

/-- Whether a physical address is one of R345's targets, and what lies there can be read. -/
def State.physOk (s : State) (pa n : Nat) : Bool := (isHbm pa || isHostKey pa) && (s.badDouble pa n).isNone

/-- Whether a leaf entry permits an access in a mode, with its accessed and dirty bits set. -/
def leafOk (st pte : Word) (mode : Nat) (a : RvAcc) : Bool :=
  (match a with
   | .fetch => bit pte 3
   | .load => bit pte 1 || (bit st 19 && bit pte 3)
   | .store => bit pte 2 && bit pte 7)
  && bit pte 6 && (if mode = 0 then bit pte 4 else !bit pte 4 || (bit st 18 && a ≠ .fetch))

/-- The walk of an address from the table at `tbl` of level `i`: Sv39, Sv48 and Sv57 begin at level 2, 3 and 4. -/
def State.rvWalk (s : State) (st : Word) (mode : Nat) (a : RvAcc) (v : Word) : Nat → Nat → Nat → RvEx Nat
  | 0, _, _ => .error (a.pageFault, v)
  | f + 1, i, tbl =>
    let k := tbl + 8 * (bits v (12 + 9 * i + 8) (12 + 9 * i))
    let e := s.dbl k
    let ppn := bits e 53 10
    if !s.physOk k 8 then .error (a.accessFault, v)
    else if !bit e 0 || (!bit e 1 && bit e 2) || bits e 63 54 ≠ 0 then .error (a.pageFault, v)
    else if bit e 1 || bit e 3 then
      if leafOk st e mode a && decide (ppn % 2 ^ (9 * i) = 0) then .ok (ppn * 4096 + v.toNat % 2 ^ (12 + 9 * i))
      else .error (a.pageFault, v)
    else if i = 0 ∨ bits e 7 6 ≠ 0 ∨ bit e 4 then .error (a.pageFault, v)
    else s.rvWalk st mode a v f (i - 1) (ppn * 4096)

/-- The mode in which a hart makes an access: its own, or that of MPP for loads and stores under MPRV. -/
def Hart.accMode (h : Hart) (a : RvAcc) : Nat :=
  if a ≠ .fetch && h.mode = 3 && bit h.mstatus 17 then bits h.mstatus 12 11 else h.mode

/-- The physical address of an access: M mode reaches physical addresses directly (R356). -/
def State.rvTranslate (s : State) (h : Hart) (a : RvAcc) (v : Word) : RvEx Nat :=
  let m := h.accMode a
  let levels := if m = 3 then 0 else if bits h.satp 63 60 = 0 then 0 else bits h.satp 63 60 - 5
  if levels = 0 then .ok v.toNat
  else if ofInt (sextN (12 + 9 * levels) v.toNat) ≠ v then .error (a.pageFault, v)
  else s.rvWalk h.mstatus m a v levels (levels - 1) (bits h.satp 43 0 * 4096)

/-- The place of an aligned access of `n` bytes. -/
def State.rvPlace (s : State) (h : Hart) (a : RvAcc) (n : Nat) (v : Word) : RvEx Nat := do
  if v.toNat % n ≠ 0 then .error ((match a with | .fetch => 0 | .load => 4 | .store => 6), v)
  let k ← s.rvTranslate h a v
  if s.physOk k n then .ok k else .error (a.accessFault, v)

/-- Reads `n` bytes as a number. -/
def State.rvRead (s : State) (h : Hart) (a : RvAcc) (n : Nat) (v : Word) : RvEx Nat := do
  let k ← s.rvPlace h a n v
  .ok (ofBytes (Memory.read s.mem k n))

/-- Writes `n` bytes. -/
def State.rvWrite (s : State) (h : Hart) (n : Nat) (v : Word) (w : Nat) : RvEx State := do
  let k ← s.rvPlace h .store n v
  .ok (s.write k (toBytes n w))

/-- The instruction at the pc: its bits and whether it has only half a word. -/
def State.rvFetch (s : State) (h : Hart) : RvEx (Nat × Bool) := do
  let lo ← s.rvRead h .fetch 2 h.pc
  if Rv.isHalf lo then .ok (lo, true)
  else
    let hi ← s.rvRead h .fetch 2 (h.pc + 2)
    .ok (lo + 65536 * hi, false)

/-! ### Integer operations -/

/-- A 32-bit result, sign-extended. -/
def wordOf (i : Int) : Word := ofInt (sextN 32 (ofInt i).toNat)

/-- The result of an integer operation: of all 64 bits, or of the low 32. -/
def Rv.Alu.apply (a : Alu) (w : Bool) (x y : Word) : Word :=
  let n := if w then 32 else 64
  let sx := sextN n x.toNat
  let sy := sextN n y.toNat
  let ux := x.toNat % 2 ^ n
  let uy := y.toNat % 2 ^ n
  let sh := y.toNat % n
  let r : Int :=
    match a with
    | .add => sx + sy
    | .sub => sx - sy
    | .sll => ((ux * 2 ^ sh : Nat) : Int)
    | .slt => if sx < sy then 1 else 0
    | .sltu => if ux < uy then 1 else 0
    | .xor => (x ^^^ y).toInt
    | .srl => ((ux / 2 ^ sh : Nat) : Int)
    | .sra => sx / (2 ^ sh : Nat)
    | .or => (x ||| y).toInt
    | .and => (x &&& y).toInt
    | .mul => sx * sy
    | .mulh => sx * sy / (2 ^ 64 : Nat)
    | .mulhsu => sx * (uy : Int) / (2 ^ 64 : Nat)
    | .mulhu => ((ux * uy / 2 ^ 64 : Nat) : Int)
    | .div => if sy = 0 then -1 else sx.tdiv sy
    | .divu => if uy = 0 then -1 else ((ux / uy : Nat) : Int)
    | .rem => if sy = 0 then sx else sx.tmod sy
    | .remu => if uy = 0 then sx else ((ux % uy : Nat) : Int)
  if w then wordOf r else ofInt r

/-- The new value of an atomic operation on `n` bits. -/
def Rv.Amo.apply (a : Amo) (n old v : Nat) : Nat :=
  let so := sextN n old
  let sv := sextN n v
  match a with
  | .swap => v
  | .add => (old + v) % 2 ^ n
  | .xor => old ^^^ v
  | .and => old &&& v
  | .or => old ||| v
  | .min => if so ≤ sv then old else v
  | .max => if so ≤ sv then v else old
  | .minu => Nat.min old v
  | .maxu => Nat.max old v

/-- Whether a branch of funct3 is taken. -/
def branchTaken (f3 : Nat) (x y : Word) : Bool :=
  match f3 with
  | 0 => x = y
  | 1 => x ≠ y
  | 4 => x.toInt < y.toInt
  | 5 => y.toInt ≤ x.toInt
  | 6 => x.toNat < y.toNat
  | _ => y.toNat ≤ x.toNat

/-- The value of a load of funct3: signed for 0 to 3. -/
def loadValue (f3 v : Nat) : Word := if f3 < 4 then ofInt (sextN (8 * 2 ^ f3) v) else Word.of v

/-! ### Floating point -/

/-- The least and the greatest integer of a width. -/
def intRange (w : Nat) (u : Bool) : Int × Int :=
  if u then (0, (2 ^ w : Nat) - 1) else (-((2 ^ (w - 1) : Nat) : Int), (2 ^ (w - 1) : Nat) - 1)

/-- The sign injections: the sign of y, its opposite, or the exclusive or of both. -/
def signInject (f : Fmt) (k x y : Nat) : Nat :=
  let n := f.ebits + f.mbits
  let s := match k with | 0 => y.testBit n | 1 => !y.testBit n | _ => x.testBit n != y.testBit n
  f.signed s (x % 2 ^ n)

/-- An operation of OP-FP; `rm` is the rounding mode. -/
def Hart.fpOp (h : Hart) (o : Fp) (dbl : Bool) (rd rs1 rs2 rm : Nat) : Hart :=
  let f := Rv.fmt dbl
  let x := h.freg dbl rs1
  let y := h.freg dbl rs2
  let value (r : FRes) : Hart := (h.setFreg rd (boxed dbl r.1)).raise r.2
  let toX (v : Word) (flags : Nat) : Hart := (h.setReg rd v).raise flags
  match o with
  | .add => value (Rv.add f rm x y)
  | .sub => value (Rv.sub f rm x y)
  | .mul => value (Rv.mul f rm x y)
  | .div => value (Rv.div f rm x y)
  | .sqrt => value (Rv.sqrt f rm x)
  | .sgnj k => value (signInject f k x y, 0)
  | .minMax m => value (Rv.minMax f m x y)
  | .compare k => let r := Rv.compare f k x y; toX (Word.of r.1) r.2
  | .toInt w u =>
    let r := Rv.toInt f rm (intRange w u).1 (intRange w u).2 x
    toX (if w = 32 then wordOf r.1 else ofInt r.1) r.2
  | .ofInt w u =>
    let v := h.reg rs1
    value (Rv.ofInteger f rm (if u then ((v.toNat % 2 ^ w : Nat) : Int) else sextN w v.toNat))
  | .cast => value (Rv.cast f (Rv.fmt !dbl) rm (h.freg (!dbl) rs1))
  | .classify => h.setReg rd (Word.of (Rv.classify f x))
  | .toX => h.setReg rd (if dbl then h.f.get rs1 0 else ofInt (sextN 32 (h.f.get rs1 0).toNat))
  | .ofX => h.setFreg rd (boxed dbl (h.reg rs1).toNat)

/-- The rounding mode of an instruction: its own, or the dynamic one; none where it is reserved. -/
def Hart.rounding (h : Hart) (rm : Nat) : Option Nat :=
  let r := if rm = 7 then bits h.fcsr 7 5 else rm
  if r < 5 then some r else none

/-- Whether an operation of OP-FP rounds: for the others the field is part of the operation. -/
def Rv.Fp.rounds : Fp → Bool
  | .sgnj _ | .minMax _ | .compare _ | .classify | .toX | .ofX => false
  | _ => true

/-! ### Control and status registers -/

/-- A register of either kind as a hart reads it: the device's own (R356), or a standard one; none where there is none of this number or
the hart's mode may not reach it. -/
def State.rvCsr (s : State) (cp n : Nat) : Option Word :=
  let h := s.cpHart cp
  if h.mode < n / 256 % 4 then none
  else if (cpMode n).isSome then some (s.cpCsr cp n)
  else h.csr cp n

/-- Writes a register of either kind. -/
def State.setRvCsr (s : State) (cp n : Nat) (v : Word) : State :=
  if (cpMode n).isSome then s.setCpCsr cp n v else s.putHart cp ((s.cpHart cp).setCsr n v)

/-- A CSR instruction: write (1), set (2) or clear (3), from a register or (5 to 7) from an immediate. Set and clear with x0 or 0 do not
write, and a register that can only be read refuses a write. -/
def State.csrOp (s : State) (cp f3 rd src n : Nat) : Option State :=
  match s.rvCsr cp n with
  | none => none
  | some old =>
    let writes := f3 % 4 = 1 || src ≠ 0
    let v := if f3 < 4 then (s.cpHart cp).reg src else Word.of src
    let new := match f3 % 4 with | 1 => v | 2 => old ||| v | _ => old &&& ~~~v
    if writes && decide (3 ≤ n / 1024) then none
    else
      let t := if writes then s.setRvCsr cp n new else s
      some (t.putHart cp ((t.cpHart cp).setReg rd old))

/-! ### Execution -/

/-- The hart goes on behind its instruction of `n` bytes. -/
def Hart.next (h : Hart) (n : Nat) : Hart := { h with pc := h.pc + Word.of n }

/-- LR: the place of the word and what was read there. -/
def State.rvLr (s : State) (cp n len rd : Nat) (v : Word) : RvEx State := do
  let h := s.cpHart cp
  let k ← s.rvPlace h .load n v
  let bs := Memory.read s.mem k n
  .ok (s.putHart cp (({ h with resv := some (k, bs) }.setReg rd (ofInt (sextN (8 * n) (ofBytes bs)))).next len))

/-- SC: it fails without a reservation of this place, or where the bytes there have changed; else whether it succeeds is free, as an
implementation may let it fail (log entry 79). -/
def State.rvSc (s : State) (cp n len rd : Nat) (v : Word) (w : Nat) : RvEx State := do
  let h := s.cpHart cp
  let k ← s.rvPlace h .store n v
  let f := s.takeFree
  let ok := decide (h.resv = some (k, Memory.read s.mem k n)) && f.1.getLsbD 0
  let t := if ok then f.2.write k (toBytes n w) else f.2
  .ok (t.putHart cp (({ h with resv := none }.setReg rd (if ok then 0 else 1)).next len))

/-- An atomic operation. -/
def State.rvAmo (s : State) (cp n len rd : Nat) (a : Amo) (v : Word) (w : Nat) : RvEx State := do
  let h := s.cpHart cp
  let k ← s.rvPlace h .store n v
  let old := ofBytes (Memory.read s.mem k n)
  let t := s.write k (toBytes n (a.apply (8 * n) old (w % 2 ^ (8 * n))))
  .ok (t.putHart cp ((h.setReg rd (ofInt (sextN (8 * n) old))).next len))

/-- One instruction of `len` bytes, of the bits `x`, on the hart of a CP. -/
def State.rvExec (s : State) (cp x len : Nat) (i : Ins) : RvEx State :=
  let h := s.cpHart cp
  let illegal : RvEx State := .error (2, Word.of x)
  let go (h : Hart) : RvEx State := .ok (s.putHart cp (h.next len))
  let jump (h : Hart) (pc : Word) : RvEx State := .ok (s.putHart cp { h with pc := pc })
  let link (rd : Nat) : Hart := h.setReg rd (h.pc + Word.of len)
  let ea (rs : Nat) (off : Int) : Word := h.reg rs + ofInt off
  let fp (r : RvEx State) : RvEx State := if h.fpOn then r else illegal
  match i with
  | .lui rd imm => go (h.setReg rd (ofInt imm))
  | .auipc rd imm => go (h.setReg rd (h.pc + ofInt imm))
  | .jal rd off => jump (link rd) (h.pc + ofInt off)
  | .jalr rd rs off => jump (link rd) (ea rs off &&& ~~~1)
  | .branch f3 a b off => if branchTaken f3 (h.reg a) (h.reg b) then jump h (h.pc + ofInt off) else go h
  | .load f3 rd rs off => do
    let v ← s.rvRead h .load (2 ^ (f3 % 4)) (ea rs off)
    go (h.setReg rd (loadValue f3 v))
  | .store f3 rs2 rs1 off => do
    let t ← s.rvWrite h (2 ^ f3) (ea rs1 off) (h.reg rs2).toNat
    .ok (t.putHart cp (h.next len))
  | .opImm a w rd rs imm => go (h.setReg rd (a.apply w (h.reg rs) (ofInt imm)))
  | .op a w rd rs1 rs2 => go (h.setReg rd (a.apply w (h.reg rs1) (h.reg rs2)))
  | .fence => go h
  | .fenceI => go h
  | .wfi => go h
  | .sfence => if h.mode = 0 || (h.mode = 1 && bit h.mstatus 20) then illegal else go h
  | .ecall => .error (8 + h.mode, 0)
  | .ebreak => .error (3, h.pc)
  | .mret => if h.mode = 3 then .ok (s.putHart cp h.mret) else illegal
  | .sret => if h.mode = 0 || (h.mode = 1 && bit h.mstatus 22) then illegal else .ok (s.putHart cp h.sret)
  | .csr f3 rd src n =>
    match s.csrOp cp f3 rd src n with
    | some t => .ok (t.putHart cp ((t.cpHart cp).next len))
    | none => illegal
  | .lr w rd rs => s.rvLr cp (if w then 4 else 8) len rd (h.reg rs)
  | .sc w rd rs1 rs2 => s.rvSc cp (if w then 4 else 8) len rd (h.reg rs1) (h.reg rs2).toNat
  | .amo a w rd rs1 rs2 => s.rvAmo cp (if w then 4 else 8) len rd a (h.reg rs1) (h.reg rs2).toNat
  | .fload dbl rd rs off => fp (do
    let v ← s.rvRead h .load (if dbl then 8 else 4) (ea rs off)
    go (h.setFreg rd (boxed dbl v)))
  | .fstore dbl rs2 rs1 off => fp (do
    let t ← s.rvWrite h (if dbl then 8 else 4) (ea rs1 off) (h.f.get rs2 0).toNat
    .ok (t.putHart cp (h.next len)))
  | .fma np na dbl rd rs1 rs2 rs3 rm => fp (match h.rounding rm with
    | some m =>
      let r := Rv.fma (Rv.fmt dbl) np na m (h.freg dbl rs1) (h.freg dbl rs2) (h.freg dbl rs3)
      go ((h.setFreg rd (boxed dbl r.1)).raise r.2)
    | none => illegal)
  | .fp o dbl rd rs1 rs2 rm => fp (match (if o.rounds then h.rounding rm else some 0) with
    | some m => go (h.fpOp o dbl rd rs1 rs2 m)
    | none => illegal)

/-- The count of retired instructions after an instruction: one that writes it leaves what it wrote. -/
def retired (i : Ins) (h : Hart) : Hart :=
  match i with
  | .csr _ _ _ 0xB02 => h
  | _ => if bit h.mcountinhibit 2 then h else { h with minstret := h.minstret + 1 }

/-- Fetches, decodes and executes the instruction at the pc of a CP's hart. -/
def State.rvStep (s : State) (cp : Nat) : RvEx State := do
  let f ← s.rvFetch (s.cpHart cp)
  match (if f.2 then Rv.decodeHalf f.1 else Rv.decodeWord f.1) with
  | none => .error (2, Word.of f.1)
  | some i => do
    let t ← s.rvExec cp f.1 (if f.2 then 2 else 4) i
    .ok (t.putHart cp (retired i (t.cpHart cp)))

/-- A cycle count of a CP goes on (R16), by one and what its timing adds (log entry 3). -/
def State.cpTick (s : State) (cp : Nat) : State :=
  let h := s.cpHart cp
  if bit h.mcountinhibit 0 then s
  else { s.putHart cp { h with mcycle := h.mcycle + 1 + Word.of (Config.freeCycles s.freeCtr) } with freeCtr := s.freeCtr + 1 }

/-- The hart of a CP takes an interrupt, or executes the instruction at its pc, or takes that one's exception. -/
def State.cpAct (s : State) (cp : Nat) : State :=
  match (s.cpHart cp).interrupt with
  | some c => s.putHart cp ((s.cpHart cp).trap true c 0)
  | none =>
    match s.rvStep cp with
    | .ok t => t
    | .error e => s.putHart cp ((s.cpHart cp).trap false e.1 e.2)

/-- The turn of a CP, from stage 2 of bring-up on, when its image has been verified (R397). -/
def State.cpTurn (s : State) (cp : Nat) : State := if 8 ≤ cp ∨ s.plat.stage < 2 then s else (s.cpTick cp).cpAct cp

end Sys2Proof.Machine
end

