-- ==== Sys2Proof/Machine/Step.lean ====
section
/-! DEFINITION. One step of the device: the agenda names who acts next; where it is empty, the acting context issues. -/

namespace Sys2Proof.Machine

/-- The outcome of an issue of context `k`, after which its wait is over where it did not wait. -/
def settled (k : Nat) (o : Host.Outcome State Fault Refusal) : Host.Outcome State Fault Refusal :=
  match o with
  | .next u => .next (u.settle k)
  | .fault f => .fault f
  | .refused r => .refused r

/-- One issue by the acting context, beside ready strands of its core: it delivers a pending user-level event (R88), or fetches,
decodes and executes the instruction at its pc. A context that may not issue does nothing. -/
def issue (ready : List Nat) (s : State) : Host.Outcome State Fault Refusal :=
  if s.canIssue then
    let t := s.tick ready
    if t.deliverable then .next t.deliver
    else
      match t.fetchDecode with
      | .error e => settled t.cur.ctx (t.finish (.error e))
      | .ok i => settled t.cur.ctx (exec i t)
  else .next s

/-- A cycle of a core: the ready strand that R72 chooses issues; where none is ready, the cycle passes. -/
def coreCycle (core : Nat) (stalled : List Nat) (s : State) : Host.Outcome State Fault Refusal :=
  if isAgent core then
    let ready := s.readyStrands core stalled
    match s.choose core ready with
    | some i => issue ready (s.issuer core i)
    | none => .next (s.passCycle core)
  else .fault (.noSuchAgent core)

/-- An event at its place, if it may happen now; the acting context stays the same. -/
def event (i : Instr) (p : Place) (s : State) : Host.Outcome State Fault Refusal :=
  if s.mayHappen i p then
    match exec i { s with place := p } with
    | .next t => .next { t with cur := s.cur }
    | .fault f => .fault f
    | .refused r => .refused r
  else .next s

/-- The turn of whoever acts next. -/
def turn (s : State) : Host.Outcome State Fault Refusal :=
  match s.agenda with
  | [] => issue [] s
  | .issue core stalled :: rest => coreCycle core stalled { s with agenda := rest }
  | .event i p :: rest => event i p { s with agenda := rest }
  | .ccmd fn code :: rest => .next ({ s with agenda := rest }.strayCommand fn code.toNat)
  | .cp n :: rest => .next ({ s with agenda := rest }.cpTurn n)

/-- One step: a turn, after which the parked contexts whose condition is met are signalled (R80) and the lane pools serve (R242). -/
def step (s : State) : Host.Outcome State Fault Refusal :=
  match turn s with
  | .next t => .next t.sweep
  | .fault f => .fault f
  | .refused r => .refused r

/-- The state with one instruction, given as the opcode table numbers its bits, where the next step fetches it. -/
def State.withFetchWord (s : State) (nbits w : Nat) : State := s.placeWord nbits w

end Sys2Proof.Machine
end

