-- ==== Sys2Proof/Safety.lean ====
section
/-! DEFINITION. What counts as a safe state and a safe run, and what a step may change: the terms that the statements use. -/

namespace Sys2Proof

/-- The next state of a step, where it has one. -/
def next? (s : Machine.State) : Option Machine.State :=
  match Machine.step s with
  | .next t => some t
  | _ => none

/-- The machine goes on from a state. -/
def goesOn (s : Machine.State) : Prop := ∃ t, Machine.step s = .next t

/-- A set of states that every step keeps: the form of an invariant. -/
def keptByStep (inv : Machine.State → Prop) : Prop := ∀ s t, inv s → Machine.step s = .next t → inv t

/-- A state that some number of steps reaches from `s`. -/
inductive Reaches (s : Machine.State) : Machine.State → Prop where
  | refl : Reaches s s
  | step {t u : Machine.State} : Reaches s t → Machine.step t = .next u → Reaches s u

namespace Machine

/-! ### Frames -/

/-- From `s` to `t` nothing changes but the acting context's window entries and pc, and the shared registers of its task:
no other context, no other task, no CSR, no byte of memory, and nothing of cores, masts, launches, packets or the device. -/
def regsOnly (s t : State) : Prop :=
  { t with ctxs := s.ctxs, tasks := s.tasks } = s ∧
  (∀ k, k ≠ s.cur.ctx → t.ctxAt k = s.ctxAt k) ∧
  (∀ k, k ≠ s.cur.task → t.taskAt k = s.taskAt k) ∧
  { t.ctx with file := s.ctx.file, pc := s.ctx.pc } = s.ctx ∧
  { t.task with globals := s.task.globals } = s.task ∧
  ∀ a, Memory.get t.mem a = Memory.get s.mem a

/-- The entries of the window file that lie outside the 32 of the window are unchanged. -/
def sameBelow (s t : State) : Prop :=
  ∀ e, (∀ i, i < 32 → e ≠ (s.ctx.base + i) % 128) → t.ctx.file.get e 0 = s.ctx.file.get e 0

/-- An instruction of `n` words wrote `v` to `d` and went on: d holds v (g0 stays zero), every other register, the rest of
the state and every byte of memory are unchanged. -/
def wrote (n : Nat) (d : Reg) (v : Word) (s t : State) : Prop :=
  t.pc = s.pc + Word.of (4 * n) ∧ t.reg d = (if d = .g 0 then 0 else v) ∧ (∀ r, r ≠ d → t.reg r = s.reg r) ∧
    sameBelow s t ∧ regsOnly s t

/-- Only the pc changed, to `a`: every register, every CSR and every byte of memory are unchanged. -/
def jumped (a : Word) (s t : State) : Prop := t.pc = a ∧ (∀ r, t.reg r = s.reg r) ∧ sameBelow s t ∧ regsOnly s t

/-- An instruction of `n` words went on and changed nothing else. -/
def wentOn (n : Nat) (s t : State) : Prop := jumped (s.pc + Word.of (4 * n)) s t

/-- Nothing changes but the acting context. -/
def ctxOnly (s t : State) : Prop := { t with ctxs := s.ctxs } = s ∧ ∀ k, k ≠ s.cur.ctx → t.ctxAt k = s.ctxAt k

/-- Every byte of memory is as it was. -/
def sameMemory (s t : State) : Prop := ∀ a, Memory.get t.mem a = Memory.get s.mem a

/-- Every register is as it was. -/
def sameRegs (s t : State) : Prop := ∀ r, t.reg r = s.reg r

/-- An instruction of `n` words that also acts on a unit wrote `v` to `d` (g0 stays zero) and went on: every other register and
every byte of memory are unchanged. -/
def answered (n : Nat) (d : Reg) (v : Word) (s t : State) : Prop :=
  t.pc = s.pc + Word.of (4 * n) ∧ t.reg d = (if d = .g 0 then 0 else v) ∧ (∀ r, r ≠ d → t.reg r = s.reg r) ∧ sameMemory s t

/-- An instruction of `n` words that acts on a unit went on: every register and every byte of memory are unchanged. -/
def acted (n : Nat) (s t : State) : Prop := t.pc = s.pc + Word.of (4 * n) ∧ sameRegs s t ∧ sameMemory s t

/-- The instruction waits at its pc (R205, R264): the context is waiting, and every register and byte of memory are unchanged. -/
def waits (s t : State) : Prop := t.pc = s.pc ∧ t.ctx.status = .waiting ∧ sameRegs s t ∧ sameMemory s t

/-- The memory of a state is in its canonical form. -/
def memoryForm (s : State) : Prop := Memory.wf s.mem = true

/-- A branch was taken to `a` (R98): the loop entries of this frame whose body does not hold `a` are gone (R102), and nothing
else but the pc has changed. -/
def branched (a : Word) (s t : State) : Prop :=
  t.pc = a ∧ t.ctx.loops = leaveLoops s.ctx.base a s.ctx.loops ∧ sameRegs s t ∧ ctxOnly s t ∧
    { t.ctx with pc := s.ctx.pc, loops := s.ctx.loops } = s.ctx

/-- The bytes that spilling `g` groups of window entries writes (R75). -/
def spillBytes (c : Context) (g a : Nat) : Prop :=
  ∃ j, j < g ∧ spillKey c (c.wsp + Word.of (32 * j)) ≤ a ∧ a < spillKey c (c.wsp + Word.of (32 * j)) + 32

/-- Nothing changes but memory, its check bits, tasks and the acting context, and of that context nothing but its window and spill
pointer, its pc, the trap CSRs, its status and its wait: not its store buffer, its lanes and vector registers, its loops or another CSR. -/
def trapFrame (s t : State) : Prop :=
  { t with ctxs := s.ctxs, tasks := s.tasks, mem := s.mem, ecc := s.ecc } = s ∧ (∀ k, k ≠ s.cur.ctx → t.ctxAt k = s.ctxAt k) ∧
  { t.ctx with
    file := s.ctx.file, base := s.ctx.base, low := s.ctx.low, wsp := s.ctx.wsp, pc := s.ctx.pc, trapcause := s.ctx.trapcause
    trapaddr := s.ctx.trapaddr, trapinfo := s.ctx.trapinfo, trappc := s.ctx.trappc, intrap := s.ctx.intrap
    status := s.ctx.status, waitStart := s.ctx.waitStart, await := s.ctx.await } = s.ctx

/-- The trap entry of R83 was taken: the trap CSRs hold the cause, its values and the address to return to, the handler runs at
tvec in a fresh window of zeros, and the shared registers, the loop stack, every byte outside the spilled entries and the rest of the
machine are unchanged. -/
def tookTrap (cause : Nat) (addr info ret : Word) (s t : State) : Prop :=
  t.ctx.trapcause = BitVec.ofNat 8 cause ∧ t.ctx.trapaddr = addr ∧ t.ctx.trapinfo = info ∧ t.ctx.trappc = ret ∧
    t.ctx.intrap = true ∧ t.ctx.status = .running ∧ t.pc = s.task.tvec ∧ (∀ i, t.reg (.w i) = 0) ∧
    (∀ i, t.reg (.g i) = s.reg (.g i)) ∧ t.ctx.base = s.ctx.base + 32 ∧ t.ctx.loops = s.ctx.loops ∧ trapFrame s t ∧
    (memoryForm s → ∀ a, ¬ spillBytes s.ctx (slideGroups s.ctx 32) a → Memory.get t.mem a = Memory.get s.mem a)

/-- The context can take a trap into its handler: it is no halyard hart, and no trap handler of it runs. -/
def canTrap (s : State) : Prop := s.engine ≠ .hart ∧ s.ctx.intrap = false

/-! ### Conditions of accesses -/

/-- A load of `n` bytes at `ea` finds what it needs: its address passes the checks of R109 with the memory key `key`, the
moves that a hart has queued before are performed (R318, R325), no older scoreboard entry writes there (R201), no command that the context has stored before is still to be registered (R239), and no double
it meets is uncorrectable (R129). -/
def readable (s : State) (ea : Word) (n key : Nat) : Prop :=
  s.memCheck ea n .load s.loadSpaces = .ok key ∧ s.moved = true ∧
    (space ea = 0x9 → s.posting = false ∧ (s.engine ≠ .tackle → s.sbFree false (keyOff key) n = true)) ∧
    s.badDouble key n = none

/-- What a load reads: memory with the context's own buffered stores laid over it (R114, R325). -/
def loadedBytes (s : State) (ea : Word) (n key : Nat) : Nat := ofBytes (forward s.ctx.storeBuf ea (Memory.read s.mem key n))

/-- A store of `n` bytes at `ea` finds what it needs: its address passes the checks of R109 with the memory key `key`, it meets
no armed barrier object (R228), and a yard window slot it names is not busy (R212). -/
def storable (s : State) (ea : Word) (n key : Nat) : Prop :=
  s.memCheck ea n .store s.storeSpaces = .ok key ∧
    (space ea = 0x9 → s.mast.touchesArmed (keyOff key) n = false) ∧
    (inYardWindow ea = true → s.engine = .mast → (s.core.yslots.get (ySlotKey s.cur.launch (yardSlot ea)) YSlot.init).busy = false)

/-- An atomic on the double at `ea` finds what it needs (R115, R201, R228, R318, R333). -/
def atomicReady (s : State) (ea : Word) (spc key : Nat) : Prop :=
  s.memCheck ea 8 .atomic [spc] = .ok key ∧ (space ea = 0x9 → s.mast.touchesArmed (keyOff key) 8 = false) ∧
    s.released = true ∧ s.moved = true ∧ s.ownStores ea 8 = false ∧ (space ea = 0x9 → s.engine ≠ .tackle → s.sbFree true (keyOff key) 8 = true) ∧
    s.badDouble key 8 = none

/-- The send share of a network has room for `n` bytes (R290); a hart needs none (R304). -/
def hasRoom (s : State) (net n : Nat) : Prop := s.engine = .hart ∨ n ≤ s.task.sqFree net

end Machine

end Sys2Proof
end

