-- ==== Sys2Proof/Certificates/Slice0/Obligations.lean ====
section
/-! DEFINITION. The statements for the provers. Each one says which rules of the manual it formalises. -/

open Sys2Proof Sys2Proof.Machine

/-! ### Registers and scalar integer instructions (R21, R29, R45, R90 to R94) -/

/-- R21: g0 reads zero and discards writes; every other register reads what was written last, and a write leaves the other
registers and memory alone. -/
def Obligations.RegisterReadsAfterWrite : Prop :=
  ∀ (s : State) (d r : Reg) (v : Word),
    s.reg (.g 0) = 0 ∧ s.setReg (.g 0) v = s ∧
    (d ≠ .g 0 → (s.setReg d v).reg d = v) ∧ (r ≠ d → (s.setReg d v).reg r = s.reg r) ∧
    (s.setReg d v).pc = s.pc ∧ ∀ a, Memory.get (s.setReg d v).mem a = Memory.get s.mem a

/-- R91, R45, R14, R29: ADD to SEQ complete in every state and at every type, and write the result of the type, narrowed and
extended; a zero divisor gives all ones and leaves the dividend. -/
def Obligations.IntegerArithmeticResults : Prop :=
  ∀ (s : State) (t : ITy) (d : Reg) (a b : Src),
    (∃ u, exec (.add t d a b) s = .next u ∧ wrote 1 d (t.wrap (s.isrc t a + s.isrc t b)) s u) ∧
    (∃ u, exec (.sub t d a b) s = .next u ∧ wrote 1 d (t.wrap (s.isrc t a - s.isrc t b)) s u) ∧
    (∃ u, exec (.mul t d a b) s = .next u ∧ wrote 1 d (t.wrap (s.isrc t a * s.isrc t b)) s u) ∧
    (∃ u, exec (.mulh t d a b) s = .next u ∧
      wrote 1 d (t.wrap ((s.isrc t a * s.isrc t b).fdiv (2 ^ t.width : Nat))) s u) ∧
    (∃ u, exec (.div t d a b) s = .next u ∧
      wrote 1 d (t.wrap (if s.isrc t b = 0 then -1 else (s.isrc t a).tdiv (s.isrc t b))) s u) ∧
    (∃ u, exec (.rem t d a b) s = .next u ∧
      wrote 1 d (t.wrap (if s.isrc t b = 0 then s.isrc t a
        else s.isrc t a - (s.isrc t a).tdiv (s.isrc t b) * s.isrc t b)) s u) ∧
    (∃ u, exec (.min t d a b) s = .next u ∧
      wrote 1 d (t.wrap (if s.isrc t a ≤ s.isrc t b then s.isrc t a else s.isrc t b)) s u) ∧
    (∃ u, exec (.max t d a b) s = .next u ∧
      wrote 1 d (t.wrap (if s.isrc t a ≤ s.isrc t b then s.isrc t b else s.isrc t a)) s u) ∧
    (∃ u, exec (.slt t d a b) s = .next u ∧ wrote 1 d (if s.isrc t a < s.isrc t b then 1 else 0) s u) ∧
    (∃ u, exec (.seq t d a b) s = .next u ∧ wrote 1 d (if s.isrc t a = s.isrc t b then 1 else 0) s u)

/-- R14: a DIV or REM by zero does not trap, at any type: the quotient is all ones at the type's width and extended as its type
(R29), and the remainder is the dividend. -/
def Obligations.DivisionByZeroDoesNotTrap : Prop :=
  ∀ (s : State) (t : ITy) (d : Reg) (a b : Src), s.isrc t b = 0 →
    (∃ u, exec (.div t d a b) s = .next u ∧ wrote 1 d (t.wrap (-1)) s u) ∧
    (∃ u, exec (.rem t d a b) s = .next u ∧ wrote 1 d (t.wrap (s.isrc t a)) s u) ∧
    (t.wrap (-1)).toNat % 2 ^ t.width = 2 ^ t.width - 1 ∧ t.val (t.wrap (s.isrc t a)) = s.isrc t a

/-- R91: AND to ROT complete in every state and work on 64 bits; a shift count is y[5:0]. R92: the counts and the extensions
complete in every state. A count of a zero operand is its width. R93, R94: BFX takes `len` bits from `pos` and extends them by
its type; BFI replaces just those bits of d; LI writes its immediate, its literal or a constant. Each completes in every state,
for every field that is not reserved. -/
def Obligations.BitwiseCountFieldAndImmediateResults : Prop :=
  (∀ (s : State) (d : Reg) (a b : Src),
     (∃ u, exec (.and d a b) s = .next u ∧ wrote 1 d (s.src a &&& s.src b) s u) ∧
     (∃ u, exec (.or d a b) s = .next u ∧ wrote 1 d (s.src a ||| s.src b) s u) ∧
     (∃ u, exec (.xor d a b) s = .next u ∧ wrote 1 d (s.src a ^^^ s.src b) s u) ∧
     (∃ u, exec (.andn d a b) s = .next u ∧ wrote 1 d (s.src a &&& ~~~(s.src b)) s u) ∧
     (∃ u, exec (.shl d a b) s = .next u ∧ wrote 1 d (s.src a <<< ((s.src b).toNat % 64)) s u) ∧
     (∃ u, exec (.shr d a b) s = .next u ∧ wrote 1 d (s.src a >>> ((s.src b).toNat % 64)) s u) ∧
     (∃ u, exec (.sra d a b) s = .next u ∧ wrote 1 d ((s.src a).sshiftRight ((s.src b).toNat % 64)) s u) ∧
     (∃ u, exec (.rot d a b) s = .next u ∧ wrote 1 d ((s.src a).rotateLeft ((s.src b).toNat % 64)) s u)) ∧
  (∀ (s : State) (t : BTy) (d : Reg) (a : Src),
     (∃ u, exec (.clz t d a) s = .next u ∧ wrote 1 d (Word.of (clzN (bwidth t) (s.src a).toNat)) s u) ∧
     (∃ u, exec (.ctz t d a) s = .next u ∧ wrote 1 d (Word.of (ctzFrom (bwidth t) (s.src a).toNat 0)) s u) ∧
     (∃ u, exec (.popc t d a) s = .next u ∧ wrote 1 d (Word.of (popcN (bwidth t) (s.src a).toNat)) s u) ∧
     ((s.src a).toNat % 2 ^ bwidth t = 0 →
       (∃ u, exec (.clz t d a) s = .next u ∧ wrote 1 d (Word.of (bwidth t)) s u) ∧
       (∃ u, exec (.ctz t d a) s = .next u ∧ wrote 1 d (Word.of (bwidth t)) s u) ∧
       (∃ u, exec (.popc t d a) s = .next u ∧ wrote 1 d 0 s u)) ∧
     (∃ u, exec (.sextI8 d a) s = .next u ∧ wrote 1 d (((s.src a).truncate 8).signExtend 64) s u) ∧
     (∃ u, exec (.sextI16 d a) s = .next u ∧ wrote 1 d (((s.src a).truncate 16).signExtend 64) s u) ∧
     (∃ u, exec (.sextI32 d a) s = .next u ∧ wrote 1 d (((s.src a).truncate 32).signExtend 64) s u) ∧
     (∃ u, exec (.zextN8 d a) s = .next u ∧ wrote 1 d (((s.src a).truncate 8).zeroExtend 64) s u) ∧
     (∃ u, exec (.zextN16 d a) s = .next u ∧ wrote 1 d (((s.src a).truncate 16).zeroExtend 64) s u) ∧
     (∃ u, exec (.zextN32 d a) s = .next u ∧ wrote 1 d (((s.src a).truncate 32).zeroExtend 64) s u)) ∧
  (∀ (s : State) (d : Reg) (a : Src) (pos : BitVec 6) (len : BitVec 7) (imm : BitVec 10) (lit : BitVec 32) (k : Fin 512),
     (WellFormed (.bfi d a pos len) = true →
       (∃ u, exec (.bfx true d a pos len) s = .next u ∧
         wrote 2 d (Word.of ((s.src a).toNat / 2 ^ pos.toNat % 2 ^ len.toNat)) s u) ∧
       (∃ u, exec (.bfx false d a pos len) s = .next u ∧
         wrote 2 d (ofInt (sextN len.toNat ((s.src a).toNat / 2 ^ pos.toNat))) s u) ∧
       (∃ u v, exec (.bfi d a pos len) s = .next u ∧ wrote 2 d v s u ∧
         ∀ i, i < 64 → v.getLsbD i = (if pos.toNat ≤ i ∧ i < pos.toNat + len.toNat then (s.src a).getLsbD (i - pos.toNat)
           else (s.reg d).getLsbD i))) ∧
     (∃ u, exec (.li d imm) s = .next u ∧ wrote 1 d (imm.signExtend 64) s u) ∧
     (∃ u, exec (.liLit32 d lit) s = .next u ∧ wrote 2 d (lit.signExtend 64) s u) ∧
     (∃ u, exec (.liCidx d k) s = .next u ∧ wrote 2 d (s.launch.consts.get k.val 0) s u))

/-! ### Scalar floating point (R95 to R97, R48 to R52) -/

/-- R95, R96: the two-operand and fused instructions complete in every state, with one rounding in the mode that the word names;
the upper half of an .f32 result is zero (R29). FCMP writes its code as an integer. R97, R52: FSQRT completes in every state.
FCVT completes in every state: it converts its source once and touches nothing but d. The source is that of its register or
constant; a literal gives an integer type the bits of its value, and a floating-point type that holds its value exactly the bits
of that value (R28). Of a literal that an EF8 type does not hold exactly the source is the free value that Config keeps for it
(log entry 2), about which nothing is said. -/
def Obligations.FloatResults : Prop :=
  (∀ (s : State) (r : Rnd) (d : Reg) (a b : Src),
     let x := s.fsrc .f32 a
     let y := s.fsrc .f32 b
     let X := s.fsrc .f64 a
     let Y := s.fsrc .f64 b
     let f := ETy.fmt .f32
     let F := ETy.fmt .f64
     (∃ u, exec (.faddF32 r d a b) s = .next u ∧ wrote 1 d (Word.of (fAdd f r x y % 2 ^ 32)) s u) ∧
     (∃ u, exec (.faddF64 r d a b) s = .next u ∧ wrote 1 d (Word.of (fAdd F r X Y)) s u) ∧
     (∃ u, exec (.fsubF32 r d a b) s = .next u ∧ wrote 1 d (Word.of (fSub f r x y % 2 ^ 32)) s u) ∧
     (∃ u, exec (.fsubF64 r d a b) s = .next u ∧ wrote 1 d (Word.of (fSub F r X Y)) s u) ∧
     (∃ u, exec (.fmulF32 r d a b) s = .next u ∧ wrote 1 d (Word.of (fMul f r x y % 2 ^ 32)) s u) ∧
     (∃ u, exec (.fmulF64 r d a b) s = .next u ∧ wrote 1 d (Word.of (fMul F r X Y)) s u) ∧
     (∃ u, exec (.fmaF32 r d a b) s = .next u ∧
       wrote 1 d (Word.of (fFma f r x y ((s.reg d).toNat % 2 ^ 32) % 2 ^ 32)) s u) ∧
     (∃ u, exec (.fmaF64 r d a b) s = .next u ∧ wrote 1 d (Word.of (fFma F r X Y (s.reg d).toNat)) s u) ∧
     (∃ u, exec (.fdivF32 r d a b) s = .next u ∧ wrote 1 d (Word.of (fDiv f r x y % 2 ^ 32)) s u) ∧
     (∃ u, exec (.fdivF64 r d a b) s = .next u ∧ wrote 1 d (Word.of (fDiv F r X Y)) s u) ∧
     (∃ u, exec (.fminF32 d a b) s = .next u ∧ wrote 1 d (Word.of (fMin f x y % 2 ^ 32)) s u) ∧
     (∃ u, exec (.fmaxF32 d a b) s = .next u ∧ wrote 1 d (Word.of (fMax f x y % 2 ^ 32)) s u) ∧
     (∃ u, exec (.fcmpF32 d a b) s = .next u ∧ wrote 1 d (Word.of (fCmp f x y)) s u) ∧
     (∃ u, exec (.fminF64 d a b) s = .next u ∧ wrote 1 d (Word.of (fMin F X Y)) s u) ∧
     (∃ u, exec (.fmaxF64 d a b) s = .next u ∧ wrote 1 d (Word.of (fMax F X Y)) s u) ∧
     (∃ u, exec (.fcmpF64 d a b) s = .next u ∧ wrote 1 d (Word.of (fCmp F X Y)) s u)) ∧
  (∀ (s : State) (t : FTy) (dst src : ETy) (r : Rnd) (d : Reg) (a : Src),
     (∃ u, exec (.fsqrt t r d a) s = .next u ∧
       wrote 1 d (Word.of (fSqrt (ftyEty t).fmt r (s.fsrc (ftyEty t) a) % 2 ^ (ftyEty t).width)) s u) ∧
     (∃ u v, exec (.fcvt dst src r d a) s = .next u ∧ wrote 1 d (dst.toReg (convert dst src r .mode v)) s u ∧
       ((∀ l, a ≠ .lit l) ∨ src.isInt = true → v = (s.src a).toNat % 2 ^ src.width) ∧
       (∀ l, a = .lit l → src.isInt = false → litExact src l = true → v = litBits src l.toInt)))

/-! ### Control (R75 to R102) -/

/-- R35, R98, R102, R23, R24: NOP goes on; a branch whose condition holds goes to its target and leaves loops; the others go on
behind their words. The hint changes nothing (R33). -/
def Obligations.BranchesAndNop : Prop :=
  ∀ (s : State) (t : ITy) (lk : Bool) (c d : Reg) (off : BitVec 15) (far : BitVec 32) (n : BitVec 12) (y : Src),
    let go := s.pc + off.signExtend 64 * 4
    let x := t.val (s.reg c)
    (∃ u, exec (.nop d n) s = .next u ∧ wentOn 1 s u) ∧
    (∃ u, exec (.br off) s = .next u ∧ branched go s u) ∧
    (∃ u, exec (.brFar far) s = .next u ∧ branched (s.pc + far.signExtend 64 * 4) s u) ∧
    (∃ u, exec (.bz t lk c off) s = .next u ∧ if x = 0 then branched go s u else wentOn 1 s u) ∧
    (∃ u, exec (.bnz t lk c off) s = .next u ∧ if x = 0 then wentOn 1 s u else branched go s u) ∧
    (∃ u, exec (.beq t lk c off y) s = .next u ∧ if x = s.isrc t y then branched go s u else wentOn 2 s u) ∧
    (∃ u, exec (.bne t lk c off y) s = .next u ∧ if x = s.isrc t y then wentOn 2 s u else branched go s u) ∧
    (∃ u, exec (.blt t lk c off y) s = .next u ∧ if x < s.isrc t y then branched go s u else wentOn 2 s u) ∧
    (∃ u, exec (.bge t lk c off y) s = .next u ∧ if x < s.isrc t y then wentOn 2 s u else branched go s u)

/-- R23: a format B instruction that goes to its target goes to the address of its first word plus four times its sign-extended
offset: BR always, BZ and BNZ when they are taken, CALL where it is possible, and LOOP with a zero count to the word behind it
(its LEND); the reach is -65,536 to +65,532 bytes, and an offset of zero names the instruction itself. -/
def Obligations.FormatBTargets : Prop :=
  ∀ (s : State) (t : ITy) (lk : Bool) (c : Reg) (f : Nat) (off : BitVec 15),
    let go := s.pc + ofInt (off.toInt * 4)
    (∃ u, exec (.br off) s = .next u ∧ u.pc = go) ∧
    (t.val (s.reg c) = 0 → ∃ u, exec (.bz t lk c off) s = .next u ∧ u.pc = go) ∧
    (t.val (s.reg c) ≠ 0 → ∃ u, exec (.bnz t lk c off) s = .next u ∧ u.pc = go) ∧
    (frameOk f = true → slideFits s.ctx f 512 = true → go.toNat % 4 = 0 → ∃ u, exec (.call f off) s = .next u ∧ u.pc = go) ∧
    (s.reg c = 0 → ∃ u, exec (.loop c off) s = .next u ∧ u.pc = go + 4) ∧
    -65536 ≤ off.toInt * 4 ∧ off.toInt * 4 ≤ 65532 ∧ (off = 0 → go = s.pc)

/-- R77, R76, R75: a call to an aligned target whose slide fits puts the link word into w[f-1], raises depth and B, hands the
upper 32 - f registers to the callee as its lowest, zeroes the rest of the new window, and writes no byte but those it spills.
-/
def Obligations.CallsSlideTheWindow : Prop :=
  ∀ (s : State) (f : Nat) (off : BitVec 15) (far : BitVec 32) (a : RcSrc),
    let called (f n : Nat) (target : Word) (u : State) : Prop :=
      u.pc = target ∧ u.ctx.depth = s.ctx.depth + 1 ∧ u.ctx.base = s.ctx.base + f ∧
      u.ctx.file.get ((s.ctx.base + f - 1) % 128) 0 = linkWord f (s.pc + Word.of (4 * n)) ∧
      (∀ i j : Fin 32, j.val = i.val + f → u.reg (.w i) = s.reg (.w j)) ∧
      (∀ i : Fin 32, 32 ≤ i.val + f → u.reg (.w i) = 0) ∧
      (∀ i, u.reg (.g i) = s.reg (.g i)) ∧ u.ctx.loops = s.ctx.loops ∧
      (memoryForm s → ∀ b, ¬ spillBytes s.ctx (slideGroups s.ctx f) b → Memory.get u.mem b = Memory.get s.mem b)
    (frameOk f = true → slideFits s.ctx f 512 = true →
      (s.target off).toNat % 4 = 0 → ∃ u, exec (.call f off) s = .next u ∧ called f 1 (s.target off) u) ∧
    (frameOk f = true → slideFits s.ctx f 512 = true →
      (s.rc a).toNat % 4 = 0 → ∃ u, exec (.callx f a) s = .next u ∧ called f 1 (s.rc a) u) ∧
    (slideFits s.ctx 28 512 = true →
      (s.farTarget far).toNat % 4 = 0 → ∃ u, exec (.callFar far) s = .next u ∧ called 28 2 (s.farTarget far) u)

/-- R78, R102: RET with a call behind it and a link word with a frame goes to the link's address, lowers depth and B, pops the
loop entries above, and writes no byte of memory; without a call, or without a frame, it takes cause 0x09. Where a link word
names a frame larger than B, that B becomes 0 is the model's choice (log entry 74). -/
def Obligations.ReturnFollowsTheLink : Prop :=
  ∀ (s : State),
    let link := s.entry (s.ctx.base - 1)
    (s.ctx.depth ≠ 0 → bits link 63 61 ≠ 0 →
      ∃ u, exec .ret s = .next u ∧ u.pc = Word.of (bits link 60 0) ∧ u.ctx.depth = s.ctx.depth - 1 ∧
        u.ctx.base = s.ctx.base - 4 * bits link 63 61 ∧ sameMemory s u ∧
        (∀ i, u.reg (.g i) = s.reg (.g i)) ∧
        u.ctx.loops = s.ctx.loops.dropWhile (fun e => decide (u.ctx.base < e.base))) ∧
    (canTrap s → s.ctx.depth = 0 → ∃ u, exec .ret s = .next u ∧ tookTrap 0x09 s.pc 1 s.pc s u) ∧
    (canTrap s → s.ctx.depth ≠ 0 → bits link 63 61 = 0 → ∃ u, exec .ret s = .next u ∧ tookTrap 0x09 s.pc 2 s.pc s u)

/-- R99, R100: LOOP with count 0, and LFOR whose first value is past its limit, go on behind their LEND; otherwise they push an
entry where fewer than eight stand. No register and no byte changes. R101: LEND at the end of the top entry's body counts it
down, or steps its register; the loop goes round again or is popped. -/
def Obligations.LoopsEnterAndEnd : Prop :=
  (∀ (s : State) (t : ITy) (c : Reg) (off : BitVec 15) (limit step : Src),
     let stop := s.pc + off.signExtend 64 * 4
     let entered (k : LoopKind) (start : Word) (u : State) : Prop :=
       u.ctx.loops = ⟨k, start, stop, s.ctx.base⟩ :: s.ctx.loops ∧ u.pc = start ∧ sameRegs s u ∧ ctxOnly s u
     let v := t.val (s.reg c)
     let lim := s.isrc t limit
     let st := sextN t.width (s.src step).toNat
     (s.reg c = 0 → ∃ u, exec (.loop c off) s = .next u ∧ jumped (stop + 4) s u) ∧
     (s.reg c ≠ 0 → s.ctx.loops.length < 8 →
       ∃ u, exec (.loop c off) s = .next u ∧ entered (.count (s.reg c)) (s.pc + 4) u) ∧
     (¬ ((0 < st ∧ v < lim) ∨ (st < 0 ∧ lim < v)) →
       ∃ u, exec (.lfor t c off limit step) s = .next u ∧ jumped (stop + 4) s u) ∧
     ((0 < st ∧ v < lim) ∨ (st < 0 ∧ lim < v) → s.ctx.loops.length < 8 →
       ∃ u, exec (.lfor t c off limit step) s = .next u ∧
         entered (.induct c t (s.src limit) (s.src step)) (s.pc + 8) u)) ∧
  (∀ (s : State) (e : LoopEntry) (rest : List LoopEntry),
     s.ctx.loops = e :: rest → e.base = s.ctx.base → s.pc = e.stop →
     (∀ n, e.kind = .count n →
       ∃ u, exec .lend s = .next u ∧ sameRegs s u ∧ ctxOnly s u ∧
         (if n - 1 = 0 then u.pc = s.pc + 4 ∧ u.ctx.loops = rest
          else u.pc = e.start ∧ u.ctx.loops = { e with kind := .count (n - 1) } :: rest)) ∧
     (∀ c t lim step, e.kind = .induct c t lim step →
       let v := t.wrap (t.val (s.reg c) + sextN t.width step.toNat)
       let st := sextN t.width step.toNat
       ∃ u, exec .lend s = .next u ∧ u.reg c = (if c = .g 0 then 0 else v) ∧ (∀ r, r ≠ c → u.reg r = s.reg r) ∧ sameMemory s u ∧
         (if (0 < st ∧ t.val v < t.val lim) ∨ (st < 0 ∧ t.val lim < t.val v) then u.pc = e.start ∧ u.ctx.loops = e :: rest
          else u.pc = s.pc + 4 ∧ u.ctx.loops = rest)))

/-- R72, R81, R82: PARK ends with 0 while an event is pending and with 1 when its timeout has passed; YIELD goes on, sets its
strand's age to 0 and gives the core's next cycle away. PARK_TIMEOUT ends a waiting PARK with 1, and makes a parked one
resumable. R72: of ready strands one is always chosen: a strand that has just yielded only where all have, one of age 63 before
the younger ones, else by priority plus age, then by age, then the lowest number. -/
def Obligations.ParkAndYieldComplete : Prop :=
  (∀ (s : State) (d : Reg) (x : Src),
    (s.ctx.pending ≠ [] → ∃ u, exec (.park d x) s = .next u ∧ wrote 1 d 0 s u) ∧
    (∀ e t start, s.ctx.pending = [] → s.ctx.await = .park e t start → s.ctx.waitStart = some start → t ≠ 0 →
      t ≤ s.core.cyc - start → ∃ u, exec (.park d x) s = .next u ∧ wrote 1 d 1 s u) ∧
    (∃ u, exec .yield s = .next u ∧ u.pc = s.pc + 4 ∧ sameRegs s u ∧ sameMemory s u ∧
      (u.core.strand s.ctx.strand).age = 0 ∧
      (s.ctx.strand < s.core.strands.length → (u.core.strand s.ctx.strand).yielded = true) ∧ { u with ctxs := s.ctxs, cores := s.cores } = s)) ∧
  (∀ (s : State) (d : Reg) (t start : Word),
    let a := s.focus s.place.a
    a.ctx.await = .park d t start → t ≠ 0 → t ≤ a.core.cyc - start → a.ctx.pending = [] →
    (a.ctx.status = .waiting →
      ∃ u, exec .parkTimeout s = .next u ∧ u.reg d = (if d = .g 0 then 0 else 1) ∧ u.pc = a.pc + 4 ∧
        u.ctx.status = .running ∧ sameMemory s u) ∧
    (a.ctx.status = .parked →
      ∃ u, exec .parkTimeout s = .next u ∧ u.ctx.status = .resumable ∧ u.core.parked = a.core.parked ++ [s.place.a] ∧
        sameRegs a u ∧ sameMemory s u)) ∧
  (∀ (s : State) (core : Nat) (ready : List Nat),
    (ready ≠ [] → ∃ n, s.choose core ready = some n) ∧
    ∀ n, s.choose core ready = some n → n ∈ ready ∧ ∀ j ∈ ready, j ≠ n →
      let x := (s.coreAt core).strand n
      let y := (s.coreAt core).strand j
      (x.yielded = true → y.yielded = true) ∧
      (y.yielded = false ∨ x.yielded = true → (y.age = 63 → x.age = 63) ∧
        ((x.age = 63 ↔ y.age = 63) → s.effPrio core j ≤ s.effPrio core n ∧
          (s.effPrio core j = s.effPrio core n → y.age ≤ x.age ∧ (y.age = x.age → n < j)))))

/-! ### Traps (R83 to R88, R38 to R40) -/

/-- R83: a trap of a context that is in no trap handler saves its cause, its values and the return address, and enters the
handler. -/
def Obligations.TrapEntrySavesAndEnters : Prop :=
  ∀ (s : State) (cause : Nat) (addr info ret : Word),
    canTrap s → tookTrap cause addr info ret s (s.trapEntry cause addr info ret)

/-- R85: a trap inside a trap handler stops the context; the trap CSRs keep the first trap, dcause receives the new cause, the
task has failed and its launch has a failure; every other context is as it was. -/
def Obligations.DoubleTrapStopsTheContext : Prop :=
  ∀ (s : State) (cause : Nat) (addr info ret : Word),
    s.engine ≠ .hart → s.ctx.intrap = true →
    let u := s.trapEntry cause addr info ret
    u.ctx.status = .failed ∧ u.ctx.dcause = BitVec.ofNat 8 cause ∧ u.ctx.trapcause = s.ctx.trapcause ∧
      u.ctx.trapaddr = s.ctx.trapaddr ∧ u.ctx.trappc = s.ctx.trappc ∧ u.ctx.trapinfo = s.ctx.trapinfo ∧ u.pc = s.pc ∧
      u.task.failed = true ∧ (u.launchAt s.task.launch).failure ≠ none ∧ sameMemory s u ∧
      ∀ k, k ≠ s.cur.ctx → u.ctxAt k = s.ctxAt k

/-- R87, R38 to R40, R394: BKPT and a TRAP with a non-zero source take their trap and return behind themselves; a TRAP with a
zero source goes on. An illegal instruction takes 0x01 with its field and word, and a fetch that fails 0x04 with its address and
the trapinfo 0 that the model chooses (log entry 9); both return to the pc. A load from host memory whose read fails takes 0x0E
at its address, with the load's pc. -/
def Obligations.SoftwareAndDecodeTraps : Prop :=
  ∀ (s : State) (a : Src) (imm : BitVec 10) (field : Nat) (word : IWord) (addr : Word),
    (s.src a = 0 → ∃ u, exec (.trap a imm) s = .next u ∧ wentOn 1 s u) ∧
    (canTrap s →
      (s.src a ≠ 0 → ∃ u, exec (.trap a imm) s = .next u ∧ tookTrap 0x14 s.pc (imm.signExtend 64) (s.pc + 4) s u) ∧
      (∃ u, exec (.bkpt imm) s = .next u ∧ tookTrap 0x13 s.pc (imm.signExtend 64) (s.pc + 4) s u) ∧
      (∃ u, exec (.illegalInstruction field word) s = .next u ∧
        tookTrap 0x01 s.pc (Word.of (field * 2 ^ 32 + word.toNat)) s.pc s u) ∧
      (∃ u, exec (.fetchFault addr) s = .next u ∧ tookTrap 0x04 addr 0 s.pc s u)) ∧
    (∀ i ea n k, let c := s.focus s.place.a
      canTrap c → c.ctx.status = .running ∨ c.ctx.status = .waiting → c.fetchDecode = .ok i → c.loadEa i = some (ea, n) →
      space ea = 0x0 → c.memCheck ea n .load c.loadSpaces = .ok k → isHostKey k = true →
      ∃ u, exec .pcieCompletionTimeout s = .next u ∧ tookTrap 0x0E ea 0 c.pc c u)

/-- R86: ERET leaves the trap handler for trappc, else the event handler for uipc; elsewhere it takes 0x15 with 0xFFF. It slides
back a whole window, pops the loop entries above, and writes no byte of memory. Where B is below 32, that B becomes 0 is the
model's choice (log entry 74). -/
def Obligations.ReturnFromHandlers : Prop :=
  ∀ (s : State),
    let left (u : State) : Prop :=
      u.ctx.base = s.ctx.base - 32 ∧ sameMemory s u ∧ (∀ i, u.reg (.g i) = s.reg (.g i)) ∧
        u.ctx.loops = s.ctx.loops.dropWhile (fun e => decide (u.ctx.base < e.base))
    (s.ctx.intrap = true →
      ∃ u, exec .eret s = .next u ∧ u.pc = s.ctx.trappc ∧ u.ctx.intrap = false ∧ u.ctx.inui = s.ctx.inui ∧ left u) ∧
    (s.ctx.intrap = false → s.ctx.inui = true →
      ∃ u, exec .eret s = .next u ∧ u.pc = s.ctx.uipc ∧ u.ctx.inui = false ∧ left u) ∧
    (canTrap s → s.ctx.inui = false → ∃ u, exec .eret s = .next u ∧ tookTrap 0x15 s.pc 0xFFF s.pc s u)

/-! ### Memory (R107 to R117, R136, R137, R328 to R331) -/

/-- R112, R109, R114: a load whose address passes the checks completes, writes its bytes, extended by its type, to d, and
changes nothing else but the check bits that the read corrects (a read that the store buffer covers whole corrects none, R325).
An acquire asks for an empty store buffer (R330). -/
def Obligations.LoadsWriteTheirRegister : Prop :=
  ∀ (s : State) (d base : Reg) (off : BitVec 12) (key : Nat),
    ∀ x ∈ ([(.ldbI8 d base off, 1, fun v => ofInt (sextN 8 v), false), (.ldbN8 d base off, 1, Word.of, false),
        (.ldhI16 d base off, 2, fun v => ofInt (sextN 16 v), false), (.ldhN16 d base off, 2, Word.of, false),
        (.ldI32 d base off, 4, fun v => ofInt (sextN 32 v), false), (.ldN32 d base off, 4, Word.of, false),
        (.ld d base off, 8, Word.of, false), (.ldAcq d base off, 8, Word.of, true), (.ldAcqN32 d base off, 4, Word.of, true)] :
        List (Instr × Nat × (Nat → Word) × Bool)),
      let ea := s.reg base + off.signExtend 64 * Word.of x.2.1
      readable s ea x.2.1 key → (x.2.2.2 = true → s.ctx.storeBuf = []) →
        ∃ u, exec x.1 s = .next u ∧ wrote 1 d (x.2.2.1 (loadedBytes s ea x.2.1 key)) (if covered s.ctx.storeBuf ea x.2.1 then s else s.correct key x.2.1) u

/-- R112, R109, R113: a store whose address passes the checks completes: outside space 0xB it enters the store buffer with its
address, its bytes (the low ones of d) and its place in the order of its context; in space 0xB it becomes a packet to the mast's
core 0. Registers and memory are unchanged until it drains. A release waits for every older packet when it drains (R330). R112,
R331: STORE_DRAIN of a store to the heap or to local memory takes the oldest store from its context's buffer and writes its
bytes, and no others. It waits for the packets that a release before it has placed, and a hart's store for the moves queued
before it (R318, R325). R201, R128: a store to space 0x9 of a mast waits for the older entries that conflict, and writes its
bytes to the places that its offsets name. R212, R213, R216: a store into a core's yard window sets a double of its slot; the
store of double 7 posts the slot as a command once every older packet of its context has been applied (R335), and the command
joins the yard queue, with an entry where it takes one; a command whose record fails a check joins nothing and, where it names
no barrier, is counted in yrej. -/
def Obligations.StoresEnterTheBufferAndDrain : Prop :=
  (∀ (s : State) (d base : Reg) (off : BitVec 12) (key : Nat),
     ∀ x ∈ ([(.stb d base off, 1, false), (.sth d base off, 2, false), (.stN32 d base off, 4, false), (.st d base off, 8, false),
         (.stRel d base off, 8, true), (.stRelN32 d base off, 4, true)] : List (Instr × Nat × Bool)),
       let ea := s.reg base + off.signExtend 64 * Word.of x.2.1
       let bs := toBytes x.2.1 (s.reg d).toNat
       storable s ea x.2.1 key →
         (space ea ≠ 0xB → ∃ u, exec x.1 s = .next u ∧ u.pc = s.pc + 4 ∧ sameRegs s u ∧ sameMemory s u ∧ u.net = s.net ∧
           u.ctx.storeBuf = s.ctx.storeBuf ++ [⟨ea, key, bs, s.ctx.order, if x.2.2 then s.ctx.order else s.ctx.relOrd⟩]) ∧
         (space ea = 0xB → s.mayTravel = true → hasRoom s 0 32 →
           ∃ u p, exec x.1 s = .next u ∧ u.pc = s.pc + 4 ∧ sameRegs s u ∧ sameMemory s u ∧
             u.ctx.storeBuf = s.ctx.storeBuf ∧ u.net = s.net ++ [p] ∧ p.kind = .rstore ea bs ∧ p.dst = 8 * bits ea 41 32)) ∧
  (∀ (s : State) (st : BufStore) (rest : List BufStore),
     let a := s.focus s.place.a
     let off := bits st.ea 19 0
     let i := bits st.ea 5 3
     let k := ySlotKey a.cur.launch (yardSlot st.ea)
     let sl := a.core.yslots.get k YSlot.init
     let ds := sl.dbl.set i (Word.of (ofBytes st.bytes))
     let c := newCmd a.cur.launch (yardSlot st.ea) ds
     let b := (a.setCtx { a.ctx with storeBuf := rest }).setCore { a.core with yslots := a.core.yslots.set k { sl with dbl := ds } }
     let codes := b.yardCodes (a.cur.core / 8) a.cur.core a.cur.launch c
     let drained (u : State) : Prop := exec .storeDrain s = .next u ∧ u.ctx.storeBuf = rest ∧ sameRegs a u
     a.ctx.storeBuf = st :: rest → a.packetsDone s.place.a st.rel = true → a.movesDone s.place.a st.order = true → a.launch.status ≠ .preempted →
     ((space st.ea ≠ 0x9 ∨ a.engine = .tackle) → (inYardWindow st.ea = false ∨ a.engine ≠ .mast) → memoryForm s →
       ∃ u, drained u ∧ (∀ x, x < st.key ∨ st.key + st.bytes.length ≤ x → Memory.get u.mem x = Memory.get s.mem x) ∧
         ∀ i, i < st.bytes.length → Memory.get u.mem (st.key + i) = st.bytes.getD i 0) ∧
     (space st.ea = 0x9 → a.engine ≠ .tackle →
       (∀ r ∈ a.runsOf a.mastNo off st.bytes.length, a.sbFree true (keyOff r.1) r.2.2 = true) →
       ∃ u, drained u ∧ u.mem = (a.writeBank a.mastNo off st.bytes).mem) ∧
     (inYardWindow st.ea = true → a.engine = .mast →
       (i ≠ 7 → ∃ u, drained u ∧ sameMemory a u ∧ (u.core.yslots.get k YSlot.init).dbl = ds ∧ u.core.yqueue = a.core.yqueue) ∧
       (i = 7 → a.packetsDone s.place.a st.order = true → a.runs a.cur.launch = true →
         (codes = ([], []) → c.bat = false →
           (c.cop = 0 ∨ c.cop = 2 → ∃ u, drained u ∧ sameMemory a u ∧ u.core.yqueue = a.core.yqueue ++ [c]) ∧
           (∀ e, c.cop ≠ 0 → c.cop ≠ 2 → b.entryOn (a.cur.core / 8) (a.cur.core % 8) (.drain a.cur.ctx) = some e →
             ∃ u, drained u ∧ sameMemory a u ∧ u.core.yqueue = a.core.yqueue ++ [{ c with entry := some e.1 }] ∧
               ∃ x ∈ (u.mastAt (a.cur.core / 8)).sb, x.id = e.1 ∧ x.launch = a.cur.launch ∧
                 x.core = a.cur.core % 8)) ∧
         (codes.1 ≠ [] → c.bar = false → ∃ u, drained u ∧ sameMemory a u ∧ u.core.yqueue = a.core.yqueue ∧
           (u.core.yslots.get k YSlot.init).busy = false ∧ u.launch.yrej = satAdd a.launch.yrej 1))))

/-- R109, R15: a load or store at an address that is no multiple of its size takes cause 0x03 with the address; nothing is
loaded or stored: no store enters the buffer, and no packet is placed. -/
def Obligations.MisalignedAccessTraps : Prop :=
  ∀ (s : State) (d base : Reg) (off : BitVec 12), canTrap s → s.mayTravel = true →
    ∀ x ∈ ([(.ldhI16 d base off, 2), (.ldhN16 d base off, 2), (.ldI32 d base off, 4), (.ldN32 d base off, 4), (.ld d base off, 8),
        (.ldAcq d base off, 8), (.ldAcqN32 d base off, 4), (.sth d base off, 2), (.stN32 d base off, 4), (.st d base off, 8),
        (.stRel d base off, 8), (.stRelN32 d base off, 4)] : List (Instr × Nat)),
      let ea := s.reg base + off.signExtend 64 * Word.of x.2
      ea.toNat % x.2 ≠ 0 → ∃ u, exec x.1 s = .next u ∧ tookTrap 0x03 ea 0 s.pc s u ∧ u.ctx.storeBuf = s.ctx.storeBuf ∧ u.net = s.net

/-- R115 to R117: a local or bank atomic that finds its double ready completes in one step: d receives the old value, and the
double the new one; ACAS and BCAS write the old value back where it is not the expected one, which d holds. Nothing else changes
but check bits. -/
def Obligations.AtomicsReadAndReplace : Prop :=
  ∀ (s : State) (d base : Reg) (off : BitVec 12) (nw : Src) (key : Nat),
    let ea := s.reg base + off.signExtend 64 * 8
    let old := s.dbl key
    let v := s.reg d
    let c := s.correct key 8
    ∀ x ∈ ([(.aadd d base off, 1, 0x8, old + v), (.axch d base off, 1, 0x8, v),
        (.aminI64 d base off, 1, 0x8, if old.toInt ≤ v.toInt then old else v),
        (.aminN64 d base off, 1, 0x8, if old.toNat ≤ v.toNat then old else v),
        (.amaxI64 d base off, 1, 0x8, if old.toInt ≤ v.toInt then v else old),
        (.amaxN64 d base off, 1, 0x8, if old.toNat ≤ v.toNat then v else old),
        (.aand d base off, 1, 0x8, old &&& v), (.aor d base off, 1, 0x8, old ||| v),
        (.acas d base off nw, 2, 0x8, if old = v then s.src nw else old),
        (.badd d base off, 1, 0x9, old + v),
        (.bcas d base off nw, 2, 0x9, if old = v then s.src nw else old)] : List (Instr × Nat × Nat × Word)),
      atomicReady s ea x.2.2.1 key →
        ∃ u, exec x.1 s = .next u ∧ wrote x.2.1 d old (c.setDbl key x.2.2.2) u

/-- R136, R137, R331: PREF of an aligned address of a space it admits only goes on. A FENCE completes where its wait is over:
.acq always; .sc and .sl with an empty store buffer and, on a hart, no queued move (R325), or at scope strand; .rel at the wide
scopes at once, else when the context's packets to its scope are applied. A release makes the context's later writes wait for
its earlier packets. R124, R206, R207: BFMT.tab writes a granted code table once no operation of the launch that uses it is left
(log entry 20); SBQ counts in every state the mast's live entries, the shared ones free, those of this core, and its reserved
ones free (entries 0 to 127 are reserved, 16 to each core in turn); SBWAIT and SBWAIT.r of nothing go on, and of a range of held
banks go on when no conflicting entry is left. -/
def Obligations.FencesPrefetchesAndScoreboard : Prop :=
  (∀ (s : State) (base : Reg) (off : BitVec 12) (sc : Scope),
     let ea := s.reg base + off.signExtend 64 * 64
     let fenced (rel : Bool) (u : State) : Prop :=
       u.pc = s.pc + 4 ∧ sameRegs s u ∧ sameMemory s u ∧ u.ctx.storeBuf = s.ctx.storeBuf ∧ ctxOnly s u ∧
         u.ctx.relOrd = (if rel then s.ctx.order else s.ctx.relOrd)
     (ea.toNat % 64 = 0 → s.loadSpaces.contains (space ea) = true → zeroFieldsOk ea = true →
       (∃ u, exec (.prefCode base off) s = .next u ∧ wentOn 1 s u) ∧
       (∃ u, exec (.prefHeap base off) s = .next u ∧ wentOn 1 s u)) ∧
     (sc = .strand ∨ s.drained = true →
       (∃ u, exec (.fenceSc sc) s = .next u ∧ fenced (sc = .dev || sc = .sys) u) ∧
       (∃ u, exec (.fenceSl sc) s = .next u ∧ fenced false u)) ∧
     (∃ u, exec (.fenceAcq sc) s = .next u ∧ wentOn 1 s u) ∧
     (sc = .dev ∨ sc = .sys ∨ s.scopeDone sc = true → ∃ u, exec (.fenceRel sc) s = .next u ∧ fenced (sc ≠ .strand) u)) ∧
  (∀ (s : State) (d : Reg) (a : RcSrc) (id code n : Src),
     let ea := s.rc a
     let len := (s.src n).toNat
     let free (write : Bool) : Prop :=
       ∀ e ∈ s.mast.sb, ∀ p ∈ s.mast.pieces (bits ea 19 0) len, ∀ j ∈ e.ivals,
         j.conflicts write (granules p.1 p.2).1 (granules p.1 p.2).2 = false
     (s.grant.ctabs.contains (s.src id).toNat = true → s.codecEntries (s.src id).toNat = [] → s.ctx.await = .none →
       ∃ u, exec (.bfmtTab id code) s = .next u ∧ u.pc = s.pc + 4 ∧ sameRegs s u ∧ sameMemory s u ∧
         u.mast.ctab.get (s.src id).toNat 0 = s.src code) ∧
     (∃ u, exec (.sbq d) s = .next u ∧ wrote 1 d (Word.of (s.mast.sb.length * 2 ^ 32 +
       (128 - (s.mast.sb.filter fun e => decide (128 ≤ e.id)).length) * 2 ^ 16 +
       (s.mast.sb.filter fun e => decide (e.core = s.coreIx)).length * 2 ^ 8 +
       (16 - (s.mast.sb.filter fun e => decide (16 * s.coreIx ≤ e.id ∧ e.id < 16 * s.coreIx + 16)).length))) s u) ∧
     (s.src n = 0 → (∃ u, exec (.sbwait a n) s = .next u ∧ wentOn 1 s u) ∧ (∃ u, exec (.sbwaitR a n) s = .next u ∧ wentOn 1 s u)) ∧
     (s.src n ≠ 0 → space ea = 0x9 → zeroFieldsOk ea = true → bits ea 19 0 + len ≤ 2 ^ 20 →
       (∀ i, i < 16 → i * 65536 < bits ea 19 0 + len → bits ea 19 0 < (i + 1) * 65536 →
         s.mast.holds s.cur.launch i = true ∧ s.mast.isShadow i = false) →
       s.drained = true → s.ctx.await = .none →
       (free true → ∃ u, exec (.sbwait a n) s = .next u ∧ wentOn 1 s u) ∧
       (free false → ∃ u, exec (.sbwaitR a n) s = .next u ∧ wentOn 1 s u)))

/-! ### Nodes and redexes (R138 to R186) -/

/-- R149 to R152: NNEW takes the lowest free slot and answers its reference; NFREE of a node whose ports may go frees its slot
and answers the payload that nobody shares any more; NLD, NST and PGET read, write and name a part of a live node. Those that
write follow what a releasing fence before them names (R331), and a heap slot is translated (R350). -/
def Obligations.NodeInstructionsComplete : Prop :=
  ∀ (s : State) (d n : Reg) (kind arity i : Src) (k : Fin 8),
    let r := s.reg n
    let nd := s.nodeOf r
    (∀ slot, (s.src kind).toNat ≤ 0xFFE → (s.src kind).toNat < s.task.nkind → (s.src arity).toNat ≤ 3 →
      s.task.freeSlot = some slot → s.slotReady slot .netW = .ok () → s.released = true →
      ∃ u, exec (.nnew d kind arity) s = .next u ∧ u.pc = s.pc + 4 ∧ sameMemory s u ∧
        u.reg d = (if d = .g 0 then 0 else mkRef s.cur.core slot (s.task.node slot).gen.toNat 0) ∧
        (u.task.node slot).live = true ∧ (u.task.node slot).kind.toNat = (s.src kind).toNat ∧
        (u.task.node slot).arity = (s.src arity).toNat ∧ (u.task.node slot).ports = [0, 0, 0, 0] ∧
        (u.task.node slot).gen = (s.task.node slot).gen) ∧
    (s.chk r false .netW = .ok () → s.released = true →
      (nd.ports.all (s.portFreeable r) = true → nd.desc = 0 →
        ∃ u, exec (.nfree d n) s = .next u ∧ u.pc = s.pc + 4 ∧ sameMemory s u ∧ u.reg d = 0 ∧
          u.task.node (refKey r) = (if s.splicing s.cur.launch r then { nd with live := false, rel := true } else nd.freed)) ∧
      (∀ key w t, nd.ports.all (s.portFreeable r) = true → nd.desc ≠ 0 → s.payload nd.desc = .ok (key, w, t) →
        ∃ u, exec (.nfree d n) s = .next u ∧ u.pc = s.pc + 4 ∧
          u.reg d = (if d = .g 0 then 0 else if bits w 63 48 = 1 then nd.desc else 0) ∧
          u.mem = Memory.write s.mem key (toBytes 8 (setBits w 63 48 (bits w 63 48 - 1)).toNat)) ∧
      (k.val = 0 → bits (s.reg d) 36 32 ≤ 16 →
        ∃ u, exec (.nst d n k) s = .next u ∧ u.pc = s.pc + 4 ∧ sameRegs s u ∧ sameMemory s u ∧
          u.nodeOf r = { nd with ilen := BitVec.ofNat 5 (bits (s.reg d) 36 32), uflags := BitVec.ofNat 8 (bits (s.reg d) 31 24) }) ∧
      (k.val = 1 → descOk (s.reg d) = true →
        ∃ u, exec (.nst d n k) s = .next u ∧ u.pc = s.pc + 4 ∧ sameRegs s u ∧ sameMemory s u ∧
          u.nodeOf r = { nd with desc := s.reg d }) ∧
      (6 ≤ k.val →
        ∃ u, exec (.nst d n k) s = .next u ∧ u.pc = s.pc + 4 ∧ sameRegs s u ∧ sameMemory s u ∧
          u.nodeOf r = (if k.val = 6 then { nd with in0 := s.reg d } else { nd with in1 := s.reg d }))) ∧
    (s.chk r false .net = .ok () →
      (∃ u, exec (.nld d n k) s = .next u ∧ wrote 1 d (nd.double k.val) s u) ∧
      ((s.src i).toNat ≤ nd.arity → ∃ u, exec (.pget d n i) s = .next u ∧ wrote 1 d (withPort r (s.src i).toNat) s u))

/-- R152: PGET takes the trap of a node reference that does not pass, takes cause 0x0C where the port number, read as .n64, is
above the node's arity, and otherwise writes the reference with its port field at that number; it reads no port word, so its
result is a function of the two operands. -/
def Obligations.PortGetFormsAReference : Prop :=
  ∀ (s : State) (d n : Reg) (i : Src),
    let r := s.reg n
    (∀ c a x, canTrap s → s.chk r false .net = .error (.trap c a x) →
      ∃ u, exec (.pget d n i) s = .next u ∧ tookTrap c a x s.pc s u) ∧
    (s.chk r false .net = .ok () →
      (canTrap s → (s.nodeOf r).arity < (s.src i).toNat →
        ∃ u w, exec (.pget d n i) s = .next u ∧ tookTrap 0x0C s.pc w s.pc s u) ∧
      ((s.src i).toNat ≤ (s.nodeOf r).arity →
        ∃ u, exec (.pget d n i) s = .next u ∧ wrote 1 d (withPort r (s.src i).toNat) s u))

/-- R153, R154, R159: PLINK wires two unwired ports and pushes the redex of two principal ports; SPLICE of a wired port to an
unwired one leaves a forward behind, locks the endpoint and hands the rest to the splice unit, or moves a host binding at once;
SPLICE.j puts a join thimble between two ports of the redex and splices both to it. R165 to R168, R181, R182, R184, R185: RPUSH
and FORK push one record at the bottom of a deque with a free place, RPOP takes the bottom one (or answers zeros; it waits where
the one resident record is a place that a JOIN has reserved, R186, log entry 76), and RULE reads the handler of two kinds from
the rule table. -/
def Obligations.WiringAndRecordInstructionsComplete : Prop :=
  (∀ (s : State) (x y : Reg),
     let a := s.reg x
     let b := s.reg y
     let wired := (s.setWord a (portWord 1 b)).setWord b (portWord 1 a)
     s.chk a true .netW = .ok () → s.chk b true .netW = .ok () → s.released = true →
     (a ≠ b → refState (s.word a) = 0 → refState (s.word b) = 0 →
       (refPort a ≠ 0 ∨ refPort b ≠ 0 →
         ∃ u, exec (.plink x y) s = .next u ∧ u.pc = s.pc + 4 ∧ sameRegs s u ∧ sameMemory s u ∧
           u.task.nodes = wired.task.nodes ∧ u.task.deque = s.task.deque) ∧
       (refPort a = 0 → refPort b = 0 → s.task.deque.length + s.task.reserved < 256 →
         ∃ u, exec (.plink x y) s = .next u ∧ u.pc = s.pc + 4 ∧ sameRegs s u ∧ sameMemory s u ∧
           u.task.nodes = wired.task.nodes ∧ u.task.deque = s.task.deque ++ [redexRecord a b 0 0])) ∧
     (refState (s.word b) = 0 → s.dyingOk a = .ok () → s.core.splices.length < 32 →
       ∃ u, exec (.splice x y) s = .next u ∧ u.pc = s.pc + 4 ∧ sameRegs s u ∧ sameMemory s u ∧
         (refState (s.word a) = 4 → u.launch.hostbind = s.launch.hostbind.set (bits (s.word a) 19 0) b ∧
           u.core.splices = s.core.splices) ∧
         (refState (s.word a) ≠ 4 →
           u.task.nodes = ((s.setWord b (portWord 3 (refOfWord (s.word a)))).setWord a (fwdWord false b)).task.nodes ∧
           u.core.splices = s.core.splices ++ [⟨s.cur.task, s.cur.ctx, a, b, refOfWord (s.word a), .start, s.ctx.order, [], a⟩])) ∧
     (∀ k, s.inRedex a = true → s.inRedex b = true → a ≠ b → s.dyingOk a = .ok () → s.dyingOk b = .ok () →
       (refState (s.word a) = 1 → refers (s.word a) b = false) → s.task.freeSlot = some k → s.slotReady k .netW = .ok () →
       s.core.splices.length < 31 →
       ∃ u, exec (.spliceJ x y) s = .next u ∧ u.pc = s.pc + 4 ∧ sameRegs s u ∧ sameMemory s u ∧
         let g := (s.task.node k).gen
         let r := mkRef s.cur.core k g.toNat 0
         u.task.nodes = (((s.setTask (s.task.setNode k (joinThimble g s.cur.ctx s.ctx.order))).splice a r).splice b (withPort r 1)).task.nodes)) ∧
  (∀ (s : State) (f : Fin 16) (d : Fin 31) (x y r : Reg) (h : RcSrc) (a0 a1 : Src),
     let pushed (n : Nat) (rec : Record) (u : State) : Prop :=
       u.pc = s.pc + Word.of (4 * n) ∧ sameRegs s u ∧ sameMemory s u ∧ u.task.deque = s.task.deque ++ [rec]
     (rpushOk (s.reg x) = true → rpushOk (s.reg y) = true → s.released = true →
       s.task.deque.length + s.task.reserved < 256 →
       ∃ u, exec (.rpush f x y) s = .next u ∧ pushed 1 (redexRecord (s.reg x) (s.reg y) f.val 1) u) ∧
     (∀ i, (s.rc h).toNat % 4 = 0 → s.task.handlerIndex (s.rc h) = some i → s.released = true →
       s.task.deque.length + s.task.reserved < 256 →
       ∃ u, exec (.fork f h a0 a1) s = .next u ∧
         pushed 2 (taskRecord i f.val 0 (BitVec.ofNat 32 (s.src a0).toNat) (s.src a1)) u) ∧
     (s.task.deque = [] → s.task.reserved ≠ 0 → ∃ u, exec (.rpop d) s = .next u ∧ waits s u) ∧
     (s.task.deque = [] → s.task.spilled = [] → s.task.reserved = 0 →
       ∃ u, exec (.rpop d) s = .next u ∧ u.pc = s.pc + 4 ∧ sameMemory s u ∧ u.reg (pairReg d 0) = 0 ∧ u.reg (pairReg d 1) = 0) ∧
     (∀ rs rec, s.task.deque = rs ++ [rec] →
       ∃ u, exec (.rpop d) s = .next u ∧ u.pc = s.pc + 4 ∧ sameMemory s u ∧ u.reg (pairReg d 0) = rec.d0 ∧
         u.reg (pairReg d 1) = rec.d1 ∧ u.task.deque = rs) ∧
     (∀ v, (s.src a0).toNat < s.task.nkind → (s.src a1).toNat < s.task.nkind →
       s.ruleOf (s.src a0).toNat (s.src a1).toNat = .ok v →
       ∃ u, exec (.rule r a0 a1) s = .next u ∧ wrote 1 r v s u))

/-- R184: RULE reads both kinds as .n64; a kind at or above nkind takes cause 0x0C with that kind in trapinfo; otherwise d
receives the pair's entry of the rule table, in whichever order the two kinds stand. -/
def Obligations.RuleReadsTheTable : Prop :=
  ∀ (s : State) (d : Reg) (x y : Src),
    let i := (s.src x).toNat
    let j := (s.src y).toNat
    (canTrap s → s.task.nkind ≤ i → j < s.task.nkind →
      ∃ u, exec (.rule d x y) s = .next u ∧ tookTrap 0x0C s.pc (s.src x) s.pc s u) ∧
    (canTrap s → i < s.task.nkind → s.task.nkind ≤ j →
      ∃ u, exec (.rule d x y) s = .next u ∧ tookTrap 0x0C s.pc (s.src y) s.pc s u) ∧
    (canTrap s → s.task.nkind ≤ i → s.task.nkind ≤ j →
      ∃ u w, exec (.rule d x y) s = .next u ∧ tookTrap 0x0C s.pc w s.pc s u ∧ (w = s.src x ∨ w = s.src y)) ∧
    (∀ v, i < s.task.nkind → j < s.task.nkind → s.ruleOf i j = .ok v →
      (∃ u, exec (.rule d x y) s = .next u ∧ wrote 1 d v s u) ∧ (∃ u, exec (.rule d y x) s = .next u ∧ wrote 1 d v s u))

/-- R183, R174, R175: MEET of two nodes of this core that are ready and unlocked, and MEET whose meeting is over, write the
references of the two nodes in the order of their rule. R295: a context of a reply message takes 0x15 with 0xFFE, before any
other check, unless both nodes lie on its core. R186: JOIN at a join object counts it down, answers the new count, and at zero
pushes the continuation; a JOIN at another core ends with the answer that has come, and JOIN_TARGET counts the object down where
it lies and sends that answer. -/
def Obligations.MeetAndJoinsComplete : Prop :=
  (∀ (s : State) (d : Fin 31) (x y : Reg),
     let a := s.reg x
     let b := s.reg y
     let answered (o : Word × Word) (u : State) : Prop :=
       u.pc = s.pc + 4 ∧ sameMemory s u ∧ u.reg (pairReg d 0) = o.1 ∧ u.reg (pairReg d 1) = o.2 ∧
         ∀ r, r ≠ pairReg d 0 → r ≠ pairReg d 1 → u.reg r = s.reg r
     (canTrap s → s.ctx.kind = .rep → refCore a ≠ s.cur.core ∨ refCore b ≠ s.cur.core →
       ∃ u, exec (.meet d x y) s = .next u ∧ tookTrap 0x15 s.pc 0xFFE s.pc s u) ∧
     (s.ctx.kind ≠ .rep ∨ refCore a = s.cur.core ∧ refCore b = s.cur.core →
       rpushOk a = true → rpushOk b = true → sameNode a b = false →
       ((s.core.meetings.find? fun m => decide (m.ctx = some s.cur.ctx) && decide (m.record.refs = (a, b))) = none →
         s.unitReady s.cur.task (slotsOn s.cur.core [a, b]) .net = .ok () →
         s.localCheck s.cur.launch s.cur.core a b = none → s.meetPlan s.cur.launch s.cur.core a b = .ready →
         s.unlocked s.cur.task a = true → s.unlocked s.cur.task b = true →
         ∃ u, exec (.meet d x y) s = .next u ∧ answered (s.meetOrder s.cur.launch a b false false) u) ∧
       (∀ m, (s.core.meetings.find? fun m => decide (m.ctx = some s.cur.ctx) && decide (m.record.refs = (a, b))) = some m →
         s.unitReady s.cur.task (slotsOn s.cur.core [m.x, m.y]) .net = .ok () → m.failed = none → s.meetingDone s.cur.launch m = true →
         s.unlocked s.cur.task m.x = true → s.unlocked s.cur.task m.y = true →
         ∃ u, exec (.meet d x y) s = .next u ∧ answered (s.meetOrder s.cur.launch m.x m.y m.movedX m.movedY) u))) ∧
  ((∀ (s : State) (d : Reg) (a : RcSrc) (key : Nat),
     let ea := s.rc a
     let count := s.dbl key
     let cont := s.dbl (key + 8)
     (∀ p e g, s.ctx.await ≠ .reply p e g) → (space ea = 0x8 ∨ space ea = 0x9) → s.joinCheck ea = .ok key →
     s.task.deque.length + s.task.reserved < 256 → s.drained = true → s.packetsDone s.cur.ctx s.ctx.order = true →
     (space ea = 0x9 → s.sbFree true (keyOff key) 16 = true) → s.badDouble key 16 = none →
     count ≠ 0 → bits cont 63 61 = 6 → bits cont 60 60 = 0 → bits cont 55 52 = 0 →
     ∃ u, exec (.join d a) s = .next u ∧ u.pc = s.pc + 4 ∧ u.reg d = (if d = .g 0 then 0 else count - 1) ∧
       u.mem = Memory.write s.mem key (toBytes 8 (count - 1).toNat) ∧
       u.task.deque = (if count - 1 = 0 then s.task.deque ++ [joinRecord cont ea] else s.task.deque)) ∧
   (∀ (s : State) (d e : Reg) (a : RcSrc) (p : Nat) (count cont : Word),
     s.ctx.await = .reply p e (some (.joined count cont)) →
     ∃ u, exec (.join d a) s = .next u ∧ u.pc = s.pc + 4 ∧ u.reg d = (if d = .g 0 then 0 else count) ∧ sameMemory s u ∧
       u.task.deque = (if count = 0 then s.task.deque ++ [joinRecord cont (s.rc a)] else s.task.deque)) ∧
   (∀ (s : State) (p : Packet) (a : Word),
     let t := s.taskAt (taskKey p.launch p.dst)
     let key := localKey p.dst (bits a 16 0)
     let count := s.dbl key
     let cont := s.dbl (key + 8)
     s.packet s.place.a = some p → p.kind = .join a → s.mayApply p = true →
     t.live = true → t.locb ≤ bits a 16 0 → bits a 16 0 + 16 ≤ t.locl → s.badDouble key 16 = none →
     count ≠ 0 → bits cont 63 61 = 6 → bits cont 60 60 = 0 → bits cont 55 52 = 0 →
     ∃ u q, exec .joinTarget s = .next u ∧ u.mem = Memory.write s.mem key (toBytes 8 (count - 1).toNat) ∧
       u.net = s.net.filter (fun r => decide (r.id ≠ p.id)) ++ [q] ∧ q.kind = .answer p.ctx (.joined (count - 1) cont) ∧
       q.dst = p.src))

/-- R246: with vl = 0, every instruction of opcodes 0x84 to 0x9A takes cause 0x0C and has no other effect: no memory but that of
the spilled window, no vector register, store, packet or unit changes. The trapinfo 0 is the model's choice (log entry 75). -/
def Obligations.NoLanesTraps : Prop :=
  ∀ (s : State) (t src : VTy) (v v2 : Fin 16) (d base c : Reg) (off : BitVec 12) (ra : RcSrc) (a b x2 x3 : VSrc) (sa sb : Src)
    (p : Pred) (r : Rnd) (rel : Rel) (m : Fin 4) (prog : BitVec 48) (q : Fin 32),
    canTrap s → s.ctx.vl = 0 →
    ∀ i ∈ ([.vld t v base off, .vst t v base off, .vgath t v ra v2 p, .vadd t v a b p, .vsub t v a b p, .vmul t v a b p,
        .vmulz t v a b p, .vfma t v a b p, .vmin t v a b p, .vmax t v a b p, .vcmp rel t m a b, .vsel t v m a b,
        .vcvt t src r v a p, .vsum t d ra sa, .vmaxr t d ra sa, .vredq t d q c, .vxp t v a b x2 x3 prog p, .vrank v ra b p,
        .vselect v ra b p, .vpopc v a p, .vshuf t v v2 b p, .vbcast t v sa p, .vidx t v sa sb p] : List Instr),
      ∃ u, exec i s = .next u ∧ tookTrap 0x0C s.pc 0 s.pc s u

/-! ### The lane pool (R240 to R254) -/

/-- R245 to R249: an elementwise lane instruction with lanes writes the active elements of its destination, each from the same
lane of its sources (VSHUF from the same reef), leaves the inactive ones, and changes nothing else but the pc. VCMP writes every
bit of its mask. The canonical NaN of NEG and ABS in VXP is the model's reading (log entry 22). -/
def Obligations.LaneInstructionsWriteActiveElements : Prop :=
  ∀ (s : State) (t src : VTy) (v a16 : Fin 16) (a b x2 x3 : VSrc) (ra : RcSrc) (sa sb : Src) (p : Pred) (r : Rnd) (rel : Rel)
    (m : Fin 4) (prog : BitVec 48),
    let A := s.vsrc t.ety a
    let B := s.vsrc t.ety b
    let D := fun e => (s.ctx.velem v.val e).toNat % 2 ^ t.ety.width
    let N := s.vsrc .n32 b
    let ins := ([(.vadd t v a b p, 1, p, fun e => laneAdd t (A e) (B e)), (.vsub t v a b p, 1, p, fun e => laneSub t (A e) (B e)),
      (.vmul t v a b p, 1, p, fun e => laneMul t (A e) (B e)), (.vmulz t v a b p, 1, p, fun e => laneMulz t (A e) (B e)),
      (.vfma t v a b p, 1, p, fun e => laneFma t (A e) (B e) (D e)), (.vmin t v a b p, 1, p, fun e => laneMin t (A e) (B e)),
      (.vmax t v a b p, 1, p, fun e => laneMax t (A e) (B e)),
      (.vsel t v m a b, 1, .all, fun e => if s.ctx.mbit m.val e then A e else B e),
      (.vcvt t src r v a p, 1, p, fun e => convert t.ety src.ety r .mode (s.vsrc src.ety a e)),
      (.vxp t v a b x2 x3 prog p, 3, p, fun e =>
        vxpRun t (fun k => s.vsrc t.ety (match k with | 0 => a | 1 => b | 2 => x2 | _ => x3) e) (vxpTokens prog.toNat) []),
      (.vrank v ra b p, 1, p, fun e => rankOf (s.rc ra) (N e)), (.vselect v ra b p, 1, p, fun e => selectOf (s.rc ra) (N e)),
      (.vpopc v a p, 1, p, fun e => popcN 32 (s.vsrc .n32 a e)),
      (.vshuf t v a16 b p, 1, p, fun e =>
        if e / 16 * 16 + N e % 16 < s.ctx.vl then s.vsrc t.ety (.vec a16) (e / 16 * 16 + N e % 16) else 0),
      (.vbcast t v sa p, 1, p, fun e => s.vsrc t.ety (Src.lane sa) e),
      (.vidx t v sa sb p, 1, p, fun e => (s.vsrc t.ety (Src.lane sa) e + e * s.vsrc t.ety (Src.lane sb) e) % 2 ^ 32)] :
      List (Instr × Nat × Pred × (Nat → Nat)))
    (∀ x ∈ ins, s.ctx.vl ≠ 0 → ∃ u, exec x.1 s = .next u ∧ u.pc = s.pc + Word.of (4 * x.2.1) ∧ sameRegs s u ∧ ctxOnly s u ∧
      (s.ctx.v.length = 16 → ∀ e, e < s.ctx.vl → u.ctx.velem v.val e =
        (if s.ctx.active x.2.2.1 e then Word.of (x.2.2.2 e) else s.ctx.velem v.val e)) ∧
      (∀ k e, k ≠ v.val → u.ctx.velem k e = s.ctx.velem k e) ∧ { u.ctx with v := s.ctx.v, pc := s.ctx.pc } = s.ctx) ∧
    (s.ctx.vl ≠ 0 → ∃ u, exec (.vcmp rel t m a b) s = .next u ∧ u.pc = s.pc + 4 ∧ sameRegs s u ∧ ctxOnly s u ∧
      { u.ctx with m := s.ctx.m, pc := s.ctx.pc } = s.ctx ∧ (s.ctx.m.length = 4 → ∀ e, e < s.ctx.vl → u.ctx.mbit m.val e = relHolds rel t.ety (A e) (B e)))

/-- R250: VLD and VGATH whose addresses pass and whose reads find their bytes fill the vector register, and VST puts one store
of the whole vector into the store buffer. -/
def Obligations.VectorMemoryInstructionsComplete : Prop :=
  ∀ (s c : State) (t : VTy) (v ix : Fin 16) (base : Reg) (off : BitVec 12) (a : RcSrc) (p : Pred) (bs : List Byte)
    (got : List (Nat × Nat)),
    let ea := s.reg base + off.signExtend 64 * Word.of t.size
    let n := s.ctx.vl * t.size
    let at_ := fun e => s.rc a + Word.of ((s.ctx.velem ix.val e).toNat % 2 ^ 32 * t.size)
    let es := (List.range s.ctx.vl).filter (s.ctx.active p)
    s.ctx.vl ≠ 0 →
    (s.rangeCheck ea t.size n = .ok () → s.bankRead ea n = .ok (bs, c) →
      ∃ u, exec (.vld t v base off) s = .next u ∧ u.pc = c.pc + 4 ∧ sameRegs c u ∧ sameMemory c u ∧
        u.ctx.v = (c.ctx.setV v .all fun e => ofBytes ((bs.drop (e * t.size)).take t.size)).v) ∧
    (s.rangeCheck ea t.size n = .ok () → s.touchesObj ea n = false →
      ∃ u, exec (.vst t v base off) s = .next u ∧ u.pc = s.pc + 4 ∧ sameRegs s u ∧ ctxOnly s u ∧
        u.ctx.storeBuf = s.ctx.storeBuf ++ [⟨ea, 0, (List.range s.ctx.vl).flatMap fun e => toBytes t.size (s.ctx.velem v.val e).toNat,
          s.ctx.order, s.ctx.relOrd⟩]) ∧
    (s.gatherCheck t.size at_ es = .ok () → State.gather t.size at_ es s = .ok (got, c) →
      ∃ u, exec (.vgath t v a ix p) s = .next u ∧ u.pc = c.pc + 4 ∧ sameRegs c u ∧ sameMemory c u ∧
        u.ctx.v = (c.ctx.setV v p fun e => ((got.find? fun q => q.1 = e).getD (0, 0)).2).v)

/-- R240 to R243: VCLAIM and VREN complete in every state and answer the new width, VYIELD gives every lane back. The vector
registers of the new width are zero and pend is clear; no other context gets or loses lanes. That a growth takes no reef while a
resumed context waits for its own is the model's reading (log entry 24). R251, R58, R252: VSUM and VMAXR of no elements write
their neutral value, and of n elements that they can read the tree of R58 over them; VREDQ with nothing left to count goes on
once it has found an entry, and one VREDQ_SLOT adds the tree sum of the next published slot to d, counts c down, takes the slot
of the ring and releases it, while its launch runs and no event can be delivered. That a reduction's NaN is the canonical one is
the model's reading (log entry 22). -/
def Obligations.LaneGrantsAndReductionsComplete : Prop :=
  (∀ (s : State) (d : Reg) (n : Src),
     let c := s.ctx
     let w := Nat.min 256 (16 * (((s.src n).toNat + 15) / 16))
     let grown (g w : Nat) : Nat := g + 16 * Nat.min ((w - g) / 16) s.growReefs
     let cleared (vl : Nat) (u : State) : Prop :=
       u.ctx.vl = vl ∧ u.ctx.vpend = false ∧ u.ctx.v = List.replicate 16 (List.replicate vl 0) ∧
         u.ctx.m = List.replicate 4 (List.replicate vl false) ∧ sameMemory s u ∧ u.pc = s.pc + 4 ∧
         ∀ k, k ≠ s.cur.ctx → (u.ctxAt k).vgrant = (s.ctxAt k).vgrant
     (∃ u, exec (.vclaim d n) s = .next u ∧ u.ctx.vgrant = (if w ≤ c.vgrant then w else grown c.vgrant w) ∧ u.ctx.vwant = w ∧
       cleared u.ctx.vgrant u ∧ u.reg d = (if d = .g 0 then 0 else Word.of u.ctx.vgrant)) ∧
     (∃ u, exec (.vren d n) s = .next u ∧
       u.ctx.vgrant = (if c.vpend = true ∧ 32 ≤ c.vgrant then 16 * ((c.vgrant + 31) / 32)
         else if c.vgrant < c.vwant then grown c.vgrant c.vwant else c.vgrant) ∧
       cleared (if (s.src n).toNat = 0 then u.ctx.vgrant else Nat.min (s.src n).toNat u.ctx.vgrant) u ∧
       u.reg d = (if d = .g 0 then 0 else Word.of u.ctx.vl)) ∧
     (∃ u, exec .vyield s = .next u ∧ u.ctx.vgrant = 0 ∧ u.ctx.vwant = 0 ∧ cleared 0 u ∧ sameRegs s u)) ∧
  ((∀ (s c : State) (t : VTy) (d : Reg) (a : RcSrc) (n : Src) (bs : List Byte),
     s.ctx.vl ≠ 0 →
     (s.src n = 0 → (∃ u, exec (.vsum t d a n) s = .next u ∧ wrote 1 d (t.ety.toReg 0) s u) ∧
       (∃ u, exec (.vmaxr t d a n) s = .next u ∧ wrote 1 d (t.ety.toReg (maxrZero t)) s u)) ∧
     (s.src n ≠ 0 → s.rangeCheck (s.rc a) t.size ((s.src n).toNat * t.size) = .ok () →
       s.bankRead (s.rc a) ((s.src n).toNat * t.size) = .ok (bs, c) →
       let xs := elems (s.src n).toNat t.size bs
       (∃ u, exec (.vsum t d a n) s = .next u ∧ wrote 1 d (t.ety.toReg (canonical t (tree (laneAdd t) 20 xs))) c u) ∧
       (∃ u, exec (.vmaxr t d a n) s = .next u ∧ wrote 1 d (t.ety.toReg (canonical t (tree (laneMax t) 20 xs))) c u))) ∧
   (∀ (s : State) (t : VTy) (d c : Reg) (q : Fin 32) (r : Ring) (e : Nat),
     s.ctx.vl ≠ 0 → s.mast.ringOf s.cur.launch q.val = some r → r.size % t.size = 0 → s.reg c = 0 →
     (s.ctx.await = .none → s.settled = true → s.myEntry ≠ none →
       ∃ u, exec (.vredq t d q c) s = .next u ∧ acted 1 s u ∧ u.mast.sb = s.mast.sb) ∧
     (s.ctx.await = .vredq e t d q c →
       ∃ u, exec (.vredq t d q c) s = .next u ∧ u.pc = s.pc + 4 ∧ sameRegs s u ∧ sameMemory s u ∧
         u.mast.sb = s.mast.sb.filter fun x => decide (x.id ≠ e))) ∧
   (∀ (s : State) (t : VTy) (d c : Reg) (q : Fin 32) (r : Ring) (e : Nat),
     let a := s.focus s.place.a
     let off := r.off r.take
     let rs := a.bankRuns (r.slotAddr r.take) r.size
     a.ctx.await = .vredq e t d q c → a.ctx.status = .waiting → a.runs a.cur.launch = true → a.deliverable = false → a.mast.ringOf a.cur.launch q.val = some r →
     a.reg c ≠ 0 → r.take < r.pub → a.mast.rangeFree (a.mast.sb.filter fun x => decide (x.id ≠ e)) false off r.size = true →
     (∀ x ∈ rs, a.badDouble x.1 x.2.2 = none) → c ≠ d → c ≠ .g 0 →
     ∃ u, exec .vredqSlot s = .next u ∧ u.reg c = a.reg c - 1 ∧ sameMemory s u ∧
       (∃ r', u.mast.ringOf a.cur.launch q.val = some r' ∧ r'.take = r.take + 1 ∧
         (r.rel = r.take → r.released = [] → r'.rel = r.rel + 1 ∧ r'.released = [])) ∧
       u.reg d = (if d = .g 0 then 0 else t.ety.toReg (canonical t (laneAdd t ((a.reg d).toNat % 2 ^ t.ety.width)
         (tree (laneAdd t) 17 (elems (r.size / t.size) t.size (rs.flatMap fun x => Memory.read a.mem x.1 x.2.2))))))))

/-- R253, R254: a special-function request of no elements goes on; one whose ranges pass registers an entry, joins the mast's
queue and goes on. SF_START starts the head, and SF_RETIRE writes the next 32 elements, one for each that it reads (a NaN for an
uncorrectable one), and retires the request with the last of them. -/
def Obligations.SpecialFunctionRequestsComplete : Prop :=
  (∀ (s : State) (d : Reg) (a : RcSrc) (n : Src) (e : Nat) (sh : Bool),
    let k := (s.src n).toNat
    let o := bits (s.rc a) 19 0
    let p := bits (s.reg d) 19 0
    ∀ x ∈ ([(.vexp2 d a n, .exp2), (.vlog2 d a n, .log2), (.vrcp d a n, .rcp), (.vrsq d a n, .rsq), (.vtanh d a n, .tanh)] :
        List (Instr × SfFn)),
      (s.src n = 0 → ∃ u, exec x.1 s = .next u ∧ wentOn 1 s u) ∧
      (s.src n ≠ 0 → k ≤ 2 ^ 18 → s.rangeCheck (s.reg d) 4 (4 * k) = .ok () → s.rangeCheck (s.rc a) 4 (4 * k) = .ok () →
        (o = p ∨ o + 4 * k ≤ p ∨ p + 4 * k ≤ o) → s.touchesObj (s.reg d) (4 * k) = false → s.settled = true →
        s.mast.sfQueue.length < 64 → s.myEntry = some (e, sh) →
        ∃ u, exec x.1 s = .next u ∧ u.pc = s.pc + 4 ∧ sameRegs s u ∧ sameMemory s u ∧
          u.mast.sfQueue = s.mast.sfQueue ++ [⟨s.cur.launch, x.2, p, o, k, e, false, 0⟩])) ∧
  (∀ (s : State) (q : SfReq) (rest : List SfReq),
    (s.mastAt s.place.a).sfQueue = q :: rest →
    (q.started = false → (s.mastAt s.place.a).opBlocked q.entry [] = false →
      ∃ u, exec .sfStart s = .next u ∧ (u.mastAt s.place.a).sfQueue = { q with started := true } :: rest ∧ sameMemory s u) ∧
    (q.started = true → (s.launchAt q.launch).killed = false →
      let k := Nat.min 32 (q.n - q.wrote)
      let r := s.readBank s.place.a (q.src + 4 * q.wrote) (4 * k)
      let out := (elems k 4 r.1).zipIdx.flatMap fun p => toBytes 4 (if r.2.1 (4 * p.2) then 0x7FC00000 else q.fn.apply p.1)
      ∃ u, exec .sfRetire s = .next u ∧
        (u.mastAt s.place.a).sfQueue = (if q.n ≤ q.wrote + 32 then rest else { q with wrote := q.wrote + 32 } :: rest) ∧
        u.mem = (r.2.2.writeBank s.place.a (q.dst + 4 * q.wrote) out).mem))

/-! ### Rings, banks and the scoreboard (R118 to R135, R196 to R207) -/

/-- R132 to R134: QSET defines a quiet ring over held banks and QSET.clr removes it, both once the context's own stores have
drained (R200, R331; for QSET.clr log entry 78); QWAIT takes published slots, QRESV reserves free ones, each in its turn among
the contexts that wait; QADV.p publishes once the context's own stores to the banks have drained (log entry 73), QADV.c
releases, and QHEAD reads the four counters. R118 to R123, R126, R128: BCLAIM claims the lowest granted bank that is not held,
scrubbed, or answers 0; BFREE frees a quiet bank that no ring, pair or armed object uses; BFMT writes and BFMT.rd reads a format
register; BPAIR makes a pair of two free banks and BPAIR.clr ends one that is quiet; what counts as a write comes after the
context's own stores (R200, R325, R331). That the format register of a paired bank is that of the bank which its name reaches
now is the model's reading (log entry 20). -/
def Obligations.RingAndBankInstructionsComplete : Prop :=
  (∀ (s : State) (d : Reg) (q : Fin 32) (n : Src) (base : RcSrc) (lg : Fin 9) (size : BitVec 11),
     let l := s.cur.launch
     let b := s.rc base
     let k := (s.src n).toNat
     let total := 32 * size.toNat * 2 ^ lg.val
     (q.val < s.grant.rings → s.writesDone = true → s.quiet q.val = true →
       (∃ u, exec (.qsetClr q) s = .next u ∧ u.pc = s.pc + 8 ∧ sameRegs s u ∧ sameMemory s u ∧
         u.mast.rings = s.mast.rings.erase (ringKey l q.val)) ∧
       (b.toNat % 32 = 0 → space b = 0x9 → zeroFieldsOk b = true → bits b 19 0 + total ≤ 2 ^ 20 →
         s.mast.rangeFree s.mast.sb true (bits b 19 0) total = true →
         (∀ i, i < 16 → i * 65536 < bits b 19 0 + total → bits b 19 0 < (i + 1) * 65536 →
           s.mast.holds l i = true ∧ s.mast.isShadow i = false ∧ s.mast.pairOf i = none) →
         ∃ u, exec (.qset q base lg size) s = .next u ∧ u.pc = s.pc + 8 ∧ sameRegs s u ∧ sameMemory s u ∧
           u.mast.ringOf l q.val = some (Ring.fresh (bits b 19 0) (32 * size.toNat) (2 ^ lg.val)))) ∧
     (∀ r, s.mast.ringOf l q.val = some r →
       (∃ u, exec (.qhead d q) s = .next u ∧ wrote 1 d (Word.of ((r.resv % 65536) * 2 ^ 48 + (r.pub % 65536) * 2 ^ 32 +
         (r.take % 65536) * 2 ^ 16 + r.rel % 65536)) s u) ∧
       (k ≤ r.count →
         (k ≤ r.pub - r.take → firstServed r.waitTake s.cur.ctx r.canTake = true →
           ∃ u, exec (.qwait d q n) s = .next u ∧ u.pc = s.pc + 4 ∧ sameMemory s u ∧
             u.reg d = (if d = .g 0 then 0 else Word.of (9 * 2 ^ 60 + (r.base + r.take % r.count * r.size))) ∧
             u.mast.ringOf l q.val = some { r with
               take := r.take + k, coreTaken := r.coreTaken ++ (List.range k).map (r.take + ·)
               waitTake := leaveWaiters r.waitTake s.cur.ctx }) ∧
         (r.resv + k - r.rel ≤ r.count → firstServed r.waitResv s.cur.ctx r.canResv = true →
           ∃ u, exec (.qresv d q n) s = .next u ∧ u.pc = s.pc + 4 ∧ sameMemory s u ∧
             u.reg d = (if d = .g 0 then 0 else Word.of (9 * 2 ^ 60 + (r.base + r.resv % r.count * r.size))) ∧
             u.mast.ringOf l q.val = some { r with resv := r.resv + k, waitResv := leaveWaiters r.waitResv s.cur.ctx }) ∧
         (k ≤ r.resv - r.pub → r.pubEarly = [] → s.bankDrained = true →
           ∃ u, exec (.qadvP q n) s = .next u ∧ u.pc = s.pc + 4 ∧ sameRegs s u ∧ sameMemory s u ∧
             u.mast.ringOf l q.val = some { r with pub := r.pub + k }) ∧
         (k ≤ r.coreTaken.length → s.released = true →
           ∃ u, exec (.qadvC q n) s = .next u ∧ u.pc = s.pc + 4 ∧ sameRegs s u ∧ sameMemory s u ∧
             u.mast.ringOf l q.val = some { r.release (r.coreTaken.take k) with coreTaken := r.coreTaken.drop k })))) ∧
  (∀ (s : State) (d : Reg) (h h2 : RcSrc) (fmt : Src) (pin : Bool) (k j : Nat),
     let went (u : State) : Prop := u.pc = s.pc + 4 ∧ sameRegs s u ∧ sameMemory s u
     let free := (List.range 16).find? fun k => s.grant.banks.contains k && !s.mast.holds s.cur.launch k
     (free = none → ∃ u, exec (.bclaim d pin) s = .next u ∧ wrote 1 d 0 s u) ∧
     (free = some k → s.writesDone = true → ∃ u, exec (.bclaim d pin) s = .next u ∧ u.pc = s.pc + 4 ∧ u.reg d = (if d = .g 0 then 0 else handleOf k) ∧
       u.mast.banks.get k Bank.init = { holder := some s.cur.launch, pinned := pin, table := 0, type := 4 } ∧
       u.mem = Memory.clear s.mem (bankKey s.mastNo (k * 65536)) (bankKey s.mastNo ((k + 1) * 65536))) ∧
     (s.handle (s.rc h) = .ok k →
       (s.mast.ringOver s.cur.launch k = false → s.mast.paired k = false → s.mast.armedIn k = false → s.writesDone = true → s.bankQuiet k = true →
         ∃ u, exec (.bfree h) s = .next u ∧ went u ∧ (u.mast.banks.get k Bank.init).holder = none) ∧
       (bits (s.src fmt) 63 8 = 0 → bits (s.src fmt) 3 0 < 0xE →
         (bits (s.src fmt) 3 0 < 0xC ∨ s.grant.ctabs.contains (bits (s.src fmt) 7 4) = true) →
         s.writesDone = true → s.mast.bankBusy (s.mast.fmtBank k) = false →
         ∃ u, exec (.bfmt h fmt) s = .next u ∧ went u ∧
           (u.mast.banks.get (s.mast.fmtBank k) Bank.init).table = bits (s.src fmt) 7 4 ∧
           (u.mast.banks.get (s.mast.fmtBank k) Bank.init).type = bits (s.src fmt) 3 0) ∧
       (∃ u, exec (.bfmtRd d h) s = .next u ∧ wrote 1 d (Word.of ((if s.mast.paired k then 512 else 0) +
         (if (s.bank (s.mast.fmtBank k)).pinned then 256 else 0) + 16 * (s.bank (s.mast.fmtBank k)).table +
         (s.bank (s.mast.fmtBank k)).type)) s u) ∧
       (s.handle (s.rc h2) = .ok j → k ≠ j → s.mast.paired k = false → s.mast.paired j = false →
         s.mast.ringOver s.cur.launch k = false → s.mast.ringOver s.cur.launch j = false → (s.reg d).toNat % 32 = 0 →
         space (s.reg d) = 0x9 → zeroFieldsOk (s.reg d) = true → s.mast.holds s.cur.launch (bits (s.reg d) 19 16) = true →
         bits (s.reg d) 19 16 ≠ k → bits (s.reg d) 19 16 ≠ j → s.mast.isShadow (bits (s.reg d) 19 16) = false →
         s.writesDone = true → s.mast.bankBusy j = false →
         ∃ u, exec (.bpair d h h2) s = .next u ∧ went u ∧ u.mast.pairs = s.mast.pairs ++
           [{ front := k, shadow := j, bar := bits (s.reg d) 19 0, swapped := false, due := none, late := [] }]) ∧
       (∀ p, s.mast.pairOf k = some p → s.writesDone = true → s.bankQuiet p.front = true → s.bankQuiet p.shadow = true → p.due = none →
         ∃ u, exec (.bpairClr h) s = .next u ∧ went u ∧ u.mast.pairs = s.mast.pairs.filter fun q => decide (q.front ≠ k))))

/-! ### Barriers (R225 to R233) -/

/-- R228, R230 to R232: BARR at an object of this mast, once the context's stores and packets are done, counts in arrdrop where
the object is not armed, and else (where no error injection is armed) counts the arrival and merges the status 0; the arrival
that completes the phase of an object that is no pair's barrier makes the next phase and generation, and moves the merged
status; a double that is uncorrectable reads there as a free value (log entry 2). BARR in space 0xB sends its arrival. BARR.arm
of a free object sets its four doubles, with the generation and the phase kept, and answers 1, or answers 0 where the grant is
used up; BARR.dis disarms one that no pair uses; BWAIT and BWAIT.g end when the phase or the generation has moved on, with
double 0; BSTAT reads a double. -/
def Obligations.BarrierInstructionsComplete : Prop :=
  ∀ (s : State) (d : Reg) (a : RcSrc) (n : Src) (off : Nat),
    let ea := s.rc a
    let m := s.mastNo
    let w (k : Nat) := s.objDbl m off k
    let raw (k : Nat) := s.dbl (bankKey m (off + 8 * k))
    let ok (k : Nat) := s.badDouble (bankKey m (off + 8 * k)) 8 = none
    let is (u : State) (w0 w1 w2 w3 : Word) : Prop := memoryForm s → (∀ t ∈ s.tasks, bit t.2.binj 63 = false) →
      u.dbl (bankKey m off) = w0 ∧ u.dbl (bankKey m (off + 8)) = w1 ∧ u.dbl (bankKey m (off + 16)) = w2 ∧
        u.dbl (bankKey m (off + 24)) = w3 ∧
        ∀ x, x < bankKey m off ∨ bankKey m off + 32 ≤ x → Memory.get u.mem x = Memory.get s.mem x
    (s.objCheck ea [0x9, 0xB] = .ok off →
      (space ea = 0x9 → s.drained = true → s.packetsDone s.cur.ctx s.ctx.order = true →
        let k := (bits (w 1) 31 0 + 1) % 2 ^ 32
        ∃ u, exec (.barr a) s = .next u ∧ u.pc = s.pc + 4 ∧ sameRegs s u ∧
          (s.mast.armed off = false → sameMemory s u ∧ u.launch.arrdrop = s.launch.arrdrop + 1) ∧
          (s.mast.armed off = true → (∀ p ∈ s.mast.pairsAt off, p.due = none) →
            (k ≠ bits (w 0) 31 0 → is u (raw 0) (setBits (w 1) 31 0 k) (raw 2) (mergeStatus (w 3) 0)) ∧
            (k = bits (w 0) 31 0 → s.mast.pairsAt off = [] →
              is u (Word.of ((bits (w 0) 63 48 + 1) % 65536 * 2 ^ 48 + (1 - bits (w 0) 32 32) * 2 ^ 32 + bits (w 0) 31 0))
                (setBits (w 1) 31 0 0) (mergeStatus (w 3) 0) 0))) ∧
      (space ea = 0xB → s.mayTravel = true → hasRoom s 0 32 →
        ∃ u p, exec (.barr a) s = .next u ∧ u.pc = s.pc + 4 ∧ sameRegs s u ∧ sameMemory s u ∧ u.net = s.net ++ [p] ∧
          p.kind = .arrival ea 0 ∧ p.dst = 8 * bits ea 41 32)) ∧
    (s.objCheck ea [0x9] = .ok off →
      ((s.src n).toNat ≠ 0 → (s.src n).toNat < 2 ^ 32 → s.mast.armed off = false →
        (s.grant.bars ≤ (s.mast.trackers.filter fun t => decide (t.1 = s.cur.launch)).length →
          ∃ u, exec (.barrArm d a n) s = .next u ∧ wrote 1 d 0 s u) ∧
        ((s.mast.trackers.filter fun t => decide (t.1 = s.cur.launch)).length < s.grant.bars → s.released = true →
          (∀ q ∈ s.armStores off, s.buffered q = false) → s.sbFree true off 32 = true → ok 0 →
          ∃ u, exec (.barrArm d a n) s = .next u ∧ u.pc = s.pc + 4 ∧ u.reg d = (if d = .g 0 then 0 else 1) ∧
            (∀ r, r ≠ d → u.reg r = s.reg r) ∧ u.mast.armed off = true ∧
            is u (Word.of (bits (raw 0) 63 48 * 2 ^ 48 + bits (raw 0) 32 32 * 2 ^ 32 + (s.src n).toNat)) 0x8000000000000000 0 0)) ∧
      (s.mast.armed off = true → s.mast.pairsAt off = [] → s.released = true → ok 1 →
        ∃ u, exec (.barrDis a) s = .next u ∧ u.pc = s.pc + 4 ∧ sameRegs s u ∧ u.mast.armed off = false ∧
          is u (raw 0) (setBits (raw 1) 63 63 0) (raw 2) (raw 3)) ∧
      (s.mast.armed off = true → ok 0 →
        (bits (raw 0) 32 32 ≠ bits (s.src n) 0 0 →
          ∃ u, exec (.bwait d a n) s = .next u ∧ wrote 1 d (raw 0) (s.correct (bankKey m off) 8) u) ∧
        (bits (raw 0) 63 48 ≠ bits (s.src n) 15 0 →
          ∃ u, exec (.bwaitG d a n) s = .next u ∧ wrote 1 d (raw 0) (s.correct (bankKey m off) 8) u)) ∧
      (∀ k, (s.src n).toNat = k → k ≤ 3 → ok k →
        ∃ u, exec (.bstat d a n) s = .next u ∧ wrote 1 d (raw k) (s.correct (bankKey m (off + 8 * k)) 8) u))

/-- R231, R128: REMOTE_ARRIVAL applies the arrival of a packet to a held bank that is no shadow bank, and fails the launch
otherwise; PAIR_SWAP of a due pair, where no entry blocks a pair of its barrier, swaps the roles of its banks and is due no
more. -/
def Obligations.ArrivalsAndSwapsComplete : Prop :=
  ∀ (s : State),
    (∀ p ea st, s.packet s.place.a = some p → p.kind = .arrival ea st → s.mayApply p = true →
      let m := s.mastAt (bits ea 41 32)
      (m.holds p.launch (bits ea 19 16) = true → m.isShadow (bits ea 19 16) = false →
        exec .remoteArrival s = .next ((s.drop p).arrive (bits ea 41 32) p.launch (m.physOff (bits ea 19 0)) st)) ∧
      (m.holds p.launch (bits ea 19 16) = false ∨ m.isShadow (bits ea 19 16) = true →
        ∃ u, exec .remoteArrival s = .next u ∧ sameMemory s u ∧ (u.launchAt p.launch).failure ≠ none)) ∧
    (∀ p, let m := s.mastAt s.place.a
      m.pairOf s.place.b = some p → p.due.isSome = true →
      (∀ q ∈ m.pairsAt (m.physOff p.bar), q.late = [] ∧ m.swapBlocked q (q.due.getD 0) = false) →
      ∃ u q, exec .pairSwap s = .next u ∧ (u.mastAt s.place.a).pairOf s.place.b = some q ∧ q.swapped = !p.swapped ∧ q.due = none)

/-! ### The envelope accumulator (R257 to R276) -/

/-- R264, R265: an EA instruction whose operation has ended takes its outcome: it goes on (ECLAIM, ECAP and ECNT with their
result), or takes the operation's trap. While the operation runs it waits. R264, R259: the operations that name held handles,
and no memory, enter the mast's queue with a new tag (which counts its own issue, log entry 74), and their context waits; R264:
EA_START computes the head's result, and EA_COMMIT of a committed result replaces the destination's envelope, takes the
operation from the queue and tells its context. -/
def Obligations.EnvelopeAccumulatorRuns : Prop :=
  (∀ (s : State) (d : Reg) (e x y : Fin 16) (n : Src) (a : RcSrc) (w : Word),
     let values : List Instr := [.eclaim d e n, .ecap d e n, .ecnt d e]
     let effects : List Instr := [.eclr d e n, .eclrFree e, .eins e a n, .emax e x y, .esum e x y, .einf e x y, .eleg e x,
       .eeval e a n, .eread e a n]
     (s.ctx.await = .ea (some (.done w)) →
       (∀ i ∈ values, ∃ u, exec i s = .next u ∧ wrote 1 d w s u) ∧ (∀ i ∈ effects, ∃ u, exec i s = .next u ∧ wentOn 1 s u)) ∧
     (∀ c addr info, canTrap s → s.ctx.await = .ea (some (.trap c addr info)) →
       ∀ i ∈ values ++ effects, ∃ u, exec i s = .next u ∧ tookTrap c addr info s.pc s u) ∧
     (s.ctx.await = .ea none → ∀ i ∈ values ++ effects,
       ∃ u, exec i s = .next u ∧ u.ctx.status = .waiting ∧ u.pc = s.pc ∧ sameRegs s u ∧ sameMemory s u ∧ ctxOnly s u)) ∧
  ((∀ (s : State) (hi : Reg) (e x y : Fin 16) (lo : Src),
     s.ctx.await = .none → s.settled = true → s.mast.eaQueue.length < 32 →
     (∀ h ∈ [e, x, y], h.val < s.grant.env.1 ∧ (s.mast.envH s.cur.launch h.val).held = true) →
     ∀ z ∈ ([(.eclr hi e lo, .clr), (.eclrFree e, .free), (.emax e x y, .max), (.esum e x y, .sum), (.einf e x y, .inf),
         (.eleg e x, .leg)] : List (Instr × EaKind)),
       ∃ u o, exec z.1 s = .next u ∧ u.ctx.status = .waiting ∧ u.ctx.await = .ea none ∧ u.pc = s.pc ∧ sameMemory s u ∧
         u.mast.eaQueue = s.mast.eaQueue ++ [o] ∧ o.kind = z.2 ∧ o.ed = e.val ∧ o.ctx = s.cur.ctx ∧ o.result = none ∧
         o.tag = s.mast.eaCount + 1 ∧ u.mast.eaCount = s.mast.eaCount + 1) ∧
   (∀ (s : State) (o : EaOp) (rest : List EaOp),
     (s.mastAt s.place.a).eaQueue = o :: rest →
     (o.result = none → (∀ e, o.entry = some e → (s.mastAt s.place.a).opBlocked e [] = false) →
       ∃ u, exec .eaStart s = .next u ∧ sameMemory s u ∧
         (u.mastAt s.place.a).eaQueue = { o with result := some (s.eaCompute s.place.a o).1 } :: rest) ∧
     (∀ h, o.result = some (.commit h) → o.entry = none →
       ∃ u, exec .eaCommit s = .next u ∧ sameMemory s u ∧ (u.mastAt s.place.a).eaQueue = rest ∧
         (u.mastAt s.place.a).envH o.launch o.ed = h ∧ (u.ctxAt o.ctx).await = .ea (some (.done 0)) ∧
         (u.ctxAt o.ctx).eopValid = false)))

/-! ### Messages and remote atomics (R280 to R301) -/

/-- R288 to R290, R295: SEND of a message that passes every check places a packet with its bytes for its destination (the CP for
the system network) in the send queue and goes on; SENDI asks for well-formed inline code. On the reply network any context but
that of a reply message may send, on the others one that may travel. -/
def Obligations.SendsPlaceAPacket : Prop :=
  ∀ (s c : State) (d : Reg) (a : RcSrc) (n : Src) (bs : List Byte),
    let dst := (s.reg d).toNat
    let k := (s.src n).toNat
    s.engine = .mast → 8 ≤ k → k ≤ 256 → k % 8 = 0 → (s.rc a).toNat % 8 = 0 →
    s.messagePlace (s.rc a) k = true → s.messageBytes (s.rc a) k = .ok (bs, c) →
    let sent (net to_ : Nat) (kind : PKind) (i : Instr) : Prop :=
      ∃ u p, exec i s = .next u ∧ u.pc = c.pc + 4 ∧ sameRegs c u ∧ sameMemory c u ∧ u.net = c.net ++ [p] ∧ p.net = net ∧
        p.dst = to_ ∧ p.kind = kind ∧ p.ctx = c.cur.ctx
    (dst < 2 ^ 13 → s.coreIn s.cur.launch dst = true →
      (s.mayTravel = true → packetBytes k ≤ s.task.sqFree 0 → sent 0 dst (.msg bs false) (.send .req d a n)) ∧
      (s.ctx.kind ≠ .rep → packetBytes k ≤ s.task.sqFree 1 → sent 1 dst (.msg bs false) (.send .rep d a n)) ∧
      (inlineOk (Word.of (ofBytes (bs.take 8))) k = true →
        (s.mayTravel = true → packetBytes k ≤ s.task.sqFree 0 → sent 0 dst (.msg bs true) (.sendi false d a n)) ∧
        (s.ctx.kind ≠ .rep → packetBytes k ≤ s.task.sqFree 1 → sent 1 dst (.msg bs true) (.sendi true d a n)))) ∧
    (s.mayTravel = true → dst ≤ 15 → packetBytes k ≤ s.task.sqFree 3 → sent 3 (cpNode c.launch.queue) (.sysMsg dst bs) (.send .sys d a n))

/-- R293, R311: HRET of a context of a core with nothing left to do ends the context, gives its strand and its message back, and
writes no byte; HRET on a halyard's hart ends the transfer with its user code. -/
def Obligations.HretEndsTheContext : Prop :=
  ∀ (s : State),
    (s.engine ≠ .hart → (∀ sp ∈ s.core.splices, sp.ctx ≠ s.cur.ctx) → s.thimblesLeft = false → s.drained = true →
      s.ctx.eopValid = false →
      ∃ u, exec .hret s = .next u ∧ u.ctxs = s.ctxs.erase s.cur.ctx ∧ sameMemory s u ∧
        (∀ st, (s.coreAt s.ctx.core).strands[s.ctx.strand]? = some st →
          (u.coreAt s.ctx.core).strands[s.ctx.strand]? = some { st with ctx := none }) ∧
        u.launch.evdrop = s.launch.evdrop + s.ctx.pending.length ∧
        ∀ m ∈ u.task.inbox, ¬ (m.taken = true ∧ m.ctx = s.cur.ctx)) ∧
    (s.engine = .hart → s.drained = true → (s.mast.hy (hyNo s.cur.core)).queue = [] →
      ∃ u, exec .hret s = .next u ∧ u.ctx.status = .stopped ∧ sameMemory s u ∧
        (u.mast.hy (hyNo s.cur.core)).stage = .ended ∧
        (u.mast.hy (hyNo s.cur.core)).user.toNat = (s.reg (.w 8)).toNat % 256)

/-- R296, R297: a remote atomic with a reply that has come writes the old value to d (or takes the fault's cause). One that
travels (to a core, a bank or the heap) sends its request with its operands and goes on where it is posted (d is g0), or waits
for the reply, whose room it reserves; one at its own core's memory or its mast's banks acts at once, as a local atomic does.
R297, R299, R228, R201: RATOMIC_TARGET at a double of the launch's region reads it, writes the operation's result (unless an
ACAS does not match), and answers a request that waits (a posted one gets no answer). A .t request that takes its double from
another value to zero fires its trigger: the bound handler's record enters the deque, or the trigger is kept until it is bound.
Outside the region it writes nothing, and answers a fault, or fails the launch of a posted request. -/
def Obligations.RemoteAtomicsComplete : Prop :=
  (∀ (s : State) (t nat : Bool) (d e : Reg) (a : RcSrc) (v nw : Src) (p : Nat) (w : Word),
     let sv := s.src v
     let all (d : Reg) : List (Instr × Nat × AtomOp × Word) := [(.aaddRemote t d a v, 1, .add, 0),
       (.acasRemote t d a v nw, 2, .cas, s.src nw), (.axchRemote t d a v, 1, .xch, 0),
       (.aminRemote t nat d a v, 1, if nat then .minN else .min, 0), (.amaxRemote t nat d a v, 1, if nat then .maxN else .max, 0),
       (.aandRemote t d a v, 1, .and, 0), (.aorRemote t d a v, 1, .or, 0)]
     let ea := s.rc a
     (s.ctx.await = .reply p e (some (.value w)) → ∀ x ∈ all d, ∃ u, exec x.1 s = .next u ∧ wrote x.2.1 d w s u) ∧
     (∀ c addr, canTrap s → s.ctx.await = .reply p e (some (.fault c addr)) →
       ∀ x ∈ all d, ∃ u, exec x.1 s = .next u ∧ tookTrap c ea 0 s.pc s u) ∧
     ((∀ i r g, s.ctx.await ≠ .reply i r g) → ea.toNat % 8 = 0 → zeroFieldsOk ea = true →
       (∀ dst key, s.mayTravel = true → hasRoom s 0 32 →
         (space ea = 0xA ∧ s.coreIn s.cur.launch (bits ea 44 32) = true ∧ dst = bits ea 44 32 ∧ key = 0 ∨
           space ea = 0xB ∧ t = false ∧ s.mastIn s.cur.launch (bits ea 41 32) = true ∧ dst = 8 * bits ea 41 32 ∧ key = 0 ∨
           space ea = 0x0 ∧ t = false ∧ s.extentCheck ea 8 .atomic = .ok key ∧ dst = memCtl key) →
         (∀ x ∈ all (.g 0), ∃ u q, exec x.1 s = .next u ∧ u.pc = s.pc + Word.of (4 * x.2.1) ∧ sameRegs s u ∧ sameMemory s u ∧
           u.net = s.net ++ [q] ∧ q.kind = .atomic x.2.2.1 ea sv x.2.2.2 t true key ∧ q.dst = dst) ∧
         (d ≠ .g 0 → s.task.replyRoom 32 = true → ∀ x ∈ all d, ∃ u q, exec x.1 s = .next u ∧ waits s u ∧
           u.net = s.net ++ [q] ∧ q.kind = .atomic x.2.2.1 ea sv x.2.2.2 t false key ∧ q.dst = dst ∧
           u.ctx.await = .reply q.id d none ∧ u.task.ibRsv = s.task.ibRsv + 32)) ∧
       (∀ key, t = false → (space ea = 0x8 ∨ space ea = 0x9) → atomicReady s ea (space ea) key →
         let old := s.dbl key
         let c := s.correct key 8
         ∀ x ∈ all d, ∃ u, exec x.1 s = .next u ∧ wrote x.2.1 d old
           (if x.2.2.1 = .cas ∧ old ≠ sv then c else c.setDbl key (x.2.2.1.apply old sv x.2.2.2)) u))) ∧
  (∀ (s : State) (p : Packet) (op : AtomOp) (ea v nw : Word) (trig posted : Bool) (key0 : Nat),
     s.packet s.place.a = some p → p.kind = .atomic op ea v nw trig posted key0 → s.mayApply p = true → s.atomWaits ea = false →
     s.atomArmed ea = false →
     let net := s.net.filter (fun r => decide (r.id ≠ p.id))
     let answers (a : Answer) (u : State) : Prop := (posted = true → u.net = net) ∧
       (posted = false → ∃ q, u.net = net ++ [q] ∧ q.kind = .answer p.ctx a ∧ q.dst = p.src)
     let k := taskKey p.launch p.dst
     let off := bits ea 16 0
     let b := (s.taskAt k).bind.get off (0, 0)
     (∀ key, (s.drop p).atomTarget p ea key0 = some key → s.badDouble key 8 = none → memoryForm s →
       let old := s.dbl key
       let new := if op = .cas ∧ old ≠ v then old else op.apply old v nw
       let done (u : State) : Prop := exec .ratomicTarget s = .next u ∧ answers (.value old) u ∧
         u.mem = (if op = .cas ∧ old ≠ v then s.mem else Memory.write s.mem key (toBytes 8 (op.apply old v nw).toNat))
       (trig = false ∨ old = 0 ∨ new ≠ 0 → ∃ u, done u) ∧
       (trig = true → old ≠ 0 → new = 0 →
         ((s.taskAt k).bind.has off = true → (s.taskAt k).deque.length + (s.taskAt k).reserved < 256 →
           ∃ u, done u ∧ (u.taskAt k).deque = (s.taskAt k).deque ++ [taskRecord b.1 0 1 b.2 (localAddr off)]) ∧
         ((s.taskAt k).bind.has off = false → (s.taskAt k).pendTrig.length < 16 →
           ∃ u, done u ∧ (u.taskAt k).pendTrig = (s.taskAt k).pendTrig ++ [off]))) ∧
     ((s.drop p).atomTarget p ea key0 = none →
       ∃ u, exec .ratomicTarget s = .next u ∧ sameMemory s u ∧ answers (.fault 0x04 ea) u ∧
         (posted = true → (u.launchAt p.launch).failure ≠ none)))

/-- R113, R286, R292: REMOTE_STORE_APPLY writes a packet's bytes into the held bank it names and nothing else; REPLY_ARRIVE
hands an answer to the context that waits for it; PACKET_LEAVE of a packet in turn whose way has credits and is ready gives its
send share back; ERROR_REPLY counts a message fault. R286, R291, R292: MSG_ARRIVE puts a message with room into its inbox share
(a packet to a task that is gone is dropped); MSG_DISPATCH gives the next message of an idle strand's core, where no parked or
stopped context may go on first, a context of its own. -/
def Obligations.PacketsAndMessagesArrive : Prop :=
  (∀ (s : State) (p : Packet), s.packet s.place.a = some p →
     let gone (u : State) : Prop := u.net = s.net.filter (fun r => decide (r.id ≠ p.id))
     (∀ ea bs, p.kind = .rstore ea bs → s.mayApply p = true →
       let m := s.mastAt (bits ea 41 32)
       let b := bits ea 19 16
       let off := m.storeBank b * 65536 + bits ea 15 0
       conflict m.sb true (off / 32) ((off + bs.length + 31) / 32) = false → m.holds p.launch b = true → m.isShadow b = false →
       m.touchesArmed (off / 8 * 8) 8 = false →
       ∃ u, exec .remoteStoreApply s = .next u ∧ gone u ∧ u.mem = Memory.write s.mem (bankKey (bits ea 41 32) off) bs) ∧
     (∀ c a id d, p.kind = .answer c a → (s.ctxAt c).await = .reply id d none → s.mayApply p = true →
       ∃ u, exec .replyArrive s = .next u ∧ gone u ∧ sameMemory s u ∧ (u.ctxAt c).await = .reply id d (some a) ∧
         (u.ctxAt c).pc = (s.ctxAt c).pc) ∧
     (p.left = false → s.hasCredits p = true → s.pathReady p = true → s.inTurn p = true →
       ∃ u, exec .packetLeave s = .next u ∧ sameMemory s u ∧ (∀ q ∈ u.net, q.id = p.id → q.left = true) ∧
         (p.net ≠ 2 → (u.taskAt (taskKey p.launch p.src)).sqUsed =
           (s.taskAt (taskKey p.launch p.src)).sqUsed.sub p.net p.bytes) ∧
         (p.net = 2 → (u.coreAt p.src).stealSq = (s.coreAt p.src).stealSq - p.bytes)) ∧
     (p.kind = .errReply → s.mayApply p = true →
       ∃ u, exec .errorReply s = .next u ∧ gone u ∧ sameMemory s u ∧
         (u.taskAt (taskKey p.launch p.dst)).mfault = Nat.min ((s.taskAt (taskKey p.launch p.dst)).mfault + 1) (2 ^ 32 - 1))) ∧
  ((∀ (s : State) (p : Packet) (bs : List Byte) (inl : Bool),
     let k := taskKey p.launch p.dst
     s.packet s.place.a = some p → p.kind = .msg bs inl → s.mayApply p = true →
     ((s.taskAt k).live = false →
       ∃ u, exec .msgArrive s = .next u ∧ u.net = s.net.filter (fun r => decide (r.id ≠ p.id)) ∧ sameMemory s u) ∧
     (∀ off, (s.taskAt k).live = true → (s.launchAt p.launch).killed = false → (s.taskAt k).runFor p.net bs.length = some off →
       ∃ u, exec .msgArrive s = .next u ∧ u.net = s.net.filter (fun r => decide (r.id ≠ p.id)) ∧
         u.mem = Memory.write s.mem (localKey p.dst off) bs ∧
         (u.taskAt k).inbox = (s.taskAt k).inbox ++ [⟨p.net, Word.of p.src, bs.length, inl, off, false, 0⟩])) ∧
   (∀ (s : State) (k ix : Nat) (m : Msg),
     let core := s.place.a
     s.mayTakeNew core s.place.b = true → s.nextMessage core = some (k, ix, m) → m.inl = true → s.nextCtx ≠ 0 →
     ∃ u, exec .msgDispatch s = .next u ∧ sameMemory s u ∧ (u.ctxAt s.nextCtx).status = .running ∧
       (u.ctxAt s.nextCtx).kind = msgKind m.net ∧ (u.ctxAt s.nextCtx).pc = localAddr m.off + 8 ∧
       (u.ctxAt s.nextCtx).strand = s.place.b))

/-- R298 to R300: TBIND of a local double binds it to a handler, and TUNBIND of one removes its binding. R130: a write of binj
that does not arm, or that names a bank the launch holds and a mask it may have, sets the fields of binj. -/
def Obligations.TriggersAndInjectionsComplete : Prop :=
  (∀ (s : State) (k : Reg) (a h : RcSrc),
     let off := bits (s.rc a) 16 0
     s.trigCheck (s.rc a) = .ok () →
     (∀ i, (s.rc h).toNat % 4 = 0 → s.task.handlerIndex (s.rc h) = some i →
       (s.task.bind.has off = true ∨ s.task.bind.length < 32) → (∀ p ∈ s.task.pendTrig, p ≠ off) →
       ∃ u, exec (.tbind k a h) s = .next u ∧ u.pc = s.pc + 4 ∧ sameRegs s u ∧ sameMemory s u ∧
         u.task.bind = s.task.bind.set off (i, BitVec.ofNat 32 (s.reg k).toNat)) ∧
     (∃ u, exec (.tunbind a) s = .next u ∧ u.pc = s.pc + 4 ∧ sameRegs s u ∧ sameMemory s u ∧ u.task.bind = s.task.bind.erase off)) ∧
  (∀ (s : State) (r : Reg),
     let v := s.reg r
     let w := popcN 8 (bits v 7 0)
     s.engine = .mast →
     (bit v 63 = true → s.mast.holds s.cur.launch (bits v 51 48) = true ∧ w ≠ 3 ∧ w ≠ 5 ∧ w ≠ 7) →
     ∃ u, exec (.binjArm r) s = .next u ∧ u.pc = s.pc + 4 ∧ sameRegs s u ∧ sameMemory s u ∧
       u.task.binj = v &&& 0x800F03FF000007FF)

/-! ### Control and status registers, system calls (R103 to R106, R130, R375) -/

/-- R103, R104, R312, R381: CSRR of a number that its engine can read, other than those whose reads are instructions of their
own, writes the register's value to d, on a mast core, a tackle core and a hart; CYC writes the core's cycle count in every
state. A CSRW that a task may make sets the register it names and nothing else; one to a register that traps takes 0x15 with the
number, as every access to a number of a closed range does, and to a hart's number on a mast core. A number that no chapter
assigns takes 0x01 with field 5. -/
def Obligations.CsrInstructionsComplete : Prop :=
  ∀ (s : State) (d r : Reg) (n : BitVec 12),
    let k := n.toNat
    let c := s.ctx
    let v := s.reg r
    let isOpen := csrClosed k = false ∧ (s.engine = .mast → hartCsr k = false)
    let ctxWrites : List (Nat × Context) := [(0x010, { c with trapcause := v.truncate 8 }), (0x011, { c with trapaddr := v }),
      (0x012, { c with trappc := v }), (0x013, { c with trapinfo := v }), (0x015, { c with eamask := v.getLsbD 2 }),
      (0x018, { c with uien := v.getLsbD 0 }), (0x01B, { c with uipc := v }), (0x020, { c with parkthr := v }),
      (0x0C0, { c with etol := v }), (0x100, { c with hsrc := v }), (0x101, { c with hdst := v }), (0x102, { c with hlen := v }),
      (0x103, { c with hstr := v }), (0x104, { c with hpb := v }), (0x105, { c with harg := v }), (0x106, { c with hctl := v })]
    let taskWrites : List (Nat × Task) := [(0x014, { s.task with tvec := v }), (0x01C, { s.task with uivec := v })]
    (isOpen → csrReadRow k = false →
      (s.engine = .mast → csrAssigned k = true → ∃ u, exec (.csrr d n) s = .next u ∧ wrote 1 d (s.csr k) s u) ∧
      (s.engine = .tackle → csrReads .tackle k = true → ∃ u, exec (.csrr d n) s = .next u ∧ wrote 1 d (s.csrTackle k) s u) ∧
      (s.engine = .hart → csrReads .hart k = true → ∃ u, exec (.csrr d n) s = .next u ∧ wrote 1 d (s.csrHart k) s u)) ∧
    (isOpen → csrWriteRow k = false → csrOn s.engine k = true → csrWriteTraps k = false →
      ∃ u, exec (.csrw n r) s = .next u ∧ u.pc = s.pc + 4 ∧ sameRegs s u ∧ sameMemory s u ∧
        (∀ j, j ≠ s.cur.ctx → u.ctxAt j = s.ctxAt j) ∧ (∀ j, j ≠ s.cur.task → u.taskAt j = s.taskAt j) ∧
        (s.engine ≠ .hart → { u with ctxs := s.ctxs, tasks := s.tasks } = s ∧
          (∀ x ∈ ctxWrites, k = x.1 → { u.ctx with pc := c.pc } = x.2) ∧
          ((∀ x ∈ ctxWrites, k ≠ x.1) → { u.ctx with pc := c.pc } = c) ∧
          (∀ x ∈ taskWrites, k = x.1 → u.task = x.2) ∧ ((∀ x ∈ taskWrites, k ≠ x.1) → u.task = s.task)) ∧
        (s.engine = .hart → { u with ctxs := s.ctxs, masts := s.masts } = s ∧ { u.ctx with pc := c.pc } = c ∧
          u.hart = (if k = 0x110 then { s.hart with mvsrc := v } else if k = 0x111 then { s.hart with mvdst := v } else s.hart))) ∧
    (canTrap s → isOpen → csrOn s.engine k = true → csrWriteTraps k = true →
      ∃ u, exec (.csrw n r) s = .next u ∧ tookTrap 0x15 s.pc (Word.of k) s.pc s u) ∧
    (canTrap s → ¬ isOpen →
      (∃ u, exec (.csrr d n) s = .next u ∧ tookTrap 0x15 s.pc (Word.of k) s.pc s u) ∧
      (∃ u, exec (.csrw n r) s = .next u ∧ tookTrap 0x15 s.pc (Word.of k) s.pc s u)) ∧
    (canTrap s → isOpen → csrOn s.engine k = false →
      (csrReads s.engine k = false → ∃ u w, exec (.csrr d n) s = .next u ∧ tookTrap 0x01 s.pc w s.pc s u ∧ bits w 63 32 = 5) ∧
      (∃ u w, exec (.csrw n r) s = .next u ∧ tookTrap 0x01 s.pc w s.pc s u ∧ bits w 63 32 = 5)) ∧
    (∃ u, exec (.cyc d) s = .next u ∧ wrote 1 d s.core.cyc s u)

/-- R375: SYSC of a context that may travel, with room for its request, answers in the same step (the model's reading, log entry
59): beat clears the watchdog count of the launch's queue, info writes the launch's number, and fail fails the launch with cause
0x42 and the low half of its operand. -/
def Obligations.SystemCallsComplete : Prop :=
  ∀ (s : State) (d : Reg) (a : Src),
    s.engine ≠ .tackle → s.mayTravel = true → hasRoom s 3 32 →
    (∃ u, exec (.syscBeat d a) s = .next u ∧ u.pc = s.pc + 4 ∧ u.reg d = 0 ∧ sameMemory s u ∧
      (u.queues.get s.launch.queue Queue.init).wcount = 0 ∧ { u with ctxs := s.ctxs, tasks := s.tasks, queues := s.queues } = s) ∧
    (∃ u, exec (.syscInfo d a) s = .next u ∧ wrote 1 d s.task.ltask s u) ∧
    (∃ u, exec (.syscFail d a) s = .next u ∧ u.ctx.status = .failed ∧ sameRegs s u ∧ sameMemory s u ∧
      (s.launch.failure = none → ∃ f, u.launch.failure = some f ∧ f.cause = 0x42 ∧ f.user = (s.src a).toNat % 2 ^ 32 ∧
        f.core = s.cur.core))

/-! ### Halyards (R305 to R318) and copied payloads (R161, R162) -/

/-- R312, R317: MVGO of a legal mode and count with room in the queue queues the move that its registers name; MVWAIT with no
move left answers the flags, those since the transfer began; HIDX takes the next index line and answers its length; HIDXW takes
the next word of the line, and answers all ones at its end. MVGO of an illegal mode or count traps with 0x01, and MVWAIT with a
move left waits. The 0x01 and that the flags are those since the transfer began are the model's reading (log entry 34). R311 to
R313, R317: a halyard starts the transfer at the head of its journal, as its own datapath for a shipped kernel and on a hart at
the kernel's entry otherwise, or rejects it with 0x0D before its first move where it is known to write a compressed or EF8
destination with a budget below 8 bytes (log entry 33); it performs its oldest move, or stops at the move's trap; and with
everything it writes performed it retires the entry, then writes the mailbox, and then, where no event is asked for, is done
with the transfer (these steps are log entry 34). R307, R308, R309: a read of hlaunch whose checks pass journals the transfer
and answers its identifier, or answers 0 where no journal has room. -/
def Obligations.HalyardTransfersRun : Prop :=
  (∀ (s : State) (d r : Reg), s.engine = .hart →
     let v := s.reg r
     let m : Move := ⟨s.hart.mvsrc, s.hart.mvdst, bits v 35 32, bits v 31 0, s.ctx.order, s.ctx.relOrd⟩
     let legal := bits v 63 36 = 0 ∧ m.mode < 6 ∧ moveCountOk m.mode m.n = true
     (∀ t rest, legal → s.hart.queue.length < 8 → s.hart.journal = t :: rest → ∀ c, s.moveCheck t m = .ok c →
       ∃ u, exec (.mvgo r) s = .next u ∧ acted 1 c u ∧ u.hart = { c.hart with queue := s.hart.queue ++ [m] }) ∧
     (¬ legal → exec (.mvgo r) s = .next (s.trapEntry 0x01 s.pc 0 s.pc)) ∧
     (s.hart.queue = [] → ∃ u, exec (.mvwait d) s = .next u ∧ wrote 1 d (Word.of s.hart.flags) s u) ∧
     (s.hart.queue ≠ [] → ∃ u, exec (.mvwait d) s = .next u ∧ waits s u) ∧
     (∀ l rest, s.hart.ixLines = l :: rest → ∃ u, exec (.hidx d) s = .next u ∧ answered 1 d (Word.of l.length) s u ∧
       u.hart = { s.hart with ixLines := rest, ixCur := l }) ∧
     (∀ x rest, s.hart.ixCur = x :: rest → ∃ u, exec (.hidxw d) s = .next u ∧ answered 1 d (x.zeroExtend 64) s u ∧
       u.hart = { s.hart with ixCur := rest }) ∧
     (s.hart.ixCur = [] → ∃ u, exec (.hidxw d) s = .next u ∧ wrote 1 d 0xFFFFFFFFFFFFFFFF s u)) ∧
  (∀ (s : State) (t : Transfer) (rest : List Transfer),
     let mast := s.place.a
     let h := s.place.b
     let y := s.hyAt mast h
     y.journal = t :: rest →
     (y.stage = .idle → s.runs t.launch = true → t.told = false → (s.needsBudget mast t = false ∨ 8 ≤ t.budgetOf) →
       (t.kernel ≤ 4 → ∃ u, exec .halyardStart s = .next u ∧ sameMemory s u ∧ u.ctxs = s.ctxs ∧
         (u.hyAt mast h).stage = .running ∧ (u.hyAt mast h).plan = planOf t ∧ (u.hyAt mast h).journal = y.journal) ∧
       (4 < t.kernel → t.copy = none → s.nextCtx ≠ 0 → ∃ u, exec .halyardStart s = .next u ∧ sameMemory s u ∧
         (u.hyAt mast h).stage = .running ∧ (u.hyAt mast h).hart = s.nextCtx ∧
         (u.ctxAt s.nextCtx).status = .running ∧ (u.ctxAt s.nextCtx).core = hartCore mast h ∧
         (u.ctxAt s.nextCtx).pc = Word.of (0x1000 + 256 * ((s.mastAt mast).grants.get t.launch Grant.init).ucode.1 +
           (s.launchAt t.launch).kernels.get t.kernel 0))) ∧
     (y.stage = .idle → s.runs t.launch = true → t.told = false → s.needsBudget mast t = true → t.budgetOf < 8 →
       ∃ u, exec .halyardStart s = .next u ∧ sameMemory s u ∧ u.ctxs = s.ctxs ∧ (u.hyAt mast h).stage = .ended ∧
         (u.hyAt mast h).fault = some (0x0D, t.hdst) ∧ (u.hyAt mast h).journal = y.journal) ∧
     (∀ v, y.nextMove = some v → y.stage = .running → s.runs t.launch = true →
       s.moveInOrder y v = true → (s.mastAt mast).opBlocked t.entry [] = false →
       (∀ m, (s.asHart mast h t).move mast h t v = .ok m →
         ∃ u, exec .movePerform s = .next u ∧ u.mem = m.s.mem ∧ (u.hyAt mast h).flags = (m.s.hyAt mast h).flags ||| m.flags) ∧
       (∀ c a i, (s.asHart mast h t).move mast h t v = .error (.trap c a i) →
         ∃ u, exec .movePerform s = .next u ∧ sameMemory s u ∧ (u.hyAt mast h).stage = .ended ∧
           (u.hyAt mast h).fault = some (c, a) ∧ (u.hyAt mast h).queue = [])) ∧
     (s.runs t.launch = true →
       (y.stage = .ended → y.queue = [] → (y.hart = 0 ∨ (s.ctxAt y.hart).storeBuf = []) →
         (∀ p ∈ s.net, ¬ (p.src = hartCore mast h ∧ p.launch = t.launch)) →
         ∃ u, exec .halyardComplete s = .next u ∧ sameMemory s u ∧ (u.hyAt mast h).journal = y.journal ∧
           (u.hyAt mast h).stage = .retired ∧ (u.mastAt mast).sb = ((s.mastAt mast).retire t.entry).sb) ∧
       (∀ v, y.stage = .retired → (s.asHart mast h t).writeMbox t y = .ok v → t.bar = 0 → t.copy = none →
         ∃ u, exec .halyardComplete s = .next u ∧ u.mem = v.mem ∧ (u.hyAt mast h).stage = .reported) ∧
       (y.stage = .reported → t.irq = false →
         ∃ u, exec .halyardComplete s = .next u ∧ sameMemory s u ∧ (u.hyAt mast h).journal = rest ∧
           (u.hyAt mast h).stage = .idle))) ∧
  (∀ (s t v w : State) (d : Reg) (key : Nat) (bs : List Byte),
     let c := s.ctx
     let p := paramBlock bs
     let rlen := bits (p.getD 4 0) 31 0
     let wlen := bits (p.getD 4 0) 63 32
     s.engine = .mast → s.drained = true → s.packetsDone s.cur.ctx c.order = true → s.kernelOk c.hctl = true →
     s.memCheck c.hpb 64 .load [0x0, 0x9] = .ok key → s.readChecked c.hpb key 64 = .ok (bs, t) → s.blockOk p = true →
     lenOk c.hlen = true → rlen ≠ 0 → wlen ≠ 0 → t.spanCheck (p.getD 3 0) rlen .load [0x0, 0x9] = .ok v →
     v.spanCheck (p.getD 5 0) wlen .store [0x0, 0x9, 0xB] = .ok w → w.spanArmed (p.getD 5 0) wlen = false →
     (w.mast.journalFor (bits c.hctl 1 0) = none → ∃ u, exec (.launchRead d) s = .next u ∧ wrote 1 d 0 w u) ∧
     (∀ h slot e sh, w.mast.journalFor (bits c.hctl 1 0) = some (h, slot) → w.myEntry = some (e, sh) →
       ∃ u x, exec (.launchRead d) s = .next u ∧ answered 1 d (x.id.zeroExtend 64) w u ∧
         (u.mast.hy h).journal = (w.mast.hy h).journal ++ [x] ∧ x.id = transferId ((w.mast.hy h).seq + 1) h slot ∧
         x.hsrc = w.ctx.hsrc ∧ x.hdst = w.ctx.hdst ∧ x.rlo = p.getD 3 0 ∧ x.wlo = p.getD 5 0))

/-- R161, R162: NDUP of a payload with a sharer to spare shares it, counts the sharer and answers 0; NOWN of a payload with one
sharer answers 0. Where the sharers are at their limit, or NOWN finds several, the payload's copy to the spare address is
journalled on a halyard, after the context's earlier accesses (R335), and the context waits for it. Once it is made, it has one
sharer and is the node's payload: NDUP answers 1, NOWN 1, or 2 where the old payload has no sharer left. -/
def Obligations.SharedPayloadsComplete : Prop :=
  ∀ (s c : State) (d t r : Reg) (k : Nat) (h : Word),
    let x := s.reg t
    let y := s.reg r
    let a := s.reg d
    let desc := (s.nodeOf y).desc
    let dup := Instr.ndup d t r
    let own := Instr.nown d r
    let copies (i : Instr) : Prop := ∀ (v : State) (n slot e : Nat) (sh : Bool),
      c.spareCheck a (payloadSize h) = .ok v → v.copying desc a = none → v.mast.journalFor 2 = some (n, slot) →
      v.settled = true → v.myEntry = some (e, sh) →
      ∃ u T, exec i s = .next u ∧ waits v u ∧ u.ctx.await = .copy T.id a ∧ (u.mast.hy n).journal = (v.mast.hy n).journal ++ [T] ∧
        T.hsrc = desc ∧ T.hdst = a ∧ T.rlen = payloadSize h ∧ T.copy = some (v.cur.ctx, a)
    s.released = true → desc ≠ 0 →
    (s.chk x false .netW = .ok () → s.chk y false .net = .ok () → (s.nodeOf x).desc = 0 →
      (s.payload desc = .ok (k, h, c) → (∀ b f, s.ctx.await ≠ .copied b f) → (∀ j b, s.ctx.await ≠ .copy j b) →
        (countOf h < 65535 → ∃ u, exec dup s = .next u ∧ u.pc = s.pc + 4 ∧ u.reg d = 0 ∧ (∀ e, e ≠ d → u.reg e = s.reg e) ∧
          (u.nodeOf x).desc = desc ∧ u.mem = Memory.write s.mem k (toBytes 8 (setBits h 63 48 (countOf h + 1)).toNat)) ∧
        (countOf h = 65535 → copies dup)) ∧
      (∀ b k', s.ctx.await = .copied b none → s.payloadKey (s.globalAddr b) .atomic = .ok k' → s.keyBusy true k' 8 = false →
        ∃ u, exec dup s = .next u ∧ u.pc = s.pc + 4 ∧ u.reg d = (if d = .g 0 then 0 else 1) ∧ (∀ e, e ≠ d → u.reg e = s.reg e) ∧
          (u.nodeOf x).desc = s.globalAddr b ∧ u.mem = Memory.write s.mem k' (toBytes 8 (setBits (s.dbl k') 63 48 1).toNat)) ∧
      (∀ j b, s.ctx.await = .copy j b → ∃ u, exec dup s = .next u ∧ waits s u)) ∧
    (s.chk y false .netW = .ok () →
      (s.payload desc = .ok (k, h, c) → (∀ b f, s.ctx.await ≠ .copied b f) → (∀ j b, s.ctx.await ≠ .copy j b) →
        (countOf h = 1 → ∃ u, exec own s = .next u ∧ wrote 1 d 0 c u) ∧ (1 < countOf h → copies own)) ∧
      (∀ b k', s.ctx.await = .copied b none → s.payload desc = .ok (k, h, c) →
        (c.setCount k (countOf h - 1)).payloadKey (s.globalAddr b) .atomic = .ok k' →
        (c.setCount k (countOf h - 1)).keyBusy true k' 8 = false →
        ∃ u, exec own s = .next u ∧ u.pc = s.pc + 4 ∧ u.reg d = (if d = .g 0 then 0 else if countOf h = 1 then 2 else 1) ∧
          (∀ e, e ≠ d → u.reg e = s.reg e) ∧ (u.nodeOf y).desc = s.globalAddr b ∧
          u.mem = ((c.setCount k (countOf h - 1)).setCount k' 1).mem) ∧
      (∀ j b, s.ctx.await = .copy j b → ∃ u, exec own s = .next u ∧ waits s u))

/-! ### Streams, graphs and shroud links (R377 to R389) -/

/-- R386: SOPEN whose checks pass waits for the peer's, and with the same stream id, the opposite direction and the same
checksum it answers the handle, once what its context wrote before is performed (R387); with another checksum it answers all
ones, and no stream is left. SPUT and SGET of one token move its elements, and a SPUT without credit waits with its elements
read; SCLOSE answers the count of a stream that has closed, or that is done and whose writes have drained (R389), and waits
otherwise. That a stream which its peer has closed before the local SOPEN ends is opened and then closed with code 4, a case of
which R388 does not speak, and that a SPUT reads at its first execution and an SGET writes when all has come, are the model's
choices (log entry 77). R383 to R385: a ready operation of a running graph takes the front token of each of its queues and
publishes its result, a queue that it names twice loses its head once; one whose result no token holds stops the graph, once the
writes before the close of its streams have drained (log entry 38); a queue-bound stream moves one token between its link and
its queue. -/
def Obligations.StreamsAndGraphsRun : Prop :=
  (∀ (s : State) (d h : Reg) (a : RcSrc) (n : Src) (x : Stream),
     let k := (s.src n).toNat
     let link := shroudOf x.tackle
     let next : Stream := { x with moved := x.moved + k }
     let peer := (s.shroudAt link).peerOpen x.tackle x.sid x.dir
     let shut := (s.shroudAt link).peerShut x.tackle x.sid x.dir
     let t := s.putShroud link ((s.shroudAt link).takePeer x.tackle x.sid x.dir)
     let y : Stream := { x with opened := true, peerEnd := shut }
     (∀ t, s.opening s.cur.ctx = none → s.sopenStart (s.rc a) = .ok t → (∀ i, (t.shroudAt i).peers = []) →
       exec (.sopen d a) s = .next t.waiting) ∧
     (s.opening s.cur.ctx = some x → peer ≠ none →
       (s.closeReady s.cur.ctx = false → ∃ u, exec (.sopen d a) s = .next u ∧ waits s u ∧ u.streams = s.streams) ∧
       (s.closeReady s.cur.ctx = true →
         (peer = some (blockCrc x.dbl) → ∃ u, exec (.sopen d a) s = .next u ∧ u.pc = s.pc + 4 ∧
           u.reg d = (if d = .g 0 then 0 else Word.of x.handle) ∧ (∀ r, r ≠ d → u.reg r = s.reg r) ∧
           (shut = false → u.mem = ((t.setStream y).blockWrite y 48 [0]).mem ∧ y ∈ u.streams) ∧
           (shut = true → x.held = true → { y with code := 4 } ∈ u.streams)) ∧
         (peer ≠ some (blockCrc x.dbl) → ∃ u, exec (.sopen d a) s = .next u ∧ u.pc = s.pc + 4 ∧
           u.reg d = (if d = .g 0 then 0 else BitVec.allOnes 64) ∧ (∀ r, r ≠ d → u.reg r = s.reg r) ∧
           ∀ z ∈ u.streams, z.id ≠ x.id))) ∧
     (∀ bs t, s.streamFor (s.reg h) k true = .ok x → k ≠ 0 → x.size ≠ 0 → k * x.size ≤ 256 → x.sends = [] → x.tx = [] → x.q = 31 →
       s.readNest x.dbl x.size k x.moved = .ok (bs, t) → t.streams = s.streams → bs.length = k * x.size →
       (x.credit ≠ 0 → (t.shroudAt link).flows = true →
         ∃ u, exec (.sput h n) s = .next u ∧ acted 1 t u ∧ { next with credit := x.credit - 1 } ∈ u.streams ∧
           (u.shroudAt link).sent = (t.shroudAt link).sent ++ tokenFlits (x.tackle % 2) x.sid 8 bs) ∧
       (x.credit = 0 → ∃ u, exec (.sput h n) s = .next u ∧ waits t u ∧ u.shrouds = t.shrouds ∧
         { x with sends := [⟨s.cur.ctx, s.pc, x.moved + k⟩], tx := [bs] } ∈ u.streams)) ∧
     (∀ b rest t, s.streamFor (s.reg h) k false = .ok x → k ≠ 0 → x.stage = [] → x.rx = b :: rest → x.size ≠ 0 →
       b.length = k * x.size → s.checkNest x.dbl x.size k x.moved = .ok () → s.writeNest x.dbl x.size k x.moved b = .ok t → t.streams = s.streams →
       ∃ u, exec (.sget h n) s = .next u ∧ acted 1 t u ∧
         { next with rx := rest, writers := (if x.writers.contains s.cur.ctx then x.writers else x.writers ++ [s.cur.ctx]) } ∈ u.streams ∧
         (u.shroudAt link).sent = (t.shroudAt link).sent ++ [.credit (x.tackle % 2) x.sid 1]) ∧
     (k < 16 → s.streamOf (tackleOf s.cur.core) k = some x →
       (x.code ≠ 0 → ∃ u, exec (.sclose d n) s = .next u ∧ answered 1 d (Word.of x.moved) s u ∧
         ∀ y ∈ u.streams, y.id = x.id → y.held = false) ∧
       (x.code = 0 → x.moved = x.total → (x.dir = 0 ∨ x.acked = x.total) → s.closeReady s.cur.ctx = true →
         s.streamDrained x = true →
         ∃ u, exec (.sclose d n) s = .next u ∧ u.pc = s.pc + 4 ∧ u.reg d = (if d = .g 0 then 0 else Word.of x.moved)) ∧
       (x.code = 0 → x.moved ≠ x.total ∨ s.closeReady s.cur.ctx = false ∨ s.streamDrained x = false → ∃ u, exec (.sclose d n) s = .next u ∧ waits s u))) ∧
  (∀ (s : State),
     let t := s.tackleAt s.place.a
     let link := shroudOf s.place.a
     (∀ o l, t.graph[s.place.b]? = some o → t.opReady o = true →
       ((t.graph.take s.place.b).any fun p => decide (p.core = o.core) && t.opReady p) = false → t.stop = false →
       t.holder = some l → (s.launchAt l).status = .resident → (s.launchAt l).killed = false →
       let r := graphResult o (o.ins.map fun q => (t.queues.get q []).headD [])
       (∀ b, r = some b → o.out ∉ o.ins → ∃ u, exec .graphFire s = .next u ∧ sameMemory s u ∧
         (u.tackleAt s.place.a).queues.get o.out [] = t.queues.get o.out [] ++ [b] ∧
         ∀ q ∈ o.ins, (u.tackleAt s.place.a).queues.get q [] = (t.queues.get q []).tail) ∧
       (r = none → (∀ x ∈ s.streams, x.tackle = s.place.a → x.q ≠ 31 → x.opened = true → x.code = 0 → s.streamDrained x = true) →
         ∃ u, exec .graphFire s = .next u ∧ (u.tackleAt s.place.a).stop = true)) ∧
     (∀ x b rest, (s.streams.find? fun x => decide (x.tackle = s.place.a) && decide (x.handle = s.place.b) && x.opened &&
         decide (x.code = 0)) = some x → x.bound = true → (s.shroudAt link).flows = true → t.stop = false →
       x.moved + b.length / x.size ≤ x.total →
       (x.dir = 0 → x.rx = b :: rest → t.room x.q = true →
         ∃ u, exec .streamToken s = .next u ∧ sameMemory s u ∧
           (u.tackleAt s.place.a).queues.get x.q [] = t.queues.get x.q [] ++ [b] ∧
           { x with rx := rest, moved := x.moved + b.length / x.size } ∈ u.streams ∧
           (u.shroudAt link).sent = (s.shroudAt link).sent ++ [.credit (x.tackle % 2) x.sid 1]) ∧
       (x.dir ≠ 0 → t.queues.get x.q [] = b :: rest → x.credit ≠ 0 → b.length % x.size = 0 →
         ∃ u, exec .streamToken s = .next u ∧ sameMemory s u ∧ (u.tackleAt s.place.a).queues.get x.q [] = rest ∧
           { x with credit := x.credit - 1, moved := x.moved + b.length / x.size } ∈ u.streams ∧
           (u.shroudAt link).sent = (s.shroudAt link).sent ++ tokenFlits (x.tackle % 2) x.sid 8 b)))

/-- R377 to R379, R386, R387: a flit that opens is kept for the SOPEN that meets it; the flits of a token gather, and with its
last one the token enters the receive window and is acknowledged; acknowledgements and credit are added; a close is noted, and
one with the code of a launch that is killed or pre-empted (5) or of a graph fault (6) closes this end with 4 (R388); flits that
the peer's end acknowledges leave the replay buffer; a retrain begins, and ends with the lanes that are left: with fewer than
four the port is down; a port that fails takes its peer's opens and ends every stream it carries. The model's choices and
readings, no rules of the manual: the close of a stream that still opens here is kept behind its open (log entry 77), an
acknowledgement at arrival (log entry 36), one event for both ends of a retrain (log entry 39), and sent, acked and the replay
buffer (log entry 72). -/
def Obligations.ShroudLinksCarryFlits : Prop :=
  ∀ (s : State) (n t sid : Nat),
    let x := s.shroudAt n
    (x.flows = true →
      (∀ dir c, ∃ u, exec (.shroudFlitArrive n (.open_ t sid dir c)) s = .next u ∧ sameMemory s u ∧
        (u.shroudAt n).peers = x.peers ++ [.open_ t sid dir c]) ∧
      (∀ y bs, s.streamBySid (2 * n + t) sid true = some y → y.code = 0 → y.rx.length < y.win → bs.length ≤ 32 →
        let b := y.rxPart ++ bs
        b.length ≤ 256 →
        (b ≠ [] → b.length % y.size = 0 → ∃ u, exec (.shroudFlitArrive n (.data t sid bs true)) s = .next u ∧ sameMemory s u ∧
          { y with rx := y.rx ++ [b], rxPart := [] } ∈ u.streams ∧
          (u.shroudAt n).sent = x.sent ++ [.ack (y.tackle % 2) y.sid (b.length / y.size)]) ∧
        (bs.length = 32 → ∃ u, exec (.shroudFlitArrive n (.data t sid bs false)) s = .next u ∧ sameMemory s u ∧
          { y with rxPart := b } ∈ u.streams ∧ (u.shroudAt n).sent = x.sent)) ∧
      (∀ y k, s.streamBySid (2 * n + t) sid false = some y →
        (∃ u, exec (.shroudFlitArrive n (.credit t sid k)) s = .next u ∧ sameMemory s u ∧ { y with credit := y.credit + k } ∈ u.streams) ∧
        (y.acked + k ≤ y.moved → ∃ u, exec (.shroudFlitArrive n (.ack t sid k)) s = .next u ∧ sameMemory s u ∧
          { y with acked := y.acked + k } ∈ u.streams)) ∧
      (∀ y dir c, s.streamBySid (2 * n + t) sid (decide (dir ≠ 0)) = some y → y.code = 0 → c ≠ 5 → c ≠ 6 →
        ∃ u, exec (.shroudFlitArrive n (.close t sid dir c)) s = .next u ∧ sameMemory s u ∧ { y with peerEnd := true } ∈ u.streams) ∧
      (∀ y dir c, s.streamBySid (2 * n + t) sid (decide (dir ≠ 0)) = some y → y.code = 0 → c = 5 ∨ c = 6 → y.held = true →
        s.streamDrained y = true → ∃ u, exec (.shroudFlitArrive n (.close t sid dir c)) s = .next u ∧
          { y with peerEnd := true, code := 4 } ∈ u.streams) ∧
      (∀ y ∈ s.streams, ∀ c, let dir := if y.dir = 0 then 1 else 0
        y.opened = false → t < 2 → y.tackle = 2 * n + t → y.sid = sid → s.streamBySid (2 * n + t) sid (decide (dir ≠ 0)) = none →
        x.peers.countP (flitMeets false t sid y.dir) < x.peers.countP (flitMeets true t sid y.dir) →
        ∃ u, exec (.shroudFlitArrive n (.close t sid dir c)) s = .next u ∧ sameMemory s u ∧ u.streams = s.streams ∧
          (u.shroudAt n).peers = x.peers ++ [.close t sid dir c]) ∧
      (∀ k, x.acked + k ≤ x.sent.length → ∃ u, exec (.shroudFlitArrive n (.linkAck k)) s = .next u ∧ sameMemory s u ∧
        (u.shroudAt n).replay = x.replay.drop k ∧ (u.shroudAt n).sent = x.sent)) ∧
    (∀ lanes, n < 16 → s.plat.ready = true →
      (x.training = false → ∃ u, exec (.shroudRetrain n lanes) s = .next u ∧ sameMemory s u ∧
        (u.shroudAt n).training = true ∧ u.streams = s.streams) ∧
      (x.training = true → ∃ u, exec (.shroudRetrain n lanes) s = .next u ∧ sameMemory s u ∧
        (u.shroudAt n).training = false ∧ (u.shroudAt n).lanes = Nat.min lanes x.lanes ∧
        (u.shroudAt n).up = decide (4 ≤ Nat.min lanes x.lanes))) ∧
    (n = s.place.a → n < 16 → s.plat.ready = true → (x.training = true ∨ x.up = false) →
      (∀ y ∈ s.streams, shroudOf y.tackle = n → s.streamDrained y = true) →
      ∃ u, exec .shroudFail s = .next u ∧ (u.shroudAt n).up = false ∧ (u.shroudAt n).training = false ∧
        (u.shroudAt n).peers = [] ∧ ∀ y ∈ u.streams, shroudOf y.tackle = n → y.opened = true ∧ y.peerEnd = true)

/-! ### Matrix yards (R202 to R237) -/

/-- R218 to R221: a yard's running YNOP and YZERO finish, YZERO with a tile of zeros; a YLOAD that nothing older blocks puts its
rows into the tile and finishes, or finishes with the format fault; a YSTORE stores the tile's rows and leaves the tile, whose
rows in error become poisoned; and a posted YGANG at the head of its queue joins the gang it names. R218, R222 to R224, R226: a
running YMMA of one core performs one k-step and finishes after the last; a gang whose members have all joined forms; a free
yard starts its best ready head; and a finished head leaves its queue. -/
def Obligations.YardCommandsRun : Prop :=
  (∀ (s : State) (c : YCmd),
     let core := s.place.a
     let mast := core / 8
     let yard := core % 8 / 2
     let ended (u : State) (st : Word) : Prop := u.yhead core = some { c with stage := .finished, status := c.status ||| st }
     (s.running core 0 = some c → ∃ u, exec .ynop s = .next u ∧ sameMemory s u ∧ ended u 0) ∧
     (s.running core 2 = some c → ∃ u, exec .yzero s = .next u ∧ sameMemory s u ∧ ended u 0 ∧
       u.tileAt mast c.launch yard c.tile = Tile.init) ∧
     (∀ t, s.running core 3 = some c → ETy.ofCode (s.sideFmt mast c).2 = some t → s.gangBlocked mast [core] = false →
       let rows := if t.isEf8 then s.loadTile mast c t else some (s.loadRows mast c t)
       (rows = none → ∃ u, exec .yload s = .next u ∧ sameMemory s u ∧ ended u 64) ∧
       (∀ rs, rows = some rs → (∀ r ∈ rs, r.2 = false) → ∃ u, exec .yload s = .next u ∧ sameMemory s u ∧ ended u 0 ∧
         (u.tileAt mast c.launch yard c.tile).poison = 0 ∧
         u.tileAt mast c.launch yard c.tile =
           { rs.zipIdx.foldl (fun (t : Tile) p => t.setRow p.2 p.1.1) Tile.init with poison := 0 })) ∧
     (∀ t, s.running core 4 = some c → ETy.ofCode (s.sideFmt mast c).2 = some t → s.gangBlocked mast [core] = false →
       let tile := s.tileAt mast c.launch yard c.tile
       (∃ u st, exec .ystore s = .next u ∧ ended u st ∧ u.tileAt mast c.launch yard c.tile = (tile.readRows 32).1) ∧
       (t.isEf8 = false → tile.poison = 0 → tile.bad = 0 → ∃ u, exec .ystore s = .next u ∧ ended u 0 ∧
         u.mem = (((List.range 32).map (tile.storeRow c.viewTy)).zipIdx.foldl (fun s p =>
           s.writeBank mast ((s.mastAt mast).sideRow c t p.2) (p.1.flatMap fun x => toBytes (t.width / 8) (c.conv t c.viewTy x))) s).mem)) ∧
     (s.yhead core = some c → c.cop = 5 → c.stage = .posted → ∃ u, exec .ygang s = .next u ∧ sameMemory s u ∧
       u.yhead core = some { c with stage := .waiting })) ∧
  (∀ (s : State) (c : YCmd),
     (let core := s.place.a
      let mast := core / 8
      let yard := core % 8 / 2
      (∀ ta tb dep, s.running core 1 = some c → mmaTypes c.fa c.fb = some (ta, tb, dep) → c.member = false →
         (c.m = 0 → ∃ u, exec .ymma s = .next u ∧ sameMemory s u ∧ u.yhead core = some { c with stage := .finished }) ∧
         (c.m ≠ 0 → s.gangBlocked mast [core] = false → c.kstep ≠ 0 → c.kstep % (c.depth / dep) ≠ 0 →
           ∃ u d, exec .ymma s = .next u ∧ sameMemory s u ∧ u.yhead core = some d ∧ d.kstep = c.kstep + 1 ∧
             d.stage = (if c.kstep + 1 = c.depth / dep then .finished else .ready) ∧
             u.tileAt mast c.launch yard c.tile =
               (s.kstep mast core c c ta tb dep (c.kstep % (c.depth / dep))).1.tileAt mast c.launch yard c.tile)) ∧
      (let cores := gangCores core { c with member := true }
       s.yhead core = some c → c.cop = 1 → c.gmask ≠ 0 → c.member = false → gangOk core c = true → c.reject = 0 →
       (∀ k ∈ cores, k ≠ core → ∃ g, s.yhead k = some g ∧ g.cop = 5 ∧ g.gmask = c.gmask ∧ g.gtag = c.gtag ∧ g.stage = .waiting ∧
         g.member = false ∧ g.launch = c.launch ∧ sliceBad c g = false) →
       ∃ u, exec .gangForm s = .next u ∧ sameMemory s u ∧
         ∀ k ∈ cores, u.yhead k = (s.yhead k).map fun g => { g with member := true }) ∧
      (s.yhead core = some c → c.stage = .finished → c.cop ≠ 5 → c.member = false → (c.cop ≠ 1 ∨ c.gmask = 0) →
       ∃ u, exec .yardRetire s = .next u ∧ (u.coreAt core).yqueue = (s.coreAt core).yqueue.tail)) ∧
     (let mast := s.place.a
      let yard := s.place.b
      let t := (yardCores mast yard).foldl (fun s k => s.takeRings 2 k) s
      ∀ k, yard < (t.mastAt mast).running.length → (t.mastAt mast).runs yard = none → t.bestHead mast yard = some k →
        t.yhead k = some c → ∃ u, exec .yardSchedule s = .next u ∧ u.mem = t.mem ∧ (u.mastAt mast).runs yard = some k ∧
          u.yhead k = some { c with stage := .running }))

/-! ### The splice unit and moved nodes (R155 to R160, R173 to R175) -/

/-- R155, R159, R160: RELINK and REPOINT, with the slots of their ports and of the forwards that they release translated (R350)
and room for it, send their swap to the core that holds the port, and complete when its reply answers as they need; the swap
exchanges a word that names the old port, and its reply carries the word found; a splice whose endpoint some other end has
swapped completes; COLLAPSE of a join thimble between two host wires binds each of them to the other and frees its slot. R138,
R175, R191: MEET_FETCH of a live node with no LOCKED port, wired to the other node of its record, copies it into the reply and
leaves a thimble of kind 0xFFF, once the node that the same meeting moves next can be moved too; with a LOCKED port it waits
apart, and nothing else changes; the fetch of that next node, which left its slot with the first, answers with it (log entry
17); MEET_INSTALL puts the node into the slot chosen for it; and a fetch whose check failed fails the meeting. -/
def Obligations.SpliceUnitAndMeetingsRun : Prop :=
  ((∀ (s : State) (sp : Splice),
     let core := s.place.a
     let ix := s.place.b
     let launch := (s.taskAt sp.task).launch
     (s.coreAt core).splices[ix]? = some sp → s.unitReady sp.task (slotsOn core [sp.x, sp.y, sp.z]) .netW = .ok () →
     (∀ x ∈ sp.also, s.nameReady launch x = .ok ()) →
     (sp.stage = .start → refCore sp.z ≠ core → s.swapRoom sp.task = .ok () →
       ∃ u q, exec .relink s = .next u ∧ sameMemory s u ∧
         (u.coreAt core).splices[ix]? = some { sp with stage := .swapping } ∧ u.net = s.net ++ [q] ∧ q.dst = refCore sp.z ∧
         q.kind = .swap sp.z sp.own sp.y false) ∧
     (∀ p w v, sp.stage = .swapping → s.swapReply core launch sp.z sp.own sp.y false = some (p, some w) → refers w sp.own = true →
       s.fwdReady launch sp.z = .ok () →
       (refState w = 1 ∨ refState w = 3) →
       ((s.takeReply sp.task p).completeSplice core ix launch sp).lastSwap sp.task sp.y sp.z = .ok v →
       ∃ u, exec .relink s = .next u ∧ u.net = s.net.filter (fun q => decide (q.id ≠ p.id)) ∧
         (u.coreAt core).splices = (s.coreAt core).splices.eraseIdx ix) ∧
     (sp.stage = .waitOther → refers (s.wordAt launch sp.y) sp.z = false →
       ∃ u, exec .relink s = .next u ∧ sameMemory s u ∧ (u.coreAt core).splices = (s.coreAt core).splices.eraseIdx ix)) ∧
   (∀ (s : State) (r : Repointing),
     let core := s.place.a
     let ix := s.place.b
     (s.coreAt core).repoints[ix]? = some r → s.unitReady r.task (slotsOn core [r.new, r.far]) .netW = .ok () →
     (∀ v ∈ r.old :: r.via.toList, s.fwdReady (s.taskAt r.task).launch v = .ok ()) →
     (r.stage = .start → refCore r.far ≠ core → s.swapRoom r.task = .ok () →
       ∃ u q, exec .repoint s = .next u ∧ sameMemory s u ∧
         (u.coreAt core).repoints[ix]? = some { r with stage := .swapping } ∧ u.net = s.net ++ [q] ∧ q.dst = refCore r.far ∧
         q.kind = .swap r.far r.old r.new true) ∧
     (∀ p w, r.stage = .swapping → s.swapReply core (s.taskAt r.task).launch r.far r.old r.new true = some (p, some w) →
       refers w r.old = true → (refState w = 1 ∨ refState w = 3) →
       ∃ u, exec .repoint s = .next u ∧ sameMemory s u ∧ u.net = s.net.filter (fun q => decide (q.id ≠ p.id)) ∧
         (u.coreAt core).repoints = (s.coreAt core).repoints.eraseIdx ix)) ∧
   (∀ (s : State) (p : Packet) (t old new : Word) (rp : Bool) (n : Node),
     let w := n.port (refPort t)
     s.packet s.place.a = some p → p.kind = .swap t old new rp → s.mayApply p = true → s.inFlight p.launch t = false →
     s.unitReady (taskKey p.launch p.dst) [refKey t] .netW = .ok () → s.nodeAt p.launch t = some n → refers w old = true →
     (refState w = 1 ∨ refState w = 3) →
     ∃ u q, exec .spliceSwap s = .next u ∧ sameMemory s u ∧ u.net = s.net.filter (fun q => decide (q.id ≠ p.id)) ++ [q] ∧
       q.kind = .swapped t old new rp (some w) ∧ q.dst = p.src ∧ u.wordAt p.launch t = portWord (refState w) new) ∧
   (∀ (s : State),
     let k := s.place.a
     let n := (s.taskAt k).node s.place.b
     let p0 := mkRef (s.taskAt k).core s.place.b n.gen.toNat 0
     n.isJoin = true → s.unitReady k [s.place.b] .netW = .ok () →
     (∀ sp ∈ (s.coreAt (s.taskAt k).core).splices, ¬ (sp.task = k ∧ sameNode sp.y p0 = true)) →
     refState (n.port 0) = 4 → refState (n.port 1) = 4 →
     let h0 := bits (n.port 0) 19 0
     let h1 := bits (n.port 1) 19 0
     ∃ u, exec .collapse s = .next u ∧ sameMemory s u ∧ (u.taskAt k).node s.place.b = n.freed ∧
       (u.launchAt (s.taskAt k).launch).hostbind.get h1 0 = n.port 0 ∧
       (h0 ≠ h1 → (u.launchAt (s.taskAt k).launch).hostbind.get h0 0 = n.port 1))) ∧
  ((∀ (s : State) (p : Packet) (id : Nat) (r o new : Word) (held : Bool) (n : Node),
     s.packet s.place.a = some p → p.kind = .fetch id r o new held → (held = true ∨ s.mayApply p = true) →
     s.nodeReadable (taskKey p.launch p.dst) (refKey r) = .ok () → s.nodeAt p.launch r = some n → n.live = true →
     refers (n.port 0) o = true → (refState (n.port 0) = 1 ∨ refState (n.port 0) = 3) →
     (∀ m ∈ (s.coreAt p.src).meetings, m.id = id →
       m.later = none ∧ s.laterReady p.launch m = .ok () ∧ s.laterCheck p.launch m = none) →
     ((∀ w ∈ n.ports, refState w ≠ 3) → (∀ m ∈ (s.coreAt p.src).meetings, m.id = id → s.laterLocked p.launch m = false) → ∃ u q m, exec .meetFetch s = .next u ∧ sameMemory s u ∧
       u.net = s.net.filter (fun q => decide (q.id ≠ p.id)) ++ [q] ∧ q.kind = .fetched id (some n) 0 ∧ q.dst = p.src ∧
       u.nodeAt p.launch r = some m ∧ m.thim = true ∧ m.live = false ∧ m.kind = 0xFFF) ∧
     ((∃ w ∈ n.ports, refState w = 3) → ∃ u, exec .meetFetch s = .next u ∧ { u with net := s.net } = s ∧
       ∃ q ∈ u.net, q.id = p.id ∧ q.kind = .fetch id r o new true)) ∧
   (∀ (s : State) (p : Packet) (id : Nat) (r o new : Word) (held : Bool) (m : Meeting) (n : Node),
     s.packet s.place.a = some p → p.kind = .fetch id r o new held → (held = true ∨ s.mayApply p = true) →
     ((s.coreAt p.src).meetings.find? fun m => decide (m.id = id)) = some m → m.later = some n →
     ∃ u q, exec .meetFetch s = .next u ∧ sameMemory s u ∧ (∀ w, u.nodeAt p.launch w = s.nodeAt p.launch w) ∧
       u.net = s.net.filter (fun q => decide (q.id ≠ p.id)) ++ [q] ∧ q.kind = .fetched id (some n) 0 ∧ q.dst = p.src) ∧
   (∀ (s : State) (p : Packet) (id k cause : Nat) (node : Option Node) (m : Meeting),
     s.packet s.place.a = some p → p.kind = .fetched id node cause → s.mayApply p = true →
     ((s.coreAt p.dst).meetings.find? fun m => decide (m.id = id)) = some m → m.slot = some k →
     s.unitReady m.task [k] .netW = .ok () → (node.isSome = true → s.fwdReady p.launch m.fetched = .ok ()) →
     (∀ n, node = some n → m.toMove = [] → (∀ w ∈ n.ports, refState w = 1 ∨ refState w = 0) →
       ∃ u, exec .meetInstall s = .next u ∧ sameMemory s u ∧
         (u.taskAt m.task).node k = { n with gen := ((s.taskAt m.task).node k).gen }) ∧
     (node = none → ∃ u, exec .meetInstall s = .next u ∧ sameMemory s u ∧
       ∃ v ∈ (u.coreAt p.dst).meetings, v.id = id ∧ v.failed = some (cause, 0) ∧ v.slot = none)))

/-! ### Dispatch, handoffs and steals (R165 to R178) -/

/-- R168 to R170, R174, R176 to R178: an idle strand pops the first record of its tasks and starts a task record's handler; a
handed record enters a deque with room; a victim answers with up to half of its records, at most 15; the answer's records land
in their order; and a strand without work asks the next victim of its round, and rests after the last. -/
def Obligations.DequeUnitRuns : Prop :=
  (∀ (s v : State) (k : Nat) (t : Task) (r : Record),
    let core := s.place.a
    let h := (v.taskAt k).cbase + Word.of (4 * bits r.d0 51 32)
    s.mayDispatch core s.place.b = true →
    ((s.tasksOf core).find? fun p => p.2.pop.isSome && (s.freeArea p.1).isSome) = some (k, t) →
    s.popOn k = .ok (some (r, v)) → bits r.d0 63 61 = 6 → (v.taskAt k).inHbnd h = true → v.nextCtx ≠ 0 →
    ∃ u, exec .dispatch s = .next u ∧ sameMemory s u ∧ u.taskAt k = v.taskAt k ∧ (u.ctxAt v.nextCtx).status = .running ∧
      (u.ctxAt v.nextCtx).kind = .task ∧ (u.ctxAt v.nextCtx).pc = h ∧ (u.ctxAt v.nextCtx).strand = s.place.b ∧
      (u.ctxAt v.nextCtx).file.get 1 0 = r.d1) ∧
  (∀ (s : State) (p : Packet),
    let key := taskKey p.launch p.dst
    let t := s.taskAt key
    let gone (u : State) : Prop := u.net = s.net.filter (fun q => decide (q.id ≠ p.id))
    s.packet s.place.a = some p → s.mayApply p = true →
    (∀ r, p.kind = .handoff r → t.deque.length + t.reserved < 256 →
      ∃ u, exec .handoffArrive s = .next u ∧ sameMemory s u ∧ gone u ∧ (u.taskAt key).deque = t.deque ++ [r]) ∧
    (∀ i, p.kind = .stealReq i → s.taskRuns t = true → t.spilled = [] →
      s.stealRoom p.dst (if t.yield.1.isEmpty then 32 else 16 * t.yield.1.length) = true →
      ∃ u q, exec .stealRequest s = .next u ∧ sameMemory s u ∧ u.taskAt key = t.yield.2 ∧
        u.net = s.net.filter (fun q => decide (q.id ≠ p.id)) ++ [q] ∧ q.dst = p.src ∧ q.kind = .stealRep i t.yield.1 ∧
        t.yield.1.length ≤ 15) ∧
    (∀ i rs, p.kind = .stealRep i rs → t.deque.length + t.reserved + rs.length ≤ 256 →
      ∃ u, exec .stealReply s = .next u ∧ sameMemory s u ∧ gone u ∧ (u.taskAt key).deque = t.deque ++ rs ∧
        ((u.coreAt p.dst).strand i).asking = false)) ∧
  (∀ (s : State),
    let core := s.place.a
    let c := s.coreAt core
    let st := c.strand s.place.b
    s.mayDispatch core s.place.b = true → st.asking = false → (∀ p ∈ s.tasksOf core, p.2.pop = none) →
    (st.stealAt ≠ none ∨ c.mayRound st = true) →
    (∀ l v, (s.stealList core)[st.stealAt.getD 0]? = some (l, v) → s.stealRoom core 32 = true →
      ∃ u q, exec .stealRound s = .next u ∧ sameMemory s u ∧ u.net = s.net ++ [q] ∧ q.dst = v ∧ q.launch = l ∧
        q.kind = .stealReq s.place.b ∧ ((u.coreAt core).strand s.place.b).asking = true) ∧
    ((s.stealList core)[st.stealAt.getD 0]? = none →
      ∃ u, exec .stealRound s = .next u ∧ sameMemory s u ∧ ((u.coreAt core).strand s.place.b).stealAt = none ∧
        ((u.coreAt core).strand s.place.b).resting = true))

/-! ### Contexts, links and extents (R80, R88, R284, R349 to R351) -/

/-- R80, R88: a context that has waited parkthr cycles parks and frees its strand; an idle strand resumes the next context that
may go on; a pending event that may be delivered starts its handler in a fresh window. R284, R349 to R351: a long link begins or
ends a retrain, and one that retrains for too long is rerouted; a fill whose walks succeed adds an extent for its owner (an
extent grows over neighbouring pages, log entry 56) and counts it in the xrefill of the owner's task; a dirty request disarms
its extent. That one event begins and ends a retrain is the model's choice (log entry 39). -/
def Obligations.ContextsLinksAndExtents : Prop :=
  ((∀ (s : State) (start : Word),
     let t := s.focus s.place.a
     let c := t.ctx
     c.waitStart = some start → c.status = .waiting → t.engine ≠ .hart → parkDue c.parkthr start t.core.cyc = true →
     t.parkedOn c.core < 12 → c.parkRoom = true → c.await.parks = true →
     ∃ u, exec .parkContext s = .next u ∧ u.ctx.status = .parked ∧ u.pc = t.pc ∧ sameRegs t u ∧
       (memoryForm s → ∀ a, ¬ spillBytes c ((c.base + 32 - c.low) / 4) a → Memory.get u.mem a = Memory.get s.mem a)) ∧
   (∀ (s : State) (k : Nat),
     let co := s.coreAt s.place.a
     (co.strand s.place.b).idle = true → co.cfence = false → s.nextResume s.place.a = some k →
     ∃ u, exec .resumeContext s = .next u ∧ sameMemory s u ∧ (u.ctxAt k).status = .running ∧
       (u.ctxAt k).strand = s.place.b ∧ (u.ctxAt k).pc = (s.ctxAt k).pc) ∧
   (∀ (s : State) (e : UEvent) (es : List UEvent),
     let t := s.focus s.place.a
     t.deliverable = true → t.core.cfence = false → t.runs t.cur.launch = true → t.ctx.pending = e :: es →
     (∀ d a b, t.ctx.await ≠ .park d a b) →
     ∃ u, exec .deliverEvent s = .next u ∧ u.ctx.inui = true ∧ u.ctx.uipc = t.pc ∧ u.ctx.uicause = e.source ∧ u.ctx.xid = e.id ∧
       u.ctx.pending = es ∧ u.pc = (if e.handler ≠ 0 then e.handler else t.task.uivec) ∧ (∀ i, u.reg (.w i) = 0))) ∧
  (∀ (s : State),
     let l := s.linkAt s.place.a
     let own := s.ownerLaunch s.place.a
     let xs := s.ownerExtents s.place.a
     let rs := (s.launchAt own).ranges
     (l.up = true → ∃ u, exec .linkRetrain s = .next u ∧ sameMemory s u ∧
       u.linkAt s.place.a = { l with training := !l.training } ∧ u.net = s.net) ∧
     (l.up = true → l.training = true → l.rerouted = false → ∃ u, exec .linkReroute s = .next u ∧ sameMemory s u ∧
       u.linkAt s.place.a = { l with rerouted := true } ∧ u.net = s.net) ∧
     (∀ r f, rangeOf rs s.place.b 1 = some r → s.launchRuns own = true → extentOf xs s.place.b = none →
       s.fillFor own r s.place.b = .ok f → ∃ u, exec .extentFill s = .next u ∧
         u.ownerExtents s.place.a = addExtent xs (f.extent r (rs.findIdx fun x => decide (x = r))) ∧
         (s.place.a < hyOwner → (u.taskAt s.place.a).xrefill = Nat.min ((s.taskAt s.place.a).xrefill + 1) (2 ^ 32 - 1))) ∧
     (∀ x ls, extentOf xs s.place.b = some x → x.warm = true → s.launchRuns own = true →
       s.leavesOf own (rs.getD x.range ⟨0, 0, 0, false⟩).kind x.vend 65537 x.vbase = .ok ls →
       ∃ u, exec .dirtyRequest s = .next u ∧
         u.ownerExtents s.place.a = xs.map fun y => if y = x then { y with warm := false } else y))

/-! ### Command processors (R356 to R374, R392 to R395, R410) -/

/-- R361, R391, R392: every host command of one of the 34 functions takes its arguments into the function's control page, ends
with the page no longer busy and raises vector 0 of the function; before bring-up has ended it does nothing else and its result
is 2. PREEMPT and SHOOTDOWN may run on instead, with the page busy and nothing changed; one that goes on or ends then leaves the
arguments that the host has written meanwhile. While a command of the function runs, a write of any command is ignored and its
result is 2; that cres reads 2 until the running one ends is the model's choice (log entry 76), and that it goes on stands in
the turn's place (log entry 44). R358, R359, R361, R370: PARTITION, QCREATE, QDESTROY, DOORBELL, HALT and RUN of a function that
may name the object take effect: the partition is made or removed, the queue is made from its descriptor (its tail starts at 0,
log entry 44), removed, read again, halted or started. A DOORBELL gives the queue's launches their new priority, by which R366
orders them, and leaves the tprio of their tasks (R370). -/
def Obligations.HostAndQueueCommandsTakeEffect : Prop :=
  (∀ (s : State) (fn : Nat) (a0 a1 a2 a3 : Word), fn < 34 →
     let args := [a0, a1, a2, a3]
     let all : List Instr := [.partition fn a0 a1 a2 a3, .qcreate fn a0 a1 a2 a3, .qdestroy fn a0 a1 a2 a3, .doorbell fn a0 a1 a2 a3,
       .halt fn a0 a1 a2 a3, .run fn a0 a1 a2 a3, .resume fn a0 a1 a2 a3, .kill fn a0 a1 a2 a3, .reset fn a0 a1 a2 a3,
       .fwswap fn a0 a1 a2 a3]
     let long : List (Instr × Nat) := [(.preempt fn a0 a1 a2 a3, 5), (.shootdown fn a0 a1 a2 a3, 10)]
     let ended (u : State) : Prop := ∃ r, u.page fn = { carg := args, cres := Word.of (Res.code r), run := none } ∧ r ≠ .runs ∧
       u.plat.msix.head? = some (fn, 0) ∧ bit (u.cstat fn) 1 = false ∧
       (s.plat.ready = false → r = .busy ∧ { u with pages := s.pages, plat := s.plat } = s)
     ((s.page fn).run = none → (∀ i ∈ all, ∃ u, exec i s = .next u ∧ ended u) ∧
       ∀ i ∈ long, ∃ u, exec i.1 s = .next u ∧ (ended u ∨
         u.page fn = { carg := args, cres := 2, run := some (i.2, args) } ∧ bit (u.cstat fn) 1 = true ∧ { u with pages := s.pages } = s)) ∧
     (∀ i ∈ long, (s.page fn).run = some (i.2, args) → s.place.a = 1 → ∃ u, exec i.1 s = .next u ∧ (u.page fn).carg = (s.page fn).carg ∧
       ((u.page fn).run = none ∧ u.plat.msix.head? = some (fn, 0) ∨
         u.page fn = { s.page fn with cres := 2 } ∧ { u with pages := s.pages } = s)) ∧
     (∀ c, (s.page fn).run = some c → s.place.a ≠ 1 → ∀ i ∈ all ++ long.map (·.1), ∃ u, exec i s = .next u ∧
       u.page fn = { carg := args, cres := 2, run := some c } ∧ { u with pages := s.pages } = s)) ∧
  (∀ (s : State) (fn : Nat) (a0 a1 a2 : Word), fn < 34 → s.plat.ready = true → (s.page fn).run = none →
     (∀ p : Machine.Partition,
       let n := bits a0 4 0
       p = Machine.Partition.mk true (bit a0 9) (if bit a0 23 then some (bits a0 20 16) else none) (bits a1 4 0) (bits a1 12 8) (bits a1 21 16)
         (bits a1 29 24) (s.sliceMap a2.toNat) →
       fn < 2 → s.queuesOf n = [] → bits a0 7 5 = 0 → bits a0 15 10 = 0 → bits a0 22 21 = 0 → bits a0 63 24 = 0 →
       (bit a0 8 = true → bits a1 7 5 = 0 → bits a1 15 13 = 0 → bits a1 23 22 = 0 → bits a1 63 30 = 0 → a2.toNat % 32 = 0 →
         a2.toNat < 2 ^ 52 → p.w ≠ 0 → p.h ≠ 0 → p.x0 + p.w ≤ 32 → p.y0 + p.h ≤ 32 →
         (∀ x ∈ s.parts, x.1 ≠ n → x.2.live = true →
           rectsMeet x.2 p = false ∧ (∀ i ∈ x.2.slices, i ∉ p.slices) ∧ (p.vf = none ∨ x.2.vf ≠ p.vf)) →
         ∃ u, exec (.partition fn a0 a1 a2 0) s = .next u ∧ sameMemory s u ∧ u.partAt n = p) ∧
       (bit a0 8 = false → (s.partAt n).live = true →
         ∃ u, exec (.partition fn a0 0 0 0) s = .next u ∧ sameMemory s u ∧ u.partAt n = Machine.Partition.init)) ∧
     (let k := bits a0 9 0
      let q := s.queueAt k
      bits a0 63 10 = 0 →
      (∀ d, q.live = false → a1.toNat % 64 = 0 → a1.toNat < 2 ^ 52 → s.readDesc a1.toNat = some d →
        (s.partAt d.part).live = true → s.mayName fn d.part = true →
        ∃ u, exec (.qcreate fn a0 a1 0 0) s = .next u ∧ u.queueAt k = { d with tail := 0 }) ∧
      (q.live = true → s.mayName fn q.part = true →
        (q.head = q.tail → (s.launchesWith fun la => la.alive && decide (la.queue = k)) = [] →
          ∃ u, exec (.qdestroy fn a0 0 0 0) s = .next u ∧ sameMemory s u ∧ u.queueAt k = Queue.init) ∧
        (∀ d, s.readDesc q.descPa = some d → d.part = q.part → ∃ u, exec (.doorbell fn a0 0 0 0) s = .next u ∧
          sameMemory s u ∧ (u.queueAt k).tail = d.tail ∧ (u.queueAt k).head = q.head ∧ (u.queueAt k).halted = q.halted ∧
          (u.queueAt k).fenced = q.fenced ∧ u.tasks = s.tasks ∧
          ∀ l, s.launches.has l = true → (s.launchAt l).alive = true →
            u.launchAt l = (if (s.launchAt l).queue = k then { s.launchAt l with prio := d.prio } else s.launchAt l)) ∧
        (∃ u, exec (.halt fn a0 0 0 0) s = .next u ∧ u.queueAt k = { q with halted := true }) ∧
        (∃ u, exec (.run fn a0 0 0 0) s = .next u ∧ u.queueAt k = { q with halted := false, failed := false }))))

/-- R353, R361, R369, R371 to R373: PREEMPT of a launch that stands still saves it, and runs on while it does not (log entry
45), until the turn that finds it standing still; RESUME brings it back where it fits and marks it otherwise; KILL marks it
killed; SHOOTDOWN drops its extents, and runs on while a translated access is to be performed (log entry 45). RESET of an
isolated partition ends its dispatched launches, with status 3 or that of a kill in progress, and halts its queues; of a gang
partition it ends every launch and sends the queues back to their last FENCE. That a RESET of a gang partition starts every one
of its queues again (halted = false), also one that HALT has stopped, and that a launch whose kill is in progress keeps that
kill's status under an isolated RESET, are the model's readings (log entry 50). FWSWAP names the image and begins the hand-off
of a CP's queues to its partner. -/
def Obligations.LaunchCommandsTakeEffect : Prop :=
  ∀ (s : State) (fn l : Nat) (a0 a1 a2 : Word), fn < 34 → s.plat.ready = true →
    let k := bits a0 9 0
    let q := s.queueAt k
    let la := s.launchAt l
    let t := s.putQueue k { q with wcount := 0, wstep := 0 }
    (bits a0 63 10 = 0 → q.live = true → s.mayName fn q.part = true → bits a1 63 16 = 0 → s.launchNamed k (bits a1 15 0) = some l →
      ((s.page fn).run = none ∨ (s.page fn).run = some (5, [a0, a1, 0, 0]) ∧ s.place.a = 1 →
        la.killed = false → la.status = .resident →
        (s.stoppable l = true → la.why ≠ 3 →
          ∃ u, exec (.preempt fn a0 a1 0 0) s = .next u ∧ (u.launchAt l).status = .preempted ∧ (u.launchAt l).why = 2 ∧
            (u.page fn).run = none) ∧
        (s.stoppable l = false → ∃ u, exec (.preempt fn a0 a1 0 0) s = .next u ∧ (u.page fn).run = some (5, [a0, a1, 0, 0]) ∧
          { u with pages := s.pages } = s)) ∧
      ((s.page fn).run = none → la.killed = false → la.status = .preempted →
        (t.refits l = false → ∃ u, exec (.resume fn a0 a1 0 0) s = .next u ∧ (u.launchAt l).why = 1 ∧ (u.queueAt k).wcount = 0) ∧
        (t.refits l = true →
          ∃ u, exec (.resume fn a0 a1 0 0) s = .next u ∧ (u.launchAt l).status = .resident ∧ (u.queueAt k).wcount = 0)) ∧
      ((s.page fn).run = none → ∃ u, exec (.kill fn a0 a1 0 0) s = .next u ∧ sameMemory s u ∧ (u.launchAt l).killed = true) ∧
      ((s.page fn).run = none ∨ (s.page fn).run = some (10, [a0, a1, a2, 0]) ∧ s.place.a = 1 →
        bits a2 7 4 = 0 → bits a2 63 9 = 0 → (bit a2 8 = true ∨ bits a2 3 0 < la.ranges.length) →
        (s.translatedDone l = true → ∃ u, exec (.shootdown fn a0 a1 a2 0) s = .next u ∧ sameMemory s u ∧ (u.page fn).run = none ∧
          ∀ j, (s.taskAt j).launch = l →
            (u.taskAt j).extents = keepExtents (bit a2 8) (bits a2 3 0) (s.taskAt j).extents) ∧
        (s.translatedDone l = false → ∃ u, exec (.shootdown fn a0 a1 a2 0) s = .next u ∧
          (u.page fn).run = some (10, [a0, a1, a2, 0]) ∧ { u with pages := s.pages } = s))) ∧
    (let p := bits a0 4 0
     bits a0 63 5 = 0 → (s.partAt p).live = true → s.mayName fn p = true → (s.page fn).run = none →
      ∃ u, exec (.reset fn a0 0 0 0) s = .next u ∧
        (∀ j, (s.launchAt j).alive = true → (s.launchAt j).part = p → (s.partAt p).gang = true ∨ (s.launchAt j).status ≠ .checked →
          (u.launchAt j).status = .finished) ∧
        (∀ j, (s.partAt p).gang = false → (s.launches.map (·.1)).Nodup → (s.launchAt j).alive = true → (s.launchAt j).part = p →
          (s.launchAt j).status ≠ .checked → (u.launchAt j).code = (if (s.launchAt j).killed then (s.launchAt j).code else 3)) ∧
        ∀ j, (s.queueAt j).live = true → (s.queueAt j).part = p → (u.queueAt j).wcount = 0 ∧
          ((s.partAt p).gang = false → (u.queueAt j).halted = true ∧ (u.queueAt j).fenced = false) ∧
          ((s.partAt p).gang = true → (u.queueAt j).halted = false ∧ (u.queueAt j).head = (s.queueAt j).fhead)) ∧
    (let n := bits a0 2 0
     fn < 2 → bits a0 63 3 = 0 → a1.toNat < 2 ^ 52 → (s.cpAt n).swap = 0 → (s.cpAt (partner n)).swap = 0 → (s.page fn).run = none →
      ∃ u, exec (.fwswap fn a0 a1 0 0) s = .next u ∧ sameMemory s u ∧ (u.cpAt n).swap = 1 ∧ (u.cpAt n).served = true ∧
        (u.cpAt n).image = a1)

/-- R362 to R368, R394: a LAUNCH record whose fields and image pass the checks becomes a launch, and its queue goes on; a record
of a reserved op halts the queue; NOP and FENCE records are passed, a FENCE when every launch before it has ended; a launch that
has been checked and fits, with no pre-empted one to go first, is installed; a launch completes when it has been killed and its
stores have been performed, and when it is quiescent and its stores and moves have been performed, or fails where a walk for a
host binding or for its record fails (R352); one with a failed task is killed as failed; and a rejected host write is logged and
fails a launch that runs. -/
def Obligations.LaunchesRun : Prop :=
  ∀ (s : State) (l : Nat),
    let la := s.launchAt l
    (∀ k img rs, s.takesRecord k = true →
      let q := s.queueAt k
      let d := s.recordDbl k
      let n := bits (d 0) 35 32 + 1
      (3 ≤ s.recordOp k → ∃ u, exec (.launch k img) s = .next u ∧ (u.queueAt k).halted = true ∧ (u.queueAt k).head = q.head) ∧
      (s.recordOp k = 1 → s.launchRecordOk k = true → s.doneOk (bits (d 5) 51 8 * 256) (s.looseRanges (d 2).toNat n) (d 3) = true →
        s.readRanges (d 2).toNat n = some rs → rejection img (d 1) (some rs) (bits (d 5) 51 8 * 256) (s.partAt q.part) = none →
        ∃ u, exec (.launch k img) s = .next u ∧ (u.queueAt k).head = (q.head + 1) % 2 ^ 32 ∧
          (u.launchAt (s.nextId + 1)).status = .checked ∧ (u.launchAt (s.nextId + 1)).queue = k ∧
          (u.launchAt (s.nextId + 1)).seq = bits (d 0) 15 0 ∧ (u.launchAt (s.nextId + 1)).img = img)) ∧
    (let k := s.place.a
     let q := s.queueAt k
     s.takesRecord k = true → s.shortRecordOk k = true →
     (s.recordOp k = 0 → ∃ u, exec .nopRecord s = .next u ∧ u.queueAt k = { q with head := (q.head + 1) % 2 ^ 32 }) ∧
     (s.recordOp k = 2 → (s.launchesWith fun la => la.alive && decide (la.queue = k)) = [] →
       ∃ u, exec .fenceRecord s = .next u ∧
         u.queueAt k = { q with head := (q.head + 1) % 2 ^ 32, fhead := (q.head + 1) % 2 ^ 32 })) ∧
    (∀ i, s.plat.coldOnly = false → s.waitingLaunch s.place.a = some l → la.img = some i → s.fits l [] = true → s.resumesFirst l = false →
      ∃ u, exec .launchDispatch s = .next u ∧ (u.launchAt l).status = .resident) ∧
    (l = s.place.a →
      (la.killed = true → la.alive = true → s.written l = true → ∃ u, exec .launchComplete s = .next u ∧ (u.launchAt l).status = .finished ∧
        (u.launchAt l).code = la.code) ∧
      (la.killed = false → la.status = .resident → la.failure = none → s.quiescent l = true → s.written l = true →
        (s.endFault l = none →
          ∃ u, exec .launchComplete s = .next u ∧ (u.launchAt l).status = .finished ∧ (u.launchAt l).code = 1) ∧
        (∀ v level, s.endFault l = some (v, level) → ∃ u f, exec .launchComplete s = .next u ∧ sameMemory s u ∧
          (u.launchAt l).failure = some f ∧ f.cause = 0x41 ∧ f.addr = Word.of v ∧ f.info = Word.of level)) ∧
      (la.failure ≠ none → la.killed = false → (la.status = .resident ∨ la.status = .preempted) →
        ∃ u, exec .taskFail s = .next u ∧ sameMemory s u ∧ (u.launchAt l).killed = true ∧ (u.launchAt l).code = 2 ∧
          (u.launchAt l).failure = la.failure) ∧
      (la.killed = false → la.status = .resident → la.failure = none → ∃ u f, exec .hostWriteReject s = .next u ∧
        sameMemory s u ∧ (u.launchAt l).failure = some f ∧ f.cause = 0x40 ∧ u.plat.aer = s.plat.aer + 1) ∧
      (s.runs l = false → exec .hostWriteReject s = .next { s with plat := { s.plat with aer := s.plat.aer + 1 } }))

/-- R360, R366, R371, R372: a launch of higher priority pre-empts its next victim (a pre-emption that step 1 of the watchdog has
asked for ends as that one's, log entry 49), which goes on when it fits again and waits otherwise; a system message becomes an
entry of its queue's message area, 288 bytes for each, and is counted; and the steps of the watchdog, which the model lets
happen at any count (log entry 49), stop, kill or fence: step 1 asks the queue's launches to stop, and where it has stopped the
queue's one launch, that launch has ended with status 5, the queue is halted and the count restarts; step 2 halts the queue and
kills; step 3 fences the partition. The watchdog of a gang partition whose queue no failure has halted sends the queue back to
its last FENCE, with a count of 0, and starts it again (halted = false); that it starts also one that HALT has stopped is the
model's reading (log entry 50). What a stop takes is log entry 45. -/
def Obligations.QueuesArePoliced : Prop :=
  ∀ (s : State),
    let k := s.place.a
    let q := s.queueAt k
    let ls := s.watched k
    (∀ l, s.waitingLaunch k = some l → s.place.b ∈ s.victimsOf l →
      (∀ x ∈ s.victimsOf l, x = s.place.b ∨ s.victimBefore s.place.b x = true) → s.fits l [] = false →
      s.fits l (s.victimsOf l) = true → s.stoppable s.place.b = true →
      ∃ u, exec .priorityPreempt s = .next u ∧ (u.launchAt s.place.b).status = .preempted ∧
        (u.launchAt s.place.b).why = (if (s.launchAt s.place.b).why = 3 then 3 else 1)) ∧
    ((s.launchAt k).status = .preempted → (s.launchAt k).why = 1 → (s.launchAt k).killed = false →
      (s.refits k = true → ∃ u, exec .preemptedResume s = .next u ∧ (u.launchAt k).status = .resident) ∧
      (s.refits k = false → ∃ u, exec .preemptedResume s = .next u ∧ u.launches = s.launches ∧ u.ctxs = s.ctxs ∧ sameMemory s u)) ∧
    (∀ p channel bs, s.packet k = some p → p.kind = .sysMsg channel bs → s.mayApply p = true →
      let j := (s.launchAt p.launch).queue
      let m := s.queueAt j
      let entry := toBytes 8 (bs.length * 2 ^ 48 + channel * 2 ^ 32 + p.src) ++
        toBytes 8 (s.taskAt (taskKey p.launch p.src)).ltask.toNat ++ List.replicate 16 0 ++ bs.take 256
      let at_ := m.mbase + 288 * (m.mcp % 2 ^ m.lgm)
      (m.mcp + 65536 - m.mhost) % 65536 < 2 ^ m.lgm →
      ∃ u, exec .sysMessage s = .next u ∧ u.net = s.net.filter (fun r => decide (r.id ≠ p.id)) ∧
        u.queueAt j = { m with mcp := (m.mcp + 1) % 65536 } ∧
        (memoryForm s → (m.descPa + 64 ≤ at_ ∨ at_ + 288 ≤ m.descPa) →
          (∀ i, i < entry.length → Memory.get u.mem (at_ + i) = entry.getD i 0) ∧
          ∀ x, (x < at_ ∨ at_ + 288 ≤ x) → (x < m.descPa ∨ m.descPa + 64 ≤ x) → Memory.get u.mem x = Memory.get s.mem x)) ∧
    (q.live = true → q.lim1 ≠ 0 → ls ≠ [] →
      ((s.partAt q.part).gang = false →
        (let t := s.putQueue k (q.reach q.lim1 1)
         q.wstep ≤ 1 → ∃ u, exec .watchdogStep1 s = .next u ∧
          ((∀ l ∈ ls, (s.launchAt l).killed = true ∨ t.stoppable l = false) → u.queueAt k = q.reach q.lim1 1 ∧
            ∀ l ∈ ls, (s.launchAt l).killed = false → (u.launchAt l).why = 3 ∧ (u.launchAt l).status = (s.launchAt l).status) ∧
          (∀ l, ls = [l] → (s.launchAt l).queue = k → (s.launchAt l).killed = false → t.stoppable l = true →
            (u.queueAt k).halted = true ∧ (u.queueAt k).wcount = 0 ∧ (u.queueAt k).wstep = 0 ∧
              (u.launchAt l).status = .preempted ∧ (u.launchAt l).why = 3)) ∧
        (q.wstep = 1 → ∃ u, exec .watchdogStep2 s = .next u ∧ (u.queueAt k).halted = true ∧ (u.queueAt k).wstep = 2 ∧
          ∀ l ∈ ls, (u.launchAt l).killed = true) ∧
        (q.wstep = 2 → ∃ u, exec .watchdogStep3 s = .next u ∧ (u.queueAt k).fenced = true ∧ (u.queueAt k).wstep = 3 ∧
          ∀ c ∈ (s.partAt q.part).cores, (u.coreAt c).cfence = true)) ∧
      ((s.partAt q.part).gang = true → q.failed = false →
        ∃ u, exec .gangWatchdog s = .next u ∧ (u.queueAt k).head = q.fhead ∧ (u.queueAt k).wcount = 0 ∧ (u.queueAt k).halted = false))

/-- R356, R357, R373, R374: CXDATA, in the mode in which the CP's hart is, reads and writes a device CSR that this mode may
reach, through cxdata the core CSR that cxsel names, so that a write of 1 to cfence fences the core; for one that it may not
reach the hart takes the illegal-instruction exception (that the event does nothing in another mode is the model's choice, log
entry 53, and what a trap saves and where it goes is taken from the RISC-V architecture, log entry 79). A firmware swap goes
through its states: the partner's acknowledgement begins the verification of the image in memory, which ends in state 3 where it
is genuine and not too old, with the hart at the image's entry, and in state 4 with result 1 otherwise (how its header and
signature read is open, log entry 54, and how a hart starts log entry 79); the CP takes its queues back in state 4 and is idle,
or a timeout ends in state 4 with result 2 (which event moves each state is log entry 54); the eighth failed image in a row
raises an alarm of class 1; an alarm of class 1 makes verification unavailable until it has come back, class 2 halts every queue
and kills every dispatched launch, and class 3 also erases the wrap key. -/
def Obligations.SecurityEventsComplete : Prop :=
  ∀ (s : State),
    let c := s.cpAt s.place.a
    (∀ cp n, cp < 8 →
      let h := (s.cpAt cp).hart
      let mode := h.mode
      (∀ (m : Nat) (w : Option Word), m ≠ mode → exec (.cxdata cp ⟨m, n⟩ w) s = .next s) ∧
      (cpMay mode n false = true → ∃ u, exec (.cxdata cp ⟨mode, n⟩ none) s = .next u ∧ { u with cps := s.cps } = s ∧
        u.cpAt cp = { s.cpAt cp with cxdata := s.cpCsr cp n }) ∧
      (∀ w : Option Word, cpMay mode n w.isSome = false → ∃ u, exec (.cxdata cp ⟨mode, n⟩ w) s = .next u ∧ { u with cps := s.cps } = s ∧
        u.cpAt cp = { s.cpAt cp with hart := (u.cpAt cp).hart } ∧ (u.cpAt cp).hart.x = h.x ∧
        (mode = 3 ∨ h.medeleg.getLsbD 2 = false → (u.cpAt cp).hart.mode = 3 ∧ (u.cpAt cp).hart.mepc = h.pc ∧
          (u.cpAt cp).hart.mcause = 2 ∧ (u.cpAt cp).hart.pc = h.mtvec &&& ~~~3) ∧
        (mode ≠ 3 ∧ h.medeleg.getLsbD 2 = true → (u.cpAt cp).hart.mode = 1 ∧ (u.cpAt cp).hart.sepc = h.pc ∧
          (u.cpAt cp).hart.scause = 2 ∧ (u.cpAt cp).hart.pc = h.stvec &&& ~~~3)) ∧
      (∀ v, mode = 3 →
        (∃ u, exec (.cxdata cp ⟨mode, 0x7C0⟩ (some v)) s = .next u ∧ { u with cps := s.cps } = s ∧ (u.cpAt cp).lnkrt = v) ∧
        (∃ u, exec (.cxdata cp ⟨mode, 0x7C1⟩ (some v)) s = .next u ∧ { u with cps := s.cps } = s ∧
          (u.cpAt cp).cxsel = cxselFields v) ∧
        (∀ core, s.selCsr cp = 0x142 → (s.reachSel cp).cur.core = core →
          ∃ u, exec (.cxdata cp ⟨mode, 0x7C2⟩ (some v)) s = .next u ∧ sameMemory s u ∧ (u.coreAt core).cfence = v.getLsbD 0 ∧
            u.cur = s.cur) ∧
        (∃ u, exec (.cxdata cp ⟨mode, 0x7C3⟩ (some v)) s = .next u ∧ { u with cps := s.cps } = s ∧
          (u.cpAt cp).swap = bits v 2 0 ∧ (u.cpAt cp).swapRes = bits v 7 4))) ∧
    (∀ cp ok v, (s.cpAt cp).swap = 1 → ∃ u, exec (.swapVerify cp ok v) s = .next u ∧ { u with cps := s.cps } = s ∧
      u.cpAt cp = { s.cpAt cp with swap := 2 }) ∧
    (∀ cp, (s.cpAt cp).swap = 2 → s.sec.available = true →
      let v := s.imageVersion cp
      ∃ u, exec (.swapVerify cp (s.imageGenuine cp) v) s = .next u ∧ sameMemory s u ∧
        (s.imageGenuine cp = true ∧ Config.fusedVersion.toNat ≤ v.toNat →
          (u.cpAt cp).swap = 3 ∧ (u.cpAt cp).fwsv = v ∧ (u.cpAt cp).entry = Config.imageEntry (s.imageHead cp) ∧
          (u.cpAt cp).hart = Hart.start (Config.imageEntry (s.imageHead cp)) ∧
          (u.cpAt cp).oldEntry = (s.cpAt cp).entry ∧ u.sec.badVerify = 0) ∧
        (¬ (s.imageGenuine cp = true ∧ Config.fusedVersion.toNat ≤ v.toNat) →
          (u.cpAt cp).swap = 4 ∧ (u.cpAt cp).swapRes = 1 ∧ (u.cpAt cp).fwsv = (s.cpAt cp).fwsv ∧
          (s.sec.badVerify < 7 → u.sec.badVerify = s.sec.badVerify + 1) ∧
          (s.sec.badVerify = 7 → u.sec.available = false ∧ u.sec.badVerify = 0))) ∧
    (c.swap = 3 ∨ c.swap = 4 → ∃ u, exec .swapTakeBack s = .next u ∧ sameMemory s u ∧
      u.cpAt s.place.a = { c with swap := if c.swap = 3 then 4 else 0, served := false }) ∧
    (c.swap = 3 ∨ c.swap = 4 ∧ c.swapRes = 0 → ∃ u, exec .swapTimeout s = .next u ∧ sameMemory s u ∧
      u.cpAt s.place.a = { c with swap := 4, swapRes := 2, served := false, fwsv := c.oldVer, entry := c.oldEntry, hart := Hart.start c.oldEntry }) ∧
    (∃ u, exec .alarmClass1 s = .next u ∧ sameMemory s u ∧ u.sec.available = false ∧ u.sec.logged = s.sec.logged + 1) ∧
    (s.sec.available = false → ∃ u, exec .verificationAvailable s = .next u ∧
      u = { s with sec := { s.sec with available := true } }) ∧
    (∀ i ∈ ([.alarmClass2, .alarmClass3] : List Instr), ∃ u, exec i s = .next u ∧ u.sec.sessKeys = false ∧ u.sec.attest = false ∧
      (∀ j, (s.queueAt j).live = true → (u.queueAt j).halted = true) ∧
      (∀ l, ((s.launchAt l).status = .resident ∨ (s.launchAt l).status = .preempted) →
        (u.launchAt l).killed = true ∧ (u.launchAt l).code = 6) ∧
      (i = .alarmClass3 → u.sec.wrapKey = false))

/-! ### Bring-up, power and the test access port (R396 to R401) -/

/-- R396, R397: power-on begins bring-up at stage 1 with nothing on the device, the platform's registers at the values of log
entry 7; a warm reset goes back to stage 2; the work of a stage ends with the next stage, or holds the device there; and stage 6
opens the command interface. R399 to R401: a reading above 105 degrees C throttles its quadrant, and its clock comes back once
each of its eight sensors reads below 100; a reading from 100 to 105 changes nothing but what its sensor shows; one above 115
throttles too, halts every queue, kills every dispatched launch and asks for a cold reset, whichever event tells of it; a cap
and a power check throttle or restore the device; the bus address (of 7 bits, log entry 76), the instructions of the test access
port (BYPASS with a data register of 0, log entry 55) and the debug unlock set their registers, and a wrong token raises an
alarm of class 2. The readings stand in the turn's place (log entry 50). -/
def Obligations.BringUpAndPlatformEvents : Prop :=
  (∀ (s : State),
     let moved (u : State) : Prop := u.plat.stage = s.plat.stage + 1 ∧ u.plat.held = s.plat.held ∧ u.plat.ready = s.plat.ready
     let heldThere (u : State) : Prop := u.plat.stage = s.plat.stage ∧ u.plat.held = true
     (∃ u, exec .powerOnReset s = .next u ∧ u.plat = { Platform.init with stage := 1 } ∧ u.ctxs = [] ∧ u.tasks = [] ∧ u.launches = [] ∧ u.net = [] ∧
       u.queues = [] ∧ u.masts = [] ∧ u.cores = []) ∧
     (2 ≤ s.plat.stage → s.plat.coldOnly = false → ∃ u, exec .warmReset s = .next u ∧ sameMemory s u ∧ u.plat.stage = 2 ∧
       u.plat.ready = false ∧ u.queues = [] ∧ u.launches = [] ∧ u.ctxs = []) ∧
     (s.plat.held = false → s.plat.ready = false →
       (s.plat.stage = 1 → s.sec.available = true →
         ∃ u, exec (.bootVerify bootGenuine) s = .next u ∧ sameMemory s u ∧
           (if bootGenuine = true ∧ Config.fusedVersion.toNat ≤ Config.bootVersion.toNat then moved u else heldThere u)) ∧
       (s.plat.stage = 2 → ∃ u, exec .fuseMapBuild s = .next u ∧ sameMemory s u ∧
         (∀ q k, q < 4 → k < 16 → u.plat.fuses.get (16 * q + k) 0 = fuseField q k) ∧
         ((∀ f ∈ fuseMap, f.2 ≤ 16) → moved u) ∧ (¬ (∀ f ∈ fuseMap, f.2 ≤ 16) → heldThere u)) ∧
       (s.plat.stage = 3 → ∃ u, exec .bringupScrub s = .next u ∧ moved u ∧ u.cores = [] ∧ u.masts = [] ∧
         u.mem = s.mem.filter fun c => decide (c.1 < 2 ^ 52)) ∧
       (s.plat.stage = 4 →
         (∃ u, exec (.hbmTrain true) s = .next u ∧ moved u ∧ u.mem = s.mem.filter fun c => !isHbm c.1) ∧
         (∃ u, exec (.hbmTrain false) s = .next u ∧ sameMemory s u ∧ heldThere u)) ∧
       (s.plat.stage = 5 → ∀ up,
         (∃ u, exec (.linkTrain true up) s = .next u ∧ sameMemory s u ∧ moved u ∧ (∀ k ∈ longLinks, (u.linkAt k).up = true) ∧
           ∀ n, n < 16 → (u.shroudAt n).up = up.getLsbD n) ∧
         (∃ u, exec (.linkTrain false up) s = .next u ∧ sameMemory s u ∧ heldThere u)) ∧
       (s.plat.stage = 6 → ∃ u, exec .openCommands s = .next u ∧ sameMemory s u ∧ u.plat.ready = true))) ∧
  (∀ (s : State),
     let q := s.place.a
     let degrees := s.place.b / 8
     let sensors := s.plat.sensors.set (8 * q + s.place.b % 8) degrees
     let only (u : State) (p : Platform) : Prop := u = { s with plat := p }
     (q < 4 → 105 < degrees → degrees ≤ 115 → ∃ u, exec .thermalThrottle s = .next u ∧
       only u { s.plat with sensors := sensors, throttled := s.plat.throttled.set q true }) ∧
     (q < 4 → degrees ≤ 105 → ∃ u, exec .thermalRecover s = .next u ∧
       ((∀ i, i < 8 → sensors.get (8 * q + i) 0 < 100) →
         only u { s.plat with sensors := sensors, throttled := s.plat.throttled.set q false }) ∧
       ((∃ i, i < 8 ∧ 100 ≤ sensors.get (8 * q + i) 0) → only u { s.plat with sensors := sensors })) ∧
     (q < 4 → 115 < degrees → ∀ i ∈ ([.thermalThrottle, .thermalTrip] : List Instr), ∃ u, exec i s = .next u ∧
       u.plat.coldOnly = true ∧ u.plat.sensors = sensors ∧ u.plat.throttled = s.plat.throttled.set q true ∧
       (∀ j, (s.queueAt j).live = true → (u.queueAt j).halted = true) ∧
       ∀ l, ((s.launchAt l).status = .resident ∨ (s.launchAt l).status = .preempted) →
         (u.launchAt l).killed = true ∧ (u.launchAt l).code = 6) ∧
     (∀ v, ∃ u, exec (.pcapWrite v) s = .next u ∧ only u { s.plat with pcap := v }) ∧
     (∀ cap mw low, capOf s.plat.pcap = some cap →
       (cap < mw → ∃ u, exec (.powerCheck mw low) s = .next u ∧ sameMemory s u ∧ u.plat.capThrot = true ∧
         (s.plat.capThrot = true → u.plat.capmiss = true)) ∧
       (100 * mw ≤ 95 * cap → ∃ u, exec (.powerCheck mw true) s = .next u ∧ sameMemory s u ∧ u.plat.capThrot = false)) ∧
     (∀ a, ∃ u, exec (.dynamicAddressAssign a) s = .next u ∧ only u { s.plat with i3cAddr := some (a % 128) }) ∧
     (∃ u, exec .bypass s = .next u ∧ only u { s.plat with tapIr := 0, tapDr := 0 }) ∧
     (∃ u, exec .idcode s = .next u ∧ only u { s.plat with tapIr := 1, tapDr := 0x1D192F2F#32 }) ∧
     (∃ u w, exec .samplePreload s = .next u ∧ u = { s with plat := { s.plat with tapIr := 2, tapDr := w }, freeCtr := s.freeCtr + 1 }) ∧
     (∃ u, exec .extest s = .next u ∧ only u { s.plat with tapIr := 3 }) ∧
     (∃ u, exec (.debugUnlock true) s = .next u ∧ only u { s.plat with debug := true }) ∧
     (∃ u, exec (.debugUnlock false) s = .next u ∧ u.plat.debug = s.plat.debug ∧ u.sec.sessKeys = false ∧
       ∀ l, ((s.launchAt l).status = .resident ∨ (s.launchAt l).status = .preempted) → (u.launchAt l).killed = true))

/-! ### The step, decoding, invariants and reset (R18, R38, R105, R397; log entries 1, 4 and 6) -/

/-- R18, R38, R72, R80 (the agenda and its turns are the model's own, log entry 1): where the acting context issues and no event
is delivered first, the step is the decoded instruction's meaning on the state whose clock has advanced; an instruction that did
not wait ends the wait, and the parked contexts whose condition is met are signalled. A turn of the agenda lets the strand that
R72 chooses issue in the same way, or runs an event at its place where it may happen now, or is a write of ccmd by which no
command's event starts (R392). A turn of a CP's hart (R356, its instructions log entry 79) takes an interrupt, or runs the
instruction that its own fetch and decoder read at its pc, or takes that one's exception. The instruction of the words at the
pc, each of them aligned, in the code image and mapped, is what the fetch answers. -/
def Obligations.StepRunsTheDecodedInstruction : Prop :=
  (∀ (s : State) (i : Instr), s.agenda = [] → s.canIssue = true → (s.tick []).deliverable = false → (s.tick []).fetchDecode = .ok i →
    step s = (match exec i (s.tick []) with
      | .next u => .next (u.settle (s.tick []).cur.ctx).sweep
      | .fault f => .fault f
      | .refused r => .refused r)) ∧
  (∀ (s : State) (core n : Nat) (stalled : List Nat) (rest : List Turn) (i : Instr), s.agenda = .issue core stalled :: rest →
    isAgent core = true →
    let b : State := { s with agenda := rest }
    let ready := b.readyStrands core stalled
    b.choose core ready = some n →
    let a := (b.issuer core n).tick ready
    a.deliverable = false → a.fetchDecode = .ok i →
    step s = (match exec i a with
      | .next u => .next (u.settle a.cur.ctx).sweep
      | .fault f => .fault f
      | .refused r => .refused r)) ∧
  (∀ (s : State) (i : Instr) (p : Place) (rest : List Turn), s.agenda = .event i p :: rest →
    let b : State := { s with agenda := rest }
    step s = (if b.mayHappen i p then (match exec i { b with place := p } with
      | .next u => .next ({ u with cur := s.cur } : State).sweep
      | .fault f => .fault f
      | .refused r => .refused r) else .next b.sweep)) ∧
  (∀ (s : State) (fn code : Nat) (rest : List Turn), s.agenda = .ccmd fn code :: rest →
    step s = .next (({ s with agenda := rest } : State).strayCommand fn code).sweep) ∧
  (∀ (s : State) (n : Nat) (rest : List Turn), s.agenda = .cp n :: rest → n < 8 → 2 ≤ s.plat.stage →
    let b := ({ s with agenda := rest } : State).cpTick n
    let h := b.cpHart n
    (∀ k, h.interrupt = some k → step s = .next (b.putHart n (h.trap true k 0)).sweep) ∧
    (h.interrupt = none →
      (∀ x half i, b.rvFetch h = .ok (x, half) → (if half then Rv.decodeHalf x else Rv.decodeWord x) = some i →
        step s = .next (match b.rvExec n x (if half then 2 else 4) i with
          | .ok t => t.putHart n (retired i (t.cpHart n))
          | .error e => b.putHart n (h.trap false e.1 e.2)).sweep) ∧
      (∀ x half, b.rvFetch h = .ok (x, half) → (if half then Rv.decodeHalf x else Rv.decodeWord x) = none →
        step s = .next (b.putHart n (h.trap false 2 (Word.of x))).sweep) ∧
      (∀ e, b.rvFetch h = .error e → step s = .next (b.putHart n (h.trap false e.1 e.2)).sweep))) ∧
  (∀ (s : State) (i : Instr) (ws : List Nat),
    s.engine ≠ .hart → ws.length = opWords (fld (ws.headD 0) 31 24) →
    (∀ j, j < ws.length → ∃ k, (s.pc + Word.of (4 * j)).toNat % 4 = 0 ∧ s.inlineCode (s.pc + Word.of (4 * j)) = false ∧
      s.inImage (s.pc + Word.of (4 * j)) = true ∧ s.extentCheck (s.pc + Word.of (4 * j)) 4 .fetch = .ok k ∧
      ws.getD j 0 = ofBytes (Memory.read s.mem k 4)) →
    decodeWords s.engine ws = .ok i → s.fetchDecode = .ok i)

/-- R18, R20, R24, R36, R37: words laid out from the formats decode to what they stand for: `ADD.i32 w1, g7, #-1`, a likely
`BZ.i32 w3` to the word before it, `LD w5, [w2 - 8]`, `LI w4, #-512`, the two words of `LI g1, #-1`, `CSRR w3, tvec` and `RET`
on a mast core, `SOPEN w3, w4` on a tackle core (and not on a mast core), and the unassigned opcode 0x00 nowhere. -/
def Obligations.WordsDecodeToTheirInstructions : Prop :=
  let mast (ws : List Nat) := decode .mast (iwordsToBytes ws)
  mast [0x01049FFE] = .ok (.add .i32 (.w 1) (.reg (.g 7)) (.lit (-1))) ∧
  mast [0x230F7FFF] = .ok (.bz .i32 true (.w 3) (-1)) ∧
  mast [0x47142FFF] = .ok (.ld (.w 5) (.w 2) (-1)) ∧
  mast [0x10100200] = .ok (.li (.w 4) (-512)) ∧
  mast [0x11870000, 0xFFFFFFFF] = .ok (.liLit32 (.g 1) (-1)) ∧
  mast [0xED0C0500] = .ok (.csrr (.w 3) 0x014) ∧
  mast [0x2C000000] = .ok .ret ∧
  decode .tackle (iwordsToBytes [0xF10C1000]) = .ok (.sopen (.w 3) (.reg (.w 4))) ∧
  mast [0xF10C1000] = .error (.illegal 0) ∧ ∀ e, decode e (iwordsToBytes [0x00000000]) = .error (.illegal 0)

/-- R18, R20, R24 to R26: every instruction that holds no reserved value and has an encoding (an event of the machine has none)
decodes back from the bytes of its words, with every operand, whatever bytes follow it. -/
def Obligations.EveryEncodingDecodesBack : Prop :=
  ∀ (i : Instr) (rest : List Byte), WellFormed i = true → encode i ≠ [] →
    decode (nativeEngine ((encode i).headD 0)) (iwordsToBytes (encode i) ++ rest) = .ok i

/-- Every step keeps memory in its canonical form (log entry 4: the form is the model's), whatever instruction or event runs. -/
def Obligations.EveryStepKeepsTheMemoryForm : Prop := keptByStep memoryForm

/-- R397, R105, R21: right after power-on reset cstat reads 0 (no stage of bring-up has begun), no context, task or launch
exists, every core's cycle count is 0 and memory lists nothing, in its canonical form; a context created in any state starts
with its pc and w0 to w2 as given, every other window entry 0, an empty loop stack, and its CSRs at the values of R105. -/
def Obligations.ResetAndNewContexts : Prop :=
  ((∀ fn, State.reset.cstat fn = 0) ∧ State.reset.plat.ready = false ∧ State.reset.ctxs = [] ∧ State.reset.tasks = [] ∧
    State.reset.launches = [] ∧ (∀ k, (State.reset.coreAt k).cyc = 0) ∧ State.reset.mem = [] ∧ memoryForm State.reset) ∧
  ∀ (s : State) (task strand : Nat) (kind : CtxKind) (pc w0 w1 w2 : Word),
    let p := s.newCtx task strand kind pc w0 w1 w2
    let c := p.2.ctxAt p.1
    c.pc = pc ∧ c.kind = kind ∧ c.task = task ∧ c.strand = strand ∧ c.status = .running ∧ c.loops = [] ∧ c.depth = 0 ∧
      (∀ e, c.file.get e 0 = if e = 0 then w0 else if e = 1 then w1 else if e = 2 then w2 else 0) ∧ c.base = 0 ∧
      c.trapcause = 0 ∧ c.trapaddr = 0 ∧ c.trappc = 0 ∧ c.trapinfo = 0 ∧ c.intrap = false ∧ c.inui = false ∧
      c.eamask = false ∧ c.dcause = 0 ∧ c.uien = true ∧ c.uicause = 0 ∧ c.xid = 0 ∧ c.uipc = 0 ∧ c.parkthr = 2048 ∧
      c.wsp = c.wspb ∧ p.2.mem = s.mem ∧ ∀ k, k ≠ p.1 → p.2.ctxAt k = s.ctxAt k
end

