-- ==== Sys2Proof/Laws/Encoding.lean ====
section
/-! SUPPORT. The fields of encoded words, and that every operand's code decodes to that operand. -/

namespace Sys2Proof.Laws

open Sys2Proof

/-! ### Codes stay in their fields -/

theorem reg_code_lt (r : Reg) : r.code < 64 := by cases r <;> simp only [Reg.code] <;> omega
theorem src_code_lt (r : Src) : r.code < 256 := by
  cases r with
  | reg r => have := reg_code_lt r; simp only [Src.code]; omega
  | const k => simp only [Src.code]; omega
  | lit n => have := n.isLt; simp only [Src.code]; omega
theorem rc_code_lt (r : RcSrc) : r.code < 256 := by
  cases r with
  | reg r => have := reg_code_lt r; simp only [RcSrc.code]; omega
  | const k => simp only [RcSrc.code]; omega
theorem vsrc_code_lt (r : VSrc) : r.code < 256 := by
  cases r with
  | reg r => have := reg_code_lt r; simp only [VSrc.code]; omega
  | vec v => simp only [VSrc.code]; omega
  | const k => simp only [VSrc.code]; omega
  | lit n => have := n.isLt; simp only [VSrc.code]; omega
theorem reg_code_lt256 (r : Reg) : r.code < 256 := by have := reg_code_lt r; omega
theorem ity_code_lt (t : ITy) : t.code < 4 := by cases t <;> decide
theorem bty_code_lt (t : BTy) : t.code < 4 := by cases t <;> decide
theorem rnd_code_lt (t : Rnd) : t.code < 4 := by cases t <;> decide
theorem vty_code_lt (t : VTy) : t.code < 4 := by cases t <;> decide
theorem pred_code_lt (t : Pred) : t.code < 4 := by cases t <;> decide
theorem rel_code_lt (t : Rel) : t.code < 4 := by cases t <;> decide
theorem scope_enc_lt (t : Scope) : t.enc < 6 := by cases t <;> decide
theorem ety_enc_lt (t : ETy) : t.enc < 16 := by cases t <;> decide
theorem bitOf_lt (b : Bool) : bitOf b < 2 := by cases b <;> decide
theorem encV_lt (t : VTy) (v : Fin 16) : encV t v < 64 := by have := vty_code_lt t; simp only [encV]; omega
theorem encCond_lt (t : ITy) (b : Bool) : encCond t b < 8 := by
  have := ity_code_lt t; have := bitOf_lt b; simp only [encCond]; omega

/-! ### The fields of a word -/

theorem fieldsT (op d a b m w1 w2 : Nat) (hd : d < 64) (ha : a < 256) (hb : b < 256) (hm : m < 4) (ho : op < 256) :
    let w : Words := ⟨encT op d a b m, w1, w2⟩
    fld w.w0 31 24 = op ∧ w.d = d ∧ w.ta = a / 64 ∧ w.a = a % 64 ∧ w.tb = b / 64 ∧ w.b = b % 64 ∧ w.mod = m := by
  simp only [encT, fld, Words.d, Words.ta, Words.a, Words.tb, Words.b, Words.mod]; omega

theorem fieldsI (op d a imm w1 w2 : Nat) (hd : d < 64) (ha : a < 256) (hi : imm < 1024) (ho : op < 256) :
    let w : Words := ⟨encI op d a imm, w1, w2⟩
    fld w.w0 31 24 = op ∧ w.d = d ∧ w.ta = a / 64 ∧ w.a = a % 64 ∧ w.imm = imm ∧ w.tb * 256 + w.b * 4 + w.mod = imm := by
  simp only [encI, fld, Words.d, Words.ta, Words.a, Words.imm, Words.tb, Words.b, Words.mod]; omega

theorem fieldsB (op c cond off w1 w2 : Nat) (hd : c < 64) (ha : cond < 8) (hi : off < 32768) (ho : op < 256) :
    let w : Words := ⟨encB op c cond off, w1, w2⟩
    fld w.w0 31 24 = op ∧ w.d = c ∧ w.cond = cond ∧ w.boff = off := by
  simp only [encB, fld, Words.d, Words.cond, Words.boff]; omega

theorem fieldsM (op d base off w1 w2 : Nat) (hd : d < 64) (ha : base < 64) (hi : off < 4096) (ho : op < 256) :
    let w : Words := ⟨encM op d base off, w1, w2⟩
    fld w.w0 31 24 = op ∧ w.d = d ∧ w.base = base ∧ w.moff = off := by
  simp only [encM, fld, Words.d, Words.base, Words.moff]; omega

theorem fieldsS (op d csr w1 w2 : Nat) (hd : d < 64) (hi : csr < 4096) (ho : op < 256) :
    let w : Words := ⟨encS op d csr, w1, w2⟩
    fld w.w0 31 24 = op ∧ w.d = d ∧ w.csr = csr ∧ w.z = 0 := by
  simp only [encS, fld, Words.d, Words.csr, Words.z]; omega

/-! ### Operands read back -/

theorem regOf_code (e : Engine) (he : e ≠ .hart) (r : Reg) : regOf e r.code = some r := by
  cases r with
  | w i => simp [regOf, Reg.code]
  | g i => simp [regOf, Reg.code, he]; omega

theorem refOf_code (e : Engine) (he : e ≠ .hart) (r : Reg) : refOf e (r.code / 64) (r.code % 64) = some r := by
  have h := reg_code_lt r
  have h1 : r.code / 64 = 0 := by omega
  have h2 : r.code % 64 = r.code := by omega
  simp [refOf, h1, h2, regOf_code e he]

theorem srcOf_code (e : Engine) (he : e ≠ .hart) (x : Src) : srcOf e (x.code / 64) (x.code % 64) = some x := by
  cases x with
  | reg r =>
    have h := reg_code_lt r
    have h1 : r.code / 64 = 0 := by omega
    have h2 : r.code % 64 = r.code := by omega
    simp [srcOf, Src.code, h1, h2, regOf_code e he]
  | const k =>
    have h1 : (128 + k.val) / 64 = 2 := by omega
    have h2 : (128 + k.val) % 64 = k.val := by omega
    simp [srcOf, Src.code, h1, h2, he]
  | lit n =>
    have := n.isLt
    have h1 : (192 + n.toNat) / 64 = 3 := by omega
    have h2 : (192 + n.toNat) % 64 = n.toNat := by omega
    simp [srcOf, Src.code, h1, h2]

theorem rcOf_code (e : Engine) (he : e ≠ .hart) (x : RcSrc) : rcOf e (x.code / 64) (x.code % 64) = some x := by
  cases x with
  | reg r =>
    have h := reg_code_lt r
    have h1 : r.code / 64 = 0 := by omega
    have h2 : r.code % 64 = r.code := by omega
    simp [rcOf, RcSrc.code, h1, h2, regOf_code e he]
  | const k =>
    have h1 : (128 + k.val) / 64 = 2 := by omega
    have h2 : (128 + k.val) % 64 = k.val := by omega
    simp [rcOf, RcSrc.code, h1, h2, he]

theorem vsrcOf_code (e : Engine) (he : e ≠ .hart) (x : VSrc) : vsrcOf e (x.code / 64) (x.code % 64) = some x := by
  cases x with
  | reg r =>
    have h := reg_code_lt r
    have h1 : r.code / 64 = 0 := by omega
    have h2 : r.code % 64 = r.code := by omega
    simp [vsrcOf, VSrc.code, h1, h2, regOf_code e he]
  | vec v =>
    have h1 : (64 + v.val) / 64 = 1 := by omega
    have h2 : (64 + v.val) % 64 = v.val := by omega
    simp [vsrcOf, VSrc.code, h1, h2]
  | const k =>
    have h1 : (128 + k.val) / 64 = 2 := by omega
    have h2 : (128 + k.val) % 64 = k.val := by omega
    simp [vsrcOf, VSrc.code, h1, h2]
  | lit n =>
    have := n.isLt
    have h1 : (192 + n.toNat) / 64 = 3 := by omega
    have h2 : (192 + n.toNat) % 64 = n.toNat := by omega
    simp [vsrcOf, VSrc.code, h1, h2]

theorem vecOf_code (v : Fin 16) : vecOf ((64 + v.val) / 64) ((64 + v.val) % 64) = some v := by
  have h1 : (64 + v.val) / 64 = 1 := by omega
  have h2 : (64 + v.val) % 64 = v.val := by omega
  simp [vecOf, h1, h2]

theorem vecOf_one (v : Fin 16) : vecOf 1 v.val = some v := by simp [vecOf]

theorem nameOf_code (n x : Nat) (hn : n ≤ 64) (h : x < n) : nameOf n (x / 64) (x % 64) = some x := by
  have h1 : x / 64 = 0 := by omega
  have h2 : x % 64 = x := by omega
  simp [nameOf, h1, h2, h]

@[simp] theorem ityOf_code (t : ITy) : ityOf t.code = t := by cases t <;> rfl
@[simp] theorem rndOf_code (t : Rnd) : rndOf t.code = t := by cases t <;> rfl
@[simp] theorem vtyOf_code (t : VTy) : vtyOf t.code = t := by cases t <;> rfl
@[simp] theorem predOf_code (t : Pred) : predOf t.code = t := by cases t <;> rfl
@[simp] theorem relOf_code (t : Rel) : relOf t.code = t := by cases t <;> rfl
@[simp] theorem scopeOf_enc (t : Scope) : scopeOf t.enc = some t := by cases t <;> rfl
@[simp] theorem etyOf_enc (t : ETy) : etyOf t.enc = some t := by cases t <;> rfl

/-! ### Parts of fields -/

theorem encV_div (t : VTy) (v : Fin 16) : encV t v / 16 = t.code := by simp only [encV]; omega
theorem encV_fin (t : VTy) (v : Fin 16) : Fin.ofNat 16 (encV t v) = v := by
  apply Fin.ext; simp only [encV, Fin.ofNat]; omega
theorem bitOf_le (b : Bool) : (bitOf b ≤ 1) = True := by cases b <;> simp [bitOf]
theorem bitOf_one (b : Bool) : (bitOf b = 1) = (b = true) := by cases b <;> simp [bitOf]
theorem bitOf_half (b : Bool) : bitOf b / 2 = 0 := by cases b <;> rfl
theorem bitOf_two (b : Bool) : (bitOf b < 2) = True := by cases b <;> simp [bitOf]
theorem bits_low (b c : Bool) : (bitOf b * 2 + bitOf c) % 2 = bitOf c := by cases b <;> cases c <;> rfl
theorem bits_high (b c : Bool) : (bitOf b * 2 + bitOf c) / 2 = bitOf b := by cases b <;> cases c <;> rfl
theorem encCond_mod (t : ITy) (b : Bool) : encCond t b % 4 = t.code := by
  have := ity_code_lt t; simp only [encCond]; omega
theorem encCond_hint (t : ITy) (b : Bool) : decide (encCond t b / 4 = 1) = b := by
  cases t <;> cases b <;> rfl

theorem opnd_fields (w0 w2 : Nat) (y : Src) :
    let w : Words := ⟨w0, encOpnd y, w2⟩
    fld w.w1 31 30 = y.code / 64 ∧ fld w.w1 29 24 = y.code % 64 ∧ fld w.w1 23 0 = 0 := by
  have := src_code_lt y
  simp only [encOpnd, fld]; omega

/-! ### The checks of a decoding that pass -/

theorem bind_ok {α β : Type} (x : α) (f : α → Dec β) : ((Except.ok x : Dec α) >>= f) = f x := rfl
theorem accept_some {α : Type} (k : Nat) (x : α) : accept k (some x) = .ok x := rfl
theorem zeroF_zero (k : Nat) : zeroF k 0 = .ok () := rfl
theorem listed_true (k : Nat) : listed k true = .ok () := rfl

/-! ### From the words to the opcode's arm -/

/-- The engine that has an opcode natively. -/
def engineFor (op : Nat) : Engine := if 0xF1 ≤ op then .tackle else .mast

theorem engineFor_ne (op : Nat) : engineFor op ≠ .hart := by unfold engineFor; split <;> decide

/-- A mast core has every assigned and every closed CSR number. -/
theorem csrOn_mast (n : Nat) : csrOn .mast n = (csrAssigned n || csrClosed n) := by simp [csrOn, Bool.or_comm]
theorem csrReads_mast (n : Nat) : csrReads .mast n = (csrAssigned n || csrClosed n) := by simp [csrReads, csrOn_mast]

theorem engineFor_ED : engineFor 0xED = .mast := by decide
theorem engineFor_EE : engineFor 0xEE = .mast := by decide

theorem decode1 (w0 op : Nat) (rest : List Nat) (h : fld w0 31 24 = op) (ha : (assigned op && decodedBy (engineFor op) op) = true)
    (h1 : opWords op = 1) : decodeWords (nativeEngine w0) (w0 :: rest) = decodeBody (engineFor op) ⟨w0, rest.getD 0 0, rest.getD 1 0⟩ := by
  have : nativeEngine w0 = engineFor op := by simp only [nativeEngine, engineFor, h]
  simp [decodeWords, this, opOk, h, ha, h1]

theorem decode2 (w0 w1 op : Nat) (rest : List Nat) (h : fld w0 31 24 = op) (ha : (assigned op && decodedBy (engineFor op) op) = true)
    (h1 : opWords op = 2) : decodeWords (nativeEngine w0) (w0 :: w1 :: rest) = decodeBody (engineFor op) ⟨w0, w1, rest.getD 0 0⟩ := by
  have : nativeEngine w0 = engineFor op := by simp only [nativeEngine, engineFor, h]
  simp [decodeWords, this, opOk, h, ha, h1]

theorem decode3 (w0 w1 w2 op : Nat) (rest : List Nat) (h : fld w0 31 24 = op) (ha : (assigned op && decodedBy (engineFor op) op) = true)
    (h1 : opWords op = 3) : decodeWords (nativeEngine w0) (w0 :: w1 :: w2 :: rest) = decodeBody (engineFor op) ⟨w0, w1, w2⟩ := by
  have : nativeEngine w0 = engineFor op := by simp only [nativeEngine, engineFor, h]
  simp [decodeWords, this, opOk, h, ha, h1]

theorem body000 (e : Engine) (op : Nat) (w : Words) (h0 : fld w.w0 31 24 = op) (h : op < 0x20) :
    decodeBody e w = dec000 e op w := by simp [decodeBody, h0, h]
theorem body001 (e : Engine) (op : Nat) (w : Words) (h0 : fld w.w0 31 24 = op) (g : 0x20 ≤ op) (h : op < 0x40) :
    decodeBody e w = dec001 e op w := by
  simp only [decodeBody, h0]; rw [if_neg (by omega), if_pos h]
theorem body010 (e : Engine) (op : Nat) (w : Words) (h0 : fld w.w0 31 24 = op) (g : 0x40 ≤ op) (h : op < 0x60) :
    decodeBody e w = dec010 e op w := by
  simp only [decodeBody, h0]; rw [if_neg (by omega), if_neg (by omega), if_pos h]
theorem body011 (e : Engine) (op : Nat) (w : Words) (h0 : fld w.w0 31 24 = op) (g : 0x60 ≤ op) (h : op < 0x80) :
    decodeBody e w = dec011 e op w := by
  simp only [decodeBody, h0]; rw [if_neg (by omega), if_neg (by omega), if_neg (by omega), if_pos h]
theorem body100 (e : Engine) (op : Nat) (w : Words) (h0 : fld w.w0 31 24 = op) (g : 0x80 ≤ op) (h : op < 0xA0) :
    decodeBody e w = dec100 e op w := by
  simp only [decodeBody, h0]; rw [if_neg (by omega), if_neg (by omega), if_neg (by omega), if_neg (by omega), if_pos h]
theorem body101 (e : Engine) (op : Nat) (w : Words) (h0 : fld w.w0 31 24 = op) (g : 0xA0 ≤ op) (h : op < 0xC0) :
    decodeBody e w = dec101 e op w := by
  simp only [decodeBody, h0]
  rw [if_neg (by omega), if_neg (by omega), if_neg (by omega), if_neg (by omega), if_neg (by omega), if_pos h]
theorem body110 (e : Engine) (op : Nat) (w : Words) (h0 : fld w.w0 31 24 = op) (g : 0xC0 ≤ op) (h : op < 0xE0) :
    decodeBody e w = dec110 e op w := by
  simp only [decodeBody, h0]
  rw [if_neg (by omega), if_neg (by omega), if_neg (by omega), if_neg (by omega), if_neg (by omega), if_neg (by omega), if_pos h]
theorem body111 (e : Engine) (op : Nat) (w : Words) (h0 : fld w.w0 31 24 = op) (g : 0xE0 ≤ op) :
    decodeBody e w = dec111 e op w := by
  simp only [decodeBody, h0]
  rw [if_neg (by omega), if_neg (by omega), if_neg (by omega), if_neg (by omega), if_neg (by omega), if_neg (by omega),
    if_neg (by omega)]

end Sys2Proof.Laws
end

