-- ==== Sys2Proof/Laws/DecoderArms.lean ====
section
/-! SUPPORT. The arm of the decoder for each opcode (R35). -/

namespace Sys2Proof.Laws

open Sys2Proof

/-! ### The decoder, opcode by opcode -/

theorem arm_01 (e : Engine) (w : Words) : dec000 e 0x01 w = (dec3 e w srcOf srcOf (.add (ityOf w.mod))) := rfl
theorem arm_02 (e : Engine) (w : Words) : dec000 e 0x02 w = (dec3 e w srcOf srcOf (.sub (ityOf w.mod))) := rfl
theorem arm_03 (e : Engine) (w : Words) : dec000 e 0x03 w = (dec3 e w srcOf srcOf (.mul (ityOf w.mod))) := rfl
theorem arm_04 (e : Engine) (w : Words) : dec000 e 0x04 w = (dec3 e w srcOf srcOf (.mulh (ityOf w.mod))) := rfl
theorem arm_05 (e : Engine) (w : Words) : dec000 e 0x05 w = (dec3 e w srcOf srcOf (.div (ityOf w.mod))) := rfl
theorem arm_06 (e : Engine) (w : Words) : dec000 e 0x06 w = (dec3 e w srcOf srcOf (.rem (ityOf w.mod))) := rfl
theorem arm_07 (e : Engine) (w : Words) : dec000 e 0x07 w = (dec3 e w srcOf srcOf (.min (ityOf w.mod))) := rfl
theorem arm_08 (e : Engine) (w : Words) : dec000 e 0x08 w = (dec3 e w srcOf srcOf (.max (ityOf w.mod))) := rfl
theorem arm_09 (e : Engine) (w : Words) : dec000 e 0x09 w = (dec3 e w srcOf srcOf (.slt (ityOf w.mod))) := rfl
theorem arm_0A (e : Engine) (w : Words) : dec000 e 0x0A w = (dec3 e w srcOf srcOf (.seq (ityOf w.mod))) := rfl
theorem arm_0B (e : Engine) (w : Words) : dec000 e 0x0B w = (dec3 e w srcOf srcOf
      (if w.mod = 0 then .and else if w.mod = 1 then .or else if w.mod = 2 then .xor else .andn)) := rfl
theorem arm_0C (e : Engine) (w : Words) : dec000 e 0x0C w = (dec3 e w srcOf srcOf
      (if w.mod = 0 then .shl else if w.mod = 1 then .shr else if w.mod = 2 then .sra else .rot)) := rfl
theorem arm_0D (e : Engine) (w : Words) : dec000 e 0x0D w = (
    let fc := w.tb * 64 + w.b
    if fc ≤ 2 then do
      listed 5 (w.mod % 2 = 1)
      let t := if w.mod = 1 then BTy.n64 else BTy.n32
      dec2 e w srcOf (if fc = 0 then .clz t else if fc = 1 then .ctz t else .popc t)
    else do
      listed 3 ([0x10, 0x11, 0x12, 0x20, 0x21, 0x22].contains fc)
      listed 5 (w.mod = 0)
      dec2 e w srcOf (if fc = 0x10 then .sextI8 else if fc = 0x11 then .sextI16 else if fc = 0x12 then .sextI32
        else if fc = 0x20 then .zextN8 else if fc = 0x21 then .zextN16 else .zextN32)) := rfl
theorem arm_0E (e : Engine) (w : Words) : dec000 e 0x0E w = (do
    zeroF 3 (w.tb * 64 + w.b)
    zeroF 6 (fld w.w1 31 14 + fld w.w1 7 7)
    listed 5 (w.mod < 2)
    listed 6 (fieldOk (fld w.w1 13 8) (fld w.w1 6 0))
    dec2 e w srcOf fun d a => .bfx (w.mod = 1) d a (BitVec.ofNat 6 (fld w.w1 13 8)) (BitVec.ofNat 7 (fld w.w1 6 0))) := rfl
theorem arm_0F (e : Engine) (w : Words) : dec000 e 0x0F w = (do
    zeroF 3 (w.tb * 64 + w.b)
    zeroF 6 (fld w.w1 31 14 + fld w.w1 7 7)
    listed 5 (w.mod = 0)
    listed 6 (fieldOk (fld w.w1 13 8) (fld w.w1 6 0))
    dec2 e w srcOf fun d a => .bfi d a (BitVec.ofNat 6 (fld w.w1 13 8)) (BitVec.ofNat 7 (fld w.w1 6 0))) := rfl
theorem arm_10 (e : Engine) (w : Words) : dec000 e 0x10 w = (do
    zeroF 2 (w.ta * 64 + w.a)
    let d ← accept 1 (regOf e w.d)
    .ok (.li d (BitVec.ofNat 10 w.imm))) := rfl
theorem arm_11 (e : Engine) (w : Words) : dec000 e 0x11 w = (do
    zeroF 2 w.a
    zeroF 5 w.imm
    zeroF 6 (if w.ta = 2 then fld w.w1 31 9 else 0)
    let d ← accept 1 (regOf e w.d)
    if w.ta = 3 then .ok (.liLit32 d (BitVec.ofNat 32 w.w1))
    else if w.ta = 2 ∧ e ≠ .hart then .ok (.liCidx d (Fin.ofNat 512 w.w1))
    else .error (.operand 2)) := rfl
theorem arm_12 (e : Engine) (w : Words) : dec000 e 0x12 w = (dec3 e w srcOf srcOf (.faddF32 (rndOf w.mod))) := rfl
theorem arm_13 (e : Engine) (w : Words) : dec000 e 0x13 w = (dec3 e w srcOf srcOf (.faddF64 (rndOf w.mod))) := rfl
theorem arm_14 (e : Engine) (w : Words) : dec000 e 0x14 w = (dec3 e w srcOf srcOf (.fsubF32 (rndOf w.mod))) := rfl
theorem arm_15 (e : Engine) (w : Words) : dec000 e 0x15 w = (dec3 e w srcOf srcOf (.fsubF64 (rndOf w.mod))) := rfl
theorem arm_16 (e : Engine) (w : Words) : dec000 e 0x16 w = (dec3 e w srcOf srcOf (.fmulF32 (rndOf w.mod))) := rfl
theorem arm_17 (e : Engine) (w : Words) : dec000 e 0x17 w = (dec3 e w srcOf srcOf (.fmulF64 (rndOf w.mod))) := rfl
theorem arm_18 (e : Engine) (w : Words) : dec000 e 0x18 w = (dec3 e w srcOf srcOf (.fmaF32 (rndOf w.mod))) := rfl
theorem arm_19 (e : Engine) (w : Words) : dec000 e 0x19 w = (dec3 e w srcOf srcOf (.fmaF64 (rndOf w.mod))) := rfl
theorem arm_1A (e : Engine) (w : Words) : dec000 e 0x1A w = (dec3 e w srcOf srcOf (.fdivF32 (rndOf w.mod))) := rfl
theorem arm_1B (e : Engine) (w : Words) : dec000 e 0x1B w = (dec3 e w srcOf srcOf (.fdivF64 (rndOf w.mod))) := rfl
theorem arm_1C (e : Engine) (w : Words) : dec000 e 0x1C w = (do
    listed 5 (w.mod ≠ 3)
    dec3 e w srcOf srcOf (if w.mod = 0 then .fminF32 else if w.mod = 1 then .fmaxF32 else .fcmpF32)) := rfl
theorem arm_1D (e : Engine) (w : Words) : dec000 e 0x1D w = (do
    listed 5 (w.mod ≠ 3)
    dec3 e w srcOf srcOf (if w.mod = 0 then .fminF64 else if w.mod = 1 then .fmaxF64 else .fcmpF64)) := rfl
theorem arm_1E (e : Engine) (w : Words) : dec000 e 0x1E w = (do
    zeroF 3 (w.tb * 4 + w.b / 16)
    listed 3 (w.b % 16 = 10 || w.b % 16 = 11)
    dec2 e w srcOf (.fsqrt (if w.b % 16 = 10 then .f32 else .f64) (rndOf w.mod))) := rfl
theorem arm_1F (e : Engine) (w : Words) : dec000 e 0x1F w = (
    match etyOf (w.tb * 4 + w.b / 16), etyOf (w.b % 16) with
    | some dst, some src => dec2 e w srcOf (.fcvt dst src (rndOf w.mod))
    | _, _ => .error (.illegal 3)) := rfl
theorem arm_20 (e : Engine) (w : Words) : dec001 e 0x20 w = (do
    zeroF 5 w.z
    let d ← accept 1 (regOf e w.d)
    .ok (.nop d (BitVec.ofNat 12 w.csr))) := rfl
theorem arm_21 (e : Engine) (w : Words) : dec001 e 0x21 w = (do
    zeroF 1 w.d
    zeroF 5 w.cond
    .ok (.br (BitVec.ofNat 15 w.boff))) := rfl
theorem arm_22 (e : Engine) (w : Words) : dec001 e 0x22 w = (do
    zeroF 1 w.d
    zeroF 5 (w.cond + w.boff)
    .ok (.brFar (BitVec.ofNat 32 w.w1))) := rfl
theorem arm_23 (e : Engine) (w : Words) : dec001 e 0x23 w = (decBranch e w .bz) := rfl
theorem arm_24 (e : Engine) (w : Words) : dec001 e 0x24 w = (decBranch e w .bnz) := rfl
theorem arm_25 (e : Engine) (w : Words) : dec001 e 0x25 w = (decBranchX e w .beq) := rfl
theorem arm_26 (e : Engine) (w : Words) : dec001 e 0x26 w = (decBranchX e w .bne) := rfl
theorem arm_27 (e : Engine) (w : Words) : dec001 e 0x27 w = (decBranchX e w .blt) := rfl
theorem arm_28 (e : Engine) (w : Words) : dec001 e 0x28 w = (decBranchX e w .bge) := rfl
theorem arm_29 (e : Engine) (w : Words) : dec001 e 0x29 w = (do
    zeroF 5 w.cond
    listed 1 (frameOk w.d)
    .ok (.call w.d (BitVec.ofNat 15 w.boff))) := rfl
theorem arm_2A (e : Engine) (w : Words) : dec001 e 0x2A w = (do
    zeroF 1 w.d
    zeroF 5 (w.cond + w.boff)
    .ok (.callFar (BitVec.ofNat 32 w.w1))) := rfl
theorem arm_2B (e : Engine) (w : Words) : dec001 e 0x2B w = (do
    zeroF 3 (w.tb * 64 + w.b)
    zeroF 5 w.mod
    listed 1 (frameOk w.d)
    let a ← accept 2 (rcOf e w.ta w.a)
    .ok (.callx w.d a)) := rfl
theorem arm_2C (e : Engine) (w : Words) : dec001 e 0x2C w = (decS0 w .ret) := rfl
theorem arm_2D (e : Engine) (w : Words) : dec001 e 0x2D w = (do
    zeroF 5 w.cond
    listed 5 (1 ≤ (BitVec.ofNat 15 w.boff).toInt)
    let c ← accept 1 (regOf e w.d)
    .ok (.loop c (BitVec.ofNat 15 w.boff))) := rfl
theorem arm_2E (e : Engine) (w : Words) : dec001 e 0x2E w = (do
    zeroF 5 (w.cond / 4)
    zeroF 6 (fld w.w1 15 0)
    listed 5 (2 ≤ (BitVec.ofNat 15 w.boff).toInt)
    let c ← accept 1 (regOf e w.d)
    let l ← accept 6 (opndExt e w)
    let s ← accept 6 (srcOf e (fld w.w1 23 22) (fld w.w1 21 16))
    .ok (.lfor (ityOf (w.cond % 4)) c (BitVec.ofNat 15 w.boff) l s)) := rfl
theorem arm_2F (e : Engine) (w : Words) : dec001 e 0x2F w = (decS0 w .lend) := rfl
theorem arm_30 (e : Engine) (w : Words) : dec001 e 0x30 w = (do
    zeroF 3 (w.tb * 64 + w.b)
    zeroF 5 w.mod
    dec2 e w srcOf .park) := rfl
theorem arm_31 (e : Engine) (w : Words) : dec001 e 0x31 w = (decS0 w .yield) := rfl
theorem arm_32 (e : Engine) (w : Words) : dec001 e 0x32 w = (do
    zeroF 1 w.d
    let a ← accept 2 (srcOf e w.ta w.a)
    .ok (.trap a (BitVec.ofNat 10 w.imm))) := rfl
theorem arm_33 (e : Engine) (w : Words) : dec001 e 0x33 w = (decS0 w .eret) := rfl
theorem arm_34 (e : Engine) (w : Words) : dec001 e 0x34 w = (do
    zeroF 1 w.d
    zeroF 2 (w.ta * 64 + w.a)
    .ok (.bkpt (BitVec.ofNat 10 w.imm))) := rfl
theorem arm_41 (e : Engine) (w : Words) : dec010 e 0x41 w = (decM e w .ldbI8) := rfl
theorem arm_42 (e : Engine) (w : Words) : dec010 e 0x42 w = (decM e w .ldbN8) := rfl
theorem arm_43 (e : Engine) (w : Words) : dec010 e 0x43 w = (decM e w .ldhI16) := rfl
theorem arm_44 (e : Engine) (w : Words) : dec010 e 0x44 w = (decM e w .ldhN16) := rfl
theorem arm_45 (e : Engine) (w : Words) : dec010 e 0x45 w = (decM e w .ldI32) := rfl
theorem arm_46 (e : Engine) (w : Words) : dec010 e 0x46 w = (decM e w .ldN32) := rfl
theorem arm_47 (e : Engine) (w : Words) : dec010 e 0x47 w = (decM e w .ld) := rfl
theorem arm_48 (e : Engine) (w : Words) : dec010 e 0x48 w = (decM e w .stb) := rfl
theorem arm_49 (e : Engine) (w : Words) : dec010 e 0x49 w = (decM e w .sth) := rfl
theorem arm_4A (e : Engine) (w : Words) : dec010 e 0x4A w = (decM e w .stN32) := rfl
theorem arm_4B (e : Engine) (w : Words) : dec010 e 0x4B w = (decM e w .st) := rfl
theorem arm_4C (e : Engine) (w : Words) : dec010 e 0x4C w = (decM e w .ldAcq) := rfl
theorem arm_4D (e : Engine) (w : Words) : dec010 e 0x4D w = (decM e w .stRel) := rfl
theorem arm_4E (e : Engine) (w : Words) : dec010 e 0x4E w = (decM e w .ldAcqN32) := rfl
theorem arm_4F (e : Engine) (w : Words) : dec010 e 0x4F w = (decM e w .stRelN32) := rfl
theorem arm_50 (e : Engine) (w : Words) : dec010 e 0x50 w = (decM e w .aadd) := rfl
theorem arm_51 (e : Engine) (w : Words) : dec010 e 0x51 w = (decMX e w .acas) := rfl
theorem arm_52 (e : Engine) (w : Words) : dec010 e 0x52 w = (decM e w .axch) := rfl
theorem arm_53 (e : Engine) (w : Words) : dec010 e 0x53 w = (decM e w .aminI64) := rfl
theorem arm_54 (e : Engine) (w : Words) : dec010 e 0x54 w = (decM e w .aminN64) := rfl
theorem arm_55 (e : Engine) (w : Words) : dec010 e 0x55 w = (decM e w .amaxI64) := rfl
theorem arm_56 (e : Engine) (w : Words) : dec010 e 0x56 w = (decM e w .amaxN64) := rfl
theorem arm_57 (e : Engine) (w : Words) : dec010 e 0x57 w = (decM e w .aand) := rfl
theorem arm_58 (e : Engine) (w : Words) : dec010 e 0x58 w = (decM e w .aor) := rfl
theorem arm_59 (e : Engine) (w : Words) : dec010 e 0x59 w = (decM e w .badd) := rfl
theorem arm_5A (e : Engine) (w : Words) : dec010 e 0x5A w = (decMX e w .bcas) := rfl
theorem arm_5B (e : Engine) (w : Words) : dec010 e 0x5B w = (do
    listed 1 (w.d < 2)
    let b ← accept 4 (regOf e w.base)
    .ok ((if w.d = 0 then Instr.prefCode else Instr.prefHeap) b (BitVec.ofNat 12 w.moff))) := rfl
theorem arm_5C (e : Engine) (w : Words) : dec010 e 0x5C w = (do
    zeroF 1 w.d
    zeroF 2 (w.ta * 64 + w.a)
    zeroF 5 (fld w.w0 9 6 + fld w.w0 3 3)
    match scopeOf (fld w.w0 2 0) with
    | none => .error (.illegal 5)
    | some sc =>
      let k := fld w.w0 5 4
      .ok (if k = 0 then .fenceSc sc else if k = 1 then .fenceSl sc else if k = 2 then .fenceAcq sc else .fenceRel sc)) := rfl
theorem arm_61 (e : Engine) (w : Words) : dec011 e 0x61 w = (do
    listed 5 (w.mod = 0)
    dec3 e w srcOf srcOf .nnew) := rfl
theorem arm_62 (e : Engine) (w : Words) : dec011 e 0x62 w = (do
    zeroF 3 (w.tb * 64 + w.b)
    listed 5 (w.mod = 0)
    dec2 e w refOf .nfree) := rfl
theorem arm_63 (e : Engine) (w : Words) : dec011 e 0x63 w = (do
    listed 5 (w.moff < 8)
    decM e w fun d n _ => .nld d n (Fin.ofNat 8 w.moff)) := rfl
theorem arm_64 (e : Engine) (w : Words) : dec011 e 0x64 w = (do
    listed 5 (w.moff < 8)
    decM e w fun d n _ => .nst d n (Fin.ofNat 8 w.moff)) := rfl
theorem arm_65 (e : Engine) (w : Words) : dec011 e 0x65 w = (do
    listed 5 (w.mod = 0)
    dec3 e w refOf srcOf .pget) := rfl
theorem arm_66 (e : Engine) (w : Words) : dec011 e 0x66 w = (do
    zeroF 1 w.d
    listed 5 (w.mod = 0)
    decAB e w refOf refOf .plink) := rfl
theorem arm_67 (e : Engine) (w : Words) : dec011 e 0x67 w = (do
    zeroF 1 w.d
    listed 5 (w.mod < 2)
    decAB e w refOf refOf (if w.mod = 0 then .splice else .spliceJ)) := rfl
theorem arm_68 (e : Engine) (w : Words) : dec011 e 0x68 w = (do
    listed 5 (w.mod = 0)
    dec3 e w refOf refOf .ndup) := rfl
theorem arm_69 (e : Engine) (w : Words) : dec011 e 0x69 w = (do
    zeroF 3 (w.tb * 64 + w.b)
    listed 5 (w.mod = 0)
    dec2 e w refOf .nown) := rfl
theorem arm_6A (e : Engine) (w : Words) : dec011 e 0x6A w = (do
    listed 1 (w.d < 16)
    listed 5 (w.mod = 0)
    decAB e w refOf refOf (.rpush (Fin.ofNat 16 w.d))) := rfl
theorem arm_6B (e : Engine) (w : Words) : dec011 e 0x6B w = (do
    zeroF 2 (w.ta * 64 + w.a)
    zeroF 3 (w.tb * 64 + w.b)
    listed 5 (w.mod = 0)
    let d ← accept 1 (if w.d < 31 then some (Fin.ofNat 31 w.d) else none)
    .ok (.rpop d)) := rfl
theorem arm_6C (e : Engine) (w : Words) : dec011 e 0x6C w = (do
    listed 5 (w.mod = 0)
    let d ← accept 1 (if w.d < 31 then some (Fin.ofNat 31 w.d) else none)
    decAB e w refOf refOf (.meet d)) := rfl
theorem arm_6D (e : Engine) (w : Words) : dec011 e 0x6D w = (do
    listed 5 (w.mod = 0)
    dec3 e w srcOf srcOf .rule) := rfl
theorem arm_6E (e : Engine) (w : Words) : dec011 e 0x6E w = (do
    zeroF 6 (fld w.w1 23 0)
    listed 1 (w.d < 16)
    listed 5 (w.mod = 0)
    let h ← accept 2 (rcOf e w.ta w.a)
    let a0 ← accept 3 (srcOf e w.tb w.b)
    let a1 ← accept 6 (opndExt e w)
    .ok (.fork (Fin.ofNat 16 w.d) h a0 a1)) := rfl
theorem arm_6F (e : Engine) (w : Words) : dec011 e 0x6F w = (do
    zeroF 3 (w.tb * 64 + w.b)
    listed 5 (w.mod = 0)
    dec2 e w rcOf .join) := rfl
theorem arm_81 (e : Engine) (w : Words) : dec100 e 0x81 w = (do
    zeroF 3 (w.tb * 64 + w.b)
    listed 5 (w.mod = 0)
    dec2 e w srcOf .vclaim) := rfl
theorem arm_82 (e : Engine) (w : Words) : dec100 e 0x82 w = (do
    zeroF 1 w.d
    zeroF 2 (w.ta * 64 + w.a)
    zeroF 3 (w.tb * 64 + w.b)
    listed 5 (w.mod = 0)
    .ok .vyield) := rfl
theorem arm_83 (e : Engine) (w : Words) : dec100 e 0x83 w = (do
    zeroF 3 (w.tb * 64 + w.b)
    listed 5 (w.mod = 0)
    dec2 e w srcOf .vren) := rfl
theorem arm_84 (e : Engine) (w : Words) : dec100 e 0x84 w = (do
    let b ← accept 4 (regOf e w.base)
    .ok (.vld (vtyOf (w.d / 16)) (Fin.ofNat 16 w.d) b (BitVec.ofNat 12 w.moff))) := rfl
theorem arm_85 (e : Engine) (w : Words) : dec100 e 0x85 w = (do
    let b ← accept 4 (regOf e w.base)
    .ok (.vst (vtyOf (w.d / 16)) (Fin.ofNat 16 w.d) b (BitVec.ofNat 12 w.moff))) := rfl
theorem arm_86 (e : Engine) (w : Words) : dec100 e 0x86 w = (decV e w true rcOf (fun _ t n => vecOf t n) .vgath) := rfl
theorem arm_87 (e : Engine) (w : Words) : dec100 e 0x87 w = (decV e w true vsrcOf vsrcOf .vadd) := rfl
theorem arm_88 (e : Engine) (w : Words) : dec100 e 0x88 w = (decV e w true vsrcOf vsrcOf .vsub) := rfl
theorem arm_89 (e : Engine) (w : Words) : dec100 e 0x89 w = (decV e w true vsrcOf vsrcOf .vmul) := rfl
theorem arm_8A (e : Engine) (w : Words) : dec100 e 0x8A w = (decV e w (!(vtyOf (w.d / 16)).isInt) vsrcOf vsrcOf .vmulz) := rfl
theorem arm_8B (e : Engine) (w : Words) : dec100 e 0x8B w = (decV e w true vsrcOf vsrcOf .vfma) := rfl
theorem arm_8C (e : Engine) (w : Words) : dec100 e 0x8C w = (decV e w true vsrcOf vsrcOf .vmin) := rfl
theorem arm_8D (e : Engine) (w : Words) : dec100 e 0x8D w = (decV e w true vsrcOf vsrcOf .vmax) := rfl
theorem arm_8E (e : Engine) (w : Words) : dec100 e 0x8E w = (do
    zeroF 1 (w.d / 4 % 4)
    decAB e w vsrcOf vsrcOf (.vcmp (relOf w.mod) (vtyOf (w.d / 16)) (Fin.ofNat 4 w.d))) := rfl
theorem arm_8F (e : Engine) (w : Words) : dec100 e 0x8F w = (decAB e w vsrcOf vsrcOf (.vsel (vtyOf (w.d / 16)) (Fin.ofNat 16 w.d) (Fin.ofNat 4 w.mod))) := rfl
theorem arm_90 (e : Engine) (w : Words) : dec100 e 0x90 w = (do
    zeroF 3 (w.tb + w.b / 4 % 4)
    let a ← accept 2 (vsrcOf e w.ta w.a)
    .ok (.vcvt (vtyOf (w.d / 16)) (vtyOf (w.b / 16)) (rndOf (w.b % 4)) (Fin.ofNat 16 w.d) a (predOf w.mod))) := rfl
theorem arm_91 (e : Engine) (w : Words) : dec100 e 0x91 w = (dec3 e w rcOf srcOf (.vsum (vtyOf w.mod))) := rfl
theorem arm_92 (e : Engine) (w : Words) : dec100 e 0x92 w = (dec3 e w rcOf srcOf (.vmaxr (vtyOf w.mod))) := rfl
theorem arm_93 (e : Engine) (w : Words) : dec100 e 0x93 w = (do
    let d ← accept 1 (regOf e w.d)
    let q ← accept 2 (nameOf 32 w.ta w.a)
    let c ← accept 3 (refOf e w.tb w.b)
    .ok (.vredq (vtyOf w.mod) d (Fin.ofNat 32 q) c)) := rfl
theorem arm_94 (e : Engine) (w : Words) : dec100 e 0x94 w = (
    let prog := w.w1 + 2 ^ 32 * fld w.w2 15 0
    match vxpBad (vtyOf (w.d / 16)).isInt (vxpTokens prog) 0 0 0 false with
    | some k => .error (.illegal (if k < 8 then 6 else 7))
    | none => do
      let x0 ← accept 2 (vsrcOf e w.ta w.a)
      let x1 ← accept 3 (vsrcOf e w.tb w.b)
      let x2 ← accept 7 (vsrcOf e (fld w.w2 23 22) (fld w.w2 21 16))
      let x3 ← accept 7 (vsrcOf e (fld w.w2 31 30) (fld w.w2 29 24))
      .ok (.vxp (vtyOf (w.d / 16)) (Fin.ofNat 16 w.d) x0 x1 x2 x3 (BitVec.ofNat 48 prog) (predOf w.mod))) := rfl
theorem arm_95 (e : Engine) (w : Words) : dec100 e 0x95 w = (decV e w (w.d / 16 = 2) rcOf vsrcOf fun _ v a b p => .vrank v a b p) := rfl
theorem arm_96 (e : Engine) (w : Words) : dec100 e 0x96 w = (decV e w (w.d / 16 = 2) rcOf vsrcOf fun _ v a b p => .vselect v a b p) := rfl
theorem arm_97 (e : Engine) (w : Words) : dec100 e 0x97 w = (do
    zeroF 3 (w.tb * 64 + w.b)
    listed 1 (w.d / 16 = 2)
    let a ← accept 2 (vsrcOf e w.ta w.a)
    .ok (.vpopc (Fin.ofNat 16 w.d) a (predOf w.mod))) := rfl
theorem arm_98 (e : Engine) (w : Words) : dec100 e 0x98 w = (decV e w true (fun _ t n => vecOf t n) vsrcOf .vshuf) := rfl
theorem arm_99 (e : Engine) (w : Words) : dec100 e 0x99 w = (do
    zeroF 3 (w.tb * 64 + w.b)
    let a ← accept 2 (srcOf e w.ta w.a)
    .ok (.vbcast (vtyOf (w.d / 16)) (Fin.ofNat 16 w.d) a (predOf w.mod))) := rfl
theorem arm_9A (e : Engine) (w : Words) : dec100 e 0x9A w = (decV e w (vtyOf (w.d / 16)).isInt srcOf srcOf .vidx) := rfl
theorem arm_A1 (e : Engine) (w : Words) : dec101 e 0xA1 w = (
    if w.mod = 1 then do
      zeroF 2 (w.ta * 64 + w.a)
      zeroF 3 (w.tb * 64 + w.b)
      zeroF 6 w.w1
      listed 1 (w.d < 32)
      .ok (.qsetClr (Fin.ofNat 32 w.d))
    else do
      zeroF 3 (w.tb * 64 + w.b)
      zeroF 6 (ownZero w)
      listed 1 (w.d < 32)
      listed 5 (w.mod = 0)
      listed 6 (fld w.w1 19 16 < 9 && fld w.w1 10 0 ≠ 0)
      let a ← accept 2 (rcOf e w.ta w.a)
      .ok (.qset (Fin.ofNat 32 w.d) a (Fin.ofNat 9 (fld w.w1 19 16)) (BitVec.ofNat 11 (fld w.w1 10 0)))) := rfl
theorem arm_A2 (e : Engine) (w : Words) : dec101 e 0xA2 w = (do
    listed 5 (w.mod = 0)
    dec3 e w (fun _ t n => nameOf 32 t n) srcOf fun d q n => .qwait d (Fin.ofNat 32 q) n) := rfl
theorem arm_A3 (e : Engine) (w : Words) : dec101 e 0xA3 w = (do
    listed 5 (w.mod = 0)
    dec3 e w (fun _ t n => nameOf 32 t n) srcOf fun d q n => .qresv d (Fin.ofNat 32 q) n) := rfl
theorem arm_A4 (e : Engine) (w : Words) : dec101 e 0xA4 w = (do
    zeroF 1 w.d
    listed 5 (w.mod < 2)
    decAB e w (fun _ t n => nameOf 32 t n) srcOf fun q n =>
      (if w.mod = 0 then Instr.qadvP else Instr.qadvC) (Fin.ofNat 32 q) n) := rfl
theorem arm_A5 (e : Engine) (w : Words) : dec101 e 0xA5 w = (do
    zeroF 3 (w.tb * 64 + w.b)
    listed 5 (w.mod = 0)
    dec2 e w (fun _ t n => nameOf 32 t n) fun d q => .qhead d (Fin.ofNat 32 q)) := rfl
theorem arm_A6 (e : Engine) (w : Words) : dec101 e 0xA6 w = (do
    zeroF 2 (w.ta * 64 + w.a)
    zeroF 3 (w.tb * 64 + w.b)
    listed 5 (w.mod < 2)
    let d ← accept 1 (regOf e w.d)
    .ok (.bclaim d (w.mod = 1))) := rfl
theorem arm_A7 (e : Engine) (w : Words) : dec101 e 0xA7 w = (do
    zeroF 1 w.d
    zeroF 3 (w.tb * 64 + w.b)
    listed 5 (w.mod = 0)
    let a ← accept 2 (rcOf e w.ta w.a)
    .ok (.bfree a)) := rfl
theorem arm_A8 (e : Engine) (w : Words) : dec101 e 0xA8 w = (
    if w.mod = 0 then do
      zeroF 1 w.d
      decAB e w rcOf srcOf .bfmt
    else if w.mod = 1 then do
      zeroF 1 w.d
      decAB e w srcOf srcOf .bfmtTab
    else if w.mod = 2 then do
      zeroF 3 (w.tb * 64 + w.b)
      dec2 e w rcOf .bfmtRd
    else do
      zeroF 1 w.d
      .error (.illegal 5)) := rfl
theorem arm_A9 (e : Engine) (w : Words) : dec101 e 0xA9 w = (
    if w.mod = 1 then do
      zeroF 1 w.d
      zeroF 3 (w.tb * 64 + w.b)
      let a ← accept 2 (rcOf e w.ta w.a)
      .ok (.bpairClr a)
    else do
      listed 5 (w.mod = 0)
      dec3 e w rcOf rcOf .bpair) := rfl
theorem arm_AA (e : Engine) (w : Words) : dec101 e 0xAA w = (do
    zeroF 2 (w.ta * 64 + w.a)
    zeroF 3 (w.tb * 64 + w.b)
    listed 5 (w.mod = 0)
    let d ← accept 1 (regOf e w.d)
    .ok (.sbq d)) := rfl
theorem arm_AB (e : Engine) (w : Words) : dec101 e 0xAB w = (do
    zeroF 1 w.d
    listed 5 (w.mod < 2)
    decAB e w rcOf srcOf (if w.mod = 0 then .sbwait else .sbwaitR)) := rfl
theorem arm_AC (e : Engine) (w : Words) : dec101 e 0xAC w = (
    if w.mod = 1 then dec3 e w rcOf srcOf .barrArm
    else do
      zeroF 1 w.d
      zeroF 3 (w.tb * 64 + w.b)
      listed 5 (w.mod ≠ 3)
      let a ← accept 2 (rcOf e w.ta w.a)
      .ok (if w.mod = 0 then .barr a else .barrDis a)) := rfl
theorem arm_AD (e : Engine) (w : Words) : dec101 e 0xAD w = (do
    listed 5 (w.mod < 2)
    dec3 e w rcOf srcOf (if w.mod = 0 then .bwait else .bwaitG)) := rfl
theorem arm_AE (e : Engine) (w : Words) : dec101 e 0xAE w = (do
    listed 5 (w.mod = 0)
    dec3 e w rcOf srcOf .bstat) := rfl
theorem arm_C1 (e : Engine) (w : Words) : dec110 e 0xC1 w = (do
    listed 5 (w.mod = 0)
    dec3 e w (fun _ t n => nameOf 16 t n) srcOf fun d q n => .eclaim d (Fin.ofNat 16 q) n) := rfl
theorem arm_C2 (e : Engine) (w : Words) : dec110 e 0xC2 w = (do
    listed 5 (w.mod = 0)
    dec3 e w (fun _ t n => nameOf 16 t n) srcOf fun d q n => .ecap d (Fin.ofNat 16 q) n) := rfl
theorem arm_C3 (e : Engine) (w : Words) : dec110 e 0xC3 w = (
    if w.mod = 1 then do
      zeroF 1 w.d
      zeroF 3 (w.tb * 64 + w.b)
      let q ← accept 2 (nameOf 16 w.ta w.a)
      .ok (.eclrFree (Fin.ofNat 16 q))
    else do
      listed 5 (w.mod = 0)
      dec3 e w (fun _ t n => nameOf 16 t n) srcOf fun d q n => .eclr d (Fin.ofNat 16 q) n) := rfl
theorem arm_C4 (e : Engine) (w : Words) : dec110 e 0xC4 w = (decEA e w .eins) := rfl
theorem arm_C5 (e : Engine) (w : Words) : dec110 e 0xC5 w = (decE3 w .emax) := rfl
theorem arm_C6 (e : Engine) (w : Words) : dec110 e 0xC6 w = (decE3 w .esum) := rfl
theorem arm_C7 (e : Engine) (w : Words) : dec110 e 0xC7 w = (decE3 w .einf) := rfl
theorem arm_C8 (e : Engine) (w : Words) : dec110 e 0xC8 w = (do
    zeroF 3 (w.tb * 64 + w.b)
    listed 5 (w.mod = 0)
    let d ← accept 1 (handleD w)
    let x ← accept 2 (nameOf 16 w.ta w.a)
    .ok (.eleg d (Fin.ofNat 16 x))) := rfl
theorem arm_C9 (e : Engine) (w : Words) : dec110 e 0xC9 w = (decEA e w .eeval) := rfl
theorem arm_CA (e : Engine) (w : Words) : dec110 e 0xCA w = (decEA e w .eread) := rfl
theorem arm_CB (e : Engine) (w : Words) : dec110 e 0xCB w = (do
    zeroF 3 (w.tb * 64 + w.b)
    listed 5 (w.mod = 0)
    dec2 e w (fun _ t n => nameOf 16 t n) fun d q => .ecnt d (Fin.ofNat 16 q)) := rfl
theorem arm_D0 (e : Engine) (w : Words) : dec110 e 0xD0 w = (do
    listed 5 (w.mod = 0)
    dec3 e w rcOf srcOf .vexp2) := rfl
theorem arm_D1 (e : Engine) (w : Words) : dec110 e 0xD1 w = (do
    listed 5 (w.mod = 0)
    dec3 e w rcOf srcOf .vlog2) := rfl
theorem arm_D2 (e : Engine) (w : Words) : dec110 e 0xD2 w = (do
    listed 5 (w.mod = 0)
    dec3 e w rcOf srcOf .vrcp) := rfl
theorem arm_D3 (e : Engine) (w : Words) : dec110 e 0xD3 w = (do
    listed 5 (w.mod = 0)
    dec3 e w rcOf srcOf .vrsq) := rfl
theorem arm_D4 (e : Engine) (w : Words) : dec110 e 0xD4 w = (do
    listed 5 (w.mod = 0)
    dec3 e w rcOf srcOf .vtanh) := rfl
theorem arm_E1 (e : Engine) (w : Words) : dec111 e 0xE1 w = (do
    listed 5 (w.mod ≠ 3)
    dec3 e w rcOf srcOf (.send (if w.mod = 0 then .req else if w.mod = 1 then .rep else .sys))) := rfl
theorem arm_E2 (e : Engine) (w : Words) : dec111 e 0xE2 w = (do
    listed 5 (w.mod < 2)
    dec3 e w rcOf srcOf (.sendi (w.mod = 1))) := rfl
theorem arm_E3 (e : Engine) (w : Words) : dec111 e 0xE3 w = (decS0 w .hret) := rfl
theorem arm_E4 (e : Engine) (w : Words) : dec111 e 0xE4 w = (decRA e w .aaddRemote) := rfl
theorem arm_E5 (e : Engine) (w : Words) : dec111 e 0xE5 w = (do
    zeroF 5 (w.mod / 2)
    zeroF 6 (fld w.w1 23 0)
    let d ← accept 1 (regOf e w.d)
    let a ← accept 2 (rcOf e w.ta w.a)
    let b ← accept 3 (srcOf e w.tb w.b)
    let n ← accept 6 (opndExt e w)
    .ok (.acasRemote (w.mod = 1) d a b n)) := rfl
theorem arm_E6 (e : Engine) (w : Words) : dec111 e 0xE6 w = (decRA e w .axchRemote) := rfl
theorem arm_E7 (e : Engine) (w : Words) : dec111 e 0xE7 w = (dec3 e w rcOf srcOf (.aminRemote (w.mod % 2 = 1) (w.mod / 2 = 1))) := rfl
theorem arm_E8 (e : Engine) (w : Words) : dec111 e 0xE8 w = (dec3 e w rcOf srcOf (.amaxRemote (w.mod % 2 = 1) (w.mod / 2 = 1))) := rfl
theorem arm_E9 (e : Engine) (w : Words) : dec111 e 0xE9 w = (decRA e w .aandRemote) := rfl
theorem arm_EA (e : Engine) (w : Words) : dec111 e 0xEA w = (decRA e w .aorRemote) := rfl
theorem arm_EB (e : Engine) (w : Words) : dec111 e 0xEB w = (do
    listed 5 (w.mod = 0)
    dec3 e w rcOf rcOf .tbind) := rfl
theorem arm_EC (e : Engine) (w : Words) : dec111 e 0xEC w = (do
    zeroF 1 w.d
    zeroF 3 (w.tb * 64 + w.b)
    listed 5 (w.mod = 0)
    let a ← accept 2 (rcOf e w.ta w.a)
    .ok (.tunbind a)) := rfl
theorem arm_ED (e : Engine) (w : Words) : dec111 e 0xED w = (do
    zeroF 5 w.z
    listed 5 (csrReads e w.csr)
    let d ← accept 1 (regOf e w.d)
    .ok (if w.csr = 0x107 then .launchRead d else if w.csr = 0x113 then .mvwait d else if w.csr = 0x114 then .hidx d
      else if w.csr = 0x115 then .hidxw d else .csrr d (BitVec.ofNat 12 w.csr))) := rfl
theorem arm_EE (e : Engine) (w : Words) : dec111 e 0xEE w = (do
    zeroF 5 w.z
    listed 5 (csrOn e w.csr)
    let d ← accept 1 (regOf e w.d)
    .ok (if w.csr = 0x0E0 then .binjArm d else if w.csr = 0x112 then .mvgo d else .csrw (BitVec.ofNat 12 w.csr) d)) := rfl
theorem arm_EF (e : Engine) (w : Words) : dec111 e 0xEF w = (do
    zeroF 5 w.csr
    zeroF 5 w.z
    let d ← accept 1 (regOf e w.d)
    .ok (.cyc d)) := rfl
theorem arm_F0 (e : Engine) (w : Words) : dec111 e 0xF0 w = (do
    listed 5 (w.imm < 3)
    dec2 e w srcOf (if w.imm = 0 then .syscBeat else if w.imm = 1 then .syscInfo else .syscFail)) := rfl
theorem arm_F1 (e : Engine) (w : Words) : dec111 e 0xF1 w = (do
    zeroF 3 (w.tb * 64 + w.b)
    listed 5 (w.mod = 0)
    dec2 e w rcOf .sopen) := rfl
theorem arm_F2 (e : Engine) (w : Words) : dec111 e 0xF2 w = (decStream e w .sput) := rfl
theorem arm_F3 (e : Engine) (w : Words) : dec111 e 0xF3 w = (decStream e w .sget) := rfl
theorem arm_F4 (e : Engine) (w : Words) : dec111 e 0xF4 w = (decStream e w .sclose) := rfl

end Sys2Proof.Laws
end

