-- ==== Sys2Proof/Laws/State.lean ====
section
/-! SUPPORT. One lemma per field and update of the state, all true by unfolding, and what the accessors read after each
update. -/

namespace Sys2Proof.Machine

variable (s : State)

/-! ### setCtx -/

@[simp] theorem setCtx_mem (c : Context) : (s.setCtx c).mem = s.mem := rfl
@[simp] theorem setCtx_ecc (c : Context) : (s.setCtx c).ecc = s.ecc := rfl
@[simp] theorem setCtx_cur (c : Context) : (s.setCtx c).cur = s.cur := rfl
@[simp] theorem setCtx_ctxs (c : Context) : (s.setCtx c).ctxs = s.ctxs.set s.cur.ctx c := rfl
@[simp] theorem setCtx_tasks (c : Context) : (s.setCtx c).tasks = s.tasks := rfl
@[simp] theorem setCtx_cores (c : Context) : (s.setCtx c).cores = s.cores := rfl
@[simp] theorem setCtx_masts (c : Context) : (s.setCtx c).masts = s.masts := rfl
@[simp] theorem setCtx_launches (c : Context) : (s.setCtx c).launches = s.launches := rfl
@[simp] theorem setCtx_roots (c : Context) : (s.setCtx c).roots = s.roots := rfl
@[simp] theorem setCtx_net (c : Context) : (s.setCtx c).net = s.net := rfl
@[simp] theorem setCtx_queues (c : Context) : (s.setCtx c).queues = s.queues := rfl
@[simp] theorem setCtx_parts (c : Context) : (s.setCtx c).parts = s.parts := rfl
@[simp] theorem setCtx_pages (c : Context) : (s.setCtx c).pages = s.pages := rfl
@[simp] theorem setCtx_cps (c : Context) : (s.setCtx c).cps = s.cps := rfl
@[simp] theorem setCtx_sec (c : Context) : (s.setCtx c).sec = s.sec := rfl
@[simp] theorem setCtx_tackles (c : Context) : (s.setCtx c).tackles = s.tackles := rfl
@[simp] theorem setCtx_streams (c : Context) : (s.setCtx c).streams = s.streams := rfl
@[simp] theorem setCtx_shrouds (c : Context) : (s.setCtx c).shrouds = s.shrouds := rfl
@[simp] theorem setCtx_links (c : Context) : (s.setCtx c).links = s.links := rfl
@[simp] theorem setCtx_plat (c : Context) : (s.setCtx c).plat = s.plat := rfl
@[simp] theorem setCtx_agenda (c : Context) : (s.setCtx c).agenda = s.agenda := rfl
@[simp] theorem setCtx_place (c : Context) : (s.setCtx c).place = s.place := rfl
@[simp] theorem setCtx_nextCtx (c : Context) : (s.setCtx c).nextCtx = s.nextCtx := rfl
@[simp] theorem setCtx_nextPkt (c : Context) : (s.setCtx c).nextPkt = s.nextPkt := rfl
@[simp] theorem setCtx_nextId (c : Context) : (s.setCtx c).nextId = s.nextId := rfl
@[simp] theorem setCtx_freeCtr (c : Context) : (s.setCtx c).freeCtr = s.freeCtr := rfl

/-! ### setTask -/

@[simp] theorem setTask_mem (t : Task) : (s.setTask t).mem = s.mem := rfl
@[simp] theorem setTask_ecc (t : Task) : (s.setTask t).ecc = s.ecc := rfl
@[simp] theorem setTask_cur (t : Task) : (s.setTask t).cur = s.cur := rfl
@[simp] theorem setTask_ctxs (t : Task) : (s.setTask t).ctxs = s.ctxs := rfl
@[simp] theorem setTask_tasks (t : Task) : (s.setTask t).tasks = s.tasks.set s.cur.task t := rfl
@[simp] theorem setTask_cores (t : Task) : (s.setTask t).cores = s.cores := rfl
@[simp] theorem setTask_masts (t : Task) : (s.setTask t).masts = s.masts := rfl
@[simp] theorem setTask_launches (t : Task) : (s.setTask t).launches = s.launches := rfl
@[simp] theorem setTask_roots (t : Task) : (s.setTask t).roots = s.roots := rfl
@[simp] theorem setTask_net (t : Task) : (s.setTask t).net = s.net := rfl
@[simp] theorem setTask_queues (t : Task) : (s.setTask t).queues = s.queues := rfl
@[simp] theorem setTask_parts (t : Task) : (s.setTask t).parts = s.parts := rfl
@[simp] theorem setTask_pages (t : Task) : (s.setTask t).pages = s.pages := rfl
@[simp] theorem setTask_cps (t : Task) : (s.setTask t).cps = s.cps := rfl
@[simp] theorem setTask_sec (t : Task) : (s.setTask t).sec = s.sec := rfl
@[simp] theorem setTask_tackles (t : Task) : (s.setTask t).tackles = s.tackles := rfl
@[simp] theorem setTask_streams (t : Task) : (s.setTask t).streams = s.streams := rfl
@[simp] theorem setTask_shrouds (t : Task) : (s.setTask t).shrouds = s.shrouds := rfl
@[simp] theorem setTask_links (t : Task) : (s.setTask t).links = s.links := rfl
@[simp] theorem setTask_plat (t : Task) : (s.setTask t).plat = s.plat := rfl
@[simp] theorem setTask_agenda (t : Task) : (s.setTask t).agenda = s.agenda := rfl
@[simp] theorem setTask_place (t : Task) : (s.setTask t).place = s.place := rfl
@[simp] theorem setTask_nextCtx (t : Task) : (s.setTask t).nextCtx = s.nextCtx := rfl
@[simp] theorem setTask_nextPkt (t : Task) : (s.setTask t).nextPkt = s.nextPkt := rfl
@[simp] theorem setTask_nextId (t : Task) : (s.setTask t).nextId = s.nextId := rfl
@[simp] theorem setTask_freeCtr (t : Task) : (s.setTask t).freeCtr = s.freeCtr := rfl

/-! ### setCore -/

@[simp] theorem setCore_mem (c : Core) : (s.setCore c).mem = s.mem := rfl
@[simp] theorem setCore_ecc (c : Core) : (s.setCore c).ecc = s.ecc := rfl
@[simp] theorem setCore_cur (c : Core) : (s.setCore c).cur = s.cur := rfl
@[simp] theorem setCore_ctxs (c : Core) : (s.setCore c).ctxs = s.ctxs := rfl
@[simp] theorem setCore_tasks (c : Core) : (s.setCore c).tasks = s.tasks := rfl
@[simp] theorem setCore_cores (c : Core) : (s.setCore c).cores = s.cores.set s.cur.core c := rfl
@[simp] theorem setCore_masts (c : Core) : (s.setCore c).masts = s.masts := rfl
@[simp] theorem setCore_launches (c : Core) : (s.setCore c).launches = s.launches := rfl
@[simp] theorem setCore_roots (c : Core) : (s.setCore c).roots = s.roots := rfl
@[simp] theorem setCore_net (c : Core) : (s.setCore c).net = s.net := rfl
@[simp] theorem setCore_queues (c : Core) : (s.setCore c).queues = s.queues := rfl
@[simp] theorem setCore_parts (c : Core) : (s.setCore c).parts = s.parts := rfl
@[simp] theorem setCore_pages (c : Core) : (s.setCore c).pages = s.pages := rfl
@[simp] theorem setCore_cps (c : Core) : (s.setCore c).cps = s.cps := rfl
@[simp] theorem setCore_sec (c : Core) : (s.setCore c).sec = s.sec := rfl
@[simp] theorem setCore_tackles (c : Core) : (s.setCore c).tackles = s.tackles := rfl
@[simp] theorem setCore_streams (c : Core) : (s.setCore c).streams = s.streams := rfl
@[simp] theorem setCore_shrouds (c : Core) : (s.setCore c).shrouds = s.shrouds := rfl
@[simp] theorem setCore_links (c : Core) : (s.setCore c).links = s.links := rfl
@[simp] theorem setCore_plat (c : Core) : (s.setCore c).plat = s.plat := rfl
@[simp] theorem setCore_agenda (c : Core) : (s.setCore c).agenda = s.agenda := rfl
@[simp] theorem setCore_place (c : Core) : (s.setCore c).place = s.place := rfl
@[simp] theorem setCore_nextCtx (c : Core) : (s.setCore c).nextCtx = s.nextCtx := rfl
@[simp] theorem setCore_nextPkt (c : Core) : (s.setCore c).nextPkt = s.nextPkt := rfl
@[simp] theorem setCore_nextId (c : Core) : (s.setCore c).nextId = s.nextId := rfl
@[simp] theorem setCore_freeCtr (c : Core) : (s.setCore c).freeCtr = s.freeCtr := rfl

/-! ### setMast -/

@[simp] theorem setMast_mem (m : Mast) : (s.setMast m).mem = s.mem := rfl
@[simp] theorem setMast_ecc (m : Mast) : (s.setMast m).ecc = s.ecc := rfl
@[simp] theorem setMast_cur (m : Mast) : (s.setMast m).cur = s.cur := rfl
@[simp] theorem setMast_ctxs (m : Mast) : (s.setMast m).ctxs = s.ctxs := rfl
@[simp] theorem setMast_tasks (m : Mast) : (s.setMast m).tasks = s.tasks := rfl
@[simp] theorem setMast_cores (m : Mast) : (s.setMast m).cores = s.cores := rfl
@[simp] theorem setMast_masts (m : Mast) : (s.setMast m).masts = s.masts.set (mastOf s.cur.core) m := rfl
@[simp] theorem setMast_launches (m : Mast) : (s.setMast m).launches = s.launches := rfl
@[simp] theorem setMast_roots (m : Mast) : (s.setMast m).roots = s.roots := rfl
@[simp] theorem setMast_net (m : Mast) : (s.setMast m).net = s.net := rfl
@[simp] theorem setMast_queues (m : Mast) : (s.setMast m).queues = s.queues := rfl
@[simp] theorem setMast_parts (m : Mast) : (s.setMast m).parts = s.parts := rfl
@[simp] theorem setMast_pages (m : Mast) : (s.setMast m).pages = s.pages := rfl
@[simp] theorem setMast_cps (m : Mast) : (s.setMast m).cps = s.cps := rfl
@[simp] theorem setMast_sec (m : Mast) : (s.setMast m).sec = s.sec := rfl
@[simp] theorem setMast_tackles (m : Mast) : (s.setMast m).tackles = s.tackles := rfl
@[simp] theorem setMast_streams (m : Mast) : (s.setMast m).streams = s.streams := rfl
@[simp] theorem setMast_shrouds (m : Mast) : (s.setMast m).shrouds = s.shrouds := rfl
@[simp] theorem setMast_links (m : Mast) : (s.setMast m).links = s.links := rfl
@[simp] theorem setMast_plat (m : Mast) : (s.setMast m).plat = s.plat := rfl
@[simp] theorem setMast_agenda (m : Mast) : (s.setMast m).agenda = s.agenda := rfl
@[simp] theorem setMast_place (m : Mast) : (s.setMast m).place = s.place := rfl
@[simp] theorem setMast_nextCtx (m : Mast) : (s.setMast m).nextCtx = s.nextCtx := rfl
@[simp] theorem setMast_nextPkt (m : Mast) : (s.setMast m).nextPkt = s.nextPkt := rfl
@[simp] theorem setMast_nextId (m : Mast) : (s.setMast m).nextId = s.nextId := rfl
@[simp] theorem setMast_freeCtr (m : Mast) : (s.setMast m).freeCtr = s.freeCtr := rfl

/-! ### setLaunch -/

@[simp] theorem setLaunch_mem (l : Launch) : (s.setLaunch l).mem = s.mem := rfl
@[simp] theorem setLaunch_ecc (l : Launch) : (s.setLaunch l).ecc = s.ecc := rfl
@[simp] theorem setLaunch_cur (l : Launch) : (s.setLaunch l).cur = s.cur := rfl
@[simp] theorem setLaunch_ctxs (l : Launch) : (s.setLaunch l).ctxs = s.ctxs := rfl
@[simp] theorem setLaunch_tasks (l : Launch) : (s.setLaunch l).tasks = s.tasks := rfl
@[simp] theorem setLaunch_cores (l : Launch) : (s.setLaunch l).cores = s.cores := rfl
@[simp] theorem setLaunch_masts (l : Launch) : (s.setLaunch l).masts = s.masts := rfl
@[simp] theorem setLaunch_launches (l : Launch) : (s.setLaunch l).launches = s.launches.set s.cur.launch l := rfl
@[simp] theorem setLaunch_roots (l : Launch) : (s.setLaunch l).roots = s.roots := rfl
@[simp] theorem setLaunch_net (l : Launch) : (s.setLaunch l).net = s.net := rfl
@[simp] theorem setLaunch_queues (l : Launch) : (s.setLaunch l).queues = s.queues := rfl
@[simp] theorem setLaunch_parts (l : Launch) : (s.setLaunch l).parts = s.parts := rfl
@[simp] theorem setLaunch_pages (l : Launch) : (s.setLaunch l).pages = s.pages := rfl
@[simp] theorem setLaunch_cps (l : Launch) : (s.setLaunch l).cps = s.cps := rfl
@[simp] theorem setLaunch_sec (l : Launch) : (s.setLaunch l).sec = s.sec := rfl
@[simp] theorem setLaunch_tackles (l : Launch) : (s.setLaunch l).tackles = s.tackles := rfl
@[simp] theorem setLaunch_streams (l : Launch) : (s.setLaunch l).streams = s.streams := rfl
@[simp] theorem setLaunch_shrouds (l : Launch) : (s.setLaunch l).shrouds = s.shrouds := rfl
@[simp] theorem setLaunch_links (l : Launch) : (s.setLaunch l).links = s.links := rfl
@[simp] theorem setLaunch_plat (l : Launch) : (s.setLaunch l).plat = s.plat := rfl
@[simp] theorem setLaunch_agenda (l : Launch) : (s.setLaunch l).agenda = s.agenda := rfl
@[simp] theorem setLaunch_place (l : Launch) : (s.setLaunch l).place = s.place := rfl
@[simp] theorem setLaunch_nextCtx (l : Launch) : (s.setLaunch l).nextCtx = s.nextCtx := rfl
@[simp] theorem setLaunch_nextPkt (l : Launch) : (s.setLaunch l).nextPkt = s.nextPkt := rfl
@[simp] theorem setLaunch_nextId (l : Launch) : (s.setLaunch l).nextId = s.nextId := rfl
@[simp] theorem setLaunch_freeCtr (l : Launch) : (s.setLaunch l).freeCtr = s.freeCtr := rfl

/-! ### putCtx -/

@[simp] theorem putCtx_mem (k : Nat) (c : Context) : (s.putCtx k c).mem = s.mem := rfl
@[simp] theorem putCtx_ecc (k : Nat) (c : Context) : (s.putCtx k c).ecc = s.ecc := rfl
@[simp] theorem putCtx_cur (k : Nat) (c : Context) : (s.putCtx k c).cur = s.cur := rfl
@[simp] theorem putCtx_ctxs (k : Nat) (c : Context) : (s.putCtx k c).ctxs = s.ctxs.set k c := rfl
@[simp] theorem putCtx_tasks (k : Nat) (c : Context) : (s.putCtx k c).tasks = s.tasks := rfl
@[simp] theorem putCtx_cores (k : Nat) (c : Context) : (s.putCtx k c).cores = s.cores := rfl
@[simp] theorem putCtx_masts (k : Nat) (c : Context) : (s.putCtx k c).masts = s.masts := rfl
@[simp] theorem putCtx_launches (k : Nat) (c : Context) : (s.putCtx k c).launches = s.launches := rfl
@[simp] theorem putCtx_roots (k : Nat) (c : Context) : (s.putCtx k c).roots = s.roots := rfl
@[simp] theorem putCtx_net (k : Nat) (c : Context) : (s.putCtx k c).net = s.net := rfl
@[simp] theorem putCtx_queues (k : Nat) (c : Context) : (s.putCtx k c).queues = s.queues := rfl
@[simp] theorem putCtx_parts (k : Nat) (c : Context) : (s.putCtx k c).parts = s.parts := rfl
@[simp] theorem putCtx_pages (k : Nat) (c : Context) : (s.putCtx k c).pages = s.pages := rfl
@[simp] theorem putCtx_cps (k : Nat) (c : Context) : (s.putCtx k c).cps = s.cps := rfl
@[simp] theorem putCtx_sec (k : Nat) (c : Context) : (s.putCtx k c).sec = s.sec := rfl
@[simp] theorem putCtx_tackles (k : Nat) (c : Context) : (s.putCtx k c).tackles = s.tackles := rfl
@[simp] theorem putCtx_streams (k : Nat) (c : Context) : (s.putCtx k c).streams = s.streams := rfl
@[simp] theorem putCtx_shrouds (k : Nat) (c : Context) : (s.putCtx k c).shrouds = s.shrouds := rfl
@[simp] theorem putCtx_links (k : Nat) (c : Context) : (s.putCtx k c).links = s.links := rfl
@[simp] theorem putCtx_plat (k : Nat) (c : Context) : (s.putCtx k c).plat = s.plat := rfl
@[simp] theorem putCtx_agenda (k : Nat) (c : Context) : (s.putCtx k c).agenda = s.agenda := rfl
@[simp] theorem putCtx_place (k : Nat) (c : Context) : (s.putCtx k c).place = s.place := rfl
@[simp] theorem putCtx_nextCtx (k : Nat) (c : Context) : (s.putCtx k c).nextCtx = s.nextCtx := rfl
@[simp] theorem putCtx_nextPkt (k : Nat) (c : Context) : (s.putCtx k c).nextPkt = s.nextPkt := rfl
@[simp] theorem putCtx_nextId (k : Nat) (c : Context) : (s.putCtx k c).nextId = s.nextId := rfl
@[simp] theorem putCtx_freeCtr (k : Nat) (c : Context) : (s.putCtx k c).freeCtr = s.freeCtr := rfl

/-! ### putTask -/

@[simp] theorem putTask_mem (k : Nat) (t : Task) : (s.putTask k t).mem = s.mem := rfl
@[simp] theorem putTask_ecc (k : Nat) (t : Task) : (s.putTask k t).ecc = s.ecc := rfl
@[simp] theorem putTask_cur (k : Nat) (t : Task) : (s.putTask k t).cur = s.cur := rfl
@[simp] theorem putTask_ctxs (k : Nat) (t : Task) : (s.putTask k t).ctxs = s.ctxs := rfl
@[simp] theorem putTask_tasks (k : Nat) (t : Task) : (s.putTask k t).tasks = s.tasks.set k t := rfl
@[simp] theorem putTask_cores (k : Nat) (t : Task) : (s.putTask k t).cores = s.cores := rfl
@[simp] theorem putTask_masts (k : Nat) (t : Task) : (s.putTask k t).masts = s.masts := rfl
@[simp] theorem putTask_launches (k : Nat) (t : Task) : (s.putTask k t).launches = s.launches := rfl
@[simp] theorem putTask_roots (k : Nat) (t : Task) : (s.putTask k t).roots = s.roots := rfl
@[simp] theorem putTask_net (k : Nat) (t : Task) : (s.putTask k t).net = s.net := rfl
@[simp] theorem putTask_queues (k : Nat) (t : Task) : (s.putTask k t).queues = s.queues := rfl
@[simp] theorem putTask_parts (k : Nat) (t : Task) : (s.putTask k t).parts = s.parts := rfl
@[simp] theorem putTask_pages (k : Nat) (t : Task) : (s.putTask k t).pages = s.pages := rfl
@[simp] theorem putTask_cps (k : Nat) (t : Task) : (s.putTask k t).cps = s.cps := rfl
@[simp] theorem putTask_sec (k : Nat) (t : Task) : (s.putTask k t).sec = s.sec := rfl
@[simp] theorem putTask_tackles (k : Nat) (t : Task) : (s.putTask k t).tackles = s.tackles := rfl
@[simp] theorem putTask_streams (k : Nat) (t : Task) : (s.putTask k t).streams = s.streams := rfl
@[simp] theorem putTask_shrouds (k : Nat) (t : Task) : (s.putTask k t).shrouds = s.shrouds := rfl
@[simp] theorem putTask_links (k : Nat) (t : Task) : (s.putTask k t).links = s.links := rfl
@[simp] theorem putTask_plat (k : Nat) (t : Task) : (s.putTask k t).plat = s.plat := rfl
@[simp] theorem putTask_agenda (k : Nat) (t : Task) : (s.putTask k t).agenda = s.agenda := rfl
@[simp] theorem putTask_place (k : Nat) (t : Task) : (s.putTask k t).place = s.place := rfl
@[simp] theorem putTask_nextCtx (k : Nat) (t : Task) : (s.putTask k t).nextCtx = s.nextCtx := rfl
@[simp] theorem putTask_nextPkt (k : Nat) (t : Task) : (s.putTask k t).nextPkt = s.nextPkt := rfl
@[simp] theorem putTask_nextId (k : Nat) (t : Task) : (s.putTask k t).nextId = s.nextId := rfl
@[simp] theorem putTask_freeCtr (k : Nat) (t : Task) : (s.putTask k t).freeCtr = s.freeCtr := rfl

/-! ### putCore -/

@[simp] theorem putCore_mem (k : Nat) (c : Core) : (s.putCore k c).mem = s.mem := rfl
@[simp] theorem putCore_ecc (k : Nat) (c : Core) : (s.putCore k c).ecc = s.ecc := rfl
@[simp] theorem putCore_cur (k : Nat) (c : Core) : (s.putCore k c).cur = s.cur := rfl
@[simp] theorem putCore_ctxs (k : Nat) (c : Core) : (s.putCore k c).ctxs = s.ctxs := rfl
@[simp] theorem putCore_tasks (k : Nat) (c : Core) : (s.putCore k c).tasks = s.tasks := rfl
@[simp] theorem putCore_cores (k : Nat) (c : Core) : (s.putCore k c).cores = s.cores.set k c := rfl
@[simp] theorem putCore_masts (k : Nat) (c : Core) : (s.putCore k c).masts = s.masts := rfl
@[simp] theorem putCore_launches (k : Nat) (c : Core) : (s.putCore k c).launches = s.launches := rfl
@[simp] theorem putCore_roots (k : Nat) (c : Core) : (s.putCore k c).roots = s.roots := rfl
@[simp] theorem putCore_net (k : Nat) (c : Core) : (s.putCore k c).net = s.net := rfl
@[simp] theorem putCore_queues (k : Nat) (c : Core) : (s.putCore k c).queues = s.queues := rfl
@[simp] theorem putCore_parts (k : Nat) (c : Core) : (s.putCore k c).parts = s.parts := rfl
@[simp] theorem putCore_pages (k : Nat) (c : Core) : (s.putCore k c).pages = s.pages := rfl
@[simp] theorem putCore_cps (k : Nat) (c : Core) : (s.putCore k c).cps = s.cps := rfl
@[simp] theorem putCore_sec (k : Nat) (c : Core) : (s.putCore k c).sec = s.sec := rfl
@[simp] theorem putCore_tackles (k : Nat) (c : Core) : (s.putCore k c).tackles = s.tackles := rfl
@[simp] theorem putCore_streams (k : Nat) (c : Core) : (s.putCore k c).streams = s.streams := rfl
@[simp] theorem putCore_shrouds (k : Nat) (c : Core) : (s.putCore k c).shrouds = s.shrouds := rfl
@[simp] theorem putCore_links (k : Nat) (c : Core) : (s.putCore k c).links = s.links := rfl
@[simp] theorem putCore_plat (k : Nat) (c : Core) : (s.putCore k c).plat = s.plat := rfl
@[simp] theorem putCore_agenda (k : Nat) (c : Core) : (s.putCore k c).agenda = s.agenda := rfl
@[simp] theorem putCore_place (k : Nat) (c : Core) : (s.putCore k c).place = s.place := rfl
@[simp] theorem putCore_nextCtx (k : Nat) (c : Core) : (s.putCore k c).nextCtx = s.nextCtx := rfl
@[simp] theorem putCore_nextPkt (k : Nat) (c : Core) : (s.putCore k c).nextPkt = s.nextPkt := rfl
@[simp] theorem putCore_nextId (k : Nat) (c : Core) : (s.putCore k c).nextId = s.nextId := rfl
@[simp] theorem putCore_freeCtr (k : Nat) (c : Core) : (s.putCore k c).freeCtr = s.freeCtr := rfl

/-! ### putMast -/

@[simp] theorem putMast_mem (k : Nat) (m : Mast) : (s.putMast k m).mem = s.mem := rfl
@[simp] theorem putMast_ecc (k : Nat) (m : Mast) : (s.putMast k m).ecc = s.ecc := rfl
@[simp] theorem putMast_cur (k : Nat) (m : Mast) : (s.putMast k m).cur = s.cur := rfl
@[simp] theorem putMast_ctxs (k : Nat) (m : Mast) : (s.putMast k m).ctxs = s.ctxs := rfl
@[simp] theorem putMast_tasks (k : Nat) (m : Mast) : (s.putMast k m).tasks = s.tasks := rfl
@[simp] theorem putMast_cores (k : Nat) (m : Mast) : (s.putMast k m).cores = s.cores := rfl
@[simp] theorem putMast_masts (k : Nat) (m : Mast) : (s.putMast k m).masts = s.masts.set k m := rfl
@[simp] theorem putMast_launches (k : Nat) (m : Mast) : (s.putMast k m).launches = s.launches := rfl
@[simp] theorem putMast_roots (k : Nat) (m : Mast) : (s.putMast k m).roots = s.roots := rfl
@[simp] theorem putMast_net (k : Nat) (m : Mast) : (s.putMast k m).net = s.net := rfl
@[simp] theorem putMast_queues (k : Nat) (m : Mast) : (s.putMast k m).queues = s.queues := rfl
@[simp] theorem putMast_parts (k : Nat) (m : Mast) : (s.putMast k m).parts = s.parts := rfl
@[simp] theorem putMast_pages (k : Nat) (m : Mast) : (s.putMast k m).pages = s.pages := rfl
@[simp] theorem putMast_cps (k : Nat) (m : Mast) : (s.putMast k m).cps = s.cps := rfl
@[simp] theorem putMast_sec (k : Nat) (m : Mast) : (s.putMast k m).sec = s.sec := rfl
@[simp] theorem putMast_tackles (k : Nat) (m : Mast) : (s.putMast k m).tackles = s.tackles := rfl
@[simp] theorem putMast_streams (k : Nat) (m : Mast) : (s.putMast k m).streams = s.streams := rfl
@[simp] theorem putMast_shrouds (k : Nat) (m : Mast) : (s.putMast k m).shrouds = s.shrouds := rfl
@[simp] theorem putMast_links (k : Nat) (m : Mast) : (s.putMast k m).links = s.links := rfl
@[simp] theorem putMast_plat (k : Nat) (m : Mast) : (s.putMast k m).plat = s.plat := rfl
@[simp] theorem putMast_agenda (k : Nat) (m : Mast) : (s.putMast k m).agenda = s.agenda := rfl
@[simp] theorem putMast_place (k : Nat) (m : Mast) : (s.putMast k m).place = s.place := rfl
@[simp] theorem putMast_nextCtx (k : Nat) (m : Mast) : (s.putMast k m).nextCtx = s.nextCtx := rfl
@[simp] theorem putMast_nextPkt (k : Nat) (m : Mast) : (s.putMast k m).nextPkt = s.nextPkt := rfl
@[simp] theorem putMast_nextId (k : Nat) (m : Mast) : (s.putMast k m).nextId = s.nextId := rfl
@[simp] theorem putMast_freeCtr (k : Nat) (m : Mast) : (s.putMast k m).freeCtr = s.freeCtr := rfl

/-! ### putLaunch -/

@[simp] theorem putLaunch_mem (k : Nat) (l : Launch) : (s.putLaunch k l).mem = s.mem := rfl
@[simp] theorem putLaunch_ecc (k : Nat) (l : Launch) : (s.putLaunch k l).ecc = s.ecc := rfl
@[simp] theorem putLaunch_cur (k : Nat) (l : Launch) : (s.putLaunch k l).cur = s.cur := rfl
@[simp] theorem putLaunch_ctxs (k : Nat) (l : Launch) : (s.putLaunch k l).ctxs = s.ctxs := rfl
@[simp] theorem putLaunch_tasks (k : Nat) (l : Launch) : (s.putLaunch k l).tasks = s.tasks := rfl
@[simp] theorem putLaunch_cores (k : Nat) (l : Launch) : (s.putLaunch k l).cores = s.cores := rfl
@[simp] theorem putLaunch_masts (k : Nat) (l : Launch) : (s.putLaunch k l).masts = s.masts := rfl
@[simp] theorem putLaunch_launches (k : Nat) (l : Launch) : (s.putLaunch k l).launches = s.launches.set k l := rfl
@[simp] theorem putLaunch_roots (k : Nat) (l : Launch) : (s.putLaunch k l).roots = s.roots := rfl
@[simp] theorem putLaunch_net (k : Nat) (l : Launch) : (s.putLaunch k l).net = s.net := rfl
@[simp] theorem putLaunch_queues (k : Nat) (l : Launch) : (s.putLaunch k l).queues = s.queues := rfl
@[simp] theorem putLaunch_parts (k : Nat) (l : Launch) : (s.putLaunch k l).parts = s.parts := rfl
@[simp] theorem putLaunch_pages (k : Nat) (l : Launch) : (s.putLaunch k l).pages = s.pages := rfl
@[simp] theorem putLaunch_cps (k : Nat) (l : Launch) : (s.putLaunch k l).cps = s.cps := rfl
@[simp] theorem putLaunch_sec (k : Nat) (l : Launch) : (s.putLaunch k l).sec = s.sec := rfl
@[simp] theorem putLaunch_tackles (k : Nat) (l : Launch) : (s.putLaunch k l).tackles = s.tackles := rfl
@[simp] theorem putLaunch_streams (k : Nat) (l : Launch) : (s.putLaunch k l).streams = s.streams := rfl
@[simp] theorem putLaunch_shrouds (k : Nat) (l : Launch) : (s.putLaunch k l).shrouds = s.shrouds := rfl
@[simp] theorem putLaunch_links (k : Nat) (l : Launch) : (s.putLaunch k l).links = s.links := rfl
@[simp] theorem putLaunch_plat (k : Nat) (l : Launch) : (s.putLaunch k l).plat = s.plat := rfl
@[simp] theorem putLaunch_agenda (k : Nat) (l : Launch) : (s.putLaunch k l).agenda = s.agenda := rfl
@[simp] theorem putLaunch_place (k : Nat) (l : Launch) : (s.putLaunch k l).place = s.place := rfl
@[simp] theorem putLaunch_nextCtx (k : Nat) (l : Launch) : (s.putLaunch k l).nextCtx = s.nextCtx := rfl
@[simp] theorem putLaunch_nextPkt (k : Nat) (l : Launch) : (s.putLaunch k l).nextPkt = s.nextPkt := rfl
@[simp] theorem putLaunch_nextId (k : Nat) (l : Launch) : (s.putLaunch k l).nextId = s.nextId := rfl
@[simp] theorem putLaunch_freeCtr (k : Nat) (l : Launch) : (s.putLaunch k l).freeCtr = s.freeCtr := rfl

/-! ### The accessors of the acting agent -/

@[simp] theorem setCtx_ctx (c : Context) : (s.setCtx c).ctx = c := by simp [State.setCtx, State.ctx]
@[simp] theorem setCtx_task (c : Context) : (s.setCtx c).task = s.task := rfl
@[simp] theorem setCtx_core (c : Context) : (s.setCtx c).core = s.core := rfl
@[simp] theorem setCtx_mast (c : Context) : (s.setCtx c).mast = s.mast := rfl
@[simp] theorem setCtx_launch (c : Context) : (s.setCtx c).launch = s.launch := rfl
@[simp] theorem setTask_ctx (t : Task) : (s.setTask t).ctx = s.ctx := rfl
@[simp] theorem setTask_task (t : Task) : (s.setTask t).task = t := by simp [State.setTask, State.task]
@[simp] theorem setTask_core (t : Task) : (s.setTask t).core = s.core := rfl
@[simp] theorem setTask_mast (t : Task) : (s.setTask t).mast = s.mast := rfl
@[simp] theorem setTask_launch (t : Task) : (s.setTask t).launch = s.launch := rfl
@[simp] theorem setCore_ctx (c : Core) : (s.setCore c).ctx = s.ctx := rfl
@[simp] theorem setCore_task (c : Core) : (s.setCore c).task = s.task := rfl
@[simp] theorem setCore_core (c : Core) : (s.setCore c).core = c := by simp [State.setCore, State.core]
@[simp] theorem setCore_mast (c : Core) : (s.setCore c).mast = s.mast := rfl
@[simp] theorem setCore_launch (c : Core) : (s.setCore c).launch = s.launch := rfl
@[simp] theorem setMast_ctx (m : Mast) : (s.setMast m).ctx = s.ctx := rfl
@[simp] theorem setMast_task (m : Mast) : (s.setMast m).task = s.task := rfl
@[simp] theorem setMast_core (m : Mast) : (s.setMast m).core = s.core := rfl
@[simp] theorem setMast_mast (m : Mast) : (s.setMast m).mast = m := by simp [State.setMast, State.mast]
@[simp] theorem setMast_launch (m : Mast) : (s.setMast m).launch = s.launch := rfl
@[simp] theorem setLaunch_ctx (l : Launch) : (s.setLaunch l).ctx = s.ctx := rfl
@[simp] theorem setLaunch_task (l : Launch) : (s.setLaunch l).task = s.task := rfl
@[simp] theorem setLaunch_core (l : Launch) : (s.setLaunch l).core = s.core := rfl
@[simp] theorem setLaunch_mast (l : Launch) : (s.setLaunch l).mast = s.mast := rfl
@[simp] theorem setLaunch_launch (l : Launch) : (s.setLaunch l).launch = l := by simp [State.setLaunch, State.launch]

/-! ### The accessors by number -/

@[simp] theorem putCtx_ctxAt_same (k : Nat) (c : Context) : (s.putCtx k c).ctxAt k = c := by simp [State.putCtx, State.ctxAt]
theorem putCtx_ctxAt_other (k : Nat) (c : Context) {j : Nat} (h : j ≠ k) : (s.putCtx k c).ctxAt j = s.ctxAt j := by
  simp [State.putCtx, State.ctxAt, AMap.get_set_other, h]
@[simp] theorem putCtx_taskAt (k : Nat) (c : Context) (j : Nat) : (s.putCtx k c).taskAt j = s.taskAt j := rfl
@[simp] theorem putCtx_coreAt (k : Nat) (c : Context) (j : Nat) : (s.putCtx k c).coreAt j = s.coreAt j := rfl
@[simp] theorem putCtx_mastAt (k : Nat) (c : Context) (j : Nat) : (s.putCtx k c).mastAt j = s.mastAt j := rfl
@[simp] theorem putCtx_launchAt (k : Nat) (c : Context) (j : Nat) : (s.putCtx k c).launchAt j = s.launchAt j := rfl
@[simp] theorem putTask_ctxAt (k : Nat) (t : Task) (j : Nat) : (s.putTask k t).ctxAt j = s.ctxAt j := rfl
@[simp] theorem putTask_taskAt_same (k : Nat) (t : Task) : (s.putTask k t).taskAt k = t := by simp [State.putTask, State.taskAt]
theorem putTask_taskAt_other (k : Nat) (t : Task) {j : Nat} (h : j ≠ k) : (s.putTask k t).taskAt j = s.taskAt j := by
  simp [State.putTask, State.taskAt, AMap.get_set_other, h]
@[simp] theorem putTask_coreAt (k : Nat) (t : Task) (j : Nat) : (s.putTask k t).coreAt j = s.coreAt j := rfl
@[simp] theorem putTask_mastAt (k : Nat) (t : Task) (j : Nat) : (s.putTask k t).mastAt j = s.mastAt j := rfl
@[simp] theorem putTask_launchAt (k : Nat) (t : Task) (j : Nat) : (s.putTask k t).launchAt j = s.launchAt j := rfl
@[simp] theorem putCore_ctxAt (k : Nat) (c : Core) (j : Nat) : (s.putCore k c).ctxAt j = s.ctxAt j := rfl
@[simp] theorem putCore_taskAt (k : Nat) (c : Core) (j : Nat) : (s.putCore k c).taskAt j = s.taskAt j := rfl
@[simp] theorem putCore_coreAt_same (k : Nat) (c : Core) : (s.putCore k c).coreAt k = c := by simp [State.putCore, State.coreAt]
theorem putCore_coreAt_other (k : Nat) (c : Core) {j : Nat} (h : j ≠ k) : (s.putCore k c).coreAt j = s.coreAt j := by
  simp [State.putCore, State.coreAt, AMap.get_set_other, h]
@[simp] theorem putCore_mastAt (k : Nat) (c : Core) (j : Nat) : (s.putCore k c).mastAt j = s.mastAt j := rfl
@[simp] theorem putCore_launchAt (k : Nat) (c : Core) (j : Nat) : (s.putCore k c).launchAt j = s.launchAt j := rfl
@[simp] theorem putMast_ctxAt (k : Nat) (m : Mast) (j : Nat) : (s.putMast k m).ctxAt j = s.ctxAt j := rfl
@[simp] theorem putMast_taskAt (k : Nat) (m : Mast) (j : Nat) : (s.putMast k m).taskAt j = s.taskAt j := rfl
@[simp] theorem putMast_coreAt (k : Nat) (m : Mast) (j : Nat) : (s.putMast k m).coreAt j = s.coreAt j := rfl
@[simp] theorem putMast_mastAt_same (k : Nat) (m : Mast) : (s.putMast k m).mastAt k = m := by simp [State.putMast, State.mastAt]
theorem putMast_mastAt_other (k : Nat) (m : Mast) {j : Nat} (h : j ≠ k) : (s.putMast k m).mastAt j = s.mastAt j := by
  simp [State.putMast, State.mastAt, AMap.get_set_other, h]
@[simp] theorem putMast_launchAt (k : Nat) (m : Mast) (j : Nat) : (s.putMast k m).launchAt j = s.launchAt j := rfl
@[simp] theorem putLaunch_ctxAt (k : Nat) (l : Launch) (j : Nat) : (s.putLaunch k l).ctxAt j = s.ctxAt j := rfl
@[simp] theorem putLaunch_taskAt (k : Nat) (l : Launch) (j : Nat) : (s.putLaunch k l).taskAt j = s.taskAt j := rfl
@[simp] theorem putLaunch_coreAt (k : Nat) (l : Launch) (j : Nat) : (s.putLaunch k l).coreAt j = s.coreAt j := rfl
@[simp] theorem putLaunch_mastAt (k : Nat) (l : Launch) (j : Nat) : (s.putLaunch k l).mastAt j = s.mastAt j := rfl
@[simp] theorem putLaunch_launchAt_same (k : Nat) (l : Launch) : (s.putLaunch k l).launchAt k = l := by simp [State.putLaunch, State.launchAt]
theorem putLaunch_launchAt_other (k : Nat) (l : Launch) {j : Nat} (h : j ≠ k) : (s.putLaunch k l).launchAt j = s.launchAt j := by
  simp [State.putLaunch, State.launchAt, AMap.get_set_other, h]
@[simp] theorem setCtx_taskAt (c : Context) (j : Nat) : (s.setCtx c).taskAt j = s.taskAt j := rfl
@[simp] theorem setCtx_coreAt (c : Context) (j : Nat) : (s.setCtx c).coreAt j = s.coreAt j := rfl
@[simp] theorem setCtx_mastAt (c : Context) (j : Nat) : (s.setCtx c).mastAt j = s.mastAt j := rfl
@[simp] theorem setCtx_launchAt (c : Context) (j : Nat) : (s.setCtx c).launchAt j = s.launchAt j := rfl
@[simp] theorem setTask_ctxAt (t : Task) (j : Nat) : (s.setTask t).ctxAt j = s.ctxAt j := rfl
@[simp] theorem setTask_coreAt (t : Task) (j : Nat) : (s.setTask t).coreAt j = s.coreAt j := rfl
@[simp] theorem setTask_mastAt (t : Task) (j : Nat) : (s.setTask t).mastAt j = s.mastAt j := rfl
@[simp] theorem setTask_launchAt (t : Task) (j : Nat) : (s.setTask t).launchAt j = s.launchAt j := rfl
@[simp] theorem setCore_ctxAt (c : Core) (j : Nat) : (s.setCore c).ctxAt j = s.ctxAt j := rfl
@[simp] theorem setCore_taskAt (c : Core) (j : Nat) : (s.setCore c).taskAt j = s.taskAt j := rfl
@[simp] theorem setCore_mastAt (c : Core) (j : Nat) : (s.setCore c).mastAt j = s.mastAt j := rfl
@[simp] theorem setCore_launchAt (c : Core) (j : Nat) : (s.setCore c).launchAt j = s.launchAt j := rfl
@[simp] theorem setMast_ctxAt (m : Mast) (j : Nat) : (s.setMast m).ctxAt j = s.ctxAt j := rfl
@[simp] theorem setMast_taskAt (m : Mast) (j : Nat) : (s.setMast m).taskAt j = s.taskAt j := rfl
@[simp] theorem setMast_coreAt (m : Mast) (j : Nat) : (s.setMast m).coreAt j = s.coreAt j := rfl
@[simp] theorem setMast_launchAt (m : Mast) (j : Nat) : (s.setMast m).launchAt j = s.launchAt j := rfl
@[simp] theorem setLaunch_ctxAt (l : Launch) (j : Nat) : (s.setLaunch l).ctxAt j = s.ctxAt j := rfl
@[simp] theorem setLaunch_taskAt (l : Launch) (j : Nat) : (s.setLaunch l).taskAt j = s.taskAt j := rfl
@[simp] theorem setLaunch_coreAt (l : Launch) (j : Nat) : (s.setLaunch l).coreAt j = s.coreAt j := rfl
@[simp] theorem setLaunch_mastAt (l : Launch) (j : Nat) : (s.setLaunch l).mastAt j = s.mastAt j := rfl
theorem setCtx_ctxAt_other (c : Context) {j : Nat} (h : j ≠ s.cur.ctx) : (s.setCtx c).ctxAt j = s.ctxAt j := by
  simp [State.setCtx, State.ctxAt, AMap.get_set_other, h]
theorem setTask_taskAt_other (t : Task) {j : Nat} (h : j ≠ s.cur.task) : (s.setTask t).taskAt j = s.taskAt j := by
  simp [State.setTask, State.taskAt, AMap.get_set_other, h]
theorem setCore_coreAt_other (c : Core) {j : Nat} (h : j ≠ s.cur.core) : (s.setCore c).coreAt j = s.coreAt j := by
  simp [State.setCore, State.coreAt, AMap.get_set_other, h]
theorem setMast_mastAt_other (m : Mast) {j : Nat} (h : j ≠ mastOf s.cur.core) : (s.setMast m).mastAt j = s.mastAt j := by
  simp [State.setMast, State.mastAt, AMap.get_set_other, h]
theorem setLaunch_launchAt_other (l : Launch) {j : Nat} (h : j ≠ s.cur.launch) : (s.setLaunch l).launchAt j = s.launchAt j := by
  simp [State.setLaunch, State.launchAt, AMap.get_set_other, h]

/-! ### Setting twice -/

@[simp] theorem setCtx_setCtx (x y : Context) : (s.setCtx x).setCtx y = s.setCtx y := by simp [State.setCtx]
@[simp] theorem setTask_setTask (x y : Task) : (s.setTask x).setTask y = s.setTask y := by simp [State.setTask]
@[simp] theorem setCore_setCore (x y : Core) : (s.setCore x).setCore y = s.setCore y := by simp [State.setCore]
@[simp] theorem setMast_setMast (x y : Mast) : (s.setMast x).setMast y = s.setMast y := by simp [State.setMast]
@[simp] theorem setLaunch_setLaunch (x y : Launch) : (s.setLaunch x).setLaunch y = s.setLaunch y := by simp [State.setLaunch]

end Sys2Proof.Machine
end

