-- ==== Sys2Proof/Laws/Memory.lean ====
section
/-! SUPPORT. Memory: every operation keeps the canonical form, a read after a write, and what the shared writes of the
machine do. -/

namespace Sys2Proof.Machine

/-! ### The canonical form -/

theorem Memory.wfFrom_weaken {lo lo' : Nat} {m : Memory} (h : lo' ≤ lo) (hw : Memory.wfFrom (some lo) m = true) :
    Memory.wfFrom (some lo') m = true := by
  cases m with
  | nil => rfl
  | cons p m => simp [wfFrom] at hw ⊢; exact ⟨⟨by omega, hw.1.2⟩, hw.2⟩

theorem Memory.wf_of_wfFrom {lo : Nat} {m : Memory} (h : Memory.wfFrom (some lo) m = true) : Memory.wf m = true := by
  cases m with
  | nil => rfl
  | cons p m => simp [wf, wfFrom] at h ⊢; exact ⟨h.1.2, h.2⟩

/-- Whether a bound lies below an address; no bound does. -/
def below (lo : Option Nat) (k : Nat) : Bool := match lo with | none => true | some l => decide (l < k)

theorem Memory.wfFrom_put {lo : Option Nat} {m : Memory} {k : Nat} (v : Byte) (hk : below lo k = true)
    (hw : Memory.wfFrom lo m = true) : Memory.wfFrom lo (m.put k v) = true := by
  induction m generalizing lo with
  | nil =>
    simp only [put]; split
    · rfl
    · next h => cases lo <;> simp_all [wfFrom, below]
  | cons p m ih =>
    obtain ⟨a, b⟩ := p
    have hw' := hw
    simp only [wfFrom, Bool.and_eq_true] at hw
    obtain ⟨⟨hlo, hb⟩, hm⟩ := hw
    simp only [put]
    split
    · next h =>
      split
      · exact hw'
      · next hv => cases lo <;> simp_all [wfFrom, below]
    · split
      · next h1 h2 =>
        subst h2
        split
        · cases lo with
          | none => exact wf_of_wfFrom hm
          | some l => simp [below] at hk; exact wfFrom_weaken (by omega) hm
        · next hv => cases lo <;> simp_all [wfFrom, below]
      · next h1 h2 =>
        have := ih (lo := some a) (by simp [below]; omega) hm
        cases lo <;> simp_all [wfFrom]

/-- Writing a byte keeps the canonical form. -/
theorem Memory.wf_put {m : Memory} (k : Nat) (v : Byte) (h : m.wf = true) : (m.put k v).wf = true :=
  wfFrom_put v rfl h

/-- Writing bytes keeps the canonical form. -/
theorem Memory.wf_write {m : Memory} (k : Nat) (bs : List Byte) (h : m.wf = true) : (Memory.write m k bs).wf = true := by
  induction bs generalizing m k with
  | nil => exact h
  | cons b bs ih => exact ih (k + 1) (wf_put k b h)

theorem Memory.wfFrom_filter {lo : Option Nat} {m : Memory} (f : Host.Cell → Bool) (h : Memory.wfFrom lo m = true) :
    Memory.wfFrom lo (m.filter f) = true := by
  induction m generalizing lo with
  | nil => rfl
  | cons p m ih =>
    obtain ⟨a, b⟩ := p
    simp only [wfFrom, Bool.and_eq_true] at h
    obtain ⟨⟨hlo, hb⟩, hm⟩ := h
    simp only [List.filter_cons]
    split
    · simp only [wfFrom, Bool.and_eq_true]; exact ⟨⟨hlo, hb⟩, ih hm⟩
    · have := ih hm
      cases lo with
      | none => exact wf_of_wfFrom this
      | some l => simp at hlo; exact wfFrom_weaken (by omega) this

/-- Removing listed bytes keeps the canonical form. -/
theorem Memory.wf_filter {m : Memory} (f : Host.Cell → Bool) (h : m.wf = true) : Memory.wf (m.filter f) = true :=
  wfFrom_filter f h

theorem Memory.wf_clear {m : Memory} (lo hi : Nat) (h : m.wf = true) : (m.clear lo hi).wf = true := wf_filter _ h

theorem Memory.wf_part {m : Memory} (lo hi : Nat) (h : m.wf = true) : (m.part lo hi).wf = true := wf_filter _ h

/-- Writing listed bytes one by one keeps the canonical form. -/
theorem Memory.wf_foldl_put {m : Memory} (cs : List Host.Cell) (h : m.wf = true) :
    Memory.wf (cs.foldl (fun m c => Memory.put m c.1 c.2) m) = true := by
  induction cs generalizing m with
  | nil => exact h
  | cons c cs ih => exact ih (wf_put _ _ h)

/-- Memory after reset lists nothing, which is canonical. -/
theorem reset_wf : Memory.wf State.reset.mem = true := rfl

/-! ### Reads after writes -/

theorem Memory.get_above {lo : Nat} {m : Memory} {a : Nat} (h : Memory.wfFrom (some lo) m = true) (ha : a ≤ lo) :
    m.get a = Memory.unlisted := by
  cases m with
  | nil => rfl
  | cons p m => simp [wfFrom] at h; simp [get]; intro h1; omega

/-- A byte reads what was written to it last. -/
@[simp] theorem Memory.get_put_same (m : Memory) (k : Nat) (v : Byte) (h : m.wf = true) : (m.put k v).get k = v := by
  suffices ∀ lo, Memory.wfFrom lo m = true → (m.put k v).get k = v from this none h
  clear h
  induction m with
  | nil => intro _ _; simp only [put]; split <;> simp_all [get]
  | cons p m ih =>
    obtain ⟨a, b⟩ := p
    intro lo hw
    simp only [wfFrom, Bool.and_eq_true] at hw
    simp only [put]
    split
    · split <;> simp_all [get]
    · split
      · next h1 h2 =>
        subst h2
        split
        · next hv => subst hv; exact get_above hw.2 (Nat.le_refl _)
        · simp [get]
      · next h1 h2 => simp [get, h1, h2, ih _ hw.2]

/-- A byte that was not written reads as before. -/
theorem Memory.get_put_other (m : Memory) {k a : Nat} (v : Byte) (h : m.wf = true) (ne : a ≠ k) :
    (m.put k v).get a = m.get a := by
  suffices ∀ lo, Memory.wfFrom lo m = true → (m.put k v).get a = m.get a from this none h
  clear h
  induction m with
  | nil =>
    intro _ _; simp only [put]; split
    · rfl
    · simp only [get]; split
      · rfl
      · simp
  | cons p m ih =>
    obtain ⟨c, b⟩ := p
    intro lo hw
    simp only [wfFrom, Bool.and_eq_true] at hw
    simp only [put]
    split
    · next hk =>
      split
      · rfl
      · simp only [get]
        by_cases h1 : a < k
        · have : a < c := by omega
          simp [h1, this]
        · simp [h1, ne]
    · split
      · next h1 h2 =>
        subst h2
        split
        · by_cases h3 : a < k
          · rw [get_above hw.2 (by omega)]; simp [get, h3]
          · simp [get, h3, ne]
        · simp [get, ne]
      · next h1 h2 => simp [get, ih _ hw.2]

/-- A byte outside the written ones reads as before. -/
theorem Memory.get_write_other (m : Memory) (k : Nat) (bs : List Byte) {a : Nat} (h : m.wf = true)
    (ha : a < k ∨ k + bs.length ≤ a) : (Memory.write m k bs).get a = m.get a := by
  induction bs generalizing m k with
  | nil => rfl
  | cons b bs ih =>
    simp only [List.length_cons] at ha
    rw [write, ih _ _ (wf_put _ _ h) (by omega), get_put_other _ _ h (by omega)]

/-- A written byte reads what was written. -/
theorem Memory.get_write_in (m : Memory) (k : Nat) (bs : List Byte) (i : Nat) (h : m.wf = true) (hi : i < bs.length) :
    (Memory.write m k bs).get (k + i) = bs.getD i 0 := by
  induction bs generalizing m k i with
  | nil => simp at hi
  | cons b bs ih =>
    rw [write]
    cases i with
    | zero =>
      rw [get_write_other _ _ _ (wf_put _ _ h) (by omega)]
      simp [h]
    | succ j =>
      have := ih (m.put k b) (k + 1) j (wf_put _ _ h) (by simpa using hi)
      simpa [Nat.add_assoc, Nat.add_comm 1 j] using this

/-! ### The shared writes of the machine -/

variable (s : State)

@[simp] theorem countCorrected_mem (k n : Nat) : (s.countCorrected k n).mem = s.mem := by
  simp only [State.countCorrected]; split
  · rfl
  · split <;> rfl

@[simp] theorem inject_mem (k n : Nat) : (s.inject k n).mem = s.mem := by
  simp only [State.inject]; split <;> rfl

@[simp] theorem write_mem (k : Nat) (bs : List Byte) : (s.write k bs).mem = Memory.write s.mem k bs := by
  simp [State.write]

@[simp] theorem correct_mem (k n : Nat) : (s.correct k n).mem = s.mem := by simp [State.correct]

@[simp] theorem setDbl_mem (k : Nat) (w : Word) : (s.setDbl k w).mem = Memory.write s.mem k (toBytes 8 w.toNat) := by
  simp [State.setDbl]

/-- A write changes memory, its check bits, and the error counts and injections of tasks, and nothing else. -/
theorem write_rest (k : Nat) (bs : List Byte) : ∃ m e t, s.write k bs = { s with mem := m, ecc := e, tasks := t } := by
  simp only [State.write, State.countCorrected, State.inject]
  split <;> split <;> (try split) <;> exact ⟨_, _, _, rfl⟩

@[simp] theorem countCorrected_ctxs (k n : Nat) : (s.countCorrected k n).ctxs = s.ctxs := by
  simp only [State.countCorrected]; split
  · rfl
  · split <;> rfl

@[simp] theorem inject_ctxs (k n : Nat) : (s.inject k n).ctxs = s.ctxs := by simp only [State.inject]; split <;> rfl

@[simp] theorem write_ctxs (k : Nat) (bs : List Byte) : (s.write k bs).ctxs = s.ctxs := by simp [State.write]

@[simp] theorem correct_ctxs (k n : Nat) : (s.correct k n).ctxs = s.ctxs := by simp [State.correct]

@[simp] theorem countCorrected_cur (k n : Nat) : (s.countCorrected k n).cur = s.cur := by
  simp only [State.countCorrected]; split
  · rfl
  · split <;> rfl

@[simp] theorem inject_cur (k n : Nat) : (s.inject k n).cur = s.cur := by simp only [State.inject]; split <;> rfl

@[simp] theorem write_cur (k : Nat) (bs : List Byte) : (s.write k bs).cur = s.cur := by simp [State.write]

@[simp] theorem correct_cur (k n : Nat) : (s.correct k n).cur = s.cur := by simp [State.correct]

@[simp] theorem write_ctx (k : Nat) (bs : List Byte) : (s.write k bs).ctx = s.ctx := by simp [State.ctx]

@[simp] theorem correct_ctx (k n : Nat) : (s.correct k n).ctx = s.ctx := by simp [State.ctx]

/-- A field that a function on entries keeps reads as before after the function has run over the map. -/
theorem AMap.get_map_field {α β : Type} (g : α → β) (f : Nat × α → Nat × α) (hk : ∀ p, (f p).1 = p.1)
    (hg : ∀ p, g (f p).2 = g p.2) (m : AMap α) (k : Nat) (d : α) : g (AMap.get (m.map f) k d) = g (m.get k d) := by
  induction m with
  | nil => rfl
  | cons p m ih =>
    simp only [List.map_cons, AMap.get, hk]
    split
    · exact hg p
    · exact ih

theorem countCorrected_taskAt {β : Type} (g : Task → β) (hg : ∀ t n, g { t with bcec := n } = g t) (k n j : Nat) :
    g ((s.countCorrected k n).taskAt j) = g (s.taskAt j) := by
  simp only [State.countCorrected]; split
  · rfl
  · split
    · rfl
    · exact AMap.get_map_field g _ (fun p => by split <;> rfl) (fun p => by split <;> simp [hg]) _ _ _

theorem inject_taskAt {β : Type} (g : Task → β) (hg : ∀ t w, g { t with binj := w } = g t) (k n j : Nat) :
    g ((s.inject k n).taskAt j) = g (s.taskAt j) := by
  simp only [State.inject]; split
  · rfl
  · exact AMap.get_map_field g _ (fun p => by split <;> rfl) (fun p => by split <;> simp [hg]) _ _ _

@[simp] theorem write_reg (k : Nat) (bs : List Byte) (r : Reg) : (s.write k bs).reg r = s.reg r := by
  cases r with
  | w i => simp [State.reg]
  | g i =>
    have h : (s.write k bs).task.globals = s.task.globals := by
      simp only [State.task, write_cur]
      have h1 := fun (u : State) m n j => inject_taskAt u (·.globals) (fun _ _ => rfl) m n j
      have h2 := fun (u : State) m n j => countCorrected_taskAt u (·.globals) (fun _ _ => rfl) m n j
      simp only [State.taskAt] at h1 h2
      simp only [State.write, h1, h2]
    simp [State.reg, h]

@[simp] theorem correct_reg (k n : Nat) (r : Reg) : (s.correct k n).reg r = s.reg r := by
  cases r with
  | w i => simp [State.reg]
  | g i =>
    have h : (s.correct k n).task.globals = s.task.globals := by
      simp only [State.task, correct_cur]
      have h2 := fun (u : State) m n j => countCorrected_taskAt u (·.globals) (fun _ _ => rfl) m n j
      simp only [State.taskAt] at h2
      simp only [State.correct, h2]
    simp [State.reg, h]

@[simp] theorem correct_pc (k n : Nat) : (s.correct k n).pc = s.pc := by simp [State.pc]

@[simp] theorem write_pc (k : Nat) (bs : List Byte) : (s.write k bs).pc = s.pc := by simp [State.pc]

/-- A write keeps the canonical form. -/
theorem write_memoryForm (k : Nat) (bs : List Byte) (h : Memory.wf s.mem = true) : Memory.wf (s.write k bs).mem = true := by
  rw [write_mem]; exact Memory.wf_write k bs h

@[simp] theorem toBytes_length (n x : Nat) : (toBytes n x).length = n := by
  induction n generalizing x with
  | zero => rfl
  | succ n ih => simp [toBytes, ih]

/-- The number that its bytes stand for. -/
@[simp] theorem ofBytes_toBytes (n x : Nat) : ofBytes (toBytes n x) = x % 256 ^ n := by
  induction n generalizing x with
  | zero => simp [toBytes, ofBytes, Nat.mod_one]
  | succ n ih =>
    simp only [toBytes, ofBytes, ih, BitVec.toNat_ofNat, Nat.pow_succ]
    have := Nat.mod_mul (x := x) (a := 256) (b := 256 ^ n)
    rw [Nat.mul_comm (256 ^ n) 256, this]

end Sys2Proof.Machine
end

