-- ==== Sys2Proof/Laws/Hart.lean ====
section
/-! SUPPORT. What a turn of a CP's hart can do to memory, and the registers of a hart: the statements about harts and about every step go
through these. -/

namespace Sys2Proof.Machine

variable (s : State)

/-! ### Registers of a hart -/

@[simp] theorem Hart.reg_zero (h : Hart) : h.reg 0 = 0 := rfl
@[simp] theorem Hart.setReg_zero (h : Hart) (v : Word) : h.setReg 0 v = h := rfl
@[simp] theorem Hart.setReg_pc (h : Hart) (r : Nat) (v : Word) : (h.setReg r v).pc = h.pc := by unfold Hart.setReg; split <;> rfl
@[simp] theorem Hart.setReg_mode (h : Hart) (r : Nat) (v : Word) : (h.setReg r v).mode = h.mode := by unfold Hart.setReg; split <;> rfl
@[simp] theorem Hart.next_pc (h : Hart) (n : Nat) : (h.next n).pc = h.pc + Word.of n := rfl
@[simp] theorem Hart.next_reg (h : Hart) (n r : Nat) : (h.next n).reg r = h.reg r := rfl

/-- A register reads what was written to it, x0 aside, and no other changes. -/
theorem Hart.reg_setReg (h : Hart) (r k : Nat) (v : Word) :
    (h.setReg r v).reg k = if k = r ∧ r ≠ 0 then v else h.reg k := by
  unfold Hart.setReg Hart.reg
  by_cases hr : r = 0
  · simp [hr]
  · by_cases hk : k = 0
    · simp [hk, Ne.symm hr]
    · by_cases e : k = r
      · subst e; simp [hr]
      · simp [hr, hk, e, AMap.get_set_other]

/-! ### Traps -/

@[simp] theorem vectored_exception (tvec : Word) (cause : Nat) : vectored tvec false cause = tvec &&& ~~~3 := by simp [vectored]

/-- An exception in M mode, or one that is not delegated, is taken in M mode. -/
theorem Hart.trap_machine {h : Hart} {cause : Nat} (d : h.mode = 3 ∨ bit h.medeleg cause = false) (v : Word) :
    let t := h.trap false cause v
    t.mode = 3 ∧ t.mepc = h.pc ∧ t.mcause = causeWord false cause ∧ t.mtval = v ∧ t.pc = h.mtvec &&& ~~~3 ∧ t.x = h.x ∧ t.f = h.f := by
  have c : ¬ (decide (h.mode ≠ 3) && bit h.medeleg cause) = true := by rcases d with d | d <;> simp [d]
  simp only [Hart.trap, Bool.false_eq_true, if_false, if_neg c, vectored_exception, and_self]

/-- A delegated exception below M mode is taken in S mode. -/
theorem Hart.trap_supervisor {h : Hart} {cause : Nat} (hm : h.mode ≠ 3) (d : bit h.medeleg cause = true) (v : Word) :
    let t := h.trap false cause v
    t.mode = 1 ∧ t.sepc = h.pc ∧ t.scause = causeWord false cause ∧ t.stval = v ∧ t.pc = h.stvec &&& ~~~3 ∧ t.x = h.x ∧ t.f = h.f := by
  have c : (decide (h.mode ≠ 3) && bit h.medeleg cause) = true := by simp [hm, d]
  simp only [Hart.trap, Bool.false_eq_true, if_false, if_pos c, vectored_exception, and_self]

/-! ### The hart of a CP -/

@[simp] theorem putHart_mem (cp : Nat) (h : Hart) : (s.putHart cp h).mem = s.mem := rfl

@[simp] theorem putHart_cpHart (cp : Nat) (h : Hart) : (s.putHart cp h).cpHart cp = h := by
  simp [State.putHart, State.cpHart, State.putCp, State.cpAt]

@[simp] theorem cpTick_mem (cp : Nat) : (s.cpTick cp).mem = s.mem := by
  unfold State.cpTick; dsimp only; split <;> rfl

/-! ### Memory -/

@[simp] theorem setCsr_mem (n : Nat) (v : Word) : (s.setCsr n v).mem = s.mem := by
  unfold State.setCsr; dsimp only; split <;> rfl

@[simp] theorem reach_mem (core n : Nat) : (s.reach core n).mem = s.mem := by
  unfold State.reach; dsimp only; split
  · rfl
  · split <;> rfl

@[simp] theorem cpWrite_mem (n : Nat) (v : Word) : (s.cpWrite n v).mem = s.mem := by
  unfold State.cpWrite; repeat' split
  all_goals first | rfl | exact setCsr_mem s n v

@[simp] theorem setCpCsr_mem (cp n : Nat) (v : Word) : (s.setCpCsr cp n v).mem = s.mem := by
  unfold State.setCpCsr; dsimp only; split
  · rfl
  · rfl
  · exact (cpWrite_mem _ _ _).trans (reach_mem _ _ _)
  · rfl
  · rfl

@[simp] theorem setRvCsr_mem (cp n : Nat) (v : Word) : (s.setRvCsr cp n v).mem = s.mem := by
  unfold State.setRvCsr; split <;> simp

/-- Memory as before, or with one run of bytes written. -/
def wroteOnce (m m' : Memory) : Prop := m' = m ∨ ∃ k bs, m' = Memory.write m k bs

theorem wroteOnce.form {m m' : Memory} (h : wroteOnce m m') (hm : m.wf = true) : m'.wf = true := by
  obtain rfl | ⟨k, bs, rfl⟩ := h
  · exact hm
  · exact Memory.wf_write k bs hm

theorem csrOp_mem {cp f3 rd src n : Nat} {t : State} (h : s.csrOp cp f3 rd src n = some t) : t.mem = s.mem := by
  unfold State.csrOp at h
  split at h
  · cases h
  · dsimp only at h; split at h
    · cases h
    · cases h; simp only [putHart_mem]; split <;> simp

/-- A bind of exceptions that answers has an answer of its first part. -/
theorem rv_bind {α β : Type} {x : RvEx α} {f : α → RvEx β} {b : β} (h : (x >>= f) = .ok b) : ∃ a, x = .ok a ∧ f a = .ok b := by
  cases x with
  | error e => cases h
  | ok a => exact ⟨a, rfl, h⟩

theorem rvWrite_mem {h : Hart} {n : Nat} {v : Word} {w : Nat} {t : State} (e : s.rvWrite h n v w = .ok t) : wroteOnce s.mem t.mem := by
  obtain ⟨k, -, e⟩ := rv_bind e
  cases e; exact .inr ⟨k, _, write_mem s k _⟩

theorem rvLr_mem {cp n len rd : Nat} {v : Word} {t : State} (e : s.rvLr cp n len rd v = .ok t) : wroteOnce s.mem t.mem := by
  obtain ⟨k, -, e⟩ := rv_bind e
  cases e; exact .inl rfl

theorem rvSc_mem {cp n len rd w : Nat} {v : Word} {t : State} (e : s.rvSc cp n len rd v w = .ok t) : wroteOnce s.mem t.mem := by
  obtain ⟨k, -, e⟩ := rv_bind e
  cases e
  simp only [putHart_mem]; split
  · exact .inr ⟨k, _, write_mem _ k _⟩
  · exact .inl rfl

theorem rvAmo_mem {cp n len rd w : Nat} {a : Rv.Amo} {v : Word} {t : State} (e : s.rvAmo cp n len rd a v w = .ok t) :
    wroteOnce s.mem t.mem := by
  obtain ⟨k, -, e⟩ := rv_bind e
  cases e; exact .inr ⟨k, _, write_mem s k _⟩

/-- An instruction of a hart writes memory at one place, or not at all. -/
theorem rvExec_mem {cp x len : Nat} {i : Rv.Ins} {t : State} (e : s.rvExec cp x len i = .ok t) : wroteOnce s.mem t.mem := by
  unfold State.rvExec at e
  dsimp only at e
  cases i <;> dsimp only at e
  case load =>
    obtain ⟨v, -, e⟩ := rv_bind e
    cases e; exact .inl rfl
  case store =>
    obtain ⟨u, hu, e⟩ := rv_bind e
    cases e; rw [putHart_mem]; exact rvWrite_mem s hu
  case fload =>
    split at e
    · obtain ⟨v, -, e⟩ := rv_bind e
      cases e; exact .inl rfl
    · cases e
  case fstore =>
    split at e
    · obtain ⟨u, hu, e⟩ := rv_bind e
      cases e; rw [putHart_mem]; exact rvWrite_mem s hu
    · cases e
  case csr =>
    split at e
    · rename_i u hu; cases e; rw [putHart_mem]; exact .inl (csrOp_mem s hu)
    · cases e
  case lr => exact rvLr_mem s e
  case sc => exact rvSc_mem s e
  case amo => exact rvAmo_mem s e
  all_goals
    (repeat' split at e) <;> first | (cases e; done) | (cases e; exact .inl rfl)

/-- A step of a hart that answers a state writes memory at one place, or not at all. -/
theorem rvStep_mem {cp : Nat} {t : State} (e : s.rvStep cp = .ok t) : wroteOnce s.mem t.mem := by
  obtain ⟨f, -, e⟩ := rv_bind e
  split at e
  · cases e
  · obtain ⟨u, hu, e⟩ := rv_bind e
    cases e; rw [putHart_mem]; exact rvExec_mem s hu

/-- What a hart does in its turn writes memory at one place, or not at all. -/
theorem cpAct_mem (cp : Nat) : wroteOnce s.mem (s.cpAct cp).mem := by
  unfold State.cpAct
  split
  · exact .inl (putHart_mem s cp _)
  · split
    · exact rvStep_mem s ‹_›
    · exact .inl (putHart_mem s cp _)

/-- A turn of a CP writes memory at one place, or not at all. -/
theorem cpTurn_mem (cp : Nat) : wroteOnce s.mem (s.cpTurn cp).mem := by
  unfold State.cpTurn
  split
  · exact .inl rfl
  · rw [← cpTick_mem s cp]; exact cpAct_mem _ cp

/-- A turn of a CP keeps the memory's form. -/
theorem cpTurn_memoryForm (cp : Nat) (h : Memory.wf s.mem = true) : Memory.wf (s.cpTurn cp).mem = true := (cpTurn_mem s cp).form h

end Sys2Proof.Machine
end

