-- ==== Sys2Proof/Laws/PerInstr.lean ====
section
/-! SUPPORT. Every instruction decodes back from its words: one lemma per constructor. -/

set_option linter.unusedSimpArgs false

namespace Sys2Proof.Laws

open Sys2Proof

/-! ### The round trip -/

/-- An instruction that holds no reserved value and has an encoding decodes back from its words, with every operand,
whatever words follow. -/
def RoundTrip.Statement (i : Instr) : Prop :=
  WellFormed i = true → encode i ≠ [] → ∀ rest : List Nat,
    decodeWords (nativeEngine ((encode i).headD 0)) (encode i ++ rest) = .ok i


theorem RoundTrip.add (t : ITy) (d : Reg) (a : Src) (b : Src) : RoundTrip.Statement (.add t d a b) := by
  intro hw _ rest
  have := ity_code_lt t; have := reg_code_lt d; have := src_code_lt a; have := src_code_lt b
  obtain ⟨h0, h1, h2, h3, h4, h5, h6⟩ := fieldsT 0x01 d.code a.code b.code t.code (rest.getD 0 0) (rest.getD 1 0) (by omega) (by omega) (by omega) (by omega) (by decide)
  show decodeWords (nativeEngine (encT 0x01 d.code a.code b.code t.code)) ((encT 0x01 d.code a.code b.code t.code) :: rest) = _
  rw [decode1 _ 0x01 rest h0 (by decide) (by decide), body000 _ 0x01 _ h0 (by decide), arm_01]
  generalize (⟨encT 0x01 d.code a.code b.code t.code, rest.getD 0 0, rest.getD 1 0⟩ : Words) = w at h1 h2 h3 h4 h5 h6 ⊢
  simp [dec3, accept_some, h1, h2, h3, h4, h5, h6, regOf_code, srcOf_code, bind_ok, -Fin.ofNat_eq_cast, engineFor_ne]

theorem RoundTrip.sub (t : ITy) (d : Reg) (a : Src) (b : Src) : RoundTrip.Statement (.sub t d a b) := by
  intro hw _ rest
  have := ity_code_lt t; have := reg_code_lt d; have := src_code_lt a; have := src_code_lt b
  obtain ⟨h0, h1, h2, h3, h4, h5, h6⟩ := fieldsT 0x02 d.code a.code b.code t.code (rest.getD 0 0) (rest.getD 1 0) (by omega) (by omega) (by omega) (by omega) (by decide)
  show decodeWords (nativeEngine (encT 0x02 d.code a.code b.code t.code)) ((encT 0x02 d.code a.code b.code t.code) :: rest) = _
  rw [decode1 _ 0x02 rest h0 (by decide) (by decide), body000 _ 0x02 _ h0 (by decide), arm_02]
  generalize (⟨encT 0x02 d.code a.code b.code t.code, rest.getD 0 0, rest.getD 1 0⟩ : Words) = w at h1 h2 h3 h4 h5 h6 ⊢
  simp [dec3, accept_some, h1, h2, h3, h4, h5, h6, regOf_code, srcOf_code, bind_ok, -Fin.ofNat_eq_cast, engineFor_ne]

theorem RoundTrip.mul (t : ITy) (d : Reg) (a : Src) (b : Src) : RoundTrip.Statement (.mul t d a b) := by
  intro hw _ rest
  have := ity_code_lt t; have := reg_code_lt d; have := src_code_lt a; have := src_code_lt b
  obtain ⟨h0, h1, h2, h3, h4, h5, h6⟩ := fieldsT 0x03 d.code a.code b.code t.code (rest.getD 0 0) (rest.getD 1 0) (by omega) (by omega) (by omega) (by omega) (by decide)
  show decodeWords (nativeEngine (encT 0x03 d.code a.code b.code t.code)) ((encT 0x03 d.code a.code b.code t.code) :: rest) = _
  rw [decode1 _ 0x03 rest h0 (by decide) (by decide), body000 _ 0x03 _ h0 (by decide), arm_03]
  generalize (⟨encT 0x03 d.code a.code b.code t.code, rest.getD 0 0, rest.getD 1 0⟩ : Words) = w at h1 h2 h3 h4 h5 h6 ⊢
  simp [dec3, accept_some, h1, h2, h3, h4, h5, h6, regOf_code, srcOf_code, bind_ok, -Fin.ofNat_eq_cast, engineFor_ne]

theorem RoundTrip.mulh (t : ITy) (d : Reg) (a : Src) (b : Src) : RoundTrip.Statement (.mulh t d a b) := by
  intro hw _ rest
  have := ity_code_lt t; have := reg_code_lt d; have := src_code_lt a; have := src_code_lt b
  obtain ⟨h0, h1, h2, h3, h4, h5, h6⟩ := fieldsT 0x04 d.code a.code b.code t.code (rest.getD 0 0) (rest.getD 1 0) (by omega) (by omega) (by omega) (by omega) (by decide)
  show decodeWords (nativeEngine (encT 0x04 d.code a.code b.code t.code)) ((encT 0x04 d.code a.code b.code t.code) :: rest) = _
  rw [decode1 _ 0x04 rest h0 (by decide) (by decide), body000 _ 0x04 _ h0 (by decide), arm_04]
  generalize (⟨encT 0x04 d.code a.code b.code t.code, rest.getD 0 0, rest.getD 1 0⟩ : Words) = w at h1 h2 h3 h4 h5 h6 ⊢
  simp [dec3, accept_some, h1, h2, h3, h4, h5, h6, regOf_code, srcOf_code, bind_ok, -Fin.ofNat_eq_cast, engineFor_ne]

theorem RoundTrip.div (t : ITy) (d : Reg) (a : Src) (b : Src) : RoundTrip.Statement (.div t d a b) := by
  intro hw _ rest
  have := ity_code_lt t; have := reg_code_lt d; have := src_code_lt a; have := src_code_lt b
  obtain ⟨h0, h1, h2, h3, h4, h5, h6⟩ := fieldsT 0x05 d.code a.code b.code t.code (rest.getD 0 0) (rest.getD 1 0) (by omega) (by omega) (by omega) (by omega) (by decide)
  show decodeWords (nativeEngine (encT 0x05 d.code a.code b.code t.code)) ((encT 0x05 d.code a.code b.code t.code) :: rest) = _
  rw [decode1 _ 0x05 rest h0 (by decide) (by decide), body000 _ 0x05 _ h0 (by decide), arm_05]
  generalize (⟨encT 0x05 d.code a.code b.code t.code, rest.getD 0 0, rest.getD 1 0⟩ : Words) = w at h1 h2 h3 h4 h5 h6 ⊢
  simp [dec3, accept_some, h1, h2, h3, h4, h5, h6, regOf_code, srcOf_code, bind_ok, -Fin.ofNat_eq_cast, engineFor_ne]

theorem RoundTrip.rem (t : ITy) (d : Reg) (a : Src) (b : Src) : RoundTrip.Statement (.rem t d a b) := by
  intro hw _ rest
  have := ity_code_lt t; have := reg_code_lt d; have := src_code_lt a; have := src_code_lt b
  obtain ⟨h0, h1, h2, h3, h4, h5, h6⟩ := fieldsT 0x06 d.code a.code b.code t.code (rest.getD 0 0) (rest.getD 1 0) (by omega) (by omega) (by omega) (by omega) (by decide)
  show decodeWords (nativeEngine (encT 0x06 d.code a.code b.code t.code)) ((encT 0x06 d.code a.code b.code t.code) :: rest) = _
  rw [decode1 _ 0x06 rest h0 (by decide) (by decide), body000 _ 0x06 _ h0 (by decide), arm_06]
  generalize (⟨encT 0x06 d.code a.code b.code t.code, rest.getD 0 0, rest.getD 1 0⟩ : Words) = w at h1 h2 h3 h4 h5 h6 ⊢
  simp [dec3, accept_some, h1, h2, h3, h4, h5, h6, regOf_code, srcOf_code, bind_ok, -Fin.ofNat_eq_cast, engineFor_ne]

theorem RoundTrip.min (t : ITy) (d : Reg) (a : Src) (b : Src) : RoundTrip.Statement (.min t d a b) := by
  intro hw _ rest
  have := ity_code_lt t; have := reg_code_lt d; have := src_code_lt a; have := src_code_lt b
  obtain ⟨h0, h1, h2, h3, h4, h5, h6⟩ := fieldsT 0x07 d.code a.code b.code t.code (rest.getD 0 0) (rest.getD 1 0) (by omega) (by omega) (by omega) (by omega) (by decide)
  show decodeWords (nativeEngine (encT 0x07 d.code a.code b.code t.code)) ((encT 0x07 d.code a.code b.code t.code) :: rest) = _
  rw [decode1 _ 0x07 rest h0 (by decide) (by decide), body000 _ 0x07 _ h0 (by decide), arm_07]
  generalize (⟨encT 0x07 d.code a.code b.code t.code, rest.getD 0 0, rest.getD 1 0⟩ : Words) = w at h1 h2 h3 h4 h5 h6 ⊢
  simp [dec3, accept_some, h1, h2, h3, h4, h5, h6, regOf_code, srcOf_code, bind_ok, -Fin.ofNat_eq_cast, engineFor_ne]

theorem RoundTrip.max (t : ITy) (d : Reg) (a : Src) (b : Src) : RoundTrip.Statement (.max t d a b) := by
  intro hw _ rest
  have := ity_code_lt t; have := reg_code_lt d; have := src_code_lt a; have := src_code_lt b
  obtain ⟨h0, h1, h2, h3, h4, h5, h6⟩ := fieldsT 0x08 d.code a.code b.code t.code (rest.getD 0 0) (rest.getD 1 0) (by omega) (by omega) (by omega) (by omega) (by decide)
  show decodeWords (nativeEngine (encT 0x08 d.code a.code b.code t.code)) ((encT 0x08 d.code a.code b.code t.code) :: rest) = _
  rw [decode1 _ 0x08 rest h0 (by decide) (by decide), body000 _ 0x08 _ h0 (by decide), arm_08]
  generalize (⟨encT 0x08 d.code a.code b.code t.code, rest.getD 0 0, rest.getD 1 0⟩ : Words) = w at h1 h2 h3 h4 h5 h6 ⊢
  simp [dec3, accept_some, h1, h2, h3, h4, h5, h6, regOf_code, srcOf_code, bind_ok, -Fin.ofNat_eq_cast, engineFor_ne]

theorem RoundTrip.slt (t : ITy) (d : Reg) (a : Src) (b : Src) : RoundTrip.Statement (.slt t d a b) := by
  intro hw _ rest
  have := ity_code_lt t; have := reg_code_lt d; have := src_code_lt a; have := src_code_lt b
  obtain ⟨h0, h1, h2, h3, h4, h5, h6⟩ := fieldsT 0x09 d.code a.code b.code t.code (rest.getD 0 0) (rest.getD 1 0) (by omega) (by omega) (by omega) (by omega) (by decide)
  show decodeWords (nativeEngine (encT 0x09 d.code a.code b.code t.code)) ((encT 0x09 d.code a.code b.code t.code) :: rest) = _
  rw [decode1 _ 0x09 rest h0 (by decide) (by decide), body000 _ 0x09 _ h0 (by decide), arm_09]
  generalize (⟨encT 0x09 d.code a.code b.code t.code, rest.getD 0 0, rest.getD 1 0⟩ : Words) = w at h1 h2 h3 h4 h5 h6 ⊢
  simp [dec3, accept_some, h1, h2, h3, h4, h5, h6, regOf_code, srcOf_code, bind_ok, -Fin.ofNat_eq_cast, engineFor_ne]

theorem RoundTrip.seq (t : ITy) (d : Reg) (a : Src) (b : Src) : RoundTrip.Statement (.seq t d a b) := by
  intro hw _ rest
  have := ity_code_lt t; have := reg_code_lt d; have := src_code_lt a; have := src_code_lt b
  obtain ⟨h0, h1, h2, h3, h4, h5, h6⟩ := fieldsT 0x0A d.code a.code b.code t.code (rest.getD 0 0) (rest.getD 1 0) (by omega) (by omega) (by omega) (by omega) (by decide)
  show decodeWords (nativeEngine (encT 0x0A d.code a.code b.code t.code)) ((encT 0x0A d.code a.code b.code t.code) :: rest) = _
  rw [decode1 _ 0x0A rest h0 (by decide) (by decide), body000 _ 0x0A _ h0 (by decide), arm_0A]
  generalize (⟨encT 0x0A d.code a.code b.code t.code, rest.getD 0 0, rest.getD 1 0⟩ : Words) = w at h1 h2 h3 h4 h5 h6 ⊢
  simp [dec3, accept_some, h1, h2, h3, h4, h5, h6, regOf_code, srcOf_code, bind_ok, -Fin.ofNat_eq_cast, engineFor_ne]

theorem RoundTrip.and (d : Reg) (a : Src) (b : Src) : RoundTrip.Statement (.and d a b) := by
  intro hw _ rest
  have := reg_code_lt d; have := src_code_lt a; have := src_code_lt b
  obtain ⟨h0, h1, h2, h3, h4, h5, h6⟩ := fieldsT 0x0B d.code a.code b.code 0 (rest.getD 0 0) (rest.getD 1 0) (by omega) (by omega) (by omega) (by decide) (by decide)
  show decodeWords (nativeEngine (encT 0x0B d.code a.code b.code 0)) ((encT 0x0B d.code a.code b.code 0) :: rest) = _
  rw [decode1 _ 0x0B rest h0 (by decide) (by decide), body000 _ 0x0B _ h0 (by decide), arm_0B]
  generalize (⟨encT 0x0B d.code a.code b.code 0, rest.getD 0 0, rest.getD 1 0⟩ : Words) = w at h1 h2 h3 h4 h5 h6 ⊢
  simp [dec3, accept_some, h1, h2, h3, h4, h5, h6, regOf_code, srcOf_code, bind_ok, -Fin.ofNat_eq_cast, engineFor_ne]

theorem RoundTrip.or (d : Reg) (a : Src) (b : Src) : RoundTrip.Statement (.or d a b) := by
  intro hw _ rest
  have := reg_code_lt d; have := src_code_lt a; have := src_code_lt b
  obtain ⟨h0, h1, h2, h3, h4, h5, h6⟩ := fieldsT 0x0B d.code a.code b.code 1 (rest.getD 0 0) (rest.getD 1 0) (by omega) (by omega) (by omega) (by decide) (by decide)
  show decodeWords (nativeEngine (encT 0x0B d.code a.code b.code 1)) ((encT 0x0B d.code a.code b.code 1) :: rest) = _
  rw [decode1 _ 0x0B rest h0 (by decide) (by decide), body000 _ 0x0B _ h0 (by decide), arm_0B]
  generalize (⟨encT 0x0B d.code a.code b.code 1, rest.getD 0 0, rest.getD 1 0⟩ : Words) = w at h1 h2 h3 h4 h5 h6 ⊢
  simp [dec3, accept_some, h1, h2, h3, h4, h5, h6, regOf_code, srcOf_code, bind_ok, -Fin.ofNat_eq_cast, engineFor_ne]

theorem RoundTrip.xor (d : Reg) (a : Src) (b : Src) : RoundTrip.Statement (.xor d a b) := by
  intro hw _ rest
  have := reg_code_lt d; have := src_code_lt a; have := src_code_lt b
  obtain ⟨h0, h1, h2, h3, h4, h5, h6⟩ := fieldsT 0x0B d.code a.code b.code 2 (rest.getD 0 0) (rest.getD 1 0) (by omega) (by omega) (by omega) (by decide) (by decide)
  show decodeWords (nativeEngine (encT 0x0B d.code a.code b.code 2)) ((encT 0x0B d.code a.code b.code 2) :: rest) = _
  rw [decode1 _ 0x0B rest h0 (by decide) (by decide), body000 _ 0x0B _ h0 (by decide), arm_0B]
  generalize (⟨encT 0x0B d.code a.code b.code 2, rest.getD 0 0, rest.getD 1 0⟩ : Words) = w at h1 h2 h3 h4 h5 h6 ⊢
  simp [dec3, accept_some, h1, h2, h3, h4, h5, h6, regOf_code, srcOf_code, bind_ok, -Fin.ofNat_eq_cast, engineFor_ne]

theorem RoundTrip.andn (d : Reg) (a : Src) (b : Src) : RoundTrip.Statement (.andn d a b) := by
  intro hw _ rest
  have := reg_code_lt d; have := src_code_lt a; have := src_code_lt b
  obtain ⟨h0, h1, h2, h3, h4, h5, h6⟩ := fieldsT 0x0B d.code a.code b.code 3 (rest.getD 0 0) (rest.getD 1 0) (by omega) (by omega) (by omega) (by decide) (by decide)
  show decodeWords (nativeEngine (encT 0x0B d.code a.code b.code 3)) ((encT 0x0B d.code a.code b.code 3) :: rest) = _
  rw [decode1 _ 0x0B rest h0 (by decide) (by decide), body000 _ 0x0B _ h0 (by decide), arm_0B]
  generalize (⟨encT 0x0B d.code a.code b.code 3, rest.getD 0 0, rest.getD 1 0⟩ : Words) = w at h1 h2 h3 h4 h5 h6 ⊢
  simp [dec3, accept_some, h1, h2, h3, h4, h5, h6, regOf_code, srcOf_code, bind_ok, -Fin.ofNat_eq_cast, engineFor_ne]

theorem RoundTrip.shl (d : Reg) (a : Src) (b : Src) : RoundTrip.Statement (.shl d a b) := by
  intro hw _ rest
  have := reg_code_lt d; have := src_code_lt a; have := src_code_lt b
  obtain ⟨h0, h1, h2, h3, h4, h5, h6⟩ := fieldsT 0x0C d.code a.code b.code 0 (rest.getD 0 0) (rest.getD 1 0) (by omega) (by omega) (by omega) (by decide) (by decide)
  show decodeWords (nativeEngine (encT 0x0C d.code a.code b.code 0)) ((encT 0x0C d.code a.code b.code 0) :: rest) = _
  rw [decode1 _ 0x0C rest h0 (by decide) (by decide), body000 _ 0x0C _ h0 (by decide), arm_0C]
  generalize (⟨encT 0x0C d.code a.code b.code 0, rest.getD 0 0, rest.getD 1 0⟩ : Words) = w at h1 h2 h3 h4 h5 h6 ⊢
  simp [dec3, accept_some, h1, h2, h3, h4, h5, h6, regOf_code, srcOf_code, bind_ok, -Fin.ofNat_eq_cast, engineFor_ne]

theorem RoundTrip.shr (d : Reg) (a : Src) (b : Src) : RoundTrip.Statement (.shr d a b) := by
  intro hw _ rest
  have := reg_code_lt d; have := src_code_lt a; have := src_code_lt b
  obtain ⟨h0, h1, h2, h3, h4, h5, h6⟩ := fieldsT 0x0C d.code a.code b.code 1 (rest.getD 0 0) (rest.getD 1 0) (by omega) (by omega) (by omega) (by decide) (by decide)
  show decodeWords (nativeEngine (encT 0x0C d.code a.code b.code 1)) ((encT 0x0C d.code a.code b.code 1) :: rest) = _
  rw [decode1 _ 0x0C rest h0 (by decide) (by decide), body000 _ 0x0C _ h0 (by decide), arm_0C]
  generalize (⟨encT 0x0C d.code a.code b.code 1, rest.getD 0 0, rest.getD 1 0⟩ : Words) = w at h1 h2 h3 h4 h5 h6 ⊢
  simp [dec3, accept_some, h1, h2, h3, h4, h5, h6, regOf_code, srcOf_code, bind_ok, -Fin.ofNat_eq_cast, engineFor_ne]

theorem RoundTrip.sra (d : Reg) (a : Src) (b : Src) : RoundTrip.Statement (.sra d a b) := by
  intro hw _ rest
  have := reg_code_lt d; have := src_code_lt a; have := src_code_lt b
  obtain ⟨h0, h1, h2, h3, h4, h5, h6⟩ := fieldsT 0x0C d.code a.code b.code 2 (rest.getD 0 0) (rest.getD 1 0) (by omega) (by omega) (by omega) (by decide) (by decide)
  show decodeWords (nativeEngine (encT 0x0C d.code a.code b.code 2)) ((encT 0x0C d.code a.code b.code 2) :: rest) = _
  rw [decode1 _ 0x0C rest h0 (by decide) (by decide), body000 _ 0x0C _ h0 (by decide), arm_0C]
  generalize (⟨encT 0x0C d.code a.code b.code 2, rest.getD 0 0, rest.getD 1 0⟩ : Words) = w at h1 h2 h3 h4 h5 h6 ⊢
  simp [dec3, accept_some, h1, h2, h3, h4, h5, h6, regOf_code, srcOf_code, bind_ok, -Fin.ofNat_eq_cast, engineFor_ne]

theorem RoundTrip.rot (d : Reg) (a : Src) (b : Src) : RoundTrip.Statement (.rot d a b) := by
  intro hw _ rest
  have := reg_code_lt d; have := src_code_lt a; have := src_code_lt b
  obtain ⟨h0, h1, h2, h3, h4, h5, h6⟩ := fieldsT 0x0C d.code a.code b.code 3 (rest.getD 0 0) (rest.getD 1 0) (by omega) (by omega) (by omega) (by decide) (by decide)
  show decodeWords (nativeEngine (encT 0x0C d.code a.code b.code 3)) ((encT 0x0C d.code a.code b.code 3) :: rest) = _
  rw [decode1 _ 0x0C rest h0 (by decide) (by decide), body000 _ 0x0C _ h0 (by decide), arm_0C]
  generalize (⟨encT 0x0C d.code a.code b.code 3, rest.getD 0 0, rest.getD 1 0⟩ : Words) = w at h1 h2 h3 h4 h5 h6 ⊢
  simp [dec3, accept_some, h1, h2, h3, h4, h5, h6, regOf_code, srcOf_code, bind_ok, -Fin.ofNat_eq_cast, engineFor_ne]

theorem RoundTrip.clz (t : BTy) (d : Reg) (a : Src) : RoundTrip.Statement (.clz t d a) := by
  intro hw _ rest
  have := bty_code_lt t; have := reg_code_lt d; have := src_code_lt a
  obtain ⟨h0, h1, h2, h3, h4, h5, h6⟩ := fieldsT 0x0D d.code a.code 0x00 t.code (rest.getD 0 0) (rest.getD 1 0) (by omega) (by omega) (by decide) (by omega) (by decide)
  show decodeWords (nativeEngine (encT 0x0D d.code a.code 0x00 t.code)) ((encT 0x0D d.code a.code 0x00 t.code) :: rest) = _
  rw [decode1 _ 0x0D rest h0 (by decide) (by decide), body000 _ 0x0D _ h0 (by decide), arm_0D]
  generalize (⟨encT 0x0D d.code a.code 0x00 t.code, rest.getD 0 0, rest.getD 1 0⟩ : Words) = w at h1 h2 h3 h4 h5 h6 ⊢
  simp [dec2, listed_true, accept_some, h1, h2, h3, h4, h5, h6, regOf_code, srcOf_code, bind_ok, -Fin.ofNat_eq_cast, engineFor_ne]
  cases t <;> rfl

theorem RoundTrip.ctz (t : BTy) (d : Reg) (a : Src) : RoundTrip.Statement (.ctz t d a) := by
  intro hw _ rest
  have := bty_code_lt t; have := reg_code_lt d; have := src_code_lt a
  obtain ⟨h0, h1, h2, h3, h4, h5, h6⟩ := fieldsT 0x0D d.code a.code 0x01 t.code (rest.getD 0 0) (rest.getD 1 0) (by omega) (by omega) (by decide) (by omega) (by decide)
  show decodeWords (nativeEngine (encT 0x0D d.code a.code 0x01 t.code)) ((encT 0x0D d.code a.code 0x01 t.code) :: rest) = _
  rw [decode1 _ 0x0D rest h0 (by decide) (by decide), body000 _ 0x0D _ h0 (by decide), arm_0D]
  generalize (⟨encT 0x0D d.code a.code 0x01 t.code, rest.getD 0 0, rest.getD 1 0⟩ : Words) = w at h1 h2 h3 h4 h5 h6 ⊢
  simp [dec2, listed_true, accept_some, h1, h2, h3, h4, h5, h6, regOf_code, srcOf_code, bind_ok, -Fin.ofNat_eq_cast, engineFor_ne]
  cases t <;> rfl

theorem RoundTrip.popc (t : BTy) (d : Reg) (a : Src) : RoundTrip.Statement (.popc t d a) := by
  intro hw _ rest
  have := bty_code_lt t; have := reg_code_lt d; have := src_code_lt a
  obtain ⟨h0, h1, h2, h3, h4, h5, h6⟩ := fieldsT 0x0D d.code a.code 0x02 t.code (rest.getD 0 0) (rest.getD 1 0) (by omega) (by omega) (by decide) (by omega) (by decide)
  show decodeWords (nativeEngine (encT 0x0D d.code a.code 0x02 t.code)) ((encT 0x0D d.code a.code 0x02 t.code) :: rest) = _
  rw [decode1 _ 0x0D rest h0 (by decide) (by decide), body000 _ 0x0D _ h0 (by decide), arm_0D]
  generalize (⟨encT 0x0D d.code a.code 0x02 t.code, rest.getD 0 0, rest.getD 1 0⟩ : Words) = w at h1 h2 h3 h4 h5 h6 ⊢
  simp [dec2, listed_true, accept_some, h1, h2, h3, h4, h5, h6, regOf_code, srcOf_code, bind_ok, -Fin.ofNat_eq_cast, engineFor_ne]
  cases t <;> rfl

theorem RoundTrip.sextI8 (d : Reg) (a : Src) : RoundTrip.Statement (.sextI8 d a) := by
  intro hw _ rest
  have := reg_code_lt d; have := src_code_lt a
  obtain ⟨h0, h1, h2, h3, h4, h5, h6⟩ := fieldsT 0x0D d.code a.code 0x10 0 (rest.getD 0 0) (rest.getD 1 0) (by omega) (by omega) (by decide) (by decide) (by decide)
  show decodeWords (nativeEngine (encT 0x0D d.code a.code 0x10 0)) ((encT 0x0D d.code a.code 0x10 0) :: rest) = _
  rw [decode1 _ 0x0D rest h0 (by decide) (by decide), body000 _ 0x0D _ h0 (by decide), arm_0D]
  generalize (⟨encT 0x0D d.code a.code 0x10 0, rest.getD 0 0, rest.getD 1 0⟩ : Words) = w at h1 h2 h3 h4 h5 h6 ⊢
  simp [dec2, listed_true, accept_some, h1, h2, h3, h4, h5, h6, regOf_code, srcOf_code, bind_ok, -Fin.ofNat_eq_cast, engineFor_ne]

theorem RoundTrip.sextI16 (d : Reg) (a : Src) : RoundTrip.Statement (.sextI16 d a) := by
  intro hw _ rest
  have := reg_code_lt d; have := src_code_lt a
  obtain ⟨h0, h1, h2, h3, h4, h5, h6⟩ := fieldsT 0x0D d.code a.code 0x11 0 (rest.getD 0 0) (rest.getD 1 0) (by omega) (by omega) (by decide) (by decide) (by decide)
  show decodeWords (nativeEngine (encT 0x0D d.code a.code 0x11 0)) ((encT 0x0D d.code a.code 0x11 0) :: rest) = _
  rw [decode1 _ 0x0D rest h0 (by decide) (by decide), body000 _ 0x0D _ h0 (by decide), arm_0D]
  generalize (⟨encT 0x0D d.code a.code 0x11 0, rest.getD 0 0, rest.getD 1 0⟩ : Words) = w at h1 h2 h3 h4 h5 h6 ⊢
  simp [dec2, listed_true, accept_some, h1, h2, h3, h4, h5, h6, regOf_code, srcOf_code, bind_ok, -Fin.ofNat_eq_cast, engineFor_ne]

theorem RoundTrip.sextI32 (d : Reg) (a : Src) : RoundTrip.Statement (.sextI32 d a) := by
  intro hw _ rest
  have := reg_code_lt d; have := src_code_lt a
  obtain ⟨h0, h1, h2, h3, h4, h5, h6⟩ := fieldsT 0x0D d.code a.code 0x12 0 (rest.getD 0 0) (rest.getD 1 0) (by omega) (by omega) (by decide) (by decide) (by decide)
  show decodeWords (nativeEngine (encT 0x0D d.code a.code 0x12 0)) ((encT 0x0D d.code a.code 0x12 0) :: rest) = _
  rw [decode1 _ 0x0D rest h0 (by decide) (by decide), body000 _ 0x0D _ h0 (by decide), arm_0D]
  generalize (⟨encT 0x0D d.code a.code 0x12 0, rest.getD 0 0, rest.getD 1 0⟩ : Words) = w at h1 h2 h3 h4 h5 h6 ⊢
  simp [dec2, listed_true, accept_some, h1, h2, h3, h4, h5, h6, regOf_code, srcOf_code, bind_ok, -Fin.ofNat_eq_cast, engineFor_ne]

theorem RoundTrip.zextN8 (d : Reg) (a : Src) : RoundTrip.Statement (.zextN8 d a) := by
  intro hw _ rest
  have := reg_code_lt d; have := src_code_lt a
  obtain ⟨h0, h1, h2, h3, h4, h5, h6⟩ := fieldsT 0x0D d.code a.code 0x20 0 (rest.getD 0 0) (rest.getD 1 0) (by omega) (by omega) (by decide) (by decide) (by decide)
  show decodeWords (nativeEngine (encT 0x0D d.code a.code 0x20 0)) ((encT 0x0D d.code a.code 0x20 0) :: rest) = _
  rw [decode1 _ 0x0D rest h0 (by decide) (by decide), body000 _ 0x0D _ h0 (by decide), arm_0D]
  generalize (⟨encT 0x0D d.code a.code 0x20 0, rest.getD 0 0, rest.getD 1 0⟩ : Words) = w at h1 h2 h3 h4 h5 h6 ⊢
  simp [dec2, listed_true, accept_some, h1, h2, h3, h4, h5, h6, regOf_code, srcOf_code, bind_ok, -Fin.ofNat_eq_cast, engineFor_ne]

theorem RoundTrip.zextN16 (d : Reg) (a : Src) : RoundTrip.Statement (.zextN16 d a) := by
  intro hw _ rest
  have := reg_code_lt d; have := src_code_lt a
  obtain ⟨h0, h1, h2, h3, h4, h5, h6⟩ := fieldsT 0x0D d.code a.code 0x21 0 (rest.getD 0 0) (rest.getD 1 0) (by omega) (by omega) (by decide) (by decide) (by decide)
  show decodeWords (nativeEngine (encT 0x0D d.code a.code 0x21 0)) ((encT 0x0D d.code a.code 0x21 0) :: rest) = _
  rw [decode1 _ 0x0D rest h0 (by decide) (by decide), body000 _ 0x0D _ h0 (by decide), arm_0D]
  generalize (⟨encT 0x0D d.code a.code 0x21 0, rest.getD 0 0, rest.getD 1 0⟩ : Words) = w at h1 h2 h3 h4 h5 h6 ⊢
  simp [dec2, listed_true, accept_some, h1, h2, h3, h4, h5, h6, regOf_code, srcOf_code, bind_ok, -Fin.ofNat_eq_cast, engineFor_ne]

theorem RoundTrip.zextN32 (d : Reg) (a : Src) : RoundTrip.Statement (.zextN32 d a) := by
  intro hw _ rest
  have := reg_code_lt d; have := src_code_lt a
  obtain ⟨h0, h1, h2, h3, h4, h5, h6⟩ := fieldsT 0x0D d.code a.code 0x22 0 (rest.getD 0 0) (rest.getD 1 0) (by omega) (by omega) (by decide) (by decide) (by decide)
  show decodeWords (nativeEngine (encT 0x0D d.code a.code 0x22 0)) ((encT 0x0D d.code a.code 0x22 0) :: rest) = _
  rw [decode1 _ 0x0D rest h0 (by decide) (by decide), body000 _ 0x0D _ h0 (by decide), arm_0D]
  generalize (⟨encT 0x0D d.code a.code 0x22 0, rest.getD 0 0, rest.getD 1 0⟩ : Words) = w at h1 h2 h3 h4 h5 h6 ⊢
  simp [dec2, listed_true, accept_some, h1, h2, h3, h4, h5, h6, regOf_code, srcOf_code, bind_ok, -Fin.ofNat_eq_cast, engineFor_ne]

theorem RoundTrip.bfx (natural : Bool) (d : Reg) (a : Src) (pos : BitVec 6) (len : BitVec 7) : RoundTrip.Statement (.bfx natural d a pos len) := by
  intro hw _ rest
  have := bitOf_lt natural; have := reg_code_lt d; have := src_code_lt a; have := pos.isLt; have := len.isLt
  obtain ⟨h0, h1, h2, h3, h4, h5, h6⟩ := fieldsT 0x0E d.code a.code 0 (bitOf natural) (pos.toNat * 2 ^ 8 + len.toNat) (rest.getD 0 0) (by omega) (by omega) (by decide) (by omega) (by decide)
  show decodeWords (nativeEngine (encT 0x0E d.code a.code 0 (bitOf natural))) ((encT 0x0E d.code a.code 0 (bitOf natural)) :: (pos.toNat * 2 ^ 8 + len.toNat) :: rest) = _
  rw [decode2 _ _ 0x0E rest h0 (by decide) (by decide), body000 _ 0x0E _ h0 (by decide), arm_0E]
  have g1 : fld (⟨encT 0x0E d.code a.code 0 (bitOf natural), pos.toNat * 2 ^ 8 + len.toNat, rest.getD 0 0⟩ : Words).w1 13 8 = pos.toNat := by simp only [fld]; omega
  have g2 : fld (⟨encT 0x0E d.code a.code 0 (bitOf natural), pos.toNat * 2 ^ 8 + len.toNat, rest.getD 0 0⟩ : Words).w1 6 0 = len.toNat := by simp only [fld]; omega
  have g3 : fld (⟨encT 0x0E d.code a.code 0 (bitOf natural), pos.toNat * 2 ^ 8 + len.toNat, rest.getD 0 0⟩ : Words).w1 31 14 + fld (⟨encT 0x0E d.code a.code 0 (bitOf natural), pos.toNat * 2 ^ 8 + len.toNat, rest.getD 0 0⟩ : Words).w1 7 7 = 0 := by simp only [fld]; omega
  simp only [WellFormed] at hw
  generalize (⟨encT 0x0E d.code a.code 0 (bitOf natural), pos.toNat * 2 ^ 8 + len.toNat, rest.getD 0 0⟩ : Words) = w at h1 h2 h3 h4 h5 h6 g1 g2 g3 ⊢
  simp [dec2, zeroF_zero, listed_true, accept_some, h1, h2, h3, h4, h5, h6, g1, g2, g3, hw, regOf_code, srcOf_code, bitOf_one, bitOf_half, bitOf_two, bitOf_le, bits_low, bits_high, bind_ok, -Fin.ofNat_eq_cast, engineFor_ne]

theorem RoundTrip.bfi (d : Reg) (a : Src) (pos : BitVec 6) (len : BitVec 7) : RoundTrip.Statement (.bfi d a pos len) := by
  intro hw _ rest
  have := reg_code_lt d; have := src_code_lt a; have := pos.isLt; have := len.isLt
  obtain ⟨h0, h1, h2, h3, h4, h5, h6⟩ := fieldsT 0x0F d.code a.code 0 0 (pos.toNat * 2 ^ 8 + len.toNat) (rest.getD 0 0) (by omega) (by omega) (by decide) (by decide) (by decide)
  show decodeWords (nativeEngine (encT 0x0F d.code a.code 0 0)) ((encT 0x0F d.code a.code 0 0) :: (pos.toNat * 2 ^ 8 + len.toNat) :: rest) = _
  rw [decode2 _ _ 0x0F rest h0 (by decide) (by decide), body000 _ 0x0F _ h0 (by decide), arm_0F]
  have g1 : fld (⟨encT 0x0F d.code a.code 0 0, pos.toNat * 2 ^ 8 + len.toNat, rest.getD 0 0⟩ : Words).w1 13 8 = pos.toNat := by simp only [fld]; omega
  have g2 : fld (⟨encT 0x0F d.code a.code 0 0, pos.toNat * 2 ^ 8 + len.toNat, rest.getD 0 0⟩ : Words).w1 6 0 = len.toNat := by simp only [fld]; omega
  have g3 : fld (⟨encT 0x0F d.code a.code 0 0, pos.toNat * 2 ^ 8 + len.toNat, rest.getD 0 0⟩ : Words).w1 31 14 + fld (⟨encT 0x0F d.code a.code 0 0, pos.toNat * 2 ^ 8 + len.toNat, rest.getD 0 0⟩ : Words).w1 7 7 = 0 := by simp only [fld]; omega
  simp only [WellFormed] at hw
  generalize (⟨encT 0x0F d.code a.code 0 0, pos.toNat * 2 ^ 8 + len.toNat, rest.getD 0 0⟩ : Words) = w at h1 h2 h3 h4 h5 h6 g1 g2 g3 ⊢
  simp [dec2, zeroF_zero, listed_true, accept_some, h1, h2, h3, h4, h5, h6, g1, g2, g3, hw, regOf_code, srcOf_code, bind_ok, -Fin.ofNat_eq_cast, engineFor_ne]

theorem RoundTrip.li (d : Reg) (imm : BitVec 10) : RoundTrip.Statement (.li d imm) := by
  intro hw _ rest
  have := reg_code_lt d; have := imm.isLt
  obtain ⟨h0, h1, h2, h3, h4, h5⟩ := fieldsI 0x10 d.code 0 imm.toNat (rest.getD 0 0) (rest.getD 1 0) (by omega) (by decide) (by omega) (by decide)
  show decodeWords (nativeEngine (encI 0x10 d.code 0 imm.toNat)) ((encI 0x10 d.code 0 imm.toNat) :: rest) = _
  rw [decode1 _ 0x10 rest h0 (by decide) (by decide), body000 _ 0x10 _ h0 (by decide), arm_10]
  generalize (⟨encI 0x10 d.code 0 imm.toNat, rest.getD 0 0, rest.getD 1 0⟩ : Words) = w at h1 h2 h3 h4 h5 ⊢
  simp [zeroF_zero, accept_some, h1, h2, h3, h4, h5, regOf_code, bind_ok, -Fin.ofNat_eq_cast, engineFor_ne]

theorem RoundTrip.liLit32 (d : Reg) (lit : BitVec 32) : RoundTrip.Statement (.liLit32 d lit) := by
  intro hw _ rest
  have := reg_code_lt d; have := lit.isLt
  obtain ⟨h0, h1, h2, h3, h4, h5⟩ := fieldsI 0x11 d.code 192 0 (lit.toNat) (rest.getD 0 0) (by omega) (by decide) (by decide) (by decide)
  show decodeWords (nativeEngine (encI 0x11 d.code 192 0)) ((encI 0x11 d.code 192 0) :: lit.toNat :: rest) = _
  rw [decode2 _ _ 0x11 rest h0 (by decide) (by decide), body000 _ 0x11 _ h0 (by decide), arm_11]
  have g2 : (⟨encI 0x11 d.code 192 0, lit.toNat, rest.getD 0 0⟩ : Words).w1 = lit.toNat := rfl
  generalize (⟨encI 0x11 d.code 192 0, lit.toNat, rest.getD 0 0⟩ : Words) = w at h1 h2 h3 h4 h5 g2 ⊢
  simp [zeroF_zero, accept_some, h1, h2, h3, h4, h5, g2, regOf_code, bind_ok, -Fin.ofNat_eq_cast, engineFor_ne]

theorem RoundTrip.liCidx (d : Reg) (k : Fin 512) : RoundTrip.Statement (.liCidx d k) := by
  intro hw _ rest
  have := reg_code_lt d; have := k.isLt
  obtain ⟨h0, h1, h2, h3, h4, h5⟩ := fieldsI 0x11 d.code 128 0 (k.val) (rest.getD 0 0) (by omega) (by decide) (by decide) (by decide)
  show decodeWords (nativeEngine (encI 0x11 d.code 128 0)) ((encI 0x11 d.code 128 0) :: k.val :: rest) = _
  rw [decode2 _ _ 0x11 rest h0 (by decide) (by decide), body000 _ 0x11 _ h0 (by decide), arm_11]
  have g1 : fld (⟨encI 0x11 d.code 128 0, k.val, rest.getD 0 0⟩ : Words).w1 31 9 = 0 := by simp only [fld]; omega
  have g2 : Fin.ofNat 512 (⟨encI 0x11 d.code 128 0, k.val, rest.getD 0 0⟩ : Words).w1 = k := by apply Fin.ext; simp only [Fin.ofNat]; omega
  generalize (⟨encI 0x11 d.code 128 0, k.val, rest.getD 0 0⟩ : Words) = w at h1 h2 h3 h4 h5 g1 g2 ⊢
  simp [zeroF_zero, accept_some, h1, h2, h3, h4, h5, g1, g2, regOf_code, bind_ok, -Fin.ofNat_eq_cast, engineFor_ne]

theorem RoundTrip.faddF32 (r : Rnd) (d : Reg) (a : Src) (b : Src) : RoundTrip.Statement (.faddF32 r d a b) := by
  intro hw _ rest
  have := rnd_code_lt r; have := reg_code_lt d; have := src_code_lt a; have := src_code_lt b
  obtain ⟨h0, h1, h2, h3, h4, h5, h6⟩ := fieldsT 0x12 d.code a.code b.code r.code (rest.getD 0 0) (rest.getD 1 0) (by omega) (by omega) (by omega) (by omega) (by decide)
  show decodeWords (nativeEngine (encT 0x12 d.code a.code b.code r.code)) ((encT 0x12 d.code a.code b.code r.code) :: rest) = _
  rw [decode1 _ 0x12 rest h0 (by decide) (by decide), body000 _ 0x12 _ h0 (by decide), arm_12]
  generalize (⟨encT 0x12 d.code a.code b.code r.code, rest.getD 0 0, rest.getD 1 0⟩ : Words) = w at h1 h2 h3 h4 h5 h6 ⊢
  simp [dec3, accept_some, h1, h2, h3, h4, h5, h6, regOf_code, srcOf_code, bind_ok, -Fin.ofNat_eq_cast, engineFor_ne]

theorem RoundTrip.faddF64 (r : Rnd) (d : Reg) (a : Src) (b : Src) : RoundTrip.Statement (.faddF64 r d a b) := by
  intro hw _ rest
  have := rnd_code_lt r; have := reg_code_lt d; have := src_code_lt a; have := src_code_lt b
  obtain ⟨h0, h1, h2, h3, h4, h5, h6⟩ := fieldsT 0x13 d.code a.code b.code r.code (rest.getD 0 0) (rest.getD 1 0) (by omega) (by omega) (by omega) (by omega) (by decide)
  show decodeWords (nativeEngine (encT 0x13 d.code a.code b.code r.code)) ((encT 0x13 d.code a.code b.code r.code) :: rest) = _
  rw [decode1 _ 0x13 rest h0 (by decide) (by decide), body000 _ 0x13 _ h0 (by decide), arm_13]
  generalize (⟨encT 0x13 d.code a.code b.code r.code, rest.getD 0 0, rest.getD 1 0⟩ : Words) = w at h1 h2 h3 h4 h5 h6 ⊢
  simp [dec3, accept_some, h1, h2, h3, h4, h5, h6, regOf_code, srcOf_code, bind_ok, -Fin.ofNat_eq_cast, engineFor_ne]

theorem RoundTrip.fsubF32 (r : Rnd) (d : Reg) (a : Src) (b : Src) : RoundTrip.Statement (.fsubF32 r d a b) := by
  intro hw _ rest
  have := rnd_code_lt r; have := reg_code_lt d; have := src_code_lt a; have := src_code_lt b
  obtain ⟨h0, h1, h2, h3, h4, h5, h6⟩ := fieldsT 0x14 d.code a.code b.code r.code (rest.getD 0 0) (rest.getD 1 0) (by omega) (by omega) (by omega) (by omega) (by decide)
  show decodeWords (nativeEngine (encT 0x14 d.code a.code b.code r.code)) ((encT 0x14 d.code a.code b.code r.code) :: rest) = _
  rw [decode1 _ 0x14 rest h0 (by decide) (by decide), body000 _ 0x14 _ h0 (by decide), arm_14]
  generalize (⟨encT 0x14 d.code a.code b.code r.code, rest.getD 0 0, rest.getD 1 0⟩ : Words) = w at h1 h2 h3 h4 h5 h6 ⊢
  simp [dec3, accept_some, h1, h2, h3, h4, h5, h6, regOf_code, srcOf_code, bind_ok, -Fin.ofNat_eq_cast, engineFor_ne]

theorem RoundTrip.fsubF64 (r : Rnd) (d : Reg) (a : Src) (b : Src) : RoundTrip.Statement (.fsubF64 r d a b) := by
  intro hw _ rest
  have := rnd_code_lt r; have := reg_code_lt d; have := src_code_lt a; have := src_code_lt b
  obtain ⟨h0, h1, h2, h3, h4, h5, h6⟩ := fieldsT 0x15 d.code a.code b.code r.code (rest.getD 0 0) (rest.getD 1 0) (by omega) (by omega) (by omega) (by omega) (by decide)
  show decodeWords (nativeEngine (encT 0x15 d.code a.code b.code r.code)) ((encT 0x15 d.code a.code b.code r.code) :: rest) = _
  rw [decode1 _ 0x15 rest h0 (by decide) (by decide), body000 _ 0x15 _ h0 (by decide), arm_15]
  generalize (⟨encT 0x15 d.code a.code b.code r.code, rest.getD 0 0, rest.getD 1 0⟩ : Words) = w at h1 h2 h3 h4 h5 h6 ⊢
  simp [dec3, accept_some, h1, h2, h3, h4, h5, h6, regOf_code, srcOf_code, bind_ok, -Fin.ofNat_eq_cast, engineFor_ne]

theorem RoundTrip.fmulF32 (r : Rnd) (d : Reg) (a : Src) (b : Src) : RoundTrip.Statement (.fmulF32 r d a b) := by
  intro hw _ rest
  have := rnd_code_lt r; have := reg_code_lt d; have := src_code_lt a; have := src_code_lt b
  obtain ⟨h0, h1, h2, h3, h4, h5, h6⟩ := fieldsT 0x16 d.code a.code b.code r.code (rest.getD 0 0) (rest.getD 1 0) (by omega) (by omega) (by omega) (by omega) (by decide)
  show decodeWords (nativeEngine (encT 0x16 d.code a.code b.code r.code)) ((encT 0x16 d.code a.code b.code r.code) :: rest) = _
  rw [decode1 _ 0x16 rest h0 (by decide) (by decide), body000 _ 0x16 _ h0 (by decide), arm_16]
  generalize (⟨encT 0x16 d.code a.code b.code r.code, rest.getD 0 0, rest.getD 1 0⟩ : Words) = w at h1 h2 h3 h4 h5 h6 ⊢
  simp [dec3, accept_some, h1, h2, h3, h4, h5, h6, regOf_code, srcOf_code, bind_ok, -Fin.ofNat_eq_cast, engineFor_ne]

theorem RoundTrip.fmulF64 (r : Rnd) (d : Reg) (a : Src) (b : Src) : RoundTrip.Statement (.fmulF64 r d a b) := by
  intro hw _ rest
  have := rnd_code_lt r; have := reg_code_lt d; have := src_code_lt a; have := src_code_lt b
  obtain ⟨h0, h1, h2, h3, h4, h5, h6⟩ := fieldsT 0x17 d.code a.code b.code r.code (rest.getD 0 0) (rest.getD 1 0) (by omega) (by omega) (by omega) (by omega) (by decide)
  show decodeWords (nativeEngine (encT 0x17 d.code a.code b.code r.code)) ((encT 0x17 d.code a.code b.code r.code) :: rest) = _
  rw [decode1 _ 0x17 rest h0 (by decide) (by decide), body000 _ 0x17 _ h0 (by decide), arm_17]
  generalize (⟨encT 0x17 d.code a.code b.code r.code, rest.getD 0 0, rest.getD 1 0⟩ : Words) = w at h1 h2 h3 h4 h5 h6 ⊢
  simp [dec3, accept_some, h1, h2, h3, h4, h5, h6, regOf_code, srcOf_code, bind_ok, -Fin.ofNat_eq_cast, engineFor_ne]

theorem RoundTrip.fmaF32 (r : Rnd) (d : Reg) (a : Src) (b : Src) : RoundTrip.Statement (.fmaF32 r d a b) := by
  intro hw _ rest
  have := rnd_code_lt r; have := reg_code_lt d; have := src_code_lt a; have := src_code_lt b
  obtain ⟨h0, h1, h2, h3, h4, h5, h6⟩ := fieldsT 0x18 d.code a.code b.code r.code (rest.getD 0 0) (rest.getD 1 0) (by omega) (by omega) (by omega) (by omega) (by decide)
  show decodeWords (nativeEngine (encT 0x18 d.code a.code b.code r.code)) ((encT 0x18 d.code a.code b.code r.code) :: rest) = _
  rw [decode1 _ 0x18 rest h0 (by decide) (by decide), body000 _ 0x18 _ h0 (by decide), arm_18]
  generalize (⟨encT 0x18 d.code a.code b.code r.code, rest.getD 0 0, rest.getD 1 0⟩ : Words) = w at h1 h2 h3 h4 h5 h6 ⊢
  simp [dec3, accept_some, h1, h2, h3, h4, h5, h6, regOf_code, srcOf_code, bind_ok, -Fin.ofNat_eq_cast, engineFor_ne]

theorem RoundTrip.fmaF64 (r : Rnd) (d : Reg) (a : Src) (b : Src) : RoundTrip.Statement (.fmaF64 r d a b) := by
  intro hw _ rest
  have := rnd_code_lt r; have := reg_code_lt d; have := src_code_lt a; have := src_code_lt b
  obtain ⟨h0, h1, h2, h3, h4, h5, h6⟩ := fieldsT 0x19 d.code a.code b.code r.code (rest.getD 0 0) (rest.getD 1 0) (by omega) (by omega) (by omega) (by omega) (by decide)
  show decodeWords (nativeEngine (encT 0x19 d.code a.code b.code r.code)) ((encT 0x19 d.code a.code b.code r.code) :: rest) = _
  rw [decode1 _ 0x19 rest h0 (by decide) (by decide), body000 _ 0x19 _ h0 (by decide), arm_19]
  generalize (⟨encT 0x19 d.code a.code b.code r.code, rest.getD 0 0, rest.getD 1 0⟩ : Words) = w at h1 h2 h3 h4 h5 h6 ⊢
  simp [dec3, accept_some, h1, h2, h3, h4, h5, h6, regOf_code, srcOf_code, bind_ok, -Fin.ofNat_eq_cast, engineFor_ne]

theorem RoundTrip.fdivF32 (r : Rnd) (d : Reg) (a : Src) (b : Src) : RoundTrip.Statement (.fdivF32 r d a b) := by
  intro hw _ rest
  have := rnd_code_lt r; have := reg_code_lt d; have := src_code_lt a; have := src_code_lt b
  obtain ⟨h0, h1, h2, h3, h4, h5, h6⟩ := fieldsT 0x1A d.code a.code b.code r.code (rest.getD 0 0) (rest.getD 1 0) (by omega) (by omega) (by omega) (by omega) (by decide)
  show decodeWords (nativeEngine (encT 0x1A d.code a.code b.code r.code)) ((encT 0x1A d.code a.code b.code r.code) :: rest) = _
  rw [decode1 _ 0x1A rest h0 (by decide) (by decide), body000 _ 0x1A _ h0 (by decide), arm_1A]
  generalize (⟨encT 0x1A d.code a.code b.code r.code, rest.getD 0 0, rest.getD 1 0⟩ : Words) = w at h1 h2 h3 h4 h5 h6 ⊢
  simp [dec3, accept_some, h1, h2, h3, h4, h5, h6, regOf_code, srcOf_code, bind_ok, -Fin.ofNat_eq_cast, engineFor_ne]

theorem RoundTrip.fdivF64 (r : Rnd) (d : Reg) (a : Src) (b : Src) : RoundTrip.Statement (.fdivF64 r d a b) := by
  intro hw _ rest
  have := rnd_code_lt r; have := reg_code_lt d; have := src_code_lt a; have := src_code_lt b
  obtain ⟨h0, h1, h2, h3, h4, h5, h6⟩ := fieldsT 0x1B d.code a.code b.code r.code (rest.getD 0 0) (rest.getD 1 0) (by omega) (by omega) (by omega) (by omega) (by decide)
  show decodeWords (nativeEngine (encT 0x1B d.code a.code b.code r.code)) ((encT 0x1B d.code a.code b.code r.code) :: rest) = _
  rw [decode1 _ 0x1B rest h0 (by decide) (by decide), body000 _ 0x1B _ h0 (by decide), arm_1B]
  generalize (⟨encT 0x1B d.code a.code b.code r.code, rest.getD 0 0, rest.getD 1 0⟩ : Words) = w at h1 h2 h3 h4 h5 h6 ⊢
  simp [dec3, accept_some, h1, h2, h3, h4, h5, h6, regOf_code, srcOf_code, bind_ok, -Fin.ofNat_eq_cast, engineFor_ne]

theorem RoundTrip.fminF32 (d : Reg) (a : Src) (b : Src) : RoundTrip.Statement (.fminF32 d a b) := by
  intro hw _ rest
  have := reg_code_lt d; have := src_code_lt a; have := src_code_lt b
  obtain ⟨h0, h1, h2, h3, h4, h5, h6⟩ := fieldsT 0x1C d.code a.code b.code 0 (rest.getD 0 0) (rest.getD 1 0) (by omega) (by omega) (by omega) (by decide) (by decide)
  show decodeWords (nativeEngine (encT 0x1C d.code a.code b.code 0)) ((encT 0x1C d.code a.code b.code 0) :: rest) = _
  rw [decode1 _ 0x1C rest h0 (by decide) (by decide), body000 _ 0x1C _ h0 (by decide), arm_1C]
  generalize (⟨encT 0x1C d.code a.code b.code 0, rest.getD 0 0, rest.getD 1 0⟩ : Words) = w at h1 h2 h3 h4 h5 h6 ⊢
  simp [dec3, listed_true, accept_some, h1, h2, h3, h4, h5, h6, regOf_code, srcOf_code, bind_ok, -Fin.ofNat_eq_cast, engineFor_ne]

theorem RoundTrip.fmaxF32 (d : Reg) (a : Src) (b : Src) : RoundTrip.Statement (.fmaxF32 d a b) := by
  intro hw _ rest
  have := reg_code_lt d; have := src_code_lt a; have := src_code_lt b
  obtain ⟨h0, h1, h2, h3, h4, h5, h6⟩ := fieldsT 0x1C d.code a.code b.code 1 (rest.getD 0 0) (rest.getD 1 0) (by omega) (by omega) (by omega) (by decide) (by decide)
  show decodeWords (nativeEngine (encT 0x1C d.code a.code b.code 1)) ((encT 0x1C d.code a.code b.code 1) :: rest) = _
  rw [decode1 _ 0x1C rest h0 (by decide) (by decide), body000 _ 0x1C _ h0 (by decide), arm_1C]
  generalize (⟨encT 0x1C d.code a.code b.code 1, rest.getD 0 0, rest.getD 1 0⟩ : Words) = w at h1 h2 h3 h4 h5 h6 ⊢
  simp [dec3, listed_true, accept_some, h1, h2, h3, h4, h5, h6, regOf_code, srcOf_code, bind_ok, -Fin.ofNat_eq_cast, engineFor_ne]

theorem RoundTrip.fcmpF32 (d : Reg) (a : Src) (b : Src) : RoundTrip.Statement (.fcmpF32 d a b) := by
  intro hw _ rest
  have := reg_code_lt d; have := src_code_lt a; have := src_code_lt b
  obtain ⟨h0, h1, h2, h3, h4, h5, h6⟩ := fieldsT 0x1C d.code a.code b.code 2 (rest.getD 0 0) (rest.getD 1 0) (by omega) (by omega) (by omega) (by decide) (by decide)
  show decodeWords (nativeEngine (encT 0x1C d.code a.code b.code 2)) ((encT 0x1C d.code a.code b.code 2) :: rest) = _
  rw [decode1 _ 0x1C rest h0 (by decide) (by decide), body000 _ 0x1C _ h0 (by decide), arm_1C]
  generalize (⟨encT 0x1C d.code a.code b.code 2, rest.getD 0 0, rest.getD 1 0⟩ : Words) = w at h1 h2 h3 h4 h5 h6 ⊢
  simp [dec3, listed_true, accept_some, h1, h2, h3, h4, h5, h6, regOf_code, srcOf_code, bind_ok, -Fin.ofNat_eq_cast, engineFor_ne]

theorem RoundTrip.fminF64 (d : Reg) (a : Src) (b : Src) : RoundTrip.Statement (.fminF64 d a b) := by
  intro hw _ rest
  have := reg_code_lt d; have := src_code_lt a; have := src_code_lt b
  obtain ⟨h0, h1, h2, h3, h4, h5, h6⟩ := fieldsT 0x1D d.code a.code b.code 0 (rest.getD 0 0) (rest.getD 1 0) (by omega) (by omega) (by omega) (by decide) (by decide)
  show decodeWords (nativeEngine (encT 0x1D d.code a.code b.code 0)) ((encT 0x1D d.code a.code b.code 0) :: rest) = _
  rw [decode1 _ 0x1D rest h0 (by decide) (by decide), body000 _ 0x1D _ h0 (by decide), arm_1D]
  generalize (⟨encT 0x1D d.code a.code b.code 0, rest.getD 0 0, rest.getD 1 0⟩ : Words) = w at h1 h2 h3 h4 h5 h6 ⊢
  simp [dec3, listed_true, accept_some, h1, h2, h3, h4, h5, h6, regOf_code, srcOf_code, bind_ok, -Fin.ofNat_eq_cast, engineFor_ne]

theorem RoundTrip.fmaxF64 (d : Reg) (a : Src) (b : Src) : RoundTrip.Statement (.fmaxF64 d a b) := by
  intro hw _ rest
  have := reg_code_lt d; have := src_code_lt a; have := src_code_lt b
  obtain ⟨h0, h1, h2, h3, h4, h5, h6⟩ := fieldsT 0x1D d.code a.code b.code 1 (rest.getD 0 0) (rest.getD 1 0) (by omega) (by omega) (by omega) (by decide) (by decide)
  show decodeWords (nativeEngine (encT 0x1D d.code a.code b.code 1)) ((encT 0x1D d.code a.code b.code 1) :: rest) = _
  rw [decode1 _ 0x1D rest h0 (by decide) (by decide), body000 _ 0x1D _ h0 (by decide), arm_1D]
  generalize (⟨encT 0x1D d.code a.code b.code 1, rest.getD 0 0, rest.getD 1 0⟩ : Words) = w at h1 h2 h3 h4 h5 h6 ⊢
  simp [dec3, listed_true, accept_some, h1, h2, h3, h4, h5, h6, regOf_code, srcOf_code, bind_ok, -Fin.ofNat_eq_cast, engineFor_ne]

theorem RoundTrip.fcmpF64 (d : Reg) (a : Src) (b : Src) : RoundTrip.Statement (.fcmpF64 d a b) := by
  intro hw _ rest
  have := reg_code_lt d; have := src_code_lt a; have := src_code_lt b
  obtain ⟨h0, h1, h2, h3, h4, h5, h6⟩ := fieldsT 0x1D d.code a.code b.code 2 (rest.getD 0 0) (rest.getD 1 0) (by omega) (by omega) (by omega) (by decide) (by decide)
  show decodeWords (nativeEngine (encT 0x1D d.code a.code b.code 2)) ((encT 0x1D d.code a.code b.code 2) :: rest) = _
  rw [decode1 _ 0x1D rest h0 (by decide) (by decide), body000 _ 0x1D _ h0 (by decide), arm_1D]
  generalize (⟨encT 0x1D d.code a.code b.code 2, rest.getD 0 0, rest.getD 1 0⟩ : Words) = w at h1 h2 h3 h4 h5 h6 ⊢
  simp [dec3, listed_true, accept_some, h1, h2, h3, h4, h5, h6, regOf_code, srcOf_code, bind_ok, -Fin.ofNat_eq_cast, engineFor_ne]

theorem RoundTrip.fsqrt (t : FTy) (r : Rnd) (d : Reg) (a : Src) : RoundTrip.Statement (.fsqrt t r d a) := by
  cases t
  · intro hw _ rest
    have := rnd_code_lt r; have := reg_code_lt d; have := src_code_lt a
    obtain ⟨h0, h1, h2, h3, h4, h5, h6⟩ := fieldsT 0x1E d.code a.code 10 r.code (rest.getD 0 0) (rest.getD 1 0) (by omega) (by omega) (by decide) (by omega) (by decide)
    show decodeWords (nativeEngine (encT 0x1E d.code a.code 10 r.code)) ((encT 0x1E d.code a.code 10 r.code) :: rest) = _
    rw [decode1 _ 0x1E rest h0 (by decide) (by decide), body000 _ 0x1E _ h0 (by decide), arm_1E]
    generalize (⟨encT 0x1E d.code a.code 10 r.code, rest.getD 0 0, rest.getD 1 0⟩ : Words) = w at h1 h2 h3 h4 h5 h6 ⊢
    simp [dec2, zeroF_zero, listed_true, accept_some, h1, h2, h3, h4, h5, h6, regOf_code, srcOf_code, bind_ok, -Fin.ofNat_eq_cast, engineFor_ne]
  · intro hw _ rest
    have := rnd_code_lt r; have := reg_code_lt d; have := src_code_lt a
    obtain ⟨h0, h1, h2, h3, h4, h5, h6⟩ := fieldsT 0x1E d.code a.code 11 r.code (rest.getD 0 0) (rest.getD 1 0) (by omega) (by omega) (by decide) (by omega) (by decide)
    show decodeWords (nativeEngine (encT 0x1E d.code a.code 11 r.code)) ((encT 0x1E d.code a.code 11 r.code) :: rest) = _
    rw [decode1 _ 0x1E rest h0 (by decide) (by decide), body000 _ 0x1E _ h0 (by decide), arm_1E]
    generalize (⟨encT 0x1E d.code a.code 11 r.code, rest.getD 0 0, rest.getD 1 0⟩ : Words) = w at h1 h2 h3 h4 h5 h6 ⊢
    simp [dec2, zeroF_zero, listed_true, accept_some, h1, h2, h3, h4, h5, h6, regOf_code, srcOf_code, bind_ok, -Fin.ofNat_eq_cast, engineFor_ne]

theorem RoundTrip.fcvt (dst : ETy) (src : ETy) (r : Rnd) (d : Reg) (a : Src) : RoundTrip.Statement (.fcvt dst src r d a) := by
  intro hw _ rest
  have := ety_enc_lt dst; have := ety_enc_lt src; have := rnd_code_lt r; have := reg_code_lt d; have := src_code_lt a
  obtain ⟨h0, h1, h2, h3, h4, h5, h6⟩ := fieldsT 0x1F d.code a.code (dst.enc * 16 + src.enc) r.code (rest.getD 0 0) (rest.getD 1 0) (by omega) (by omega) (by omega) (by omega) (by decide)
  show decodeWords (nativeEngine (encT 0x1F d.code a.code (dst.enc * 16 + src.enc) r.code)) ((encT 0x1F d.code a.code (dst.enc * 16 + src.enc) r.code) :: rest) = _
  rw [decode1 _ 0x1F rest h0 (by decide) (by decide), body000 _ 0x1F _ h0 (by decide), arm_1F]
  have g1 : (dst.enc * 16 + src.enc) / 64 * 4 + (dst.enc * 16 + src.enc) % 64 / 16 = dst.enc := by omega
  have g2 : (dst.enc * 16 + src.enc) % 64 % 16 = src.enc := by omega
  generalize (⟨encT 0x1F d.code a.code (dst.enc * 16 + src.enc) r.code, rest.getD 0 0, rest.getD 1 0⟩ : Words) = w at h1 h2 h3 h4 h5 h6 ⊢
  simp [dec2, accept_some, h1, h2, h3, h4, h5, h6, g1, g2, -Nat.mod_mod_of_dvd, -Nat.mod_mul_left_mod, -Nat.mul_add_mod_self_right, -Nat.mul_add_mod_self_left, regOf_code, srcOf_code, bind_ok, -Fin.ofNat_eq_cast, engineFor_ne]

theorem RoundTrip.nop (d : Reg) (csr : BitVec 12) : RoundTrip.Statement (.nop d csr) := by
  intro hw _ rest
  have := reg_code_lt d; have := csr.isLt
  obtain ⟨h0, h1, h2, h3⟩ := fieldsS 0x20 d.code csr.toNat (rest.getD 0 0) (rest.getD 1 0) (by omega) (by omega) (by decide)
  show decodeWords (nativeEngine (encS 0x20 d.code csr.toNat)) ((encS 0x20 d.code csr.toNat) :: rest) = _
  rw [decode1 _ 0x20 rest h0 (by decide) (by decide), body001 _ 0x20 _ h0 (by decide) (by decide), arm_20]
  generalize (⟨encS 0x20 d.code csr.toNat, rest.getD 0 0, rest.getD 1 0⟩ : Words) = w at h1 h2 h3 ⊢
  simp [zeroF_zero, accept_some, h1, h2, h3, regOf_code, bind_ok, -Fin.ofNat_eq_cast, engineFor_ne]

theorem RoundTrip.br (off : BitVec 15) : RoundTrip.Statement (.br off) := by
  intro hw _ rest
  have := off.isLt
  obtain ⟨h0, h1, h2, h3⟩ := fieldsB 0x21 0 0 off.toNat (rest.getD 0 0) (rest.getD 1 0) (by decide) (by decide) (by omega) (by decide)
  show decodeWords (nativeEngine (encB 0x21 0 0 off.toNat)) ((encB 0x21 0 0 off.toNat) :: rest) = _
  rw [decode1 _ 0x21 rest h0 (by decide) (by decide), body001 _ 0x21 _ h0 (by decide) (by decide), arm_21]
  generalize (⟨encB 0x21 0 0 off.toNat, rest.getD 0 0, rest.getD 1 0⟩ : Words) = w at h1 h2 h3 ⊢
  simp [zeroF_zero, h1, h2, h3, bind_ok, -Fin.ofNat_eq_cast, engineFor_ne]

theorem RoundTrip.brFar (off : BitVec 32) : RoundTrip.Statement (.brFar off) := by
  intro hw _ rest
  have := off.isLt
  obtain ⟨h0, h1, h2, h3⟩ := fieldsB 0x22 0 0 0 (off.toNat) (rest.getD 0 0) (by decide) (by decide) (by decide) (by decide)
  show decodeWords (nativeEngine (encB 0x22 0 0 0)) ((encB 0x22 0 0 0) :: off.toNat :: rest) = _
  rw [decode2 _ _ 0x22 rest h0 (by decide) (by decide), body001 _ 0x22 _ h0 (by decide) (by decide), arm_22]
  have g2 : (⟨encB 0x22 0 0 0, off.toNat, rest.getD 0 0⟩ : Words).w1 = off.toNat := rfl
  generalize (⟨encB 0x22 0 0 0, off.toNat, rest.getD 0 0⟩ : Words) = w at h1 h2 h3 g2 ⊢
  simp [zeroF_zero, h1, h2, h3, g2, bind_ok, -Fin.ofNat_eq_cast, engineFor_ne]

theorem RoundTrip.bz (t : ITy) (lk : Bool) (c : Reg) (off : BitVec 15) : RoundTrip.Statement (.bz t lk c off) := by
  intro hw _ rest
  have := ity_code_lt t; have := bitOf_lt lk; have := reg_code_lt c; have := off.isLt
  have := encCond_lt t lk
  obtain ⟨h0, h1, h2, h3⟩ := fieldsB 0x23 c.code (encCond t lk) off.toNat (rest.getD 0 0) (rest.getD 1 0) (by omega) (by omega) (by omega) (by decide)
  show decodeWords (nativeEngine (encB 0x23 c.code (encCond t lk) off.toNat)) ((encB 0x23 c.code (encCond t lk) off.toNat) :: rest) = _
  rw [decode1 _ 0x23 rest h0 (by decide) (by decide), body001 _ 0x23 _ h0 (by decide) (by decide), arm_23]
  generalize (⟨encB 0x23 c.code (encCond t lk) off.toNat, rest.getD 0 0, rest.getD 1 0⟩ : Words) = w at h1 h2 h3 ⊢
  simp [decBranch, accept_some, h1, h2, h3, regOf_code, encCond_mod, encCond_hint, bind_ok, -Fin.ofNat_eq_cast, engineFor_ne]

theorem RoundTrip.bnz (t : ITy) (lk : Bool) (c : Reg) (off : BitVec 15) : RoundTrip.Statement (.bnz t lk c off) := by
  intro hw _ rest
  have := ity_code_lt t; have := bitOf_lt lk; have := reg_code_lt c; have := off.isLt
  have := encCond_lt t lk
  obtain ⟨h0, h1, h2, h3⟩ := fieldsB 0x24 c.code (encCond t lk) off.toNat (rest.getD 0 0) (rest.getD 1 0) (by omega) (by omega) (by omega) (by decide)
  show decodeWords (nativeEngine (encB 0x24 c.code (encCond t lk) off.toNat)) ((encB 0x24 c.code (encCond t lk) off.toNat) :: rest) = _
  rw [decode1 _ 0x24 rest h0 (by decide) (by decide), body001 _ 0x24 _ h0 (by decide) (by decide), arm_24]
  generalize (⟨encB 0x24 c.code (encCond t lk) off.toNat, rest.getD 0 0, rest.getD 1 0⟩ : Words) = w at h1 h2 h3 ⊢
  simp [decBranch, accept_some, h1, h2, h3, regOf_code, encCond_mod, encCond_hint, bind_ok, -Fin.ofNat_eq_cast, engineFor_ne]

theorem RoundTrip.beq (t : ITy) (lk : Bool) (c : Reg) (off : BitVec 15) (y : Src) : RoundTrip.Statement (.beq t lk c off y) := by
  intro hw _ rest
  have := ity_code_lt t; have := bitOf_lt lk; have := reg_code_lt c; have := off.isLt; have := src_code_lt y
  have := encCond_lt t lk
  obtain ⟨h0, h1, h2, h3⟩ := fieldsB 0x25 c.code (encCond t lk) off.toNat (encOpnd y) (rest.getD 0 0) (by omega) (by omega) (by omega) (by decide)
  show decodeWords (nativeEngine (encB 0x25 c.code (encCond t lk) off.toNat)) ((encB 0x25 c.code (encCond t lk) off.toNat) :: (encOpnd y) :: rest) = _
  rw [decode2 _ _ 0x25 rest h0 (by decide) (by decide), body001 _ 0x25 _ h0 (by decide) (by decide), arm_25]
  obtain ⟨g1, g2, g3⟩ := opnd_fields (encB 0x25 c.code (encCond t lk) off.toNat) (rest.getD 0 0) y
  generalize (⟨encB 0x25 c.code (encCond t lk) off.toNat, encOpnd y, rest.getD 0 0⟩ : Words) = w at h1 h2 h3 g1 g2 g3 ⊢
  simp [decBranchX, zeroF_zero, accept_some, opndExt, h1, h2, h3, g1, g2, g3, regOf_code, srcOf_code, encCond_mod, encCond_hint, bind_ok, -Fin.ofNat_eq_cast, engineFor_ne]

theorem RoundTrip.bne (t : ITy) (lk : Bool) (c : Reg) (off : BitVec 15) (y : Src) : RoundTrip.Statement (.bne t lk c off y) := by
  intro hw _ rest
  have := ity_code_lt t; have := bitOf_lt lk; have := reg_code_lt c; have := off.isLt; have := src_code_lt y
  have := encCond_lt t lk
  obtain ⟨h0, h1, h2, h3⟩ := fieldsB 0x26 c.code (encCond t lk) off.toNat (encOpnd y) (rest.getD 0 0) (by omega) (by omega) (by omega) (by decide)
  show decodeWords (nativeEngine (encB 0x26 c.code (encCond t lk) off.toNat)) ((encB 0x26 c.code (encCond t lk) off.toNat) :: (encOpnd y) :: rest) = _
  rw [decode2 _ _ 0x26 rest h0 (by decide) (by decide), body001 _ 0x26 _ h0 (by decide) (by decide), arm_26]
  obtain ⟨g1, g2, g3⟩ := opnd_fields (encB 0x26 c.code (encCond t lk) off.toNat) (rest.getD 0 0) y
  generalize (⟨encB 0x26 c.code (encCond t lk) off.toNat, encOpnd y, rest.getD 0 0⟩ : Words) = w at h1 h2 h3 g1 g2 g3 ⊢
  simp [decBranchX, zeroF_zero, accept_some, opndExt, h1, h2, h3, g1, g2, g3, regOf_code, srcOf_code, encCond_mod, encCond_hint, bind_ok, -Fin.ofNat_eq_cast, engineFor_ne]

theorem RoundTrip.blt (t : ITy) (lk : Bool) (c : Reg) (off : BitVec 15) (y : Src) : RoundTrip.Statement (.blt t lk c off y) := by
  intro hw _ rest
  have := ity_code_lt t; have := bitOf_lt lk; have := reg_code_lt c; have := off.isLt; have := src_code_lt y
  have := encCond_lt t lk
  obtain ⟨h0, h1, h2, h3⟩ := fieldsB 0x27 c.code (encCond t lk) off.toNat (encOpnd y) (rest.getD 0 0) (by omega) (by omega) (by omega) (by decide)
  show decodeWords (nativeEngine (encB 0x27 c.code (encCond t lk) off.toNat)) ((encB 0x27 c.code (encCond t lk) off.toNat) :: (encOpnd y) :: rest) = _
  rw [decode2 _ _ 0x27 rest h0 (by decide) (by decide), body001 _ 0x27 _ h0 (by decide) (by decide), arm_27]
  obtain ⟨g1, g2, g3⟩ := opnd_fields (encB 0x27 c.code (encCond t lk) off.toNat) (rest.getD 0 0) y
  generalize (⟨encB 0x27 c.code (encCond t lk) off.toNat, encOpnd y, rest.getD 0 0⟩ : Words) = w at h1 h2 h3 g1 g2 g3 ⊢
  simp [decBranchX, zeroF_zero, accept_some, opndExt, h1, h2, h3, g1, g2, g3, regOf_code, srcOf_code, encCond_mod, encCond_hint, bind_ok, -Fin.ofNat_eq_cast, engineFor_ne]

theorem RoundTrip.bge (t : ITy) (lk : Bool) (c : Reg) (off : BitVec 15) (y : Src) : RoundTrip.Statement (.bge t lk c off y) := by
  intro hw _ rest
  have := ity_code_lt t; have := bitOf_lt lk; have := reg_code_lt c; have := off.isLt; have := src_code_lt y
  have := encCond_lt t lk
  obtain ⟨h0, h1, h2, h3⟩ := fieldsB 0x28 c.code (encCond t lk) off.toNat (encOpnd y) (rest.getD 0 0) (by omega) (by omega) (by omega) (by decide)
  show decodeWords (nativeEngine (encB 0x28 c.code (encCond t lk) off.toNat)) ((encB 0x28 c.code (encCond t lk) off.toNat) :: (encOpnd y) :: rest) = _
  rw [decode2 _ _ 0x28 rest h0 (by decide) (by decide), body001 _ 0x28 _ h0 (by decide) (by decide), arm_28]
  obtain ⟨g1, g2, g3⟩ := opnd_fields (encB 0x28 c.code (encCond t lk) off.toNat) (rest.getD 0 0) y
  generalize (⟨encB 0x28 c.code (encCond t lk) off.toNat, encOpnd y, rest.getD 0 0⟩ : Words) = w at h1 h2 h3 g1 g2 g3 ⊢
  simp [decBranchX, zeroF_zero, accept_some, opndExt, h1, h2, h3, g1, g2, g3, regOf_code, srcOf_code, encCond_mod, encCond_hint, bind_ok, -Fin.ofNat_eq_cast, engineFor_ne]

theorem RoundTrip.call (f : Nat) (off : BitVec 15) : RoundTrip.Statement (.call f off) := by
  intro hw _ rest
  have := off.isLt
  have hf : f < 64 := by simp only [WellFormed, frameOk] at hw; simp at hw; omega
  obtain ⟨h0, h1, h2, h3⟩ := fieldsB 0x29 f 0 off.toNat (rest.getD 0 0) (rest.getD 1 0) (by omega) (by decide) (by omega) (by decide)
  show decodeWords (nativeEngine (encB 0x29 f 0 off.toNat)) ((encB 0x29 f 0 off.toNat) :: rest) = _
  rw [decode1 _ 0x29 rest h0 (by decide) (by decide), body001 _ 0x29 _ h0 (by decide) (by decide), arm_29]
  simp only [WellFormed] at hw
  generalize (⟨encB 0x29 f 0 off.toNat, rest.getD 0 0, rest.getD 1 0⟩ : Words) = w at h1 h2 h3 ⊢
  simp [zeroF_zero, listed_true, h1, h2, h3, hw, bind_ok, -Fin.ofNat_eq_cast, engineFor_ne]

theorem RoundTrip.callFar (off : BitVec 32) : RoundTrip.Statement (.callFar off) := by
  intro hw _ rest
  have := off.isLt
  obtain ⟨h0, h1, h2, h3⟩ := fieldsB 0x2A 0 0 0 (off.toNat) (rest.getD 0 0) (by decide) (by decide) (by decide) (by decide)
  show decodeWords (nativeEngine (encB 0x2A 0 0 0)) ((encB 0x2A 0 0 0) :: off.toNat :: rest) = _
  rw [decode2 _ _ 0x2A rest h0 (by decide) (by decide), body001 _ 0x2A _ h0 (by decide) (by decide), arm_2A]
  have g2 : (⟨encB 0x2A 0 0 0, off.toNat, rest.getD 0 0⟩ : Words).w1 = off.toNat := rfl
  generalize (⟨encB 0x2A 0 0 0, off.toNat, rest.getD 0 0⟩ : Words) = w at h1 h2 h3 g2 ⊢
  simp [zeroF_zero, h1, h2, h3, g2, bind_ok, -Fin.ofNat_eq_cast, engineFor_ne]

theorem RoundTrip.callx (f : Nat) (a : RcSrc) : RoundTrip.Statement (.callx f a) := by
  intro hw _ rest
  have := rc_code_lt a
  have hf : f < 64 := by simp only [WellFormed, frameOk] at hw; simp at hw; omega
  obtain ⟨h0, h1, h2, h3, h4, h5, h6⟩ := fieldsT 0x2B f a.code 0 0 (rest.getD 0 0) (rest.getD 1 0) (by omega) (by omega) (by decide) (by decide) (by decide)
  show decodeWords (nativeEngine (encT 0x2B f a.code 0 0)) ((encT 0x2B f a.code 0 0) :: rest) = _
  rw [decode1 _ 0x2B rest h0 (by decide) (by decide), body001 _ 0x2B _ h0 (by decide) (by decide), arm_2B]
  simp only [WellFormed] at hw
  generalize (⟨encT 0x2B f a.code 0 0, rest.getD 0 0, rest.getD 1 0⟩ : Words) = w at h1 h2 h3 h4 h5 h6 ⊢
  simp [zeroF_zero, listed_true, accept_some, h1, h2, h3, h4, h5, h6, hw, rcOf_code, bind_ok, -Fin.ofNat_eq_cast, engineFor_ne]

theorem RoundTrip.ret : RoundTrip.Statement (.ret) := by
  intro hw _ rest
  obtain ⟨h0, h1, h2, h3⟩ := fieldsS 0x2C 0 0 (rest.getD 0 0) (rest.getD 1 0) (by decide) (by decide) (by decide)
  show decodeWords (nativeEngine (encS 0x2C 0 0)) ((encS 0x2C 0 0) :: rest) = _
  rw [decode1 _ 0x2C rest h0 (by decide) (by decide), body001 _ 0x2C _ h0 (by decide) (by decide), arm_2C]
  generalize (⟨encS 0x2C 0 0, rest.getD 0 0, rest.getD 1 0⟩ : Words) = w at h1 h2 h3 ⊢
  simp [decS0, zeroF_zero, h1, h2, h3, bind_ok, -Fin.ofNat_eq_cast, engineFor_ne]

theorem RoundTrip.loop (c : Reg) (off : BitVec 15) : RoundTrip.Statement (.loop c off) := by
  intro hw _ rest
  have := reg_code_lt c; have := off.isLt
  obtain ⟨h0, h1, h2, h3⟩ := fieldsB 0x2D c.code 0 off.toNat (rest.getD 0 0) (rest.getD 1 0) (by omega) (by decide) (by omega) (by decide)
  show decodeWords (nativeEngine (encB 0x2D c.code 0 off.toNat)) ((encB 0x2D c.code 0 off.toNat) :: rest) = _
  rw [decode1 _ 0x2D rest h0 (by decide) (by decide), body001 _ 0x2D _ h0 (by decide) (by decide), arm_2D]
  simp only [WellFormed] at hw
  generalize (⟨encB 0x2D c.code 0 off.toNat, rest.getD 0 0, rest.getD 1 0⟩ : Words) = w at h1 h2 h3 ⊢
  simp [zeroF_zero, listed_true, accept_some, h1, h2, h3, BitVec.ofNat_toNat, BitVec.setWidth_eq, hw, regOf_code, bind_ok, -Fin.ofNat_eq_cast, engineFor_ne]

theorem RoundTrip.lfor (t : ITy) (c : Reg) (off : BitVec 15) (l : Src) (st : Src) : RoundTrip.Statement (.lfor t c off l st) := by
  intro hw _ rest
  have := ity_code_lt t; have := reg_code_lt c; have := off.isLt; have := src_code_lt l; have := src_code_lt st
  obtain ⟨h0, h1, h2, h3⟩ := fieldsB 0x2E c.code t.code off.toNat (l.code * 2 ^ 24 + st.code * 2 ^ 16) (rest.getD 0 0) (by omega) (by omega) (by omega) (by decide)
  show decodeWords (nativeEngine (encB 0x2E c.code t.code off.toNat)) ((encB 0x2E c.code t.code off.toNat) :: (l.code * 2 ^ 24 + st.code * 2 ^ 16) :: rest) = _
  rw [decode2 _ _ 0x2E rest h0 (by decide) (by decide), body001 _ 0x2E _ h0 (by decide) (by decide), arm_2E]
  have g1 : fld (⟨encB 0x2E c.code t.code off.toNat, l.code * 2 ^ 24 + st.code * 2 ^ 16, rest.getD 0 0⟩ : Words).w1 31 30 = l.code / 64 := by simp only [fld]; omega
  have g2 : fld (⟨encB 0x2E c.code t.code off.toNat, l.code * 2 ^ 24 + st.code * 2 ^ 16, rest.getD 0 0⟩ : Words).w1 29 24 = l.code % 64 := by simp only [fld]; omega
  have g3 : fld (⟨encB 0x2E c.code t.code off.toNat, l.code * 2 ^ 24 + st.code * 2 ^ 16, rest.getD 0 0⟩ : Words).w1 23 22 = st.code / 64 := by simp only [fld]; omega
  have g4 : fld (⟨encB 0x2E c.code t.code off.toNat, l.code * 2 ^ 24 + st.code * 2 ^ 16, rest.getD 0 0⟩ : Words).w1 21 16 = st.code % 64 := by simp only [fld]; omega
  have g5 : fld (⟨encB 0x2E c.code t.code off.toNat, l.code * 2 ^ 24 + st.code * 2 ^ 16, rest.getD 0 0⟩ : Words).w1 15 0 = 0 := by simp only [fld]; omega
  have g6 : t.code / 4 = 0 := by omega
  have g7 : t.code % 4 = t.code := by omega
  simp only [WellFormed] at hw
  generalize (⟨encB 0x2E c.code t.code off.toNat, l.code * 2 ^ 24 + st.code * 2 ^ 16, rest.getD 0 0⟩ : Words) = w at h1 h2 h3 g1 g2 g3 g4 g5 ⊢
  simp [opndExt, zeroF_zero, listed_true, accept_some, h1, h2, h3, g1, g2, g3, g4, g5, g6, g7, hw, regOf_code, srcOf_code, bind_ok, -Fin.ofNat_eq_cast, engineFor_ne]

theorem RoundTrip.lend : RoundTrip.Statement (.lend) := by
  intro hw _ rest
  obtain ⟨h0, h1, h2, h3⟩ := fieldsS 0x2F 0 0 (rest.getD 0 0) (rest.getD 1 0) (by decide) (by decide) (by decide)
  show decodeWords (nativeEngine (encS 0x2F 0 0)) ((encS 0x2F 0 0) :: rest) = _
  rw [decode1 _ 0x2F rest h0 (by decide) (by decide), body001 _ 0x2F _ h0 (by decide) (by decide), arm_2F]
  generalize (⟨encS 0x2F 0 0, rest.getD 0 0, rest.getD 1 0⟩ : Words) = w at h1 h2 h3 ⊢
  simp [decS0, zeroF_zero, h1, h2, h3, bind_ok, -Fin.ofNat_eq_cast, engineFor_ne]

theorem RoundTrip.park (d : Reg) (a : Src) : RoundTrip.Statement (.park d a) := by
  intro hw _ rest
  have := reg_code_lt d; have := src_code_lt a
  obtain ⟨h0, h1, h2, h3, h4, h5, h6⟩ := fieldsT 0x30 d.code a.code 0 0 (rest.getD 0 0) (rest.getD 1 0) (by omega) (by omega) (by decide) (by decide) (by decide)
  show decodeWords (nativeEngine (encT 0x30 d.code a.code 0 0)) ((encT 0x30 d.code a.code 0 0) :: rest) = _
  rw [decode1 _ 0x30 rest h0 (by decide) (by decide), body001 _ 0x30 _ h0 (by decide) (by decide), arm_30]
  generalize (⟨encT 0x30 d.code a.code 0 0, rest.getD 0 0, rest.getD 1 0⟩ : Words) = w at h1 h2 h3 h4 h5 h6 ⊢
  simp [dec2, zeroF_zero, accept_some, h1, h2, h3, h4, h5, h6, regOf_code, srcOf_code, bind_ok, -Fin.ofNat_eq_cast, engineFor_ne]

theorem RoundTrip.yield : RoundTrip.Statement (.yield) := by
  intro hw _ rest
  obtain ⟨h0, h1, h2, h3⟩ := fieldsS 0x31 0 0 (rest.getD 0 0) (rest.getD 1 0) (by decide) (by decide) (by decide)
  show decodeWords (nativeEngine (encS 0x31 0 0)) ((encS 0x31 0 0) :: rest) = _
  rw [decode1 _ 0x31 rest h0 (by decide) (by decide), body001 _ 0x31 _ h0 (by decide) (by decide), arm_31]
  generalize (⟨encS 0x31 0 0, rest.getD 0 0, rest.getD 1 0⟩ : Words) = w at h1 h2 h3 ⊢
  simp [decS0, zeroF_zero, h1, h2, h3, bind_ok, -Fin.ofNat_eq_cast, engineFor_ne]

theorem RoundTrip.trap (a : Src) (imm : BitVec 10) : RoundTrip.Statement (.trap a imm) := by
  intro hw _ rest
  have := src_code_lt a; have := imm.isLt
  obtain ⟨h0, h1, h2, h3, h4, h5⟩ := fieldsI 0x32 0 a.code imm.toNat (rest.getD 0 0) (rest.getD 1 0) (by decide) (by omega) (by omega) (by decide)
  show decodeWords (nativeEngine (encI 0x32 0 a.code imm.toNat)) ((encI 0x32 0 a.code imm.toNat) :: rest) = _
  rw [decode1 _ 0x32 rest h0 (by decide) (by decide), body001 _ 0x32 _ h0 (by decide) (by decide), arm_32]
  generalize (⟨encI 0x32 0 a.code imm.toNat, rest.getD 0 0, rest.getD 1 0⟩ : Words) = w at h1 h2 h3 h4 h5 ⊢
  simp [zeroF_zero, accept_some, h1, h2, h3, h4, h5, srcOf_code, bind_ok, -Fin.ofNat_eq_cast, engineFor_ne]

theorem RoundTrip.eret : RoundTrip.Statement (.eret) := by
  intro hw _ rest
  obtain ⟨h0, h1, h2, h3⟩ := fieldsS 0x33 0 0 (rest.getD 0 0) (rest.getD 1 0) (by decide) (by decide) (by decide)
  show decodeWords (nativeEngine (encS 0x33 0 0)) ((encS 0x33 0 0) :: rest) = _
  rw [decode1 _ 0x33 rest h0 (by decide) (by decide), body001 _ 0x33 _ h0 (by decide) (by decide), arm_33]
  generalize (⟨encS 0x33 0 0, rest.getD 0 0, rest.getD 1 0⟩ : Words) = w at h1 h2 h3 ⊢
  simp [decS0, zeroF_zero, h1, h2, h3, bind_ok, -Fin.ofNat_eq_cast, engineFor_ne]

theorem RoundTrip.bkpt (imm : BitVec 10) : RoundTrip.Statement (.bkpt imm) := by
  intro hw _ rest
  have := imm.isLt
  obtain ⟨h0, h1, h2, h3, h4, h5⟩ := fieldsI 0x34 0 0 imm.toNat (rest.getD 0 0) (rest.getD 1 0) (by decide) (by decide) (by omega) (by decide)
  show decodeWords (nativeEngine (encI 0x34 0 0 imm.toNat)) ((encI 0x34 0 0 imm.toNat) :: rest) = _
  rw [decode1 _ 0x34 rest h0 (by decide) (by decide), body001 _ 0x34 _ h0 (by decide) (by decide), arm_34]
  generalize (⟨encI 0x34 0 0 imm.toNat, rest.getD 0 0, rest.getD 1 0⟩ : Words) = w at h1 h2 h3 h4 h5 ⊢
  simp [zeroF_zero, h1, h2, h3, h4, h5, bind_ok, -Fin.ofNat_eq_cast, engineFor_ne]

theorem RoundTrip.ldbI8 (d : Reg) (b : Reg) (o : BitVec 12) : RoundTrip.Statement (.ldbI8 d b o) := by
  intro hw _ rest
  have := reg_code_lt d; have := reg_code_lt b; have := o.isLt
  obtain ⟨h0, h1, h2, h3⟩ := fieldsM 0x41 d.code b.code o.toNat (rest.getD 0 0) (rest.getD 1 0) (by omega) (by omega) (by omega) (by decide)
  show decodeWords (nativeEngine (encM 0x41 d.code b.code o.toNat)) ((encM 0x41 d.code b.code o.toNat) :: rest) = _
  rw [decode1 _ 0x41 rest h0 (by decide) (by decide), body010 _ 0x41 _ h0 (by decide) (by decide), arm_41]
  generalize (⟨encM 0x41 d.code b.code o.toNat, rest.getD 0 0, rest.getD 1 0⟩ : Words) = w at h1 h2 h3 ⊢
  simp [decM, accept_some, h1, h2, h3, regOf_code, bind_ok, -Fin.ofNat_eq_cast, engineFor_ne]

theorem RoundTrip.ldbN8 (d : Reg) (b : Reg) (o : BitVec 12) : RoundTrip.Statement (.ldbN8 d b o) := by
  intro hw _ rest
  have := reg_code_lt d; have := reg_code_lt b; have := o.isLt
  obtain ⟨h0, h1, h2, h3⟩ := fieldsM 0x42 d.code b.code o.toNat (rest.getD 0 0) (rest.getD 1 0) (by omega) (by omega) (by omega) (by decide)
  show decodeWords (nativeEngine (encM 0x42 d.code b.code o.toNat)) ((encM 0x42 d.code b.code o.toNat) :: rest) = _
  rw [decode1 _ 0x42 rest h0 (by decide) (by decide), body010 _ 0x42 _ h0 (by decide) (by decide), arm_42]
  generalize (⟨encM 0x42 d.code b.code o.toNat, rest.getD 0 0, rest.getD 1 0⟩ : Words) = w at h1 h2 h3 ⊢
  simp [decM, accept_some, h1, h2, h3, regOf_code, bind_ok, -Fin.ofNat_eq_cast, engineFor_ne]

theorem RoundTrip.ldhI16 (d : Reg) (b : Reg) (o : BitVec 12) : RoundTrip.Statement (.ldhI16 d b o) := by
  intro hw _ rest
  have := reg_code_lt d; have := reg_code_lt b; have := o.isLt
  obtain ⟨h0, h1, h2, h3⟩ := fieldsM 0x43 d.code b.code o.toNat (rest.getD 0 0) (rest.getD 1 0) (by omega) (by omega) (by omega) (by decide)
  show decodeWords (nativeEngine (encM 0x43 d.code b.code o.toNat)) ((encM 0x43 d.code b.code o.toNat) :: rest) = _
  rw [decode1 _ 0x43 rest h0 (by decide) (by decide), body010 _ 0x43 _ h0 (by decide) (by decide), arm_43]
  generalize (⟨encM 0x43 d.code b.code o.toNat, rest.getD 0 0, rest.getD 1 0⟩ : Words) = w at h1 h2 h3 ⊢
  simp [decM, accept_some, h1, h2, h3, regOf_code, bind_ok, -Fin.ofNat_eq_cast, engineFor_ne]

theorem RoundTrip.ldhN16 (d : Reg) (b : Reg) (o : BitVec 12) : RoundTrip.Statement (.ldhN16 d b o) := by
  intro hw _ rest
  have := reg_code_lt d; have := reg_code_lt b; have := o.isLt
  obtain ⟨h0, h1, h2, h3⟩ := fieldsM 0x44 d.code b.code o.toNat (rest.getD 0 0) (rest.getD 1 0) (by omega) (by omega) (by omega) (by decide)
  show decodeWords (nativeEngine (encM 0x44 d.code b.code o.toNat)) ((encM 0x44 d.code b.code o.toNat) :: rest) = _
  rw [decode1 _ 0x44 rest h0 (by decide) (by decide), body010 _ 0x44 _ h0 (by decide) (by decide), arm_44]
  generalize (⟨encM 0x44 d.code b.code o.toNat, rest.getD 0 0, rest.getD 1 0⟩ : Words) = w at h1 h2 h3 ⊢
  simp [decM, accept_some, h1, h2, h3, regOf_code, bind_ok, -Fin.ofNat_eq_cast, engineFor_ne]

theorem RoundTrip.ldI32 (d : Reg) (b : Reg) (o : BitVec 12) : RoundTrip.Statement (.ldI32 d b o) := by
  intro hw _ rest
  have := reg_code_lt d; have := reg_code_lt b; have := o.isLt
  obtain ⟨h0, h1, h2, h3⟩ := fieldsM 0x45 d.code b.code o.toNat (rest.getD 0 0) (rest.getD 1 0) (by omega) (by omega) (by omega) (by decide)
  show decodeWords (nativeEngine (encM 0x45 d.code b.code o.toNat)) ((encM 0x45 d.code b.code o.toNat) :: rest) = _
  rw [decode1 _ 0x45 rest h0 (by decide) (by decide), body010 _ 0x45 _ h0 (by decide) (by decide), arm_45]
  generalize (⟨encM 0x45 d.code b.code o.toNat, rest.getD 0 0, rest.getD 1 0⟩ : Words) = w at h1 h2 h3 ⊢
  simp [decM, accept_some, h1, h2, h3, regOf_code, bind_ok, -Fin.ofNat_eq_cast, engineFor_ne]

theorem RoundTrip.ldN32 (d : Reg) (b : Reg) (o : BitVec 12) : RoundTrip.Statement (.ldN32 d b o) := by
  intro hw _ rest
  have := reg_code_lt d; have := reg_code_lt b; have := o.isLt
  obtain ⟨h0, h1, h2, h3⟩ := fieldsM 0x46 d.code b.code o.toNat (rest.getD 0 0) (rest.getD 1 0) (by omega) (by omega) (by omega) (by decide)
  show decodeWords (nativeEngine (encM 0x46 d.code b.code o.toNat)) ((encM 0x46 d.code b.code o.toNat) :: rest) = _
  rw [decode1 _ 0x46 rest h0 (by decide) (by decide), body010 _ 0x46 _ h0 (by decide) (by decide), arm_46]
  generalize (⟨encM 0x46 d.code b.code o.toNat, rest.getD 0 0, rest.getD 1 0⟩ : Words) = w at h1 h2 h3 ⊢
  simp [decM, accept_some, h1, h2, h3, regOf_code, bind_ok, -Fin.ofNat_eq_cast, engineFor_ne]

theorem RoundTrip.ld (d : Reg) (b : Reg) (o : BitVec 12) : RoundTrip.Statement (.ld d b o) := by
  intro hw _ rest
  have := reg_code_lt d; have := reg_code_lt b; have := o.isLt
  obtain ⟨h0, h1, h2, h3⟩ := fieldsM 0x47 d.code b.code o.toNat (rest.getD 0 0) (rest.getD 1 0) (by omega) (by omega) (by omega) (by decide)
  show decodeWords (nativeEngine (encM 0x47 d.code b.code o.toNat)) ((encM 0x47 d.code b.code o.toNat) :: rest) = _
  rw [decode1 _ 0x47 rest h0 (by decide) (by decide), body010 _ 0x47 _ h0 (by decide) (by decide), arm_47]
  generalize (⟨encM 0x47 d.code b.code o.toNat, rest.getD 0 0, rest.getD 1 0⟩ : Words) = w at h1 h2 h3 ⊢
  simp [decM, accept_some, h1, h2, h3, regOf_code, bind_ok, -Fin.ofNat_eq_cast, engineFor_ne]

theorem RoundTrip.stb (d : Reg) (b : Reg) (o : BitVec 12) : RoundTrip.Statement (.stb d b o) := by
  intro hw _ rest
  have := reg_code_lt d; have := reg_code_lt b; have := o.isLt
  obtain ⟨h0, h1, h2, h3⟩ := fieldsM 0x48 d.code b.code o.toNat (rest.getD 0 0) (rest.getD 1 0) (by omega) (by omega) (by omega) (by decide)
  show decodeWords (nativeEngine (encM 0x48 d.code b.code o.toNat)) ((encM 0x48 d.code b.code o.toNat) :: rest) = _
  rw [decode1 _ 0x48 rest h0 (by decide) (by decide), body010 _ 0x48 _ h0 (by decide) (by decide), arm_48]
  generalize (⟨encM 0x48 d.code b.code o.toNat, rest.getD 0 0, rest.getD 1 0⟩ : Words) = w at h1 h2 h3 ⊢
  simp [decM, accept_some, h1, h2, h3, regOf_code, bind_ok, -Fin.ofNat_eq_cast, engineFor_ne]

theorem RoundTrip.sth (d : Reg) (b : Reg) (o : BitVec 12) : RoundTrip.Statement (.sth d b o) := by
  intro hw _ rest
  have := reg_code_lt d; have := reg_code_lt b; have := o.isLt
  obtain ⟨h0, h1, h2, h3⟩ := fieldsM 0x49 d.code b.code o.toNat (rest.getD 0 0) (rest.getD 1 0) (by omega) (by omega) (by omega) (by decide)
  show decodeWords (nativeEngine (encM 0x49 d.code b.code o.toNat)) ((encM 0x49 d.code b.code o.toNat) :: rest) = _
  rw [decode1 _ 0x49 rest h0 (by decide) (by decide), body010 _ 0x49 _ h0 (by decide) (by decide), arm_49]
  generalize (⟨encM 0x49 d.code b.code o.toNat, rest.getD 0 0, rest.getD 1 0⟩ : Words) = w at h1 h2 h3 ⊢
  simp [decM, accept_some, h1, h2, h3, regOf_code, bind_ok, -Fin.ofNat_eq_cast, engineFor_ne]

theorem RoundTrip.stN32 (d : Reg) (b : Reg) (o : BitVec 12) : RoundTrip.Statement (.stN32 d b o) := by
  intro hw _ rest
  have := reg_code_lt d; have := reg_code_lt b; have := o.isLt
  obtain ⟨h0, h1, h2, h3⟩ := fieldsM 0x4A d.code b.code o.toNat (rest.getD 0 0) (rest.getD 1 0) (by omega) (by omega) (by omega) (by decide)
  show decodeWords (nativeEngine (encM 0x4A d.code b.code o.toNat)) ((encM 0x4A d.code b.code o.toNat) :: rest) = _
  rw [decode1 _ 0x4A rest h0 (by decide) (by decide), body010 _ 0x4A _ h0 (by decide) (by decide), arm_4A]
  generalize (⟨encM 0x4A d.code b.code o.toNat, rest.getD 0 0, rest.getD 1 0⟩ : Words) = w at h1 h2 h3 ⊢
  simp [decM, accept_some, h1, h2, h3, regOf_code, bind_ok, -Fin.ofNat_eq_cast, engineFor_ne]

theorem RoundTrip.st (d : Reg) (b : Reg) (o : BitVec 12) : RoundTrip.Statement (.st d b o) := by
  intro hw _ rest
  have := reg_code_lt d; have := reg_code_lt b; have := o.isLt
  obtain ⟨h0, h1, h2, h3⟩ := fieldsM 0x4B d.code b.code o.toNat (rest.getD 0 0) (rest.getD 1 0) (by omega) (by omega) (by omega) (by decide)
  show decodeWords (nativeEngine (encM 0x4B d.code b.code o.toNat)) ((encM 0x4B d.code b.code o.toNat) :: rest) = _
  rw [decode1 _ 0x4B rest h0 (by decide) (by decide), body010 _ 0x4B _ h0 (by decide) (by decide), arm_4B]
  generalize (⟨encM 0x4B d.code b.code o.toNat, rest.getD 0 0, rest.getD 1 0⟩ : Words) = w at h1 h2 h3 ⊢
  simp [decM, accept_some, h1, h2, h3, regOf_code, bind_ok, -Fin.ofNat_eq_cast, engineFor_ne]

theorem RoundTrip.ldAcq (d : Reg) (b : Reg) (o : BitVec 12) : RoundTrip.Statement (.ldAcq d b o) := by
  intro hw _ rest
  have := reg_code_lt d; have := reg_code_lt b; have := o.isLt
  obtain ⟨h0, h1, h2, h3⟩ := fieldsM 0x4C d.code b.code o.toNat (rest.getD 0 0) (rest.getD 1 0) (by omega) (by omega) (by omega) (by decide)
  show decodeWords (nativeEngine (encM 0x4C d.code b.code o.toNat)) ((encM 0x4C d.code b.code o.toNat) :: rest) = _
  rw [decode1 _ 0x4C rest h0 (by decide) (by decide), body010 _ 0x4C _ h0 (by decide) (by decide), arm_4C]
  generalize (⟨encM 0x4C d.code b.code o.toNat, rest.getD 0 0, rest.getD 1 0⟩ : Words) = w at h1 h2 h3 ⊢
  simp [decM, accept_some, h1, h2, h3, regOf_code, bind_ok, -Fin.ofNat_eq_cast, engineFor_ne]

theorem RoundTrip.stRel (d : Reg) (b : Reg) (o : BitVec 12) : RoundTrip.Statement (.stRel d b o) := by
  intro hw _ rest
  have := reg_code_lt d; have := reg_code_lt b; have := o.isLt
  obtain ⟨h0, h1, h2, h3⟩ := fieldsM 0x4D d.code b.code o.toNat (rest.getD 0 0) (rest.getD 1 0) (by omega) (by omega) (by omega) (by decide)
  show decodeWords (nativeEngine (encM 0x4D d.code b.code o.toNat)) ((encM 0x4D d.code b.code o.toNat) :: rest) = _
  rw [decode1 _ 0x4D rest h0 (by decide) (by decide), body010 _ 0x4D _ h0 (by decide) (by decide), arm_4D]
  generalize (⟨encM 0x4D d.code b.code o.toNat, rest.getD 0 0, rest.getD 1 0⟩ : Words) = w at h1 h2 h3 ⊢
  simp [decM, accept_some, h1, h2, h3, regOf_code, bind_ok, -Fin.ofNat_eq_cast, engineFor_ne]

theorem RoundTrip.ldAcqN32 (d : Reg) (b : Reg) (o : BitVec 12) : RoundTrip.Statement (.ldAcqN32 d b o) := by
  intro hw _ rest
  have := reg_code_lt d; have := reg_code_lt b; have := o.isLt
  obtain ⟨h0, h1, h2, h3⟩ := fieldsM 0x4E d.code b.code o.toNat (rest.getD 0 0) (rest.getD 1 0) (by omega) (by omega) (by omega) (by decide)
  show decodeWords (nativeEngine (encM 0x4E d.code b.code o.toNat)) ((encM 0x4E d.code b.code o.toNat) :: rest) = _
  rw [decode1 _ 0x4E rest h0 (by decide) (by decide), body010 _ 0x4E _ h0 (by decide) (by decide), arm_4E]
  generalize (⟨encM 0x4E d.code b.code o.toNat, rest.getD 0 0, rest.getD 1 0⟩ : Words) = w at h1 h2 h3 ⊢
  simp [decM, accept_some, h1, h2, h3, regOf_code, bind_ok, -Fin.ofNat_eq_cast, engineFor_ne]

theorem RoundTrip.stRelN32 (d : Reg) (b : Reg) (o : BitVec 12) : RoundTrip.Statement (.stRelN32 d b o) := by
  intro hw _ rest
  have := reg_code_lt d; have := reg_code_lt b; have := o.isLt
  obtain ⟨h0, h1, h2, h3⟩ := fieldsM 0x4F d.code b.code o.toNat (rest.getD 0 0) (rest.getD 1 0) (by omega) (by omega) (by omega) (by decide)
  show decodeWords (nativeEngine (encM 0x4F d.code b.code o.toNat)) ((encM 0x4F d.code b.code o.toNat) :: rest) = _
  rw [decode1 _ 0x4F rest h0 (by decide) (by decide), body010 _ 0x4F _ h0 (by decide) (by decide), arm_4F]
  generalize (⟨encM 0x4F d.code b.code o.toNat, rest.getD 0 0, rest.getD 1 0⟩ : Words) = w at h1 h2 h3 ⊢
  simp [decM, accept_some, h1, h2, h3, regOf_code, bind_ok, -Fin.ofNat_eq_cast, engineFor_ne]

theorem RoundTrip.aadd (d : Reg) (b : Reg) (o : BitVec 12) : RoundTrip.Statement (.aadd d b o) := by
  intro hw _ rest
  have := reg_code_lt d; have := reg_code_lt b; have := o.isLt
  obtain ⟨h0, h1, h2, h3⟩ := fieldsM 0x50 d.code b.code o.toNat (rest.getD 0 0) (rest.getD 1 0) (by omega) (by omega) (by omega) (by decide)
  show decodeWords (nativeEngine (encM 0x50 d.code b.code o.toNat)) ((encM 0x50 d.code b.code o.toNat) :: rest) = _
  rw [decode1 _ 0x50 rest h0 (by decide) (by decide), body010 _ 0x50 _ h0 (by decide) (by decide), arm_50]
  generalize (⟨encM 0x50 d.code b.code o.toNat, rest.getD 0 0, rest.getD 1 0⟩ : Words) = w at h1 h2 h3 ⊢
  simp [decM, accept_some, h1, h2, h3, regOf_code, bind_ok, -Fin.ofNat_eq_cast, engineFor_ne]

theorem RoundTrip.acas (d : Reg) (b : Reg) (o : BitVec 12) (y : Src) : RoundTrip.Statement (.acas d b o y) := by
  intro hw _ rest
  have := reg_code_lt d; have := reg_code_lt b; have := o.isLt; have := src_code_lt y
  obtain ⟨h0, h1, h2, h3⟩ := fieldsM 0x51 d.code b.code o.toNat (encOpnd y) (rest.getD 0 0) (by omega) (by omega) (by omega) (by decide)
  show decodeWords (nativeEngine (encM 0x51 d.code b.code o.toNat)) ((encM 0x51 d.code b.code o.toNat) :: (encOpnd y) :: rest) = _
  rw [decode2 _ _ 0x51 rest h0 (by decide) (by decide), body010 _ 0x51 _ h0 (by decide) (by decide), arm_51]
  obtain ⟨g1, g2, g3⟩ := opnd_fields (encM 0x51 d.code b.code o.toNat) (rest.getD 0 0) y
  generalize (⟨encM 0x51 d.code b.code o.toNat, encOpnd y, rest.getD 0 0⟩ : Words) = w at h1 h2 h3 g1 g2 g3 ⊢
  simp [decMX, zeroF_zero, accept_some, opndExt, h1, h2, h3, g1, g2, g3, regOf_code, srcOf_code, bind_ok, -Fin.ofNat_eq_cast, engineFor_ne]

theorem RoundTrip.axch (d : Reg) (b : Reg) (o : BitVec 12) : RoundTrip.Statement (.axch d b o) := by
  intro hw _ rest
  have := reg_code_lt d; have := reg_code_lt b; have := o.isLt
  obtain ⟨h0, h1, h2, h3⟩ := fieldsM 0x52 d.code b.code o.toNat (rest.getD 0 0) (rest.getD 1 0) (by omega) (by omega) (by omega) (by decide)
  show decodeWords (nativeEngine (encM 0x52 d.code b.code o.toNat)) ((encM 0x52 d.code b.code o.toNat) :: rest) = _
  rw [decode1 _ 0x52 rest h0 (by decide) (by decide), body010 _ 0x52 _ h0 (by decide) (by decide), arm_52]
  generalize (⟨encM 0x52 d.code b.code o.toNat, rest.getD 0 0, rest.getD 1 0⟩ : Words) = w at h1 h2 h3 ⊢
  simp [decM, accept_some, h1, h2, h3, regOf_code, bind_ok, -Fin.ofNat_eq_cast, engineFor_ne]

theorem RoundTrip.aminI64 (d : Reg) (b : Reg) (o : BitVec 12) : RoundTrip.Statement (.aminI64 d b o) := by
  intro hw _ rest
  have := reg_code_lt d; have := reg_code_lt b; have := o.isLt
  obtain ⟨h0, h1, h2, h3⟩ := fieldsM 0x53 d.code b.code o.toNat (rest.getD 0 0) (rest.getD 1 0) (by omega) (by omega) (by omega) (by decide)
  show decodeWords (nativeEngine (encM 0x53 d.code b.code o.toNat)) ((encM 0x53 d.code b.code o.toNat) :: rest) = _
  rw [decode1 _ 0x53 rest h0 (by decide) (by decide), body010 _ 0x53 _ h0 (by decide) (by decide), arm_53]
  generalize (⟨encM 0x53 d.code b.code o.toNat, rest.getD 0 0, rest.getD 1 0⟩ : Words) = w at h1 h2 h3 ⊢
  simp [decM, accept_some, h1, h2, h3, regOf_code, bind_ok, -Fin.ofNat_eq_cast, engineFor_ne]

theorem RoundTrip.aminN64 (d : Reg) (b : Reg) (o : BitVec 12) : RoundTrip.Statement (.aminN64 d b o) := by
  intro hw _ rest
  have := reg_code_lt d; have := reg_code_lt b; have := o.isLt
  obtain ⟨h0, h1, h2, h3⟩ := fieldsM 0x54 d.code b.code o.toNat (rest.getD 0 0) (rest.getD 1 0) (by omega) (by omega) (by omega) (by decide)
  show decodeWords (nativeEngine (encM 0x54 d.code b.code o.toNat)) ((encM 0x54 d.code b.code o.toNat) :: rest) = _
  rw [decode1 _ 0x54 rest h0 (by decide) (by decide), body010 _ 0x54 _ h0 (by decide) (by decide), arm_54]
  generalize (⟨encM 0x54 d.code b.code o.toNat, rest.getD 0 0, rest.getD 1 0⟩ : Words) = w at h1 h2 h3 ⊢
  simp [decM, accept_some, h1, h2, h3, regOf_code, bind_ok, -Fin.ofNat_eq_cast, engineFor_ne]

theorem RoundTrip.amaxI64 (d : Reg) (b : Reg) (o : BitVec 12) : RoundTrip.Statement (.amaxI64 d b o) := by
  intro hw _ rest
  have := reg_code_lt d; have := reg_code_lt b; have := o.isLt
  obtain ⟨h0, h1, h2, h3⟩ := fieldsM 0x55 d.code b.code o.toNat (rest.getD 0 0) (rest.getD 1 0) (by omega) (by omega) (by omega) (by decide)
  show decodeWords (nativeEngine (encM 0x55 d.code b.code o.toNat)) ((encM 0x55 d.code b.code o.toNat) :: rest) = _
  rw [decode1 _ 0x55 rest h0 (by decide) (by decide), body010 _ 0x55 _ h0 (by decide) (by decide), arm_55]
  generalize (⟨encM 0x55 d.code b.code o.toNat, rest.getD 0 0, rest.getD 1 0⟩ : Words) = w at h1 h2 h3 ⊢
  simp [decM, accept_some, h1, h2, h3, regOf_code, bind_ok, -Fin.ofNat_eq_cast, engineFor_ne]

theorem RoundTrip.amaxN64 (d : Reg) (b : Reg) (o : BitVec 12) : RoundTrip.Statement (.amaxN64 d b o) := by
  intro hw _ rest
  have := reg_code_lt d; have := reg_code_lt b; have := o.isLt
  obtain ⟨h0, h1, h2, h3⟩ := fieldsM 0x56 d.code b.code o.toNat (rest.getD 0 0) (rest.getD 1 0) (by omega) (by omega) (by omega) (by decide)
  show decodeWords (nativeEngine (encM 0x56 d.code b.code o.toNat)) ((encM 0x56 d.code b.code o.toNat) :: rest) = _
  rw [decode1 _ 0x56 rest h0 (by decide) (by decide), body010 _ 0x56 _ h0 (by decide) (by decide), arm_56]
  generalize (⟨encM 0x56 d.code b.code o.toNat, rest.getD 0 0, rest.getD 1 0⟩ : Words) = w at h1 h2 h3 ⊢
  simp [decM, accept_some, h1, h2, h3, regOf_code, bind_ok, -Fin.ofNat_eq_cast, engineFor_ne]

theorem RoundTrip.aand (d : Reg) (b : Reg) (o : BitVec 12) : RoundTrip.Statement (.aand d b o) := by
  intro hw _ rest
  have := reg_code_lt d; have := reg_code_lt b; have := o.isLt
  obtain ⟨h0, h1, h2, h3⟩ := fieldsM 0x57 d.code b.code o.toNat (rest.getD 0 0) (rest.getD 1 0) (by omega) (by omega) (by omega) (by decide)
  show decodeWords (nativeEngine (encM 0x57 d.code b.code o.toNat)) ((encM 0x57 d.code b.code o.toNat) :: rest) = _
  rw [decode1 _ 0x57 rest h0 (by decide) (by decide), body010 _ 0x57 _ h0 (by decide) (by decide), arm_57]
  generalize (⟨encM 0x57 d.code b.code o.toNat, rest.getD 0 0, rest.getD 1 0⟩ : Words) = w at h1 h2 h3 ⊢
  simp [decM, accept_some, h1, h2, h3, regOf_code, bind_ok, -Fin.ofNat_eq_cast, engineFor_ne]

theorem RoundTrip.aor (d : Reg) (b : Reg) (o : BitVec 12) : RoundTrip.Statement (.aor d b o) := by
  intro hw _ rest
  have := reg_code_lt d; have := reg_code_lt b; have := o.isLt
  obtain ⟨h0, h1, h2, h3⟩ := fieldsM 0x58 d.code b.code o.toNat (rest.getD 0 0) (rest.getD 1 0) (by omega) (by omega) (by omega) (by decide)
  show decodeWords (nativeEngine (encM 0x58 d.code b.code o.toNat)) ((encM 0x58 d.code b.code o.toNat) :: rest) = _
  rw [decode1 _ 0x58 rest h0 (by decide) (by decide), body010 _ 0x58 _ h0 (by decide) (by decide), arm_58]
  generalize (⟨encM 0x58 d.code b.code o.toNat, rest.getD 0 0, rest.getD 1 0⟩ : Words) = w at h1 h2 h3 ⊢
  simp [decM, accept_some, h1, h2, h3, regOf_code, bind_ok, -Fin.ofNat_eq_cast, engineFor_ne]

theorem RoundTrip.badd (d : Reg) (b : Reg) (o : BitVec 12) : RoundTrip.Statement (.badd d b o) := by
  intro hw _ rest
  have := reg_code_lt d; have := reg_code_lt b; have := o.isLt
  obtain ⟨h0, h1, h2, h3⟩ := fieldsM 0x59 d.code b.code o.toNat (rest.getD 0 0) (rest.getD 1 0) (by omega) (by omega) (by omega) (by decide)
  show decodeWords (nativeEngine (encM 0x59 d.code b.code o.toNat)) ((encM 0x59 d.code b.code o.toNat) :: rest) = _
  rw [decode1 _ 0x59 rest h0 (by decide) (by decide), body010 _ 0x59 _ h0 (by decide) (by decide), arm_59]
  generalize (⟨encM 0x59 d.code b.code o.toNat, rest.getD 0 0, rest.getD 1 0⟩ : Words) = w at h1 h2 h3 ⊢
  simp [decM, accept_some, h1, h2, h3, regOf_code, bind_ok, -Fin.ofNat_eq_cast, engineFor_ne]

theorem RoundTrip.bcas (d : Reg) (b : Reg) (o : BitVec 12) (y : Src) : RoundTrip.Statement (.bcas d b o y) := by
  intro hw _ rest
  have := reg_code_lt d; have := reg_code_lt b; have := o.isLt; have := src_code_lt y
  obtain ⟨h0, h1, h2, h3⟩ := fieldsM 0x5A d.code b.code o.toNat (encOpnd y) (rest.getD 0 0) (by omega) (by omega) (by omega) (by decide)
  show decodeWords (nativeEngine (encM 0x5A d.code b.code o.toNat)) ((encM 0x5A d.code b.code o.toNat) :: (encOpnd y) :: rest) = _
  rw [decode2 _ _ 0x5A rest h0 (by decide) (by decide), body010 _ 0x5A _ h0 (by decide) (by decide), arm_5A]
  obtain ⟨g1, g2, g3⟩ := opnd_fields (encM 0x5A d.code b.code o.toNat) (rest.getD 0 0) y
  generalize (⟨encM 0x5A d.code b.code o.toNat, encOpnd y, rest.getD 0 0⟩ : Words) = w at h1 h2 h3 g1 g2 g3 ⊢
  simp [decMX, zeroF_zero, accept_some, opndExt, h1, h2, h3, g1, g2, g3, regOf_code, srcOf_code, bind_ok, -Fin.ofNat_eq_cast, engineFor_ne]

theorem RoundTrip.prefCode (b : Reg) (o : BitVec 12) : RoundTrip.Statement (.prefCode b o) := by
  intro hw _ rest
  have := reg_code_lt b; have := o.isLt
  obtain ⟨h0, h1, h2, h3⟩ := fieldsM 0x5B 0 b.code o.toNat (rest.getD 0 0) (rest.getD 1 0) (by decide) (by omega) (by omega) (by decide)
  show decodeWords (nativeEngine (encM 0x5B 0 b.code o.toNat)) ((encM 0x5B 0 b.code o.toNat) :: rest) = _
  rw [decode1 _ 0x5B rest h0 (by decide) (by decide), body010 _ 0x5B _ h0 (by decide) (by decide), arm_5B]
  generalize (⟨encM 0x5B 0 b.code o.toNat, rest.getD 0 0, rest.getD 1 0⟩ : Words) = w at h1 h2 h3 ⊢
  simp [listed_true, accept_some, h1, h2, h3, regOf_code, bind_ok, -Fin.ofNat_eq_cast, engineFor_ne]

theorem RoundTrip.prefHeap (b : Reg) (o : BitVec 12) : RoundTrip.Statement (.prefHeap b o) := by
  intro hw _ rest
  have := reg_code_lt b; have := o.isLt
  obtain ⟨h0, h1, h2, h3⟩ := fieldsM 0x5B 1 b.code o.toNat (rest.getD 0 0) (rest.getD 1 0) (by decide) (by omega) (by omega) (by decide)
  show decodeWords (nativeEngine (encM 0x5B 1 b.code o.toNat)) ((encM 0x5B 1 b.code o.toNat) :: rest) = _
  rw [decode1 _ 0x5B rest h0 (by decide) (by decide), body010 _ 0x5B _ h0 (by decide) (by decide), arm_5B]
  generalize (⟨encM 0x5B 1 b.code o.toNat, rest.getD 0 0, rest.getD 1 0⟩ : Words) = w at h1 h2 h3 ⊢
  simp [listed_true, accept_some, h1, h2, h3, regOf_code, bind_ok, -Fin.ofNat_eq_cast, engineFor_ne]

theorem RoundTrip.fenceSc (sc : Scope) : RoundTrip.Statement (.fenceSc sc) := by
  intro hw _ rest
  have := scope_enc_lt sc
  obtain ⟨h0, h1, h2, h3, h4, h5⟩ := fieldsI 0x5C 0 0 sc.enc (rest.getD 0 0) (rest.getD 1 0) (by decide) (by decide) (by omega) (by decide)
  show decodeWords (nativeEngine (encI 0x5C 0 0 sc.enc)) ((encI 0x5C 0 0 sc.enc) :: rest) = _
  rw [decode1 _ 0x5C rest h0 (by decide) (by decide), body010 _ 0x5C _ h0 (by decide) (by decide), arm_5C]
  have g1 : fld (⟨encI 0x5C 0 0 sc.enc, rest.getD 0 0, rest.getD 1 0⟩ : Words).w0 9 6 + fld (⟨encI 0x5C 0 0 sc.enc, rest.getD 0 0, rest.getD 1 0⟩ : Words).w0 3 3 = 0 := by simp only [encI, fld]; omega
  have g2 : fld (⟨encI 0x5C 0 0 sc.enc, rest.getD 0 0, rest.getD 1 0⟩ : Words).w0 2 0 = sc.enc := by simp only [encI, fld]; omega
  have g3 : fld (⟨encI 0x5C 0 0 sc.enc, rest.getD 0 0, rest.getD 1 0⟩ : Words).w0 5 4 = 0 := by simp only [encI, fld]; omega
  generalize (⟨encI 0x5C 0 0 sc.enc, rest.getD 0 0, rest.getD 1 0⟩ : Words) = w at h1 h2 h3 h4 h5 g1 g2 g3 ⊢
  simp [zeroF_zero, h1, h2, h3, h4, h5, g1, g2, g3, bind_ok, -Fin.ofNat_eq_cast, engineFor_ne]

theorem RoundTrip.fenceSl (sc : Scope) : RoundTrip.Statement (.fenceSl sc) := by
  intro hw _ rest
  have := scope_enc_lt sc
  obtain ⟨h0, h1, h2, h3, h4, h5⟩ := fieldsI 0x5C 0 0 (16 + sc.enc) (rest.getD 0 0) (rest.getD 1 0) (by decide) (by decide) (by omega) (by decide)
  show decodeWords (nativeEngine (encI 0x5C 0 0 (16 + sc.enc))) ((encI 0x5C 0 0 (16 + sc.enc)) :: rest) = _
  rw [decode1 _ 0x5C rest h0 (by decide) (by decide), body010 _ 0x5C _ h0 (by decide) (by decide), arm_5C]
  have g1 : fld (⟨encI 0x5C 0 0 (16 + sc.enc), rest.getD 0 0, rest.getD 1 0⟩ : Words).w0 9 6 + fld (⟨encI 0x5C 0 0 (16 + sc.enc), rest.getD 0 0, rest.getD 1 0⟩ : Words).w0 3 3 = 0 := by simp only [encI, fld]; omega
  have g2 : fld (⟨encI 0x5C 0 0 (16 + sc.enc), rest.getD 0 0, rest.getD 1 0⟩ : Words).w0 2 0 = sc.enc := by simp only [encI, fld]; omega
  have g3 : fld (⟨encI 0x5C 0 0 (16 + sc.enc), rest.getD 0 0, rest.getD 1 0⟩ : Words).w0 5 4 = 1 := by simp only [encI, fld]; omega
  generalize (⟨encI 0x5C 0 0 (16 + sc.enc), rest.getD 0 0, rest.getD 1 0⟩ : Words) = w at h1 h2 h3 h4 h5 g1 g2 g3 ⊢
  simp [zeroF_zero, h1, h2, h3, h4, h5, g1, g2, g3, bind_ok, -Fin.ofNat_eq_cast, engineFor_ne]

theorem RoundTrip.fenceAcq (sc : Scope) : RoundTrip.Statement (.fenceAcq sc) := by
  intro hw _ rest
  have := scope_enc_lt sc
  obtain ⟨h0, h1, h2, h3, h4, h5⟩ := fieldsI 0x5C 0 0 (32 + sc.enc) (rest.getD 0 0) (rest.getD 1 0) (by decide) (by decide) (by omega) (by decide)
  show decodeWords (nativeEngine (encI 0x5C 0 0 (32 + sc.enc))) ((encI 0x5C 0 0 (32 + sc.enc)) :: rest) = _
  rw [decode1 _ 0x5C rest h0 (by decide) (by decide), body010 _ 0x5C _ h0 (by decide) (by decide), arm_5C]
  have g1 : fld (⟨encI 0x5C 0 0 (32 + sc.enc), rest.getD 0 0, rest.getD 1 0⟩ : Words).w0 9 6 + fld (⟨encI 0x5C 0 0 (32 + sc.enc), rest.getD 0 0, rest.getD 1 0⟩ : Words).w0 3 3 = 0 := by simp only [encI, fld]; omega
  have g2 : fld (⟨encI 0x5C 0 0 (32 + sc.enc), rest.getD 0 0, rest.getD 1 0⟩ : Words).w0 2 0 = sc.enc := by simp only [encI, fld]; omega
  have g3 : fld (⟨encI 0x5C 0 0 (32 + sc.enc), rest.getD 0 0, rest.getD 1 0⟩ : Words).w0 5 4 = 2 := by simp only [encI, fld]; omega
  generalize (⟨encI 0x5C 0 0 (32 + sc.enc), rest.getD 0 0, rest.getD 1 0⟩ : Words) = w at h1 h2 h3 h4 h5 g1 g2 g3 ⊢
  simp [zeroF_zero, h1, h2, h3, h4, h5, g1, g2, g3, bind_ok, -Fin.ofNat_eq_cast, engineFor_ne]

theorem RoundTrip.fenceRel (sc : Scope) : RoundTrip.Statement (.fenceRel sc) := by
  intro hw _ rest
  have := scope_enc_lt sc
  obtain ⟨h0, h1, h2, h3, h4, h5⟩ := fieldsI 0x5C 0 0 (48 + sc.enc) (rest.getD 0 0) (rest.getD 1 0) (by decide) (by decide) (by omega) (by decide)
  show decodeWords (nativeEngine (encI 0x5C 0 0 (48 + sc.enc))) ((encI 0x5C 0 0 (48 + sc.enc)) :: rest) = _
  rw [decode1 _ 0x5C rest h0 (by decide) (by decide), body010 _ 0x5C _ h0 (by decide) (by decide), arm_5C]
  have g1 : fld (⟨encI 0x5C 0 0 (48 + sc.enc), rest.getD 0 0, rest.getD 1 0⟩ : Words).w0 9 6 + fld (⟨encI 0x5C 0 0 (48 + sc.enc), rest.getD 0 0, rest.getD 1 0⟩ : Words).w0 3 3 = 0 := by simp only [encI, fld]; omega
  have g2 : fld (⟨encI 0x5C 0 0 (48 + sc.enc), rest.getD 0 0, rest.getD 1 0⟩ : Words).w0 2 0 = sc.enc := by simp only [encI, fld]; omega
  have g3 : fld (⟨encI 0x5C 0 0 (48 + sc.enc), rest.getD 0 0, rest.getD 1 0⟩ : Words).w0 5 4 = 3 := by simp only [encI, fld]; omega
  generalize (⟨encI 0x5C 0 0 (48 + sc.enc), rest.getD 0 0, rest.getD 1 0⟩ : Words) = w at h1 h2 h3 h4 h5 g1 g2 g3 ⊢
  simp [zeroF_zero, h1, h2, h3, h4, h5, g1, g2, g3, bind_ok, -Fin.ofNat_eq_cast, engineFor_ne]

theorem RoundTrip.nnew (d : Reg) (k : Src) (a : Src) : RoundTrip.Statement (.nnew d k a) := by
  intro hw _ rest
  have := reg_code_lt d; have := src_code_lt k; have := src_code_lt a
  obtain ⟨h0, h1, h2, h3, h4, h5, h6⟩ := fieldsT 0x61 d.code k.code a.code 0 (rest.getD 0 0) (rest.getD 1 0) (by omega) (by omega) (by omega) (by decide) (by decide)
  show decodeWords (nativeEngine (encT 0x61 d.code k.code a.code 0)) ((encT 0x61 d.code k.code a.code 0) :: rest) = _
  rw [decode1 _ 0x61 rest h0 (by decide) (by decide), body011 _ 0x61 _ h0 (by decide) (by decide), arm_61]
  generalize (⟨encT 0x61 d.code k.code a.code 0, rest.getD 0 0, rest.getD 1 0⟩ : Words) = w at h1 h2 h3 h4 h5 h6 ⊢
  simp [dec3, listed_true, accept_some, h1, h2, h3, h4, h5, h6, regOf_code, srcOf_code, bind_ok, -Fin.ofNat_eq_cast, engineFor_ne]

theorem RoundTrip.nfree (d : Reg) (n : Reg) : RoundTrip.Statement (.nfree d n) := by
  intro hw _ rest
  have := reg_code_lt d; have := reg_code_lt n
  obtain ⟨h0, h1, h2, h3, h4, h5, h6⟩ := fieldsT 0x62 d.code n.code 0 0 (rest.getD 0 0) (rest.getD 1 0) (by omega) (by omega) (by decide) (by decide) (by decide)
  show decodeWords (nativeEngine (encT 0x62 d.code n.code 0 0)) ((encT 0x62 d.code n.code 0 0) :: rest) = _
  rw [decode1 _ 0x62 rest h0 (by decide) (by decide), body011 _ 0x62 _ h0 (by decide) (by decide), arm_62]
  generalize (⟨encT 0x62 d.code n.code 0 0, rest.getD 0 0, rest.getD 1 0⟩ : Words) = w at h1 h2 h3 h4 h5 h6 ⊢
  simp [dec2, zeroF_zero, listed_true, accept_some, h1, h2, h3, h4, h5, h6, regOf_code, refOf_code, bind_ok, -Fin.ofNat_eq_cast, engineFor_ne]

theorem RoundTrip.nld (d : Reg) (n : Reg) (k : Fin 8) : RoundTrip.Statement (.nld d n k) := by
  intro hw _ rest
  have := reg_code_lt d; have := reg_code_lt n; have := k.isLt
  obtain ⟨h0, h1, h2, h3⟩ := fieldsM 0x63 d.code n.code k.val (rest.getD 0 0) (rest.getD 1 0) (by omega) (by omega) (by omega) (by decide)
  show decodeWords (nativeEngine (encM 0x63 d.code n.code k.val)) ((encM 0x63 d.code n.code k.val) :: rest) = _
  rw [decode1 _ 0x63 rest h0 (by decide) (by decide), body011 _ 0x63 _ h0 (by decide) (by decide), arm_63]
  generalize (⟨encM 0x63 d.code n.code k.val, rest.getD 0 0, rest.getD 1 0⟩ : Words) = w at h1 h2 h3 ⊢
  simp [decM, listed_true, accept_some, h1, h2, h3, regOf_code, bind_ok, -Fin.ofNat_eq_cast, engineFor_ne]

theorem RoundTrip.nst (d : Reg) (n : Reg) (k : Fin 8) : RoundTrip.Statement (.nst d n k) := by
  intro hw _ rest
  have := reg_code_lt d; have := reg_code_lt n; have := k.isLt
  obtain ⟨h0, h1, h2, h3⟩ := fieldsM 0x64 d.code n.code k.val (rest.getD 0 0) (rest.getD 1 0) (by omega) (by omega) (by omega) (by decide)
  show decodeWords (nativeEngine (encM 0x64 d.code n.code k.val)) ((encM 0x64 d.code n.code k.val) :: rest) = _
  rw [decode1 _ 0x64 rest h0 (by decide) (by decide), body011 _ 0x64 _ h0 (by decide) (by decide), arm_64]
  generalize (⟨encM 0x64 d.code n.code k.val, rest.getD 0 0, rest.getD 1 0⟩ : Words) = w at h1 h2 h3 ⊢
  simp [decM, listed_true, accept_some, h1, h2, h3, regOf_code, bind_ok, -Fin.ofNat_eq_cast, engineFor_ne]

theorem RoundTrip.pget (d : Reg) (n : Reg) (i : Src) : RoundTrip.Statement (.pget d n i) := by
  intro hw _ rest
  have := reg_code_lt d; have := reg_code_lt n; have := src_code_lt i
  obtain ⟨h0, h1, h2, h3, h4, h5, h6⟩ := fieldsT 0x65 d.code n.code i.code 0 (rest.getD 0 0) (rest.getD 1 0) (by omega) (by omega) (by omega) (by decide) (by decide)
  show decodeWords (nativeEngine (encT 0x65 d.code n.code i.code 0)) ((encT 0x65 d.code n.code i.code 0) :: rest) = _
  rw [decode1 _ 0x65 rest h0 (by decide) (by decide), body011 _ 0x65 _ h0 (by decide) (by decide), arm_65]
  generalize (⟨encT 0x65 d.code n.code i.code 0, rest.getD 0 0, rest.getD 1 0⟩ : Words) = w at h1 h2 h3 h4 h5 h6 ⊢
  simp [dec3, listed_true, accept_some, h1, h2, h3, h4, h5, h6, regOf_code, refOf_code, srcOf_code, bind_ok, -Fin.ofNat_eq_cast, engineFor_ne]

theorem RoundTrip.plink (x : Reg) (y : Reg) : RoundTrip.Statement (.plink x y) := by
  intro hw _ rest
  have := reg_code_lt x; have := reg_code_lt y
  obtain ⟨h0, h1, h2, h3, h4, h5, h6⟩ := fieldsT 0x66 0 x.code y.code 0 (rest.getD 0 0) (rest.getD 1 0) (by decide) (by omega) (by omega) (by decide) (by decide)
  show decodeWords (nativeEngine (encT 0x66 0 x.code y.code 0)) ((encT 0x66 0 x.code y.code 0) :: rest) = _
  rw [decode1 _ 0x66 rest h0 (by decide) (by decide), body011 _ 0x66 _ h0 (by decide) (by decide), arm_66]
  generalize (⟨encT 0x66 0 x.code y.code 0, rest.getD 0 0, rest.getD 1 0⟩ : Words) = w at h1 h2 h3 h4 h5 h6 ⊢
  simp [decAB, zeroF_zero, listed_true, accept_some, h1, h2, h3, h4, h5, h6, regOf_code, refOf_code, bind_ok, -Fin.ofNat_eq_cast, engineFor_ne]

theorem RoundTrip.splice (x : Reg) (y : Reg) : RoundTrip.Statement (.splice x y) := by
  intro hw _ rest
  have := reg_code_lt x; have := reg_code_lt y
  obtain ⟨h0, h1, h2, h3, h4, h5, h6⟩ := fieldsT 0x67 0 x.code y.code 0 (rest.getD 0 0) (rest.getD 1 0) (by decide) (by omega) (by omega) (by decide) (by decide)
  show decodeWords (nativeEngine (encT 0x67 0 x.code y.code 0)) ((encT 0x67 0 x.code y.code 0) :: rest) = _
  rw [decode1 _ 0x67 rest h0 (by decide) (by decide), body011 _ 0x67 _ h0 (by decide) (by decide), arm_67]
  generalize (⟨encT 0x67 0 x.code y.code 0, rest.getD 0 0, rest.getD 1 0⟩ : Words) = w at h1 h2 h3 h4 h5 h6 ⊢
  simp [decAB, zeroF_zero, listed_true, accept_some, h1, h2, h3, h4, h5, h6, regOf_code, refOf_code, bind_ok, -Fin.ofNat_eq_cast, engineFor_ne]

theorem RoundTrip.spliceJ (x : Reg) (z : Reg) : RoundTrip.Statement (.spliceJ x z) := by
  intro hw _ rest
  have := reg_code_lt x; have := reg_code_lt z
  obtain ⟨h0, h1, h2, h3, h4, h5, h6⟩ := fieldsT 0x67 0 x.code z.code 1 (rest.getD 0 0) (rest.getD 1 0) (by decide) (by omega) (by omega) (by decide) (by decide)
  show decodeWords (nativeEngine (encT 0x67 0 x.code z.code 1)) ((encT 0x67 0 x.code z.code 1) :: rest) = _
  rw [decode1 _ 0x67 rest h0 (by decide) (by decide), body011 _ 0x67 _ h0 (by decide) (by decide), arm_67]
  generalize (⟨encT 0x67 0 x.code z.code 1, rest.getD 0 0, rest.getD 1 0⟩ : Words) = w at h1 h2 h3 h4 h5 h6 ⊢
  simp [decAB, zeroF_zero, listed_true, accept_some, h1, h2, h3, h4, h5, h6, regOf_code, refOf_code, bind_ok, -Fin.ofNat_eq_cast, engineFor_ne]

theorem RoundTrip.ndup (d : Reg) (t : Reg) (s : Reg) : RoundTrip.Statement (.ndup d t s) := by
  intro hw _ rest
  have := reg_code_lt d; have := reg_code_lt t; have := reg_code_lt s
  obtain ⟨h0, h1, h2, h3, h4, h5, h6⟩ := fieldsT 0x68 d.code t.code s.code 0 (rest.getD 0 0) (rest.getD 1 0) (by omega) (by omega) (by omega) (by decide) (by decide)
  show decodeWords (nativeEngine (encT 0x68 d.code t.code s.code 0)) ((encT 0x68 d.code t.code s.code 0) :: rest) = _
  rw [decode1 _ 0x68 rest h0 (by decide) (by decide), body011 _ 0x68 _ h0 (by decide) (by decide), arm_68]
  generalize (⟨encT 0x68 d.code t.code s.code 0, rest.getD 0 0, rest.getD 1 0⟩ : Words) = w at h1 h2 h3 h4 h5 h6 ⊢
  simp [dec3, listed_true, accept_some, h1, h2, h3, h4, h5, h6, regOf_code, refOf_code, bind_ok, -Fin.ofNat_eq_cast, engineFor_ne]

theorem RoundTrip.nown (d : Reg) (n : Reg) : RoundTrip.Statement (.nown d n) := by
  intro hw _ rest
  have := reg_code_lt d; have := reg_code_lt n
  obtain ⟨h0, h1, h2, h3, h4, h5, h6⟩ := fieldsT 0x69 d.code n.code 0 0 (rest.getD 0 0) (rest.getD 1 0) (by omega) (by omega) (by decide) (by decide) (by decide)
  show decodeWords (nativeEngine (encT 0x69 d.code n.code 0 0)) ((encT 0x69 d.code n.code 0 0) :: rest) = _
  rw [decode1 _ 0x69 rest h0 (by decide) (by decide), body011 _ 0x69 _ h0 (by decide) (by decide), arm_69]
  generalize (⟨encT 0x69 d.code n.code 0 0, rest.getD 0 0, rest.getD 1 0⟩ : Words) = w at h1 h2 h3 h4 h5 h6 ⊢
  simp [dec2, zeroF_zero, listed_true, accept_some, h1, h2, h3, h4, h5, h6, regOf_code, refOf_code, bind_ok, -Fin.ofNat_eq_cast, engineFor_ne]

theorem RoundTrip.rpush (f : Fin 16) (x : Reg) (y : Reg) : RoundTrip.Statement (.rpush f x y) := by
  intro hw _ rest
  have := f.isLt; have := reg_code_lt x; have := reg_code_lt y
  obtain ⟨h0, h1, h2, h3, h4, h5, h6⟩ := fieldsT 0x6A f.val x.code y.code 0 (rest.getD 0 0) (rest.getD 1 0) (by omega) (by omega) (by omega) (by decide) (by decide)
  show decodeWords (nativeEngine (encT 0x6A f.val x.code y.code 0)) ((encT 0x6A f.val x.code y.code 0) :: rest) = _
  rw [decode1 _ 0x6A rest h0 (by decide) (by decide), body011 _ 0x6A _ h0 (by decide) (by decide), arm_6A]
  generalize (⟨encT 0x6A f.val x.code y.code 0, rest.getD 0 0, rest.getD 1 0⟩ : Words) = w at h1 h2 h3 h4 h5 h6 ⊢
  simp [decAB, listed_true, accept_some, h1, h2, h3, h4, h5, h6, regOf_code, refOf_code, bind_ok, -Fin.ofNat_eq_cast, engineFor_ne]

theorem RoundTrip.rpop (d : Fin 31) : RoundTrip.Statement (.rpop d) := by
  intro hw _ rest
  have := d.isLt
  obtain ⟨h0, h1, h2, h3, h4, h5, h6⟩ := fieldsT 0x6B d.val 0 0 0 (rest.getD 0 0) (rest.getD 1 0) (by omega) (by decide) (by decide) (by decide) (by decide)
  rw [show encode (.rpop d) = [encT 0x6B d.val 0 0 0] from rfl, List.headD_cons, List.singleton_append]
  rw [decode1 _ 0x6B rest h0 (by decide) (by decide), body011 _ 0x6B _ h0 (by decide) (by decide), arm_6B]
  generalize (⟨encT 0x6B d.val 0 0 0, rest.getD 0 0, rest.getD 1 0⟩ : Words) = w at h1 h2 h3 h4 h5 h6 ⊢
  simp only [h1, h2, h3, zeroF_zero, ne_eq, engineFor_ne, not_false_eq_true, accept_some, bind_ok, Nat.zero_div, Nat.zero_mod, Nat.zero_mul, Nat.add_zero, listed_true, h4, h5, h6, decide_true, Fin.is_lt, if_true, Fin.ofNat_val_eq_self]

theorem RoundTrip.meet (d : Fin 31) (x : Reg) (y : Reg) : RoundTrip.Statement (.meet d x y) := by
  intro hw _ rest
  have := d.isLt; have := reg_code_lt x; have := reg_code_lt y
  obtain ⟨h0, h1, h2, h3, h4, h5, h6⟩ := fieldsT 0x6C d.val x.code y.code 0 (rest.getD 0 0) (rest.getD 1 0) (by omega) (by omega) (by omega) (by decide) (by decide)
  show decodeWords (nativeEngine (encT 0x6C d.val x.code y.code 0)) ((encT 0x6C d.val x.code y.code 0) :: rest) = _
  rw [decode1 _ 0x6C rest h0 (by decide) (by decide), body011 _ 0x6C _ h0 (by decide) (by decide), arm_6C]
  generalize (⟨encT 0x6C d.val x.code y.code 0, rest.getD 0 0, rest.getD 1 0⟩ : Words) = w at h1 h2 h3 h4 h5 h6 ⊢
  simp [decAB, listed_true, accept_some, h1, h2, h3, h4, h5, h6, regOf_code, refOf_code, bind_ok, -Fin.ofNat_eq_cast, engineFor_ne]

theorem RoundTrip.rule (d : Reg) (a : Src) (b : Src) : RoundTrip.Statement (.rule d a b) := by
  intro hw _ rest
  have := reg_code_lt d; have := src_code_lt a; have := src_code_lt b
  obtain ⟨h0, h1, h2, h3, h4, h5, h6⟩ := fieldsT 0x6D d.code a.code b.code 0 (rest.getD 0 0) (rest.getD 1 0) (by omega) (by omega) (by omega) (by decide) (by decide)
  show decodeWords (nativeEngine (encT 0x6D d.code a.code b.code 0)) ((encT 0x6D d.code a.code b.code 0) :: rest) = _
  rw [decode1 _ 0x6D rest h0 (by decide) (by decide), body011 _ 0x6D _ h0 (by decide) (by decide), arm_6D]
  generalize (⟨encT 0x6D d.code a.code b.code 0, rest.getD 0 0, rest.getD 1 0⟩ : Words) = w at h1 h2 h3 h4 h5 h6 ⊢
  simp [dec3, listed_true, accept_some, h1, h2, h3, h4, h5, h6, regOf_code, srcOf_code, bind_ok, -Fin.ofNat_eq_cast, engineFor_ne]

theorem RoundTrip.fork (f : Fin 16) (h : RcSrc) (a0 : Src) (a1 : Src) : RoundTrip.Statement (.fork f h a0 a1) := by
  intro hw _ rest
  have := f.isLt; have := rc_code_lt h; have := src_code_lt a0; have := src_code_lt a1
  obtain ⟨h0, h1, h2, h3, h4, h5, h6⟩ := fieldsT 0x6E f.val h.code a0.code 0 (encOpnd a1) (rest.getD 0 0) (by omega) (by omega) (by omega) (by decide) (by decide)
  show decodeWords (nativeEngine (encT 0x6E f.val h.code a0.code 0)) ((encT 0x6E f.val h.code a0.code 0) :: (encOpnd a1) :: rest) = _
  rw [decode2 _ _ 0x6E rest h0 (by decide) (by decide), body011 _ 0x6E _ h0 (by decide) (by decide), arm_6E]
  obtain ⟨g1, g2, g3⟩ := opnd_fields (encT 0x6E f.val h.code a0.code 0) (rest.getD 0 0) a1
  generalize (⟨encT 0x6E f.val h.code a0.code 0, encOpnd a1, rest.getD 0 0⟩ : Words) = w at h1 h2 h3 h4 h5 h6 g1 g2 g3 ⊢
  simp [opndExt, zeroF_zero, listed_true, accept_some, h1, h2, h3, h4, h5, h6, g1, g2, g3, srcOf_code, rcOf_code, bind_ok, -Fin.ofNat_eq_cast, engineFor_ne]

theorem RoundTrip.join (d : Reg) (a : RcSrc) : RoundTrip.Statement (.join d a) := by
  intro hw _ rest
  have := reg_code_lt d; have := rc_code_lt a
  obtain ⟨h0, h1, h2, h3, h4, h5, h6⟩ := fieldsT 0x6F d.code a.code 0 0 (rest.getD 0 0) (rest.getD 1 0) (by omega) (by omega) (by decide) (by decide) (by decide)
  show decodeWords (nativeEngine (encT 0x6F d.code a.code 0 0)) ((encT 0x6F d.code a.code 0 0) :: rest) = _
  rw [decode1 _ 0x6F rest h0 (by decide) (by decide), body011 _ 0x6F _ h0 (by decide) (by decide), arm_6F]
  generalize (⟨encT 0x6F d.code a.code 0 0, rest.getD 0 0, rest.getD 1 0⟩ : Words) = w at h1 h2 h3 h4 h5 h6 ⊢
  simp [dec2, zeroF_zero, listed_true, accept_some, h1, h2, h3, h4, h5, h6, regOf_code, rcOf_code, bind_ok, -Fin.ofNat_eq_cast, engineFor_ne]

theorem RoundTrip.vclaim (d : Reg) (n : Src) : RoundTrip.Statement (.vclaim d n) := by
  intro hw _ rest
  have := reg_code_lt d; have := src_code_lt n
  obtain ⟨h0, h1, h2, h3, h4, h5, h6⟩ := fieldsT 0x81 d.code n.code 0 0 (rest.getD 0 0) (rest.getD 1 0) (by omega) (by omega) (by decide) (by decide) (by decide)
  show decodeWords (nativeEngine (encT 0x81 d.code n.code 0 0)) ((encT 0x81 d.code n.code 0 0) :: rest) = _
  rw [decode1 _ 0x81 rest h0 (by decide) (by decide), body100 _ 0x81 _ h0 (by decide) (by decide), arm_81]
  generalize (⟨encT 0x81 d.code n.code 0 0, rest.getD 0 0, rest.getD 1 0⟩ : Words) = w at h1 h2 h3 h4 h5 h6 ⊢
  simp [dec2, zeroF_zero, listed_true, accept_some, h1, h2, h3, h4, h5, h6, regOf_code, srcOf_code, bind_ok, -Fin.ofNat_eq_cast, engineFor_ne]

theorem RoundTrip.vyield : RoundTrip.Statement (.vyield) := by
  intro hw _ rest
  obtain ⟨h0, h1, h2, h3, h4, h5, h6⟩ := fieldsT 0x82 0 0 0 0 (rest.getD 0 0) (rest.getD 1 0) (by decide) (by decide) (by decide) (by decide) (by decide)
  show decodeWords (nativeEngine (encT 0x82 0 0 0 0)) ((encT 0x82 0 0 0 0) :: rest) = _
  rw [decode1 _ 0x82 rest h0 (by decide) (by decide), body100 _ 0x82 _ h0 (by decide) (by decide), arm_82]
  generalize (⟨encT 0x82 0 0 0 0, rest.getD 0 0, rest.getD 1 0⟩ : Words) = w at h1 h2 h3 h4 h5 h6 ⊢
  simp [zeroF_zero, listed_true, h1, h2, h3, h4, h5, h6, bind_ok, -Fin.ofNat_eq_cast, engineFor_ne]

theorem RoundTrip.vren (d : Reg) (n : Src) : RoundTrip.Statement (.vren d n) := by
  intro hw _ rest
  have := reg_code_lt d; have := src_code_lt n
  obtain ⟨h0, h1, h2, h3, h4, h5, h6⟩ := fieldsT 0x83 d.code n.code 0 0 (rest.getD 0 0) (rest.getD 1 0) (by omega) (by omega) (by decide) (by decide) (by decide)
  show decodeWords (nativeEngine (encT 0x83 d.code n.code 0 0)) ((encT 0x83 d.code n.code 0 0) :: rest) = _
  rw [decode1 _ 0x83 rest h0 (by decide) (by decide), body100 _ 0x83 _ h0 (by decide) (by decide), arm_83]
  generalize (⟨encT 0x83 d.code n.code 0 0, rest.getD 0 0, rest.getD 1 0⟩ : Words) = w at h1 h2 h3 h4 h5 h6 ⊢
  simp [dec2, zeroF_zero, listed_true, accept_some, h1, h2, h3, h4, h5, h6, regOf_code, srcOf_code, bind_ok, -Fin.ofNat_eq_cast, engineFor_ne]

theorem RoundTrip.vld (t : VTy) (v : Fin 16) (b : Reg) (o : BitVec 12) : RoundTrip.Statement (.vld t v b o) := by
  intro hw _ rest
  have := vty_code_lt t; have := v.isLt; have := reg_code_lt b; have := o.isLt
  have := encV_lt t v
  obtain ⟨h0, h1, h2, h3⟩ := fieldsM 0x84 (encV t v) b.code o.toNat (rest.getD 0 0) (rest.getD 1 0) (by omega) (by omega) (by omega) (by decide)
  show decodeWords (nativeEngine (encM 0x84 (encV t v) b.code o.toNat)) ((encM 0x84 (encV t v) b.code o.toNat) :: rest) = _
  rw [decode1 _ 0x84 rest h0 (by decide) (by decide), body100 _ 0x84 _ h0 (by decide) (by decide), arm_84]
  generalize (⟨encM 0x84 (encV t v) b.code o.toNat, rest.getD 0 0, rest.getD 1 0⟩ : Words) = w at h1 h2 h3 ⊢
  simp [accept_some, h1, h2, h3, regOf_code, encV_div, encV_fin, bind_ok, -Fin.ofNat_eq_cast, engineFor_ne]

theorem RoundTrip.vst (t : VTy) (v : Fin 16) (b : Reg) (o : BitVec 12) : RoundTrip.Statement (.vst t v b o) := by
  intro hw _ rest
  have := vty_code_lt t; have := v.isLt; have := reg_code_lt b; have := o.isLt
  have := encV_lt t v
  obtain ⟨h0, h1, h2, h3⟩ := fieldsM 0x85 (encV t v) b.code o.toNat (rest.getD 0 0) (rest.getD 1 0) (by omega) (by omega) (by omega) (by decide)
  show decodeWords (nativeEngine (encM 0x85 (encV t v) b.code o.toNat)) ((encM 0x85 (encV t v) b.code o.toNat) :: rest) = _
  rw [decode1 _ 0x85 rest h0 (by decide) (by decide), body100 _ 0x85 _ h0 (by decide) (by decide), arm_85]
  generalize (⟨encM 0x85 (encV t v) b.code o.toNat, rest.getD 0 0, rest.getD 1 0⟩ : Words) = w at h1 h2 h3 ⊢
  simp [accept_some, h1, h2, h3, regOf_code, encV_div, encV_fin, bind_ok, -Fin.ofNat_eq_cast, engineFor_ne]

theorem RoundTrip.vgath (t : VTy) (v : Fin 16) (a : RcSrc) (ix : Fin 16) (p : Pred) : RoundTrip.Statement (.vgath t v a ix p) := by
  intro hw _ rest
  have := vty_code_lt t; have := v.isLt; have := rc_code_lt a; have := ix.isLt; have := pred_code_lt p
  have := encV_lt t v
  obtain ⟨h0, h1, h2, h3, h4, h5, h6⟩ := fieldsT 0x86 (encV t v) a.code (64 + ix.val) p.code (rest.getD 0 0) (rest.getD 1 0) (by omega) (by omega) (by omega) (by omega) (by decide)
  show decodeWords (nativeEngine (encT 0x86 (encV t v) a.code (64 + ix.val) p.code)) ((encT 0x86 (encV t v) a.code (64 + ix.val) p.code) :: rest) = _
  rw [decode1 _ 0x86 rest h0 (by decide) (by decide), body100 _ 0x86 _ h0 (by decide) (by decide), arm_86]
  rw [show (64 + ix.val) / 64 = 1 by omega] at h4
  rw [show (64 + ix.val) % 64 = ix.val by omega] at h5
  generalize (⟨encT 0x86 (encV t v) a.code (64 + ix.val) p.code, rest.getD 0 0, rest.getD 1 0⟩ : Words) = w at h1 h2 h3 h4 h5 h6 ⊢
  simp [decV, listed_true, accept_some, h1, h2, h3, h4, h5, h6, vecOf_one, rcOf_code, encV_div, encV_fin, vecOf_code, bind_ok, -Fin.ofNat_eq_cast, engineFor_ne]

theorem RoundTrip.vadd (t : VTy) (v : Fin 16) (a : VSrc) (b : VSrc) (p : Pred) : RoundTrip.Statement (.vadd t v a b p) := by
  intro hw _ rest
  have := vty_code_lt t; have := v.isLt; have := vsrc_code_lt a; have := vsrc_code_lt b; have := pred_code_lt p
  have := encV_lt t v
  obtain ⟨h0, h1, h2, h3, h4, h5, h6⟩ := fieldsT 0x87 (encV t v) a.code b.code p.code (rest.getD 0 0) (rest.getD 1 0) (by omega) (by omega) (by omega) (by omega) (by decide)
  show decodeWords (nativeEngine (encT 0x87 (encV t v) a.code b.code p.code)) ((encT 0x87 (encV t v) a.code b.code p.code) :: rest) = _
  rw [decode1 _ 0x87 rest h0 (by decide) (by decide), body100 _ 0x87 _ h0 (by decide) (by decide), arm_87]
  generalize (⟨encT 0x87 (encV t v) a.code b.code p.code, rest.getD 0 0, rest.getD 1 0⟩ : Words) = w at h1 h2 h3 h4 h5 h6 ⊢
  simp [decV, listed_true, accept_some, h1, h2, h3, h4, h5, h6, vsrcOf_code, encV_div, encV_fin, bind_ok, -Fin.ofNat_eq_cast, engineFor_ne]

theorem RoundTrip.vsub (t : VTy) (v : Fin 16) (a : VSrc) (b : VSrc) (p : Pred) : RoundTrip.Statement (.vsub t v a b p) := by
  intro hw _ rest
  have := vty_code_lt t; have := v.isLt; have := vsrc_code_lt a; have := vsrc_code_lt b; have := pred_code_lt p
  have := encV_lt t v
  obtain ⟨h0, h1, h2, h3, h4, h5, h6⟩ := fieldsT 0x88 (encV t v) a.code b.code p.code (rest.getD 0 0) (rest.getD 1 0) (by omega) (by omega) (by omega) (by omega) (by decide)
  show decodeWords (nativeEngine (encT 0x88 (encV t v) a.code b.code p.code)) ((encT 0x88 (encV t v) a.code b.code p.code) :: rest) = _
  rw [decode1 _ 0x88 rest h0 (by decide) (by decide), body100 _ 0x88 _ h0 (by decide) (by decide), arm_88]
  generalize (⟨encT 0x88 (encV t v) a.code b.code p.code, rest.getD 0 0, rest.getD 1 0⟩ : Words) = w at h1 h2 h3 h4 h5 h6 ⊢
  simp [decV, listed_true, accept_some, h1, h2, h3, h4, h5, h6, vsrcOf_code, encV_div, encV_fin, bind_ok, -Fin.ofNat_eq_cast, engineFor_ne]

theorem RoundTrip.vmul (t : VTy) (v : Fin 16) (a : VSrc) (b : VSrc) (p : Pred) : RoundTrip.Statement (.vmul t v a b p) := by
  intro hw _ rest
  have := vty_code_lt t; have := v.isLt; have := vsrc_code_lt a; have := vsrc_code_lt b; have := pred_code_lt p
  have := encV_lt t v
  obtain ⟨h0, h1, h2, h3, h4, h5, h6⟩ := fieldsT 0x89 (encV t v) a.code b.code p.code (rest.getD 0 0) (rest.getD 1 0) (by omega) (by omega) (by omega) (by omega) (by decide)
  show decodeWords (nativeEngine (encT 0x89 (encV t v) a.code b.code p.code)) ((encT 0x89 (encV t v) a.code b.code p.code) :: rest) = _
  rw [decode1 _ 0x89 rest h0 (by decide) (by decide), body100 _ 0x89 _ h0 (by decide) (by decide), arm_89]
  generalize (⟨encT 0x89 (encV t v) a.code b.code p.code, rest.getD 0 0, rest.getD 1 0⟩ : Words) = w at h1 h2 h3 h4 h5 h6 ⊢
  simp [decV, listed_true, accept_some, h1, h2, h3, h4, h5, h6, vsrcOf_code, encV_div, encV_fin, bind_ok, -Fin.ofNat_eq_cast, engineFor_ne]

theorem RoundTrip.vmulz (t : VTy) (v : Fin 16) (a : VSrc) (b : VSrc) (p : Pred) : RoundTrip.Statement (.vmulz t v a b p) := by
  intro hw _ rest
  have := vty_code_lt t; have := v.isLt; have := vsrc_code_lt a; have := vsrc_code_lt b; have := pred_code_lt p
  have := encV_lt t v
  obtain ⟨h0, h1, h2, h3, h4, h5, h6⟩ := fieldsT 0x8A (encV t v) a.code b.code p.code (rest.getD 0 0) (rest.getD 1 0) (by omega) (by omega) (by omega) (by omega) (by decide)
  show decodeWords (nativeEngine (encT 0x8A (encV t v) a.code b.code p.code)) ((encT 0x8A (encV t v) a.code b.code p.code) :: rest) = _
  rw [decode1 _ 0x8A rest h0 (by decide) (by decide), body100 _ 0x8A _ h0 (by decide) (by decide), arm_8A]
  simp only [WellFormed] at hw
  generalize (⟨encT 0x8A (encV t v) a.code b.code p.code, rest.getD 0 0, rest.getD 1 0⟩ : Words) = w at h1 h2 h3 h4 h5 h6 ⊢
  simp [decV, listed_true, accept_some, h1, h2, h3, h4, h5, h6, hw, vsrcOf_code, encV_div, encV_fin, bind_ok, -Fin.ofNat_eq_cast, engineFor_ne]

theorem RoundTrip.vfma (t : VTy) (v : Fin 16) (a : VSrc) (b : VSrc) (p : Pred) : RoundTrip.Statement (.vfma t v a b p) := by
  intro hw _ rest
  have := vty_code_lt t; have := v.isLt; have := vsrc_code_lt a; have := vsrc_code_lt b; have := pred_code_lt p
  have := encV_lt t v
  obtain ⟨h0, h1, h2, h3, h4, h5, h6⟩ := fieldsT 0x8B (encV t v) a.code b.code p.code (rest.getD 0 0) (rest.getD 1 0) (by omega) (by omega) (by omega) (by omega) (by decide)
  show decodeWords (nativeEngine (encT 0x8B (encV t v) a.code b.code p.code)) ((encT 0x8B (encV t v) a.code b.code p.code) :: rest) = _
  rw [decode1 _ 0x8B rest h0 (by decide) (by decide), body100 _ 0x8B _ h0 (by decide) (by decide), arm_8B]
  generalize (⟨encT 0x8B (encV t v) a.code b.code p.code, rest.getD 0 0, rest.getD 1 0⟩ : Words) = w at h1 h2 h3 h4 h5 h6 ⊢
  simp [decV, listed_true, accept_some, h1, h2, h3, h4, h5, h6, vsrcOf_code, encV_div, encV_fin, bind_ok, -Fin.ofNat_eq_cast, engineFor_ne]

theorem RoundTrip.vmin (t : VTy) (v : Fin 16) (a : VSrc) (b : VSrc) (p : Pred) : RoundTrip.Statement (.vmin t v a b p) := by
  intro hw _ rest
  have := vty_code_lt t; have := v.isLt; have := vsrc_code_lt a; have := vsrc_code_lt b; have := pred_code_lt p
  have := encV_lt t v
  obtain ⟨h0, h1, h2, h3, h4, h5, h6⟩ := fieldsT 0x8C (encV t v) a.code b.code p.code (rest.getD 0 0) (rest.getD 1 0) (by omega) (by omega) (by omega) (by omega) (by decide)
  show decodeWords (nativeEngine (encT 0x8C (encV t v) a.code b.code p.code)) ((encT 0x8C (encV t v) a.code b.code p.code) :: rest) = _
  rw [decode1 _ 0x8C rest h0 (by decide) (by decide), body100 _ 0x8C _ h0 (by decide) (by decide), arm_8C]
  generalize (⟨encT 0x8C (encV t v) a.code b.code p.code, rest.getD 0 0, rest.getD 1 0⟩ : Words) = w at h1 h2 h3 h4 h5 h6 ⊢
  simp [decV, listed_true, accept_some, h1, h2, h3, h4, h5, h6, vsrcOf_code, encV_div, encV_fin, bind_ok, -Fin.ofNat_eq_cast, engineFor_ne]

theorem RoundTrip.vmax (t : VTy) (v : Fin 16) (a : VSrc) (b : VSrc) (p : Pred) : RoundTrip.Statement (.vmax t v a b p) := by
  intro hw _ rest
  have := vty_code_lt t; have := v.isLt; have := vsrc_code_lt a; have := vsrc_code_lt b; have := pred_code_lt p
  have := encV_lt t v
  obtain ⟨h0, h1, h2, h3, h4, h5, h6⟩ := fieldsT 0x8D (encV t v) a.code b.code p.code (rest.getD 0 0) (rest.getD 1 0) (by omega) (by omega) (by omega) (by omega) (by decide)
  show decodeWords (nativeEngine (encT 0x8D (encV t v) a.code b.code p.code)) ((encT 0x8D (encV t v) a.code b.code p.code) :: rest) = _
  rw [decode1 _ 0x8D rest h0 (by decide) (by decide), body100 _ 0x8D _ h0 (by decide) (by decide), arm_8D]
  generalize (⟨encT 0x8D (encV t v) a.code b.code p.code, rest.getD 0 0, rest.getD 1 0⟩ : Words) = w at h1 h2 h3 h4 h5 h6 ⊢
  simp [decV, listed_true, accept_some, h1, h2, h3, h4, h5, h6, vsrcOf_code, encV_div, encV_fin, bind_ok, -Fin.ofNat_eq_cast, engineFor_ne]

theorem RoundTrip.vcmp (r : Rel) (t : VTy) (m : Fin 4) (a : VSrc) (b : VSrc) : RoundTrip.Statement (.vcmp r t m a b) := by
  intro hw _ rest
  have := rel_code_lt r; have := vty_code_lt t; have := m.isLt; have := vsrc_code_lt a; have := vsrc_code_lt b
  obtain ⟨h0, h1, h2, h3, h4, h5, h6⟩ := fieldsT 0x8E (t.code * 16 + m.val) a.code b.code r.code (rest.getD 0 0) (rest.getD 1 0) (by omega) (by omega) (by omega) (by omega) (by decide)
  show decodeWords (nativeEngine (encT 0x8E (t.code * 16 + m.val) a.code b.code r.code)) ((encT 0x8E (t.code * 16 + m.val) a.code b.code r.code) :: rest) = _
  rw [decode1 _ 0x8E rest h0 (by decide) (by decide), body100 _ 0x8E _ h0 (by decide) (by decide), arm_8E]
  have g1 : (t.code * 16 + m.val) / 4 % 4 = 0 := by omega
  have g2 : (t.code * 16 + m.val) / 16 = t.code := by omega
  have g3 : Fin.ofNat 4 (t.code * 16 + m.val) = m := by apply Fin.ext; simp only [Fin.ofNat]; omega
  generalize (⟨encT 0x8E (t.code * 16 + m.val) a.code b.code r.code, rest.getD 0 0, rest.getD 1 0⟩ : Words) = w at h1 h2 h3 h4 h5 h6 ⊢
  simp [decAB, zeroF_zero, accept_some, h1, h2, h3, h4, h5, h6, g1, g2, g3, -Nat.cast_add, -Nat.cast_mul, vsrcOf_code, bind_ok, -Fin.ofNat_eq_cast, engineFor_ne]

theorem RoundTrip.vsel (t : VTy) (v : Fin 16) (m : Fin 4) (a : VSrc) (b : VSrc) : RoundTrip.Statement (.vsel t v m a b) := by
  intro hw _ rest
  have := vty_code_lt t; have := v.isLt; have := m.isLt; have := vsrc_code_lt a; have := vsrc_code_lt b
  have := encV_lt t v
  obtain ⟨h0, h1, h2, h3, h4, h5, h6⟩ := fieldsT 0x8F (encV t v) a.code b.code m.val (rest.getD 0 0) (rest.getD 1 0) (by omega) (by omega) (by omega) (by omega) (by decide)
  show decodeWords (nativeEngine (encT 0x8F (encV t v) a.code b.code m.val)) ((encT 0x8F (encV t v) a.code b.code m.val) :: rest) = _
  rw [decode1 _ 0x8F rest h0 (by decide) (by decide), body100 _ 0x8F _ h0 (by decide) (by decide), arm_8F]
  generalize (⟨encT 0x8F (encV t v) a.code b.code m.val, rest.getD 0 0, rest.getD 1 0⟩ : Words) = w at h1 h2 h3 h4 h5 h6 ⊢
  simp [decAB, accept_some, h1, h2, h3, h4, h5, h6, vsrcOf_code, encV_div, encV_fin, bind_ok, -Fin.ofNat_eq_cast, engineFor_ne]

theorem RoundTrip.vcvt (dst : VTy) (src : VTy) (r : Rnd) (v : Fin 16) (a : VSrc) (p : Pred) : RoundTrip.Statement (.vcvt dst src r v a p) := by
  intro hw _ rest
  have := vty_code_lt dst; have := vty_code_lt src; have := rnd_code_lt r; have := v.isLt; have := vsrc_code_lt a; have := pred_code_lt p
  have := encV_lt dst v
  obtain ⟨h0, h1, h2, h3, h4, h5, h6⟩ := fieldsT 0x90 (encV dst v) a.code (src.code * 16 + r.code) p.code (rest.getD 0 0) (rest.getD 1 0) (by omega) (by omega) (by omega) (by omega) (by decide)
  show decodeWords (nativeEngine (encT 0x90 (encV dst v) a.code (src.code * 16 + r.code) p.code)) ((encT 0x90 (encV dst v) a.code (src.code * 16 + r.code) p.code) :: rest) = _
  rw [decode1 _ 0x90 rest h0 (by decide) (by decide), body100 _ 0x90 _ h0 (by decide) (by decide), arm_90]
  have g1 : (src.code * 16 + r.code) / 64 + (src.code * 16 + r.code) % 64 / 4 % 4 = 0 := by omega
  have g2 : (src.code * 16 + r.code) % 64 / 16 = src.code := by omega
  have g3 : (src.code * 16 + r.code) % 64 % 4 = r.code := by omega
  generalize (⟨encT 0x90 (encV dst v) a.code (src.code * 16 + r.code) p.code, rest.getD 0 0, rest.getD 1 0⟩ : Words) = w at h1 h2 h3 h4 h5 h6 ⊢
  simp [zeroF_zero, accept_some, h1, h2, h3, h4, h5, h6, g1, g2, g3, -Nat.mod_mod_of_dvd, vsrcOf_code, encV_div, encV_fin, bind_ok, -Fin.ofNat_eq_cast, engineFor_ne]

theorem RoundTrip.vsum (t : VTy) (d : Reg) (a : RcSrc) (n : Src) : RoundTrip.Statement (.vsum t d a n) := by
  intro hw _ rest
  have := vty_code_lt t; have := reg_code_lt d; have := rc_code_lt a; have := src_code_lt n
  obtain ⟨h0, h1, h2, h3, h4, h5, h6⟩ := fieldsT 0x91 d.code a.code n.code t.code (rest.getD 0 0) (rest.getD 1 0) (by omega) (by omega) (by omega) (by omega) (by decide)
  show decodeWords (nativeEngine (encT 0x91 d.code a.code n.code t.code)) ((encT 0x91 d.code a.code n.code t.code) :: rest) = _
  rw [decode1 _ 0x91 rest h0 (by decide) (by decide), body100 _ 0x91 _ h0 (by decide) (by decide), arm_91]
  generalize (⟨encT 0x91 d.code a.code n.code t.code, rest.getD 0 0, rest.getD 1 0⟩ : Words) = w at h1 h2 h3 h4 h5 h6 ⊢
  simp [dec3, accept_some, h1, h2, h3, h4, h5, h6, regOf_code, srcOf_code, rcOf_code, bind_ok, -Fin.ofNat_eq_cast, engineFor_ne]

theorem RoundTrip.vmaxr (t : VTy) (d : Reg) (a : RcSrc) (n : Src) : RoundTrip.Statement (.vmaxr t d a n) := by
  intro hw _ rest
  have := vty_code_lt t; have := reg_code_lt d; have := rc_code_lt a; have := src_code_lt n
  obtain ⟨h0, h1, h2, h3, h4, h5, h6⟩ := fieldsT 0x92 d.code a.code n.code t.code (rest.getD 0 0) (rest.getD 1 0) (by omega) (by omega) (by omega) (by omega) (by decide)
  show decodeWords (nativeEngine (encT 0x92 d.code a.code n.code t.code)) ((encT 0x92 d.code a.code n.code t.code) :: rest) = _
  rw [decode1 _ 0x92 rest h0 (by decide) (by decide), body100 _ 0x92 _ h0 (by decide) (by decide), arm_92]
  generalize (⟨encT 0x92 d.code a.code n.code t.code, rest.getD 0 0, rest.getD 1 0⟩ : Words) = w at h1 h2 h3 h4 h5 h6 ⊢
  simp [dec3, accept_some, h1, h2, h3, h4, h5, h6, regOf_code, srcOf_code, rcOf_code, bind_ok, -Fin.ofNat_eq_cast, engineFor_ne]

theorem RoundTrip.vredq (t : VTy) (d : Reg) (q : Fin 32) (c : Reg) : RoundTrip.Statement (.vredq t d q c) := by
  intro hw _ rest
  have := vty_code_lt t; have := reg_code_lt d; have := q.isLt; have := reg_code_lt c
  obtain ⟨h0, h1, h2, h3, h4, h5, h6⟩ := fieldsT 0x93 d.code q.val c.code t.code (rest.getD 0 0) (rest.getD 1 0) (by omega) (by omega) (by omega) (by omega) (by decide)
  show decodeWords (nativeEngine (encT 0x93 d.code q.val c.code t.code)) ((encT 0x93 d.code q.val c.code t.code) :: rest) = _
  rw [decode1 _ 0x93 rest h0 (by decide) (by decide), body100 _ 0x93 _ h0 (by decide) (by decide), arm_93]
  generalize (⟨encT 0x93 d.code q.val c.code t.code, rest.getD 0 0, rest.getD 1 0⟩ : Words) = w at h1 h2 h3 h4 h5 h6 ⊢
  simp [accept_some, h1, h2, h3, h4, h5, h6, regOf_code, refOf_code, nameOf_code 32, bind_ok, -Fin.ofNat_eq_cast, engineFor_ne]

theorem RoundTrip.vxp (t : VTy) (v : Fin 16) (x0 : VSrc) (x1 : VSrc) (x2 : VSrc) (x3 : VSrc) (prog : BitVec 48) (p : Pred) : RoundTrip.Statement (.vxp t v x0 x1 x2 x3 prog p) := by
  intro hw _ rest
  have := vty_code_lt t; have := v.isLt; have := vsrc_code_lt x0; have := vsrc_code_lt x1; have := vsrc_code_lt x2; have := vsrc_code_lt x3; have := prog.isLt; have := pred_code_lt p
  have := encV_lt t v
  obtain ⟨h0, h1, h2, h3, h4, h5, h6⟩ := fieldsT 0x94 (encV t v) x0.code x1.code p.code (prog.toNat % 2 ^ 32) (prog.toNat / 2 ^ 32 + x2.code * 2 ^ 16 + x3.code * 2 ^ 24) (by omega) (by omega) (by omega) (by omega) (by decide)
  show decodeWords (nativeEngine (encT 0x94 (encV t v) x0.code x1.code p.code)) ((encT 0x94 (encV t v) x0.code x1.code p.code) :: (prog.toNat % 2 ^ 32) :: (prog.toNat / 2 ^ 32 + x2.code * 2 ^ 16 + x3.code * 2 ^ 24) :: rest) = _
  rw [decode3 _ _ _ 0x94 rest h0 (by decide) (by decide), body100 _ 0x94 _ h0 (by decide) (by decide), arm_94]
  have g1 : fld (⟨encT 0x94 (encV t v) x0.code x1.code p.code, prog.toNat % 2 ^ 32, prog.toNat / 2 ^ 32 + x2.code * 2 ^ 16 + x3.code * 2 ^ 24⟩ : Words).w2 23 22 = x2.code / 64 := by simp only [fld]; omega
  have g2 : fld (⟨encT 0x94 (encV t v) x0.code x1.code p.code, prog.toNat % 2 ^ 32, prog.toNat / 2 ^ 32 + x2.code * 2 ^ 16 + x3.code * 2 ^ 24⟩ : Words).w2 21 16 = x2.code % 64 := by simp only [fld]; omega
  have g3 : fld (⟨encT 0x94 (encV t v) x0.code x1.code p.code, prog.toNat % 2 ^ 32, prog.toNat / 2 ^ 32 + x2.code * 2 ^ 16 + x3.code * 2 ^ 24⟩ : Words).w2 31 30 = x3.code / 64 := by simp only [fld]; omega
  have g4 : fld (⟨encT 0x94 (encV t v) x0.code x1.code p.code, prog.toNat % 2 ^ 32, prog.toNat / 2 ^ 32 + x2.code * 2 ^ 16 + x3.code * 2 ^ 24⟩ : Words).w2 29 24 = x3.code % 64 := by simp only [fld]; omega
  have g5 : (⟨encT 0x94 (encV t v) x0.code x1.code p.code, prog.toNat % 2 ^ 32, prog.toNat / 2 ^ 32 + x2.code * 2 ^ 16 + x3.code * 2 ^ 24⟩ : Words).w1 + 2 ^ 32 * fld (⟨encT 0x94 (encV t v) x0.code x1.code p.code, prog.toNat % 2 ^ 32, prog.toNat / 2 ^ 32 + x2.code * 2 ^ 16 + x3.code * 2 ^ 24⟩ : Words).w2 15 0 = prog.toNat := by simp only [fld]; omega
  simp only [WellFormed, Option.isNone_iff_eq_none] at hw
  generalize (⟨encT 0x94 (encV t v) x0.code x1.code p.code, prog.toNat % 2 ^ 32, prog.toNat / 2 ^ 32 + x2.code * 2 ^ 16 + x3.code * 2 ^ 24⟩ : Words) = w at h1 h2 h3 h4 h5 h6 g1 g2 g3 g4 g5 ⊢
  simp only [g5]
  simp [accept_some, h1, h2, h3, h4, h5, h6, g1, g2, g3, g4, hw, vsrcOf_code, encV_div, encV_fin, bind_ok, -Fin.ofNat_eq_cast, engineFor_ne]

theorem RoundTrip.vrank (v : Fin 16) (a : RcSrc) (b : VSrc) (p : Pred) : RoundTrip.Statement (.vrank v a b p) := by
  intro hw _ rest
  have := v.isLt; have := rc_code_lt a; have := vsrc_code_lt b; have := pred_code_lt p
  have := encV_lt .n32 v
  obtain ⟨h0, h1, h2, h3, h4, h5, h6⟩ := fieldsT 0x95 (encV .n32 v) a.code b.code p.code (rest.getD 0 0) (rest.getD 1 0) (by omega) (by omega) (by omega) (by omega) (by decide)
  show decodeWords (nativeEngine (encT 0x95 (encV .n32 v) a.code b.code p.code)) ((encT 0x95 (encV .n32 v) a.code b.code p.code) :: rest) = _
  rw [decode1 _ 0x95 rest h0 (by decide) (by decide), body100 _ 0x95 _ h0 (by decide) (by decide), arm_95]
  generalize (⟨encT 0x95 (encV .n32 v) a.code b.code p.code, rest.getD 0 0, rest.getD 1 0⟩ : Words) = w at h1 h2 h3 h4 h5 h6 ⊢
  simp [decV, listed_true, accept_some, h1, h2, h3, h4, h5, h6, show VTy.n32.code = 2 from rfl, rcOf_code, vsrcOf_code, encV_div, encV_fin, bind_ok, -Fin.ofNat_eq_cast, engineFor_ne]

theorem RoundTrip.vselect (v : Fin 16) (a : RcSrc) (b : VSrc) (p : Pred) : RoundTrip.Statement (.vselect v a b p) := by
  intro hw _ rest
  have := v.isLt; have := rc_code_lt a; have := vsrc_code_lt b; have := pred_code_lt p
  have := encV_lt .n32 v
  obtain ⟨h0, h1, h2, h3, h4, h5, h6⟩ := fieldsT 0x96 (encV .n32 v) a.code b.code p.code (rest.getD 0 0) (rest.getD 1 0) (by omega) (by omega) (by omega) (by omega) (by decide)
  show decodeWords (nativeEngine (encT 0x96 (encV .n32 v) a.code b.code p.code)) ((encT 0x96 (encV .n32 v) a.code b.code p.code) :: rest) = _
  rw [decode1 _ 0x96 rest h0 (by decide) (by decide), body100 _ 0x96 _ h0 (by decide) (by decide), arm_96]
  generalize (⟨encT 0x96 (encV .n32 v) a.code b.code p.code, rest.getD 0 0, rest.getD 1 0⟩ : Words) = w at h1 h2 h3 h4 h5 h6 ⊢
  simp [decV, listed_true, accept_some, h1, h2, h3, h4, h5, h6, show VTy.n32.code = 2 from rfl, rcOf_code, vsrcOf_code, encV_div, encV_fin, bind_ok, -Fin.ofNat_eq_cast, engineFor_ne]

theorem RoundTrip.vpopc (v : Fin 16) (a : VSrc) (p : Pred) : RoundTrip.Statement (.vpopc v a p) := by
  intro hw _ rest
  have := v.isLt; have := vsrc_code_lt a; have := pred_code_lt p
  have := encV_lt .n32 v
  obtain ⟨h0, h1, h2, h3, h4, h5, h6⟩ := fieldsT 0x97 (encV .n32 v) a.code 0 p.code (rest.getD 0 0) (rest.getD 1 0) (by omega) (by omega) (by decide) (by omega) (by decide)
  show decodeWords (nativeEngine (encT 0x97 (encV .n32 v) a.code 0 p.code)) ((encT 0x97 (encV .n32 v) a.code 0 p.code) :: rest) = _
  rw [decode1 _ 0x97 rest h0 (by decide) (by decide), body100 _ 0x97 _ h0 (by decide) (by decide), arm_97]
  generalize (⟨encT 0x97 (encV .n32 v) a.code 0 p.code, rest.getD 0 0, rest.getD 1 0⟩ : Words) = w at h1 h2 h3 h4 h5 h6 ⊢
  simp [zeroF_zero, listed_true, accept_some, h1, h2, h3, h4, h5, h6, show VTy.n32.code = 2 from rfl, vsrcOf_code, encV_div, encV_fin, bind_ok, -Fin.ofNat_eq_cast, engineFor_ne]

theorem RoundTrip.vshuf (t : VTy) (v : Fin 16) (a : Fin 16) (b : VSrc) (p : Pred) : RoundTrip.Statement (.vshuf t v a b p) := by
  intro hw _ rest
  have := vty_code_lt t; have := v.isLt; have := a.isLt; have := vsrc_code_lt b; have := pred_code_lt p
  have := encV_lt t v
  obtain ⟨h0, h1, h2, h3, h4, h5, h6⟩ := fieldsT 0x98 (encV t v) (64 + a.val) b.code p.code (rest.getD 0 0) (rest.getD 1 0) (by omega) (by omega) (by omega) (by omega) (by decide)
  show decodeWords (nativeEngine (encT 0x98 (encV t v) (64 + a.val) b.code p.code)) ((encT 0x98 (encV t v) (64 + a.val) b.code p.code) :: rest) = _
  rw [decode1 _ 0x98 rest h0 (by decide) (by decide), body100 _ 0x98 _ h0 (by decide) (by decide), arm_98]
  rw [show (64 + a.val) / 64 = 1 by omega] at h2
  rw [show (64 + a.val) % 64 = a.val by omega] at h3
  generalize (⟨encT 0x98 (encV t v) (64 + a.val) b.code p.code, rest.getD 0 0, rest.getD 1 0⟩ : Words) = w at h1 h2 h3 h4 h5 h6 ⊢
  simp [decV, listed_true, accept_some, h1, h2, h3, h4, h5, h6, vecOf_one, vsrcOf_code, encV_div, encV_fin, vecOf_code, bind_ok, -Fin.ofNat_eq_cast, engineFor_ne]

theorem RoundTrip.vbcast (t : VTy) (v : Fin 16) (a : Src) (p : Pred) : RoundTrip.Statement (.vbcast t v a p) := by
  intro hw _ rest
  have := vty_code_lt t; have := v.isLt; have := src_code_lt a; have := pred_code_lt p
  have := encV_lt t v
  obtain ⟨h0, h1, h2, h3, h4, h5, h6⟩ := fieldsT 0x99 (encV t v) a.code 0 p.code (rest.getD 0 0) (rest.getD 1 0) (by omega) (by omega) (by decide) (by omega) (by decide)
  show decodeWords (nativeEngine (encT 0x99 (encV t v) a.code 0 p.code)) ((encT 0x99 (encV t v) a.code 0 p.code) :: rest) = _
  rw [decode1 _ 0x99 rest h0 (by decide) (by decide), body100 _ 0x99 _ h0 (by decide) (by decide), arm_99]
  generalize (⟨encT 0x99 (encV t v) a.code 0 p.code, rest.getD 0 0, rest.getD 1 0⟩ : Words) = w at h1 h2 h3 h4 h5 h6 ⊢
  simp [zeroF_zero, accept_some, h1, h2, h3, h4, h5, h6, srcOf_code, encV_div, encV_fin, bind_ok, -Fin.ofNat_eq_cast, engineFor_ne]

theorem RoundTrip.vidx (t : VTy) (v : Fin 16) (a : Src) (b : Src) (p : Pred) : RoundTrip.Statement (.vidx t v a b p) := by
  intro hw _ rest
  have := vty_code_lt t; have := v.isLt; have := src_code_lt a; have := src_code_lt b; have := pred_code_lt p
  have := encV_lt t v
  obtain ⟨h0, h1, h2, h3, h4, h5, h6⟩ := fieldsT 0x9A (encV t v) a.code b.code p.code (rest.getD 0 0) (rest.getD 1 0) (by omega) (by omega) (by omega) (by omega) (by decide)
  show decodeWords (nativeEngine (encT 0x9A (encV t v) a.code b.code p.code)) ((encT 0x9A (encV t v) a.code b.code p.code) :: rest) = _
  rw [decode1 _ 0x9A rest h0 (by decide) (by decide), body100 _ 0x9A _ h0 (by decide) (by decide), arm_9A]
  simp only [WellFormed] at hw
  generalize (⟨encT 0x9A (encV t v) a.code b.code p.code, rest.getD 0 0, rest.getD 1 0⟩ : Words) = w at h1 h2 h3 h4 h5 h6 ⊢
  simp [decV, listed_true, accept_some, h1, h2, h3, h4, h5, h6, hw, srcOf_code, encV_div, encV_fin, bind_ok, -Fin.ofNat_eq_cast, engineFor_ne]

theorem RoundTrip.qset (q : Fin 32) (base : RcSrc) (lg : Fin 9) (size : BitVec 11) : RoundTrip.Statement (.qset q base lg size) := by
  intro hw _ rest
  have := q.isLt; have := rc_code_lt base; have := lg.isLt; have := size.isLt
  obtain ⟨h0, h1, h2, h3, h4, h5, h6⟩ := fieldsT 0xA1 q.val base.code 0 0 (lg.val * 2 ^ 16 + size.toNat) (rest.getD 0 0) (by omega) (by omega) (by decide) (by decide) (by decide)
  show decodeWords (nativeEngine (encT 0xA1 q.val base.code 0 0)) ((encT 0xA1 q.val base.code 0 0) :: (lg.val * 2 ^ 16 + size.toNat) :: rest) = _
  rw [decode2 _ _ 0xA1 rest h0 (by decide) (by decide), body101 _ 0xA1 _ h0 (by decide) (by decide), arm_A1]
  have g1 : fld (⟨encT 0xA1 q.val base.code 0 0, lg.val * 2 ^ 16 + size.toNat, rest.getD 0 0⟩ : Words).w1 19 16 = lg.val := by simp only [fld]; omega
  have g2 : fld (⟨encT 0xA1 q.val base.code 0 0, lg.val * 2 ^ 16 + size.toNat, rest.getD 0 0⟩ : Words).w1 10 0 = size.toNat := by simp only [fld]; omega
  have g3 : fld (⟨encT 0xA1 q.val base.code 0 0, lg.val * 2 ^ 16 + size.toNat, rest.getD 0 0⟩ : Words).w1 31 20 + fld (⟨encT 0xA1 q.val base.code 0 0, lg.val * 2 ^ 16 + size.toNat, rest.getD 0 0⟩ : Words).w1 15 11 = 0 := by simp only [fld]; omega
  have g4 : size.toNat ≠ 0 := by intro h; apply (of_decide_eq_true hw); exact BitVec.eq_of_toNat_eq h
  generalize (⟨encT 0xA1 q.val base.code 0 0, lg.val * 2 ^ 16 + size.toNat, rest.getD 0 0⟩ : Words) = w at h1 h2 h3 h4 h5 h6 g1 g2 g3 ⊢
  simp [ownZero, zeroF_zero, listed_true, accept_some, h1, h2, h3, h4, h5, h6, g1, g2, g3, g4, rcOf_code, bind_ok, -Fin.ofNat_eq_cast, engineFor_ne]

theorem RoundTrip.qsetClr (q : Fin 32) : RoundTrip.Statement (.qsetClr q) := by
  intro hw _ rest
  have := q.isLt
  obtain ⟨h0, h1, h2, h3, h4, h5, h6⟩ := fieldsT 0xA1 q.val 0 0 1 (0) (rest.getD 0 0) (by omega) (by decide) (by decide) (by decide) (by decide)
  show decodeWords (nativeEngine (encT 0xA1 q.val 0 0 1)) ((encT 0xA1 q.val 0 0 1) :: 0 :: rest) = _
  rw [decode2 _ _ 0xA1 rest h0 (by decide) (by decide), body101 _ 0xA1 _ h0 (by decide) (by decide), arm_A1]
  have g2 : (⟨encT 0xA1 q.val 0 0 1, 0, rest.getD 0 0⟩ : Words).w1 = 0 := rfl
  generalize (⟨encT 0xA1 q.val 0 0 1, 0, rest.getD 0 0⟩ : Words) = w at h1 h2 h3 h4 h5 h6 g2 ⊢
  simp [ownZero, zeroF_zero, listed_true, accept_some, h1, h2, h3, h4, h5, h6, g2, bind_ok, -Fin.ofNat_eq_cast, engineFor_ne]

theorem RoundTrip.qwait (d : Reg) (q : Fin 32) (n : Src) : RoundTrip.Statement (.qwait d q n) := by
  intro hw _ rest
  have := reg_code_lt d; have := q.isLt; have := src_code_lt n
  obtain ⟨h0, h1, h2, h3, h4, h5, h6⟩ := fieldsT 0xA2 d.code q.val n.code 0 (rest.getD 0 0) (rest.getD 1 0) (by omega) (by omega) (by omega) (by decide) (by decide)
  show decodeWords (nativeEngine (encT 0xA2 d.code q.val n.code 0)) ((encT 0xA2 d.code q.val n.code 0) :: rest) = _
  rw [decode1 _ 0xA2 rest h0 (by decide) (by decide), body101 _ 0xA2 _ h0 (by decide) (by decide), arm_A2]
  generalize (⟨encT 0xA2 d.code q.val n.code 0, rest.getD 0 0, rest.getD 1 0⟩ : Words) = w at h1 h2 h3 h4 h5 h6 ⊢
  simp [dec3, listed_true, accept_some, h1, h2, h3, h4, h5, h6, regOf_code, srcOf_code, nameOf_code 32, bind_ok, -Fin.ofNat_eq_cast, engineFor_ne]

theorem RoundTrip.qresv (d : Reg) (q : Fin 32) (n : Src) : RoundTrip.Statement (.qresv d q n) := by
  intro hw _ rest
  have := reg_code_lt d; have := q.isLt; have := src_code_lt n
  obtain ⟨h0, h1, h2, h3, h4, h5, h6⟩ := fieldsT 0xA3 d.code q.val n.code 0 (rest.getD 0 0) (rest.getD 1 0) (by omega) (by omega) (by omega) (by decide) (by decide)
  show decodeWords (nativeEngine (encT 0xA3 d.code q.val n.code 0)) ((encT 0xA3 d.code q.val n.code 0) :: rest) = _
  rw [decode1 _ 0xA3 rest h0 (by decide) (by decide), body101 _ 0xA3 _ h0 (by decide) (by decide), arm_A3]
  generalize (⟨encT 0xA3 d.code q.val n.code 0, rest.getD 0 0, rest.getD 1 0⟩ : Words) = w at h1 h2 h3 h4 h5 h6 ⊢
  simp [dec3, listed_true, accept_some, h1, h2, h3, h4, h5, h6, regOf_code, srcOf_code, nameOf_code 32, bind_ok, -Fin.ofNat_eq_cast, engineFor_ne]

theorem RoundTrip.qadvP (q : Fin 32) (n : Src) : RoundTrip.Statement (.qadvP q n) := by
  intro hw _ rest
  have := q.isLt; have := src_code_lt n
  obtain ⟨h0, h1, h2, h3, h4, h5, h6⟩ := fieldsT 0xA4 0 q.val n.code 0 (rest.getD 0 0) (rest.getD 1 0) (by decide) (by omega) (by omega) (by decide) (by decide)
  show decodeWords (nativeEngine (encT 0xA4 0 q.val n.code 0)) ((encT 0xA4 0 q.val n.code 0) :: rest) = _
  rw [decode1 _ 0xA4 rest h0 (by decide) (by decide), body101 _ 0xA4 _ h0 (by decide) (by decide), arm_A4]
  generalize (⟨encT 0xA4 0 q.val n.code 0, rest.getD 0 0, rest.getD 1 0⟩ : Words) = w at h1 h2 h3 h4 h5 h6 ⊢
  simp [decAB, zeroF_zero, listed_true, accept_some, h1, h2, h3, h4, h5, h6, srcOf_code, nameOf_code 32, bind_ok, -Fin.ofNat_eq_cast, engineFor_ne]

theorem RoundTrip.qadvC (q : Fin 32) (n : Src) : RoundTrip.Statement (.qadvC q n) := by
  intro hw _ rest
  have := q.isLt; have := src_code_lt n
  obtain ⟨h0, h1, h2, h3, h4, h5, h6⟩ := fieldsT 0xA4 0 q.val n.code 1 (rest.getD 0 0) (rest.getD 1 0) (by decide) (by omega) (by omega) (by decide) (by decide)
  show decodeWords (nativeEngine (encT 0xA4 0 q.val n.code 1)) ((encT 0xA4 0 q.val n.code 1) :: rest) = _
  rw [decode1 _ 0xA4 rest h0 (by decide) (by decide), body101 _ 0xA4 _ h0 (by decide) (by decide), arm_A4]
  generalize (⟨encT 0xA4 0 q.val n.code 1, rest.getD 0 0, rest.getD 1 0⟩ : Words) = w at h1 h2 h3 h4 h5 h6 ⊢
  simp [decAB, zeroF_zero, listed_true, accept_some, h1, h2, h3, h4, h5, h6, srcOf_code, nameOf_code 32, bind_ok, -Fin.ofNat_eq_cast, engineFor_ne]

theorem RoundTrip.qhead (d : Reg) (q : Fin 32) : RoundTrip.Statement (.qhead d q) := by
  intro hw _ rest
  have := reg_code_lt d; have := q.isLt
  obtain ⟨h0, h1, h2, h3, h4, h5, h6⟩ := fieldsT 0xA5 d.code q.val 0 0 (rest.getD 0 0) (rest.getD 1 0) (by omega) (by omega) (by decide) (by decide) (by decide)
  show decodeWords (nativeEngine (encT 0xA5 d.code q.val 0 0)) ((encT 0xA5 d.code q.val 0 0) :: rest) = _
  rw [decode1 _ 0xA5 rest h0 (by decide) (by decide), body101 _ 0xA5 _ h0 (by decide) (by decide), arm_A5]
  generalize (⟨encT 0xA5 d.code q.val 0 0, rest.getD 0 0, rest.getD 1 0⟩ : Words) = w at h1 h2 h3 h4 h5 h6 ⊢
  simp [dec2, zeroF_zero, listed_true, accept_some, h1, h2, h3, h4, h5, h6, regOf_code, nameOf_code 32, bind_ok, -Fin.ofNat_eq_cast, engineFor_ne]

theorem RoundTrip.bclaim (d : Reg) (pin : Bool) : RoundTrip.Statement (.bclaim d pin) := by
  intro hw _ rest
  have := reg_code_lt d; have := bitOf_lt pin
  obtain ⟨h0, h1, h2, h3, h4, h5, h6⟩ := fieldsT 0xA6 d.code 0 0 (bitOf pin) (rest.getD 0 0) (rest.getD 1 0) (by omega) (by decide) (by decide) (by omega) (by decide)
  show decodeWords (nativeEngine (encT 0xA6 d.code 0 0 (bitOf pin))) ((encT 0xA6 d.code 0 0 (bitOf pin)) :: rest) = _
  rw [decode1 _ 0xA6 rest h0 (by decide) (by decide), body101 _ 0xA6 _ h0 (by decide) (by decide), arm_A6]
  generalize (⟨encT 0xA6 d.code 0 0 (bitOf pin), rest.getD 0 0, rest.getD 1 0⟩ : Words) = w at h1 h2 h3 h4 h5 h6 ⊢
  simp [zeroF_zero, listed_true, accept_some, h1, h2, h3, h4, h5, h6, regOf_code, bitOf_one, bitOf_half, bitOf_two, bitOf_le, bits_low, bits_high, bind_ok, -Fin.ofNat_eq_cast, engineFor_ne]

theorem RoundTrip.bfree (h : RcSrc) : RoundTrip.Statement (.bfree h) := by
  intro hw _ rest
  have := rc_code_lt h
  obtain ⟨h0, h1, h2, h3, h4, h5, h6⟩ := fieldsT 0xA7 0 h.code 0 0 (rest.getD 0 0) (rest.getD 1 0) (by decide) (by omega) (by decide) (by decide) (by decide)
  show decodeWords (nativeEngine (encT 0xA7 0 h.code 0 0)) ((encT 0xA7 0 h.code 0 0) :: rest) = _
  rw [decode1 _ 0xA7 rest h0 (by decide) (by decide), body101 _ 0xA7 _ h0 (by decide) (by decide), arm_A7]
  generalize (⟨encT 0xA7 0 h.code 0 0, rest.getD 0 0, rest.getD 1 0⟩ : Words) = w at h1 h2 h3 h4 h5 h6 ⊢
  simp [zeroF_zero, listed_true, accept_some, h1, h2, h3, h4, h5, h6, rcOf_code, bind_ok, -Fin.ofNat_eq_cast, engineFor_ne]

theorem RoundTrip.bfmt (h : RcSrc) (f : Src) : RoundTrip.Statement (.bfmt h f) := by
  intro hw _ rest
  have := rc_code_lt h; have := src_code_lt f
  obtain ⟨h0, h1, h2, h3, h4, h5, h6⟩ := fieldsT 0xA8 0 h.code f.code 0 (rest.getD 0 0) (rest.getD 1 0) (by decide) (by omega) (by omega) (by decide) (by decide)
  show decodeWords (nativeEngine (encT 0xA8 0 h.code f.code 0)) ((encT 0xA8 0 h.code f.code 0) :: rest) = _
  rw [decode1 _ 0xA8 rest h0 (by decide) (by decide), body101 _ 0xA8 _ h0 (by decide) (by decide), arm_A8]
  generalize (⟨encT 0xA8 0 h.code f.code 0, rest.getD 0 0, rest.getD 1 0⟩ : Words) = w at h1 h2 h3 h4 h5 h6 ⊢
  simp [dec2, decAB, zeroF_zero, accept_some, h1, h2, h3, h4, h5, h6, srcOf_code, rcOf_code, bind_ok, -Fin.ofNat_eq_cast, engineFor_ne]

theorem RoundTrip.bfmtTab (i : Src) (c : Src) : RoundTrip.Statement (.bfmtTab i c) := by
  intro hw _ rest
  have := src_code_lt i; have := src_code_lt c
  obtain ⟨h0, h1, h2, h3, h4, h5, h6⟩ := fieldsT 0xA8 0 i.code c.code 1 (rest.getD 0 0) (rest.getD 1 0) (by decide) (by omega) (by omega) (by decide) (by decide)
  show decodeWords (nativeEngine (encT 0xA8 0 i.code c.code 1)) ((encT 0xA8 0 i.code c.code 1) :: rest) = _
  rw [decode1 _ 0xA8 rest h0 (by decide) (by decide), body101 _ 0xA8 _ h0 (by decide) (by decide), arm_A8]
  generalize (⟨encT 0xA8 0 i.code c.code 1, rest.getD 0 0, rest.getD 1 0⟩ : Words) = w at h1 h2 h3 h4 h5 h6 ⊢
  simp [dec2, decAB, zeroF_zero, accept_some, h1, h2, h3, h4, h5, h6, srcOf_code, bind_ok, -Fin.ofNat_eq_cast, engineFor_ne]

theorem RoundTrip.bfmtRd (d : Reg) (h : RcSrc) : RoundTrip.Statement (.bfmtRd d h) := by
  intro hw _ rest
  have := reg_code_lt d; have := rc_code_lt h
  obtain ⟨h0, h1, h2, h3, h4, h5, h6⟩ := fieldsT 0xA8 d.code h.code 0 2 (rest.getD 0 0) (rest.getD 1 0) (by omega) (by omega) (by decide) (by decide) (by decide)
  show decodeWords (nativeEngine (encT 0xA8 d.code h.code 0 2)) ((encT 0xA8 d.code h.code 0 2) :: rest) = _
  rw [decode1 _ 0xA8 rest h0 (by decide) (by decide), body101 _ 0xA8 _ h0 (by decide) (by decide), arm_A8]
  generalize (⟨encT 0xA8 d.code h.code 0 2, rest.getD 0 0, rest.getD 1 0⟩ : Words) = w at h1 h2 h3 h4 h5 h6 ⊢
  simp [dec2, decAB, zeroF_zero, accept_some, h1, h2, h3, h4, h5, h6, regOf_code, rcOf_code, bind_ok, -Fin.ofNat_eq_cast, engineFor_ne]

theorem RoundTrip.bpair (b : Reg) (f : RcSrc) (sh : RcSrc) : RoundTrip.Statement (.bpair b f sh) := by
  intro hw _ rest
  have := reg_code_lt b; have := rc_code_lt f; have := rc_code_lt sh
  obtain ⟨h0, h1, h2, h3, h4, h5, h6⟩ := fieldsT 0xA9 b.code f.code sh.code 0 (rest.getD 0 0) (rest.getD 1 0) (by omega) (by omega) (by omega) (by decide) (by decide)
  show decodeWords (nativeEngine (encT 0xA9 b.code f.code sh.code 0)) ((encT 0xA9 b.code f.code sh.code 0) :: rest) = _
  rw [decode1 _ 0xA9 rest h0 (by decide) (by decide), body101 _ 0xA9 _ h0 (by decide) (by decide), arm_A9]
  generalize (⟨encT 0xA9 b.code f.code sh.code 0, rest.getD 0 0, rest.getD 1 0⟩ : Words) = w at h1 h2 h3 h4 h5 h6 ⊢
  simp [dec3, zeroF_zero, listed_true, accept_some, h1, h2, h3, h4, h5, h6, regOf_code, rcOf_code, bind_ok, -Fin.ofNat_eq_cast, engineFor_ne]

theorem RoundTrip.bpairClr (f : RcSrc) : RoundTrip.Statement (.bpairClr f) := by
  intro hw _ rest
  have := rc_code_lt f
  obtain ⟨h0, h1, h2, h3, h4, h5, h6⟩ := fieldsT 0xA9 0 f.code 0 1 (rest.getD 0 0) (rest.getD 1 0) (by decide) (by omega) (by decide) (by decide) (by decide)
  show decodeWords (nativeEngine (encT 0xA9 0 f.code 0 1)) ((encT 0xA9 0 f.code 0 1) :: rest) = _
  rw [decode1 _ 0xA9 rest h0 (by decide) (by decide), body101 _ 0xA9 _ h0 (by decide) (by decide), arm_A9]
  generalize (⟨encT 0xA9 0 f.code 0 1, rest.getD 0 0, rest.getD 1 0⟩ : Words) = w at h1 h2 h3 h4 h5 h6 ⊢
  simp [dec3, zeroF_zero, listed_true, accept_some, h1, h2, h3, h4, h5, h6, rcOf_code, bind_ok, -Fin.ofNat_eq_cast, engineFor_ne]

theorem RoundTrip.sbq (d : Reg) : RoundTrip.Statement (.sbq d) := by
  intro hw _ rest
  have := reg_code_lt d
  obtain ⟨h0, h1, h2, h3, h4, h5, h6⟩ := fieldsT 0xAA d.code 0 0 0 (rest.getD 0 0) (rest.getD 1 0) (by omega) (by decide) (by decide) (by decide) (by decide)
  rw [show encode (.sbq d) = [encT 0xAA d.code 0 0 0] from rfl, List.headD_cons, List.singleton_append]
  rw [decode1 _ 0xAA rest h0 (by decide) (by decide), body101 _ 0xAA _ h0 (by decide) (by decide), arm_AA]
  generalize (⟨encT 0xAA d.code 0 0 0, rest.getD 0 0, rest.getD 1 0⟩ : Words) = w at h1 h2 h3 h4 h5 h6 ⊢
  simp only [h1, h2, h3, zeroF_zero, ne_eq, engineFor_ne, not_false_eq_true, accept_some, bind_ok, regOf_code, Nat.zero_div, Nat.zero_mod, Nat.zero_mul, Nat.add_zero, listed_true, h4, h5, h6, decide_true]

theorem RoundTrip.sbwait (a : RcSrc) (n : Src) : RoundTrip.Statement (.sbwait a n) := by
  intro hw _ rest
  have := rc_code_lt a; have := src_code_lt n
  obtain ⟨h0, h1, h2, h3, h4, h5, h6⟩ := fieldsT 0xAB 0 a.code n.code 0 (rest.getD 0 0) (rest.getD 1 0) (by decide) (by omega) (by omega) (by decide) (by decide)
  show decodeWords (nativeEngine (encT 0xAB 0 a.code n.code 0)) ((encT 0xAB 0 a.code n.code 0) :: rest) = _
  rw [decode1 _ 0xAB rest h0 (by decide) (by decide), body101 _ 0xAB _ h0 (by decide) (by decide), arm_AB]
  generalize (⟨encT 0xAB 0 a.code n.code 0, rest.getD 0 0, rest.getD 1 0⟩ : Words) = w at h1 h2 h3 h4 h5 h6 ⊢
  simp [decAB, zeroF_zero, listed_true, accept_some, h1, h2, h3, h4, h5, h6, srcOf_code, rcOf_code, bind_ok, -Fin.ofNat_eq_cast, engineFor_ne]

theorem RoundTrip.sbwaitR (a : RcSrc) (n : Src) : RoundTrip.Statement (.sbwaitR a n) := by
  intro hw _ rest
  have := rc_code_lt a; have := src_code_lt n
  obtain ⟨h0, h1, h2, h3, h4, h5, h6⟩ := fieldsT 0xAB 0 a.code n.code 1 (rest.getD 0 0) (rest.getD 1 0) (by decide) (by omega) (by omega) (by decide) (by decide)
  show decodeWords (nativeEngine (encT 0xAB 0 a.code n.code 1)) ((encT 0xAB 0 a.code n.code 1) :: rest) = _
  rw [decode1 _ 0xAB rest h0 (by decide) (by decide), body101 _ 0xAB _ h0 (by decide) (by decide), arm_AB]
  generalize (⟨encT 0xAB 0 a.code n.code 1, rest.getD 0 0, rest.getD 1 0⟩ : Words) = w at h1 h2 h3 h4 h5 h6 ⊢
  simp [decAB, zeroF_zero, listed_true, accept_some, h1, h2, h3, h4, h5, h6, srcOf_code, rcOf_code, bind_ok, -Fin.ofNat_eq_cast, engineFor_ne]

theorem RoundTrip.barr (a : RcSrc) : RoundTrip.Statement (.barr a) := by
  intro hw _ rest
  have := rc_code_lt a
  obtain ⟨h0, h1, h2, h3, h4, h5, h6⟩ := fieldsT 0xAC 0 a.code 0 0 (rest.getD 0 0) (rest.getD 1 0) (by decide) (by omega) (by decide) (by decide) (by decide)
  show decodeWords (nativeEngine (encT 0xAC 0 a.code 0 0)) ((encT 0xAC 0 a.code 0 0) :: rest) = _
  rw [decode1 _ 0xAC rest h0 (by decide) (by decide), body101 _ 0xAC _ h0 (by decide) (by decide), arm_AC]
  generalize (⟨encT 0xAC 0 a.code 0 0, rest.getD 0 0, rest.getD 1 0⟩ : Words) = w at h1 h2 h3 h4 h5 h6 ⊢
  simp [dec3, zeroF_zero, listed_true, accept_some, h1, h2, h3, h4, h5, h6, rcOf_code, bind_ok, -Fin.ofNat_eq_cast, engineFor_ne]

theorem RoundTrip.barrArm (d : Reg) (a : RcSrc) (n : Src) : RoundTrip.Statement (.barrArm d a n) := by
  intro hw _ rest
  have := reg_code_lt d; have := rc_code_lt a; have := src_code_lt n
  obtain ⟨h0, h1, h2, h3, h4, h5, h6⟩ := fieldsT 0xAC d.code a.code n.code 1 (rest.getD 0 0) (rest.getD 1 0) (by omega) (by omega) (by omega) (by decide) (by decide)
  show decodeWords (nativeEngine (encT 0xAC d.code a.code n.code 1)) ((encT 0xAC d.code a.code n.code 1) :: rest) = _
  rw [decode1 _ 0xAC rest h0 (by decide) (by decide), body101 _ 0xAC _ h0 (by decide) (by decide), arm_AC]
  generalize (⟨encT 0xAC d.code a.code n.code 1, rest.getD 0 0, rest.getD 1 0⟩ : Words) = w at h1 h2 h3 h4 h5 h6 ⊢
  simp [dec3, zeroF_zero, listed_true, accept_some, h1, h2, h3, h4, h5, h6, regOf_code, srcOf_code, rcOf_code, bind_ok, -Fin.ofNat_eq_cast, engineFor_ne]

theorem RoundTrip.barrDis (a : RcSrc) : RoundTrip.Statement (.barrDis a) := by
  intro hw _ rest
  have := rc_code_lt a
  obtain ⟨h0, h1, h2, h3, h4, h5, h6⟩ := fieldsT 0xAC 0 a.code 0 2 (rest.getD 0 0) (rest.getD 1 0) (by decide) (by omega) (by decide) (by decide) (by decide)
  show decodeWords (nativeEngine (encT 0xAC 0 a.code 0 2)) ((encT 0xAC 0 a.code 0 2) :: rest) = _
  rw [decode1 _ 0xAC rest h0 (by decide) (by decide), body101 _ 0xAC _ h0 (by decide) (by decide), arm_AC]
  generalize (⟨encT 0xAC 0 a.code 0 2, rest.getD 0 0, rest.getD 1 0⟩ : Words) = w at h1 h2 h3 h4 h5 h6 ⊢
  simp [dec3, zeroF_zero, listed_true, accept_some, h1, h2, h3, h4, h5, h6, rcOf_code, bind_ok, -Fin.ofNat_eq_cast, engineFor_ne]

theorem RoundTrip.bwait (d : Reg) (a : RcSrc) (v : Src) : RoundTrip.Statement (.bwait d a v) := by
  intro hw _ rest
  have := reg_code_lt d; have := rc_code_lt a; have := src_code_lt v
  obtain ⟨h0, h1, h2, h3, h4, h5, h6⟩ := fieldsT 0xAD d.code a.code v.code 0 (rest.getD 0 0) (rest.getD 1 0) (by omega) (by omega) (by omega) (by decide) (by decide)
  show decodeWords (nativeEngine (encT 0xAD d.code a.code v.code 0)) ((encT 0xAD d.code a.code v.code 0) :: rest) = _
  rw [decode1 _ 0xAD rest h0 (by decide) (by decide), body101 _ 0xAD _ h0 (by decide) (by decide), arm_AD]
  generalize (⟨encT 0xAD d.code a.code v.code 0, rest.getD 0 0, rest.getD 1 0⟩ : Words) = w at h1 h2 h3 h4 h5 h6 ⊢
  simp [dec3, listed_true, accept_some, h1, h2, h3, h4, h5, h6, regOf_code, srcOf_code, rcOf_code, bind_ok, -Fin.ofNat_eq_cast, engineFor_ne]

theorem RoundTrip.bwaitG (d : Reg) (a : RcSrc) (v : Src) : RoundTrip.Statement (.bwaitG d a v) := by
  intro hw _ rest
  have := reg_code_lt d; have := rc_code_lt a; have := src_code_lt v
  obtain ⟨h0, h1, h2, h3, h4, h5, h6⟩ := fieldsT 0xAD d.code a.code v.code 1 (rest.getD 0 0) (rest.getD 1 0) (by omega) (by omega) (by omega) (by decide) (by decide)
  show decodeWords (nativeEngine (encT 0xAD d.code a.code v.code 1)) ((encT 0xAD d.code a.code v.code 1) :: rest) = _
  rw [decode1 _ 0xAD rest h0 (by decide) (by decide), body101 _ 0xAD _ h0 (by decide) (by decide), arm_AD]
  generalize (⟨encT 0xAD d.code a.code v.code 1, rest.getD 0 0, rest.getD 1 0⟩ : Words) = w at h1 h2 h3 h4 h5 h6 ⊢
  simp [dec3, listed_true, accept_some, h1, h2, h3, h4, h5, h6, regOf_code, srcOf_code, rcOf_code, bind_ok, -Fin.ofNat_eq_cast, engineFor_ne]

theorem RoundTrip.bstat (d : Reg) (a : RcSrc) (k : Src) : RoundTrip.Statement (.bstat d a k) := by
  intro hw _ rest
  have := reg_code_lt d; have := rc_code_lt a; have := src_code_lt k
  obtain ⟨h0, h1, h2, h3, h4, h5, h6⟩ := fieldsT 0xAE d.code a.code k.code 0 (rest.getD 0 0) (rest.getD 1 0) (by omega) (by omega) (by omega) (by decide) (by decide)
  show decodeWords (nativeEngine (encT 0xAE d.code a.code k.code 0)) ((encT 0xAE d.code a.code k.code 0) :: rest) = _
  rw [decode1 _ 0xAE rest h0 (by decide) (by decide), body101 _ 0xAE _ h0 (by decide) (by decide), arm_AE]
  generalize (⟨encT 0xAE d.code a.code k.code 0, rest.getD 0 0, rest.getD 1 0⟩ : Words) = w at h1 h2 h3 h4 h5 h6 ⊢
  simp [dec3, listed_true, accept_some, h1, h2, h3, h4, h5, h6, regOf_code, srcOf_code, rcOf_code, bind_ok, -Fin.ofNat_eq_cast, engineFor_ne]

theorem RoundTrip.eclaim (d : Reg) (q : Fin 16) (n : Src) : RoundTrip.Statement (.eclaim d q n) := by
  intro hw _ rest
  have := reg_code_lt d; have := q.isLt; have := src_code_lt n
  obtain ⟨h0, h1, h2, h3, h4, h5, h6⟩ := fieldsT 0xC1 d.code q.val n.code 0 (rest.getD 0 0) (rest.getD 1 0) (by omega) (by omega) (by omega) (by decide) (by decide)
  show decodeWords (nativeEngine (encT 0xC1 d.code q.val n.code 0)) ((encT 0xC1 d.code q.val n.code 0) :: rest) = _
  rw [decode1 _ 0xC1 rest h0 (by decide) (by decide), body110 _ 0xC1 _ h0 (by decide) (by decide), arm_C1]
  generalize (⟨encT 0xC1 d.code q.val n.code 0, rest.getD 0 0, rest.getD 1 0⟩ : Words) = w at h1 h2 h3 h4 h5 h6 ⊢
  simp [dec3, listed_true, accept_some, h1, h2, h3, h4, h5, h6, regOf_code, srcOf_code, nameOf_code 16, bind_ok, -Fin.ofNat_eq_cast, engineFor_ne]

theorem RoundTrip.ecap (d : Reg) (q : Fin 16) (n : Src) : RoundTrip.Statement (.ecap d q n) := by
  intro hw _ rest
  have := reg_code_lt d; have := q.isLt; have := src_code_lt n
  obtain ⟨h0, h1, h2, h3, h4, h5, h6⟩ := fieldsT 0xC2 d.code q.val n.code 0 (rest.getD 0 0) (rest.getD 1 0) (by omega) (by omega) (by omega) (by decide) (by decide)
  show decodeWords (nativeEngine (encT 0xC2 d.code q.val n.code 0)) ((encT 0xC2 d.code q.val n.code 0) :: rest) = _
  rw [decode1 _ 0xC2 rest h0 (by decide) (by decide), body110 _ 0xC2 _ h0 (by decide) (by decide), arm_C2]
  generalize (⟨encT 0xC2 d.code q.val n.code 0, rest.getD 0 0, rest.getD 1 0⟩ : Words) = w at h1 h2 h3 h4 h5 h6 ⊢
  simp [dec3, listed_true, accept_some, h1, h2, h3, h4, h5, h6, regOf_code, srcOf_code, nameOf_code 16, bind_ok, -Fin.ofNat_eq_cast, engineFor_ne]

theorem RoundTrip.eclr (hi : Reg) (q : Fin 16) (lo : Src) : RoundTrip.Statement (.eclr hi q lo) := by
  intro hw _ rest
  have := reg_code_lt hi; have := q.isLt; have := src_code_lt lo
  obtain ⟨h0, h1, h2, h3, h4, h5, h6⟩ := fieldsT 0xC3 hi.code q.val lo.code 0 (rest.getD 0 0) (rest.getD 1 0) (by omega) (by omega) (by omega) (by decide) (by decide)
  show decodeWords (nativeEngine (encT 0xC3 hi.code q.val lo.code 0)) ((encT 0xC3 hi.code q.val lo.code 0) :: rest) = _
  rw [decode1 _ 0xC3 rest h0 (by decide) (by decide), body110 _ 0xC3 _ h0 (by decide) (by decide), arm_C3]
  generalize (⟨encT 0xC3 hi.code q.val lo.code 0, rest.getD 0 0, rest.getD 1 0⟩ : Words) = w at h1 h2 h3 h4 h5 h6 ⊢
  simp [dec3, zeroF_zero, listed_true, accept_some, h1, h2, h3, h4, h5, h6, regOf_code, srcOf_code, nameOf_code 16, bind_ok, -Fin.ofNat_eq_cast, engineFor_ne]

theorem RoundTrip.eclrFree (q : Fin 16) : RoundTrip.Statement (.eclrFree q) := by
  intro hw _ rest
  have := q.isLt
  obtain ⟨h0, h1, h2, h3, h4, h5, h6⟩ := fieldsT 0xC3 0 q.val 0 1 (rest.getD 0 0) (rest.getD 1 0) (by decide) (by omega) (by decide) (by decide) (by decide)
  show decodeWords (nativeEngine (encT 0xC3 0 q.val 0 1)) ((encT 0xC3 0 q.val 0 1) :: rest) = _
  rw [decode1 _ 0xC3 rest h0 (by decide) (by decide), body110 _ 0xC3 _ h0 (by decide) (by decide), arm_C3]
  generalize (⟨encT 0xC3 0 q.val 0 1, rest.getD 0 0, rest.getD 1 0⟩ : Words) = w at h1 h2 h3 h4 h5 h6 ⊢
  simp [dec3, zeroF_zero, listed_true, accept_some, h1, h2, h3, h4, h5, h6, nameOf_code 16, bind_ok, -Fin.ofNat_eq_cast, engineFor_ne]

theorem RoundTrip.eins (q : Fin 16) (a : RcSrc) (n : Src) : RoundTrip.Statement (.eins q a n) := by
  intro hw _ rest
  have := q.isLt; have := rc_code_lt a; have := src_code_lt n
  obtain ⟨h0, h1, h2, h3, h4, h5, h6⟩ := fieldsT 0xC4 q.val a.code n.code 0 (rest.getD 0 0) (rest.getD 1 0) (by omega) (by omega) (by omega) (by decide) (by decide)
  show decodeWords (nativeEngine (encT 0xC4 q.val a.code n.code 0)) ((encT 0xC4 q.val a.code n.code 0) :: rest) = _
  rw [decode1 _ 0xC4 rest h0 (by decide) (by decide), body110 _ 0xC4 _ h0 (by decide) (by decide), arm_C4]
  generalize (⟨encT 0xC4 q.val a.code n.code 0, rest.getD 0 0, rest.getD 1 0⟩ : Words) = w at h1 h2 h3 h4 h5 h6 ⊢
  simp [decEA, listed_true, handleD, accept_some, h1, h2, h3, h4, h5, h6, srcOf_code, rcOf_code, bind_ok, -Fin.ofNat_eq_cast, engineFor_ne]

theorem RoundTrip.emax (d : Fin 16) (x : Fin 16) (y : Fin 16) : RoundTrip.Statement (.emax d x y) := by
  intro hw _ rest
  have := d.isLt; have := x.isLt; have := y.isLt
  obtain ⟨h0, h1, h2, h3, h4, h5, h6⟩ := fieldsT 0xC5 d.val x.val y.val 0 (rest.getD 0 0) (rest.getD 1 0) (by omega) (by omega) (by omega) (by decide) (by decide)
  show decodeWords (nativeEngine (encT 0xC5 d.val x.val y.val 0)) ((encT 0xC5 d.val x.val y.val 0) :: rest) = _
  rw [decode1 _ 0xC5 rest h0 (by decide) (by decide), body110 _ 0xC5 _ h0 (by decide) (by decide), arm_C5]
  generalize (⟨encT 0xC5 d.val x.val y.val 0, rest.getD 0 0, rest.getD 1 0⟩ : Words) = w at h1 h2 h3 h4 h5 h6 ⊢
  simp [decE3, listed_true, handleD, accept_some, h1, h2, h3, h4, h5, h6, nameOf_code 16, bind_ok, -Fin.ofNat_eq_cast, engineFor_ne]

theorem RoundTrip.esum (d : Fin 16) (x : Fin 16) (y : Fin 16) : RoundTrip.Statement (.esum d x y) := by
  intro hw _ rest
  have := d.isLt; have := x.isLt; have := y.isLt
  obtain ⟨h0, h1, h2, h3, h4, h5, h6⟩ := fieldsT 0xC6 d.val x.val y.val 0 (rest.getD 0 0) (rest.getD 1 0) (by omega) (by omega) (by omega) (by decide) (by decide)
  show decodeWords (nativeEngine (encT 0xC6 d.val x.val y.val 0)) ((encT 0xC6 d.val x.val y.val 0) :: rest) = _
  rw [decode1 _ 0xC6 rest h0 (by decide) (by decide), body110 _ 0xC6 _ h0 (by decide) (by decide), arm_C6]
  generalize (⟨encT 0xC6 d.val x.val y.val 0, rest.getD 0 0, rest.getD 1 0⟩ : Words) = w at h1 h2 h3 h4 h5 h6 ⊢
  simp [decE3, listed_true, handleD, accept_some, h1, h2, h3, h4, h5, h6, nameOf_code 16, bind_ok, -Fin.ofNat_eq_cast, engineFor_ne]

theorem RoundTrip.einf (d : Fin 16) (x : Fin 16) (y : Fin 16) : RoundTrip.Statement (.einf d x y) := by
  intro hw _ rest
  have := d.isLt; have := x.isLt; have := y.isLt
  obtain ⟨h0, h1, h2, h3, h4, h5, h6⟩ := fieldsT 0xC7 d.val x.val y.val 0 (rest.getD 0 0) (rest.getD 1 0) (by omega) (by omega) (by omega) (by decide) (by decide)
  show decodeWords (nativeEngine (encT 0xC7 d.val x.val y.val 0)) ((encT 0xC7 d.val x.val y.val 0) :: rest) = _
  rw [decode1 _ 0xC7 rest h0 (by decide) (by decide), body110 _ 0xC7 _ h0 (by decide) (by decide), arm_C7]
  generalize (⟨encT 0xC7 d.val x.val y.val 0, rest.getD 0 0, rest.getD 1 0⟩ : Words) = w at h1 h2 h3 h4 h5 h6 ⊢
  simp [decE3, listed_true, handleD, accept_some, h1, h2, h3, h4, h5, h6, nameOf_code 16, bind_ok, -Fin.ofNat_eq_cast, engineFor_ne]

theorem RoundTrip.eleg (d : Fin 16) (x : Fin 16) : RoundTrip.Statement (.eleg d x) := by
  intro hw _ rest
  have := d.isLt; have := x.isLt
  obtain ⟨h0, h1, h2, h3, h4, h5, h6⟩ := fieldsT 0xC8 d.val x.val 0 0 (rest.getD 0 0) (rest.getD 1 0) (by omega) (by omega) (by decide) (by decide) (by decide)
  show decodeWords (nativeEngine (encT 0xC8 d.val x.val 0 0)) ((encT 0xC8 d.val x.val 0 0) :: rest) = _
  rw [decode1 _ 0xC8 rest h0 (by decide) (by decide), body110 _ 0xC8 _ h0 (by decide) (by decide), arm_C8]
  generalize (⟨encT 0xC8 d.val x.val 0 0, rest.getD 0 0, rest.getD 1 0⟩ : Words) = w at h1 h2 h3 h4 h5 h6 ⊢
  simp [handleD, zeroF_zero, listed_true, accept_some, h1, h2, h3, h4, h5, h6, nameOf_code 16, bind_ok, -Fin.ofNat_eq_cast, engineFor_ne]

theorem RoundTrip.eeval (q : Fin 16) (a : RcSrc) (n : Src) : RoundTrip.Statement (.eeval q a n) := by
  intro hw _ rest
  have := q.isLt; have := rc_code_lt a; have := src_code_lt n
  obtain ⟨h0, h1, h2, h3, h4, h5, h6⟩ := fieldsT 0xC9 q.val a.code n.code 0 (rest.getD 0 0) (rest.getD 1 0) (by omega) (by omega) (by omega) (by decide) (by decide)
  show decodeWords (nativeEngine (encT 0xC9 q.val a.code n.code 0)) ((encT 0xC9 q.val a.code n.code 0) :: rest) = _
  rw [decode1 _ 0xC9 rest h0 (by decide) (by decide), body110 _ 0xC9 _ h0 (by decide) (by decide), arm_C9]
  generalize (⟨encT 0xC9 q.val a.code n.code 0, rest.getD 0 0, rest.getD 1 0⟩ : Words) = w at h1 h2 h3 h4 h5 h6 ⊢
  simp [decEA, listed_true, handleD, accept_some, h1, h2, h3, h4, h5, h6, srcOf_code, rcOf_code, bind_ok, -Fin.ofNat_eq_cast, engineFor_ne]

theorem RoundTrip.eread (q : Fin 16) (a : RcSrc) (n : Src) : RoundTrip.Statement (.eread q a n) := by
  intro hw _ rest
  have := q.isLt; have := rc_code_lt a; have := src_code_lt n
  obtain ⟨h0, h1, h2, h3, h4, h5, h6⟩ := fieldsT 0xCA q.val a.code n.code 0 (rest.getD 0 0) (rest.getD 1 0) (by omega) (by omega) (by omega) (by decide) (by decide)
  show decodeWords (nativeEngine (encT 0xCA q.val a.code n.code 0)) ((encT 0xCA q.val a.code n.code 0) :: rest) = _
  rw [decode1 _ 0xCA rest h0 (by decide) (by decide), body110 _ 0xCA _ h0 (by decide) (by decide), arm_CA]
  generalize (⟨encT 0xCA q.val a.code n.code 0, rest.getD 0 0, rest.getD 1 0⟩ : Words) = w at h1 h2 h3 h4 h5 h6 ⊢
  simp [decEA, listed_true, handleD, accept_some, h1, h2, h3, h4, h5, h6, srcOf_code, rcOf_code, bind_ok, -Fin.ofNat_eq_cast, engineFor_ne]

theorem RoundTrip.ecnt (d : Reg) (q : Fin 16) : RoundTrip.Statement (.ecnt d q) := by
  intro hw _ rest
  have := reg_code_lt d; have := q.isLt
  obtain ⟨h0, h1, h2, h3, h4, h5, h6⟩ := fieldsT 0xCB d.code q.val 0 0 (rest.getD 0 0) (rest.getD 1 0) (by omega) (by omega) (by decide) (by decide) (by decide)
  show decodeWords (nativeEngine (encT 0xCB d.code q.val 0 0)) ((encT 0xCB d.code q.val 0 0) :: rest) = _
  rw [decode1 _ 0xCB rest h0 (by decide) (by decide), body110 _ 0xCB _ h0 (by decide) (by decide), arm_CB]
  generalize (⟨encT 0xCB d.code q.val 0 0, rest.getD 0 0, rest.getD 1 0⟩ : Words) = w at h1 h2 h3 h4 h5 h6 ⊢
  simp [dec2, zeroF_zero, listed_true, accept_some, h1, h2, h3, h4, h5, h6, regOf_code, nameOf_code 16, bind_ok, -Fin.ofNat_eq_cast, engineFor_ne]

theorem RoundTrip.vexp2 (d : Reg) (a : RcSrc) (n : Src) : RoundTrip.Statement (.vexp2 d a n) := by
  intro hw _ rest
  have := reg_code_lt d; have := rc_code_lt a; have := src_code_lt n
  obtain ⟨h0, h1, h2, h3, h4, h5, h6⟩ := fieldsT 0xD0 d.code a.code n.code 0 (rest.getD 0 0) (rest.getD 1 0) (by omega) (by omega) (by omega) (by decide) (by decide)
  show decodeWords (nativeEngine (encT 0xD0 d.code a.code n.code 0)) ((encT 0xD0 d.code a.code n.code 0) :: rest) = _
  rw [decode1 _ 0xD0 rest h0 (by decide) (by decide), body110 _ 0xD0 _ h0 (by decide) (by decide), arm_D0]
  generalize (⟨encT 0xD0 d.code a.code n.code 0, rest.getD 0 0, rest.getD 1 0⟩ : Words) = w at h1 h2 h3 h4 h5 h6 ⊢
  simp [dec3, listed_true, accept_some, h1, h2, h3, h4, h5, h6, regOf_code, srcOf_code, rcOf_code, bind_ok, -Fin.ofNat_eq_cast, engineFor_ne]

theorem RoundTrip.vlog2 (d : Reg) (a : RcSrc) (n : Src) : RoundTrip.Statement (.vlog2 d a n) := by
  intro hw _ rest
  have := reg_code_lt d; have := rc_code_lt a; have := src_code_lt n
  obtain ⟨h0, h1, h2, h3, h4, h5, h6⟩ := fieldsT 0xD1 d.code a.code n.code 0 (rest.getD 0 0) (rest.getD 1 0) (by omega) (by omega) (by omega) (by decide) (by decide)
  show decodeWords (nativeEngine (encT 0xD1 d.code a.code n.code 0)) ((encT 0xD1 d.code a.code n.code 0) :: rest) = _
  rw [decode1 _ 0xD1 rest h0 (by decide) (by decide), body110 _ 0xD1 _ h0 (by decide) (by decide), arm_D1]
  generalize (⟨encT 0xD1 d.code a.code n.code 0, rest.getD 0 0, rest.getD 1 0⟩ : Words) = w at h1 h2 h3 h4 h5 h6 ⊢
  simp [dec3, listed_true, accept_some, h1, h2, h3, h4, h5, h6, regOf_code, srcOf_code, rcOf_code, bind_ok, -Fin.ofNat_eq_cast, engineFor_ne]

theorem RoundTrip.vrcp (d : Reg) (a : RcSrc) (n : Src) : RoundTrip.Statement (.vrcp d a n) := by
  intro hw _ rest
  have := reg_code_lt d; have := rc_code_lt a; have := src_code_lt n
  obtain ⟨h0, h1, h2, h3, h4, h5, h6⟩ := fieldsT 0xD2 d.code a.code n.code 0 (rest.getD 0 0) (rest.getD 1 0) (by omega) (by omega) (by omega) (by decide) (by decide)
  show decodeWords (nativeEngine (encT 0xD2 d.code a.code n.code 0)) ((encT 0xD2 d.code a.code n.code 0) :: rest) = _
  rw [decode1 _ 0xD2 rest h0 (by decide) (by decide), body110 _ 0xD2 _ h0 (by decide) (by decide), arm_D2]
  generalize (⟨encT 0xD2 d.code a.code n.code 0, rest.getD 0 0, rest.getD 1 0⟩ : Words) = w at h1 h2 h3 h4 h5 h6 ⊢
  simp [dec3, listed_true, accept_some, h1, h2, h3, h4, h5, h6, regOf_code, srcOf_code, rcOf_code, bind_ok, -Fin.ofNat_eq_cast, engineFor_ne]

theorem RoundTrip.vrsq (d : Reg) (a : RcSrc) (n : Src) : RoundTrip.Statement (.vrsq d a n) := by
  intro hw _ rest
  have := reg_code_lt d; have := rc_code_lt a; have := src_code_lt n
  obtain ⟨h0, h1, h2, h3, h4, h5, h6⟩ := fieldsT 0xD3 d.code a.code n.code 0 (rest.getD 0 0) (rest.getD 1 0) (by omega) (by omega) (by omega) (by decide) (by decide)
  show decodeWords (nativeEngine (encT 0xD3 d.code a.code n.code 0)) ((encT 0xD3 d.code a.code n.code 0) :: rest) = _
  rw [decode1 _ 0xD3 rest h0 (by decide) (by decide), body110 _ 0xD3 _ h0 (by decide) (by decide), arm_D3]
  generalize (⟨encT 0xD3 d.code a.code n.code 0, rest.getD 0 0, rest.getD 1 0⟩ : Words) = w at h1 h2 h3 h4 h5 h6 ⊢
  simp [dec3, listed_true, accept_some, h1, h2, h3, h4, h5, h6, regOf_code, srcOf_code, rcOf_code, bind_ok, -Fin.ofNat_eq_cast, engineFor_ne]

theorem RoundTrip.vtanh (d : Reg) (a : RcSrc) (n : Src) : RoundTrip.Statement (.vtanh d a n) := by
  intro hw _ rest
  have := reg_code_lt d; have := rc_code_lt a; have := src_code_lt n
  obtain ⟨h0, h1, h2, h3, h4, h5, h6⟩ := fieldsT 0xD4 d.code a.code n.code 0 (rest.getD 0 0) (rest.getD 1 0) (by omega) (by omega) (by omega) (by decide) (by decide)
  show decodeWords (nativeEngine (encT 0xD4 d.code a.code n.code 0)) ((encT 0xD4 d.code a.code n.code 0) :: rest) = _
  rw [decode1 _ 0xD4 rest h0 (by decide) (by decide), body110 _ 0xD4 _ h0 (by decide) (by decide), arm_D4]
  generalize (⟨encT 0xD4 d.code a.code n.code 0, rest.getD 0 0, rest.getD 1 0⟩ : Words) = w at h1 h2 h3 h4 h5 h6 ⊢
  simp [dec3, listed_true, accept_some, h1, h2, h3, h4, h5, h6, regOf_code, srcOf_code, rcOf_code, bind_ok, -Fin.ofNat_eq_cast, engineFor_ne]

theorem RoundTrip.send (vn : SendNet) (d : Reg) (a : RcSrc) (n : Src) : RoundTrip.Statement (.send vn d a n) := by
  cases vn
  · intro hw _ rest
    have := reg_code_lt d; have := rc_code_lt a; have := src_code_lt n
    obtain ⟨h0, h1, h2, h3, h4, h5, h6⟩ := fieldsT 0xE1 d.code a.code n.code 0 (rest.getD 0 0) (rest.getD 1 0) (by omega) (by omega) (by omega) (by decide) (by decide)
    show decodeWords (nativeEngine (encT 0xE1 d.code a.code n.code 0)) ((encT 0xE1 d.code a.code n.code 0) :: rest) = _
    rw [decode1 _ 0xE1 rest h0 (by decide) (by decide), body111 _ 0xE1 _ h0 (by decide), arm_E1]
    generalize (⟨encT 0xE1 d.code a.code n.code 0, rest.getD 0 0, rest.getD 1 0⟩ : Words) = w at h1 h2 h3 h4 h5 h6 ⊢
    simp [dec3, listed_true, accept_some, h1, h2, h3, h4, h5, h6, regOf_code, srcOf_code, rcOf_code, bind_ok, -Fin.ofNat_eq_cast, engineFor_ne]
  · intro hw _ rest
    have := reg_code_lt d; have := rc_code_lt a; have := src_code_lt n
    obtain ⟨h0, h1, h2, h3, h4, h5, h6⟩ := fieldsT 0xE1 d.code a.code n.code 1 (rest.getD 0 0) (rest.getD 1 0) (by omega) (by omega) (by omega) (by decide) (by decide)
    show decodeWords (nativeEngine (encT 0xE1 d.code a.code n.code 1)) ((encT 0xE1 d.code a.code n.code 1) :: rest) = _
    rw [decode1 _ 0xE1 rest h0 (by decide) (by decide), body111 _ 0xE1 _ h0 (by decide), arm_E1]
    generalize (⟨encT 0xE1 d.code a.code n.code 1, rest.getD 0 0, rest.getD 1 0⟩ : Words) = w at h1 h2 h3 h4 h5 h6 ⊢
    simp [dec3, listed_true, accept_some, h1, h2, h3, h4, h5, h6, regOf_code, srcOf_code, rcOf_code, bind_ok, -Fin.ofNat_eq_cast, engineFor_ne]
  · intro hw _ rest
    have := reg_code_lt d; have := rc_code_lt a; have := src_code_lt n
    obtain ⟨h0, h1, h2, h3, h4, h5, h6⟩ := fieldsT 0xE1 d.code a.code n.code 2 (rest.getD 0 0) (rest.getD 1 0) (by omega) (by omega) (by omega) (by decide) (by decide)
    show decodeWords (nativeEngine (encT 0xE1 d.code a.code n.code 2)) ((encT 0xE1 d.code a.code n.code 2) :: rest) = _
    rw [decode1 _ 0xE1 rest h0 (by decide) (by decide), body111 _ 0xE1 _ h0 (by decide), arm_E1]
    generalize (⟨encT 0xE1 d.code a.code n.code 2, rest.getD 0 0, rest.getD 1 0⟩ : Words) = w at h1 h2 h3 h4 h5 h6 ⊢
    simp [dec3, listed_true, accept_some, h1, h2, h3, h4, h5, h6, regOf_code, srcOf_code, rcOf_code, bind_ok, -Fin.ofNat_eq_cast, engineFor_ne]

theorem RoundTrip.sendi (rep : Bool) (d : Reg) (a : RcSrc) (n : Src) : RoundTrip.Statement (.sendi rep d a n) := by
  intro hw _ rest
  have := bitOf_lt rep; have := reg_code_lt d; have := rc_code_lt a; have := src_code_lt n
  obtain ⟨h0, h1, h2, h3, h4, h5, h6⟩ := fieldsT 0xE2 d.code a.code n.code (bitOf rep) (rest.getD 0 0) (rest.getD 1 0) (by omega) (by omega) (by omega) (by omega) (by decide)
  show decodeWords (nativeEngine (encT 0xE2 d.code a.code n.code (bitOf rep))) ((encT 0xE2 d.code a.code n.code (bitOf rep)) :: rest) = _
  rw [decode1 _ 0xE2 rest h0 (by decide) (by decide), body111 _ 0xE2 _ h0 (by decide), arm_E2]
  generalize (⟨encT 0xE2 d.code a.code n.code (bitOf rep), rest.getD 0 0, rest.getD 1 0⟩ : Words) = w at h1 h2 h3 h4 h5 h6 ⊢
  simp [dec3, listed_true, accept_some, h1, h2, h3, h4, h5, h6, regOf_code, srcOf_code, rcOf_code, bitOf_one, bitOf_half, bitOf_two, bitOf_le, bits_low, bits_high, bind_ok, -Fin.ofNat_eq_cast, engineFor_ne]

theorem RoundTrip.hret : RoundTrip.Statement (.hret) := by
  intro hw _ rest
  obtain ⟨h0, h1, h2, h3⟩ := fieldsS 0xE3 0 0 (rest.getD 0 0) (rest.getD 1 0) (by decide) (by decide) (by decide)
  show decodeWords (nativeEngine (encS 0xE3 0 0)) ((encS 0xE3 0 0) :: rest) = _
  rw [decode1 _ 0xE3 rest h0 (by decide) (by decide), body111 _ 0xE3 _ h0 (by decide), arm_E3]
  generalize (⟨encS 0xE3 0 0, rest.getD 0 0, rest.getD 1 0⟩ : Words) = w at h1 h2 h3 ⊢
  simp [decS0, zeroF_zero, h1, h2, h3, bind_ok, -Fin.ofNat_eq_cast, engineFor_ne]

theorem RoundTrip.aaddRemote (t : Bool) (d : Reg) (a : RcSrc) (v : Src) : RoundTrip.Statement (.aaddRemote t d a v) := by
  intro hw _ rest
  have := bitOf_lt t; have := reg_code_lt d; have := rc_code_lt a; have := src_code_lt v
  obtain ⟨h0, h1, h2, h3, h4, h5, h6⟩ := fieldsT 0xE4 d.code a.code v.code (bitOf t) (rest.getD 0 0) (rest.getD 1 0) (by omega) (by omega) (by omega) (by omega) (by decide)
  show decodeWords (nativeEngine (encT 0xE4 d.code a.code v.code (bitOf t))) ((encT 0xE4 d.code a.code v.code (bitOf t)) :: rest) = _
  rw [decode1 _ 0xE4 rest h0 (by decide) (by decide), body111 _ 0xE4 _ h0 (by decide), arm_E4]
  generalize (⟨encT 0xE4 d.code a.code v.code (bitOf t), rest.getD 0 0, rest.getD 1 0⟩ : Words) = w at h1 h2 h3 h4 h5 h6 ⊢
  simp [decRA, zeroF_zero, dec3, accept_some, h1, h2, h3, h4, h5, h6, regOf_code, srcOf_code, rcOf_code, bitOf_one, bitOf_half, bitOf_two, bitOf_le, bits_low, bits_high, bind_ok, -Fin.ofNat_eq_cast, engineFor_ne]

theorem RoundTrip.acasRemote (t : Bool) (d : Reg) (a : RcSrc) (x : Src) (nw : Src) : RoundTrip.Statement (.acasRemote t d a x nw) := by
  intro hw _ rest
  have := bitOf_lt t; have := reg_code_lt d; have := rc_code_lt a; have := src_code_lt x; have := src_code_lt nw
  obtain ⟨h0, h1, h2, h3, h4, h5, h6⟩ := fieldsT 0xE5 d.code a.code x.code (bitOf t) (encOpnd nw) (rest.getD 0 0) (by omega) (by omega) (by omega) (by omega) (by decide)
  show decodeWords (nativeEngine (encT 0xE5 d.code a.code x.code (bitOf t))) ((encT 0xE5 d.code a.code x.code (bitOf t)) :: (encOpnd nw) :: rest) = _
  rw [decode2 _ _ 0xE5 rest h0 (by decide) (by decide), body111 _ 0xE5 _ h0 (by decide), arm_E5]
  obtain ⟨g1, g2, g3⟩ := opnd_fields (encT 0xE5 d.code a.code x.code (bitOf t)) (rest.getD 0 0) nw
  generalize (⟨encT 0xE5 d.code a.code x.code (bitOf t), encOpnd nw, rest.getD 0 0⟩ : Words) = w at h1 h2 h3 h4 h5 h6 g1 g2 g3 ⊢
  simp [opndExt, zeroF_zero, accept_some, h1, h2, h3, h4, h5, h6, g1, g2, g3, regOf_code, srcOf_code, rcOf_code, bitOf_one, bitOf_half, bitOf_two, bitOf_le, bits_low, bits_high, bind_ok, -Fin.ofNat_eq_cast, engineFor_ne]

theorem RoundTrip.axchRemote (t : Bool) (d : Reg) (a : RcSrc) (v : Src) : RoundTrip.Statement (.axchRemote t d a v) := by
  intro hw _ rest
  have := bitOf_lt t; have := reg_code_lt d; have := rc_code_lt a; have := src_code_lt v
  obtain ⟨h0, h1, h2, h3, h4, h5, h6⟩ := fieldsT 0xE6 d.code a.code v.code (bitOf t) (rest.getD 0 0) (rest.getD 1 0) (by omega) (by omega) (by omega) (by omega) (by decide)
  show decodeWords (nativeEngine (encT 0xE6 d.code a.code v.code (bitOf t))) ((encT 0xE6 d.code a.code v.code (bitOf t)) :: rest) = _
  rw [decode1 _ 0xE6 rest h0 (by decide) (by decide), body111 _ 0xE6 _ h0 (by decide), arm_E6]
  generalize (⟨encT 0xE6 d.code a.code v.code (bitOf t), rest.getD 0 0, rest.getD 1 0⟩ : Words) = w at h1 h2 h3 h4 h5 h6 ⊢
  simp [decRA, zeroF_zero, dec3, accept_some, h1, h2, h3, h4, h5, h6, regOf_code, srcOf_code, rcOf_code, bitOf_one, bitOf_half, bitOf_two, bitOf_le, bits_low, bits_high, bind_ok, -Fin.ofNat_eq_cast, engineFor_ne]

theorem RoundTrip.aminRemote (t : Bool) (n : Bool) (d : Reg) (a : RcSrc) (v : Src) : RoundTrip.Statement (.aminRemote t n d a v) := by
  intro hw _ rest
  have := bitOf_lt t; have := bitOf_lt n; have := reg_code_lt d; have := rc_code_lt a; have := src_code_lt v
  obtain ⟨h0, h1, h2, h3, h4, h5, h6⟩ := fieldsT 0xE7 d.code a.code v.code (bitOf n * 2 + bitOf t) (rest.getD 0 0) (rest.getD 1 0) (by omega) (by omega) (by omega) (by omega) (by decide)
  show decodeWords (nativeEngine (encT 0xE7 d.code a.code v.code (bitOf n * 2 + bitOf t))) ((encT 0xE7 d.code a.code v.code (bitOf n * 2 + bitOf t)) :: rest) = _
  rw [decode1 _ 0xE7 rest h0 (by decide) (by decide), body111 _ 0xE7 _ h0 (by decide), arm_E7]
  generalize (⟨encT 0xE7 d.code a.code v.code (bitOf n * 2 + bitOf t), rest.getD 0 0, rest.getD 1 0⟩ : Words) = w at h1 h2 h3 h4 h5 h6 ⊢
  simp [dec3, accept_some, h1, h2, h3, h4, h5, h6, regOf_code, srcOf_code, rcOf_code, bitOf_one, bitOf_half, bitOf_two, bitOf_le, bits_low, bits_high, bind_ok, -Fin.ofNat_eq_cast, engineFor_ne]
  cases t <;> rfl

theorem RoundTrip.amaxRemote (t : Bool) (n : Bool) (d : Reg) (a : RcSrc) (v : Src) : RoundTrip.Statement (.amaxRemote t n d a v) := by
  intro hw _ rest
  have := bitOf_lt t; have := bitOf_lt n; have := reg_code_lt d; have := rc_code_lt a; have := src_code_lt v
  obtain ⟨h0, h1, h2, h3, h4, h5, h6⟩ := fieldsT 0xE8 d.code a.code v.code (bitOf n * 2 + bitOf t) (rest.getD 0 0) (rest.getD 1 0) (by omega) (by omega) (by omega) (by omega) (by decide)
  show decodeWords (nativeEngine (encT 0xE8 d.code a.code v.code (bitOf n * 2 + bitOf t))) ((encT 0xE8 d.code a.code v.code (bitOf n * 2 + bitOf t)) :: rest) = _
  rw [decode1 _ 0xE8 rest h0 (by decide) (by decide), body111 _ 0xE8 _ h0 (by decide), arm_E8]
  generalize (⟨encT 0xE8 d.code a.code v.code (bitOf n * 2 + bitOf t), rest.getD 0 0, rest.getD 1 0⟩ : Words) = w at h1 h2 h3 h4 h5 h6 ⊢
  simp [dec3, accept_some, h1, h2, h3, h4, h5, h6, regOf_code, srcOf_code, rcOf_code, bitOf_one, bitOf_half, bitOf_two, bitOf_le, bits_low, bits_high, bind_ok, -Fin.ofNat_eq_cast, engineFor_ne]
  cases t <;> rfl

theorem RoundTrip.aandRemote (t : Bool) (d : Reg) (a : RcSrc) (v : Src) : RoundTrip.Statement (.aandRemote t d a v) := by
  intro hw _ rest
  have := bitOf_lt t; have := reg_code_lt d; have := rc_code_lt a; have := src_code_lt v
  obtain ⟨h0, h1, h2, h3, h4, h5, h6⟩ := fieldsT 0xE9 d.code a.code v.code (bitOf t) (rest.getD 0 0) (rest.getD 1 0) (by omega) (by omega) (by omega) (by omega) (by decide)
  show decodeWords (nativeEngine (encT 0xE9 d.code a.code v.code (bitOf t))) ((encT 0xE9 d.code a.code v.code (bitOf t)) :: rest) = _
  rw [decode1 _ 0xE9 rest h0 (by decide) (by decide), body111 _ 0xE9 _ h0 (by decide), arm_E9]
  generalize (⟨encT 0xE9 d.code a.code v.code (bitOf t), rest.getD 0 0, rest.getD 1 0⟩ : Words) = w at h1 h2 h3 h4 h5 h6 ⊢
  simp [decRA, zeroF_zero, dec3, accept_some, h1, h2, h3, h4, h5, h6, regOf_code, srcOf_code, rcOf_code, bitOf_one, bitOf_half, bitOf_two, bitOf_le, bits_low, bits_high, bind_ok, -Fin.ofNat_eq_cast, engineFor_ne]

theorem RoundTrip.aorRemote (t : Bool) (d : Reg) (a : RcSrc) (v : Src) : RoundTrip.Statement (.aorRemote t d a v) := by
  intro hw _ rest
  have := bitOf_lt t; have := reg_code_lt d; have := rc_code_lt a; have := src_code_lt v
  obtain ⟨h0, h1, h2, h3, h4, h5, h6⟩ := fieldsT 0xEA d.code a.code v.code (bitOf t) (rest.getD 0 0) (rest.getD 1 0) (by omega) (by omega) (by omega) (by omega) (by decide)
  show decodeWords (nativeEngine (encT 0xEA d.code a.code v.code (bitOf t))) ((encT 0xEA d.code a.code v.code (bitOf t)) :: rest) = _
  rw [decode1 _ 0xEA rest h0 (by decide) (by decide), body111 _ 0xEA _ h0 (by decide), arm_EA]
  generalize (⟨encT 0xEA d.code a.code v.code (bitOf t), rest.getD 0 0, rest.getD 1 0⟩ : Words) = w at h1 h2 h3 h4 h5 h6 ⊢
  simp [decRA, zeroF_zero, dec3, accept_some, h1, h2, h3, h4, h5, h6, regOf_code, srcOf_code, rcOf_code, bitOf_one, bitOf_half, bitOf_two, bitOf_le, bits_low, bits_high, bind_ok, -Fin.ofNat_eq_cast, engineFor_ne]

theorem RoundTrip.tbind (k : Reg) (a : RcSrc) (h : RcSrc) : RoundTrip.Statement (.tbind k a h) := by
  intro hw _ rest
  have := reg_code_lt k; have := rc_code_lt a; have := rc_code_lt h
  obtain ⟨h0, h1, h2, h3, h4, h5, h6⟩ := fieldsT 0xEB k.code a.code h.code 0 (rest.getD 0 0) (rest.getD 1 0) (by omega) (by omega) (by omega) (by decide) (by decide)
  show decodeWords (nativeEngine (encT 0xEB k.code a.code h.code 0)) ((encT 0xEB k.code a.code h.code 0) :: rest) = _
  rw [decode1 _ 0xEB rest h0 (by decide) (by decide), body111 _ 0xEB _ h0 (by decide), arm_EB]
  generalize (⟨encT 0xEB k.code a.code h.code 0, rest.getD 0 0, rest.getD 1 0⟩ : Words) = w at h1 h2 h3 h4 h5 h6 ⊢
  simp [dec3, listed_true, accept_some, h1, h2, h3, h4, h5, h6, regOf_code, rcOf_code, bind_ok, -Fin.ofNat_eq_cast, engineFor_ne]

theorem RoundTrip.tunbind (a : RcSrc) : RoundTrip.Statement (.tunbind a) := by
  intro hw _ rest
  have := rc_code_lt a
  obtain ⟨h0, h1, h2, h3, h4, h5, h6⟩ := fieldsT 0xEC 0 a.code 0 0 (rest.getD 0 0) (rest.getD 1 0) (by decide) (by omega) (by decide) (by decide) (by decide)
  show decodeWords (nativeEngine (encT 0xEC 0 a.code 0 0)) ((encT 0xEC 0 a.code 0 0) :: rest) = _
  rw [decode1 _ 0xEC rest h0 (by decide) (by decide), body111 _ 0xEC _ h0 (by decide), arm_EC]
  generalize (⟨encT 0xEC 0 a.code 0 0, rest.getD 0 0, rest.getD 1 0⟩ : Words) = w at h1 h2 h3 h4 h5 h6 ⊢
  simp [zeroF_zero, listed_true, accept_some, h1, h2, h3, h4, h5, h6, rcOf_code, bind_ok, -Fin.ofNat_eq_cast, engineFor_ne]

theorem RoundTrip.csrr (d : Reg) (n : BitVec 12) : RoundTrip.Statement (.csrr d n) := by
  intro hw _ rest
  have := reg_code_lt d; have := n.isLt
  obtain ⟨h0, h1, h2, h3⟩ := fieldsS 0xED d.code n.toNat (rest.getD 0 0) (rest.getD 1 0) (by omega) (by omega) (by decide)
  show decodeWords (nativeEngine (encS 0xED d.code n.toNat)) ((encS 0xED d.code n.toNat) :: rest) = _
  rw [decode1 _ 0xED rest h0 (by decide) (by decide), body111 _ 0xED _ h0 (by decide), arm_ED, engineFor_ED]
  simp only [WellFormed, Bool.and_eq_true, Bool.not_eq_true'] at hw
  have g2 : n.toNat ≠ 0x107 ∧ n.toNat ≠ 0x113 ∧ n.toNat ≠ 0x114 ∧ n.toNat ≠ 0x115 := by simpa [csrReadRow] using hw.2
  generalize (⟨encS 0xED d.code n.toNat, rest.getD 0 0, rest.getD 1 0⟩ : Words) = w at h1 h2 h3 ⊢
  simp [zeroF_zero, listed_true, accept_some, h1, h2, h3, csrReads_mast, hw.1, g2.1, g2.2.1, g2.2.2.1, g2.2.2.2, regOf_code, bind_ok, -Fin.ofNat_eq_cast, engineFor_ne]

theorem RoundTrip.csrw (n : BitVec 12) (s : Reg) : RoundTrip.Statement (.csrw n s) := by
  intro hw _ rest
  have := n.isLt; have := reg_code_lt s
  obtain ⟨h0, h1, h2, h3⟩ := fieldsS 0xEE s.code n.toNat (rest.getD 0 0) (rest.getD 1 0) (by omega) (by omega) (by decide)
  show decodeWords (nativeEngine (encS 0xEE s.code n.toNat)) ((encS 0xEE s.code n.toNat) :: rest) = _
  rw [decode1 _ 0xEE rest h0 (by decide) (by decide), body111 _ 0xEE _ h0 (by decide), arm_EE, engineFor_EE]
  simp only [WellFormed, Bool.and_eq_true, Bool.not_eq_true'] at hw
  have g2 : n.toNat ≠ 0x0E0 ∧ n.toNat ≠ 0x112 := by simpa [csrWriteRow] using hw.2
  generalize (⟨encS 0xEE s.code n.toNat, rest.getD 0 0, rest.getD 1 0⟩ : Words) = w at h1 h2 h3 ⊢
  simp [zeroF_zero, listed_true, accept_some, h1, h2, h3, csrOn_mast, hw.1, g2.1, g2.2, regOf_code, bind_ok, -Fin.ofNat_eq_cast, engineFor_ne]

theorem RoundTrip.cyc (d : Reg) : RoundTrip.Statement (.cyc d) := by
  intro hw _ rest
  have := reg_code_lt d
  obtain ⟨h0, h1, h2, h3⟩ := fieldsS 0xEF d.code 0 (rest.getD 0 0) (rest.getD 1 0) (by omega) (by decide) (by decide)
  rw [show encode (.cyc d) = [encS 0xEF d.code 0] from rfl, List.headD_cons, List.singleton_append]
  rw [decode1 _ 0xEF rest h0 (by decide) (by decide), body111 _ 0xEF _ h0 (by decide), arm_EF]
  generalize (⟨encS 0xEF d.code 0, rest.getD 0 0, rest.getD 1 0⟩ : Words) = w at h1 h2 h3 ⊢
  simp only [h1, h2, h3, zeroF_zero, ne_eq, engineFor_ne, not_false_eq_true, accept_some, bind_ok, regOf_code]

theorem RoundTrip.binjArm (s : Reg) : RoundTrip.Statement (.binjArm s) := by
  intro hw _ rest
  have := reg_code_lt s
  obtain ⟨h0, h1, h2, h3⟩ := fieldsS 0xEE s.code 0x0E0 (rest.getD 0 0) (rest.getD 1 0) (by omega) (by decide) (by decide)
  show decodeWords (nativeEngine (encS 0xEE s.code 0x0E0)) ((encS 0xEE s.code 0x0E0) :: rest) = _
  rw [decode1 _ 0xEE rest h0 (by decide) (by decide), body111 _ 0xEE _ h0 (by decide), arm_EE, engineFor_EE]
  have g1 : csrAssigned 0x0E0 = true := by decide
  generalize (⟨encS 0xEE s.code 0x0E0, rest.getD 0 0, rest.getD 1 0⟩ : Words) = w at h1 h2 h3 ⊢
  simp [zeroF_zero, listed_true, accept_some, h1, h2, h3, csrOn_mast, g1, regOf_code, bind_ok, -Fin.ofNat_eq_cast, engineFor_ne]

theorem RoundTrip.launchRead (d : Reg) : RoundTrip.Statement (.launchRead d) := by
  intro hw _ rest
  have := reg_code_lt d
  obtain ⟨h0, h1, h2, h3⟩ := fieldsS 0xED d.code 0x107 (rest.getD 0 0) (rest.getD 1 0) (by omega) (by decide) (by decide)
  show decodeWords (nativeEngine (encS 0xED d.code 0x107)) ((encS 0xED d.code 0x107) :: rest) = _
  rw [decode1 _ 0xED rest h0 (by decide) (by decide), body111 _ 0xED _ h0 (by decide), arm_ED, engineFor_ED]
  have g1 : csrAssigned 0x107 = true := by decide
  generalize (⟨encS 0xED d.code 0x107, rest.getD 0 0, rest.getD 1 0⟩ : Words) = w at h1 h2 h3 ⊢
  simp [zeroF_zero, listed_true, accept_some, h1, h2, h3, csrReads_mast, g1, regOf_code, bind_ok, -Fin.ofNat_eq_cast, engineFor_ne]

theorem RoundTrip.syscBeat (d : Reg) (a : Src) : RoundTrip.Statement (.syscBeat d a) := by
  intro hw _ rest
  have := reg_code_lt d; have := src_code_lt a
  obtain ⟨h0, h1, h2, h3, h4, h5⟩ := fieldsI 0xF0 d.code a.code 0 (rest.getD 0 0) (rest.getD 1 0) (by omega) (by omega) (by decide) (by decide)
  show decodeWords (nativeEngine (encI 0xF0 d.code a.code 0)) ((encI 0xF0 d.code a.code 0) :: rest) = _
  rw [decode1 _ 0xF0 rest h0 (by decide) (by decide), body111 _ 0xF0 _ h0 (by decide), arm_F0]
  generalize (⟨encI 0xF0 d.code a.code 0, rest.getD 0 0, rest.getD 1 0⟩ : Words) = w at h1 h2 h3 h4 h5 ⊢
  simp [dec2, listed_true, accept_some, h1, h2, h3, h4, h5, regOf_code, srcOf_code, bind_ok, -Fin.ofNat_eq_cast, engineFor_ne]

theorem RoundTrip.syscInfo (d : Reg) (a : Src) : RoundTrip.Statement (.syscInfo d a) := by
  intro hw _ rest
  have := reg_code_lt d; have := src_code_lt a
  obtain ⟨h0, h1, h2, h3, h4, h5⟩ := fieldsI 0xF0 d.code a.code 1 (rest.getD 0 0) (rest.getD 1 0) (by omega) (by omega) (by decide) (by decide)
  show decodeWords (nativeEngine (encI 0xF0 d.code a.code 1)) ((encI 0xF0 d.code a.code 1) :: rest) = _
  rw [decode1 _ 0xF0 rest h0 (by decide) (by decide), body111 _ 0xF0 _ h0 (by decide), arm_F0]
  generalize (⟨encI 0xF0 d.code a.code 1, rest.getD 0 0, rest.getD 1 0⟩ : Words) = w at h1 h2 h3 h4 h5 ⊢
  simp [dec2, listed_true, accept_some, h1, h2, h3, h4, h5, regOf_code, srcOf_code, bind_ok, -Fin.ofNat_eq_cast, engineFor_ne]

theorem RoundTrip.syscFail (d : Reg) (a : Src) : RoundTrip.Statement (.syscFail d a) := by
  intro hw _ rest
  have := reg_code_lt d; have := src_code_lt a
  obtain ⟨h0, h1, h2, h3, h4, h5⟩ := fieldsI 0xF0 d.code a.code 2 (rest.getD 0 0) (rest.getD 1 0) (by omega) (by omega) (by decide) (by decide)
  show decodeWords (nativeEngine (encI 0xF0 d.code a.code 2)) ((encI 0xF0 d.code a.code 2) :: rest) = _
  rw [decode1 _ 0xF0 rest h0 (by decide) (by decide), body111 _ 0xF0 _ h0 (by decide), arm_F0]
  generalize (⟨encI 0xF0 d.code a.code 2, rest.getD 0 0, rest.getD 1 0⟩ : Words) = w at h1 h2 h3 h4 h5 ⊢
  simp [dec2, listed_true, accept_some, h1, h2, h3, h4, h5, regOf_code, srcOf_code, bind_ok, -Fin.ofNat_eq_cast, engineFor_ne]

theorem RoundTrip.sopen (d : Reg) (a : RcSrc) : RoundTrip.Statement (.sopen d a) := by
  intro hw _ rest
  have := reg_code_lt d; have := rc_code_lt a
  obtain ⟨h0, h1, h2, h3, h4, h5, h6⟩ := fieldsT 0xF1 d.code a.code 0 0 (rest.getD 0 0) (rest.getD 1 0) (by omega) (by omega) (by decide) (by decide) (by decide)
  show decodeWords (nativeEngine (encT 0xF1 d.code a.code 0 0)) ((encT 0xF1 d.code a.code 0 0) :: rest) = _
  rw [decode1 _ 0xF1 rest h0 (by decide) (by decide), body111 _ 0xF1 _ h0 (by decide), arm_F1]
  generalize (⟨encT 0xF1 d.code a.code 0 0, rest.getD 0 0, rest.getD 1 0⟩ : Words) = w at h1 h2 h3 h4 h5 h6 ⊢
  simp [dec2, zeroF_zero, listed_true, accept_some, h1, h2, h3, h4, h5, h6, regOf_code, rcOf_code, bind_ok, -Fin.ofNat_eq_cast, engineFor_ne]

theorem RoundTrip.sput (h : Reg) (n : Src) : RoundTrip.Statement (.sput h n) := by
  intro hw _ rest
  have := reg_code_lt h; have := src_code_lt n
  obtain ⟨h0, h1, h2, h3, h4, h5, h6⟩ := fieldsT 0xF2 h.code n.code 0 0 (rest.getD 0 0) (rest.getD 1 0) (by omega) (by omega) (by decide) (by decide) (by decide)
  show decodeWords (nativeEngine (encT 0xF2 h.code n.code 0 0)) ((encT 0xF2 h.code n.code 0 0) :: rest) = _
  rw [decode1 _ 0xF2 rest h0 (by decide) (by decide), body111 _ 0xF2 _ h0 (by decide), arm_F2]
  generalize (⟨encT 0xF2 h.code n.code 0 0, rest.getD 0 0, rest.getD 1 0⟩ : Words) = w at h1 h2 h3 h4 h5 h6 ⊢
  simp [decStream, zeroF_zero, listed_true, dec2, accept_some, h1, h2, h3, h4, h5, h6, regOf_code, srcOf_code, bind_ok, -Fin.ofNat_eq_cast, engineFor_ne]

theorem RoundTrip.sget (h : Reg) (n : Src) : RoundTrip.Statement (.sget h n) := by
  intro hw _ rest
  have := reg_code_lt h; have := src_code_lt n
  obtain ⟨h0, h1, h2, h3, h4, h5, h6⟩ := fieldsT 0xF3 h.code n.code 0 0 (rest.getD 0 0) (rest.getD 1 0) (by omega) (by omega) (by decide) (by decide) (by decide)
  show decodeWords (nativeEngine (encT 0xF3 h.code n.code 0 0)) ((encT 0xF3 h.code n.code 0 0) :: rest) = _
  rw [decode1 _ 0xF3 rest h0 (by decide) (by decide), body111 _ 0xF3 _ h0 (by decide), arm_F3]
  generalize (⟨encT 0xF3 h.code n.code 0 0, rest.getD 0 0, rest.getD 1 0⟩ : Words) = w at h1 h2 h3 h4 h5 h6 ⊢
  simp [decStream, zeroF_zero, listed_true, dec2, accept_some, h1, h2, h3, h4, h5, h6, regOf_code, srcOf_code, bind_ok, -Fin.ofNat_eq_cast, engineFor_ne]

theorem RoundTrip.sclose (d : Reg) (h : Src) : RoundTrip.Statement (.sclose d h) := by
  intro hw _ rest
  have := reg_code_lt d; have := src_code_lt h
  obtain ⟨h0, h1, h2, h3, h4, h5, h6⟩ := fieldsT 0xF4 d.code h.code 0 0 (rest.getD 0 0) (rest.getD 1 0) (by omega) (by omega) (by decide) (by decide) (by decide)
  show decodeWords (nativeEngine (encT 0xF4 d.code h.code 0 0)) ((encT 0xF4 d.code h.code 0 0) :: rest) = _
  rw [decode1 _ 0xF4 rest h0 (by decide) (by decide), body111 _ 0xF4 _ h0 (by decide), arm_F4]
  generalize (⟨encT 0xF4 d.code h.code 0 0, rest.getD 0 0, rest.getD 1 0⟩ : Words) = w at h1 h2 h3 h4 h5 h6 ⊢
  simp [decStream, zeroF_zero, listed_true, dec2, accept_some, h1, h2, h3, h4, h5, h6, regOf_code, srcOf_code, bind_ok, -Fin.ofNat_eq_cast, engineFor_ne]

theorem RoundTrip.mvgo (s : Reg) : RoundTrip.Statement (.mvgo s) := by
  intro hw _ rest
  have := reg_code_lt s
  obtain ⟨h0, h1, h2, h3⟩ := fieldsS 0xEE s.code 0x112 (rest.getD 0 0) (rest.getD 1 0) (by omega) (by decide) (by decide)
  show decodeWords (nativeEngine (encS 0xEE s.code 0x112)) ((encS 0xEE s.code 0x112) :: rest) = _
  rw [decode1 _ 0xEE rest h0 (by decide) (by decide), body111 _ 0xEE _ h0 (by decide), arm_EE, engineFor_EE]
  have g1 : csrAssigned 0x112 = true := by decide
  generalize (⟨encS 0xEE s.code 0x112, rest.getD 0 0, rest.getD 1 0⟩ : Words) = w at h1 h2 h3 ⊢
  simp [zeroF_zero, listed_true, accept_some, h1, h2, h3, csrOn_mast, g1, regOf_code, bind_ok, -Fin.ofNat_eq_cast, engineFor_ne]

theorem RoundTrip.mvwait (d : Reg) : RoundTrip.Statement (.mvwait d) := by
  intro hw _ rest
  have := reg_code_lt d
  obtain ⟨h0, h1, h2, h3⟩ := fieldsS 0xED d.code 0x113 (rest.getD 0 0) (rest.getD 1 0) (by omega) (by decide) (by decide)
  show decodeWords (nativeEngine (encS 0xED d.code 0x113)) ((encS 0xED d.code 0x113) :: rest) = _
  rw [decode1 _ 0xED rest h0 (by decide) (by decide), body111 _ 0xED _ h0 (by decide), arm_ED, engineFor_ED]
  have g1 : csrAssigned 0x113 = true := by decide
  generalize (⟨encS 0xED d.code 0x113, rest.getD 0 0, rest.getD 1 0⟩ : Words) = w at h1 h2 h3 ⊢
  simp [zeroF_zero, listed_true, accept_some, h1, h2, h3, csrReads_mast, g1, regOf_code, bind_ok, -Fin.ofNat_eq_cast, engineFor_ne]

theorem RoundTrip.hidx (d : Reg) : RoundTrip.Statement (.hidx d) := by
  intro hw _ rest
  have := reg_code_lt d
  obtain ⟨h0, h1, h2, h3⟩ := fieldsS 0xED d.code 0x114 (rest.getD 0 0) (rest.getD 1 0) (by omega) (by decide) (by decide)
  show decodeWords (nativeEngine (encS 0xED d.code 0x114)) ((encS 0xED d.code 0x114) :: rest) = _
  rw [decode1 _ 0xED rest h0 (by decide) (by decide), body111 _ 0xED _ h0 (by decide), arm_ED, engineFor_ED]
  have g1 : csrAssigned 0x114 = true := by decide
  generalize (⟨encS 0xED d.code 0x114, rest.getD 0 0, rest.getD 1 0⟩ : Words) = w at h1 h2 h3 ⊢
  simp [zeroF_zero, listed_true, accept_some, h1, h2, h3, csrReads_mast, g1, regOf_code, bind_ok, -Fin.ofNat_eq_cast, engineFor_ne]

theorem RoundTrip.hidxw (d : Reg) : RoundTrip.Statement (.hidxw d) := by
  intro hw _ rest
  have := reg_code_lt d
  obtain ⟨h0, h1, h2, h3⟩ := fieldsS 0xED d.code 0x115 (rest.getD 0 0) (rest.getD 1 0) (by omega) (by decide) (by decide)
  show decodeWords (nativeEngine (encS 0xED d.code 0x115)) ((encS 0xED d.code 0x115) :: rest) = _
  rw [decode1 _ 0xED rest h0 (by decide) (by decide), body111 _ 0xED _ h0 (by decide), arm_ED, engineFor_ED]
  have g1 : csrAssigned 0x115 = true := by decide
  generalize (⟨encS 0xED d.code 0x115, rest.getD 0 0, rest.getD 1 0⟩ : Words) = w at h1 h2 h3 ⊢
  simp [zeroF_zero, listed_true, accept_some, h1, h2, h3, csrReads_mast, g1, regOf_code, bind_ok, -Fin.ofNat_eq_cast, engineFor_ne]
theorem RoundTrip.cxdata (x0 : Nat) (x1 : CpAccess) (x2 : Option Word) : RoundTrip.Statement (.cxdata x0 x1 x2) := fun _ h => absurd rfl h
theorem RoundTrip.partition (x0 : Nat) (x1 : Word) (x2 : Word) (x3 : Word) (x4 : Word) : RoundTrip.Statement (.partition x0 x1 x2 x3 x4) := fun _ h => absurd rfl h
theorem RoundTrip.qcreate (x0 : Nat) (x1 : Word) (x2 : Word) (x3 : Word) (x4 : Word) : RoundTrip.Statement (.qcreate x0 x1 x2 x3 x4) := fun _ h => absurd rfl h
theorem RoundTrip.qdestroy (x0 : Nat) (x1 : Word) (x2 : Word) (x3 : Word) (x4 : Word) : RoundTrip.Statement (.qdestroy x0 x1 x2 x3 x4) := fun _ h => absurd rfl h
theorem RoundTrip.doorbell (x0 : Nat) (x1 : Word) (x2 : Word) (x3 : Word) (x4 : Word) : RoundTrip.Statement (.doorbell x0 x1 x2 x3 x4) := fun _ h => absurd rfl h
theorem RoundTrip.preempt (x0 : Nat) (x1 : Word) (x2 : Word) (x3 : Word) (x4 : Word) : RoundTrip.Statement (.preempt x0 x1 x2 x3 x4) := fun _ h => absurd rfl h
theorem RoundTrip.resume (x0 : Nat) (x1 : Word) (x2 : Word) (x3 : Word) (x4 : Word) : RoundTrip.Statement (.resume x0 x1 x2 x3 x4) := fun _ h => absurd rfl h
theorem RoundTrip.kill (x0 : Nat) (x1 : Word) (x2 : Word) (x3 : Word) (x4 : Word) : RoundTrip.Statement (.kill x0 x1 x2 x3 x4) := fun _ h => absurd rfl h
theorem RoundTrip.halt (x0 : Nat) (x1 : Word) (x2 : Word) (x3 : Word) (x4 : Word) : RoundTrip.Statement (.halt x0 x1 x2 x3 x4) := fun _ h => absurd rfl h
theorem RoundTrip.run (x0 : Nat) (x1 : Word) (x2 : Word) (x3 : Word) (x4 : Word) : RoundTrip.Statement (.run x0 x1 x2 x3 x4) := fun _ h => absurd rfl h
theorem RoundTrip.shootdown (x0 : Nat) (x1 : Word) (x2 : Word) (x3 : Word) (x4 : Word) : RoundTrip.Statement (.shootdown x0 x1 x2 x3 x4) := fun _ h => absurd rfl h
theorem RoundTrip.reset (x0 : Nat) (x1 : Word) (x2 : Word) (x3 : Word) (x4 : Word) : RoundTrip.Statement (.reset x0 x1 x2 x3 x4) := fun _ h => absurd rfl h
theorem RoundTrip.fwswap (x0 : Nat) (x1 : Word) (x2 : Word) (x3 : Word) (x4 : Word) : RoundTrip.Statement (.fwswap x0 x1 x2 x3 x4) := fun _ h => absurd rfl h
theorem RoundTrip.swapVerify (x0 : Nat) (x1 : Bool) (x2 : BitVec 16) : RoundTrip.Statement (.swapVerify x0 x1 x2) := fun _ h => absurd rfl h
theorem RoundTrip.launch (x0 : Nat) (x1 : Option Image) : RoundTrip.Statement (.launch x0 x1) := fun _ h => absurd rfl h
theorem RoundTrip.shroudRetrain (x0 : Nat) (x1 : Nat) : RoundTrip.Statement (.shroudRetrain x0 x1) := fun _ h => absurd rfl h
theorem RoundTrip.bootVerify (x0 : Bool) : RoundTrip.Statement (.bootVerify x0) := fun _ h => absurd rfl h
theorem RoundTrip.hbmTrain (x0 : Bool) : RoundTrip.Statement (.hbmTrain x0) := fun _ h => absurd rfl h
theorem RoundTrip.linkTrain (x0 : Bool) (x1 : BitVec 16) : RoundTrip.Statement (.linkTrain x0 x1) := fun _ h => absurd rfl h
theorem RoundTrip.pcapWrite (x0 : Byte) : RoundTrip.Statement (.pcapWrite x0) := fun _ h => absurd rfl h
theorem RoundTrip.powerCheck (x0 : Nat) (x1 : Bool) : RoundTrip.Statement (.powerCheck x0 x1) := fun _ h => absurd rfl h
theorem RoundTrip.debugUnlock (x0 : Bool) : RoundTrip.Statement (.debugUnlock x0) := fun _ h => absurd rfl h
theorem RoundTrip.illegalInstruction (x0 : Nat) (x1 : IWord) : RoundTrip.Statement (.illegalInstruction x0 x1) := fun _ h => absurd rfl h
theorem RoundTrip.fetchFault (x0 : Word) : RoundTrip.Statement (.fetchFault x0) := fun _ h => absurd rfl h
theorem RoundTrip.shroudFlitArrive (x0 : Nat) (x1 : Flit) : RoundTrip.Statement (.shroudFlitArrive x0 x1) := fun _ h => absurd rfl h
theorem RoundTrip.dynamicAddressAssign (x0 : Nat) : RoundTrip.Statement (.dynamicAddressAssign x0) := fun _ h => absurd rfl h
theorem RoundTrip.parkTimeout : RoundTrip.Statement (.parkTimeout) := fun _ h => absurd rfl h
theorem RoundTrip.storeDrain : RoundTrip.Statement (.storeDrain) := fun _ h => absurd rfl h
theorem RoundTrip.joinTarget : RoundTrip.Statement (.joinTarget) := fun _ h => absurd rfl h
theorem RoundTrip.vredqSlot : RoundTrip.Statement (.vredqSlot) := fun _ h => absurd rfl h
theorem RoundTrip.pairSwap : RoundTrip.Statement (.pairSwap) := fun _ h => absurd rfl h
theorem RoundTrip.remoteArrival : RoundTrip.Statement (.remoteArrival) := fun _ h => absurd rfl h
theorem RoundTrip.eaStart : RoundTrip.Statement (.eaStart) := fun _ h => absurd rfl h
theorem RoundTrip.eaCommit : RoundTrip.Statement (.eaCommit) := fun _ h => absurd rfl h
theorem RoundTrip.sfStart : RoundTrip.Statement (.sfStart) := fun _ h => absurd rfl h
theorem RoundTrip.sfRetire : RoundTrip.Statement (.sfRetire) := fun _ h => absurd rfl h
theorem RoundTrip.ratomicTarget : RoundTrip.Statement (.ratomicTarget) := fun _ h => absurd rfl h
theorem RoundTrip.ynop : RoundTrip.Statement (.ynop) := fun _ h => absurd rfl h
theorem RoundTrip.ymma : RoundTrip.Statement (.ymma) := fun _ h => absurd rfl h
theorem RoundTrip.yzero : RoundTrip.Statement (.yzero) := fun _ h => absurd rfl h
theorem RoundTrip.yload : RoundTrip.Statement (.yload) := fun _ h => absurd rfl h
theorem RoundTrip.ystore : RoundTrip.Statement (.ystore) := fun _ h => absurd rfl h
theorem RoundTrip.ygang : RoundTrip.Statement (.ygang) := fun _ h => absurd rfl h
theorem RoundTrip.gangForm : RoundTrip.Statement (.gangForm) := fun _ h => absurd rfl h
theorem RoundTrip.yardSchedule : RoundTrip.Statement (.yardSchedule) := fun _ h => absurd rfl h
theorem RoundTrip.yardRetire : RoundTrip.Statement (.yardRetire) := fun _ h => absurd rfl h
theorem RoundTrip.remoteStoreApply : RoundTrip.Statement (.remoteStoreApply) := fun _ h => absurd rfl h
theorem RoundTrip.relink : RoundTrip.Statement (.relink) := fun _ h => absurd rfl h
theorem RoundTrip.spliceSwap : RoundTrip.Statement (.spliceSwap) := fun _ h => absurd rfl h
theorem RoundTrip.collapse : RoundTrip.Statement (.collapse) := fun _ h => absurd rfl h
theorem RoundTrip.meetFetch : RoundTrip.Statement (.meetFetch) := fun _ h => absurd rfl h
theorem RoundTrip.meetInstall : RoundTrip.Statement (.meetInstall) := fun _ h => absurd rfl h
theorem RoundTrip.repoint : RoundTrip.Statement (.repoint) := fun _ h => absurd rfl h
theorem RoundTrip.dispatch : RoundTrip.Statement (.dispatch) := fun _ h => absurd rfl h
theorem RoundTrip.handoffArrive : RoundTrip.Statement (.handoffArrive) := fun _ h => absurd rfl h
theorem RoundTrip.stealRequest : RoundTrip.Statement (.stealRequest) := fun _ h => absurd rfl h
theorem RoundTrip.stealReply : RoundTrip.Statement (.stealReply) := fun _ h => absurd rfl h
theorem RoundTrip.stealRound : RoundTrip.Statement (.stealRound) := fun _ h => absurd rfl h
theorem RoundTrip.parkContext : RoundTrip.Statement (.parkContext) := fun _ h => absurd rfl h
theorem RoundTrip.resumeContext : RoundTrip.Statement (.resumeContext) := fun _ h => absurd rfl h
theorem RoundTrip.deliverEvent : RoundTrip.Statement (.deliverEvent) := fun _ h => absurd rfl h
theorem RoundTrip.msgArrive : RoundTrip.Statement (.msgArrive) := fun _ h => absurd rfl h
theorem RoundTrip.msgDispatch : RoundTrip.Statement (.msgDispatch) := fun _ h => absurd rfl h
theorem RoundTrip.errorReply : RoundTrip.Statement (.errorReply) := fun _ h => absurd rfl h
theorem RoundTrip.replyArrive : RoundTrip.Statement (.replyArrive) := fun _ h => absurd rfl h
theorem RoundTrip.packetLeave : RoundTrip.Statement (.packetLeave) := fun _ h => absurd rfl h
theorem RoundTrip.linkRetrain : RoundTrip.Statement (.linkRetrain) := fun _ h => absurd rfl h
theorem RoundTrip.linkReroute : RoundTrip.Statement (.linkReroute) := fun _ h => absurd rfl h
theorem RoundTrip.halyardStart : RoundTrip.Statement (.halyardStart) := fun _ h => absurd rfl h
theorem RoundTrip.movePerform : RoundTrip.Statement (.movePerform) := fun _ h => absurd rfl h
theorem RoundTrip.halyardComplete : RoundTrip.Statement (.halyardComplete) := fun _ h => absurd rfl h
theorem RoundTrip.extentFill : RoundTrip.Statement (.extentFill) := fun _ h => absurd rfl h
theorem RoundTrip.dirtyRequest : RoundTrip.Statement (.dirtyRequest) := fun _ h => absurd rfl h
theorem RoundTrip.swapTakeBack : RoundTrip.Statement (.swapTakeBack) := fun _ h => absurd rfl h
theorem RoundTrip.swapTimeout : RoundTrip.Statement (.swapTimeout) := fun _ h => absurd rfl h
theorem RoundTrip.launchDispatch : RoundTrip.Statement (.launchDispatch) := fun _ h => absurd rfl h
theorem RoundTrip.fenceRecord : RoundTrip.Statement (.fenceRecord) := fun _ h => absurd rfl h
theorem RoundTrip.nopRecord : RoundTrip.Statement (.nopRecord) := fun _ h => absurd rfl h
theorem RoundTrip.launchComplete : RoundTrip.Statement (.launchComplete) := fun _ h => absurd rfl h
theorem RoundTrip.taskFail : RoundTrip.Statement (.taskFail) := fun _ h => absurd rfl h
theorem RoundTrip.priorityPreempt : RoundTrip.Statement (.priorityPreempt) := fun _ h => absurd rfl h
theorem RoundTrip.preemptedResume : RoundTrip.Statement (.preemptedResume) := fun _ h => absurd rfl h
theorem RoundTrip.sysMessage : RoundTrip.Statement (.sysMessage) := fun _ h => absurd rfl h
theorem RoundTrip.watchdogStep1 : RoundTrip.Statement (.watchdogStep1) := fun _ h => absurd rfl h
theorem RoundTrip.watchdogStep2 : RoundTrip.Statement (.watchdogStep2) := fun _ h => absurd rfl h
theorem RoundTrip.watchdogStep3 : RoundTrip.Statement (.watchdogStep3) := fun _ h => absurd rfl h
theorem RoundTrip.gangWatchdog : RoundTrip.Statement (.gangWatchdog) := fun _ h => absurd rfl h
theorem RoundTrip.alarmClass1 : RoundTrip.Statement (.alarmClass1) := fun _ h => absurd rfl h
theorem RoundTrip.alarmClass2 : RoundTrip.Statement (.alarmClass2) := fun _ h => absurd rfl h
theorem RoundTrip.alarmClass3 : RoundTrip.Statement (.alarmClass3) := fun _ h => absurd rfl h
theorem RoundTrip.shroudFail : RoundTrip.Statement (.shroudFail) := fun _ h => absurd rfl h
theorem RoundTrip.graphFire : RoundTrip.Statement (.graphFire) := fun _ h => absurd rfl h
theorem RoundTrip.streamToken : RoundTrip.Statement (.streamToken) := fun _ h => absurd rfl h
theorem RoundTrip.hostWriteReject : RoundTrip.Statement (.hostWriteReject) := fun _ h => absurd rfl h
theorem RoundTrip.powerOnReset : RoundTrip.Statement (.powerOnReset) := fun _ h => absurd rfl h
theorem RoundTrip.warmReset : RoundTrip.Statement (.warmReset) := fun _ h => absurd rfl h
theorem RoundTrip.fuseMapBuild : RoundTrip.Statement (.fuseMapBuild) := fun _ h => absurd rfl h
theorem RoundTrip.bringupScrub : RoundTrip.Statement (.bringupScrub) := fun _ h => absurd rfl h
theorem RoundTrip.openCommands : RoundTrip.Statement (.openCommands) := fun _ h => absurd rfl h
theorem RoundTrip.thermalThrottle : RoundTrip.Statement (.thermalThrottle) := fun _ h => absurd rfl h
theorem RoundTrip.thermalRecover : RoundTrip.Statement (.thermalRecover) := fun _ h => absurd rfl h
theorem RoundTrip.thermalTrip : RoundTrip.Statement (.thermalTrip) := fun _ h => absurd rfl h
theorem RoundTrip.bypass : RoundTrip.Statement (.bypass) := fun _ h => absurd rfl h
theorem RoundTrip.idcode : RoundTrip.Statement (.idcode) := fun _ h => absurd rfl h
theorem RoundTrip.samplePreload : RoundTrip.Statement (.samplePreload) := fun _ h => absurd rfl h
theorem RoundTrip.extest : RoundTrip.Statement (.extest) := fun _ h => absurd rfl h
theorem RoundTrip.pcieCompletionTimeout : RoundTrip.Statement (.pcieCompletionTimeout) := fun _ h => absurd rfl h
theorem RoundTrip.verificationAvailable : RoundTrip.Statement (.verificationAvailable) := fun _ h => absurd rfl h

end Sys2Proof.Laws
end

