-- ==== Sys2Proof/Laws/Registers.lean ====
section
/-! SUPPORT. Reading a register after writing one (R21, R75), and what an instruction that writes one register does. -/

namespace Sys2Proof.Machine

variable (s : State)

/-- g0 reads zero in every state (R21). -/
@[simp] theorem reg_g0 : s.reg (.g 0) = 0 := rfl

/-- A write to g0 is discarded (R21). -/
@[simp] theorem setReg_g0 (v : Word) : s.setReg (.g 0) v = s := rfl

@[simp] theorem setReg_mem (d : Reg) (v : Word) : (s.setReg d v).mem = s.mem := by
  cases d with
  | w i => rfl
  | g i => simp only [State.setReg]; split <;> rfl

@[simp] theorem setReg_cur (d : Reg) (v : Word) : (s.setReg d v).cur = s.cur := by
  cases d with
  | w i => rfl
  | g i => simp only [State.setReg]; split <;> rfl

@[simp] theorem setReg_pc (d : Reg) (v : Word) : (s.setReg d v).pc = s.pc := by
  cases d with
  | w i => simp [State.setReg, State.pc]
  | g i => simp only [State.setReg]; split <;> rfl

/-- What a register reads after a write of another, or of itself. -/
theorem reg_setReg (d r : Reg) (v : Word) :
    (s.setReg d v).reg r = if r = d then (if d = .g 0 then 0 else v) else s.reg r := by
  cases d with
  | w i =>
    cases r with
    | w j =>
      by_cases h : j = i
      · subst h; simp [State.setReg, State.reg]
      · have hne : (s.ctx.base + j.val) % 128 ≠ (s.ctx.base + i.val) % 128 := by
          intro e
          have := i.isLt
          have := j.isLt
          exact h (Fin.ext (by omega))
        simp [State.setReg, State.reg, h, AMap.get_set_other, hne]
    | g j => simp [State.setReg, State.reg]
  | g i =>
    by_cases hi : i.val = 0
    · have : i = 0 := Fin.ext hi
      subst this
      simp only [setReg_g0]
      split
      · next h => subst h; simp
      · rfl
    · have h0 : i ≠ 0 := fun e => hi (by simp [e])
      cases r with
      | w j => simp [State.setReg, State.reg, hi]
      | g j =>
        by_cases h : j = i
        · subst h; simp [State.setReg, State.reg, hi, h0]
        · have hne : j.val ≠ i.val := fun e => h (Fin.ext e)
          simp [State.setReg, State.reg, hi, h, AMap.get_set_other, hne]

theorem setPc_eq (a : Word) : s.setPc a = s.setCtx { s.ctx with pc := a } := rfl

@[simp] theorem setPc_pc (a : Word) : (s.setPc a).pc = a := by simp [State.setPc, State.pc]

@[simp] theorem setPc_mem (a : Word) : (s.setPc a).mem = s.mem := rfl

@[simp] theorem reg_setPc (a : Word) (r : Reg) : (s.setPc a).reg r = s.reg r := by
  cases r <;> simp [State.setPc, State.reg]

/-- Jumping changes the pc and nothing else. -/
theorem setPc_jumped (a : Word) : jumped a s (s.setPc a) := by
  refine ⟨setPc_pc s a, reg_setPc s a, fun e _ => by simp [State.setPc], ?_, ?_, fun k _ => rfl, ?_, rfl, fun _ => rfl⟩
  · rfl
  · intro k hk; simp [State.setPc, State.setCtx, State.ctxAt, AMap.get_set_other, hk]
  · simp [State.setPc]

/-- Going on behind an instruction of `n` words changes nothing else. -/
theorem advance_wentOn (n : Nat) : wentOn n s (s.advance n) := setPc_jumped s _

/-- A result written to a register, and the instruction gone on behind. -/
theorem result_wrote (n : Nat) (d : Reg) (v : Word) : wrote n d v s (s.result n d v) := by
  refine ⟨?_, ?_, ?_, ?_, ?_⟩
  · simp [State.result, State.advance]
  · simp [State.result, State.advance, reg_setReg]
  · intro r hr; simp [State.result, State.advance, reg_setReg, hr]
  · intro e he
    cases d with
    | w i =>
      have := he i.val i.isLt
      simp [State.result, State.advance, State.setPc, State.setReg, AMap.get_set_other, this]
    | g i =>
      by_cases hi : i.val = 0 <;> simp [State.result, State.advance, State.setPc, State.setReg, hi]
  · cases d with
    | w i =>
      refine ⟨rfl, ?_, fun k _ => rfl, ?_, rfl, fun _ => rfl⟩
      · intro k hk
        simp [State.result, State.advance, State.setPc, State.setReg, State.setCtx, State.ctxAt, AMap.get_set_other, hk]
      · simp [State.result, State.advance, State.setPc, State.setReg]
    | g i =>
      by_cases hi : i.val = 0
      · have : i = 0 := Fin.ext hi
        subst this
        have h := (advance_wentOn s n).2.2.2
        simpa [State.result] using h
      · refine ⟨by simp [State.result, State.advance, State.setPc, State.setReg, hi, State.setCtx, State.setTask], ?_, ?_, ?_, ?_,
          fun _ => by simp [State.result, State.advance]⟩
        · intro k hk
          simp [State.result, State.advance, State.setPc, State.setReg, State.setCtx, State.setTask, hi, State.ctxAt,
            AMap.get_set_other, hk]
        · intro k hk
          simp [State.result, State.advance, State.setPc, State.setReg, State.setCtx, State.setTask, hi, State.taskAt,
            AMap.get_set_other, hk]
        · simp [State.result, State.advance, State.setPc, State.setReg, hi]
        · simp [State.result, State.advance, State.setPc, State.setReg, hi]

/-- A next state that holds a register result: the form in which instruction statements use it. -/
theorem next_result_wrote (n : Nat) (d : Reg) (v : Word) :
    ∃ t, (Host.Outcome.next (s.result n d v) : Host.Outcome State Fault Refusal) = .next t ∧ wrote n d v s t :=
  ⟨_, rfl, result_wrote s n d v⟩

end Sys2Proof.Machine
end

