-- ==== Sys2Proof/Laws/Step.lean ====
section
/-! SUPPORT. What the parts of a step around an instruction's meaning change, and the cases of a step: the statements about every
step go through these. -/

namespace Sys2Proof.Machine

variable (s : State)

/-! ### Signals (R80) -/

/-- A signal changes contexts and cores only. -/
theorem signal_only (k : Nat) : ∃ cs co, s.signal k = { s with ctxs := cs, cores := co } := by
  unfold State.signal; dsimp only; split
  · exact ⟨_, _, rfl⟩
  · exact ⟨s.ctxs, s.cores, rfl⟩

@[simp] theorem signal_mem (k : Nat) : (s.signal k).mem = s.mem := by
  obtain ⟨_, _, h⟩ := signal_only s k; rw [h]
@[simp] theorem signal_net (k : Nat) : (s.signal k).net = s.net := by
  obtain ⟨_, _, h⟩ := signal_only s k; rw [h]
@[simp] theorem signal_masts (k : Nat) : (s.signal k).masts = s.masts := by
  obtain ⟨_, _, h⟩ := signal_only s k; rw [h]
@[simp] theorem signal_launches (k : Nat) : (s.signal k).launches = s.launches := by
  obtain ⟨_, _, h⟩ := signal_only s k; rw [h]
@[simp] theorem signal_tasks (k : Nat) : (s.signal k).tasks = s.tasks := by
  obtain ⟨_, _, h⟩ := signal_only s k; rw [h]
@[simp] theorem signal_queues (k : Nat) : (s.signal k).queues = s.queues := by
  obtain ⟨_, _, h⟩ := signal_only s k; rw [h]
@[simp] theorem signal_cur (k : Nat) : (s.signal k).cur = s.cur := by
  obtain ⟨_, _, h⟩ := signal_only s k; rw [h]

/-- A field that a signal keeps is kept by a run of signals. -/
theorem signals_keep {α : Type} (f : State → α) (h : ∀ s k, f (State.signal s k) = f s) (ks : List Nat) :
    f (ks.foldl State.signal s) = f s := by
  induction ks generalizing s with
  | nil => rfl
  | cons k ks ih => rw [List.foldl_cons, ih, h]

/-! ### Reefs for waiting resumptions (R242) -/

/-- The pool of a mast changes contexts, cores and masts only. -/
theorem serveReefs_only (f mast : Nat) : ∃ cs co ms, State.serveReefs f mast s = { s with ctxs := cs, cores := co, masts := ms } := by
  induction f generalizing s with
  | zero => exact ⟨s.ctxs, s.cores, s.masts, rfl⟩
  | succ f ih =>
    unfold State.serveReefs
    split
    · exact ⟨s.ctxs, s.cores, s.masts, rfl⟩
    · dsimp only
      split
      · obtain ⟨cs, co, ms, h⟩ := ih _
        exact ⟨cs, co, ms, h⟩
      · exact ⟨_, s.cores, s.masts, rfl⟩

/-- A field that the pools keep is kept by a run of them. -/
theorem pools_keep {α : Type} (f : State → α)
    (h : ∀ (s : State) cs co ms, f { s with ctxs := cs, cores := co, masts := ms } = f s) (ms : List (Nat × Mast)) :
    f (ms.foldl (fun s m => State.serveReefs m.2.reefWait.length m.1 s) s) = f s := by
  induction ms generalizing s with
  | nil => rfl
  | cons m ms ih =>
    obtain ⟨cs, co, xs, e⟩ := serveReefs_only s m.2.reefWait.length m.1
    rw [List.foldl_cons, ih, e, h]

@[simp] theorem sweep_mem : s.sweep.mem = s.mem :=
  (pools_keep _ (·.mem) (fun _ _ _ _ => rfl) _).trans (signals_keep s (·.mem) signal_mem _)
@[simp] theorem sweep_net : s.sweep.net = s.net :=
  (pools_keep _ (·.net) (fun _ _ _ _ => rfl) _).trans (signals_keep s (·.net) signal_net _)
@[simp] theorem sweep_launches : s.sweep.launches = s.launches :=
  (pools_keep _ (·.launches) (fun _ _ _ _ => rfl) _).trans (signals_keep s (·.launches) signal_launches _)
@[simp] theorem sweep_tasks : s.sweep.tasks = s.tasks :=
  (pools_keep _ (·.tasks) (fun _ _ _ _ => rfl) _).trans (signals_keep s (·.tasks) signal_tasks _)
@[simp] theorem sweep_queues : s.sweep.queues = s.queues :=
  (pools_keep _ (·.queues) (fun _ _ _ _ => rfl) _).trans (signals_keep s (·.queues) signal_queues _)
@[simp] theorem sweep_cur : s.sweep.cur = s.cur :=
  (pools_keep _ (·.cur) (fun _ _ _ _ => rfl) _).trans (signals_keep s (·.cur) signal_cur _)

/-- Where no resumption waits for reefs, a sweep leaves the masts as they are. -/
theorem sweep_masts (h : ∀ m ∈ s.masts, m.2.reefWait = []) : s.sweep.masts = s.masts := by
  have e : (s.toSignal.foldl State.signal s).masts = s.masts := signals_keep s (·.masts) signal_masts _
  have n : (s.masts.filter fun m => !m.2.reefWait.isEmpty) = [] := by
    rw [List.filter_eq_nil_iff]; intro m hm; simp [h m hm]
  unfold State.sweep State.servePools
  rw [e, n]
  exact e

/-! ### Cycles and the end of a wait (R72, R106) -/

@[simp] theorem cycle_mem (f : List Strand → List Strand) : (s.cycle f).mem = s.mem := rfl
@[simp] theorem tick_mem (ready : List Nat) : (s.tick ready).mem = s.mem := rfl
@[simp] theorem tick_cur (ready : List Nat) : (s.tick ready).cur = s.cur := rfl
@[simp] theorem tick_net (ready : List Nat) : (s.tick ready).net = s.net := rfl
@[simp] theorem tick_masts (ready : List Nat) : (s.tick ready).masts = s.masts := rfl
@[simp] theorem tick_launches (ready : List Nat) : (s.tick ready).launches = s.launches := rfl
@[simp] theorem passCycle_mem (core : Nat) : (s.passCycle core).mem = s.mem := rfl
@[simp] theorem passCycle_cur (core : Nat) : (s.passCycle core).cur = s.cur := rfl

@[simp] theorem leaveLines_mem (k : Nat) : (s.leaveLines k).mem = s.mem := by
  unfold State.leaveLines; dsimp only; split <;> rfl

@[simp] theorem leaveLines_cur (k : Nat) : (s.leaveLines k).cur = s.cur := by
  unfold State.leaveLines; dsimp only; split <;> rfl

/-- What the end of an issue can do: nothing where the context waits; else the context leaves its lines, and one that runs has its wait
cleared. -/
theorem settle_cases (k : Nat) : s.settle k = s ∨ s.settle k = s.leaveLines k ∨
    s.settle k = (s.leaveLines k).putCtx k { (s.leaveLines k).ctxAt k with waitStart := none, await := .none } := by
  unfold State.settle
  split
  · exact .inl rfl
  · dsimp only; split
    · exact .inr (.inr rfl)
    · exact .inr (.inl rfl)

@[simp] theorem settle_mem (k : Nat) : (s.settle k).mem = s.mem := by
  rcases settle_cases s k with h | h | h <;> simp [h]

@[simp] theorem settle_cur (k : Nat) : (s.settle k).cur = s.cur := by
  rcases settle_cases s k with h | h | h <;> simp [h]

/-- An outcome that is settled answers a state exactly where it did before. -/
theorem settled_next {k : Nat} {o : Host.Outcome State Fault Refusal} {u : State} (h : settled k o = .next u) :
    ∃ t, o = .next t ∧ u = t.settle k := by
  cases o <;> cases h
  exact ⟨_, rfl, rfl⟩

/-! ### Commands that are in no list (R392) -/

/-- A write of a code that R361 does not list changes control pages and the platform's interrupts only. -/
theorem strayCommand_only (fn code : Nat) : ∃ pg pl, s.strayCommand fn code = { s with pages := pg, plat := pl } := by
  unfold State.strayCommand
  split
  · exact ⟨s.pages, s.plat, rfl⟩
  · unfold State.command
    dsimp only
    split
    · exact ⟨s.pages, s.plat, rfl⟩
    · split <;> split <;> first | exact ⟨_, s.plat, rfl⟩ | (cases s.plat.ready <;> exact ⟨_, _, rfl⟩)

@[simp] theorem strayCommand_mem (fn code : Nat) : (s.strayCommand fn code).mem = s.mem := by
  obtain ⟨_, _, h⟩ := strayCommand_only s fn code; rw [h]
@[simp] theorem strayCommand_cur (fn code : Nat) : (s.strayCommand fn code).cur = s.cur := by
  obtain ⟨_, _, h⟩ := strayCommand_only s fn code; rw [h]

/-! ### The choice of a strand (R72) -/

/-- A chosen strand is one of the ready ones, and comes before every other of those it is chosen among. -/
theorem choose_spec {core : Nat} {ready : List Nat} {n : Nat} (h : s.choose core ready = some n) :
    n ∈ ready ∧ (((s.coreAt core).strand n).yielded = true → ∀ j ∈ ready, ((s.coreAt core).strand j).yielded = true) ∧
      ∀ j ∈ ready, (((s.coreAt core).strand j).yielded = false ∨ ((s.coreAt core).strand n).yielded = true) →
        j = n ∨ s.before core n j = true := by
  unfold State.choose at h
  dsimp only at h
  have hm := List.mem_of_find?_eq_some h
  have hp := List.find?_some h
  simp only [List.all_eq_true, Bool.or_eq_true, decide_eq_true_eq] at hp
  split at hm
  · rename_i he
    rw [if_pos he] at hp
    have old : ∀ j ∈ ready, ((s.coreAt core).strand j).yielded = true := by
      intro j hj
      have : ready.filter (fun i => !((s.coreAt core).strand i).yielded) = [] := List.isEmpty_iff.mp he
      have := (List.filter_eq_nil_iff.mp this) j hj
      simpa using this
    exact ⟨hm, fun _ => old, fun j hj _ => (hp j hj).imp Eq.symm id⟩
  · rename_i he
    rw [if_neg he] at hp
    have hn := List.mem_filter.mp hm
    have fresh : ((s.coreAt core).strand n).yielded = false := by simpa using hn.2
    refine ⟨hn.1, fun hy => absurd hy (by simp [fresh]), fun j hj hy => ?_⟩
    have hf : ((s.coreAt core).strand j).yielded = false := by
      rcases hy with h | h
      · exact h
      · rw [fresh] at h; cases h
    exact (hp j (List.mem_filter.mpr ⟨hj, by simp [hf]⟩)).imp Eq.symm id

/-! ### The cases of a step -/

/-- A step that answers a state answers that of its turn, after the signals. -/
theorem step_next {u : State} (h : step s = .next u) : ∃ t, turn s = .next t ∧ u = t.sweep := by
  unfold step at h
  split at h <;> cases h
  exact ⟨_, ‹_›, rfl⟩

/-- What one issue can do: nothing, the delivery of an event, the trap of a fetch that fails, or the instruction's meaning. -/
theorem issue_cases {ready : List Nat} {u : State} (h : issue ready s = .next u) :
    u = s ∨ u = (s.tick ready).deliver ∨
      (∃ e t, (s.tick ready).fetchDecode = .error e ∧ (s.tick ready).finish (.error e) = .next t ∧
        u = t.settle (s.tick ready).cur.ctx) ∨
      ∃ i t, (s.tick ready).fetchDecode = .ok i ∧ exec i (s.tick ready) = .next t ∧ u = t.settle (s.tick ready).cur.ctx := by
  unfold issue at h
  split at h
  · dsimp only at h
    split at h
    · cases h; exact .inr (.inl rfl)
    · split at h
      · obtain ⟨t, ht, hu⟩ := settled_next h
        exact .inr (.inr (.inl ⟨_, t, ‹_›, ht, hu⟩))
      · obtain ⟨t, ht, hu⟩ := settled_next h
        exact .inr (.inr (.inr ⟨_, t, ‹_›, ht, hu⟩))
  · cases h; exact .inl rfl

/-- What a turn can do: an issue of the acting context or of the strand that is chosen, a cycle that passes, an event, or none that may
happen, a write of a command code that is in no list, or a turn of a CP's hart. -/
theorem turn_cases {u : State} (h : turn s = .next u) :
    (s.agenda = [] ∧ issue [] s = .next u) ∨
    (∃ core stalled rest, s.agenda = .issue core stalled :: rest ∧
      let b : State := { s with agenda := rest }
      (∃ i, b.choose core (b.readyStrands core stalled) = some i ∧
        issue (b.readyStrands core stalled) (b.issuer core i) = .next u) ∨ u = b.passCycle core) ∨
    (∃ i p rest, s.agenda = .event i p :: rest ∧
      ((∃ t, exec i { s with agenda := rest, place := p } = .next t ∧ u = { t with cur := s.cur }) ∨ u = { s with agenda := rest })) ∨
    (∃ fn code rest, s.agenda = .ccmd fn code :: rest ∧ u = State.strayCommand { s with agenda := rest } fn code.toNat) ∨
    (∃ n rest, s.agenda = .cp n :: rest ∧ u = State.cpTurn { s with agenda := rest } n) := by
  unfold turn at h
  split at h
  · exact .inl ⟨‹_›, h⟩
  · refine .inr (.inl ⟨_, _, _, ‹_›, ?_⟩)
    unfold coreCycle at h
    split at h
    · dsimp only at h
      split at h
      · exact .inl ⟨_, ‹_›, h⟩
      · cases h; exact .inr rfl
    · cases h
  · refine .inr (.inr (.inl ⟨_, _, _, ‹_›, ?_⟩))
    unfold event at h
    split at h
    · split at h <;> cases h
      exact .inl ⟨_, ‹_›, rfl⟩
    · cases h; exact .inr rfl
  · cases h; exact .inr (.inr (.inr (.inl ⟨_, _, _, ‹_›, rfl⟩)))
  · cases h; exact .inr (.inr (.inr (.inr ⟨_, _, ‹_›, rfl⟩)))

end Sys2Proof.Machine
end

