-- ==== Sys2Proof/Laws/Windows.lean ====
section
/-! SUPPORT. Sliding the register window (R75) and taking a trap (R83): what they do to registers, memory and the context. -/

namespace Sys2Proof.Machine

variable (s : State)

/-! ### Spilling and filling -/

/-- What spilling groups changes of a context: its spill pointer and its low resident entry. -/
theorem spillGroups_ctx (g : Nat) (c : Context) (s : State) :
    (spillGroups g c s).1 = { c with wsp := c.wsp + Word.of (32 * g), low := c.low + 4 * g } := by
  induction g generalizing c s with
  | zero => simp [spillGroups]
  | succ g ih =>
    simp only [spillGroups, ih]
    have : c.wsp + 32 + Word.of (32 * g) = c.wsp + Word.of (32 * (g + 1)) := by
      apply BitVec.eq_of_toNat_eq; simp; omega
    rw [this]
    have : c.low + 4 + 4 * g = c.low + 4 * (g + 1) := by omega
    rw [this]

@[simp] theorem spillGroups_cur (g : Nat) (c : Context) (s : State) : (spillGroups g c s).2.cur = s.cur := by
  induction g generalizing c s with
  | zero => rfl
  | succ g ih => simp [spillGroups, ih]

@[simp] theorem spillGroups_ctxs (g : Nat) (c : Context) (s : State) : (spillGroups g c s).2.ctxs = s.ctxs := by
  induction g generalizing c s with
  | zero => rfl
  | succ g ih => simp [spillGroups, ih]

@[simp] theorem spillGroups_reg (g : Nat) (c : Context) (s : State) (r : Reg) : (spillGroups g c s).2.reg r = s.reg r := by
  induction g generalizing c s with
  | zero => rfl
  | succ g ih => simp [spillGroups, ih]

/-- Spilling changes memory, its check bits and the error counts of tasks, and nothing else. -/
theorem spillGroups_rest (g : Nat) (c : Context) (s : State) :
    ∃ m e t, (spillGroups g c s).2 = { s with mem := m, ecc := e, tasks := t } := by
  induction g generalizing c s with
  | zero => exact ⟨s.mem, s.ecc, s.tasks, rfl⟩
  | succ g ih =>
    simp only [spillGroups]
    obtain ⟨m, e, t, h⟩ := write_rest s (spillKey c c.wsp) (wordsToBytes ((List.range 4).map fun i => c.file.get ((c.low + i) % 128) 0))
    rw [h]
    obtain ⟨m', e', t', h'⟩ := ih { c with wsp := c.wsp + 32, low := c.low + 4 } { s with mem := m, ecc := e, tasks := t }
    exact ⟨m', e', t', h'⟩

theorem wordsToBytes_length (ws : List Word) : (wordsToBytes ws).length = 8 * ws.length := by
  induction ws with
  | nil => rfl
  | cons w ws ih => simp only [wordsToBytes, List.flatMap_cons, List.length_append, toBytes_length, List.length_cons] at ih ⊢; omega

/-- Spilling writes the spilled entries' bytes only, and keeps the canonical form. -/
theorem spillGroups_mem (g : Nat) (c : Context) (s : State) (h : Memory.wf s.mem = true) :
    Memory.wf (spillGroups g c s).2.mem = true ∧
    ∀ a, ¬ spillBytes c g a → Memory.get (spillGroups g c s).2.mem a = Memory.get s.mem a := by
  induction g generalizing c s with
  | zero => exact ⟨h, fun _ _ => rfl⟩
  | succ g ih =>
    simp only [spillGroups]
    have h1 := write_memoryForm s (spillKey c c.wsp)
      (wordsToBytes ((List.range 4).map fun i => c.file.get ((c.low + i) % 128) 0)) h
    obtain ⟨h2, h3⟩ := ih { c with wsp := c.wsp + 32, low := c.low + 4 } _ h1
    refine ⟨h2, fun a ha => ?_⟩
    rw [h3 a]
    · rw [write_mem]
      apply Memory.get_write_other _ _ _ h
      rw [wordsToBytes_length]
      simp only [List.length_map, List.length_range]
      rcases Nat.lt_or_ge a (spillKey c c.wsp) with hl | hl
      · exact .inl hl
      · rcases Nat.lt_or_ge a (spillKey c c.wsp + 32) with hu | hu
        · exact absurd ⟨0, by omega, by simpa using hl, by simpa using hu⟩ ha
        · exact .inr hu
    · rintro ⟨j, hj, hl, hu⟩
      apply ha
      have e : c.wsp + Word.of (32 * (j + 1)) = c.wsp + 32 + Word.of (32 * j) := by
        apply BitVec.eq_of_toNat_eq; simp; omega
      refine ⟨j + 1, by omega, ?_, ?_⟩
      · rw [e]; exact hl
      · rw [e]; exact hu

/-- Filling changes no state but the context's window. -/
theorem fillGroups_snd (g : Nat) (c : Context) (s : State) : (fillGroups g c s).2 = s := by
  induction g generalizing c with
  | zero => rfl
  | succ g ih => simp only [fillGroups]; split <;> simp [ih]

/-- What filling changes of a context. -/
theorem fillGroups_fst (g : Nat) (c : Context) (s : State) :
    { (fillGroups g c s).1 with file := c.file, low := c.low, wsp := c.wsp } = c := by
  induction g generalizing c with
  | zero => rfl
  | succ g ih =>
    simp only [fillGroups]; split
    · have := ih { c with wsp := c.wsp - 32, low := c.low - 4,
                          file := (List.range 4).foldl (fun f i => AMap.set f ((c.low - 4 + i) % 128)
                            (s.dbl (spillKey { c with wsp := c.wsp - 32, low := c.low - 4 } (c.wsp - 32) + 8 * i))) c.file }
      have h2 := congrArg (fun x : Context => { x with file := c.file, low := c.low, wsp := c.wsp }) this
      exact h2
    · rfl

/-- Sliding down keeps every register of the task, and changes no memory. -/
theorem slideDown_eq (n : Nat) : ∃ f l w, s.slideDown n =
    s.setCtx { s.ctx with base := s.ctx.base - n, file := f, low := l, wsp := w } := by
  refine ⟨(fillGroups 64 { s.ctx with base := s.ctx.base - n } s).1.file,
    (fillGroups 64 { s.ctx with base := s.ctx.base - n } s).1.low,
    (fillGroups 64 { s.ctx with base := s.ctx.base - n } s).1.wsp, ?_⟩
  have h1 := fillGroups_snd 64 { s.ctx with base := s.ctx.base - n } s
  have h2 := fillGroups_fst 64 { s.ctx with base := s.ctx.base - n } s
  simp only [State.slideDown, h1]
  congr 1
  have h3 := congrArg (fun x : Context => { x with
    file := (fillGroups 64 { s.ctx with base := s.ctx.base - n } s).1.file
    low := (fillGroups 64 { s.ctx with base := s.ctx.base - n } s).1.low
    wsp := (fillGroups 64 { s.ctx with base := s.ctx.base - n } s).1.wsp }) h2
  exact h3

/-! ### Sliding up -/

theorem AMap.get_foldl_set_other {α : Type} (v : α) (key : Nat → Nat) (xs : List Nat) (m : AMap α) {j : Nat} (d : α)
    (h : ∀ i ∈ xs, j ≠ key i) : AMap.get (xs.foldl (fun f i => AMap.set f (key i) v) m) j d = m.get j d := by
  induction xs generalizing m with
  | nil => rfl
  | cons x xs ih =>
    simp only [List.foldl_cons]
    rw [ih _ (fun i hi => h i (by simp [hi])), AMap.get_set_other _ (h x (by simp))]

theorem AMap.get_foldl_set_in {α : Type} (v : α) (key : Nat → Nat) (xs : List Nat) (m : AMap α) {k : Nat} (d : α)
    (h : ∃ i ∈ xs, key i = k) : AMap.get (xs.foldl (fun f i => AMap.set f (key i) v) m) k d = v := by
  induction xs generalizing m with
  | nil => simp at h
  | cons x xs ih =>
    simp only [List.foldl_cons]
    by_cases h2 : ∃ i ∈ xs, key i = k
    · exact ih _ h2
    · have hx : key x = k := by
        obtain ⟨i, hi, e⟩ := h
        rcases List.mem_cons.mp hi with rfl | hi
        · exact e
        · exact absurd ⟨i, hi, e⟩ h2
      rw [AMap.get_foldl_set_other _ _ _ _ _ (fun i hi e => h2 ⟨i, hi, e.symm⟩), hx]
      simp

/-- What a slide up by `n` does to the context: the window moves, the new entries are zero, the rest of the file stays. -/
theorem slideUp_ctx (n : Nat) : (s.slideUp n).ctx =
    ({ s.ctx with wsp := s.ctx.wsp + Word.of (32 * slideGroups s.ctx n), low := s.ctx.low + 4 * slideGroups s.ctx n } :
      Context).raise n := by
  simp [State.slideUp, spillGroups_ctx]

@[simp] theorem slideUp_cur (n : Nat) : (s.slideUp n).cur = s.cur := by simp [State.slideUp]

/-- An entry of the file after a slide up: zero where it is new to the window, else as before. -/
theorem slideUp_file (n e : Nat) : (s.slideUp n).ctx.file.get e 0 =
    if ∃ i, i < n ∧ (s.ctx.base + 32 + i) % 128 = e then 0 else s.ctx.file.get e 0 := by
  rw [slideUp_ctx]
  simp only [Context.raise]
  have e1 : ∀ i, s.ctx.base + n + 32 - n + i = s.ctx.base + 32 + i := fun i => by omega
  simp only [e1]
  split
  · next h =>
    obtain ⟨i, hi, he⟩ := h
    exact AMap.get_foldl_set_in 0 (fun i => (s.ctx.base + 32 + i) % 128) _ _ _ ⟨i, by simpa using hi, he⟩
  · next h =>
    exact AMap.get_foldl_set_other 0 (fun i => (s.ctx.base + 32 + i) % 128) _ _ _
      (fun i hi he => h ⟨i, by simpa using hi, he.symm⟩)

/-- The registers after a slide up by at most 32: the upper ones become the lower ones, the rest are zero. -/
theorem slideUp_reg (n : Nat) (hn : n ≤ 32) (i : Fin 32) : (s.slideUp n).reg (.w i) =
    if h : i.val + n < 32 then s.reg (.w ⟨i.val + n, h⟩) else 0 := by
  have hb : (s.slideUp n).ctx.base = s.ctx.base + n := by rw [slideUp_ctx]; rfl
  simp only [State.reg, hb, slideUp_file]
  have hi := i.isLt
  split
  · next h =>
    obtain ⟨j, hj, he⟩ := h
    have : ¬ i.val + n < 32 := by omega
    simp [this]
  · next h =>
    have hlt : i.val + n < 32 := by
      apply Decidable.byContradiction
      intro hc
      exact h ⟨i.val + n - 32, by omega, by congr 1; omega⟩
    rw [dif_pos hlt]
    have e2 : s.ctx.base + n + i.val = s.ctx.base + (i.val + n) := by omega
    rw [e2]

@[simp] theorem slideUp_global (n : Nat) (i : Fin 8) : (s.slideUp n).reg (.g i) = s.reg (.g i) := by
  have h := spillGroups_reg (slideGroups s.ctx n) s.ctx s (.g i)
  simpa [State.slideUp, State.reg] using h

/-- A slide up keeps the canonical form and writes only the bytes that it spills. -/
theorem slideUp_mem (n : Nat) (h : Memory.wf s.mem = true) :
    Memory.wf (s.slideUp n).mem = true ∧
    ∀ a, ¬ spillBytes s.ctx (slideGroups s.ctx n) a → Memory.get (s.slideUp n).mem a = Memory.get s.mem a := by
  have := spillGroups_mem (slideGroups s.ctx n) s.ctx s h
  simpa [State.slideUp] using this

end Sys2Proof.Machine
end

