-- ==== Sys2Proof/Tests/Slice0.lean ====
section
/-! SUPPORT. Tests: ill-formed terms, decoded words, and for each statement with hypotheses a state that meets them. -/

namespace Sys2Proof.Tests

open Sys2Proof Sys2Proof.Machine

set_option Elab.async false

/-! ### Ill-formed terms -/

theorem test_wf_refuses_bfx_length_zero : WellFormed (.bfx true (.w 1) (.lit 0) 3 0) = false := by decide
theorem test_wf_refuses_bfi_past_bit_63 : WellFormed (.bfi (.w 1) (.lit 0) 60 5) = false := by decide
theorem test_wf_refuses_call_frame : WellFormed (.call 32 0) = false := by decide
theorem test_wf_refuses_callx_frame : WellFormed (.callx 10 (.const 0)) = false := by decide
theorem test_wf_refuses_loop_offset : WellFormed (.loop (.w 1) 0) = false := by decide
theorem test_wf_refuses_lfor_offset : WellFormed (.lfor .i64 (.w 1) 1 (.lit 0) (.lit 1)) = false := by decide
theorem test_wf_refuses_integer_vmulz : WellFormed (.vmulz .n32 0 (.vec 1) (.vec 2) .all) = false := by decide
theorem test_wf_refuses_float_vidx : WellFormed (.vidx .f64 0 (.lit 1) (.lit 2) .all) = false := by decide
theorem test_wf_refuses_vxp_underflow : WellFormed (.vxp .f32 0 (.vec 1) (.vec 2) (.vec 3) (.vec 4) 0x051 .all) = false := by
  decide
theorem test_wf_refuses_qset_size_zero : WellFormed (.qset 0 (.const 0) 2 0) = false := by decide
theorem test_wf_refuses_csrr_unassigned : WellFormed (.csrr (.w 1) 0x016) = false := by decide
theorem test_wf_refuses_csrr_of_another_row : WellFormed (.csrr (.w 1) 0x113) = false := by decide
theorem test_wf_refuses_csrw_unassigned : WellFormed (.csrw 0x180 (.w 1)) = false := by decide
theorem test_wf_refuses_csrw_of_another_row : WellFormed (.csrw 0x0E0 (.w 1)) = false := by decide

/-! ### Decoded words, laid out from R20 and R24 or printed in the manual -/

/-- Every word of a list decodes to its instruction. -/
def decodesTo (xs : List (Nat × Nat × Instr)) : Bool := xs.all fun x => decide (decodeTableWord x.1 x.2.1 = some x.2.2)

theorem test_decodes_class000 :
    decodesTo [
      (32, 0x01009FF8, .add .i64 (.w 0) (.reg (.g 7)) (.lit (-2))),
      (32, 0x02049FF9, .sub .n64 (.w 1) (.reg (.g 7)) (.lit (-2))),
      (32, 0x03089FFA, .mul .i32 (.w 2) (.reg (.g 7)) (.lit (-2))),
      (32, 0x040C9FFB, .mulh .n32 (.w 3) (.reg (.g 7)) (.lit (-2))),
      (32, 0x05109FF8, .div .i64 (.w 4) (.reg (.g 7)) (.lit (-2))),
      (32, 0x06149FF9, .rem .n64 (.w 5) (.reg (.g 7)) (.lit (-2))),
      (32, 0x07189FFA, .min .i32 (.w 6) (.reg (.g 7)) (.lit (-2))),
      (32, 0x081C9FFB, .max .n32 (.w 7) (.reg (.g 7)) (.lit (-2))),
      (32, 0x09209FF8, .slt .i64 (.w 8) (.reg (.g 7)) (.lit (-2))),
      (32, 0x0A249FFB, .seq .n32 (.w 9) (.reg (.g 7)) (.lit (-2))),
      (32, 0x011C1FF7, .add .n32 (.w 7) (.reg (.w 7)) (.lit (-3))),
      (32, 0x0B0A2481, .or (.w 2) (.const 9) (.reg (.g 0))),
      (32, 0x0B8EFC7C, .and (.g 3) (.const 63) (.reg (.w 31))),
      (32, 0x0B8EFC7D, .or (.g 3) (.const 63) (.reg (.w 31))),
      (32, 0x0B8EFC7E, .xor (.g 3) (.const 63) (.reg (.w 31))),
      (32, 0x0B8EFC7F, .andn (.g 3) (.const 63) (.reg (.w 31))),
      (32, 0x0C24237C, .shl (.w 9) (.reg (.w 8)) (.lit 31)),
      (32, 0x0C24237D, .shr (.w 9) (.reg (.w 8)) (.lit 31)),
      (32, 0x0C24237E, .sra (.w 9) (.reg (.w 8)) (.lit 31)),
      (32, 0x0C24237F, .rot (.w 9) (.reg (.w 8)) (.lit 31))] = true := by decide +kernel

theorem test_decodes_class000b :
    decodesTo [
      (32, 0x0D060801, .clz .n64 (.w 1) (.const 2)),
      (32, 0x0D070C03, .clz .n32 (.w 1) (.lit 3)),
      (32, 0x0D060805, .ctz .n64 (.w 1) (.const 2)),
      (32, 0x0D070C07, .ctz .n32 (.w 1) (.lit 3)),
      (32, 0x0D060809, .popc .n64 (.w 1) (.const 2)),
      (32, 0x0D070C0B, .popc .n32 (.w 1) (.lit 3)),
      (32, 0x0D141840, .sextI8 (.w 5) (.reg (.w 6))),
      (32, 0x0D141844, .sextI16 (.w 5) (.reg (.w 6))),
      (32, 0x0D141848, .sextI32 (.w 5) (.reg (.w 6))),
      (32, 0x0D141880, .zextN8 (.w 5) (.reg (.w 6))),
      (32, 0x0D141884, .zextN16 (.w 5) (.reg (.w 6))),
      (32, 0x0D141888, .zextN32 (.w 5) (.reg (.w 6))),
      (64, 0x0000030D0E100C01, .bfx true (.w 4) (.reg (.w 3)) 3 13),
      (64, 0x000010100E343401, .bfx true (.w 13) (.reg (.w 13)) 16 16),
      (64, 0x00003F010E060000, .bfx false (.w 1) (.const 0) 63 1),
      (64, 0x000000400F080C00, .bfi (.w 2) (.reg (.w 3)) 0 64),
      (32, 0x10700005, .li (.w 28) 5),
      (64, 0x000186A011070000, .liLit32 (.w 1) 100000),
      (64, 0x0000000911060000, .liCidx (.w 1) 9)] = true := by decide +kernel

theorem test_decodes_class000c :
    decodesTo [
      (32, 0x12100A1C, .faddF32 .rne (.w 4) (.reg (.w 2)) (.const 7)),
      (32, 0x13100A1D, .faddF64 .rz (.w 4) (.reg (.w 2)) (.const 7)),
      (32, 0x14100A1E, .fsubF32 .ru (.w 4) (.reg (.w 2)) (.const 7)),
      (32, 0x15100A1F, .fsubF64 .rd (.w 4) (.reg (.w 2)) (.const 7)),
      (32, 0x16100A1C, .fmulF32 .rne (.w 4) (.reg (.w 2)) (.const 7)),
      (32, 0x17100A1D, .fmulF64 .rz (.w 4) (.reg (.w 2)) (.const 7)),
      (32, 0x18100A1E, .fmaF32 .ru (.w 4) (.reg (.w 2)) (.const 7)),
      (32, 0x19100A1F, .fmaF64 .rd (.w 4) (.reg (.w 2)) (.const 7)),
      (32, 0x1A100A1C, .fdivF32 .rne (.w 4) (.reg (.w 2)) (.const 7)),
      (32, 0x1B100A1D, .fdivF64 .rz (.w 4) (.reg (.w 2)) (.const 7)),
      (32, 0x13100A1C, .faddF64 .rne (.w 4) (.reg (.w 2)) (.const 7)),
      (32, 0x19141820, .fmaF64 .rne (.w 5) (.reg (.w 6)) (.reg (.w 8))),
      (32, 0x1C040BFC, .fminF32 (.w 1) (.reg (.w 2)) (.lit (-1))),
      (32, 0x1C040BFD, .fmaxF32 (.w 1) (.reg (.w 2)) (.lit (-1))),
      (32, 0x1C040BFE, .fcmpF32 (.w 1) (.reg (.w 2)) (.lit (-1))),
      (32, 0x1D040BFC, .fminF64 (.w 1) (.reg (.w 2)) (.lit (-1))),
      (32, 0x1D040BFD, .fmaxF64 (.w 1) (.reg (.w 2)) (.lit (-1))),
      (32, 0x1D040BFE, .fcmpF64 (.w 1) (.reg (.w 2)) (.lit (-1))),
      (32, 0x1E04082A, .fsqrt .f32 .ru (.w 1) (.reg (.w 2))),
      (32, 0x1E06082C, .fsqrt .f64 .rne (.w 1) (.const 2)),
      (32, 0x1F040B61, .fcvt .ef8b .bf16 .rz (.w 1) (.reg (.w 2)))] = true := by decide +kernel

theorem test_decodes_class001 :
    decodesTo [
      (32, 0x20000000, .nop (.w 0) 0),
      (32, 0x21004000, .br (-16384)),
      (64, 0xFFFFFFFD22000000, .brFar (-3)),
      (32, 0x230F7FFF, .bz .i32 true (.w 3) (-1)),
      (32, 0x24848005, .bnz .n64 false (.g 1) 5),
      (64, 0x0C000000252C0011, .beq .i64 false (.w 11) 17 (.reg (.w 12))),
      (64, 0x2300000026247FFA, .bne .i64 false (.w 9) (-6) (.reg (.g 3))),
      (64, 0xFC00000027078002, .blt .n32 true (.w 1) 2 (.lit (-4))),
      (64, 0x8500000028050002, .bge .i32 false (.w 1) 2 (.const 5)),
      (32, 0x29700007, .call 28 7),
      (64, 0x000000072A000000, .callFar 7),
      (32, 0x2B320C00, .callx 12 (.const 3)),
      (32, 0x2C000000, .ret),
      (32, 0x2D140007, .loop (.w 5) 7),
      (64, 0xFFFF00002E080003, .lfor .i64 (.w 2) 3 (.lit (-1)) (.lit (-1))),
      (32, 0x2F000000, .lend),
      (32, 0x30072400, .park (.w 1) (.lit 9)),
      (32, 0x31000000, .yield),
      (32, 0x320307FE, .trap (.lit 1) (-2)),
      (32, 0x33000000, .eret),
      (32, 0x340001FF, .bkpt 511)] = true := by decide +kernel

theorem test_decodes_class010 :
    decodesTo [
      (32, 0x41005FFE, .ldbI8 (.w 0) (.w 5) (-2)),
      (32, 0x42045FFE, .ldbN8 (.w 1) (.w 5) (-2)),
      (32, 0x43085FFE, .ldhI16 (.w 2) (.w 5) (-2)),
      (32, 0x440C5FFE, .ldhN16 (.w 3) (.w 5) (-2)),
      (32, 0x45105FFE, .ldI32 (.w 4) (.w 5) (-2)),
      (32, 0x46145FFE, .ldN32 (.w 5) (.w 5) (-2)),
      (32, 0x47185FFE, .ld (.w 6) (.w 5) (-2)),
      (32, 0x481C5FFE, .stb (.w 7) (.w 5) (-2)),
      (32, 0x49205FFE, .sth (.w 8) (.w 5) (-2)),
      (32, 0x4A245FFE, .stN32 (.w 9) (.w 5) (-2)),
      (32, 0x4B285FFE, .st (.w 10) (.w 5) (-2)),
      (32, 0x4C2C5FFE, .ldAcq (.w 11) (.w 5) (-2)),
      (32, 0x4D305FFE, .stRel (.w 12) (.w 5) (-2)),
      (32, 0x4E345FFE, .ldAcqN32 (.w 13) (.w 5) (-2)),
      (32, 0x4F385FFE, .stRelN32 (.w 14) (.w 5) (-2)),
      (32, 0x470C5002, .ld (.w 3) (.w 5) 2),
      (32, 0x4B80F007, .st (.g 0) (.w 15) 7),
      (32, 0x45183010, .ldI32 (.w 6) (.w 3) 16)] = true := by decide +kernel

theorem test_decodes_class010b :
    decodesTo [
      (32, 0x500627FF, .aadd (.w 1) (.g 2) 2047),
      (32, 0x520627FF, .axch (.w 1) (.g 2) 2047),
      (32, 0x530627FF, .aminI64 (.w 1) (.g 2) 2047),
      (32, 0x540627FF, .aminN64 (.w 1) (.g 2) 2047),
      (32, 0x550627FF, .amaxI64 (.w 1) (.g 2) 2047),
      (32, 0x560627FF, .amaxN64 (.w 1) (.g 2) 2047),
      (32, 0x570627FF, .aand (.w 1) (.g 2) 2047),
      (32, 0x580627FF, .aor (.w 1) (.g 2) 2047),
      (32, 0x590627FF, .badd (.w 1) (.g 2) 2047),
      (64, 0x8400000051042003, .acas (.w 1) (.w 2) 3 (.const 4)),
      (64, 0xC40000005A042FFD, .bcas (.w 1) (.w 2) (-3) (.lit 4)),
      (32, 0x5B002001, .prefCode (.w 2) 1),
      (32, 0x5B042001, .prefHeap (.w 2) 1),
      (32, 0x5C000024, .fenceAcq .dev),
      (32, 0x5C000034, .fenceRel .dev),
      (32, 0x5C000014, .fenceSl .dev),
      (32, 0x5C000004, .fenceSc .dev),
      (32, 0x5C000035, .fenceRel .sys),
      (32, 0x5C000013, .fenceSl .quad)] = true := by decide +kernel

theorem test_decodes_class011 :
    decodesTo [
      (32, 0x611A3308, .nnew (.w 6) (.const 12) (.lit 2)),
      (32, 0x62080000, .nfree (.w 2) (.w 0)),
      (32, 0x630C0001, .nld (.w 3) (.w 0) 1),
      (32, 0x64103000, .nst (.w 4) (.w 3) 0),
      (32, 0x651C0304, .pget (.w 7) (.w 0) (.lit 1)),
      (32, 0x66001C20, .plink (.w 7) (.w 8)),
      (32, 0x67001014, .splice (.w 4) (.w 5)),
      (32, 0x67001015, .spliceJ (.w 4) (.w 5)),
      (32, 0x68100C00, .ndup (.w 4) (.w 3) (.w 0)),
      (32, 0x69100C00, .nown (.w 4) (.w 3)),
      (32, 0x6A000004, .rpush 0 (.w 0) (.w 1)),
      (32, 0x6A140004, .rpush 5 (.w 0) (.w 1)),
      (32, 0x6B100000, .rpop 4),
      (32, 0x6C18080C, .meet 6 (.w 2) (.w 3)),
      (32, 0x6D160F04, .rule (.w 5) (.const 3) (.lit 1)),
      (64, 0x0A0000006E00271C, .fork 0 (.reg (.w 9)) (.lit 7) (.reg (.w 10))),
      (32, 0x6F042000, .join (.w 1) (.reg (.w 8)))] = true := by decide +kernel

theorem test_decodes_class100 :
    decodesTo [
      (32, 0x811B4000, .vclaim (.w 6) (.lit 16)),
      (32, 0x82000000, .vyield),
      (32, 0x83281C00, .vren (.w 10) (.reg (.w 7))),
      (32, 0x848C9002, .vld .n32 3 (.w 9) 2),
      (32, 0x85109000, .vst .f32 4 (.w 9) 0),
      (32, 0x8656051A, .vgath .i32 5 (.const 1) 6 .m2),
      (32, 0x87C93C0D, .vadd .f64 2 (.vec 15) (.reg (.w 3)) .m1),
      (32, 0x88C93C0E, .vsub .f64 2 (.vec 15) (.reg (.w 3)) .m2),
      (32, 0x89C93C0F, .vmul .f64 2 (.vec 15) (.reg (.w 3)) .m3),
      (32, 0x8AC93C0D, .vmulz .f64 2 (.vec 15) (.reg (.w 3)) .m1),
      (32, 0x8BC93C0E, .vfma .f64 2 (.vec 15) (.reg (.w 3)) .m2),
      (32, 0x8CC93C0F, .vmin .f64 2 (.vec 15) (.reg (.w 3)) .m3),
      (32, 0x8DC93C0D, .vmax .f64 2 (.vec 15) (.reg (.w 3)) .m1),
      (32, 0x8E8E070A, .vcmp .le .n32 3 (.const 1) (.lit 2)),
      (32, 0x8F05050B, .vsel .f32 1 3 (.vec 1) (.vec 2)),
      (32, 0x90050440, .vcvt .f32 .i32 .rne 1 (.vec 1) .all)] = true := by decide +kernel

theorem test_decodes_class100b :
    decodesTo [
      (32, 0x91301200, .vsum .f32 (.w 12) (.reg (.w 4)) (.const 0)),
      (32, 0x92301315, .vmaxr .i32 (.w 12) (.reg (.w 4)) (.lit 5)),
      (32, 0x93087C0F, .vredq .f64 (.w 2) 31 (.w 3)),
      (96, 0x05C40000000005219405090D, .vxp .f32 1 (.vec 2) (.vec 3) (.lit 4) (.reg (.w 5)) 0x0521 .m1),
      (32, 0x9584090C, .vrank 1 (.reg (.w 2)) (.vec 3) .all),
      (32, 0x9686090F, .vselect 1 (.const 2) (.vec 3) .m3),
      (32, 0x97850C01, .vpopc 1 (.vec 3) .m1),
      (32, 0x98C5090C, .vshuf .f64 1 2 (.vec 3) .all),
      (32, 0x99660C00, .vbcast .i32 9 (.const 3) .all),
      (32, 0x9A442304, .vidx .i32 1 (.reg (.w 8)) (.lit 1) .all)] = true := by decide +kernel

theorem test_decodes_class101 :
    decodesTo [
      (64, 0x00020001A1000400, .qset 0 (.reg (.w 1)) 2 1),
      (64, 0x00000000A11C0001, .qsetClr 7),
      (32, 0xA20C0B04, .qwait (.w 3) 2 (.lit 1)),
      (32, 0xA30C0304, .qresv (.w 3) 0 (.lit 1)),
      (32, 0xA4000A04, .qadvP 2 (.const 1)),
      (32, 0xA4000B05, .qadvC 2 (.lit 1)),
      (32, 0xA5047C00, .qhead (.w 1) 31),
      (32, 0xA6100000, .bclaim (.w 4) false),
      (32, 0xA6100001, .bclaim (.w 4) true),
      (32, 0xA7001000, .bfree (.reg (.w 4))),
      (32, 0xA800070C, .bfmt (.reg (.w 1)) (.lit 3)),
      (32, 0xA8030C09, .bfmtTab (.lit 3) (.reg (.w 2))),
      (32, 0xA8140802, .bfmtRd (.w 5) (.reg (.w 2))),
      (32, 0xA9040A0C, .bpair (.w 1) (.reg (.w 2)) (.const 3)),
      (32, 0xA9000801, .bpairClr (.reg (.w 2))),
      (32, 0xAA0C0000, .sbq (.w 3)),
      (32, 0xAB001014, .sbwait (.reg (.w 4)) (.reg (.w 5))),
      (32, 0xAB001209, .sbwaitR (.reg (.w 4)) (.const 2)),
      (32, 0xAC001000, .barr (.reg (.w 4))),
      (32, 0xAC382F09, .barrArm (.w 14) (.reg (.w 11)) (.lit 2)),
      (32, 0xAC021002, .barrDis (.const 4)),
      (32, 0xAD602F00, .bwait (.w 24) (.reg (.w 11)) (.lit 0)),
      (32, 0xAD040A0D, .bwaitG (.w 1) (.reg (.w 2)) (.const 3)),
      (32, 0xAE642F08, .bstat (.w 25) (.reg (.w 11)) (.lit 2))] = true := by decide +kernel

theorem test_decodes_class110 :
    decodesTo [
      (32, 0xC1040300, .eclaim (.w 1) 0 (.lit 0)),
      (32, 0xC2043E08, .ecap (.w 1) 15 (.const 2)),
      (32, 0xC3180608, .eclr (.w 6) 1 (.const 2)),
      (32, 0xC3000401, .eclrFree 1),
      (32, 0xC4081314, .eins 2 (.reg (.w 4)) (.lit 5)),
      (32, 0xC50C0408, .emax 3 1 2),
      (32, 0xC6101418, .esum 4 5 6),
      (32, 0xC7080004, .einf 2 0 1),
      (32, 0xC8100C00, .eleg 4 3),
      (32, 0xC90A1014, .eeval 2 (.const 4) (.reg (.w 5))),
      (32, 0xCA082028, .eread 2 (.reg (.w 8)) (.reg (.w 10))),
      (32, 0xCB141000, .ecnt (.w 5) 4),
      (32, 0xD0060B20, .vexp2 (.w 1) (.const 2) (.lit 8)),
      (32, 0xD1060B20, .vlog2 (.w 1) (.const 2) (.lit 8)),
      (32, 0xD2060B20, .vrcp (.w 1) (.const 2) (.lit 8)),
      (32, 0xD3060B20, .vrsq (.w 1) (.const 2) (.lit 8)),
      (32, 0xD4060B20, .vtanh (.w 1) (.const 2) (.lit 8))] = true := by decide +kernel

theorem test_decodes_class111 :
    decodesTo [
      (32, 0xE1141B60, .send .req (.w 5) (.reg (.w 6)) (.lit 24)),
      (32, 0xE1041E0D, .send .rep (.w 1) (.reg (.w 7)) (.const 3)),
      (32, 0xE1061C0E, .send .sys (.w 1) (.const 7) (.reg (.w 3))),
      (32, 0xE2141820, .sendi false (.w 5) (.reg (.w 6)) (.reg (.w 8))),
      (32, 0xE2141821, .sendi true (.w 5) (.reg (.w 6)) (.reg (.w 8))),
      (32, 0xE3000000, .hret),
      (32, 0xE48013FD, .aaddRemote true (.g 0) (.reg (.w 4)) (.lit (-1))),
      (64, 0x06000000E50C1014, .acasRemote false (.w 3) (.reg (.w 4)) (.reg (.w 5)) (.reg (.w 6))),
      (32, 0xE606080D, .axchRemote true (.w 1) (.const 2) (.reg (.w 3))),
      (32, 0xE7081026, .aminRemote false true (.w 2) (.reg (.w 4)) (.reg (.w 9))),
      (32, 0xE8081025, .amaxRemote true false (.w 2) (.reg (.w 4)) (.reg (.w 9))),
      (32, 0xE9081024, .aandRemote false (.w 2) (.reg (.w 4)) (.reg (.w 9))),
      (32, 0xEA081025, .aorRemote true (.w 2) (.reg (.w 4)) (.reg (.w 9))),
      (32, 0xEB242C20, .tbind (.w 9) (.reg (.w 11)) (.reg (.w 8))),
      (32, 0xEC020400, .tunbind (.const 1))] = true := by decide +kernel

theorem test_decodes_class111b :
    decodesTo [
      (32, 0xED1C3880, .csrr (.w 7) 0x0E2),
      (32, 0xEE180540, .csrw 0x015 (.w 6)),
      (32, 0xEE180480, .csrw 0x012 (.w 6)),
      (32, 0xED342000, .csrr (.w 13) 0x080),
      (32, 0xEF040000, .cyc (.w 1)),
      (32, 0xEE083800, .binjArm (.w 2)),
      (32, 0xEE084480, .mvgo (.w 2)),
      (32, 0xED0841C0, .launchRead (.w 2)),
      (32, 0xED0844C0, .mvwait (.w 2)),
      (32, 0xED084500, .hidx (.w 2)),
      (32, 0xED084540, .hidxw (.w 2)),
      (32, 0xF0830000, .syscBeat (.g 0) (.lit 0)),
      (32, 0xF0170001, .syscInfo (.w 5) (.lit 0)),
      (32, 0xF0801002, .syscFail (.g 0) (.reg (.w 4))),
      (32, 0xF10C1000, .sopen (.w 3) (.reg (.w 4))),
      (32, 0xF20F4000, .sput (.w 3) (.lit 16)),
      (32, 0xF30C1400, .sget (.w 3) (.reg (.w 5))),
      (32, 0xF4180C00, .sclose (.w 6) (.reg (.w 3)))] = true := by decide +kernel

/-- The manual's words that decode to traps (R38), and reserved values: a vector source of ADD, mod 11 of opcode 0x1C, a frame of
32, a ring size of 0, a type of VIDX that is no integer, a CSR that no chapter assigns. -/
theorem test_decoder_refuses :
    ([0x00000000, 0x0104090C, 0x1C040B03, 0x29800007, 0xE2141822, 0xED100580, 0x5C000006].all fun w => decodeTableWord 32 w = none) =
      true := by decide +kernel

theorem test_decoder_names_its_field :
    (match decode .mast (iwordsToBytes [0x0104090C]) with | .error (.operand f) => f | _ => 0) = 3 ∧
    (match decode .mast (iwordsToBytes [0x1C040B03]) with | .error (.illegal f) => f | _ => 0) = 5 := by decide

theorem test_tackle_words_are_no_mast_words :
    (match decode .mast (iwordsToBytes [0xF10C1000]) with | .error (.illegal f) => f | _ => 9) = 0 := by decide

/-! ### States for the witnesses -/

/-- Whether an access answers a value. -/
def okIs {α : Type} [DecidableEq α] (x : Ex α) (v : α) : Bool := match x with | .ok w => decide (w = v) | _ => false

theorem ok_of {α : Type} [DecidableEq α] {x : Ex α} {v : α} (h : okIs x v = true) : x = .ok v := by
  unfold okIs at h; split at h
  · rw [of_decide_eq_true h]
  · exact absurd h (by decide)

/-- A running context of launch 1 on core 0 of mast 0, with its code mapped at 0x10000. -/
def m0 : State := State.reset.placeContext 0

/-- The same on core 0 of tackle 0, and on the hart of halyard 0 of mast 0. -/
def t0 : State := State.reset.placeContext 8192
def h0 : State := State.reset.placeContext 16384

/-- Changes to the context, the task, the launch, the core and the mast that act. -/
def onCtx (s : State) (f : Context → Context) : State := s.setCtx (f s.ctx)
def onTask (s : State) (f : Task → Task) : State := s.setTask (f s.task)
def onLaunch (s : State) (f : Launch → Launch) : State := s.setLaunch (f s.launch)
def onCore (s : State) (f : Core → Core) : State := s.setCore (f s.core)
def onMast (s : State) (f : Mast → Mast) : State := s.setMast (f s.mast)

/-! ### Witnesses: registers and scalar instructions -/

theorem test_meets_register : Reg.w 1 ≠ .g 0 ∧ Reg.w 31 ≠ .w 1 := by decide

theorem test_meets_division_by_zero : m0.isrc .i32 (.lit 0) = 0 ∧ m0.isrc .n64 (.reg (.g 0)) = 0 := by decide +kernel

theorem test_meets_count_and_fields :
    (m0.src (.lit 0)).toNat % 2 ^ bwidth .n64 = 0 ∧ WellFormed (.bfi (.w 1) (.lit 1) 0 64) = true ∧
      WellFormed (.bfi (.w 1) (.lit 1) 63 1) = true := by decide +kernel

theorem test_meets_conversion : ∀ l, Src.reg (.w 1) ≠ .lit l := by intro l h; cases h

/-! ### Witnesses: control -/

theorem test_meets_format_b :
    ITy.val .n32 (m0.reg (.w 3)) = 0 ∧ ITy.val .n32 ((m0.setReg (.w 3) 1).reg (.w 3)) ≠ 0 ∧ m0.reg (.w 3) = 0 ∧
      frameOk 28 = true ∧ frameOk 4 = true ∧ slideFits m0.ctx 28 512 = true ∧
      (m0.pc + ofInt ((7 : BitVec 15).toInt * 4)).toNat % 4 = 0 := by decide +kernel

theorem test_meets_calls :
    slideFits m0.ctx 28 512 = true ∧ (m0.target 7).toNat % 4 = 0 ∧ (m0.farTarget 7).toNat % 4 = 0 ∧
      ((m0.setReg (.w 1) 0x10040).rc (.reg (.w 1))).toNat % 4 = 0 := by decide +kernel

/-- A context that has called once with frame 28. -/
def called0 : State :=
  onCtx m0 fun c => { c with depth := 1, base := 28, file := [(27, linkWord 28 0x10010)] }

theorem test_meets_return :
    (called0.ctx.depth ≠ 0 ∧ bits (called0.entry (called0.ctx.base - 1)) 63 61 ≠ 0) ∧ (m0.engine ≠ .hart ∧ m0.ctx.intrap = false ∧
      m0.ctx.depth = 0) ∧
    (let s := onCtx m0 fun c => { c with depth := 1, base := 28 }
     s.ctx.depth ≠ 0 ∧ bits (s.entry (s.ctx.base - 1)) 63 61 = 0 ∧ s.engine ≠ .hart ∧ s.ctx.intrap = false) := by decide +kernel

theorem test_meets_loops_enter :
    m0.reg (.w 5) = 0 ∧ (m0.setReg (.w 5) 1).reg (.w 5) ≠ 0 ∧ m0.ctx.loops.length < 8 ∧
    (let v := ITy.val .i64 ((m0.setReg (.w 2) 4).reg (.w 2))
     let lim := m0.isrc .i64 (.lit (-1))
     let st := sextN 64 (m0.src (.lit (-1))).toNat
     (st < 0 ∧ lim < v) ∧ ¬ ((0 < st ∧ lim < lim) ∨ (st < 0 ∧ lim < lim))) := by decide +kernel

/-- A context at the LEND of a counted loop, and of an induction loop. -/
def looping (k : LoopKind) : State := onCtx m0 fun c => { c with loops := [⟨k, 0x10000, c.pc, 0⟩] }

theorem test_meets_loops_end :
    (looping (.count 1)).ctx.loops = [⟨.count 1, 0x10000, m0.pc, 0⟩] ∧ 0 = (looping (.count 1)).ctx.base ∧
      (looping (.count 1)).pc = m0.pc ∧
      (looping (.induct (.w 2) .i64 (-1) (-1))).ctx.loops = [⟨.induct (.w 2) .i64 (-1) (-1), 0x10000, m0.pc, 0⟩] := by
  decide +kernel

/-- A context that waits in PARK w1 with a timeout of 5 from cycle 0, at cycle 7, and is named by the place of an event. -/
def parking (st : CtxStatus) : State :=
  { onCore (onCtx m0 fun c => { c with status := st, await := .park (.w 1) 5 0, waitStart := some 0 }) fun c => { c with cyc := 7 }
    with place := ⟨1, 0⟩ }

theorem test_meets_park :
    (onCtx m0 fun c => { c with pending := [⟨1, 2, 0⟩] }).ctx.pending ≠ [] ∧
    (parking .running).ctx.pending = [] ∧ (parking .running).ctx.await = .park (.w 1) 5 0 ∧
      (parking .running).ctx.waitStart = some 0 ∧ (5 : Word) ≠ 0 ∧ (5 : Word) ≤ (parking .running).core.cyc - 0 ∧
    (let a := (parking .waiting).focus 1
     a.ctx.await = .park (.w 1) 5 0 ∧ (5 : Word) ≤ a.core.cyc - 0 ∧ a.ctx.pending = [] ∧ a.ctx.status = .waiting) ∧
    ((parking .parked).focus 1).ctx.status = .parked := by decide +kernel

/-- Contexts on two strands of core 0, of which the one on strand 1 is older. -/
def rivals : State :=
  { onCore m0 fun c => { c with strands := [{ Strand.init with ctx := some 1 }, { Strand.init with ctx := some 2, age := 5 }] } with
    ctxs := [(1, m0.ctx), (2, { m0.ctx with strand := 1 })] }

theorem test_meets_choice :
    rivals.readyStrands 0 [] = [0, 1] ∧ rivals.choose 0 [0, 1] = some 1 ∧
    (let s := onCore rivals fun c => { c with strands := c.strands.set 1 { c.strand 1 with yielded := true } }
     s.choose 0 [0, 1] = some 0) := by decide +kernel

/-! ### Witnesses: traps -/

theorem test_meets_can_trap : canTrap m0 ∧ canTrap t0 := by unfold canTrap; decide +kernel

theorem test_meets_double_trap :
    (onCtx m0 fun c => { c with intrap := true }).engine ≠ .hart ∧ (onCtx m0 fun c => { c with intrap := true }).ctx.intrap = true := by
  decide +kernel

theorem test_meets_software_traps : m0.src (.lit 0) = 0 ∧ m0.src (.lit 1) ≠ 0 := by decide +kernel

theorem test_meets_return_from_handlers :
    (onCtx m0 fun c => { c with intrap := true }).ctx.intrap = true ∧
    (let s := onCtx m0 fun c => { c with inui := true }
     s.ctx.intrap = false ∧ s.ctx.inui = true) ∧ (canTrap m0 ∧ m0.ctx.inui = false) := by unfold canTrap; decide +kernel

/-- A context at a load of a double of host memory, mapped at the address that w1 holds. -/
def hosting : State :=
  let s := (m0.setReg (.w 1) 0x40000).withFetchWord 32 ((encode (.ld (.w 2) (.w 1) 0)).headD 0)
  let s := onLaunch s fun la => { la with ranges := la.ranges ++ [⟨0x40000, 0x1000, 3, true⟩] }
  { onTask s fun t => { t with extents := t.extents ++ [⟨0x40000, 0x41000, 2 ^ 51, true, false, 1⟩] } with place := ⟨1, 0⟩ }

theorem test_meets_pcie_timeout :
    let c := hosting.focus hosting.place.a
    canTrap c ∧ c.ctx.status = .running ∧ c.fetchDecode = .ok (.ld (.w 2) (.w 1) 0) ∧
      c.loadEa (.ld (.w 2) (.w 1) 0) = some (0x40000, 8) ∧ space (0x40000 : Word) = 0x0 ∧
      c.memCheck 0x40000 8 .load c.loadSpaces = .ok (2 ^ 51) ∧ isHostKey (2 ^ 51) = true :=
  ⟨by unfold canTrap; decide +kernel, by decide +kernel, ok_of (by decide +kernel), by decide +kernel, by decide,
    ok_of (by decide +kernel), by decide⟩

/-! ### Witnesses: memory -/

/-- w1 holds an address of local data, w2 one of the granted and held bank 0, w3 one of the bank of another mast. -/
def mem0 : State :=
  ((onMast m0 fun m => { m with
      grants := [(1, { Grant.init with banks := [0, 1, 2], rings := 4, tiles := 2, bars := 2, env := (16, 64), ctabs := [3] })]
      banks := [(0, { Bank.init with holder := some 1 }), (1, { Bank.init with holder := some 1 }),
        (2, { Bank.init with holder := some 1 })] }).setReg (.w 1) 0x8000000000000100).setReg (.w 2) 0x9000000000000040

theorem test_meets_loads :
    (∀ n ∈ [1, 2, 4, 8], readable mem0 0x8000000000000100 n (localKey 0 0x100)) ∧ readable mem0 0x9000000000000040 8 (bankKey 0 0x40) ∧
      mem0.ctx.storeBuf = [] ∧ mem0.reg (.w 1) + (0 : BitVec 12).signExtend 64 * Word.of 8 = 0x8000000000000100 := by
  refine ⟨?_, ⟨ok_of (by decide +kernel), by decide +kernel, by decide +kernel, by decide +kernel⟩, by decide +kernel, by decide +kernel⟩
  intro n h
  have : okIs (mem0.memCheck 0x8000000000000100 n .load mem0.loadSpaces) (localKey 0 0x100) = true ∧
      mem0.badDouble (localKey 0 0x100) n = none := by
    revert n; decide +kernel
  exact ⟨ok_of this.1, by decide +kernel, fun h => absurd h (by decide), this.2⟩

theorem test_meets_stores :
    storable mem0 0x8000000000000100 8 (localKey 0 0x100) ∧ storable mem0 0x9000000000000040 4 (bankKey 0 0x40) ∧
    (∃ key, storable mem0 0xB000000100000040 8 key) ∧ space (0xB000000100000040 : Word) = 0xB ∧ mem0.mayTravel = true ∧
      hasRoom (onTask mem0 fun t => { t with sq := ⟨256, 256, 64⟩ }) 0 32 ∧
      space (0x8000000000000100 : Word) ≠ 0xB := by
  refine ⟨⟨ok_of (by decide +kernel), by decide +kernel, by decide +kernel⟩, ⟨ok_of (by decide +kernel), by decide +kernel,
    by decide +kernel⟩, ?_, by decide, by decide +kernel, by unfold hasRoom; decide +kernel, by decide⟩
  exact ⟨0, ok_of (by decide +kernel), by decide +kernel, by decide +kernel⟩

/-- A buffered store of one byte to local data, whose drain an event names. -/
def draining : State :=
  { onCtx mem0 fun c => { c with storeBuf := [⟨0x8000000000000100, localKey 0 0x100, [7], 0, 0⟩] } with place := ⟨1, 0⟩ }

theorem test_meets_drain :
    (let a := draining.focus draining.place.a
     a.ctx.storeBuf = [⟨0x8000000000000100, localKey 0 0x100, [7], 0, 0⟩] ∧ a.packetsDone 1 0 = true ∧
       a.launch.status ≠ .preempted ∧ space (0x8000000000000100 : Word) ≠ 0x9 ∧ inYardWindow 0x8000000000000100 = false) ∧
    memoryForm draining := by
  unfold memoryForm; decide +kernel

/-- A buffered store to the bank that mem0 holds. -/
def bankDraining : State :=
  { onCtx mem0 fun c => { c with storeBuf := [⟨0x9000000000000040, bankKey 0 0x40, [7], 0, 0⟩] } with place := ⟨1, 0⟩ }

/-- A buffered store of double `i` of slot 0 of the yard window, whose doubles 0 and 2 are given. -/
def posting0 (i : Nat) (d0 d2 : Word) : State :=
  let s := onCore mem0 fun c => { c with yslots := [(ySlotKey 1 0, ⟨[d0, 0, d2, 0, 0, 0, 0, 0], false⟩)] }
  { onCtx s fun c => { c with storeBuf := [⟨Word.of (0x800000000001B000 + 8 * i), 0, toBytes 8 0, 0, 0⟩] } with place := ⟨1, 0⟩ }

/-- The codes of the command that a posting store completes. -/
def postCodes (s : State) : List Nat × List Nat :=
  let a := s.focus s.place.a
  let sl := a.core.yslots.get (ySlotKey 1 0) YSlot.init
  (a.setCtx { a.ctx with storeBuf := [] }).yardCodes 0 0 1 (newCmd 1 0 (sl.dbl.set 7 0))

theorem test_meets_bank_drain :
    (let a := bankDraining.focus bankDraining.place.a
     a.ctx.storeBuf = [⟨0x9000000000000040, bankKey 0 0x40, [7], 0, 0⟩] ∧ a.packetsDone 1 0 = true ∧ a.launch.status ≠ .preempted ∧
       space (0x9000000000000040 : Word) = 0x9 ∧ a.engine ≠ .tackle ∧
       ∀ r ∈ a.runsOf a.mastNo 0x40 1, a.sbFree true (keyOff r.1) r.2.2 = true) := by decide +kernel

/-- A YNOP, a YZERO and an unknown code are posted by double 7; double 0 of a slot posts nothing. -/
theorem test_meets_posting :
    (∀ i ∈ [0, 7], ∀ k ∈ [0, 2, 3, 9], let s := posting0 i (Word.of (k * 2 ^ 56)) 0
     let a := s.focus s.place.a
     let st : BufStore := ⟨Word.of (0x800000000001B000 + 8 * i), 0, toBytes 8 0, 0, 0⟩
     a.ctx.storeBuf = [st] ∧ a.packetsDone 1 st.order = true ∧ a.launch.status ≠ .preempted ∧ inYardWindow st.ea = true ∧ a.engine = .mast ∧
       bits st.ea 5 3 = i ∧ a.runs a.cur.launch = true) ∧
    (∀ k ∈ [0, 2], postCodes (posting0 7 (Word.of (k * 2 ^ 56)) 0) = ([], [])) ∧
    (let s := posting0 7 (Word.of (4 * 2 ^ 56)) 0x0000200040000000
     let a := s.focus s.place.a
     postCodes s = ([], []) ∧ (a.entryOn 0 0 (.drain 1)).isSome = true) ∧
    (let c := newCmd 1 0 [Word.of (9 * 2 ^ 56), 0, 0, 0, 0, 0, 0, 0]
     c.bar = false ∧ c.bat = false ∧ c.cop = 9 ∧ (postCodes (posting0 7 (Word.of (9 * 2 ^ 56)) 0)).1 = [1]) := by decide +kernel

theorem test_meets_misaligned :
    (canTrap mem0 ∧ mem0.mayTravel = true) ∧ (mem0.reg (.w 1) + (1 : BitVec 12).signExtend 64 * Word.of 8 + 4).toNat % 8 ≠ 0 ∧
      ((mem0.setReg (.w 3) 0x8000000000000101).reg (.w 3) + (0 : BitVec 12).signExtend 64 * Word.of 2).toNat % 2 ≠ 0 := by
  unfold canTrap; decide +kernel

theorem test_meets_atomics :
    atomicReady mem0 0x8000000000000100 0x8 (localKey 0 0x100) ∧ atomicReady mem0 0x9000000000000040 0x9 (bankKey 0 0x40) := by
  refine ⟨⟨ok_of (by decide +kernel), ?_, ?_, ?_, ?_⟩, ⟨ok_of (by decide +kernel), ?_, ?_, ?_, ?_⟩⟩ <;> decide +kernel

theorem test_meets_fences :
    (let ea := mem0.reg (.w 1) + (1 : BitVec 12).signExtend 64 * 64
     ea.toNat % 64 = 0 ∧ mem0.loadSpaces.contains (space ea) = true ∧ zeroFieldsOk ea = true) ∧
    mem0.drained = true ∧ mem0.scopeDone .quad = true := by decide +kernel

/-- A mast with a live read entry over the first granule of bank 0. -/
def reading : Mast :=
  { mem0.mast with sb := [⟨0, 0, 1, 0, false, 1, [⟨false, 0, 1, true, none, 0⟩], 0⟩] }

theorem test_meets_scoreboard :
    (mem0.grant.ctabs.contains (mem0.src (.lit 3)).toNat = true ∧ mem0.codecEntries (mem0.src (.lit 3)).toNat = [] ∧
      mem0.ctx.await = .none) ∧
    mem0.mast.sb = [] ∧ mem0.src (.lit 0) = 0 ∧ mem0.drained = true ∧
    (mem0.src (.lit 8) ≠ 0 ∧ space (mem0.rc (.reg (.w 2))) = 0x9 ∧ zeroFieldsOk (mem0.rc (.reg (.w 2))) = true ∧
      bits (mem0.rc (.reg (.w 2))) 19 0 + 8 ≤ 2 ^ 20 ∧
      (∀ i, i < 16 → i * 65536 < bits (mem0.rc (.reg (.w 2))) 19 0 + 8 → bits (mem0.rc (.reg (.w 2))) 19 0 < (i + 1) * 65536 →
        mem0.mast.holds mem0.cur.launch i = true ∧ mem0.mast.isShadow i = false) ∧
      (∀ w ∈ [true, false], ∀ e ∈ mem0.mast.sb, ∀ p ∈ mem0.mast.pieces 0x48 8, ∀ j ∈ e.ivals,
        j.conflicts w (granules p.1 p.2).1 (granules p.1 p.2).2 = false) ∧
      ∀ e ∈ reading.sb, ∀ p ∈ reading.pieces 0 8, ∀ j ∈ e.ivals, j.conflicts false (granules p.1 p.2).1 (granules p.1 p.2).2 = false) := by
  decide +kernel

/-! ### Witnesses: nodes, records and joins -/

/-- Two live nodes of core 0 in slots 0 and 1, named by w4 and w5, ports 1 by w6 and w7, in a store of 16 slots with 4 kinds. -/
def net0 : State :=
  ((((onTask mem0 fun t => { t with
      nlsz := 16, nkind := 4, hhi := 0x1000
      nodes := [(0, { Node.init with live := true, kind := 1, arity := 1 }), (1, { Node.init with live := true, kind := 2, arity := 3 })]
      rtbase := 0x10000 }).setReg (.w 4) (mkRef 0 0 0 0)).setReg (.w 5) (mkRef 0 1 0 0)).setReg (.w 6) (mkRef 0 0 0 1)).setReg (.w 7)
    (mkRef 0 1 0 1)

theorem test_meets_nodes :
    ((net0.src (.lit 3)).toNat ≤ 0xFFE ∧ (net0.src (.lit 3)).toNat < net0.task.nkind ∧ net0.task.freeSlot = some 2) ∧
    net0.chk (net0.reg (.w 4)) false .netW = .ok () ∧ net0.chk (net0.reg (.w 4)) false .net = .ok () ∧
      okIs (net0.slotReady 2 .netW) () = true ∧ net0.released = true ∧
    (let nd := net0.nodeOf (net0.reg (.w 4))
     nd.ports.all (net0.portFreeable (net0.reg (.w 4))) = true ∧ nd.desc = 0 ∧ (net0.src (.lit 1)).toNat ≤ nd.arity ∧
       nd.arity < (net0.src (.lit 2)).toNat) ∧
    bits (net0.reg (.w 0)) 36 32 ≤ 16 ∧ descOk (net0.reg (.w 0)) = true := by
  refine ⟨by decide +kernel, ok_of (by decide +kernel), ok_of (by decide +kernel), by decide +kernel, by decide +kernel,
    by decide +kernel, by decide +kernel, by decide +kernel⟩

/-- The node of w4 shares the payload whose header lies at the start of the code image's range, with a count of 1 or 2. -/
def payload (n : Nat) : State :=
  { onTask net0 fun t => { t with
      nodes := t.nodes.set 0 { t.node 0 with desc := 0x10400 }
      extents := [⟨0x10000, 0x20000, 0x10000, true, false, 0⟩] } with
    mem := Memory.write [] 0x10400 (toBytes 8 (n * 2 ^ 48))
    launches := [(1, { net0.launch with ranges := [⟨0x10000, 0x10000, 0, true⟩] })] }

theorem test_meets_payload :
    ∃ w u, (payload 2).payload ((payload 2).nodeOf ((payload 2).reg (.w 4))).desc = .ok (0x10400, w, u) ∧
      ((payload 2).nodeOf ((payload 2).reg (.w 4))).desc ≠ 0 ∧
      ((payload 2).nodeOf ((payload 2).reg (.w 4))).ports.all ((payload 2).portFreeable ((payload 2).reg (.w 4))) = true :=
  ⟨0x0002000000000000, payload 2, ok_of (by decide +kernel), by decide +kernel, by decide +kernel⟩

theorem test_meets_port_get :
    canTrap net0 ∧ net0.chk (net0.reg (.w 0)) false .net = .error (.trap 0x04 net0.pc 0) := by
  refine ⟨by unfold canTrap; decide +kernel, ?_⟩
  have h : (match net0.chk (net0.reg (.w 0)) false .net with
    | .error e => decide (e = Stop.trap 0x04 net0.pc 0) | _ => false) = true := by decide +kernel
  split at h
  · rename_i e he; rw [he, of_decide_eq_true h]
  · exact absurd h (by decide)

theorem test_meets_plink :
    net0.chk (net0.reg (.w 4)) true .netW = .ok () ∧ net0.chk (net0.reg (.w 5)) true .netW = .ok () ∧ net0.chk (net0.reg (.w 6)) true .netW = .ok () ∧ net0.released = true ∧
    (net0.reg (.w 4) ≠ net0.reg (.w 5) ∧ refState (net0.word (net0.reg (.w 4))) = 0 ∧ refState (net0.word (net0.reg (.w 5))) = 0 ∧
      refPort (net0.reg (.w 4)) = 0 ∧ refPort (net0.reg (.w 5)) = 0 ∧ refPort (net0.reg (.w 6)) ≠ 0 ∧
      net0.task.deque.length + net0.task.reserved < 256) := by
  refine ⟨ok_of (by decide +kernel), ok_of (by decide +kernel), ok_of (by decide +kernel), by decide +kernel, by decide +kernel⟩

/-- The two nodes are the current redex, and port 1 of each is wired: to the other (`true`), or bound to the host (`false`). -/
def dying (wired : Bool) : State :=
  onCtx (onTask net0 fun t => { t with nodes := [
      (0, { t.node 0 with ports := [0, if wired then portWord 1 (mkRef 0 1 0 2) else Word.of (4 * 2 ^ 61 + 9), 0, 0] }),
      (1, { t.node 1 with ports := [0, portWord 1 (mkRef 0 2 0 1), portWord 1 (mkRef 0 0 0 1), 0] }),
      (2, { Node.init with live := true, arity := 2, ports := [0, portWord 1 (mkRef 0 1 0 1), 0, 0] })] })
    fun c => { c with kind := .redex, cur0 := mkRef 0 0 0 0, cur1 := mkRef 0 1 0 0 }

theorem test_meets_splice :
    (∀ b ∈ [true, false], refState ((dying b).word (mkRef 0 1 0 0)) = 0 ∧ okIs ((dying b).dyingOk (mkRef 0 0 0 1)) () = true ∧
      (dying b).core.splices.length < 31) ∧
    refState ((dying false).word (mkRef 0 0 0 1)) = 4 ∧ refState ((dying true).word (mkRef 0 0 0 1)) ≠ 4 ∧
    (let s := dying true
     s.inRedex (mkRef 0 0 0 1) = true ∧ s.inRedex (mkRef 0 1 0 1) = true ∧ okIs (s.dyingOk (mkRef 0 1 0 1)) () = true ∧
       refers (s.word (mkRef 0 0 0 1)) (mkRef 0 1 0 1) = false ∧ s.task.freeSlot = some 3 ∧ okIs (s.slotReady 3 .netW) () = true) := by decide +kernel

theorem test_meets_records :
    (rpushOk (net0.reg (.w 4)) = true ∧ net0.released = true ∧ net0.task.deque.length + net0.task.reserved < 256 ∧ rpushOk (net0.reg (.w 5)) = true) ∧
    ((net0.setReg (.w 8) 0x10040).rc (.reg (.w 8))).toNat % 4 = 0 ∧ net0.task.handlerIndex 0x10040 = some 16 ∧
    (net0.task.deque = [] ∧ net0.task.spilled = []) ∧
    (let s := onTask net0 fun t => { t with deque := [⟨1, 2, false⟩] }
     s.task.deque = [] ++ [⟨1, 2, false⟩] ∧ s.task.reserved = 0) ∧
    (let s := onTask net0 fun t => { t with reserved := 1 }
     s.task.deque = [] ∧ s.task.reserved ≠ 0) := by decide +kernel

/-- The rule table of 4 kinds at the start of the heap range, with a handler for the pair of kinds 1 and 2. -/
def rules : State := { payload 2 with mem := Memory.write [] 0x10020 (toBytes 8 0x10080) }

theorem test_meets_rule :
    canTrap rules ∧ (rules.task.nkind ≤ (rules.src (.lit 4)).toNat ∧ (rules.src (.lit 1)).toNat < rules.task.nkind) ∧
      rules.ruleOf 1 2 = .ok 0x10080 ∧ rules.ruleOf (rules.src (.lit 1)).toNat (rules.src (.lit 2)).toNat = .ok 0x10080 := by
  refine ⟨by unfold canTrap; decide +kernel, by decide +kernel, ok_of (by decide +kernel), ok_of (by decide +kernel)⟩

/-- Whether an access answers at all. -/
def okAny {α : Type} (x : Ex α) : Bool := match x with | .ok _ => true | _ => false

theorem ok_any {α : Type} {x : Ex α} (h : okAny x = true) : ∃ v, x = .ok v := by
  unfold okAny at h; split at h
  · exact ⟨_, rfl⟩
  · exact absurd h (by decide)

/-- The principal ports of the two nodes are wired to each other. -/
def redex0 : State :=
  onTask net0 fun t => { t with nodes := [
    (0, { t.node 0 with ports := [portWord 1 (mkRef 0 1 0 0), 0, 0, 0] }),
    (1, { t.node 1 with ports := [portWord 1 (mkRef 0 0 0 0), 0, 0, 0] })] }

/-- A meeting of the two nodes for the acting context that has ended. -/
def met0 : Meeting :=
  { id := 0, task := redex0.cur.task, strand := none, ctx := some 1, record := redexRecord (mkRef 0 0 0 0) (mkRef 0 1 0 0) 0 1,
    x := mkRef 0 0 0 0, y := mkRef 0 1 0 0, toMove := [], slot := none, spare := [], movedX := false, movedY := false, failed := none, later := none }

theorem test_meets_meet :
    (let a := redex0.reg (.w 4)
     let b := redex0.reg (.w 5)
     redex0.ctx.kind ≠ .rep ∧ rpushOk a = true ∧ rpushOk b = true ∧ sameNode a b = false ∧
       (redex0.core.meetings.find? fun m => decide (m.ctx = some redex0.cur.ctx) && decide (m.record.refs = (a, b))) = none ∧
       redex0.localCheck redex0.cur.launch redex0.cur.core a b = none ∧
       redex0.meetPlan redex0.cur.launch redex0.cur.core a b = .ready ∧
       okIs (redex0.unitReady redex0.cur.task (slotsOn redex0.cur.core [a, b]) .net) () = true ∧
       redex0.unlocked redex0.cur.task a = true ∧ redex0.unlocked redex0.cur.task b = true ∧
       (let s := onCore redex0 fun c => { c with meetings := [met0] }
        (s.core.meetings.find? fun m => decide (m.ctx = some s.cur.ctx) && decide (m.record.refs = (a, b))) = some met0 ∧
          met0.failed = none ∧ s.meetingDone s.cur.launch met0 = true ∧ s.unlocked s.cur.task met0.x = true ∧
          s.unlocked s.cur.task met0.y = true ∧
          okIs (s.unitReady s.cur.task (slotsOn s.cur.core [met0.x, met0.y]) .net) () = true)) := by decide +kernel

theorem test_meets_reply_meeting :
    (let s := onCtx redex0 fun c => { c with kind := .rep }
     canTrap s ∧ s.ctx.kind = .rep ∧ refCore (s.reg (.w 4)) = s.cur.core ∧
       refCore ((s.setReg (.w 5) (mkRef 1 0 0 0)).reg (.w 5)) ≠ s.cur.core) := by unfold canTrap; decide +kernel

/-- A join object of count n at offset 0x100 of local data, whose continuation is a task record. -/
def joining (n : Nat) : State :=
  { net0 with mem := Memory.write [] (localKey 0 0x100) (toBytes 8 n ++ toBytes 8 (6 * 2 ^ 61)) }

/-- The task of a state with send and inbox shares. -/
def roomy (s : State) : State := onTask s fun t => { t with sq := ⟨256, 256, 64⟩, ib := ⟨4096, 3072, 1024⟩ }

/-- A JOIN request for it from core 1. -/
def joinPacket : Packet :=
  { id := 5, net := 0, src := 1, dst := 0, launch := 1, ctx := 0, order := 0, rel := 0, bytes := 32, flits := 1, left := true,
    kind := .join 0xA000000000000100 }

theorem test_meets_join :
    (let s := joining 1
     let ea := s.rc (.reg (.w 1))
     s.ctx.await = .none ∧ space ea = 0x8 ∧ okIs (s.joinCheck ea) (localKey 0 0x100) = true ∧
       s.task.deque.length + s.task.reserved < 256 ∧ s.drained = true ∧ s.packetsDone s.cur.ctx s.ctx.order = true ∧
       s.badDouble (localKey 0 0x100) 16 = none ∧ s.dbl (localKey 0 0x100) ≠ 0 ∧ bits (s.dbl (localKey 0 0x100 + 8)) 63 61 = 6 ∧
       bits (s.dbl (localKey 0 0x100 + 8)) 60 60 = 0 ∧ bits (s.dbl (localKey 0 0x100 + 8)) 55 52 = 0) ∧
    (∀ p e g, (joining 1).ctx.await ≠ .reply p e g) ∧
    (onCtx net0 fun c => { c with await := .reply 5 (.w 1) (some (.joined 0 0)) }).ctx.await = .reply 5 (.w 1) (some (.joined 0 0)) ∧
    (let s := { roomy (joining 2) with net := [joinPacket], place := ⟨5, 0⟩ }
     let t := s.taskAt (taskKey 1 0)
     s.packet s.place.a = some joinPacket ∧ s.mayApply joinPacket = true ∧ t.live = true ∧ t.locb ≤ 0x100 ∧ 0x100 + 16 ≤ t.locl) := by
  refine ⟨by decide +kernel, ?_, by decide +kernel, by decide +kernel⟩
  intro p e g h
  have : (joining 1).ctx.await = .none := by decide +kernel
  rw [this] at h; cases h

/-! ### Witnesses: lanes and special functions -/

/-- A context with 16 lanes of zeros, and w2 at a held bank. -/
def lanes0 : State :=
  onCtx mem0 fun c => { c with
    vl := 16, vgrant := 16, vwant := 16, v := List.replicate 16 (List.replicate 16 0), m := List.replicate 4 (List.replicate 16 true) }

theorem test_meets_no_lanes : canTrap mem0 ∧ mem0.ctx.vl = 0 := by unfold canTrap; decide +kernel

theorem test_meets_lanes : lanes0.ctx.vl ≠ 0 ∧ lanes0.ctx.v.length = 16 ∧ lanes0.ctx.m.length = 4 := by decide +kernel

theorem test_meets_vector_memory :
    (let ea := lanes0.reg (.w 2) + (0 : BitVec 12).signExtend 64 * Word.of (VTy.size .f32)
     okIs (lanes0.rangeCheck ea 4 64) () = true ∧ okAny (lanes0.bankRead ea 64) = true ∧ lanes0.touchesObj ea 64 = false) ∧
    (let at_ := fun e => lanes0.rc (.reg (.w 2)) + Word.of ((lanes0.ctx.velem 3 e).toNat % 2 ^ 32 * 4)
     let es := (List.range lanes0.ctx.vl).filter (lanes0.ctx.active .m1)
     okIs (lanes0.gatherCheck 4 at_ es) () = true ∧ okAny (State.gather 4 at_ es lanes0) = true) := by decide +kernel

/-- Ring 0 over the first 128 bytes of bank 0: four slots of a granule, of which two are published and one is taken. -/
def ring0 : Ring := { Ring.fresh 0 32 4 with take := 1, pub := 2, resv := 3, coreTaken := [0] }

/-- The same, with the ring. -/
def ringed : State := onMast (lanes0.setReg (.w 3) 1) fun m => { m with rings := [(ringKey 1 0, ring0)] }

theorem test_meets_reductions :
    (lanes0.src (.lit 0) = 0 ∧ lanes0.src (.lit 8) ≠ 0 ∧
      okIs (lanes0.rangeCheck (lanes0.rc (.reg (.w 2))) 4 ((lanes0.src (.lit 8)).toNat * 4)) () = true ∧
      okAny (lanes0.bankRead (lanes0.rc (.reg (.w 2))) ((lanes0.src (.lit 8)).toNat * 4)) = true) ∧
    (ringed.mast.ringOf ringed.cur.launch 0 = some ring0 ∧ ring0.size % VTy.size .f32 = 0 ∧ ringed.reg (.w 4) = 0 ∧
      ringed.ctx.await = .none ∧ ringed.settled = true ∧ ringed.myEntry ≠ none) ∧
    (onCtx ringed fun c => { c with await := .vredq 0 .f32 (.w 5) 0 (.w 4) }).ctx.await = .vredq 0 .f32 (.w 5) 0 (.w 4) ∧
    (let s := { onCtx ringed fun c => { c with await := .vredq 0 .f32 (.w 5) 0 (.w 3), status := .waiting } with place := ⟨1, 0⟩ }
     let a := s.focus s.place.a
     a.ctx.status = .waiting ∧ a.runs a.cur.launch = true ∧ a.deliverable = false ∧ a.mast.ringOf a.cur.launch 0 = some ring0 ∧ a.reg (.w 3) ≠ 0 ∧ ring0.take < ring0.pub ∧
       a.mast.rangeFree (a.mast.sb.filter fun x => decide (x.id ≠ 0)) false (ring0.off ring0.take) ring0.size = true ∧
       (∀ x ∈ a.bankRuns (ring0.slotAddr ring0.take) ring0.size, a.badDouble x.1 x.2.2 = none)) ∧
    (let r := { ring0 with rel := 1, coreTaken := [] }
     r.rel = r.take ∧ r.released = []) := by decide +kernel

/-- A request of the special-function queue of mast 0. -/
def sfReq (b : Bool) : SfReq := { launch := 1, fn := .rcp, dst := 0, src := 64, n := 40, entry := 0, started := b, wrote := 0 }

theorem test_meets_special_functions :
    (let s := mem0.setReg (.w 3) 0x9000000000000100
     s.src (.lit 0) = 0 ∧ s.src (.lit 4) ≠ 0 ∧ okIs (s.rangeCheck (s.reg (.w 3)) 4 16) () = true ∧
       okIs (s.rangeCheck (s.rc (.reg (.w 2))) 4 16) () = true ∧ 0x40 + 16 ≤ bits (s.reg (.w 3)) 19 0 ∧
       s.touchesObj (s.reg (.w 3)) 16 = false ∧ s.settled = true ∧ s.mast.sfQueue.length < 64 ∧
       s.myEntry = some (0, false)) ∧
    (∀ b, ((onMast mem0 fun m => { m with sfQueue := [sfReq b] }).mastAt 0).sfQueue = [sfReq b]) ∧
    (mem0.mastAt 0).opBlocked 0 [] = false ∧ (mem0.launchAt (sfReq true).launch).killed = false := by decide +kernel

/-! ### Witnesses: rings, banks, barriers and envelopes -/

theorem test_meets_rings :
    (mem0.quiet 0 = true ∧ mem0.writesDone = true ∧ 0 < mem0.grant.rings) ∧
    (let b := (mem0.setReg (.w 3) 0x9000000000000000).rc (.reg (.w 3))
     b.toNat % 32 = 0 ∧ space b = 0x9 ∧ zeroFieldsOk b = true ∧ bits b 19 0 + 128 ≤ 2 ^ 20 ∧
       mem0.mast.rangeFree mem0.mast.sb true (bits b 19 0) 128 = true ∧
       ∀ i, i < 16 → i * 65536 < bits b 19 0 + 128 → bits b 19 0 < (i + 1) * 65536 →
         mem0.mast.holds 1 i = true ∧ mem0.mast.isShadow i = false ∧ mem0.mast.pairOf i = none) ∧
    ringed.mast.ringOf ringed.cur.launch 0 = some ring0 ∧ 1 ≤ ring0.pub - ring0.take ∧ ring0.resv + 1 - ring0.rel ≤ ring0.count ∧
    firstServed ring0.waitTake ringed.cur.ctx ring0.canTake = true ∧ firstServed ring0.waitResv ringed.cur.ctx ring0.canResv = true ∧
    ringed.released = true ∧ 1 ≤ ring0.resv - ring0.pub ∧ ring0.pubEarly = [] ∧ 1 ≤ ring0.coreTaken.length := by decide +kernel

/-- Banks 1 and 2 make a phase pair whose barrier lies in bank 0. -/
def pair0 (due : Option Nat) : Pair := { front := 1, shadow := 2, bar := 0x100, swapped := false, due := due, late := [] }
def paired0 (due : Option Nat) : State := onMast mem0 fun m => { m with pairs := [pair0 due] }

theorem test_meets_banks :
    (let free (s : State) := (List.range 16).find? fun k => s.grant.banks.contains k && !s.mast.holds s.cur.launch k
     mem0.writesDone = true ∧ free mem0 = none ∧ free (onMast mem0 fun m => { m with banks := [(0, { Bank.init with holder := some 1 })] }) = some 1) ∧
    (let s := mem0.setReg (.w 3) (handleOf 1)
     okIs (s.handle (s.rc (.reg (.w 3)))) 1 = true ∧ s.mast.ringOver s.cur.launch 1 = false ∧ s.mast.paired 1 = false ∧
       s.mast.armedIn 1 = false ∧ s.bankQuiet 1 = true ∧ bits (s.src (.lit 3)) 63 8 = 0 ∧ bits (s.src (.lit 3)) 3 0 < 0xC ∧
       s.mast.bankBusy (s.mast.fmtBank 1) = false ∧ s.grant.ctabs.contains 3 = true) ∧
    (let s := ((mem0.setReg (.w 3) (handleOf 1)).setReg (.w 4) (handleOf 2)).setReg (.w 5) 0x9000000000000100
     okIs (s.handle (s.rc (.reg (.w 4)))) 2 = true ∧ s.mast.ringOver s.cur.launch 2 = false ∧ s.mast.paired 2 = false ∧
       (s.reg (.w 5)).toNat % 32 = 0 ∧ space (s.reg (.w 5)) = 0x9 ∧ zeroFieldsOk (s.reg (.w 5)) = true ∧
       s.mast.holds s.cur.launch (bits (s.reg (.w 5)) 19 16) = true ∧ bits (s.reg (.w 5)) 19 16 = 0 ∧
       s.mast.isShadow 0 = false ∧ s.mast.bankBusy 2 = false) ∧
    (let s := (paired0 none).setReg (.w 3) (handleOf 1)
     okIs (s.handle (s.rc (.reg (.w 3)))) 1 = true ∧ s.mast.pairOf 1 = some (pair0 none) ∧ s.bankQuiet 1 = true ∧
       s.bankQuiet 2 = true ∧ (pair0 none).due = none) := by decide +kernel

/-- The double at 0x100 of bank 0 is the first of an armed barrier object. -/
def armed0 : State := onMast mem0 fun m => { m with trackers := [(1, 0x100)] }

/-- An arrival at a barrier of mast 0 from mast 1. -/
def arrivalPacket : Packet := { joinPacket with kind := .arrival 0xB000000000000100 0, src := 8 }

/-- The same object, which counts to n and has one arrival pending. -/
def counting (n : Nat) : State :=
  { armed0.setReg (.w 3) 0x9000000000000100 with
    mem := Memory.write [] (bankKey 0 0x100) (toBytes 8 n ++ toBytes 8 (2 ^ 63 + 1) ++ toBytes 8 0 ++ toBytes 8 0) }

theorem test_meets_barr :
    (let s := mem0.setReg (.w 3) 0x9000000000000100
     okIs (s.objCheck (s.rc (.reg (.w 3))) [0x9, 0xB]) 0x100 = true ∧ space (s.rc (.reg (.w 3))) = 0x9 ∧ s.drained = true ∧
       s.packetsDone s.cur.ctx s.ctx.order = true ∧ s.mast.armed 0x100 = false ∧ Memory.wf s.mem = true) ∧
    (∀ n ∈ [2, 3], let s := counting n
     okIs (s.objCheck (s.rc (.reg (.w 3))) [0x9, 0xB]) 0x100 = true ∧ s.mast.armed 0x100 = true ∧ s.mast.pairsAt 0x100 = [] ∧
       (decide ((bits (s.objDbl 0 0x100 1) 31 0 + 1) % 2 ^ 32 = bits (s.objDbl 0 0x100 0) 31 0)) = decide (n = 2) ∧
       Memory.wf s.mem = true ∧ (∀ t ∈ s.tasks, bit t.2.binj 63 = false)) ∧
    (let s := onTask (mem0.setReg (.w 3) 0xB000000100000100) fun t => { t with sq := ⟨256, 256, 64⟩ }
     okAny (s.objCheck (s.rc (.reg (.w 3))) [0x9, 0xB]) = true ∧ space (s.rc (.reg (.w 3))) = 0xB ∧ s.mayTravel = true ∧
       hasRoom s 0 32) := by unfold hasRoom; decide +kernel

theorem test_meets_barriers :
    (let s := mem0.setReg (.w 3) 0x9000000000000100
     okIs (s.objCheck (s.rc (.reg (.w 3))) [0x9]) 0x100 = true ∧ (s.src (.lit 2)).toNat ≠ 0 ∧ (s.src (.lit 2)).toNat < 2 ^ 32 ∧
       s.mast.armed 0x100 = false ∧ s.released = true ∧
       (s.mast.trackers.filter fun t => decide (t.1 = s.cur.launch)).length < s.grant.bars ∧
       (∀ q ∈ s.armStores 0x100, s.buffered q = false) ∧ s.sbFree true 0x100 32 = true ∧
       ∀ k, k ≤ 3 → (s.src (.lit 3)).toNat ≤ 3 ∧ s.badDouble (bankKey s.mastNo (0x100 + 8 * k)) 8 = none) ∧
    (let s := onMast mem0 fun m => { m with grants := [(1, { mem0.grant with bars := 0 })] }
     s.grant.bars ≤ (s.mast.trackers.filter fun t => decide (t.1 = s.cur.launch)).length) ∧
    (let s := counting 2
     okIs (s.objCheck (s.rc (.reg (.w 3))) [0x9]) 0x100 = true ∧ s.mast.armed 0x100 = true ∧ s.mast.pairsAt 0x100 = [] ∧
       s.released = true ∧ s.badDouble (bankKey s.mastNo 0x100) 8 = none ∧
       bits (s.objDbl s.mastNo 0x100 0) 32 32 ≠ bits (s.src (.lit 1)) 0 0 ∧
       bits (s.objDbl s.mastNo 0x100 0) 63 48 ≠ bits (s.src (.lit 1)) 15 0) := by
  decide +kernel

theorem test_meets_arrivals_and_swaps :
    (let s := { roomy mem0 with net := [arrivalPacket], place := ⟨5, 0⟩ }
     s.packet s.place.a = some arrivalPacket ∧ s.mayApply arrivalPacket = true ∧ (s.mastAt 0).holds 1 0 = true ∧
       (s.mastAt 0).isShadow 0 = false) ∧ (m0.mastAt 0).holds 1 0 = false ∧
    (let s := { paired0 (some 0) with place := ⟨0, 1⟩ }
     (s.mastAt s.place.a).pairOf s.place.b = some (pair0 (some 0)) ∧ (pair0 (some 0)).due.isSome = true ∧
       ∀ q ∈ (s.mastAt s.place.a).pairsAt ((s.mastAt s.place.a).physOff (pair0 (some 0)).bar),
         q.late = [] ∧ (s.mastAt s.place.a).swapBlocked q (q.due.getD 0) = false) := by
  decide +kernel

/-- A context that waits for an envelope operation with this outcome. -/
def eaWait (o : Option EaOut) : State := onCtx mem0 fun c => { c with await := .ea o }

/-- An operation at the head of mast 0's queue. -/
def eaOp (r : Option EaResult) : EaOp :=
  { ctx := 1, launch := 1, kind := .clr, ed := 0, ex := 0, ey := 0, a := 0, n := 0, hi := 0, etol := 0, entry := none, tag := 1,
    result := r }

theorem test_meets_envelopes :
    ((eaWait (some (.done 3))).ctx.await = .ea (some (.done 3)) ∧ (eaWait none).ctx.await = .ea none ∧
      (eaWait (some (.trap 0x10 0 0))).ctx.await = .ea (some (.trap 0x10 0 0)) ∧ canTrap (eaWait (some (.trap 0x10 0 0)))) ∧
    (let s := onMast mem0 fun m => { m with handles := [(16, { Handle.init with held := true, cap := 4 })] }
     s.ctx.await = .none ∧ s.settled = true ∧ s.mast.eaQueue.length < 32 ∧ 0 < s.grant.env.1 ∧
       (s.mast.envH s.cur.launch 0).held = true) ∧
    ((onMast mem0 fun m => { m with eaQueue := [eaOp none] }).mastAt 0).eaQueue = [eaOp none] ∧
    ((onMast mem0 fun m => { m with eaQueue := [eaOp (some (.commit Handle.init))] }).mastAt 0).eaQueue =
      [eaOp (some (.commit Handle.init))] := by unfold canTrap; decide +kernel

/-- A piece of length -0 keeps its zero: the second intercept is +0 (R273). -/
theorem test_einf_keeps_the_sign_of_zero :
    (envInf 0 ⟨false, 0, 0x8000000000000000, [⟨0xC000000000000000, 0x8000000000000000, 0⟩]⟩
      ⟨false, 0x8000000000000000, 0x3FF0000000000000, [⟨0x3FF0000000000000, 0x8000000000000000, 0x8000000000000000⟩]⟩).map
        (·.ps.map (·.b)) = some [0, 0] := by decide +kernel

/-! ### Witnesses: messages and remote atomics -/

/-- The whole device is partition 0, tasks of launch 1 run on cores 0 and 1, and core 0's task has room to send. -/
def far0 : State :=
  let s := onTask mem0 fun t => { t with sq := ⟨512, 512, 512⟩ }
  { s with
    parts := [(0, { Machine.Partition.init with live := true, w := 32, h := 32 })]
    tasks := s.tasks.set (taskKey 1 1)
      { Task.init with live := true, launch := 1, core := 1, locb := 0, locl := 4096, ib := ⟨512, 512, 0⟩, ibOff := ⟨0x4000, 0x5000, 0⟩ } }

theorem test_meets_sends :
    (let s := far0.setReg (.w 3) 1
     s.engine = .mast ∧ s.mayTravel = true ∧ (s.src (.lit 16)).toNat = 16 ∧ (s.rc (.reg (.w 1))).toNat % 8 = 0 ∧
       s.messagePlace (s.rc (.reg (.w 1))) 16 = true ∧ okAny (s.messageBytes (s.rc (.reg (.w 1))) 16) = true ∧
       (s.reg (.w 3)).toNat < 2 ^ 13 ∧ s.coreIn s.cur.launch (s.reg (.w 3)).toNat = true ∧ (s.reg (.w 3)).toNat ≤ 15 ∧
       packetBytes 16 ≤ s.task.sqFree 0 ∧ packetBytes 16 ≤ s.task.sqFree 1 ∧ packetBytes 16 ≤ s.task.sqFree 3) ∧
    inlineOk 0xF001000000000000 16 = true := by decide +kernel

theorem test_meets_hret :
    (far0.engine ≠ .hart ∧ ((far0.coreAt far0.ctx.core).strands[far0.ctx.strand]?).isSome = true ∧ far0.core.splices = [] ∧ far0.thimblesLeft = false ∧ far0.drained = true ∧
      far0.ctx.eopValid = false) ∧
    (h0.engine = .hart ∧ h0.drained = true ∧ (h0.mast.hy (hyNo h0.cur.core)).queue = []) := by decide +kernel

/-- Room to send and for replies, a heap page that may be written, and w3 at a double of core 1, of mast 0's banks, or of the heap. -/
def remote0 (ea : Word) : State :=
  let s := onTask far0 fun t => { t with
    ib := ⟨4096, 3072, 1024⟩, extents := ⟨0x40000, 0x50000, 0x40000, true, false, 1⟩ :: t.extents }
  (onLaunch s fun la => { la with ranges := la.ranges ++ [⟨0x40000, 0x10000, 0, true⟩] }).setReg (.w 3) ea

/-- A packet of core 1 to core 0. -/
def arriving (k : PKind) : State := { roomy net0 with net := [{ joinPacket with kind := k }], place := ⟨5, 0⟩ }

theorem test_meets_remote_atomics :
    (let w (a : Option Answer) := (onCtx far0 fun c => { c with await := .reply 5 (.w 1) a }).ctx.await
     w (some (.value 7)) = .reply 5 (.w 1) (some (.value 7)) ∧ w (some (.fault 4 0)) = .reply 5 (.w 1) (some (.fault 4 0))) ∧
    canTrap (onCtx far0 fun c => { c with await := .reply 5 (.w 1) (some (.fault 4 0)) }) ∧
    canTrap m0 := by
  unfold canTrap; decide +kernel

theorem test_meets_remote_atomic_sends :
    ([0xA000000100000100, 0xB000000000000040, 0x40100].all fun (ea : Word) => let s := remote0 ea
     decide (s.rc (.reg (.w 3)) = ea) && decide (s.ctx.await = .none) && s.mayTravel && decide (ea.toNat % 8 = 0) && zeroFieldsOk ea &&
       s.task.replyRoom 32) = true ∧ hasRoom (remote0 0xA000000100000100) 0 32 := by
  unfold hasRoom; decide +kernel

theorem test_meets_remote_atomic_places :
    (let s := remote0 0xA000000100000100
     space (0xA000000100000100 : Word) = 0xA ∧ s.coreIn s.cur.launch 1 = true ∧ space (0xB000000000000040 : Word) = 0xB ∧
       s.mastIn s.cur.launch 0 = true ∧ space (0x40100 : Word) = 0x0 ∧ okIs (s.extentCheck 0x40100 8 .atomic) 0x40100 = true) := by
  decide +kernel

theorem test_meets_remote_atomic_target :
    ([0xA000000000000100, 0xA000000000010000].all fun ea =>
      let k := PKind.atomic .add ea 1 0 false false 0
      let s := arriving k
      let p := { joinPacket with kind := k }
      decide (s.packet s.place.a = some p) && s.mayApply p && !s.atomWaits ea && !s.atomArmed ea &&
        decide ((s.drop p).atomTarget p ea 0 = if ea = 0xA000000000000100 then some (localKey 0 0x100) else none) &&
        (s.badDouble (localKey 0 0x100) 8).isNone) = true := by decide +kernel

theorem test_meets_trigger_target :
    (let k := PKind.atomic .add 0xA000000000000100 0xFFFFFFFFFFFFFFFF 0 true true 0
     let s := arriving k
     let old := (7 : Word)
     old ≠ 0 ∧ AtomOp.add.apply 1 0xFFFFFFFFFFFFFFFF 0 = 0 ∧ (s.taskAt (taskKey 1 0)).bind.has 0x100 = false ∧
       (s.taskAt (taskKey 1 0)).pendTrig.length < 16 ∧
       (onTask s fun t => { t with bind := t.bind.set 0x100 (16, 9) }).task.bind.has 0x100 = true ∧
       s.task.deque.length + s.task.reserved < 256) := by decide +kernel

theorem test_meets_packets :
    (let k := PKind.rstore 0xB000000000000100 [7]
     let p := { joinPacket with kind := k }
     let s := { roomy mem0 with net := [p], place := ⟨5, 0⟩ }
     let m := s.mastAt 0
     s.packet s.place.a = some p ∧ s.mayApply p = true ∧ conflict m.sb true 8 9 = false ∧ m.holds 1 0 = true ∧
       m.isShadow 0 = false ∧ m.touchesArmed 0x100 8 = false ∧ m.storeBank 0 * 65536 + 0x100 = 0x100) ∧
    (let p := { joinPacket with kind := .answer 1 (.value 7) }
     let s := onCtx (arriving (.answer 1 (.value 7))) fun c => { c with await := .reply 9 (.w 1) none }
     s.packet s.place.a = some p ∧ (s.ctxAt 1).await = .reply 9 (.w 1) none ∧ s.mayApply p = true) ∧
    (∀ n ∈ [0, 2], let p := { joinPacket with left := false, net := n }
     let s := ({ roomy net0 with net := [p], place := ⟨5, 0⟩ } : State)
     s.packet s.place.a = some p ∧ p.left = false ∧ s.hasCredits p = true ∧ s.pathReady p = true ∧ s.inTurn p = true) ∧
    (arriving .errReply).mayApply { joinPacket with kind := .errReply } = true := by decide +kernel

/-- An inline message of 16 bytes that has arrived at core 1. -/
def msg1 : Msg := ⟨0, 0, 16, true, 0x4000, false, 0⟩

theorem test_meets_messages :
    (let p := { joinPacket with dst := 1, src := 0, kind := .msg [1, 2] false }
     let s := { far0 with net := [p], place := ⟨5, 0⟩ }
     let gone := { far0 with tasks := far0.tasks.erase (taskKey 1 1), net := [p], place := ⟨5, 0⟩ }
     s.packet s.place.a = some p ∧ s.mayApply p = true ∧ (s.taskAt (taskKey 1 1)).live = true ∧
       (s.launchAt 1).killed = false ∧ (s.taskAt (taskKey 1 1)).runFor 0 2 = some 0x4000 ∧
       gone.packet gone.place.a = some p ∧ gone.mayApply p = true ∧ (gone.taskAt (taskKey 1 1)).live = false) ∧
    (let t := far0.taskAt (taskKey 1 1)
     let s := { far0 with tasks := far0.tasks.set (taskKey 1 1) { t with inbox := [msg1] }, place := ⟨1, 0⟩ }
     s.mayTakeNew s.place.a s.place.b = true ∧ msg1.inl = true ∧
       s.nextMessage 1 = some (taskKey 1 1, 0, msg1) ∧ s.nextCtx ≠ 0) := by decide +kernel

theorem test_meets_triggers :
    (let s := mem0.setReg (.w 8) 0x10040
     okIs (s.trigCheck (s.rc (.reg (.w 1)))) () = true ∧ (s.rc (.reg (.w 8))).toNat % 4 = 0 ∧
       s.task.handlerIndex (s.rc (.reg (.w 8))) = some 16 ∧ s.task.bind.length < 32 ∧ s.task.pendTrig = []) ∧
    (let v := (mem0.setReg (.w 3) 0x8001000000000001).reg (.w 3)
     mem0.engine = .mast ∧ bit v 63 = true ∧ mem0.mast.holds mem0.cur.launch (bits v 51 48) = true ∧ popcN 8 (bits v 7 0) = 1) := by
  decide +kernel

/-! ### Witnesses: control and status registers, system calls, shared payloads -/

theorem test_meets_csr :
    (mem0.engine = .mast ∧ csrClosed 0x014 = false ∧ hartCsr 0x014 = false ∧ csrReadRow 0x014 = false ∧ csrAssigned 0x014 = true ∧
      csrWriteRow 0x014 = false ∧ csrOn .mast 0x014 = true ∧ csrWriteTraps 0x014 = false) ∧
    (t0.engine = .tackle ∧ csrClosed 0x087 = false ∧ csrReadRow 0x087 = false ∧ csrReads .tackle 0x087 = true) ∧
    (h0.engine = .hart ∧ csrClosed 0x110 = false ∧ csrReadRow 0x110 = false ∧ csrReads .hart 0x110 = true ∧ csrWriteRow 0x110 = false ∧
      csrOn .hart 0x110 = true ∧ csrWriteTraps 0x110 = false) ∧
    (canTrap mem0 ∧ csrClosed 0x021 = false ∧ hartCsr 0x021 = false ∧ csrOn .mast 0x021 = true ∧ csrWriteTraps 0x021 = true) ∧
    csrClosed 0x140 = true ∧ hartCsr 0x113 = true ∧
    (csrClosed 0x001 = false ∧ hartCsr 0x001 = false ∧ csrOn .mast 0x001 = false ∧ csrReads .mast 0x001 = false) := by
  unfold canTrap; decide +kernel

theorem test_meets_system_calls :
    far0.engine ≠ .tackle ∧ far0.mayTravel = true ∧ hasRoom far0 3 32 ∧ far0.launch.failure = none := by
  unfold hasRoom; decide +kernel

theorem test_meets_shared_payloads :
    (∀ n ∈ [1, 2, 65535], let s := payload n
     s.released = true ∧ s.ctx.await = .none ∧ (s.nodeOf (s.reg (.w 4))).desc = 0x10400 ∧ (s.nodeOf (s.reg (.w 5))).desc = 0 ∧
       okIs (s.chk (s.reg (.w 4)) false .netW) () = true ∧ okIs (s.chk (s.reg (.w 4)) false .net) () = true ∧
       okIs (s.chk (s.reg (.w 5)) false .netW) () = true ∧
       okIs (s.payload 0x10400) (0x10400, Word.of (n * 2 ^ 48), s) = true ∧ countOf (Word.of (n * 2 ^ 48)) = n ∧
       okIs (s.spareCheck (s.reg (.w 2)) (payloadSize (Word.of (n * 2 ^ 48)))) s = true ∧
       s.copying 0x10400 (s.reg (.w 2)) = none ∧ s.settled = true ∧ s.mast.journalFor 2 = some (0, 0) ∧ s.myEntry = some (0, false)) ∧
    (∀ n ∈ [1, 2], let s := onCtx (payload n) fun c => { c with await := .copied 0x10800 none }
     let c := s.setCount 0x10400 (n - 1)
     s.ctx.await = .copied 0x10800 none ∧ okIs (s.payload 0x10400) (0x10400, Word.of (n * 2 ^ 48), s) = true ∧
       okIs (s.payloadKey (s.globalAddr 0x10800) .atomic) 0x10800 = true ∧ s.keyBusy true 0x10800 8 = false ∧
       okIs (c.payloadKey (s.globalAddr 0x10800) .atomic) 0x10800 = true ∧ c.keyBusy true 0x10800 8 = false) ∧
    (onCtx (payload 1) fun c => { c with await := .copy 3 0x10800 }).ctx.await = .copy 3 0x10800 := by decide +kernel

/-- The code that an inline message brought is code of its task, also for another context (R292, R40). -/
theorem test_inline_code_belongs_to_the_task :
    (let s := { m0 with ctxs := [(1, m0.ctx), (7, { m0.ctx with strand := 1, msgOff := 0x4000, msgCode := 2 })] }
     s.inlineCode 0x8000000000004008 = true ∧ m0.inlineCode 0x8000000000004008 = false) := by decide +kernel

/-! ### Witnesses: halyards -/

/-- A move of eight bytes inside bank 0, and a transfer of kernel `k` that may read and write all of bank 0. -/
def move8 : Move := ⟨0x9000000000000040, 0x9000000000000200, 0, 8, 0, 0⟩
def transfer (k : Nat) : Transfer :=
  { slot := 0, id := 0, launch := 1, task := taskKey 1 0, ctx := 1, hsrc := move8.src, hdst := move8.dst, hlen := 2 ^ 32 + 8, hstr := 0,
    harg := 0, kernel := k, mbox := 0, bar := 0, hand := 0, irq := false, htype := 4, budget := 0, arg2 := 0,
    rlo := 0x9000000000000000, rlen := 65536, wlo := 0x9000000000000000, wlen := 65536, entry := 0, copy := none, told := false }

/-- Halyard 0 of mast 0 with a transfer in its journal, as its hart sees it, and as an event at it. -/
def hartWith (y : Halyard) : State := onMast h0 fun m => { m with grants := mem0.mast.grants, banks := mem0.mast.banks, hy0 := y }
def hyWith (y : Halyard) : State := onMast mem0 fun m => { m with hy0 := y }
def journaled (k : Nat) : Halyard := { Halyard.init with journal := [transfer k] }

theorem test_meets_hart :
    (let s := (hartWith { journaled 5 with mvsrc := move8.src, mvdst := move8.dst }).setReg (.w 9) 8
     let v := s.reg (.w 9)
     s.engine = .hart ∧ (⟨s.hart.mvsrc, s.hart.mvdst, bits v 35 32, bits v 31 0, s.ctx.order, s.ctx.relOrd⟩ : Move) = move8 ∧ bits v 63 36 = 0 ∧
       moveCountOk 0 8 = true ∧ s.hart.queue = [] ∧ s.hart.journal = [transfer 5] ∧ okIs (s.moveCheck (transfer 5) move8) s = true) ∧
    ¬ moveCountOk 0 0 = true ∧ (hartWith { journaled 5 with queue := [move8] }).hart.queue ≠ [] ∧
    (hartWith { journaled 5 with ixLines := [[3]] }).hart.ixLines = [[3]] ∧
    (hartWith { journaled 5 with ixCur := [3] }).hart.ixCur = [3] ∧ (hartWith (journaled 5)).hart.ixCur = [] := by decide +kernel

theorem test_meets_halyard_start :
    ([0, 5].all fun k =>
      let s := hyWith (journaled k)
      decide ((s.hyAt s.place.a s.place.b).journal = [transfer k]) && decide ((s.hyAt s.place.a s.place.b).stage = .idle) &&
        s.runs (transfer k).launch && !s.needsBudget s.place.a (transfer k) && !(transfer k).told && decide ((transfer k).copy = none) &&
        decide (s.nextCtx ≠ 0)) = true ∧
    (let t := { transfer 1 with wlen := 4 }
     let s := hyWith { Halyard.init with journal := [t] }
     (s.hyAt s.place.a s.place.b).stage = .idle ∧ s.runs t.launch = true ∧ t.told = false ∧ s.needsBudget s.place.a t = true ∧
       t.budgetOf < 8) := by decide +kernel

theorem test_meets_move :
    (let y := { journaled 0 with stage := .running, plan := [move8] }
     let s := hyWith y
     y.nextMove = some move8 ∧ s.runs 1 = true ∧ s.moveInOrder y move8 = true ∧ (s.mastAt 0).opBlocked 0 [] = false ∧
       okAny ((s.asHart 0 0 (transfer 0)).move 0 0 (transfer 0) move8) = true ∧
       (match (s.asHart 0 0 (transfer 0)).move 0 0 (transfer 0)
           { move8 with src := 0x9000000000010040 } with | .error (.trap _ _ _) => true | _ => false) = true) ∧
    (let s := hyWith { journaled 0 with stage := .ended }
     (s.hyAt 0 0).stage = .ended ∧ (s.hyAt 0 0).queue = [] ∧ (s.hyAt 0 0).hart = 0 ∧ s.net = [] ∧ s.runs (transfer 0).launch = true) ∧
    (let y := { journaled 0 with stage := .retired }
     (hyWith y).hyAt 0 0 = y ∧ okAny (((hyWith y).asHart 0 0 (transfer 0)).writeMbox (transfer 0) y) = true ∧
       (transfer 0).bar = 0 ∧ (transfer 0).copy = none) ∧
    ((hyWith { journaled 0 with stage := .reported }).hyAt 0 0).stage = .reported ∧ (transfer 0).irq = false := by decide +kernel

/-- A parameter block at 0x1000 of bank 0 for a transfer inside bank 0, named by hpb. -/
def launching (y : Halyard) : State :=
  { onCtx (hyWith y) fun c => { c with hpb := 0x9000000000001000, hlen := 2 ^ 32 + 8, hctl := 0 } with
    mem := Memory.write [] (bankKey 0 0x1000) (wordsToBytes
      [0, 0, 0, 0x9000000000000000, 2 ^ 32 * 64 + 64, 0x9000000000000200, 2 ^ 32 * 4, 0]) }

theorem test_meets_launch_read :
    (let s := launching Halyard.init
     let c := s.ctx
     s.engine = .mast ∧ s.drained = true ∧ s.packetsDone s.cur.ctx c.order = true ∧ s.kernelOk c.hctl = true ∧
       okIs (s.memCheck c.hpb 64 .load [0x0, 0x9]) (bankKey 0 0x1000) = true ∧
       (match s.readChecked c.hpb (bankKey 0 0x1000) 64 with
        | .ok (bs, t) =>
          let p := paramBlock bs
          decide (t = s) && s.blockOk p && !s.spanArmed (p.getD 5 0) 64 && decide (bits (p.getD 4 0) 31 0 = 64) && decide (bits (p.getD 4 0) 63 32 = 64) &&
            okIs (s.spanCheck (p.getD 3 0) 64 .load [0x0, 0x9]) s && okIs (s.spanCheck (p.getD 5 0) 64 .store [0x0, 0x9, 0xB]) s
        | _ => false) = true ∧ lenOk c.hlen = true ∧ s.mast.journalFor (bits c.hctl 1 0) = some (0, 0) ∧
       s.myEntry = some (0, false)) := by decide +kernel

theorem test_meets_full_journal :
    (launching { Halyard.init with journal := (List.range 64).map fun j => { transfer 0 with slot := j } }).mast.journalFor 0 = none := by
  decide +kernel

/-! ### Witnesses: streams, graphs and shrouds -/

/-- A stream of single bytes at the start of bank 0 of tackle 0's mast, of eight elements. -/
def stream (dir q : Nat) : Stream :=
  { id := 5, tackle := 0, handle := 0, held := true, core := 8192, launch := 1, ctx := 1, sid := 6, block := 0x9000000000001000,
    key := bankKey 1024 0x1000, dbl := [0x0006400000000000, 0x0001000100010008, 1, 0, 0x9000000000000000, 0, 0x001F080000000000, 0],
    dir := dir, q := q, win := 8, etype := 4, total := 8, moved := 0, opener := t0.pc, sends := [], tx := [], stage := [], writers := [1], acked := 0, credit := 1
    opened := true, code := 0, peerEnd := false, rx := [], rxPart := [] }

/-- A streamer context whose tackle has this stream, over a link that is up with these opens of the peer. -/
def streaming (x : Stream) (peers : List Flit) : State :=
  { t0 with streams := [x], shrouds := [(0, { Shroud.init with lanes := 4, up := true, peers := peers })] }

theorem test_meets_sopen :
    (let s := { t0 with
        shrouds := [(0, { Shroud.init with lanes := 4, up := true })], mem := Memory.write [] (bankKey 1024 0x1000) (wordsToBytes (stream 0 31).dbl) }
     let s := s.setReg (.w 3) 0x9000000000001000
     s.opening s.cur.ctx = none ∧
       (match s.sopenStart (s.rc (.reg (.w 3))) with | .ok t => decide (t.shrouds.all fun x => x.2.peers.isEmpty) | _ => false) = true) ∧
    (let x := { stream 0 31 with opened := false }
     let s := streaming x [.open_ 0 6 1 (blockCrc x.dbl)]
     s.opening s.cur.ctx = some x ∧ (s.shroudAt 0).peerOpen x.tackle x.sid x.dir = some (blockCrc x.dbl) ∧
       (s.shroudAt 0).peerShut x.tackle x.sid x.dir = false ∧ x.held = true ∧ s.closeReady s.cur.ctx = true ∧
       (onCtx s fun c => { c with storeBuf := [⟨0, 0, [0], 0, 0⟩] }).closeReady s.cur.ctx = false ∧
       ((streaming x [.open_ 0 6 1 0]).shroudAt 0).peerOpen x.tackle x.sid x.dir ≠ some (blockCrc x.dbl) ∧
       ((streaming x [.open_ 0 6 1 (blockCrc x.dbl), .close 0 6 1 5]).shroudAt 0).peerShut x.tackle x.sid x.dir = true) := by
  decide +kernel

theorem test_meets_sput_sget :
    (let s := streaming (stream 1 31) []
     okIs (s.streamFor (s.reg (.w 2)) 1 true) (stream 1 31) = true ∧ (stream 1 31).size = 1 ∧
       (match s.readNest (stream 1 31).dbl (stream 1 31).size 1 0 with
        | .ok (bs, t) => decide (t.streams = s.streams) && decide (bs.length = 1) && (t.shroudAt 0).flows
        | _ => false) = true) ∧
    (let x := { stream 0 31 with rx := [[7]] }
     let s := streaming x []
     okIs (s.streamFor (s.reg (.w 2)) 1 false) x = true ∧ x.size = 1 ∧ okIs (s.checkNest x.dbl 1 1 0) () = true ∧
       (match s.writeNest x.dbl 1 1 0 [7] with | .ok t => decide (t.streams = s.streams) | _ => false) = true) := by decide +kernel

theorem test_meets_sclose :
    ([{ stream 0 31 with code := 1 }, { stream 0 31 with moved := 8 }, stream 0 31].all fun x =>
      decide ((streaming x []).streamOf (tackleOf (streaming x []).cur.core) 0 = some x)) = true ∧
    (streaming (stream 0 31) []).closeReady 1 = true ∧ (streaming (stream 0 31) []).streamDrained (stream 0 31) = true := by
  decide +kernel

/-- A graph of one operation that adds queues 0 and 1 into queue 2, with tokens of these bytes. -/
def graphing (a b : List Byte) : State :=
  { t0 with
    tackles := [(0, { Tackle.init with
      holder := some 1, slots := [(0, 4), (1, 4), (2, 4)], queues := [(0, [a]), (1, [b])], graph := [⟨3, .sum, 2, [0, 1], .n8, .n8⟩] })] }

theorem test_meets_graph :
    (let s := graphing [1] [2]
     let t := s.tackleAt 0
     let o : GOp := ⟨3, .sum, 2, [0, 1], .n8, .n8⟩
     t.graph[0]? = some o ∧ t.opReady o = true ∧ t.stop = false ∧ t.holder = some 1 ∧ (s.launchAt 1).status = .resident ∧
       (s.launchAt 1).killed = false ∧ (graphResult o [[1], [2]]).isSome = true ∧ graphResult o [[1], [2, 3]] = none) := by
  decide +kernel

theorem test_meets_stream_token :
    (let x := { stream 0 2 with rx := [[7]] }
     let s := { streaming x [] with tackles := (graphing [1] [2]).tackles }
     let t := s.tackleAt 0
     (s.streams.find? fun x => decide (x.tackle = s.place.a) && decide (x.handle = s.place.b) && x.opened && decide (x.code = 0)) =
       some x ∧ x.bound = true ∧ (s.shroudAt 0).flows = true ∧ t.stop = false ∧ x.moved + 1 / x.size ≤ x.total ∧
       t.room 2 = true) ∧
    (let x := stream 1 0
     let s := { streaming x [] with tackles := (graphing [1] [2]).tackles }
     x.bound = true ∧ (s.tackleAt 0).queues.get 0 [] = [[1]] ∧ 1 % x.size = 0) := by decide +kernel

theorem test_meets_flits :
    (let x : Shroud := { Shroud.init with sent := [.ack 0 6 1, .data 0 6 [7] true] }
     x.acked + 1 ≤ x.sent.length ∧ x.replay.length = 2 ∧ x.creditsUsed true = 1 ∧ x.creditsUsed false = 1) ∧
    ((streaming (stream 0 31) []).shroudAt 0).flows = true ∧
    ((streaming (stream 0 31) []).streamBySid (2 * 0 + 0) 6 true = some (stream 0 31) ∧ ([7] : List Byte).length % (stream 0 31).size = 0) ∧
    (streaming (stream 1 31) []).streamBySid (2 * 0 + 0) 6 false = some (stream 1 31) ∧
    (let link (b : Bool) := { State.reset with
        plat := { Platform.init with ready := true }, shrouds := [(0, { Shroud.init with lanes := 4, up := true, training := b })] }
     (link true).plat.ready = true ∧ ((link true).shroudAt 0).training = true ∧ ((link false).shroudAt 0).training = false ∧
       (link true).streams = []) := by decide +kernel

theorem test_meets_flit_parts :
    (let x := { stream 0 31 with rxPart := List.replicate 32 0 }
     (streaming x []).streamBySid 0 6 true = some x ∧ x.code = 0 ∧ x.rx.length < x.win ∧ (x.rxPart ++ [7]).length ≤ 256 ∧
       (x.rxPart ++ [7]).length % x.size = 0 ∧ (x.rxPart ++ List.replicate 32 0).length ≤ 256) ∧
    (streaming (stream 0 31) []).streamBySid 0 6 (decide ((1 : Nat) ≠ 0)) = some (stream 0 31) ∧
    (streaming (stream 1 31) []).streamBySid 0 6 (decide ((0 : Nat) ≠ 0)) = some (stream 1 31) ∧
    (let x := { stream 1 31 with moved := 3, acked := 1 }
     (streaming x []).streamBySid 0 6 false = some x ∧ x.acked + 2 ≤ x.moved) ∧
    (let s := { streaming (stream 0 31) [] with
       plat := { Platform.init with ready := true }, shrouds := [(0, { Shroud.init with lanes := 4, up := true, training := true })] }
     s.plat.ready = true ∧ (s.shroudAt 0).training = true ∧ s.streamDrained (stream 0 31) = true) ∧
    (let x := { stream 0 31 with opened := false }
     let s := streaming x [.open_ 0 6 1 (blockCrc x.dbl)]
     x ∈ s.streams ∧ x.tackle = 0 ∧ s.streamBySid 0 6 (decide ((1 : Nat) ≠ 0)) = none ∧
       (s.shroudAt 0).peers.countP (flitMeets false 0 6 x.dir) < (s.shroudAt 0).peers.countP (flitMeets true 0 6 x.dir)) := by
  decide +kernel

theorem test_meets_budget :
    (hyWith (journaled 1)).needsBudget 0 (transfer 1) = true ∧ 8 ≤ (transfer 1).budgetOf := by decide +kernel

/-- A token of 33 bytes leaves in a flit of 32 bytes and a last one (R377: a flit has 32 bytes). -/
theorem test_token_flits : (tokenFlits 0 6 8 (List.replicate 33 1)).map (fun f => match f with | .data _ _ bs l => (bs.length, l) | _ => (0, false)) =
    [(32, false), (1, true)] := by decide +kernel

/-- A store that a hart makes after a move it has queued stays in its buffer until that move is performed (R318, R325). -/
theorem test_hart_store_follows_its_move :
    (let s (y : Halyard) : State := { onCtx (hartWith y) fun c => { c with
       order := 2, storeBuf := [⟨0x9000000000000200, bankKey 0 0x200, [7], 1, 0⟩] } with place := ⟨(hartWith y).cur.ctx, 0⟩ }
     let left (y : Halyard) : Bool := match execStoreDrain (s y) with | .next u => u.ctx.storeBuf.isEmpty | _ => false
     left { journaled 5 with queue := [move8] } = false ∧ left (journaled 5) = true) := by decide +kernel

/-- CVT between equal types makes the NaN of its token canonical (R53, R382). -/
theorem test_graph_cvt_nan :
    graphResult ⟨3, .cvt, 2, [0], .f32, .f32⟩ [toBytes 4 0x7F800001] = some (toBytes 4 0x7FC00000) := by decide +kernel

/-- A stream whose peer closed it for a graph fault before its SOPEN ended opens, and is closed with code 4 (R388). -/
theorem test_sopen_meets_a_close :
    (let x := { stream 0 31 with opened := false }
     match execSopen (.w 9) (.reg (.w 3)) (streaming x [.open_ 0 6 1 (blockCrc x.dbl), .close 0 6 1 6]) with
     | .next u => decide (u.streams.map (fun y => (y.opened, y.code)) = [(true, 4)]) && decide (u.reg (.w 9) = 0) && (u.shroudAt 0).peers.isEmpty
     | _ => false) = true := by decide +kernel

/-! ### Witnesses: matrix yards -/

/-- A command of core 0 in a stage, with code `c`, doubles 0 and 2 to 5 and the rows of a YMMA. -/
def ycmd (st : YStage) (c : Nat) (d0 d2 d4 d5 : Word) (m : Nat) : YCmd :=
  { launch := 1, slot := 0, dbl := [Word.of (c * 2 ^ 56) + d0, 0, d2, 0x100, d4, d5, 0, 0], entry := none, stage := st, reject := 0,
    kstep := 0, w16 := 0, m := m, batchM := none, taken := [], bfmt := none, status := 0, member := false }

/-- Core 0's yard queue holds this command; yard 0 of the mast runs it where `run`. -/
def yard (run : Bool) (c : YCmd) : State :=
  let s := onCore (onMast mem0 fun m => { m with running := [if run then some 0 else none, none, none, none] }) fun k =>
    { k with yqueue := [c] }
  { s with place := ⟨0, 0⟩ }

theorem test_meets_yards :
    ([0, 2, 3, 4].all fun k =>
      let c := ycmd .running k 0 0x0000004000000000 0 0 0
      let s := yard true c
      decide (s.running 0 k = some c) && decide (ETy.ofCode (s.sideFmt 0 c).2 = some .n8) && !s.gangBlocked 0 [0]) = true ∧
    (let c := ycmd .posted 5 0 0 0 0 0
     (yard false c).yhead 0 = some c ∧ c.cop = 5 ∧ c.stage = .posted) := by decide +kernel

theorem test_meets_yload :
    (let c := ycmd .running 3 0 0x0000004000000000 0 0 0
     (((yard true c).loadRows 0 c .n8).all fun r => !r.2) = true) ∧
    (let c := ycmd .running 4 0 0x0000004000000000 0 0 0
     let x := (yard true c).tileAt 0 c.launch 0 c.tile
     ETy.isEf8 .n8 = false ∧ x.poison = 0 ∧ x.bad = 0) := by decide +kernel

theorem test_meets_ymma :
    (let bf := 8 * 2 ^ 28 + 8 * 2 ^ 24
     let zero := ycmd .running 1 (Word.of bf) 0 0 0 0
     let c := { ycmd .running 1 (Word.of bf) 0 (Word.of (128 * 2 ^ 16)) 0 32 with kstep := 1 }
     (yard true zero).running 0 1 = some zero ∧ (yard true c).running 0 1 = some c ∧
       mmaTypes c.fa c.fb = some (.bf16, .bf16, 32) ∧ c.member = false ∧ zero.m = 0 ∧ c.m ≠ 0 ∧
       (yard true c).gangBlocked 0 [0] = false ∧ c.kstep % (c.depth / 32) ≠ 0) := by decide +kernel

theorem test_meets_gangs :
    (let c := ycmd .waiting 1 0 0 0 (Word.of (3 * 2 ^ 56)) 0
     let g := ycmd .waiting 5 0 0 0 (Word.of (3 * 2 ^ 56)) 0
     let s := yard false c
     let s := s.putCore 1 { s.coreAt 1 with yqueue := [g] }
     gangCores 0 { c with member := true } = [0, 1] ∧ s.yhead 0 = some c ∧ c.cop = 1 ∧ c.gmask ≠ 0 ∧ gangOk 0 c = true ∧ c.reject = 0 ∧
       s.yhead 1 = some g ∧ g.cop = 5 ∧ g.gmask = c.gmask ∧ g.gtag = c.gtag ∧ g.stage = .waiting ∧ sliceBad c g = false) ∧
    (let c := ycmd .finished 0 0 0 0 0 0
     (yard false c).yhead 0 = some c ∧ c.cop ≠ 5) ∧
    (let c := ycmd .ready 2 0 0 0 0 0
     let s := yard false c
     let t := (yardCores 0 0).foldl (fun s k => s.takeRings 2 k) s
     0 < (t.mastAt 0).running.length ∧ (t.mastAt 0).runs 0 = none ∧ t.bestHead 0 0 = some 0 ∧ t.yhead 0 = some c) := by decide +kernel

/-! ### Witnesses: the splice unit and moved nodes -/

/-- A splice of core 0 with the far end z, and a repointing of the same ports. -/
def splice0 (st : SpliceStage) (z : Word) : Splice :=
  { task := taskKey 1 0, ctx := 1, x := mkRef 0 0 0 1, y := mkRef 0 1 0 1, z := z, stage := st, order := 0, also := [], own := mkRef 0 0 0 1 }
def repoint0 (st : SpliceStage) (z : Word) : Repointing :=
  { task := taskKey 1 0, old := mkRef 0 0 0 1, new := mkRef 0 1 0 1, far := z, via := none, stage := st, meeting := 0 }
def splicing (st : SpliceStage) (z : Word) : State :=
  { roomy (onCore net0 fun c => { c with splices := [splice0 st z], repoints := [repoint0 st z] }) with place := ⟨0, 0⟩ }

theorem test_meets_splice_unit :
    (∀ st ∈ [SpliceStage.start, .swapping, .waitOther],
      let z := mkRef 1 0 0 1
      let s := splicing st z
      (s.coreAt 0).splices[0]? = some (splice0 st z) ∧ (s.coreAt 0).repoints[0]? = some (repoint0 st z) ∧
        okIs (s.unitReady (taskKey 1 0) (slotsOn 0 [(splice0 st z).x, (splice0 st z).y, z]) .netW) () = true ∧
        okIs (s.nameReady 1 (mkRef 0 2 0 1)) () = true ∧
        okIs (s.unitReady (taskKey 1 0) (slotsOn 0 [(repoint0 st z).new, z]) .netW) () = true ∧
        okIs (s.swapRoom (taskKey 1 0)) () = true ∧ refCore z ≠ 0 ∧ refers (s.wordAt 1 (splice0 st z).y) z = false ∧
        okIs (s.fwdReady 1 z) () = true ∧ okIs (s.fwdReady 1 (repoint0 st z).old) () = true ∧ (repoint0 st z).via = none) ∧
    (∀ rp ∈ [true, false],
      let z := mkRef 1 0 0 1
      let x := mkRef 0 0 0 1
      let y := mkRef 0 1 0 1
      let w := portWord 1 x
      let p := { joinPacket with net := 1, kind := .swapped z x y rp (some w) }
      let s := { splicing .swapping z with net := [p] }
      s.swapReply 0 1 z x y rp = some (p, some w) ∧ refers w x = true ∧ refState w = 1 ∧
        okAny (((s.takeReply (taskKey 1 0) p).completeSplice 0 0 1 (splice0 .swapping z)).lastSwap (taskKey 1 0) y z) = true) := by
  decide +kernel

theorem test_meets_swap :
    (let k := PKind.swap (mkRef 0 0 0 1) (mkRef 0 1 0 2) (mkRef 0 1 0 3) false
     let p := { joinPacket with kind := k }
     let s := { roomy (dying true) with net := [p], place := ⟨5, 0⟩ }
     s.packet s.place.a = some p ∧ s.mayApply p = true ∧ s.inFlight 1 (mkRef 0 0 0 1) = false ∧
       okIs (s.unitReady (taskKey 1 0) [refKey (mkRef 0 0 0 1)] .netW) () = true ∧
       (match s.nodeAt 1 (mkRef 0 0 0 1) with
        | some n => refers (n.port 1) (mkRef 0 1 0 2) && decide (refState (n.port 1) = 1)
        | none => false) = true) := by decide +kernel

theorem test_meets_collapse :
    (let host (n : Nat) := Word.of (4 * 2 ^ 61 + n)
     let s := onTask net0 fun t => { t with
       nodes := [(0, { Node.init with thim := true, kind := 0xFFF, arity := 1, ports := [host 9, host 10, 0, 0] })] }
     let s := { s with place := ⟨taskKey 1 0, 0⟩ }
     let n := (s.taskAt s.place.a).node s.place.b
     n.isJoin = true ∧ okIs (s.unitReady s.place.a [s.place.b] .netW) () = true ∧ (s.coreAt 0).splices = [] ∧ refState (n.port 0) = 4 ∧
       refState (n.port 1) = 4 ∧ bits (n.port 0) 19 0 ≠ bits (n.port 1) 19 0) := by
  decide +kernel

theorem test_meets_meetings :
    (∀ held ∈ [true, false], ∀ locked ∈ [true, false],
     let k := PKind.fetch 0 (mkRef 0 0 0 0) (mkRef 0 1 0 0) (mkRef 1 3 0 0) held
     let p := { joinPacket with kind := k }
     let s := { roomy (onTask redex0 fun t => { t with nodes := t.nodes.set 0 { t.node 0 with
         ports := [portWord 1 (mkRef 0 1 0 0), if locked then portWord 3 (mkRef 0 1 0 1) else 0, 0, 0] } }) with
       net := [p], place := ⟨5, 0⟩ }
     s.packet s.place.a = some p ∧ s.mayApply p = true ∧ (s.coreAt p.src).meetings = [] ∧
       okIs (s.nodeReadable (taskKey 1 0) (refKey (mkRef 0 0 0 0))) () = true ∧
       (match s.nodeAt 1 (mkRef 0 0 0 0) with
        | some n => n.live && refers (n.port 0) (mkRef 0 1 0 0) && decide (refState (n.port 0) = 1) &&
            (n.ports.any fun w => decide (refState w = 3)) == locked
        | none => false) = true) ∧
    (let m := { met0 with slot := some 2 }
     ([some Node.init, none].all fun (node : Option Node) =>
       let p : Packet := { joinPacket with kind := .fetched 0 node 0x0D }
       let s : State := { roomy (onCore redex0 fun c => { c with meetings := [m] }) with net := [p], place := ⟨5, 0⟩ }
       decide (s.packet s.place.a = some p) && s.mayApply p && okIs (s.unitReady m.task [2] .netW) () && okIs (s.fwdReady 1 m.fetched) () &&
         decide (((s.coreAt p.dst).meetings.find? fun m => decide (m.id = 0)) = some m)) = true ∧
     m.toMove = [] ∧ (Node.init.ports.all fun w => decide (refState w = 0)) = true) := by decide +kernel

/-- A meeting of core 1 whose first node is being fetched, and one whose second node has left its slot. -/
theorem test_meets_later_fetch :
    (let k := PKind.fetch 0 (mkRef 0 0 0 0) (mkRef 0 1 0 0) (mkRef 1 3 0 0) false
     let p := { joinPacket with kind := k }
     let at_ (m : Meeting) : State :=
       { (roomy redex0).putCore 1 { redex0.coreAt 1 with meetings := [m] } with net := [p], place := ⟨5, 0⟩ }
     let s := at_ met0
     let t := at_ { met0 with later := some Node.init }
     (s.packet s.place.a = some p ∧ s.mayApply p = true ∧ met0.later = none ∧ okIs (s.laterReady 1 met0) () = true ∧
       s.laterCheck 1 met0 = none ∧ s.laterLocked 1 met0 = false) ∧
     (t.packet t.place.a = some p ∧ t.mayApply p = true ∧
       ((t.coreAt p.src).meetings.find? fun m => decide (m.id = 0)) = some { met0 with later := some Node.init })) := by decide +kernel

/-! ### Witnesses: dispatch, handoffs and steals -/

/-- Core 1 of `far0` with this deque and steal domain, named by the place with its strand 0. -/
def core1 (rs : List Record) : State :=
  let t := far0.taskAt (taskKey 1 1)
  { far0 with
    tasks := far0.tasks.set (taskKey 1 1) { t with deque := rs, cbase := 0x10000, csize := 0x10000, hhi := 0x1000 }
    place := ⟨1, 0⟩ }

theorem test_meets_dispatch :
    (let r := taskRecord 16 0 0 0 7
     let s := core1 [r]
     let t := s.taskAt (taskKey 1 1)
     s.mayDispatch 1 0 = true ∧ ((s.tasksOf 1).find? fun p => p.2.pop.isSome && (s.freeArea p.1).isSome) = some (taskKey 1 1, t) ∧
       okIs (s.popOn (taskKey 1 1)) (some (r, s.putTask (taskKey 1 1) { t with deque := [] })) = true ∧ bits r.d0 63 61 = 6 ∧
       t.inHbnd (t.cbase + Word.of (4 * bits r.d0 51 32)) = true ∧ s.nextCtx ≠ 0) ∧
    ([PKind.handoff ⟨1, 2, false⟩, .stealReq 0, .stealRep 0 [⟨1, 2, false⟩]].all fun k =>
      let p := { joinPacket with dst := 1, src := 0, kind := k }
      let s : State := { core1 [] with net := [p], place := ⟨5, 0⟩ }
      decide (s.packet s.place.a = some p) && s.mayApply p && decide ((s.taskAt (taskKey 1 1)).deque.length +
          (s.taskAt (taskKey 1 1)).reserved + 1 ≤ 255) && decide ((s.taskAt (taskKey 1 1)).spilled = []) && s.stealRoom 1 32 &&
        s.taskRuns (s.taskAt (taskKey 1 1))) = true ∧
    (let s := core1 []
     s.mayDispatch 1 0 = true ∧ ((s.coreAt 1).strand 0).asking = false ∧ (s.coreAt 1).mayRound ((s.coreAt 1).strand 0) = true ∧
       s.stealRoom 1 32 = true ∧ ((s.tasksOf 1).all fun p => p.2.pop.isNone) = true ∧
       (s.stealList 1)[0]? = some (1, 2)) ∧ ({ core1 [] with tasks := [] } : State).stealList 1 = [] := by decide +kernel

/-! ### Witnesses: contexts, links and extents -/

theorem test_meets_contexts :
    (let s := { onCore (onCtx m0 fun c => { c with waitStart := some 0, status := .waiting, parkthr := 5, wsp := 0, wspl := 4096 }) fun c =>
       { c with cyc := 7 } with place := ⟨1, 0⟩ }
     let t := s.focus 1
     t.ctx.waitStart = some 0 ∧ t.ctx.status = .waiting ∧ t.engine ≠ .hart ∧ parkDue t.ctx.parkthr 0 t.core.cyc = true ∧
       t.parkedOn t.ctx.core < 12 ∧ t.ctx.parkRoom = true ∧ t.ctx.await.parks = true) ∧
    (let s := { onCtx m0 fun c => { c with status := .resumable, core := 1 } with place := ⟨1, 0⟩ }
     let s := s.putCore 1 { s.coreAt 1 with parked := [1] }
     ((s.coreAt 1).strand 0).idle = true ∧ (s.coreAt 1).cfence = false ∧ s.nextResume s.place.a = some 1) ∧
    (let s := { onCtx m0 fun c => { c with pending := [⟨1, 2, 0⟩] } with place := ⟨1, 0⟩ }
     let t := s.focus 1
     t.deliverable = true ∧ t.core.cfence = false ∧ t.runs t.cur.launch = true ∧ t.ctx.pending = [⟨1, 2, 0⟩] ∧
       t.ctx.await = .none) := by decide +kernel

/-- A heap range of one page, mapped by tables at 0x100000 to the frame at 0x200000, for the task of core 0. -/
def mapped : State :=
  let put (a : Nat) (w : Nat) (m : List Host.Cell) := Memory.write m a (toBytes 8 w)
  let s := onTask m0 fun t => { t with extents := [] }
  { s with
    roots := [(0, Word.of (2 ^ 63 + 0x100000))]
    mem := put 0x100000 0x110001 (put 0x110000 0x120001 (put 0x120000 0x130001 (put 0x130000 0x140001 (put 0x140008 0x200062 []))))
    launches := [(1, { s.launch with ranges := [⟨0x10000, 0x10000, 0, true⟩] })]
    place := ⟨taskKey 1 0, 0x10000⟩ }

theorem test_meets_links_and_extents :
    (let s : State := { m0 with links := [(0, { LongLink.init with up := true, training := true })] }
     (s.linkAt 0).up = true ∧ (s.linkAt 0).training = true ∧ (s.linkAt 0).rerouted = false) ∧
    (rangeOf (mapped.launchAt (mapped.ownerLaunch (taskKey 1 0))).ranges 0x10000 1 = some ⟨0x10000, 0x10000, 0, true⟩ ∧
      mapped.launchRuns (mapped.ownerLaunch (taskKey 1 0)) = true ∧ taskKey 1 0 < hyOwner ∧ extentOf (mapped.ownerExtents (taskKey 1 0)) 0x10000 = none ∧
      (match mapped.walk 1 0 0x10000 with | .ok l => decide (l.frame = 0x200000) | .error _ => false) = true) ∧
    (let x : Extent := ⟨0x10000, 0x20000, 0x200000, true, true, 0⟩
     let s := onTask mapped fun t => { t with extents := [x] }
     extentOf (s.ownerExtents (taskKey 1 0)) 0x10000 = some x ∧ x.warm = true) := by decide +kernel

theorem test_meets_fill :
    (match mapped.fillFor 1 ⟨0x10000, 0x10000, 0, true⟩ 0x10000 with | .ok _ => true | .error _ => false) = true ∧
    (match mapped.leavesOf 1 0 0x20000 65537 0x10000 with | .ok ls => decide (ls.length = 1) | .error _ => false) = true := by
  decide +kernel

/-! ### Witnesses: command processors -/

/-- A ready device whose partition 0 is mast 0 alone, with launch 1 of queue 0 in a state and no context. -/
def device (q : Queue) (la : Launch) : State :=
  { State.reset with
    plat := { Platform.init with stage := 6, ready := true }
    parts := [(0, { Machine.Partition.init with live := true, w := 1, h := 1 })]
    queues := [(0, q)], launches := [(1, la)] }

/-- A live queue, and a launch of it. -/
def queue0 : Queue := { Queue.init with live := true, descPa := 0x1000, base := 0x2000, lgsize := 4 }
def launch1 (st : LStatus) : Launch := { Launch.init with status := st }

theorem test_meets_host_commands :
    (device queue0 (launch1 .finished)).plat.ready = true ∧ State.reset.plat.ready = false ∧
    ((device queue0 (launch1 .finished)).page 0).run = none ∧
    (({ State.reset with pages := [(0, { CtlPage.init with run := some (5, []) })] } : State).page 0).run = some (5, []) ∧
    (let s := { device queue0 (launch1 .finished) with parts := [], queues := [] }
     let a0 : Word := 0x100
     let a1 : Word := 0x01010000
     let p := Machine.Partition.mk true (bit a0 9) none (bits a1 4 0) (bits a1 12 8) (bits a1 21 16) (bits a1 29 24) (s.sliceMap 0x3000)
     s.queuesOf 0 = [] ∧ bits a0 7 5 = 0 ∧ bits a0 15 10 = 0 ∧ bits a0 22 21 = 0 ∧ bits a0 63 24 = 0 ∧ bit a0 8 = true ∧
       bit a0 23 = false ∧ bits a1 7 5 = 0 ∧ bits a1 15 13 = 0 ∧ bits a1 23 22 = 0 ∧ bits a1 63 30 = 0 ∧ p.w = 1 ∧ p.h = 1 ∧
       s.parts = []) ∧
    (let s := { device queue0 (launch1 .finished) with queues := [] }
     (s.partAt 0).live = true ∧ s.queuesOf 0 = []) := by decide +kernel

/-- A descriptor at 0x1000 of a queue of 16 records at 0x2000 with tail `n`. -/
def descriptor (n : Nat) : List Host.Cell := Memory.write [] 0x1000 (wordsToBytes [0x2000, Word.of (n * 2 ^ 32), 4, 0, 0, 0, 0, 0])

theorem test_meets_queue_commands :
    (let s := { device Queue.init (launch1 .finished) with mem := descriptor 0 }
     (s.queueAt 0).live = false ∧ (s.readDesc 0x1000).isSome = true ∧ (s.partAt 0).live = true ∧ s.mayName 0 0 = true) ∧
    (let s := { device queue0 (launch1 .finished) with mem := descriptor 1 }
     let q := s.queueAt 0
     q.live = true ∧ s.mayName 0 q.part = true ∧ q.head = q.tail ∧
       (s.launchesWith fun la => la.alive && decide (la.queue = 0)) = [] ∧ (s.readDesc q.descPa).map (·.part) = some 0) ∧
    (let s := { device queue0 (launch1 .resident) with mem := descriptor 1 }
     s.launches.has 1 = true ∧ (s.launchAt 1).alive = true ∧ (s.launchAt 1).queue = 0) := by
  decide +kernel

/-- The smallest image: one word of text, one kind, the smallest of every resource. -/
def image0 : Image :=
  { text := [0x2C000000], data := [], consts := [], nkind := 1, rules := [], entry := 0, tvec := none, uivec := none, hbnd := none,
    banks := 1, rings := 0, tiles := 0, yq := 1, bars := 0, env := none, nstoreL := 4096, nstoreH := 0, wspill := 1024, ldata := 256,
    dspill := 1, sq := (32, 32, 32), ib := (256, 256, 256), spread := false, ctab := [], nodes := [], wires := [], hbinds := [],
    hcode := [], hker := [], tacks := [], tgraphs := [] }

theorem test_meets_launch_commands :
    (let s := device queue0 (launch1 .resident)
     s.launchNamed 0 0 = some 1 ∧ (s.launchAt 1).killed = false ∧ s.stoppable 1 = true ∧ s.translatedDone 1 = true ∧
       (s.page 0).run = none ∧ ({ s with net := [joinPacket] } : State).stoppable 1 = false) ∧
    (let s := device queue0 (launch1 .preempted)
     s.launchNamed 0 0 = some 1 ∧ (s.putQueue 0 { queue0 with wcount := 0, wstep := 0 }).refits 1 = false) ∧
    (let s := device queue0 { launch1 .preempted with img := some image0 }
     (s.putQueue 0 { queue0 with wcount := 0, wstep := 0 }).refits 1 = true) ∧
    (let s := { device queue0 (launch1 .resident) with pages := [(0, { CtlPage.init with run := some (5, [0, 0, 0, 0]) })], place := ⟨1, 0⟩ }
     (s.page 0).run = some (5, [0, 0, 0, 0]) ∧ s.place.a = 1 ∧ s.launchNamed 0 0 = some 1 ∧ (s.launchAt 1).status = .resident ∧
       s.stoppable 1 = true ∧ (s.launchAt 1).why ≠ 3) ∧
    (let s := { device queue0 (launch1 .resident) with
       pages := [(0, { CtlPage.init with run := some (10, [0, 0, 256, 0]) })], place := ⟨1, 0⟩ }
     (s.page 0).run = some (10, [0, 0, 256, 0]) ∧ bit (256 : Word) 8 = true ∧ bits (256 : Word) 7 4 = 0 ∧ bits (256 : Word) 63 9 = 0 ∧
       s.translatedDone 1 = true ∧
       ({ s with net := [{ joinPacket with kind := .atomic .add 0x100 1 0 false false 0x100 }] } : State).translatedDone 1 = false) ∧
    ((device queue0 (launch1 .resident)).partAt 0).gang = false ∧ (State.reset.cpAt 0).swap = 0 ∧ (State.reset.cpAt (partner 0)).swap = 0 := by
  decide +kernel

/-- A queue with one record of op `o` at 0x2000, and the range table of a launch at 0x4000: heap, spill and code. -/
def recorded (o : Nat) : State :=
  let rec0 := [Word.of (o * 2 ^ 56 + (if o = 1 then 2 * 2 ^ 32 + 7 else 7))] ++
    (if o = 1 then [0x30000, 0x4000, 0x10000, 0, 0x100000, 0, 0, 0, 0, 0, 0, 0, 0, 0, 0] else [])
  let table := [0x10000, 0x10000, 1, 0x20000, 0x10000, 0x21, 0x30000, 0x10000, 0x40]
  { device { queue0 with tail := 1 } (launch1 .finished) with
    mem := Memory.write (Memory.write [] 0x2000 (wordsToBytes rec0)) 0x4000 (wordsToBytes table) }

theorem test_meets_launches :
    ([0, 1, 2, 3].all fun o => (recorded o).takesRecord 0 && decide ((recorded o).recordOp 0 = o) &&
      (o == 1 || o == 3 || (recorded o).shortRecordOk 0)) = true ∧
    (let s := recorded 1
     let d := s.recordDbl 0
     s.launchRecordOk 0 = true ∧ s.doneOk (bits (d 5) 51 8 * 256) (s.looseRanges (d 2).toNat 3) (d 3) = true ∧ bits (d 0) 35 32 + 1 = 3 ∧
       (match s.readRanges (d 2).toNat 3 with
        | some rs => decide (rejection (some image0) (d 1) (some rs) (bits (d 5) 51 8 * 256) (s.partAt 0) = none)
        | none => false) = true) := by decide +kernel

theorem test_meets_dispatch_and_completion :
    (let s := device queue0 { launch1 .checked with img := some image0 }
     s.waitingLaunch 0 = some 1 ∧ s.fits 1 [] = true ∧ s.resumesFirst 1 = false) ∧
    (let s := device queue0 (launch1 .resident)
     (s.launchAt 1).killed = false ∧ (s.launchAt 1).failure = none ∧ s.quiescent 1 = true ∧ s.written 1 = true ∧
       (s.endFault 1).isSome = true) ∧
    (let s := { device queue0 { launch1 .resident with doneVa := 0x10000, ranges := [⟨0x10000, 0x10000, 0, true⟩] } with
       roots := mapped.roots, mem := mapped.mem }
     s.quiescent 1 = true ∧ s.written 1 = true ∧ s.endFault 1 = none) ∧
    (device queue0 (launch1 .finished)).runs 1 = false ∧
    (let s := device queue0 { launch1 .resident with killed := true }
     (s.launchAt 1).killed = true ∧ (s.launchAt 1).alive = true ∧ s.written 1 = true) ∧
    (let s := device queue0 { launch1 .resident with failure := some ⟨1, 0, 0, 0, 0⟩ }
     (s.launchAt 1).failure ≠ none ∧ (s.launchAt 1).killed = false ∧ (s.launchAt 1).status = .resident) := by decide +kernel

/-- Launch 1 holds all 16 banks of the mast, and launch 2 of queue 1, of a higher priority, waits for one. -/
def crowded : State :=
  let s := device queue0 (launch1 .resident)
  let s := s.putMast 0 { s.mastAt 0 with grants := [(1, { Grant.init with banks := List.range 16 })] }
  { s.putLaunch 2 { launch1 .checked with queue := 1, prio := 1, img := some image0 } with place := ⟨1, 1⟩ }

theorem test_meets_policing :
    (crowded.waitingLaunch 1 = some 2 ∧ crowded.victimsOf 2 = [1] ∧ crowded.fits 2 [] = false ∧
      crowded.fits 2 (crowded.victimsOf 2) = true ∧ crowded.stoppable 1 = true) ∧
    (let s := device queue0 { launch1 .preempted with why := 1, img := some image0 }
     (s.launchAt 1).status = .preempted ∧ (s.launchAt 1).why = 1 ∧ (s.launchAt 1).killed = false ∧ s.refits 1 = true) ∧
    (let s := device queue0 { launch1 .preempted with why := 1 }
     (s.launchAt 1).status = .preempted ∧ (s.launchAt 1).why = 1 ∧ (s.launchAt 1).killed = false ∧ s.refits 1 = false) ∧
    (let p := { joinPacket with kind := .sysMsg 0 [1] }
     let s := { device { queue0 with mbase := 0x8000 } (launch1 .resident) with net := [p] }
     s.packet 5 = some p ∧ s.mayApply p = true ∧ (s.queueAt 0).descPa + 64 ≤ (s.queueAt 0).mbase ∧
       ((s.queueAt 0).mcp + 65536 - (s.queueAt 0).mhost) % 65536 < 2 ^ (s.queueAt 0).lgm) := by decide +kernel

theorem test_meets_watchdog :
    ([0, 1, 2].all fun w =>
      let s := device { queue0 with lim1 := 9, wstep := w } (launch1 .resident)
      decide (s.watched 0 = [1]) && (s.queueAt 0).live && decide ((s.queueAt 0).lim1 ≠ 0) && decide ((s.queueAt 0).wstep = w) &&
        !(s.partAt 0).gang && !(s.queueAt 0).halted && !(s.launchAt 1).killed) = true ∧
    (let s := device { queue0 with lim1 := 9 } (launch1 .resident)
     let t := s.setQueue 0 fun q => { q.reach q.lim1 1 with halted := true }
     t.stoppable 1 = true ∧
       (s.launchAt 1).queue = 0 ∧ (s.queueAt 0).failed = false ∧
       (let x := { s with net := [joinPacket] }
        (x.setQueue 0 fun q => { q.reach q.lim1 1 with halted := true }).stoppable 1 = false)) ∧
    (let s := { device { queue0 with lim1 := 9 } (launch1 .resident) with
       parts := [(0, { Machine.Partition.init with live := true, gang := true, w := 1, h := 1 })] }
     (s.partAt 0).gang = true ∧ s.watched 0 = [1]) := by decide +kernel

/-- The greatest version is no older than the fused one, whatever that is. -/
theorem test_meets_security_version : Config.fusedVersion.toNat ≤ (0xFFFF#16).toNat := by
  have := Config.fusedVersion.isLt; simp; omega

theorem test_meets_security :
    (let s := { m0 with cps := [(0, { Cp.init with swap := 2, cxsel := 0x142 })] }
     cpMay 3 0x7C0 false = true ∧ cpMay 0 0x7C0 false = false ∧ cpMay 0 0x7C0 true = false ∧ s.selCsr 0 = 0x142 ∧
       (s.reachSel 0).cur.core = 0 ∧ (s.cpAt 0).swap = 2 ∧ (s.cpAt 0).swapRes = 0 ∧ s.sec.available = true) ∧
    ([1, 3, 4].all fun n => decide ((({ m0 with cps := [(0, { Cp.init with swap := n })] } : State).cpAt 0).swap = n)) = true ∧
    ({ m0 with sec := { m0.sec with available := false } } : State).sec.available = false ∧ State.reset.sec.badVerify = 0 ∧
    ({ m0 with sec := { m0.sec with badVerify := 7 } } : State).sec.badVerify = 7 ∧
    ((device queue0 (launch1 .resident)).queueAt 0).live = true ∧ ((device queue0 (launch1 .resident)).launchAt 1).alive = true := by
  decide +kernel

theorem test_meets_bring_up :
    ([1, 2, 3, 4, 5, 6].all fun n =>
      let s : State := { State.reset with plat := { Platform.init with stage := n } }
      decide (s.plat.stage = n) && !s.plat.held && !s.plat.ready && !s.plat.coldOnly && s.sec.available) = true ∧
    (let s : State := { State.reset with
       plat := { Platform.init with sensors := (List.range 8).map fun i => (i, 90) }, place := ⟨0, 8 * 99⟩ }
     s.place.a < 4 ∧ s.place.b / 8 ≤ 105 ∧ (List.range 8).all (fun i => decide ((s.plat.sensors.set 0 99).get i 0 < 100)) = true ∧
       ¬ (s.plat.sensors.set 0 99).get 0 0 < 99 ∧ ((s.plat.sensors.set 1 101).set 0 99).get 1 0 = 101) ∧
    (Platform.init.throttled.set 0 true).getD 0 false = true ∧ capOf 3 = some 24000 ∧ 100 * 22000 ≤ 95 * 24000 := by decide +kernel

/-- A reading of 102 degrees C leaves the clock of a throttled quadrant, and the sensor shows it (R399, R400). -/
theorem test_reading_between :
    (let s : State := { State.reset with plat := { Platform.init with throttled := [true, false, false, false] }, place := ⟨0, 8 * 102⟩ }
     match execThermalRecover s with
     | .next u => decide (u.plat.throttled = [true, false, false, false]) && decide (u.plat.sensors.get 0 0 = 102)
     | _ => false) = true := by decide +kernel

/-! ### Witnesses: the step and encoding -/

theorem test_meets_step :
    (let s := State.reset.withFetchWord 32 0x01049FFE
     let i : Instr := .add .i32 (.w 1) (.reg (.g 7)) (.lit (-1))
     s.agenda = [] ∧ s.canIssue = true ∧ (s.tick []).deliverable = false ∧ okIs (s.tick []).fetchDecode i = true ∧
       (let b : State := { { s with agenda := [.issue 0 []] } with agenda := [] }
        let ready := b.readyStrands 0 []
        let a := (b.issuer 0 0).tick ready
        isAgent 0 = true ∧ b.choose 0 ready = some 0 ∧ a.deliverable = false ∧ okIs a.fetchDecode i = true) ∧
       ({ s with agenda := [.event .dispatch ⟨0, 0⟩] } : State).agenda = [.event .dispatch ⟨0, 0⟩] ∧
       s.mayHappen .dispatch ⟨0, 0⟩ = true ∧
       ({ s with agenda := [.ccmd 0 200] } : State).agenda = [.ccmd 0 (200 : Nat)] ∧
       s.engine ≠ .hart ∧ ([0x01049FFE] : List Nat).length = opWords (fld 0x01049FFE 31 24) ∧ s.pc.toNat % 4 = 0 ∧
       s.inlineCode s.pc = false ∧ s.inImage s.pc = true ∧ okIs (s.extentCheck s.pc 4 .fetch) 0x10000 = true ∧
       0x01049FFE = ofBytes (Memory.read s.mem 0x10000 4)) := by decide +kernel

/-- A context that waits at an instruction. -/
def waitingAt (i : Instr) : State :=
  onCtx (m0.withFetchWord 32 ((encode i).headD 0)) fun c =>
    { c with status := .waiting, waitStart := some 0, await := .park (.w 1) 0 0 }

/-- A context whose wait is over is not parked (R80). -/
theorem test_parks_only_an_unmet_wait :
    (waitingAt (.nop (.g 0) 0)).mayHappen .parkContext ⟨1, 0⟩ = false ∧
      (waitingAt (.park (.w 1) (.reg (.w 2)))).mayHappen .parkContext ⟨1, 0⟩ = true := by decide +kernel

theorem test_step_runs_the_instruction :
    (match step (State.reset.withFetchWord 32 0x01049FFE) with | .next u => decide (u.reg (.w 1) = 0xFFFFFFFFFFFFFFFF) | _ => false) =
      true := by decide +kernel

theorem test_meets_round_trip : WellFormed .ret = true ∧ encode .ret ≠ [] ∧ encode .dispatch = [] := by decide +kernel

theorem test_meets_memory_form : memoryForm State.reset ∧ memoryForm (recorded 1) := by unfold memoryForm; decide +kernel

/-! ### The harts of the CPs (R356): words written out from the RISC-V formats -/

/-- CP 0 alone on the agenda, its hart at 0x100000 where the bytes stand. -/
def hartState (bs : List Byte) (f : Hart → Hart) : State :=
  { State.reset with
    mem := Memory.write [] 0x100000 bs
    plat := { Platform.init with stage := 6 }
    cps := [(0, { Cp.init with hart := f (Hart.start 0x100000) })]
    agenda := [.cp 0] }

/-- What CP 0's hart holds after a step. -/
def hartAfter (s : State) (p : Hart → Bool) : Bool :=
  match step s with
  | .next u => p (u.cpHart 0)
  | _ => false

/-- `addi x5, x0, 10`, `sd ra, 8(sp)`, `beq a0, a1, -4`, `jal ra, 8`, `lui a0, 0x12345`, `amoadd.d a0, a2, (a1)`, `fadd.d fa0, fa1, fa2`
and `csrrw a0, mstatus, a1`. -/
theorem test_riscv_words :
    Rv.decodeWord 0x00A00293 = some (.opImm .add false 5 0 10) ∧ Rv.decodeWord 0x00113423 = some (.store 3 1 2 8) ∧
    Rv.decodeWord 0xFEB50EE3 = some (.branch 0 10 11 (-4)) ∧ Rv.decodeWord 0x008000EF = some (.jal 1 8) ∧
    Rv.decodeWord 0x12345537 = some (.lui 10 0x12345000) ∧ Rv.decodeWord 0x00C5B52F = some (.amo .add false 10 11 12) ∧
    Rv.decodeWord 0x02C5F553 = some (.fp .add true 10 11 12 7) ∧ Rv.decodeWord 0x30059573 = some (.csr 1 10 11 0x300) := by decide +kernel

/-- `c.addi16sp -64`, `c.sdsp ra, 8`, `c.jr ra`, `c.mv a0, a1`, `c.addi4spn s0, 16`, `c.lui a5, 8`, `c.beqz a5, 6` and the illegal word 0. -/
theorem test_riscv_halves :
    Rv.decodeHalf 0x7139 = some (.opImm .add false 2 2 (-64)) ∧ Rv.decodeHalf 0xE406 = some (.store 3 1 2 8) ∧
    Rv.decodeHalf 0x8082 = some (.jalr 0 1 0) ∧ Rv.decodeHalf 0x852E = some (.op .add false 10 0 11) ∧
    Rv.decodeHalf 0x0800 = some (.opImm .add false 8 2 16) ∧ Rv.decodeHalf 0x67A1 = some (.lui 15 0x8000) ∧
    Rv.decodeHalf 0xC399 = some (.branch 0 15 0 6) ∧ Rv.decodeHalf 0 = none := by decide +kernel

theorem test_riscv_addi : hartAfter (hartState (toBytes 4 0x00A00293) id) (fun h => h.reg 5 = 10 && h.pc = 0x100004) = true := by
  decide +kernel

/-- `c.addi sp, -16` is two bytes long. -/
theorem test_riscv_compressed :
    hartAfter (hartState (toBytes 2 0x1141) id) (fun h => h.reg 2 = ofInt (-16) && h.pc = 0x100002) = true := by decide +kernel

/-- `csrr a0, lnkrt` reads 1,500,000 in M mode, and in U mode raises the illegal-instruction exception (R356). -/
theorem test_riscv_device_csr :
    hartAfter (hartState (toBytes 4 0x7C002573) id) (fun h => h.reg 10 = 1500000 && h.mode = 3) = true ∧
    hartAfter (hartState (toBytes 4 0x7C002573) fun h => { h with mode := 0, mtvec := 0x80 })
      (fun h => h.reg 10 = 0 && h.mode = 3 && h.mcause = 2 && h.mepc = 0x100000 && h.mtval = 0x7C002573 && h.pc = 0x80) = true := by
  decide +kernel

/-- `fadd.d f0, f1, f2` of 1 and 2^-60 is 1, and inexact. -/
theorem test_riscv_fadd :
    hartAfter (hartState (toBytes 4 0x02208053) fun h =>
        { h with mstatus := 0x2000, f := [(1, 0x3FF0000000000000), (2, 0x3C30000000000000)] })
      (fun h => h.f.get 0 0 = 0x3FF0000000000000 && h.fcsr = 1) = true := by decide +kernel

/-- Five levels of Sv57 lead from 0x1008 to 0x200008. -/
theorem test_riscv_sv57 :
    (let put (a w : Nat) (m : Memory) := Memory.write m a (toBytes 8 w)
     let m := put 0x100000 0x40401 (put 0x101000 0x40801 (put 0x102000 0x40C01 (put 0x103000 0x41001 (put 0x104008 0x800CF []))))
     let h := { Hart.start 0 with mode := 1, satp := Word.of (10 * 2 ^ 60 + 0x100) }
     match ({ State.reset with mem := m } : State).rvTranslate h .load 0x1008 with
     | .ok k => decide (k = 0x200008)
     | .error _ => false) = true := by decide +kernel

theorem test_meets_harts :
    (let s := hartState (toBytes 4 0x00A00293) id
     let b := ({ s with agenda := [] } : State).cpTick 0
     s.agenda = [.cp 0] ∧ 2 ≤ s.plat.stage ∧ (b.cpHart 0).interrupt = none ∧
       (match b.rvFetch (b.cpHart 0) with | .ok r => decide (r = (0x00A00293, false)) | .error _ => false) = true) ∧
    ({ Hart.start 0 with mode := 1, mie := 2, mip := 2, mideleg := 2, mstatus := 2 } : Hart).interrupt = some 1 ∧
    (let s := hartState [0xFF, 0xFF, 0xFF, 0xFF] id
     let b := ({ s with agenda := [] } : State).cpTick 0
     (match b.rvFetch (b.cpHart 0) with | .ok r => decide (r = (0xFFFFFFFF, false) ∧ Rv.decodeWord r.1 = none) | .error _ => false) = true) ∧
    (let s := hartState [] fun h => { h with pc := 0x7FFFFFFFFFFFFFF0 }
     let b := ({ s with agenda := [] } : State).cpTick 0
     (match b.rvFetch (b.cpHart 0) with | .ok _ => false | .error _ => true) = true) := by decide +kernel

/-- A CP in U mode may not reach a device CSR, with the exception delegated to S mode and without. -/
theorem test_meets_cp_traps :
    ([0, 4].all fun d =>
      let s := { State.reset with cps := [(0, { Cp.init with hart := { Hart.start 0 with mode := 0, medeleg := d } })] }
      decide ((s.cpAt 0).hart.mode ≠ 3) && decide ((s.cpAt 0).hart.medeleg.getLsbD 2 = decide (d = 4)) && !cpMay (s.cpAt 0).hart.mode 0x7C0 false) =
      true ∧
    (State.reset.cpAt 0).hart.mode = 3 ∧ cpMay 3 0x7C0 true = true := by decide +kernel

end Sys2Proof.Tests
end

section
/-! What the integer results of R29 keep of a number, what the quotient and the remainder of R14 are for a zero divisor, and
the statement that division by zero does not trap. -/

namespace Sys2Proof

/-! ### Narrowing and extension (R29, R44) -/

/-- Reading the low `n` bits as two's complement changes the number by a multiple of 2^n. -/
theorem sextN_emod (n x : Nat) : sextN n x % (2 ^ n : Nat) = ((x % 2 ^ n : Nat) : Int) := by
  have low : ((x % 2 ^ n : Nat) : Int) % (2 ^ n : Nat) = ((x % 2 ^ n : Nat) : Int) := by
    rw [← Int.natCast_mod, Nat.mod_mod]
  simp only [sextN]
  split
  · exact low
  · rw [Int.sub_emod_right, low]

/-- Two's complement reads the low `n` bits only. -/
theorem sextN_congr {n x y : Nat} (h : x % 2 ^ n = y % 2 ^ n) : sextN n x = sextN n y := by
  simp only [sextN, h]

/-- The low bits of a word made from an integer are those of the integer. -/
theorem ofInt_toNat_mod {n : Nat} (hn : n ≤ 64) (i : Int) : (((ofInt i).toNat % 2 ^ n : Nat) : Int) = i % (2 ^ n : Nat) := by
  have nonneg : 0 ≤ i % (2 ^ 64 : Nat) := Int.emod_nonneg i (by decide)
  rw [ofInt, BitVec.toNat_ofInt, Int.natCast_mod, Int.toNat_of_nonneg nonneg]
  exact Int.emod_emod_of_dvd i (Int.natCast_dvd_natCast.mpr (Nat.pow_dvd_pow 2 hn))

theorem ITy.width_le (t : ITy) : t.width ≤ 64 := by cases t <;> decide

/-- A result keeps the low bits of the number it narrows, whichever way its type extends them. -/
theorem ITy.wrap_low (t : ITy) (i : Int) : (((t.wrap i).toNat % 2 ^ t.width : Nat) : Int) = i % (2 ^ t.width : Nat) := by
  have low := ofInt_toNat_mod t.width_le i
  simp only [ITy.wrap]
  split
  · rw [ofInt_toNat_mod t.width_le, sextN_emod]; exact low
  · rw [BitVec.toNat_ofNat, Nat.mod_mod_of_dvd _ (Nat.pow_dvd_pow 2 t.width_le), Nat.mod_mod]; exact low

/-- A result depends on the low bits of the number only. -/
theorem ITy.wrap_congr (t : ITy) {i j : Int} (h : i % (2 ^ t.width : Nat) = j % (2 ^ t.width : Nat)) :
    t.wrap i = t.wrap j := by
  have low : (BitVec.ofInt 64 i).toNat % 2 ^ t.width = (BitVec.ofInt 64 j).toNat % 2 ^ t.width := by
    have hi := ofInt_toNat_mod t.width_le i
    have hj := ofInt_toNat_mod t.width_le j
    exact Int.ofNat_inj.mp (hi.trans (h.trans hj.symm))
  simp only [ITy.wrap, low, sextN_congr low]

/-- The number a value stands for depends on its low bits only. -/
theorem ITy.val_congr (t : ITy) {x y : Word} (h : x.toNat % 2 ^ t.width = y.toNat % 2 ^ t.width) : t.val x = t.val y := by
  simp only [ITy.val, h, sextN_congr h]

/-- The number a value stands for has the low bits of the value. -/
theorem ITy.val_emod (t : ITy) (x : Word) : t.val x % (2 ^ t.width : Nat) = ((x.toNat % 2 ^ t.width : Nat) : Int) := by
  simp only [ITy.val]
  split
  · exact sextN_emod _ _
  · rw [← Int.natCast_mod, Nat.mod_mod]

/-- Narrowing a number that a value of the type stands for loses nothing. -/
@[simp] theorem ITy.val_wrap_val (t : ITy) (x : Word) : t.val (t.wrap (t.val x)) = t.val x :=
  t.val_congr (Int.ofNat_inj.mp ((t.wrap_low _).trans (t.val_emod x)))

/-- -1 narrows to all ones at the type's width. -/
theorem ITy.wrap_neg_one_low (t : ITy) : (t.wrap (-1)).toNat % 2 ^ t.width = 2 ^ t.width - 1 := by
  have low := t.wrap_low (-1)
  cases t <;> simp only [ITy.width] at low ⊢ <;> omega

/-! ### A zero divisor (R14) -/

/-- The quotient by zero, -1 or the largest unsigned number of the type, narrows to all ones. -/
theorem ITy.wrap_quot_zero (t : ITy) (x : Int) : t.wrap (t.quot x 0) = t.wrap (-1) := by
  cases ht : t.signed
  case true => simp [ITy.quot, ht]
  case false =>
    have onePeriod : ((2 : Int) ^ t.width - 1) % (2 ^ t.width : Nat) = -1 % (2 ^ t.width : Nat) := by
      simp [Int.sub_eq_add_neg]
    have quot : t.quot x 0 = 2 ^ t.width - 1 := by simp [ITy.quot, ht]
    rw [quot, t.wrap_congr onePeriod]

/-- The remainder by zero is the dividend. -/
@[simp] theorem ITy.modulo_zero (t : ITy) (x : Int) : t.modulo x 0 = x := if_pos rfl

namespace Machine

/-! ### The integer instructions (R91) -/

theorem exec_div (t : ITy) (d : Reg) (a b : Src) (s : State) : exec (.div t d a b) s = s.intOp t d a b t.quot := rfl

theorem exec_rem (t : ITy) (d : Reg) (a b : Src) (s : State) : exec (.rem t d a b) s = s.intOp t d a b t.modulo := rfl

/-- An integer operation completes in every state and writes nothing but its narrowed result. -/
theorem intOp_wrote (s : State) (t : ITy) (d : Reg) (a b : Src) (f : Int → Int → Int) :
    ∃ u, s.intOp t d a b f = .next u ∧ wrote 1 d (t.wrap (f (s.isrc t a) (s.isrc t b))) s u :=
  next_result_wrote s 1 d _

/-- DIV by zero completes with all ones. -/
theorem exec_div_by_zero (s : State) (t : ITy) (d : Reg) (a b : Src) (hb : s.isrc t b = 0) :
    ∃ u, exec (.div t d a b) s = .next u ∧ wrote 1 d (t.wrap (-1)) s u := by
  have done := intOp_wrote s t d a b t.quot
  rwa [hb, ITy.wrap_quot_zero, ← exec_div] at done

/-- REM by zero completes with the dividend. -/
theorem exec_rem_by_zero (s : State) (t : ITy) (d : Reg) (a b : Src) (hb : s.isrc t b = 0) :
    ∃ u, exec (.rem t d a b) s = .next u ∧ wrote 1 d (t.wrap (s.isrc t a)) s u := by
  have done := intOp_wrote s t d a b t.modulo
  rwa [hb, ITy.modulo_zero, ← exec_rem] at done

/-- Settles O3: both instructions are integer operations, which always complete, and narrowing keeps all ones and the dividend. -/
theorem divisionByZeroDoesNotTrap : Obligations.DivisionByZeroDoesNotTrap := by
  intro s t d a b hb
  exact ⟨exec_div_by_zero s t d a b hb, exec_rem_by_zero s t d a b hb, t.wrap_neg_one_low, t.val_wrap_val (s.src a)⟩

end Machine

end Sys2Proof
end

section
/-! Where the format B instructions of R23 go: the target and its reach, the branches that are taken, the call that passes its
checks, and the loop of no rounds. -/

namespace Sys2Proof.Machine

variable (s : State)

/-! ### The target and its reach (R23) -/

/-- The target lies four times the offset's value behind the branch's first word. -/
theorem target_eq_pc_add (off : BitVec 15) : s.target off = s.pc + ofInt (off.toInt * 4) := by
  have scaled : off.signExtend 64 * 4 = ofInt (off.toInt * 4) := by
    rw [ofInt, BitVec.ofInt_mul]; rfl
  rw [State.target, scaled]

@[simp] theorem target_zero : s.target 0 = s.pc := by simp [State.target]

/-- Fifteen bits reach -16,384 to 16,383 words. -/
theorem branch_reach (off : BitVec 15) : -65536 ≤ off.toInt * 4 ∧ off.toInt * 4 ≤ 65532 := by
  have lower := BitVec.le_toInt off
  have upper := BitVec.toInt_lt (x := off)
  omega

/-! ### Branches (R98) -/

@[simp] theorem branch_pc (a : Word) : (s.branch a).pc = a := by simp [State.branch, State.pc]

@[simp] theorem branchIf_true (n : Nat) (off : BitVec 15) : s.branchIf true n off = .next (s.branch (s.target off)) := rfl

theorem exec_br (off : BitVec 15) : exec (.br off) s = .next (s.branch (s.target off)) := rfl

theorem exec_bz (t : ITy) (lk : Bool) (c : Reg) (off : BitVec 15) :
    exec (.bz t lk c off) s = s.branchIf (t.val (s.reg c) = 0) 1 off := rfl

theorem exec_bnz (t : ITy) (lk : Bool) (c : Reg) (off : BitVec 15) :
    exec (.bnz t lk c off) s = s.branchIf (t.val (s.reg c) ≠ 0) 1 off := rfl

/-- BZ of a zero is taken. -/
theorem exec_bz_taken {t : ITy} {c : Reg} (h : t.val (s.reg c) = 0) (lk : Bool) (off : BitVec 15) :
    exec (.bz t lk c off) s = .next (s.branch (s.target off)) := by
  rw [exec_bz, decide_eq_true h, branchIf_true]

/-- BNZ of a number other than zero is taken. -/
theorem exec_bnz_taken {t : ITy} {c : Reg} (h : t.val (s.reg c) ≠ 0) (lk : Bool) (off : BitVec 15) :
    exec (.bnz t lk c off) s = .next (s.branch (s.target off)) := by
  rw [exec_bnz, decide_eq_true h, branchIf_true]

/-! ### Calls (R75 to R77) -/

/-- The low two bits of an address are its place in a word. -/
theorem bits_one_zero (x : Word) : bits x 1 0 = x.toNat % 4 := rfl

/-- The state of a call before its jump: the link word is written, the depth raised, and the window moved. -/
def State.linked (s : State) (f n : Nat) : State :=
  let t := s.setReg (.w (Fin.ofNat 32 (f - 1))) (linkWord f (s.pc + Word.of (4 * n)))
  (t.setCtx { t.ctx with depth := t.ctx.depth + 1 }).slideUp f

/-- A call to an aligned target whose slide fits passes both checks and jumps to the target. -/
theorem call_of_checks {f : Nat} {a : Word} (aligned : a.toNat % 4 = 0) (fits : slideFits s.ctx f 512 = true) (n : Nat) :
    s.call f n a = .ok ((s.linked f n).setPc a) := by
  simp only [State.call, bits_one_zero, aligned, fits, need]
  rfl

theorem exec_call (f : Nat) (off : BitVec 15) : exec (.call f off) s = s.finish (s.call f 1 (s.target off)) := rfl

/-- CALL to an aligned target whose slide fits completes at the target. -/
theorem exec_call_of_checks {f : Nat} {off : BitVec 15} (aligned : (s.target off).toNat % 4 = 0)
    (fits : slideFits s.ctx f 512 = true) : exec (.call f off) s = .next ((s.linked f 1).setPc (s.target off)) := by
  rw [exec_call, call_of_checks s aligned fits]; rfl

/-! ### A loop of no rounds (R99) -/

/-- LOOP with a zero count goes on behind its LEND. -/
theorem exec_loop_zero {c : Reg} (h : s.reg c = 0) (off : BitVec 15) :
    exec (.loop c off) s = .next (s.setPc (s.target off + 4)) := if_pos h

/-- Settles O7: each instruction that goes to its target sets the pc to it, and that target is R23's by the value of the
offset. -/
theorem formatBTargets : Obligations.FormatBTargets := by
  intro s t lk c f off
  rw [← target_eq_pc_add]
  obtain ⟨lower, upper⟩ := branch_reach off
  refine ⟨⟨_, exec_br s off, branch_pc s _⟩, fun zero => ⟨_, exec_bz_taken s zero lk off, branch_pc s _⟩,
    fun nonzero => ⟨_, exec_bnz_taken s nonzero lk off, branch_pc s _⟩,
    fun _ fits aligned => ⟨_, exec_call_of_checks s aligned fits, setPc_pc _ _⟩,
    fun zero => ⟨_, exec_loop_zero s zero off, setPc_pc s _⟩, lower, upper, fun zero => ?_⟩
  rw [zero, target_zero]

end Sys2Proof.Machine
end

section
/-! What failing a launch and failing a task change, what a double trap leaves behind (R85), and the statement that it stops its
context and fails its task. -/

namespace Sys2Proof.Machine

variable (s : State)

/-! ### Failing a launch (R368) -/

/-- Failing a launch changes launches only. -/
theorem failLaunch_only (l : Nat) (f : Failure) : ∃ ls, s.failLaunch l f = { s with launches := ls } := by
  dsimp only [State.failLaunch]
  split
  · exact ⟨_, rfl⟩
  · exact ⟨s.launches, rfl⟩

@[simp] theorem failLaunch_mem (l : Nat) (f : Failure) : (s.failLaunch l f).mem = s.mem := by
  obtain ⟨ls, h⟩ := failLaunch_only s l f; rw [h]

@[simp] theorem failLaunch_cur (l : Nat) (f : Failure) : (s.failLaunch l f).cur = s.cur := by
  obtain ⟨ls, h⟩ := failLaunch_only s l f; rw [h]

@[simp] theorem failLaunch_ctxs (l : Nat) (f : Failure) : (s.failLaunch l f).ctxs = s.ctxs := by
  obtain ⟨ls, h⟩ := failLaunch_only s l f; rw [h]

@[simp] theorem failLaunch_tasks (l : Nat) (f : Failure) : (s.failLaunch l f).tasks = s.tasks := by
  obtain ⟨ls, h⟩ := failLaunch_only s l f; rw [h]

/-- A failed launch has a failure: its first one, or the new one where it had none. -/
theorem failLaunch_failure (l : Nat) (f : Failure) : ((s.failLaunch l f).launchAt l).failure ≠ none := by
  dsimp only [State.failLaunch]
  split
  case isTrue => simp
  case isFalse earlier => exact earlier

/-! ### Failing a task (R85, R170) -/

section
variable (k cause : Nat) (addr info : Word)

@[simp] theorem failTask_mem : (s.failTask k cause addr info).mem = s.mem := failLaunch_mem _ _ _

@[simp] theorem failTask_cur : (s.failTask k cause addr info).cur = s.cur := failLaunch_cur _ _ _

@[simp] theorem failTask_ctxs : (s.failTask k cause addr info).ctxs = s.ctxs := failLaunch_ctxs _ _ _

@[simp] theorem failTask_tasks :
    (s.failTask k cause addr info).tasks = s.tasks.set k { s.taskAt k with failed := true } := failLaunch_tasks _ _ _

theorem failTask_failure : ((s.failTask k cause addr info).launchAt (s.taskAt k).launch).failure ≠ none :=
  failLaunch_failure _ _ _

end

/-! ### A double trap (R85) -/

/-- A trap of a context inside its trap handler is a double trap. -/
theorem trapEntry_in_handler (notHart : s.engine ≠ .hart) (inHandler : s.ctx.intrap = true) (cause : Nat)
    (addr info ret : Word) : s.trapEntry cause addr info ret = s.doubleTrap cause := by
  unfold State.trapEntry
  split
  case h_1 hart => exact absurd hart notHart
  case h_2 => exact if_pos inHandler

@[simp] theorem doubleTrap_cur (cause : Nat) : (s.doubleTrap cause).cur = s.cur := failTask_cur _ _ _ _ _

@[simp] theorem doubleTrap_mem (cause : Nat) : (s.doubleTrap cause).mem = s.mem := failTask_mem _ _ _ _ _

/-- A double trap replaces the acting context, and no other. -/
@[simp] theorem doubleTrap_ctxs (cause : Nat) : (s.doubleTrap cause).ctxs =
    s.ctxs.set s.cur.ctx { s.ctx with dcause := BitVec.ofNat 8 cause, status := .failed, waitStart := none } :=
  failTask_ctxs _ _ _ _ _

/-- Of its context a double trap changes dcause, the status and the wait: the trap CSRs keep the first trap. -/
theorem doubleTrap_ctx (cause : Nat) : (s.doubleTrap cause).ctx =
    { s.ctx with dcause := BitVec.ofNat 8 cause, status := .failed, waitStart := none } := by
  rw [State.ctx, doubleTrap_ctxs, doubleTrap_cur, AMap.get_set_same]

theorem doubleTrap_ctxAt_other (cause : Nat) {k : Nat} (other : k ≠ s.cur.ctx) : (s.doubleTrap cause).ctxAt k = s.ctxAt k := by
  rw [State.ctxAt, doubleTrap_ctxs, AMap.get_set_other _ other, State.ctxAt]

/-- A double trap marks the acting task as failed, and changes nothing else of it. -/
theorem doubleTrap_task (cause : Nat) : (s.doubleTrap cause).task = { s.task with failed := true } := by
  rw [State.task, doubleTrap_cur, State.doubleTrap, failTask_tasks, setCtx_cur, AMap.get_set_same]
  rfl

theorem doubleTrap_failure (cause : Nat) : ((s.doubleTrap cause).launchAt s.task.launch).failure ≠ none :=
  failTask_failure _ s.cur.task _ _ _

/-- Settles O13: the trap entry inside a handler is the double trap, which writes dcause, the status and the wait of its context
and fails the task and its launch. -/
theorem doubleTrapStopsTheContext : Obligations.DoubleTrapStopsTheContext := by
  intro s cause addr info ret notHart inHandler
  rw [trapEntry_in_handler s notHart inHandler]
  have ctx := doubleTrap_ctx s cause
  have task := doubleTrap_task s cause
  refine ⟨?status, ?dcause, ?trapcause, ?trapaddr, ?trappc, ?trapinfo, ?pc, ?failed, doubleTrap_failure s cause, ?memory,
    fun k other => doubleTrap_ctxAt_other s cause other⟩
  case failed => rw [task]
  case memory => intro a; rw [doubleTrap_mem]
  case pc => rw [State.pc, ctx]; rfl
  all_goals rw [ctx]

end Sys2Proof.Machine
end

section
/-! What a slide up leaves unchanged, the trap entry of R83 of a context that can take it, and the statement about PGET (R152). -/

namespace Sys2Proof.Machine

variable (s : State)

/-! ### The frame of a slide up (R75) -/

theorem slideUp_ctxAt_other (n : Nat) {k : Nat} (other : k ≠ s.cur.ctx) : (s.slideUp n).ctxAt k = s.ctxAt k := by
  simp [State.slideUp, State.ctxAt, AMap.get_set_other _ other]

/-- A slide up changes contexts, tasks, memory and its check bits, and nothing else. -/
theorem slideUp_rest (n : Nat) :
    { s.slideUp n with ctxs := s.ctxs, tasks := s.tasks, mem := s.mem, ecc := s.ecc } = s := by
  obtain ⟨m, e, t, spilled⟩ := spillGroups_rest (slideGroups s.ctx n) s.ctx s
  simp only [State.slideUp, spilled]
  rfl

/-- A slide up of a whole window leaves every register of the new window zero. -/
theorem slideUp_window_reg (i : Fin 32) : (s.slideUp 32).reg (.w i) = 0 := by
  rw [slideUp_reg s 32 (Nat.le_refl 32), dif_neg (by omega)]

/-! ### Trap entry (R83) -/

/-- What a trap entry saves: the trap CSRs hold the trap, and the context runs in its handler. -/
def Context.trapSaved (c : Context) (cause : Nat) (addr info ret : Word) : Context :=
  { c with
    trapcause := BitVec.ofNat 8 cause, trapaddr := addr, trapinfo := info, trappc := ret
    intrap := true, status := .running, waitStart := none, await := .none }

section
variable (cause : Nat) (addr info ret : Word)

/-- A context that can take a trap saves it, slides by a whole window and goes on at tvec. -/
theorem trapEntry_of_canTrap (can : canTrap s) : s.trapEntry cause addr info ret =
    ((s.setCtx (s.ctx.trapSaved cause addr info ret)).slideUp 32).setPc s.task.tvec := by
  obtain ⟨notHart, noHandler⟩ := can
  unfold State.trapEntry
  split
  case h_1 hart => exact absurd hart notHart
  case h_2 => rw [noHandler]; rfl

/-- The context that a trap entry leaves: saved, slid by a whole window, and at tvec. -/
theorem trapEntry_ctx (can : canTrap s) : (s.trapEntry cause addr info ret).ctx =
    { ({ s.ctx.trapSaved cause addr info ret with
          wsp := s.ctx.wsp + Word.of (32 * slideGroups s.ctx 32)
          low := s.ctx.low + 4 * slideGroups s.ctx 32 } : Context).raise 32 with pc := s.task.tvec } := by
  rw [trapEntry_of_canTrap s cause addr info ret can, setPc_eq, setCtx_ctx, slideUp_ctx, setCtx_ctx]
  rfl

theorem trapEntry_trapFrame (can : canTrap s) : trapFrame s (s.trapEntry cause addr info ret) := by
  refine ⟨?rest, fun k other => ?others, ?own⟩
  case own => rw [trapEntry_ctx s cause addr info ret can]; rfl
  all_goals rw [trapEntry_of_canTrap s cause addr info ret can, setPc_eq]
  case rest => exact congrArg (fun t : State => { t with ctxs := s.ctxs }) (slideUp_rest (s.setCtx _) 32)
  case others =>
    rw [setCtx_ctxAt_other _ _ (by rwa [slideUp_cur]), slideUp_ctxAt_other (s.setCtx _) 32 other, setCtx_ctxAt_other s _ other]

/-- A trap entry writes only the bytes that its slide spills. -/
theorem trapEntry_mem (can : canTrap s) (form : memoryForm s) (a : Nat)
    (outside : ¬ spillBytes s.ctx (slideGroups s.ctx 32) a) :
    Memory.get (s.trapEntry cause addr info ret).mem a = Memory.get s.mem a := by
  have slide := (slideUp_mem (s.setCtx (s.ctx.trapSaved cause addr info ret)) 32 form).2
  rw [setCtx_ctx] at slide
  rw [trapEntry_of_canTrap s cause addr info ret can]
  exact slide a outside

/-- A context that can take a trap takes it as R83 says. -/
theorem trapEntry_tookTrap (can : canTrap s) : tookTrap cause addr info ret s (s.trapEntry cause addr info ret) := by
  have ctx := trapEntry_ctx s cause addr info ret can
  refine ⟨?trapcause, ?trapaddr, ?trapinfo, ?trappc, ?intrap, ?status, ?pc, fun i => ?window, fun i => ?shared, ?base, ?loops,
    trapEntry_trapFrame s cause addr info ret can, trapEntry_mem s cause addr info ret can⟩
  case pc => rw [State.pc, ctx]
  case window => rw [trapEntry_of_canTrap s cause addr info ret can, reg_setPc, slideUp_window_reg]
  case shared => rw [trapEntry_of_canTrap s cause addr info ret can, reg_setPc, slideUp_global]; rfl
  all_goals rw [ctx]; rfl

/-- An instruction that ends in a trap takes it with its own pc as the return address. -/
theorem finish_trap_tookTrap (can : canTrap s) :
    ∃ u, s.finish (.error (.trap cause addr info)) = .next u ∧ tookTrap cause addr info s.pc s u :=
  ⟨_, rfl, trapEntry_tookTrap s cause addr info s.pc can⟩

end

/-! ### PGET (R152) -/

section
variable {s} {d n : Reg} {i : Src}

theorem exec_pget : exec (.pget d n i) s = execPget d n i s := rfl

/-- PGET of a reference that does not pass its check ends as the check does. -/
theorem exec_pget_of_chk_error {e : Stop} (fails : s.chk (s.reg n) false .net = .error e) :
    exec (.pget d n i) s = s.finish (.error e) := by
  rw [exec_pget, execPget, fails]; rfl

/-- PGET of a port above the arity ends with cause 0x0C. -/
theorem exec_pget_of_above (passes : s.chk (s.reg n) false .net = .ok ())
    (above : (s.nodeOf (s.reg n)).arity < (s.src i).toNat) :
    exec (.pget d n i) s = s.finish (.error (s.bad0C 0)) := by
  rw [exec_pget, execPget, passes, need, decide_eq_false (Nat.not_le.mpr above)]; rfl

/-- PGET of a port within the arity writes the reference to that port. -/
theorem exec_pget_of_within (passes : s.chk (s.reg n) false .net = .ok ())
    (within : (s.src i).toNat ≤ (s.nodeOf (s.reg n)).arity) :
    exec (.pget d n i) s = .next (s.result 1 d (withPort (s.reg n) (s.src i).toNat)) := by
  rw [exec_pget, execPget, passes, need, decide_eq_true within]; rfl

end

/-- Settles O22: PGET ends as the check of its reference does, then as the comparison of the port number with the arity does, and
both traps are entries of R83. -/
theorem portGetFormsAReference : Obligations.PortGetFormsAReference := by
  intro s d n i
  refine ⟨fun c a x can fails => ?fails, fun passes => ⟨fun can above => ?above, fun within => ?within⟩⟩
  case fails => rw [exec_pget_of_chk_error fails]; exact finish_trap_tookTrap s c a x can
  case above =>
    rw [exec_pget_of_above passes above]
    obtain ⟨u, ends, took⟩ := finish_trap_tookTrap s 0x0C s.pc 0 can
    exact ⟨u, 0, ends, took⟩
  case within => rw [exec_pget_of_within passes within]; exact next_result_wrote s 1 d _

end Sys2Proof.Machine
end

section
/-! The order of a pair's kinds in the rule table (R172), the three ends of RULE (R184), and the statement about it. -/

namespace Sys2Proof.Machine

/-! ### The rule table (R172) -/

theorem ruleIndex_comm (i j : Nat) : ruleIndex i j = ruleIndex j i := by
  have lower : Nat.min i j = Nat.min j i := Nat.min_comm i j
  have upper : Nat.max i j = Nat.max j i := Nat.max_comm i j
  rw [ruleIndex, ruleIndex, lower, upper]

theorem ruleOf_comm (s : State) (i j : Nat) : s.ruleOf i j = s.ruleOf j i := by
  rw [State.ruleOf, State.ruleOf, ruleIndex_comm]

/-! ### RULE (R184) -/

section
variable {s : State} {x y : Src} {v : Word}

theorem exec_rule (d : Reg) (x y : Src) (s : State) : exec (.rule d x y) s = execRule d x y s := rfl

/-- RULE looks at its first kind first: where that one is out of range, the second does not matter. -/
theorem exec_rule_of_first_above (d : Reg) (y : Src) (above : s.task.nkind ≤ (s.src x).toNat) :
    exec (.rule d x y) s = s.finish (.error (s.bad0C (s.src x))) := by
  rw [exec_rule, execRule, need, decide_eq_false (Nat.not_lt.mpr above)]; rfl

/-- RULE of a first kind within range and a second one out of range ends with cause 0x0C and the second kind. -/
theorem exec_rule_of_second_above (d : Reg) (within : (s.src x).toNat < s.task.nkind)
    (above : s.task.nkind ≤ (s.src y).toNat) : exec (.rule d x y) s = s.finish (.error (s.bad0C (s.src y))) := by
  rw [exec_rule, execRule, need, need, decide_eq_true within, decide_eq_false (Nat.not_lt.mpr above)]; rfl

/-- RULE of two kinds within range writes the entry that the table answers. -/
theorem exec_rule_of_within (d : Reg) (first : (s.src x).toNat < s.task.nkind) (second : (s.src y).toNat < s.task.nkind)
    (entry : s.ruleOf (s.src x).toNat (s.src y).toNat = .ok v) :
    exec (.rule d x y) s = .next (s.result 1 d v) := by
  rw [exec_rule, execRule, need, need, decide_eq_true first, decide_eq_true second, entry]; rfl

/-- RULE of two kinds within range completes with the pair's entry in its destination. -/
theorem exec_rule_wrote (d : Reg) (first : (s.src x).toNat < s.task.nkind) (second : (s.src y).toNat < s.task.nkind)
    (entry : s.ruleOf (s.src x).toNat (s.src y).toNat = .ok v) :
    ∃ u, exec (.rule d x y) s = .next u ∧ wrote 1 d v s u := by
  rw [exec_rule_of_within d first second entry]; exact next_result_wrote s 1 d v

end

/-- Settles O24: a first kind out of range traps whatever the second is, so of two kinds out of range the first one is in trapinfo;
and the pair's place in the table does not depend on the order of its kinds. -/
theorem ruleReadsTheTable : Obligations.RuleReadsTheTable := by
  intro s d x y
  refine ⟨fun can above _ => ?first, fun can within above => ?second, fun can above _ => ?both,
    fun v first second entry => ⟨exec_rule_wrote d first second entry, ?swapped⟩⟩
  case first => rw [exec_rule_of_first_above d y above]; exact finish_trap_tookTrap s 0x0C s.pc (s.src x) can
  case second => rw [exec_rule_of_second_above d within above]; exact finish_trap_tookTrap s 0x0C s.pc (s.src y) can
  case both =>
    rw [exec_rule_of_first_above d y above]
    obtain ⟨u, ends, took⟩ := finish_trap_tookTrap s 0x0C s.pc (s.src x) can
    exact ⟨u, s.src x, ends, took, .inl rfl⟩
  case swapped =>
    rw [ruleOf_comm] at entry
    exact exec_rule_wrote d second first entry

end Sys2Proof.Machine
end

section
/-! Every encoded instruction decodes back from the bytes of its words (R18, R20): the words of an instruction fit into 32 bits,
words that fit are read back from their bytes, and the words of each constructor decode to it. -/

namespace Sys2Proof.Laws

open Sys2Proof

/-! ### Fields stay in their place (R20, R24) -/

section
variable {op d a b m : Nat}

theorem encT_lt (hd : d < 64) (ha : a < 256) (hb : b < 256) (hm : m < 4) (ho : op < 256 := by decide) :
    encT op d a b m < 2 ^ 32 := by
  simp only [encT]; omega

theorem encI_lt (hd : d < 64) (ha : a < 256) (hm : m < 1024) (ho : op < 256 := by decide) : encI op d a m < 2 ^ 32 := by
  simp only [encI]; omega

theorem encB_lt (hd : d < 64) (ha : a < 8) (hm : m < 32768) (ho : op < 256 := by decide) : encB op d a m < 2 ^ 32 := by
  simp only [encB]; omega

theorem encM_lt (hd : d < 64) (ha : a < 64) (hm : m < 4096) (ho : op < 256 := by decide) : encM op d a m < 2 ^ 32 := by
  simp only [encM]; omega

theorem encS_lt (hd : d < 64) (hm : m < 4096) (ho : op < 256 := by decide) : encS op d m < 2 ^ 32 := by
  simp only [encS]; omega

end

theorem fin_lt {n m : Nat} (x : Fin n) (h : n ≤ m) : x.val < m := Nat.lt_of_lt_of_le x.isLt h

theorem encOpnd_lt (y : Src) : encOpnd y < 2 ^ 32 := by
  have := src_code_lt y
  simp only [encOpnd]; omega

theorem frame_lt {f : Nat} (h : frameOk f = true) : f < 64 := by
  simp [frameOk] at h
  omega

theorem twoBits_lt (b c : Bool) : bitOf b * 2 + bitOf c < 4 := by
  have := bitOf_lt b; have := bitOf_lt c
  omega

theorem etyPair_lt (t u : ETy) : t.enc * 16 + u.enc < 256 := by
  have := ety_enc_lt t; have := ety_enc_lt u
  omega

theorem vtyRnd_lt (t : VTy) (r : Rnd) : t.code * 16 + r.code < 256 := by
  have := vty_code_lt t; have := rnd_code_lt r
  omega

theorem vtyMask_lt (t : VTy) (m : Fin 4) : t.code * 16 + m.val < 64 := by
  have := vty_code_lt t
  omega

theorem scope_lt {k : Nat} (sc : Scope) (h : k ≤ 1000) : k + sc.enc < 1024 := by
  have := scope_enc_lt sc
  omega

theorem vecField_lt (v : Fin 16) : 64 + v.val < 256 := by omega

theorem fieldWord_lt (pos : BitVec 6) (len : BitVec 7) : pos.toNat * 2 ^ 8 + len.toNat < 2 ^ 32 := by omega

theorem ringWord_lt (lg : Fin 9) (size : BitVec 11) : lg.val * 2 ^ 16 + size.toNat < 2 ^ 32 := by omega

theorem loopWord_lt (l st : Src) : l.code * 2 ^ 24 + st.code * 2 ^ 16 < 2 ^ 32 := by
  have := src_code_lt l; have := src_code_lt st
  omega

theorem vxpWord_lt (prog : BitVec 48) (x y : VSrc) : prog.toNat / 2 ^ 32 + x.code * 2 ^ 16 + y.code * 2 ^ 24 < 2 ^ 32 := by
  have := vsrc_code_lt x; have := vsrc_code_lt y
  omega

/-! ### The words of an instruction fit into 32 bits (R18) -/

/-- Every word of a list fits into 32 bits. -/
def Fits (ws : List Nat) : Prop := ∀ w ∈ ws, w < 2 ^ 32

section
variable {x y z : Nat}

theorem fits_nil : Fits [] := List.forall_mem_nil _

theorem fits_cons {ws : List Nat} (hx : x < 2 ^ 32) (h : Fits ws) : Fits (x :: ws) := List.forall_mem_cons.mpr ⟨hx, h⟩

theorem fits_one (hx : x < 2 ^ 32) : Fits [x] := fits_cons hx fits_nil

theorem fits_two (hx : x < 2 ^ 32) (hy : y < 2 ^ 32) : Fits [x, y] := fits_cons hx (fits_one hy)

theorem fits_three (hx : x < 2 ^ 32) (hy : y < 2 ^ 32) (hz : z < 2 ^ 32) : Fits [x, y, z] := fits_cons hx (fits_two hy hz)

end

/-- The words of an instruction without reserved values fit into 32 bits; the cases are the layouts of R20 with their operands, and the
events, which have no word. -/
theorem encode_fits (i : Instr) (hw : WellFormed i = true) : Fits (encode i) := by
  cases i
  case add | sub | mul | mulh | div | rem | min | max | slt | seq =>
    exact fits_one (encT_lt (reg_code_lt _) (src_code_lt _) (src_code_lt _) (ity_code_lt _))
  case and | or | xor | andn | shl | shr | sra | rot | fminF32 | fmaxF32 | fcmpF32 | fminF64 | fmaxF64 | fcmpF64 | nnew
     | rule =>
    exact fits_one (encT_lt (reg_code_lt _) (src_code_lt _) (src_code_lt _) (by decide))
  case clz | ctz | popc =>
    exact fits_one (encT_lt (reg_code_lt _) (src_code_lt _) (by decide) (bty_code_lt _))
  case sextI8 | sextI16 | sextI32 | zextN8 | zextN16 | zextN32 | park | vclaim | vren | sput | sget | sclose =>
    exact fits_one (encT_lt (reg_code_lt _) (src_code_lt _) (by decide) (by decide))
  case bfx =>
    exact fits_two (encT_lt (reg_code_lt _) (src_code_lt _) (by decide) ((bitOf_lt _).trans (by decide))) (fieldWord_lt _ _)
  case bfi =>
    exact fits_two (encT_lt (reg_code_lt _) (src_code_lt _) (by decide) (by decide)) (fieldWord_lt _ _)
  case li =>
    exact fits_one (encI_lt (reg_code_lt _) (by decide) (BitVec.isLt _))
  case liLit32 =>
    exact fits_two (encI_lt (reg_code_lt _) (by decide) (by decide)) (BitVec.isLt _)
  case liCidx =>
    exact fits_two (encI_lt (reg_code_lt _) (by decide) (by decide)) (fin_lt _ (by decide))
  case faddF32 | faddF64 | fsubF32 | fsubF64 | fmulF32 | fmulF64 | fmaF32 | fmaF64 | fdivF32 | fdivF64 =>
    exact fits_one (encT_lt (reg_code_lt _) (src_code_lt _) (src_code_lt _) (rnd_code_lt _))
  case fsqrt =>
    exact fits_one (encT_lt (reg_code_lt _) (src_code_lt _) (by split <;> decide) (rnd_code_lt _))
  case fcvt =>
    exact fits_one (encT_lt (reg_code_lt _) (src_code_lt _) (etyPair_lt _ _) (rnd_code_lt _))
  case nop | csrr | csrw =>
    exact fits_one (encS_lt (reg_code_lt _) (BitVec.isLt _))
  case br =>
    exact fits_one (encB_lt (by decide) (by decide) (BitVec.isLt _))
  case brFar | callFar =>
    exact fits_two (encB_lt (by decide) (by decide) (by decide)) (BitVec.isLt _)
  case bz | bnz =>
    exact fits_one (encB_lt (reg_code_lt _) (encCond_lt _ _) (BitVec.isLt _))
  case beq | bne | blt | bge =>
    exact fits_two (encB_lt (reg_code_lt _) (encCond_lt _ _) (BitVec.isLt _)) (encOpnd_lt _)
  case call =>
    exact fits_one (encB_lt (frame_lt hw) (by decide) (BitVec.isLt _))
  case callx =>
    exact fits_one (encT_lt (frame_lt hw) (rc_code_lt _) (by decide) (by decide))
  case ret | lend | yield | eret | hret =>
    exact fits_one (encS_lt (by decide) (by decide))
  case loop =>
    exact fits_one (encB_lt (reg_code_lt _) (by decide) (BitVec.isLt _))
  case lfor =>
    exact fits_two (encB_lt (reg_code_lt _) ((ity_code_lt _).trans (by decide)) (BitVec.isLt _)) (loopWord_lt _ _)
  case trap =>
    exact fits_one (encI_lt (by decide) (src_code_lt _) (BitVec.isLt _))
  case bkpt =>
    exact fits_one (encI_lt (by decide) (by decide) (BitVec.isLt _))
  case ldbI8 | ldbN8 | ldhI16 | ldhN16 | ldI32 | ldN32 | ld | stb | sth | stN32 | st | ldAcq | stRel | ldAcqN32 |
     stRelN32 | aadd | axch | aminI64 | aminN64 | amaxI64 | amaxN64 | aand | aor | badd =>
    exact fits_one (encM_lt (reg_code_lt _) (reg_code_lt _) (BitVec.isLt _))
  case acas | bcas =>
    exact fits_two (encM_lt (reg_code_lt _) (reg_code_lt _) (BitVec.isLt _)) (encOpnd_lt _)
  case prefCode | prefHeap =>
    exact fits_one (encM_lt (by decide) (reg_code_lt _) (BitVec.isLt _))
  case fenceSc =>
    exact fits_one (encI_lt (by decide) (by decide) (Nat.zero_add (Scope.enc _) ▸ scope_lt _ (by decide)))
  case fenceSl | fenceAcq | fenceRel =>
    exact fits_one (encI_lt (by decide) (by decide) (scope_lt _ (by decide)))
  case nfree | nown =>
    exact fits_one (encT_lt (reg_code_lt _) (reg_code_lt256 _) (by decide) (by decide))
  case nld | nst =>
    exact fits_one (encM_lt (reg_code_lt _) (reg_code_lt _) (fin_lt _ (by decide)))
  case pget =>
    exact fits_one (encT_lt (reg_code_lt _) (reg_code_lt256 _) (src_code_lt _) (by decide))
  case plink | splice | spliceJ =>
    exact fits_one (encT_lt (by decide) (reg_code_lt256 _) (reg_code_lt256 _) (by decide))
  case ndup =>
    exact fits_one (encT_lt (reg_code_lt _) (reg_code_lt256 _) (reg_code_lt256 _) (by decide))
  case rpush | meet =>
    exact fits_one (encT_lt (fin_lt _ (by decide)) (reg_code_lt256 _) (reg_code_lt256 _) (by decide))
  case rpop =>
    exact fits_one (encT_lt (fin_lt _ (by decide)) (by decide) (by decide) (by decide))
  case fork =>
    exact fits_two (encT_lt (fin_lt _ (by decide)) (rc_code_lt _) (src_code_lt _) (by decide)) (encOpnd_lt _)
  case join | bfmtRd | sopen =>
    exact fits_one (encT_lt (reg_code_lt _) (rc_code_lt _) (by decide) (by decide))
  case vyield =>
    exact fits_one (encT_lt (by decide) (by decide) (by decide) (by decide))
  case vld | vst =>
    exact fits_one (encM_lt (encV_lt _ _) (reg_code_lt _) (BitVec.isLt _))
  case vgath =>
    exact fits_one (encT_lt (encV_lt _ _) (rc_code_lt _) (vecField_lt _) (pred_code_lt _))
  case vadd | vsub | vmul | vmulz | vfma | vmin | vmax =>
    exact fits_one (encT_lt (encV_lt _ _) (vsrc_code_lt _) (vsrc_code_lt _) (pred_code_lt _))
  case vcmp =>
    exact fits_one (encT_lt (vtyMask_lt _ _) (vsrc_code_lt _) (vsrc_code_lt _) (rel_code_lt _))
  case vsel =>
    exact fits_one (encT_lt (encV_lt _ _) (vsrc_code_lt _) (vsrc_code_lt _) (fin_lt _ (by decide)))
  case vcvt =>
    exact fits_one (encT_lt (encV_lt _ _) (vsrc_code_lt _) (vtyRnd_lt _ _) (pred_code_lt _))
  case vsum | vmaxr =>
    exact fits_one (encT_lt (reg_code_lt _) (rc_code_lt _) (src_code_lt _) (vty_code_lt _))
  case vredq =>
    exact fits_one (encT_lt (reg_code_lt _) (fin_lt _ (by decide)) (reg_code_lt256 _) (vty_code_lt _))
  case vxp =>
    exact fits_three (encT_lt (encV_lt _ _) (vsrc_code_lt _) (vsrc_code_lt _) (pred_code_lt _)) (Nat.mod_lt _ (by decide))
      (vxpWord_lt _ _ _)
  case vrank | vselect =>
    exact fits_one (encT_lt (encV_lt _ _) (rc_code_lt _) (vsrc_code_lt _) (pred_code_lt _))
  case vpopc =>
    exact fits_one (encT_lt (encV_lt _ _) (vsrc_code_lt _) (by decide) (pred_code_lt _))
  case vshuf =>
    exact fits_one (encT_lt (encV_lt _ _) (vecField_lt _) (vsrc_code_lt _) (pred_code_lt _))
  case vbcast =>
    exact fits_one (encT_lt (encV_lt _ _) (src_code_lt _) (by decide) (pred_code_lt _))
  case vidx =>
    exact fits_one (encT_lt (encV_lt _ _) (src_code_lt _) (src_code_lt _) (pred_code_lt _))
  case qset =>
    exact fits_two (encT_lt (fin_lt _ (by decide)) (rc_code_lt _) (by decide) (by decide)) (ringWord_lt _ _)
  case qsetClr =>
    exact fits_two (encT_lt (fin_lt _ (by decide)) (by decide) (by decide) (by decide)) (by decide)
  case qwait | qresv | eclaim | ecap | eclr =>
    exact fits_one (encT_lt (reg_code_lt _) (fin_lt _ (by decide)) (src_code_lt _) (by decide))
  case qadvP | qadvC =>
    exact fits_one (encT_lt (by decide) (fin_lt _ (by decide)) (src_code_lt _) (by decide))
  case qhead | ecnt =>
    exact fits_one (encT_lt (reg_code_lt _) (fin_lt _ (by decide)) (by decide) (by decide))
  case bclaim =>
    exact fits_one (encT_lt (reg_code_lt _) (by decide) (by decide) ((bitOf_lt _).trans (by decide)))
  case bfree | bpairClr | barr | barrDis | tunbind =>
    exact fits_one (encT_lt (by decide) (rc_code_lt _) (by decide) (by decide))
  case bfmt | sbwait | sbwaitR =>
    exact fits_one (encT_lt (by decide) (rc_code_lt _) (src_code_lt _) (by decide))
  case bfmtTab =>
    exact fits_one (encT_lt (by decide) (src_code_lt _) (src_code_lt _) (by decide))
  case bpair | tbind =>
    exact fits_one (encT_lt (reg_code_lt _) (rc_code_lt _) (rc_code_lt _) (by decide))
  case sbq =>
    exact fits_one (encT_lt (reg_code_lt _) (by decide) (by decide) (by decide))
  case barrArm | bwait | bwaitG | bstat | vexp2 | vlog2 | vrcp | vrsq | vtanh =>
    exact fits_one (encT_lt (reg_code_lt _) (rc_code_lt _) (src_code_lt _) (by decide))
  case eclrFree =>
    exact fits_one (encT_lt (by decide) (fin_lt _ (by decide)) (by decide) (by decide))
  case eins | eeval | eread =>
    exact fits_one (encT_lt (fin_lt _ (by decide)) (rc_code_lt _) (src_code_lt _) (by decide))
  case emax | esum | einf =>
    exact fits_one (encT_lt (fin_lt _ (by decide)) (fin_lt _ (by decide)) (fin_lt _ (by decide)) (by decide))
  case eleg =>
    exact fits_one (encT_lt (fin_lt _ (by decide)) (fin_lt _ (by decide)) (by decide) (by decide))
  case send =>
    exact fits_one (encT_lt (reg_code_lt _) (rc_code_lt _) (src_code_lt _) (by split <;> decide))
  case sendi | aaddRemote | axchRemote | aandRemote | aorRemote =>
    exact fits_one (encT_lt (reg_code_lt _) (rc_code_lt _) (src_code_lt _) ((bitOf_lt _).trans (by decide)))
  case acasRemote =>
    exact fits_two (encT_lt (reg_code_lt _) (rc_code_lt _) (src_code_lt _) ((bitOf_lt _).trans (by decide))) (encOpnd_lt _)
  case aminRemote | amaxRemote =>
    exact fits_one (encT_lt (reg_code_lt _) (rc_code_lt _) (src_code_lt _) (twoBits_lt _ _))
  case cyc | binjArm | launchRead | mvgo | mvwait | hidx | hidxw =>
    exact fits_one (encS_lt (reg_code_lt _) (by decide))
  case syscBeat | syscInfo | syscFail =>
    exact fits_one (encI_lt (reg_code_lt _) (src_code_lt _) (by decide))
  all_goals exact fits_nil

/-! ### Words and their bytes (R18) -/

/-- A word that fits is read back from its four bytes. -/
theorem bytesToIWords_word {w : Nat} (h : w < 2 ^ 32) (bs : List Byte) :
    bytesToIWords (BitVec.ofNat 8 w :: BitVec.ofNat 8 (w / 256) :: BitVec.ofNat 8 (w / 65536) :: BitVec.ofNat 8 (w / 16777216) :: bs) =
      w :: bytesToIWords bs := by
  simp only [bytesToIWords, BitVec.toNat_ofNat]
  congr 1
  omega

/-- Words that fit are read back from their bytes, whatever bytes follow. -/
theorem bytesToIWords_append {ws : List Nat} (h : Fits ws) (rest : List Byte) :
    bytesToIWords (iwordsToBytes ws ++ rest) = ws ++ bytesToIWords rest := by
  induction ws with
  | nil => rfl
  | cons w ws ih =>
    obtain ⟨hw, hws⟩ := List.forall_mem_cons.mp h
    exact (bytesToIWords_word hw _).trans (congrArg (w :: ·) (ih hws))

/-! ### The round trip of every constructor -/

/-- The words of every instruction decode to it; an event has no words. -/
theorem roundTrip (i : Instr) : RoundTrip.Statement i := by
  cases i
  case add => exact RoundTrip.add _ _ _ _
  case sub => exact RoundTrip.sub _ _ _ _
  case mul => exact RoundTrip.mul _ _ _ _
  case mulh => exact RoundTrip.mulh _ _ _ _
  case div => exact RoundTrip.div _ _ _ _
  case rem => exact RoundTrip.rem _ _ _ _
  case min => exact RoundTrip.min _ _ _ _
  case max => exact RoundTrip.max _ _ _ _
  case slt => exact RoundTrip.slt _ _ _ _
  case seq => exact RoundTrip.seq _ _ _ _
  case and => exact RoundTrip.and _ _ _
  case or => exact RoundTrip.or _ _ _
  case xor => exact RoundTrip.xor _ _ _
  case andn => exact RoundTrip.andn _ _ _
  case shl => exact RoundTrip.shl _ _ _
  case shr => exact RoundTrip.shr _ _ _
  case sra => exact RoundTrip.sra _ _ _
  case rot => exact RoundTrip.rot _ _ _
  case clz => exact RoundTrip.clz _ _ _
  case ctz => exact RoundTrip.ctz _ _ _
  case popc => exact RoundTrip.popc _ _ _
  case sextI8 => exact RoundTrip.sextI8 _ _
  case sextI16 => exact RoundTrip.sextI16 _ _
  case sextI32 => exact RoundTrip.sextI32 _ _
  case zextN8 => exact RoundTrip.zextN8 _ _
  case zextN16 => exact RoundTrip.zextN16 _ _
  case zextN32 => exact RoundTrip.zextN32 _ _
  case bfx => exact RoundTrip.bfx _ _ _ _ _
  case bfi => exact RoundTrip.bfi _ _ _ _
  case li => exact RoundTrip.li _ _
  case liLit32 => exact RoundTrip.liLit32 _ _
  case liCidx => exact RoundTrip.liCidx _ _
  case faddF32 => exact RoundTrip.faddF32 _ _ _ _
  case faddF64 => exact RoundTrip.faddF64 _ _ _ _
  case fsubF32 => exact RoundTrip.fsubF32 _ _ _ _
  case fsubF64 => exact RoundTrip.fsubF64 _ _ _ _
  case fmulF32 => exact RoundTrip.fmulF32 _ _ _ _
  case fmulF64 => exact RoundTrip.fmulF64 _ _ _ _
  case fmaF32 => exact RoundTrip.fmaF32 _ _ _ _
  case fmaF64 => exact RoundTrip.fmaF64 _ _ _ _
  case fdivF32 => exact RoundTrip.fdivF32 _ _ _ _
  case fdivF64 => exact RoundTrip.fdivF64 _ _ _ _
  case fminF32 => exact RoundTrip.fminF32 _ _ _
  case fmaxF32 => exact RoundTrip.fmaxF32 _ _ _
  case fcmpF32 => exact RoundTrip.fcmpF32 _ _ _
  case fminF64 => exact RoundTrip.fminF64 _ _ _
  case fmaxF64 => exact RoundTrip.fmaxF64 _ _ _
  case fcmpF64 => exact RoundTrip.fcmpF64 _ _ _
  case fsqrt => exact RoundTrip.fsqrt _ _ _ _
  case fcvt => exact RoundTrip.fcvt _ _ _ _ _
  case nop => exact RoundTrip.nop _ _
  case br => exact RoundTrip.br _
  case brFar => exact RoundTrip.brFar _
  case bz => exact RoundTrip.bz _ _ _ _
  case bnz => exact RoundTrip.bnz _ _ _ _
  case beq => exact RoundTrip.beq _ _ _ _ _
  case bne => exact RoundTrip.bne _ _ _ _ _
  case blt => exact RoundTrip.blt _ _ _ _ _
  case bge => exact RoundTrip.bge _ _ _ _ _
  case call => exact RoundTrip.call _ _
  case callFar => exact RoundTrip.callFar _
  case callx => exact RoundTrip.callx _ _
  case ret => exact RoundTrip.ret
  case loop => exact RoundTrip.loop _ _
  case lfor => exact RoundTrip.lfor _ _ _ _ _
  case lend => exact RoundTrip.lend
  case park => exact RoundTrip.park _ _
  case yield => exact RoundTrip.yield
  case trap => exact RoundTrip.trap _ _
  case eret => exact RoundTrip.eret
  case bkpt => exact RoundTrip.bkpt _
  case ldbI8 => exact RoundTrip.ldbI8 _ _ _
  case ldbN8 => exact RoundTrip.ldbN8 _ _ _
  case ldhI16 => exact RoundTrip.ldhI16 _ _ _
  case ldhN16 => exact RoundTrip.ldhN16 _ _ _
  case ldI32 => exact RoundTrip.ldI32 _ _ _
  case ldN32 => exact RoundTrip.ldN32 _ _ _
  case ld => exact RoundTrip.ld _ _ _
  case stb => exact RoundTrip.stb _ _ _
  case sth => exact RoundTrip.sth _ _ _
  case stN32 => exact RoundTrip.stN32 _ _ _
  case st => exact RoundTrip.st _ _ _
  case ldAcq => exact RoundTrip.ldAcq _ _ _
  case stRel => exact RoundTrip.stRel _ _ _
  case ldAcqN32 => exact RoundTrip.ldAcqN32 _ _ _
  case stRelN32 => exact RoundTrip.stRelN32 _ _ _
  case aadd => exact RoundTrip.aadd _ _ _
  case acas => exact RoundTrip.acas _ _ _ _
  case axch => exact RoundTrip.axch _ _ _
  case aminI64 => exact RoundTrip.aminI64 _ _ _
  case aminN64 => exact RoundTrip.aminN64 _ _ _
  case amaxI64 => exact RoundTrip.amaxI64 _ _ _
  case amaxN64 => exact RoundTrip.amaxN64 _ _ _
  case aand => exact RoundTrip.aand _ _ _
  case aor => exact RoundTrip.aor _ _ _
  case badd => exact RoundTrip.badd _ _ _
  case bcas => exact RoundTrip.bcas _ _ _ _
  case prefCode => exact RoundTrip.prefCode _ _
  case prefHeap => exact RoundTrip.prefHeap _ _
  case fenceSc => exact RoundTrip.fenceSc _
  case fenceSl => exact RoundTrip.fenceSl _
  case fenceAcq => exact RoundTrip.fenceAcq _
  case fenceRel => exact RoundTrip.fenceRel _
  case nnew => exact RoundTrip.nnew _ _ _
  case nfree => exact RoundTrip.nfree _ _
  case nld => exact RoundTrip.nld _ _ _
  case nst => exact RoundTrip.nst _ _ _
  case pget => exact RoundTrip.pget _ _ _
  case plink => exact RoundTrip.plink _ _
  case splice => exact RoundTrip.splice _ _
  case spliceJ => exact RoundTrip.spliceJ _ _
  case ndup => exact RoundTrip.ndup _ _ _
  case nown => exact RoundTrip.nown _ _
  case rpush => exact RoundTrip.rpush _ _ _
  case rpop => exact RoundTrip.rpop _
  case meet => exact RoundTrip.meet _ _ _
  case rule => exact RoundTrip.rule _ _ _
  case fork => exact RoundTrip.fork _ _ _ _
  case join => exact RoundTrip.join _ _
  case vclaim => exact RoundTrip.vclaim _ _
  case vyield => exact RoundTrip.vyield
  case vren => exact RoundTrip.vren _ _
  case vld => exact RoundTrip.vld _ _ _ _
  case vst => exact RoundTrip.vst _ _ _ _
  case vgath => exact RoundTrip.vgath _ _ _ _ _
  case vadd => exact RoundTrip.vadd _ _ _ _ _
  case vsub => exact RoundTrip.vsub _ _ _ _ _
  case vmul => exact RoundTrip.vmul _ _ _ _ _
  case vmulz => exact RoundTrip.vmulz _ _ _ _ _
  case vfma => exact RoundTrip.vfma _ _ _ _ _
  case vmin => exact RoundTrip.vmin _ _ _ _ _
  case vmax => exact RoundTrip.vmax _ _ _ _ _
  case vcmp => exact RoundTrip.vcmp _ _ _ _ _
  case vsel => exact RoundTrip.vsel _ _ _ _ _
  case vcvt => exact RoundTrip.vcvt _ _ _ _ _ _
  case vsum => exact RoundTrip.vsum _ _ _ _
  case vmaxr => exact RoundTrip.vmaxr _ _ _ _
  case vredq => exact RoundTrip.vredq _ _ _ _
  case vxp => exact RoundTrip.vxp _ _ _ _ _ _ _ _
  case vrank => exact RoundTrip.vrank _ _ _ _
  case vselect => exact RoundTrip.vselect _ _ _ _
  case vpopc => exact RoundTrip.vpopc _ _ _
  case vshuf => exact RoundTrip.vshuf _ _ _ _ _
  case vbcast => exact RoundTrip.vbcast _ _ _ _
  case vidx => exact RoundTrip.vidx _ _ _ _ _
  case qset => exact RoundTrip.qset _ _ _ _
  case qsetClr => exact RoundTrip.qsetClr _
  case qwait => exact RoundTrip.qwait _ _ _
  case qresv => exact RoundTrip.qresv _ _ _
  case qadvP => exact RoundTrip.qadvP _ _
  case qadvC => exact RoundTrip.qadvC _ _
  case qhead => exact RoundTrip.qhead _ _
  case bclaim => exact RoundTrip.bclaim _ _
  case bfree => exact RoundTrip.bfree _
  case bfmt => exact RoundTrip.bfmt _ _
  case bfmtTab => exact RoundTrip.bfmtTab _ _
  case bfmtRd => exact RoundTrip.bfmtRd _ _
  case bpair => exact RoundTrip.bpair _ _ _
  case bpairClr => exact RoundTrip.bpairClr _
  case sbq => exact RoundTrip.sbq _
  case sbwait => exact RoundTrip.sbwait _ _
  case sbwaitR => exact RoundTrip.sbwaitR _ _
  case barr => exact RoundTrip.barr _
  case barrArm => exact RoundTrip.barrArm _ _ _
  case barrDis => exact RoundTrip.barrDis _
  case bwait => exact RoundTrip.bwait _ _ _
  case bwaitG => exact RoundTrip.bwaitG _ _ _
  case bstat => exact RoundTrip.bstat _ _ _
  case eclaim => exact RoundTrip.eclaim _ _ _
  case ecap => exact RoundTrip.ecap _ _ _
  case eclr => exact RoundTrip.eclr _ _ _
  case eclrFree => exact RoundTrip.eclrFree _
  case eins => exact RoundTrip.eins _ _ _
  case emax => exact RoundTrip.emax _ _ _
  case esum => exact RoundTrip.esum _ _ _
  case einf => exact RoundTrip.einf _ _ _
  case eleg => exact RoundTrip.eleg _ _
  case eeval => exact RoundTrip.eeval _ _ _
  case eread => exact RoundTrip.eread _ _ _
  case ecnt => exact RoundTrip.ecnt _ _
  case vexp2 => exact RoundTrip.vexp2 _ _ _
  case vlog2 => exact RoundTrip.vlog2 _ _ _
  case vrcp => exact RoundTrip.vrcp _ _ _
  case vrsq => exact RoundTrip.vrsq _ _ _
  case vtanh => exact RoundTrip.vtanh _ _ _
  case send => exact RoundTrip.send _ _ _ _
  case sendi => exact RoundTrip.sendi _ _ _ _
  case hret => exact RoundTrip.hret
  case aaddRemote => exact RoundTrip.aaddRemote _ _ _ _
  case acasRemote => exact RoundTrip.acasRemote _ _ _ _ _
  case axchRemote => exact RoundTrip.axchRemote _ _ _ _
  case aminRemote => exact RoundTrip.aminRemote _ _ _ _ _
  case amaxRemote => exact RoundTrip.amaxRemote _ _ _ _ _
  case aandRemote => exact RoundTrip.aandRemote _ _ _ _
  case aorRemote => exact RoundTrip.aorRemote _ _ _ _
  case tbind => exact RoundTrip.tbind _ _ _
  case tunbind => exact RoundTrip.tunbind _
  case csrr => exact RoundTrip.csrr _ _
  case csrw => exact RoundTrip.csrw _ _
  case cyc => exact RoundTrip.cyc _
  case binjArm => exact RoundTrip.binjArm _
  case launchRead => exact RoundTrip.launchRead _
  case syscBeat => exact RoundTrip.syscBeat _ _
  case syscInfo => exact RoundTrip.syscInfo _ _
  case syscFail => exact RoundTrip.syscFail _ _
  case sopen => exact RoundTrip.sopen _ _
  case sput => exact RoundTrip.sput _ _
  case sget => exact RoundTrip.sget _ _
  case sclose => exact RoundTrip.sclose _ _
  case mvgo => exact RoundTrip.mvgo _
  case mvwait => exact RoundTrip.mvwait _
  case hidx => exact RoundTrip.hidx _
  case hidxw => exact RoundTrip.hidxw _
  all_goals exact fun _ encoded => absurd rfl encoded

/-- Settles O58: the decoder reads the instruction's words back from their bytes, and the words decode to the instruction. -/
theorem everyEncodingDecodesBack : Obligations.EveryEncodingDecodesBack := by
  intro i rest hw encoded
  rw [decode, bytesToIWords_append (encode_fits i hw)]
  exact roundTrip i hw encoded (bytesToIWords rest)

end Sys2Proof.Laws
end

section
/-! Registers (R21) and the scalar integer instructions (R91 to R94): what each writes, the word functions behind the counts and
the extensions, and the fields of BFX and BFI. -/

namespace Sys2Proof

/-! ### Extensions (R92) -/

/-- The low `n` bits as two's complement, in a word, are the word's low `n` bits extended by sign. -/
theorem ofInt_sextN (n : Nat) (x : Word) : ofInt (sextN n x.toNat) = (x.truncate n).signExtend 64 := by
  rw [ofInt, BitVec.signExtend, BitVec.toInt_eq_toNat_cond]
  simp only [sextN, BitVec.truncate_eq_setWidth, BitVec.toNat_setWidth]

/-- The low `n` bits as a number, in a word, are the word's low `n` bits extended by zeros. -/
theorem wordOf_mod (n : Nat) (x : Word) : Word.of (x.toNat % 2 ^ n) = (x.truncate n).zeroExtend 64 :=
  BitVec.eq_of_toNat_eq (by simp)

/-! ### Counts (R92) -/

theorem clzN_zero {w x : Nat} (h : x % 2 ^ w = 0) : clzN w x = w := if_pos h

/-- A number whose low n + 1 bits are zero is even, and the low n bits of its half are zero. -/
theorem low_bits_half {n x : Nat} (h : x % 2 ^ (n + 1) = 0) : x % 2 = 0 ∧ x / 2 % 2 ^ n = 0 := by
  have dvd : 2 * 2 ^ n ∣ x := by rw [← Nat.pow_succ']; exact Nat.dvd_of_mod_eq_zero h
  obtain ⟨k, rfl⟩ := dvd
  rw [Nat.mul_assoc]
  exact ⟨Nat.mul_mod_right 2 _, by rw [Nat.mul_div_cancel_left _ (by decide), Nat.mul_mod_right]⟩

theorem ctzFrom_zero {w x : Nat} (h : x % 2 ^ w = 0) (i : Nat) : ctzFrom w x i = i + w := by
  induction w generalizing x i with
  | zero => rfl
  | succ w ih =>
    obtain ⟨even, half⟩ := low_bits_half h
    rw [ctzFrom, if_neg (by omega), ih half]
    omega

theorem popcN_zero {w x : Nat} (h : x % 2 ^ w = 0) : popcN w x = 0 := by
  induction w generalizing x with
  | zero => rfl
  | succ w ih =>
    obtain ⟨even, half⟩ := low_bits_half h
    rw [popcN, even, ih half]

/-! ### Fields (R93) -/

/-- The bits of a word after its field [hi:lo] has been replaced. -/
theorem setBits_getLsbD (x : Word) {hi lo : Nat} (v : Nat) {i : Nat} (order : lo ≤ hi) (hi64 : i < 64) :
    (setBits x hi lo v).getLsbD i = if lo ≤ i ∧ i ≤ hi then v.testBit (i - lo) else x.getLsbD i := by
  simp only [setBits, BitVec.getLsbD_or, BitVec.getLsbD_and, BitVec.getLsbD_not, BitVec.getLsbD_ofNat, Nat.testBit_shiftLeft,
    Nat.testBit_two_pow_sub_one, Nat.testBit_mod_two_pow, hi64, decide_true, Bool.true_and]
  by_cases below : lo ≤ i
  · by_cases above : i ≤ hi
    · have inside : i - lo < hi + 1 - lo := by omega
      simp [below, above, inside]
    · have outside : ¬ i - lo < hi + 1 - lo := by omega
      simp [below, above, outside]
  · simp [below]

namespace Machine

variable (s : State)

/-- Settles O1: the rule for a register read after a write, at the same register and at another. -/
theorem registerReadsAfterWrite : Obligations.RegisterReadsAfterWrite := by
  intro s d r v
  refine ⟨reg_g0 s, setReg_g0 s v, fun written => ?same, fun other => ?other, setReg_pc s d v, fun a => by rw [setReg_mem]⟩
  case same => rw [reg_setReg, if_pos rfl, if_neg written]
  case other => rw [reg_setReg, if_neg other]

/-! ### The integer instructions (R91) -/

/-- A truth value needs no narrowing. -/
@[simp] theorem wrap_intOf (t : ITy) (b : Bool) : t.wrap (intOf b) = if b then 1 else 0 := by
  cases t <;> cases b <;> decide

/-- The quotient of R14, narrowed, with -1 for a zero divisor. -/
theorem wrap_quot (t : ITy) (x y : Int) : t.wrap (t.quot x y) = t.wrap (if y = 0 then -1 else x.tdiv y) := by
  by_cases zero : y = 0
  · rw [zero, ITy.wrap_quot_zero, if_pos rfl]
  · rw [ITy.quot, if_neg zero, if_neg zero]

/-- Settles O2: each is an integer operation, which completes in every state; DIV's quotient by zero narrows as -1, and the results of
SLT and SEQ need no narrowing. -/
theorem integerArithmeticResults : Obligations.IntegerArithmeticResults := by
  intro s t d a b
  have op := intOp_wrote s t d a b
  refine ⟨op (· + ·), op (· - ·), op (· * ·), op fun x y => (x * y).fdiv (2 ^ t.width : Nat), ?div, op t.modulo, op intMin, op intMax,
    ?slt, ?seq⟩
  case div => have done := op t.quot; rwa [wrap_quot] at done
  case slt => have done := op fun x y => intOf (x < y); simp only [wrap_intOf, decide_eq_true_eq] at done; exact done
  case seq => have done := op fun x y => intOf (x = y); simp only [wrap_intOf, decide_eq_true_eq] at done; exact done

/-! ### Instructions on 64 bits (R91 to R94) -/

/-- An operation on two words completes in every state and writes nothing but its result. -/
theorem bitOp_wrote (d : Reg) (a b : Src) (f : Word → Word → Word) :
    ∃ u, s.bitOp d a b f = .next u ∧ wrote 1 d (f (s.src a) (s.src b)) s u :=
  next_result_wrote s 1 d _

/-- An operation on one word completes in every state and writes nothing but its result. -/
theorem unOp_wrote (d : Reg) (a : Src) (f : Word → Word) : ∃ u, s.unOp d a f = .next u ∧ wrote 1 d (f (s.src a)) s u :=
  next_result_wrote s 1 d _

/-- BFI replaces the bits of d from `pos` on, `len` of them. -/
theorem bfi_bits (x v : Word) {pos len : Nat} (ok : fieldOk pos len = true) {i : Nat} (hi : i < 64) :
    (setBits x (pos + len - 1) pos v.toNat).getLsbD i =
      if pos ≤ i ∧ i < pos + len then v.getLsbD (i - pos) else x.getLsbD i := by
  simp only [fieldOk, Bool.and_eq_true, decide_eq_true_eq] at ok
  have inField : (pos ≤ i ∧ i ≤ pos + len - 1) ↔ (pos ≤ i ∧ i < pos + len) := by omega
  rw [setBits_getLsbD x v.toNat (by omega) hi]
  simp only [inField]
  rfl

/-- Settles O4: each instruction is an operation on one or two words, or writes a field, an immediate or a constant. -/
theorem bitwiseCountFieldAndImmediateResults : Obligations.BitwiseCountFieldAndImmediateResults := by
  refine ⟨fun s d a b => ?words, fun s t d a => ?counts, fun s d a pos len imm lit k => ?fields⟩
  case words =>
    have op := bitOp_wrote s d a b
    exact ⟨op (· &&& ·), op (· ||| ·), op (· ^^^ ·), op fun x y => x &&& ~~~y, op fun x y => x <<< bits y 5 0,
      op fun x y => x >>> bits y 5 0, op fun x y => x.sshiftRight (bits y 5 0), op fun x y => x.rotateLeft (bits y 5 0)⟩
  case counts =>
    have op := unOp_wrote s d a
    refine ⟨op fun x => Word.of (clzN (bwidth t) x.toNat), op fun x => Word.of (ctzFrom (bwidth t) x.toNat 0),
      op fun x => Word.of (popcN (bwidth t) x.toNat), fun zero => ⟨?clz, ?ctz, ?popc⟩, ?_, ?_, ?_, ?_, ?_, ?_⟩
    case clz => have done := op fun x => Word.of (clzN (bwidth t) x.toNat); rwa [clzN_zero zero] at done
    case ctz => have done := op fun x => Word.of (ctzFrom (bwidth t) x.toNat 0); rwa [ctzFrom_zero zero, Nat.zero_add] at done
    case popc => have done := op fun x => Word.of (popcN (bwidth t) x.toNat); rwa [popcN_zero zero] at done
    · rw [← ofInt_sextN]; exact op fun x => ofInt (sextN 8 x.toNat)
    · rw [← ofInt_sextN]; exact op fun x => ofInt (sextN 16 x.toNat)
    · rw [← ofInt_sextN]; exact op fun x => ofInt (sextN 32 x.toNat)
    · rw [← wordOf_mod]; exact op fun x => Word.of (x.toNat % 2 ^ 8)
    · rw [← wordOf_mod]; exact op fun x => Word.of (x.toNat % 2 ^ 16)
    · rw [← wordOf_mod]; exact op fun x => Word.of (x.toNat % 2 ^ 32)
  case fields =>
    refine ⟨fun ok => ⟨?natural, ?signed, _, _, rfl, result_wrote s 2 d _, fun i hi => bfi_bits _ _ ok hi⟩,
      next_result_wrote s 1 d _, next_result_wrote s 2 d _, next_result_wrote s 2 d _⟩
    case natural => rw [← Nat.shiftRight_eq_div_pow]; exact next_result_wrote s 2 d _
    case signed => rw [← Nat.shiftRight_eq_div_pow]; exact next_result_wrote s 2 d _

end Machine

end Sys2Proof
end

section
/-! The scalar floating-point instructions (R95 to R97, R52): each writes one rounded result. -/

namespace Sys2Proof.Machine

variable (s : State)

/-- The lower 64 bits of a number are all that a word keeps. -/
@[simp] theorem wordOf_mod_width (v : Nat) : Word.of (v % 2 ^ 64) = Word.of v := BitVec.eq_of_toNat_eq (by simp)

/-- A floating-point operation completes in every state and writes nothing but its result, cut to the format's width (R29). -/
theorem fOp_wrote (t : ETy) (d : Reg) (a b : Src) (f : Nat → Nat → Nat) :
    ∃ u, s.fOp t d a b f = .next u ∧ wrote 1 d (Word.of (f (s.fsrc t a) (s.fsrc t b) % 2 ^ t.width)) s u :=
  next_result_wrote s 1 d _

/-- A result of .f64 fills its register. -/
theorem fOp_f64_wrote (d : Reg) (a b : Src) (f : Nat → Nat → Nat) :
    ∃ u, s.fOp .f64 d a b f = .next u ∧ wrote 1 d (Word.of (f (s.fsrc .f64 a) (s.fsrc .f64 b))) s u := by
  have done := fOp_wrote s .f64 d a b f
  rwa [show ETy.width .f64 = 64 from rfl, wordOf_mod_width] at done

/-- FCVT's source is the operand's bits, but for a literal read as a floating-point type. -/
theorem esrc_of_bits {t : ETy} {a : Src} (h : (∀ l, a ≠ .lit l) ∨ t.isInt = true) : s.esrc t a = (s.src a).toNat % 2 ^ t.width := by
  cases int : t.isInt
  case true => exact if_pos int
  case false =>
    cases a with
    | lit l => exact absurd rfl (h.resolve_right (by simp [int]) l)
    | reg r => simp [State.esrc, int, State.fsrc]
    | const k => simp [State.esrc, int, State.fsrc]

/-- FCVT's source is the bits of a literal's value, where a floating-point type holds the value exactly (R28). -/
theorem esrc_of_exact {t : ETy} {l : BitVec 6} (float : t.isInt = false) (exact_ : litExact t l = true) :
    s.esrc t (.lit l) = litBits t l.toInt := by
  simp [State.esrc, float, exact_]

@[simp] theorem fdst_f64 (d : Reg) : s.fdst .f64 d = (s.reg d).toNat := Nat.mod_eq_of_lt (s.reg d).isLt

/-- FMA.f64 reads the whole of d. -/
theorem exec_fmaF64 (r : Rnd) (d : Reg) (a b : Src) :
    exec (.fmaF64 r d a b) s = s.fOp .f64 d a b fun x y => fFma (ETy.fmt .f64) r x y (s.reg d).toNat := by
  rw [← fdst_f64]; rfl

/-- Settles O5: the two-operand and fused instructions are operations of their format, FCMP writes its code, and FCVT converts the
source that `State.esrc` reads. -/
theorem floatResults : Obligations.FloatResults := by
  refine ⟨fun s r d a b => ?operations, fun s t dst src r d a => ⟨?sqrt, ?convert⟩⟩
  case operations =>
    have single := fOp_wrote s .f32 d a b
    have double := fOp_f64_wrote s d a b
    have code := next_result_wrote s 1 d
    let f := ETy.fmt .f32
    let F := ETy.fmt .f64
    have fused := double fun x y => fFma F r x y (s.reg d).toNat
    rw [← exec_fmaF64] at fused
    exact ⟨single (fAdd f r), double (fAdd F r), single (fSub f r), double (fSub F r), single (fMul f r), double (fMul F r),
      single fun x y => fFma f r x y (s.fdst .f32 d), fused, single (fDiv f r), double (fDiv F r), single (fMin f), single (fMax f),
      code _, double (fMin F), double (fMax F), code _⟩
  case sqrt => exact next_result_wrote s 1 d _
  case convert =>
    exact ⟨_, s.esrc src a, rfl, result_wrote s 1 d _, esrc_of_bits s, fun l lit float exact_ => lit ▸ esrc_of_exact s float exact_⟩

end Sys2Proof.Machine
end

section
/-! NOP and the branches (R35, R98, R102). -/

namespace Sys2Proof.Machine

variable (s : State)

/-! ### Replacing the acting context -/

/-- A register does not change with a context of the same window. -/
theorem reg_setCtx {c : Context} (file : c.file = s.ctx.file) (base : c.base = s.ctx.base) (r : Reg) :
    (s.setCtx c).reg r = s.reg r := by
  cases r <;> simp [State.reg, file, base]

theorem setCtx_ctxOnly (c : Context) : ctxOnly s (s.setCtx c) := ⟨rfl, fun _ other => setCtx_ctxAt_other s c other⟩

/-! ### Branches (R98) -/

/-- A branch changes its context's pc and loop entries only. -/
theorem branch_branched (a : Word) : branched a s (s.branch a) := by
  refine ⟨branch_pc s a, ?loops, reg_setCtx s rfl rfl, setCtx_ctxOnly s _, ?rest⟩
  all_goals rw [State.branch, setCtx_ctx]

/-- A conditional branch is taken where its condition holds, and goes on behind its words elsewhere. -/
theorem branchIf_spec (p : Prop) [Decidable p] (n : Nat) (off : BitVec 15) :
    ∃ u, s.branchIf p n off = .next u ∧ if p then branched (s.target off) s u else wentOn n s u := by
  refine ⟨_, rfl, ?_⟩
  by_cases h : p
  · simpa [h] using branch_branched s (s.target off)
  · simpa [h] using advance_wentOn s n

/-- Settles O6: NOP goes on, BR is taken, and the others are taken by their condition. -/
theorem branchesAndNop : Obligations.BranchesAndNop := by
  intro s t lk c d off far n y
  have cond (p : Prop) [Decidable p] (n : Nat) := branchIf_spec s p n off
  refine ⟨⟨_, rfl, advance_wentOn s 1⟩, ⟨_, rfl, branch_branched s _⟩, ⟨_, rfl, branch_branched s _⟩,
    cond (t.val (s.reg c) = 0) 1, ?bnz, cond (t.val (s.reg c) = s.isrc t y) 2, ?bne, cond (t.val (s.reg c) < s.isrc t y) 2, ?bge⟩
  case bnz => have done := cond (t.val (s.reg c) ≠ 0) 1; simp only [ite_not] at done; exact done
  case bne => have done := cond (t.val (s.reg c) ≠ s.isrc t y) 2; simp only [ite_not] at done; exact done
  case bge =>
    have done := cond (s.isrc t y ≤ t.val (s.reg c)) 2
    by_cases less : t.val (s.reg c) < s.isrc t y
    · simp only [if_neg (not_le.mpr less)] at done; simp only [if_pos less]; exact done
    · simp only [if_pos (not_lt.mp less)] at done; simp only [if_neg less]; exact done

end Sys2Proof.Machine
end

section
/-! Calls, returns and the way out of a handler (R75 to R78, R86), and the traps of software and of a failed fetch, decode or host
read (R38 to R40, R83, R87, R394). -/

namespace Sys2Proof.Machine

variable (s : State)

/-! ### Calls (R75 to R77) -/

/-- A context with a link word in w[f-1] and one call more. -/
def Context.linked (c : Context) (f : Nat) (link : Word) : Context :=
  { c with file := c.file.set ((c.base + f - 1) % 128) link, depth := c.depth + 1 }

section
variable {s} {f : Nat} (n : Nat)

/-- The frames of R77 run from 4 to 28. -/
theorem frame_bounds (ok : frameOk f = true) : 4 ≤ f ∧ f ≤ 28 := by
  simp [frameOk] at ok
  omega

/-- A call slides the window of a context that holds the link word. -/
theorem linked_eq (ok : frameOk f = true) :
    s.linked f n = (s.setCtx (s.ctx.linked f (linkWord f (s.pc + Word.of (4 * n))))).slideUp f := by
  obtain ⟨lower, upper⟩ := frame_bounds ok
  have place : s.ctx.base + (f - 1) % 32 = s.ctx.base + f - 1 := by omega
  simp only [State.linked, State.setReg, Fin.ofNat, place, setCtx_ctx, setCtx_setCtx]
  rfl

/-- A called context: its window has moved, with the link word below it and one call more. -/
theorem linked_ctx (ok : frameOk f = true) : (s.linked f n).ctx =
    ({ s.ctx.linked f (linkWord f (s.pc + Word.of (4 * n))) with
        wsp := s.ctx.wsp + Word.of (32 * slideGroups s.ctx f), low := s.ctx.low + 4 * slideGroups s.ctx f } : Context).raise f := by
  rw [linked_eq n ok, slideUp_ctx, setCtx_ctx]; rfl

/-- The link word lies in the entry below the new window. -/
theorem linked_link (ok : frameOk f = true) :
    (s.linked f n).ctx.file.get ((s.ctx.base + f - 1) % 128) 0 = linkWord f (s.pc + Word.of (4 * n)) := by
  obtain ⟨lower, upper⟩ := frame_bounds ok
  have old : ¬ ∃ i, i < f ∧ (s.ctx.base + 32 + i) % 128 = (s.ctx.base + f - 1) % 128 := by
    rintro ⟨i, hi, same⟩
    omega
  rw [linked_eq n ok, slideUp_file, setCtx_ctx]
  simp only [Context.linked, if_neg old, AMap.get_set_same]

/-- The callee's lowest registers are the caller's from w[f] on. -/
theorem linked_handed (ok : frameOk f = true) {i j : Fin 32} (handed : j.val = i.val + f) :
    (s.linked f n).reg (.w i) = s.reg (.w j) := by
  obtain ⟨lower, upper⟩ := frame_bounds ok
  have inWindow : i.val + f < 32 := by omega
  have sameReg : (⟨i.val + f, inWindow⟩ : Fin 32) = j := Fin.ext handed.symm
  have aboveLink : (s.ctx.base + j.val) % 128 ≠ (s.ctx.base + f - 1) % 128 := by omega
  rw [linked_eq n ok, slideUp_reg _ f (by omega), dif_pos inWindow, sameReg]
  simp only [State.reg, setCtx_ctx, Context.linked, AMap.get_set_other _ aboveLink]

/-- The rest of the callee's window is zero. -/
theorem linked_fresh (ok : frameOk f = true) {i : Fin 32} (fresh : 32 ≤ i.val + f) : (s.linked f n).reg (.w i) = 0 := by
  obtain ⟨lower, upper⟩ := frame_bounds ok
  rw [linked_eq n ok, slideUp_reg _ f (by omega), dif_neg (by omega)]

theorem linked_global (ok : frameOk f = true) (i : Fin 8) : (s.linked f n).reg (.g i) = s.reg (.g i) := by
  rw [linked_eq n ok, slideUp_global]; rfl

/-- A call writes only the bytes that its slide spills. -/
theorem linked_mem (ok : frameOk f = true) (form : memoryForm s) {a : Nat}
    (outside : ¬ spillBytes s.ctx (slideGroups s.ctx f) a) : Memory.get (s.linked f n).mem a = Memory.get s.mem a := by
  have slide := (slideUp_mem (s.setCtx (s.ctx.linked f (linkWord f (s.pc + Word.of (4 * n))))) f form).2
  rw [setCtx_ctx] at slide
  rw [linked_eq n ok]
  exact slide a outside

end

/-- Settles O8: a call that passes its checks answers the slid state of `State.linked`, whose window, link word and memory the lemmas
above describe. -/
theorem callsSlideTheWindow : Obligations.CallsSlideTheWindow := by
  intro s f off far a called
  have calls {f n : Nat} {target : Word} (ok : frameOk f = true) : called f n target ((s.linked f n).setPc target) := by
    have ctx := linked_ctx (s := s) n ok
    refine ⟨setPc_pc _ _, ?depth, ?base, ?link, fun i j handed => ?handed, fun i fresh => ?fresh, fun i => ?global, ?loops,
      fun form b outside => ?memory⟩
    case link => rw [setPc_eq, setCtx_ctx]; exact linked_link n ok
    case handed => rw [reg_setPc]; exact linked_handed n ok handed
    case fresh => rw [reg_setPc]; exact linked_fresh n ok fresh
    case global => rw [reg_setPc]; exact linked_global n ok i
    case memory => rw [setPc_mem]; exact linked_mem n ok form outside
    all_goals rw [setPc_eq, setCtx_ctx, ctx]; rfl
  refine ⟨fun ok fits aligned => ⟨_, exec_call_of_checks s aligned fits, calls ok⟩, fun ok fits aligned => ⟨_, ?callx, calls ok⟩,
    fun fits aligned => ⟨_, ?far, calls (by decide)⟩⟩
  case callx => exact congrArg s.finish (call_of_checks s aligned fits 1)
  case far => exact congrArg s.finish (call_of_checks s aligned fits 2)

/-! ### How a meaning ends -/

section
variable {s} {x : Ex State}

/-- A meaning that answers a state ends in it. -/
theorem finish_ok {t : State} (h : x = .ok t) : s.finish x = .next t := by rw [h]; rfl

/-- A meaning that stops with a trap ends in its entry. -/
theorem finish_trap {cause : Nat} {addr info : Word} (h : x = .error (.trap cause addr info)) (can : canTrap s) :
    ∃ u, s.finish x = .next u ∧ tookTrap cause addr info s.pc s u := by
  rw [h]; exact finish_trap_tookTrap s cause addr info can

end

/-! ### Returns (R78, R86) -/

/-- The loop entries that stay when the window has come back to base `b` (R102). -/
def keptLoops (b : Nat) (es : List LoopEntry) : List LoopEntry := es.dropWhile fun e => decide (b < e.base)

/-- RET with a call behind it and a frame in its link word changes its context only: the window has slid back by the frame, the loops
above are gone, one call is left, and the pc is the link's address. -/
theorem doRet_of_call (called : s.ctx.depth ≠ 0) (framed : bits (s.entry (s.ctx.base - 1)) 63 61 ≠ 0) :
    ∃ f l w, s.doRet = .ok (s.setCtx { s.ctx with
      base := s.ctx.base - bits (s.entry (s.ctx.base - 1)) 63 61 * 4, file := f, low := l, wsp := w, depth := s.ctx.depth - 1
      loops := keptLoops (s.ctx.base - bits (s.entry (s.ctx.base - 1)) 63 61 * 4) s.ctx.loops
      pc := Word.of (bits (s.entry (s.ctx.base - 1)) 60 0) }) := by
  obtain ⟨f, l, w, slid⟩ := slideDown_eq s (bits (s.entry (s.ctx.base - 1)) 63 61 * 4)
  refine ⟨f, l, w, ?_⟩
  simp only [State.doRet, need, decide_eq_true called, decide_eq_true framed, if_true, slid, State.popLoops, State.setPc, setCtx_ctx,
    setCtx_setCtx]
  rfl

theorem doRet_of_no_call (none_ : s.ctx.depth = 0) : s.doRet = .error (.trap 0x09 s.pc 1) := by
  rw [State.doRet, decide_eq_false (not_not.mpr none_)]; rfl

theorem doRet_of_no_frame (called : s.ctx.depth ≠ 0) (unframed : bits (s.entry (s.ctx.base - 1)) 63 61 = 0) :
    s.doRet = .error (.trap 0x09 s.pc 2) := by
  simp only [State.doRet, decide_eq_true called, decide_eq_false (not_not.mpr unframed)]; rfl

/-- Settles O9: RET's three ends. -/
theorem returnFollowsTheLink : Obligations.ReturnFollowsTheLink := by
  intro s link
  refine ⟨fun called framed => ?returns, fun can none_ => ?noCall, fun can called unframed => ?noFrame⟩
  case returns =>
    obtain ⟨f, l, w, done⟩ := doRet_of_call s called framed
    refine ⟨_, finish_ok done, ?_, ?_, ?_, fun a => rfl, fun i => rfl, ?_⟩
    all_goals simp only [State.pc, setCtx_ctx, keptLoops, Nat.mul_comm 4, link]
  case noCall => exact finish_trap (doRet_of_no_call s none_) can
  case noFrame => exact finish_trap (doRet_of_no_frame s called unframed) can

/-! ### The way out of a handler (R86) -/

/-- A lane grant that shrinks is all that the end of a trap changes of the lanes (R242). -/
theorem shrinkGrant_only (c : Context) : ∃ g, shrinkGrant c = { c with vgrant := g } := by
  unfold shrinkGrant
  split
  · exact ⟨_, rfl⟩
  · exact ⟨c.vgrant, rfl⟩

/-- ERET in a trap handler changes its context only: the window has slid back, the loops above are gone, and the trapped code goes on. -/
theorem eret_of_trap (inTrap : s.ctx.intrap = true) : ∃ f l w g, s.eret = .ok (s.setCtx { s.ctx with
    base := s.ctx.base - 32, file := f, low := l, wsp := w, vgrant := g, intrap := false
    loops := keptLoops (s.ctx.base - 32) s.ctx.loops, pc := s.ctx.trappc }) := by
  obtain ⟨f, l, w, slid⟩ := slideDown_eq s 32
  obtain ⟨g, shrunk⟩ := shrinkGrant_only
    { s.ctx with base := s.ctx.base - 32, file := f, low := l, wsp := w, intrap := false, pc := s.ctx.trappc }
  refine ⟨f, l, w, g, ?_⟩
  rw [State.eret, if_pos inTrap]
  simp only [slid, State.popLoops, setCtx_ctx, setCtx_setCtx, shrunk]
  rfl

/-- ERET in an event handler changes its context only: the window has slid back, the loops above are gone, and the code before the event
goes on. -/
theorem eret_of_event (noTrap : s.ctx.intrap = false) (inEvent : s.ctx.inui = true) : ∃ f l w, s.eret = .ok (s.setCtx { s.ctx with
    base := s.ctx.base - 32, file := f, low := l, wsp := w, inui := false
    loops := keptLoops (s.ctx.base - 32) s.ctx.loops, pc := s.ctx.uipc }) := by
  obtain ⟨f, l, w, slid⟩ := slideDown_eq s 32
  refine ⟨f, l, w, ?_⟩
  rw [State.eret, noTrap, inEvent, if_neg Bool.false_ne_true, if_pos rfl]
  simp only [slid, State.popLoops, setCtx_ctx, setCtx_setCtx]
  rfl

theorem eret_of_no_handler (noTrap : s.ctx.intrap = false) (noEvent : s.ctx.inui = false) :
    s.eret = .error (.trap 0x15 s.pc 0xFFF) := by
  rw [State.eret, noTrap, noEvent]; rfl

/-- Settles O15: ERET's three ends. -/
theorem returnFromHandlers : Obligations.ReturnFromHandlers := by
  intro s left
  refine ⟨fun inTrap => ?trap, fun noTrap inEvent => ?event, fun can noEvent => ?none⟩
  case trap =>
    obtain ⟨f, l, w, g, done⟩ := eret_of_trap s inTrap
    refine ⟨_, finish_ok done, ?_, ?_, ?_, ?_, fun a => rfl, fun i => rfl, ?_⟩
    all_goals simp only [State.pc, setCtx_ctx, keptLoops]
  case event =>
    obtain ⟨f, l, w, done⟩ := eret_of_event s noTrap inEvent
    refine ⟨_, finish_ok done, ?_, ?_, ?_, fun a => rfl, fun i => rfl, ?_⟩
    all_goals simp only [State.pc, setCtx_ctx, keptLoops]
  case none => exact finish_trap (eret_of_no_handler s can.2 noEvent) can

/-! ### Traps (R83, R87, R38 to R40, R394) -/

/-- Settles O12: the trap entry of a context that can take one. -/
theorem trapEntrySavesAndEnters : Obligations.TrapEntrySavesAndEnters :=
  fun s cause addr info ret can => trapEntry_tookTrap s cause addr info ret can

/-- A load that reads host memory, whose read fails, takes its trap at its pc. -/
theorem exec_pcieCompletionTimeout_of_load {i : Instr} {ea : Word} {n k : Nat}
    (active : (s.focus s.place.a).ctx.status = .running ∨ (s.focus s.place.a).ctx.status = .waiting)
    (fetched : (s.focus s.place.a).fetchDecode = .ok i) (load : (s.focus s.place.a).loadEa i = some (ea, n))
    (inHeap : space ea = 0x0) (passes : (s.focus s.place.a).memCheck ea n .load (s.focus s.place.a).loadSpaces = .ok k)
    (host : isHostKey k = true) : exec .pcieCompletionTimeout s =
      .next ((s.focus s.place.a).trapEntry 0x0E ea 0 (s.focus s.place.a).pc) := by
  have acts : (decide ((s.focus s.place.a).ctx.status = .running) || decide ((s.focus s.place.a).ctx.status = .waiting)) = true := by
    simpa using active
  show execPcieCompletionTimeout s = _
  simp only [execPcieCompletionTimeout, acts, if_true, fetched, load, passes, inHeap, host, decide_true, Bool.and_self]

/-- Settles O14: each ends in the trap entry of R83, but for a TRAP of zero. -/
theorem softwareAndDecodeTraps : Obligations.SoftwareAndDecodeTraps := by
  intro s a imm field word addr
  refine ⟨fun zero => ⟨_, if_pos zero, advance_wentOn s 1⟩, fun can => ⟨fun nonzero => ⟨_, if_neg nonzero, ?_⟩, ⟨_, rfl, ?_⟩,
    ⟨_, rfl, ?_⟩, ⟨_, rfl, ?_⟩⟩, fun i ea n k can active fetched load inHeap passes host =>
      ⟨_, exec_pcieCompletionTimeout_of_load s active fetched load inHeap passes host, trapEntry_tookTrap _ _ _ _ _ can⟩⟩
  all_goals exact trapEntry_tookTrap s _ _ _ _ can

end Sys2Proof.Machine
end

section
/-! The hardware loops (R99 to R101), PARK, its timeout and YIELD (R81, R82), and the strand that R72 chooses. -/

namespace Sys2Proof.Machine

variable (s : State)

@[simp] theorem setCtx_pc (c : Context) : (s.setCtx c).pc = c.pc := by rw [State.pc, setCtx_ctx]

/-! ### Entering a loop (R99, R100) -/

/-- A loop goes round again where its value has not passed its limit. -/
theorem loopCont_iff {v lim step : Int} : loopCont v lim step = true ↔ (0 < step ∧ v < lim) ∨ (step < 0 ∧ lim < v) := by
  simp [loopCont]

/-- The context in its new loop's body. -/
def Context.inLoop (c : Context) (k : LoopKind) (start stop : Word) : Context :=
  { c with loops := ⟨k, start, stop, c.base⟩ :: c.loops, pc := start }

/-- A loop is entered where fewer than eight entries stand. -/
theorem enterLoop_of_room (room : s.ctx.loops.length < 8) (k : LoopKind) (start stop : Word) :
    s.enterLoop k start stop = .ok (s.setCtx (s.ctx.inLoop k start stop)) := by
  rw [State.enterLoop, decide_eq_true room]; rfl

section
variable {s} {t : ITy} {c : Reg} {limit step : Src} (off : BitVec 15)

theorem exec_loop_nonzero (count : s.reg c ≠ 0) : exec (.loop c off) s =
    s.finish (s.enterLoop (.count (s.reg c)) (s.pc + 4) (s.target off)) := if_neg count

theorem exec_lfor_past (past : ¬ loopCont (t.val (s.reg c)) (s.isrc t limit) (stepVal t (s.src step)) = true) :
    exec (.lfor t c off limit step) s = .next (s.setPc (s.target off + 4)) := if_neg past

theorem exec_lfor_within (within : loopCont (t.val (s.reg c)) (s.isrc t limit) (stepVal t (s.src step)) = true) :
    exec (.lfor t c off limit step) s =
      s.finish (s.enterLoop (.induct c t (s.src limit) (s.src step)) (s.pc + 8) (s.target off)) := if_pos within

end

/-! ### The end of a loop's body (R101) -/

/-- The context behind a LEND at the top entry `e`: round again, or behind the loop, whose entry is popped. -/
def Context.afterEnd (c : Context) (e : LoopEntry) (go : Bool) : Context :=
  if go then { c with loops := e :: c.loops.tail, pc := e.start } else { c with loops := c.loops.tail, pc := c.pc + 4 }

theorem Context.afterEnd_pc (c : Context) (e : LoopEntry) (go : Bool) :
    (c.afterEnd e go).pc = if go then e.start else c.pc + 4 := apply_ite Context.pc _ _ _

theorem Context.afterEnd_loops (c : Context) (e : LoopEntry) (go : Bool) :
    (c.afterEnd e go).loops = if go then e :: c.loops.tail else c.loops.tail := apply_ite Context.loops _ _ _

theorem reg_afterEnd (e : LoopEntry) (go : Bool) (r : Reg) : (s.setCtx (s.ctx.afterEnd e go)).reg r = s.reg r := by
  cases go <;> exact reg_setCtx s (c := s.ctx.afterEnd e _) rfl rfl r

theorem loopEnd_count {e : LoopEntry} {n : Word} (kind : e.kind = .count n) :
    s.loopEnd e = s.setCtx (s.ctx.afterEnd { e with kind := .count (n - 1) } (n - 1 ≠ 0)) := by
  simp only [State.loopEnd, kind]
  exact (apply_ite s.setCtx _ _ _).symm

/-- The stepped value of a LFOR's register (R101). -/
def State.stepped (s : State) (c : Reg) (t : ITy) (step : Word) : Word := t.wrap (t.val (s.reg c) + stepVal t step)

theorem loopEnd_induct {e : LoopEntry} {c : Reg} {t : ITy} {lim step : Word} (kind : e.kind = .induct c t lim step) :
    s.loopEnd e = (s.setReg c (s.stepped c t step)).setCtx ((s.setReg c (s.stepped c t step)).ctx.afterEnd e
      (loopCont (t.val (s.stepped c t step)) (t.val lim) (stepVal t step))) := by
  simp only [State.loopEnd, kind]
  exact (apply_ite (s.setReg c (s.stepped c t step)).setCtx _ _ _).symm

/-- LEND at the end of the top entry's body ends that entry's round. -/
theorem exec_lend_at_stop {e : LoopEntry} {rest : List LoopEntry} (top : s.ctx.loops = e :: rest) (base : e.base = s.ctx.base)
    (stop : s.pc = e.stop) : exec .lend s = .next (s.loopEnd e) := by
  show execLend s = _
  rw [execLend, top]
  exact if_pos ⟨base, stop⟩

/-- A register write leaves the loop entries. -/
@[simp] theorem setReg_loops (d : Reg) (v : Word) : (s.setReg d v).ctx.loops = s.ctx.loops := by
  cases d with
  | w i => simp [State.setReg]
  | g i => simp only [State.setReg]; split <;> rfl

/-- Settles O10: the first three instructions enter a loop or go on behind it, and LEND counts or steps the top entry. -/
theorem loopsEnterAndEnd : Obligations.LoopsEnterAndEnd := by
  refine ⟨fun s t c off limit step => ?enter, fun s e rest top base stop => ⟨fun n kind => ?count, fun c t lim step kind => ?induct⟩⟩
  case enter =>
    intro stop entered v lim st
    have enters (room : s.ctx.loops.length < 8) (k : LoopKind) (start : Word) :
        ∃ u, s.finish (s.enterLoop k start (s.target off)) = .next u ∧ entered k start u :=
      ⟨_, finish_ok (enterLoop_of_room s room k start _), by rw [setCtx_ctx]; rfl, setCtx_pc s _, reg_setCtx s rfl rfl,
        setCtx_ctxOnly s _⟩
    refine ⟨fun zero => ⟨_, exec_loop_zero s zero off, setPc_jumped s _⟩, fun count room => ?loop,
      fun past => ⟨_, exec_lfor_past off (mt loopCont_iff.mp past), setPc_jumped s _⟩, fun within room => ?lfor⟩
    case loop => rw [exec_loop_nonzero off count]; exact enters room _ _
    case lfor => rw [exec_lfor_within off (loopCont_iff.mpr within)]; exact enters room _ _
  case count =>
    refine ⟨_, exec_lend_at_stop s top base stop, ?_⟩
    rw [loopEnd_count s kind]
    refine ⟨reg_afterEnd s _ _, setCtx_ctxOnly s _, ?_⟩
    simp only [setCtx_pc, setCtx_ctx, Context.afterEnd_pc, Context.afterEnd_loops, top, List.tail_cons, decide_eq_true_eq, ite_not]
    split
    · exact ⟨rfl, rfl⟩
    · exact ⟨rfl, rfl⟩
  case induct =>
    intro v st
    refine ⟨_, exec_lend_at_stop s top base stop, ?_⟩
    rw [loopEnd_induct s kind]
    refine ⟨by rw [reg_afterEnd, reg_setReg, if_pos rfl]; rfl, fun r other => by rw [reg_afterEnd, reg_setReg, if_neg other],
      fun a => by rw [setCtx_mem, setReg_mem], ?_⟩
    simp only [← loopCont_iff]
    change if loopCont (t.val (s.stepped c t step)) (t.val lim) (stepVal t step) = true then _ else _
    have pc : (s.setReg c (s.stepped c t step)).ctx.pc = s.pc := setReg_pc s _ _
    simp only [setCtx_pc, setCtx_ctx, Context.afterEnd_pc, Context.afterEnd_loops, setReg_loops, top, List.tail_cons, pc]
    split
    · exact ⟨rfl, rfl⟩
    · exact ⟨rfl, rfl⟩

/-! ### PARK and YIELD (R81, R82) -/

theorem exec_park_pending (event : s.ctx.pending ≠ []) (d : Reg) (x : Src) : exec (.park d x) s = .next (s.result 1 d 0) :=
  if_pos event

theorem parkOver_iff {timeout start now : Word} : parkOver timeout start now = true ↔ timeout ≠ 0 ∧ timeout ≤ now - start := by
  simp [parkOver]

/-- PARK, executed again behind its timeout, ends with 1. -/
theorem exec_park_over {e : Reg} {t start : Word} (quiet : s.ctx.pending = []) (parked : s.ctx.await = .park e t start)
    (since : s.ctx.waitStart = some start) (elapsed : parkOver t start s.core.cyc = true) (d : Reg) (x : Src) :
    exec (.park d x) s = .next (s.result 1 d 1) := by
  have elapsed' : parkOver t s.waitFrom s.core.cyc = true := by rw [State.waitFrom, since]; exact elapsed
  show execPark d x s = _
  simp only [execPark, quiet, ne_eq, not_true_eq_false, if_false, parked, elapsed', if_true]

/-- The strand of a core after some change of its strand `i` to age 0. -/
theorem strand_modify (c : Core) (i : Nat) (f : Strand → Strand) (inCore : i < c.strands.length) :
    ({ c with strands := c.strands.modify i f } : Core).strand i = f (c.strand i) := by
  simp [Core.strand, List.getD_eq_getElem?_getD, inCore]

theorem strand_modify_out (c : Core) (i : Nat) (f : Strand → Strand) (out : ¬ i < c.strands.length) :
    ({ c with strands := c.strands.modify i f } : Core).strand i = { Strand.init with ctx := some 0 } := by
  simp only [Core.strand, List.getD_eq_getElem?_getD]
  rw [List.getElem?_eq_none (by rw [List.length_modify]; omega)]
  rfl

theorem yieldStrand_core : s.yieldStrand.core =
    { s.core with strands := s.core.strands.modify s.ctx.strand fun st => { st with age := 0, yielded := true } } :=
  setCore_core s _

theorem yieldStrand_age : (s.yieldStrand.core.strand s.ctx.strand).age = 0 := by
  rw [yieldStrand_core]
  by_cases inCore : s.ctx.strand < s.core.strands.length
  · rw [strand_modify _ _ _ inCore]
  · rw [strand_modify_out _ _ _ inCore]; rfl

theorem yieldStrand_yielded (inCore : s.ctx.strand < s.core.strands.length) :
    (s.yieldStrand.core.strand s.ctx.strand).yielded = true := by
  rw [yieldStrand_core, strand_modify _ _ _ inCore]

/-! ### PARK_TIMEOUT (R81) -/

section
variable {s} {d : Reg} {t start : Word}

/-- The context whose wait is over. -/
def Context.waited (c : Context) : Context := { c with await := .none, waitStart := none, status := .running }

/-- PARK_TIMEOUT of a context that waits in its PARK ends the PARK with 1. -/
theorem exec_parkTimeout_waiting (parked : (s.focus s.place.a).ctx.await = .park d t start)
    (elapsed : parkOver t start (s.focus s.place.a).core.cyc = true) (quiet : (s.focus s.place.a).ctx.pending = [])
    (waits : (s.focus s.place.a).ctx.status = .waiting) : exec .parkTimeout s =
      .next (((s.focus s.place.a).result 1 d 1).setCtx ((s.focus s.place.a).result 1 d 1).ctx.waited) := by
  show execParkTimeout s = _
  simp only [execParkTimeout, parked, elapsed, quiet, waits, List.isEmpty_nil, Bool.and_self, if_true]
  rfl

/-- PARK_TIMEOUT of a parked context signals it. -/
theorem exec_parkTimeout_parked (parked : (s.focus s.place.a).ctx.await = .park d t start)
    (elapsed : parkOver t start (s.focus s.place.a).core.cyc = true) (quiet : (s.focus s.place.a).ctx.pending = [])
    (waits : (s.focus s.place.a).ctx.status = .parked) : exec .parkTimeout s =
      .next ((s.focus s.place.a).signal s.place.a) := by
  show execParkTimeout s = _
  simp only [execParkTimeout, parked, elapsed, quiet, waits, List.isEmpty_nil, Bool.and_self, if_true, reduceCtorEq, if_false]
  rfl

end

/-- The context, signalled. -/
def Context.signalled (c : Context) : Context := { c with status := .resumable }

/-- A signal of the acting context makes it resumable and puts it at the end of its core's line. -/
theorem signal_own (parked : s.ctx.status = .parked) : s.signal s.cur.ctx =
    (s.setCtx s.ctx.signalled).putCore s.ctx.core ((s.coreAt s.ctx.core).resumable s.cur.ctx) := if_pos parked

@[simp] theorem resumable_parked (c : Core) (k : Nat) : (c.resumable k).parked = c.parked ++ [k] := rfl

/-! ### The choice among the ready strands (R72) -/

/-- Strand `i` comes before strand `j`: by the age of 63, then by effective priority, by age and by number. -/
theorem before_iff (core i j : Nat) : s.before core i j = true ↔
    let x := ((s.coreAt core).strand i).age
    let y := ((s.coreAt core).strand j).age
    let p := s.effPrio core i
    let q := s.effPrio core j
    (x = 63 ∧ y ≠ 63) ∨ ((x = 63 ↔ y = 63) ∧ (q < p ∨ (p = q ∧ (y < x ∨ (x = y ∧ i < j))))) := by
  simp only [State.before]
  split
  case isTrue differ =>
    rw [ne_eq, eq_iff_iff] at differ
    simp only [decide_eq_true_eq]; omega
  case isFalse same =>
    rw [not_not, eq_iff_iff] at same
    simp only [Bool.or_eq_true, Bool.and_eq_true, decide_eq_true_eq]; omega

theorem before_trans {core i j k : Nat} (hij : s.before core i j = true) (hjk : s.before core j k = true) :
    s.before core i k = true := by
  rw [before_iff] at *
  omega

theorem before_total (core i j : Nat) : i = j ∨ s.before core i j = true ∨ s.before core j i = true := by
  rw [before_iff, before_iff]
  omega

/-- Of some strands one comes before every other. -/
theorem exists_first (core : Nat) {l : List Nat} (some_ : l ≠ []) : ∃ i ∈ l, ∀ j ∈ l, i = j ∨ s.before core i j = true := by
  induction l with
  | nil => exact absurd rfl some_
  | cons a l ih =>
    by_cases last : l = []
    · exact ⟨a, by simp, by simp [last]⟩
    · obtain ⟨i, hi, first⟩ := ih last
      rcases before_total s core i a with same | before | after
      · exact ⟨i, by simp [hi], fun j hj => (List.mem_cons.mp hj).elim (fun e => .inl (same.trans e.symm)) (first j)⟩
      · exact ⟨i, by simp [hi], fun j hj => (List.mem_cons.mp hj).elim (fun e => .inr (e ▸ before)) (first j)⟩
      · refine ⟨a, by simp, fun j hj => (List.mem_cons.mp hj).imp Eq.symm fun hl => ?_⟩
        rcases first j hl with same | before
        · exact same ▸ after
        · exact before_trans s after before

/-- Of some ready strands one is chosen. -/
theorem choose_some (core : Nat) {ready : List Nat} (some_ : ready ≠ []) : ∃ n, s.choose core ready = some n := by
  rw [← Option.isSome_iff_exists]
  dsimp only [State.choose]
  rw [List.find?_isSome]
  simp only [List.all_eq_true, Bool.or_eq_true, decide_eq_true_eq]
  split
  case isTrue => exact exists_first s core some_
  case isFalse fresh => exact exists_first s core (by simpa using fresh)

/-- Settles O11: the ends of PARK and of its timeout, the strand that yields, and the order in which strands are chosen. -/
theorem parkAndYieldComplete : Obligations.ParkAndYieldComplete := by
  refine ⟨fun s d x => ⟨fun event => ?event, fun e t start quiet parked since set elapsed => ?timedOut, ?yield⟩,
    fun s d t start => ?timeout, fun s core ready => ⟨choose_some s core, fun n chosen => ?choice⟩⟩
  case event => exact ⟨_, exec_park_pending s event d x, result_wrote s 1 d 0⟩
  case timedOut => exact ⟨_, exec_park_over s quiet parked since (parkOver_iff.mpr ⟨set, elapsed⟩) d x, result_wrote s 1 d 1⟩
  case yield =>
    exact ⟨_, rfl, setPc_pc _ _, reg_setPc _ _, fun a => rfl, yieldStrand_age s, yieldStrand_yielded s, rfl⟩
  case timeout =>
    intro a parked set elapsed quiet
    have ended := parkOver_iff.mpr ⟨set, elapsed⟩
    refine ⟨fun waits => ⟨_, exec_parkTimeout_waiting parked ended quiet waits, ?_⟩, fun sleeps => ⟨_, exec_parkTimeout_parked parked ended quiet sleeps, ?_⟩⟩
    · obtain ⟨pc, result, -, -, -⟩ := result_wrote a 1 d 1
      refine ⟨(reg_setCtx (a.result 1 d 1) (c := (a.result 1 d 1).ctx.waited) rfl rfl d).trans result, by rw [setCtx_pc]; exact pc, by rw [setCtx_ctx]; rfl, fun x => ?_⟩
      simp [State.result, State.advance, State.focus]
    · have own : a.signal s.place.a = (a.setCtx a.ctx.signalled).setCore (a.core.resumable s.place.a) := signal_own a sleeps
      rw [own]
      exact ⟨by rw [setCore_ctx, setCtx_ctx]; rfl, by rw [setCore_core, resumable_parked],
        reg_setCtx a (c := a.ctx.signalled) rfl rfl, fun x => rfl⟩
  case choice =>
    obtain ⟨mem, yielded, first⟩ := choose_spec s chosen
    refine ⟨mem, fun j hj other => ⟨fun x => yielded x j hj, fun competes => ?_⟩⟩
    have before := (first j hj competes).resolve_left other
    rw [before_iff] at before
    omega

end Sys2Proof.Machine
end

section
/-! The decoder on fixed words (R18 to R37), a step's turns, and power-on reset and new contexts (R397, R105). -/

namespace Sys2Proof.Machine

/-- Settles O57: the decoder on ten fixed words. -/
theorem wordsDecodeToTheirInstructions : Obligations.WordsDecodeToTheirInstructions := by
  refine ⟨?_, ?_, ?_, ?_, ?_, ?_, ?_, ?_, ?_, fun e => ?unassigned⟩
  case unassigned => cases e <;> decide
  all_goals decide

/-- A state whose turn is the write of a command's code to the control page of function 0. -/
def commandTurn (code : Nat) : State := { State.reset with agenda := [.ccmd 0 code] }

/-- The code of a turn is one byte: the code 257 is the code 1, which starts no command. -/
theorem step_commandTurn_257 : step (commandTurn 257) = .next (State.sweep { State.reset with agenda := [] }) := rfl

/-- The code 257 itself, which is none of the twelve, answers in the control page. -/
theorem strayCommand_257_pages : ((({ State.reset with agenda := [] } : State).strayCommand 0 257).sweep.page 0).cres = 2 := by
  decide +kernel

/-- Refutes O56: its fourth clause takes the code of a turn for any number, and the turn keeps it as a byte. The turn of code 257
does what the code 1 does, which is nothing, and the clause asks for the answer to the code 257. -/
theorem not_stepRunsTheDecodedInstruction : ¬ Obligations.StepRunsTheDecodedInstruction := by
  rintro ⟨-, -, -, ccmd, -⟩
  have same := (step_commandTurn_257.symm.trans (ccmd (commandTurn 257) 0 257 [] rfl))
  have pages := congrArg (fun o => match o with | .next u => (u.page 0).cres | _ => 0) same
  exact absurd (pages.trans strayCommand_257_pages) (by decide +kernel)

/-! ### Power-on reset and new contexts -/

variable (s : State)

/-- The record of a new context (R105). -/
def State.created (s : State) (task strand : Nat) (kind : CtxKind) (pc w0 w1 w2 : Word) : Context :=
  let t := s.taskAt task
  let a := (s.freeArea task).getD 0
  { Context.init with
    kind := kind, status := .running, core := t.core, strand := strand, task := task, launch := t.launch, pc := pc
    file := [(0, w0), (1, w1), (2, w2)], area := a
    wspb := localAddr (t.spillBase a), wspl := localAddr (t.spillBase a + t.spillSz), wsp := localAddr (t.spillBase a) }

theorem newCtx_ctxs (task strand : Nat) (kind : CtxKind) (pc w0 w1 w2 : Word) :
    (s.newCtx task strand kind pc w0 w1 w2).2.ctxs = s.ctxs.set s.nextCtx (s.created task strand kind pc w0 w1 w2) := rfl

/-- The new context's window: w0 to w2, and zeros. -/
theorem created_file (task strand : Nat) (kind : CtxKind) (pc w0 w1 w2 : Word) (e : Nat) :
    (s.created task strand kind pc w0 w1 w2).file.get e 0 =
      if e = 0 then w0 else if e = 1 then w1 else if e = 2 then w2 else 0 := by
  simp only [State.created, AMap.get, eq_comm]

/-- Settles O60: the state of reset by its definition, and the record that a new context is. -/
theorem resetAndNewContexts : Obligations.ResetAndNewContexts := by
  refine ⟨⟨fun fn => ?cstat, rfl, rfl, rfl, rfl, fun k => rfl, rfl, rfl⟩, fun s task strand kind pc w0 w1 w2 => ?new⟩
  case cstat =>
    show Word.of 0 ||| Word.of 0 ||| Word.ofBool false = 0
    decide
  case new =>
    intro p c
    have own : c = s.created task strand kind pc w0 w1 w2 := by
      show State.ctxAt _ _ = _
      rw [State.ctxAt, newCtx_ctxs]
      exact AMap.get_set_same _ _ _ _
    rw [own]
    refine ⟨rfl, rfl, rfl, rfl, rfl, rfl, rfl, created_file s task strand kind pc w0 w1 w2, rfl, rfl, rfl, rfl, rfl, rfl, rfl, rfl,
      rfl, rfl, rfl, rfl, rfl, rfl, rfl, rfl, fun k other => ?others⟩
    case others =>
      show State.ctxAt _ k = _
      rw [State.ctxAt, newCtx_ctxs]
      exact AMap.get_set_other _ other _ _

end Sys2Proof.Machine
end

section
/-! What leaves memory alone: a rule for each function of the model that changes other parts of the state only. A loop leaves memory
alone where each of its steps does. -/

namespace Sys2Proof.Machine

/-- A step of a loop that leaves memory alone. -/
def KeepsMem {α : Type} (g : State → α → State) : Prop := ∀ s x, (g s x).mem = s.mem

@[simp] theorem keepsMem_iff {α : Type} (g : State → α → State) : KeepsMem g ↔ ∀ s x, (g s x).mem = s.mem := Iff.rfl

@[simp] theorem foldl_mem {α : Type} {g : State → α → State} (step : KeepsMem g) (l : List α) (s : State) :
    (l.foldl g s).mem = s.mem := by
  induction l generalizing s with
  | nil => rfl
  | cons x l ih => rw [List.foldl_cons, ih, step]


variable (s : State)


/-! ### Ops -/

@[simp] theorem focus_mem (c : Nat) : (s.focus c).mem = s.mem := rfl

@[simp] theorem focusTask_mem (k : Nat) : (s.focusTask k).mem = s.mem := rfl

@[simp] theorem advance_mem (n : Nat) : (s.advance n).mem = s.mem := rfl

@[simp] theorem result_mem (n : Nat) (d : Reg) (v : Word) : (s.result n d v).mem = s.mem := by simp [State.result]

@[simp] theorem markFailed_mem (f : Task → Bool) : (s.markFailed f).mem = s.mem := rfl

@[simp] theorem slideDown_mem (n : Nat) : (s.slideDown n).mem = s.mem := by
  simp [State.slideDown, fillGroups_snd]

@[simp] theorem popLoops_mem : (s.popLoops).mem = s.mem := rfl

@[simp] theorem hartFault_mem (cause : Nat) (addr : Word) : (s.hartFault cause addr).mem = s.mem := rfl

@[simp] theorem wakeSteals_mem (core : Nat) : (s.wakeSteals core).mem = s.mem := rfl

@[simp] theorem waiting_mem : (s.waiting).mem = s.mem := rfl

@[simp] theorem buffer_mem (ea : Word) (key : Nat) (bs : List Byte) (rel : Bool) : (s.buffer ea key bs rel).mem = s.mem := rfl


/-! ### Packets -/

@[simp] theorem emit_mem (net dst n : Nat) (rel : Bool) (k : PKind) : (s.emit net dst n rel k).mem = s.mem := by
  unfold State.emit
  simp
  (repeat' split) <;> simp

@[simp] theorem emitUnit_mem (net src dst launch n : Nat) (k : PKind) : (s.emitUnit net src dst launch n k).mem = s.mem := rfl

@[simp] theorem useSq_mem (net src launch : Nat) (f : Nat → Nat) : (s.useSq net src launch f).mem = s.mem := by
  unfold State.useSq
  split <;> simp

@[simp] theorem emitHeld_mem (net src dst launch n : Nat) (k : PKind) : (s.emitHeld net src dst launch n k).mem = s.mem :=
  by simp [State.emitHeld]

@[simp] theorem drop_mem (p : Packet) : (s.drop p).mem = s.mem := by
  unfold State.drop
  split <;> simp

@[simp] theorem awaitEntry_mem (mast c : Nat) (w : SbWaiter) : (s.awaitEntry mast c w).mem = s.mem := by
  unfold State.awaitEntry
  simp
  (repeat' split) <;> simp

@[simp] theorem endAwait_mem (mast : Nat) (w : SbWaiter) : (s.endAwait mast w).mem = s.mem := by
  unfold State.endAwait
  simp
  (repeat' split) <;> simp


/-! ### LoadStore -/

@[simp] theorem markRelease_mem : (s.markRelease).mem = s.mem := rfl


/-! ### Deque -/

@[simp] theorem setNodeOf_mem (r : Word) (n : Node) : (s.setNodeOf r n).mem = s.mem := rfl

@[simp] theorem setWord_mem (r w : Word) : (s.setWord r w).mem = s.mem := rfl

@[simp] theorem freeStrand_mem (c : Context) : (s.freeStrand c).mem = s.mem := rfl

@[simp] theorem endCtx_mem : (s.endCtx).mem = s.mem := rfl


/-! ### Nodes -/

@[simp] theorem bindHost_mem (h : Nat) (w : Word) : (s.bindHost h w).mem = s.mem := rfl

@[simp] theorem splice_mem (x y : Word) : (s.splice x y).mem = s.mem := by
  unfold State.splice
  simp
  (repeat' split) <;> simp


/-! ### Rings -/

@[simp] theorem putRing_mem (q : Fin 32) (r : Ring) : (s.putRing q r).mem = s.mem := rfl


/-! ### Barriers -/

@[simp] theorem objCorrect_mem (mast off : Nat) (ks : List Nat) : (s.objCorrect mast off ks).mem = s.mem := by
  unfold State.objCorrect
  induction ks generalizing s with
  | nil => rfl
  | cons k ks ih => simp only [List.foldl_cons, ih, correct_mem]

@[simp] theorem isolation_mem (launch agent : Nat) (ea : Word) : (s.isolation launch agent ea).mem = s.mem :=
  by simp [State.isolation]


/-! ### Banks -/

@[simp] theorem disarm_mem (k : Nat) : (s.disarm k).mem = s.mem := rfl

@[simp] theorem setBank_mem (k : Nat) (b : Bank) : (s.setBank k b).mem = s.mem := rfl

@[simp] theorem awaitMine_mem : (s.awaitMine).mem = s.mem := by simp [State.awaitMine]

@[simp] theorem tookEntry_mem : (s.tookEntry).mem = s.mem := by simp [State.tookEntry]


/-! ### SpliceUnit -/

@[simp] theorem putNode_mem (launch : Nat) (r : Word) (n : Node) : (s.putNode launch r n).mem = s.mem := rfl

@[simp] theorem putWord_mem (launch : Nat) (r w : Word) : (s.putWord launch r w).mem = s.mem := rfl

@[simp] theorem releaseFwd_mem (launch : Nat) (r : Word) : (s.releaseFwd launch r).mem = s.mem := by
  unfold State.releaseFwd
  (repeat' split) <;> simp

@[simp] theorem renameSplices_mem (launch : Nat) (old new : Word) : (s.renameSplices launch old new).mem = s.mem := rfl

@[simp] theorem completeSplice_mem (core ix : Nat) (launch : Nat) (sp : Splice) : (s.completeSplice core ix launch sp).mem = s.mem := by
  unfold State.completeSplice
  refine (foldl_mem (fun t x => ?_) _ _).trans ((foldl_mem (fun t x => releaseFwd_mem t _ _) _ _).trans (by simp))
  split
  · split <;> simp
  · rfl

@[simp] theorem setSplice_mem (core ix : Nat) (sp : Splice) : (s.setSplice core ix sp).mem = s.mem := rfl

@[simp] theorem relock_mem (launch : Nat) (sp : Splice) (z : Word) : (s.relock launch sp z).mem = s.mem := by
  unfold State.relock
  split <;> simp

@[simp] theorem sendSwap_mem (core task launch : Nat) (t old new : Word) (rp : Bool) : (s.sendSwap core task launch t old new rp).mem = s.mem :=
  rfl

@[simp] theorem takeReply_mem (task : Nat) (p : Packet) : (s.takeReply task p).mem = s.mem := by simp [State.takeReply]

@[simp] theorem endRepoint_mem (core ix : Nat) : (s.endRepoint core ix).mem = s.mem := rfl

@[simp] theorem setRepoint_mem (core ix : Nat) (r : Repointing) : (s.setRepoint core ix r).mem = s.mem := rfl

@[simp] theorem joinMoved_mem (launch : Nat) (p : Repointing) : (s.joinMoved launch p).mem = s.mem := by
  unfold State.joinMoved
  simp
  (repeat' split) <;> simp

@[simp] theorem repointWith_mem (core ix launch : Nat) (p : Repointing) (r : Option Word) : (s.repointWith core ix launch p r).mem = s.mem := by
  unfold State.repointWith
  (repeat' split) <;> simp


/-! ### Translation -/

@[simp] theorem walkFailed_mem (launch core v level : Nat) : (s.walkFailed launch core v level).mem = s.mem :=
  by simp [State.walkFailed]

@[simp] theorem setOwnerExtents_mem (k : Nat) (xs : List Extent) : (s.setOwnerExtents k xs).mem = s.mem := by
  unfold State.setOwnerExtents
  split <;> simp

@[simp] theorem countFill_mem (k : Nat) : (s.countFill k).mem = s.mem := by
  unfold State.countFill
  split <;> simp


/-! ### Redex -/

@[simp] theorem result2_mem (d : Fin 31) (a b : Word) : (s.result2 d a b).mem = s.mem := rfl

@[simp] theorem joinDone_mem (d : Reg) (a count cont : Word) : (s.joinDone d a count cont).mem = s.mem := by
  unfold State.joinDone
  split <;> simp

@[simp] theorem setMeeting_mem (core : Nat) (m : Meeting) : (s.setMeeting core m).mem = s.mem := rfl

@[simp] theorem dropMeeting_mem (core id : Nat) : (s.dropMeeting core id).mem = s.mem := rfl

@[simp] theorem nextMove_mem (core launch : Nat) (m : Meeting) : (s.nextMove core launch m).mem = s.mem := by
  unfold State.nextMove
  split <;> simp

@[simp] theorem leaveSlot_mem (launch : Nat) (r new : Word) (n : Node) : (s.leaveSlot launch r new n).mem = s.mem := rfl

@[simp] theorem serveFetch_mem (p : Packet) (id : Nat) (r new : Word) (n : Node) : (s.serveFetch p id r new n).mem = s.mem :=
  by simp [State.serveFetch]

@[simp] theorem takeLater_mem (core launch : Nat) (m : Meeting) : (s.takeLater core launch m).mem = s.mem := by
  unfold State.takeLater
  (repeat' split) <;> simp

@[simp] theorem installPorts_mem (core task launch : Nat) (old new : Word) (n : Node) (id : Nat) : (s.installPorts core task launch old new n id).mem = s.mem := by
  refine foldl_mem (fun t q => ?_) _ _
  dsimp only
  split
  · simp
  · simp
  · split <;> simp
  · rfl

@[simp] theorem installMoved_mem (core launch : Nat) (m : Meeting) (k : Nat) (node : Option Node) (cause : Nat) :
    (s.installMoved core launch m k node cause).mem = s.mem := by
  unfold State.installMoved
  split <;> simp

@[simp] theorem withhold_mem (k : Nat) (r : Record) (cause : Nat) (addr info : Word) : (s.withhold k r cause addr info).mem = s.mem :=
  by simp [State.withhold]

@[simp] theorem strandMeeting_mem (core strand : Nat) (m : Option Nat) : (s.strandMeeting core strand m).mem = s.mem := rfl


/-! ### Lanes -/

@[simp] theorem setPend_mem (mast but : Nat) : (s.setPend mast but).mem = s.mem := rfl

@[simp] theorem growTo_mem (w : Nat) : (s.growTo w).mem = s.mem := by
  unfold State.growTo
  simp
  (repeat' split) <;> simp

@[simp] theorem stopVredq_mem : (s.stopVredq).mem = s.mem := by
  unfold State.stopVredq
  split <;> simp


/-! ### Envelope -/

@[simp] theorem eaEnd_mem (o : EaOp) (r : EaResult) : (s.eaEnd o r).mem = s.mem := rfl


/-! ### Network -/

@[simp] theorem atomAnswer_mem (p : Packet) (ea : Word) (posted : Bool) (a : Answer) : (s.atomAnswer p ea posted a).mem = s.mem := by
  unfold State.atomAnswer
  split <;> simp


/-! ### Csr -/

@[simp] theorem setHartCsr_mem (n : Nat) (v : Word) : (s.setHartCsr n v).mem = s.mem := by
  unfold State.setHartCsr
  (repeat' split) <;> simp


/-! ### Contexts -/

@[simp] theorem resumeOn_mem (core strand k : Nat) : (s.resumeOn core strand k).mem = s.mem :=
  by simp [State.resumeOn, fillGroups_snd]

@[simp] theorem serveReefs_mem (f mast : Nat) : (State.serveReefs f mast s).mem = s.mem := by
  obtain ⟨_, _, _, h⟩ := serveReefs_only s f mast
  rw [h]

@[simp] theorem servePools_mem : (s.servePools).mem = s.mem := by simp [State.servePools]


/-! ### Yards -/

@[simp] theorem setYhead_mem (core : Nat) (c : YCmd) : (s.setYhead core c).mem = s.mem := rfl

@[simp] theorem freeYSlot_mem (core l slot : Nat) : (s.freeYSlot core l slot).mem = s.mem := rfl

@[simp] theorem enqueue_mem (core : Nat) (c : YCmd) : (s.enqueue core c).mem = s.mem := rfl

@[simp] theorem setRunning_mem (mast yard : Nat) (c : Option Nat) : (s.setRunning mast yard c).mem = s.mem := rfl

@[simp] theorem ageHeads_mem (mast yard own cycles : Nat) : (s.ageHeads mast yard own cycles).mem = s.mem := by
  refine foldl_mem (fun t k => ?_) _ _
  split
  · split <;> simp
  · rfl

@[simp] theorem runHead_mem (mast yard core : Nat) : (s.runHead mast yard core).mem = s.mem := by
  unfold State.runHead
  split <;> simp

@[simp] theorem takeOver_mem (mast yard old new : Nat) : (s.takeOver mast yard old new).mem = s.mem := by
  unfold State.takeOver
  split <;> simp

@[simp] theorem worked_mem (core cycles : Nat) (c : YCmd) : (s.worked core cycles c).mem = s.mem := by simp [State.worked]

@[simp] theorem setTile_mem (mast l yard name : Nat) (t : Tile) : (s.setTile mast l yard name t).mem = s.mem := rfl

@[simp] theorem readBank_mem (mast off n : Nat) : (s.readBank mast off n).2.2.mem = s.mem :=
  foldl_mem (fun _ _ => correct_mem _ _ _) _ _

@[simp] theorem bankCorrect_mem (mast off n : Nat) : (s.bankCorrect mast off n).mem = s.mem := readBank_mem s _ _ _

@[simp] theorem opCorrect_mem (mast l : Nat) (t : ETy) (x : Word) (slot : Nat) (perRow : Bool) (rows width : Nat) :
    (s.opCorrect mast l t x slot perRow rows width).mem = s.mem := by
  unfold State.opCorrect
  simp
  (repeat' split) <;> simp

@[simp] theorem mmaCorrect_mem (mast : Nat) (c : YCmd) (ta tb : ETy) (cores : List Nat) : (s.mmaCorrect mast c ta tb cores).mem = s.mem :=
  by simp [State.mmaCorrect]

@[simp] theorem addStatus_mem (core : Nat) (st : Word) : (s.addStatus core st).mem = s.mem := by
  unfold State.addStatus
  split <;> simp

@[simp] theorem kstep_mem (mast core : Nat) (c a : YCmd) (ta tb : ETy) (dep k : Nat) :
    (s.kstep mast core c a ta tb dep k).1.mem = s.mem := setTile_mem _ _ _ _ _ _

@[simp] theorem mmaStep_mem (core : Nat) (c : YCmd) (ta tb : ETy) (dep : Nat) (cores : List Nat) : (s.mmaStep core c ta tb dep cores).mem = s.mem := by
  simp only [State.mmaStep, worked_mem, addStatus_mem, kstep_mem]
  split <;> simp

@[simp] theorem giveSlots_mem (mast : Nat) (c : YCmd) : (s.giveSlots mast c).mem = s.mem := by
  refine foldl_mem (fun t x => ?_) _ _
  dsimp only
  split <;> simp

@[simp] theorem popHead_mem (core : Nat) (c : YCmd) : (s.popHead core c).mem = s.mem := by
  unfold State.popHead
  split <;> simp


/-! ### Halyard -/

@[simp] theorem journal_mem (h e : Nat) (shared : Bool) (t : Transfer) (is : List Interval) : (s.journal h e shared t is).mem = s.mem :=
  rfl

@[simp] theorem asHart_mem (mast h : Nat) (t : Transfer) : (s.asHart mast h t).mem = s.mem := rfl

@[simp] theorem putHy_mem (mast h : Nat) (y : Halyard) : (s.putHy mast h y).mem = s.mem := rfl

@[simp] theorem stopTransfer_mem (mast h cause : Nat) (addr : Word) : (s.stopTransfer mast h cause addr).mem = s.mem := by
  unfold State.stopTransfer
  simp
  (repeat' split) <;> simp

@[simp] theorem emitMove_mem (v : Move) (dst : Nat) (k : PKind) : (s.emitMove v dst k).mem = s.mem := rfl

@[simp] theorem packBy_mem (mast h n : Nat) : (s.packBy mast h n).mem = s.mem := rfl

@[simp] theorem setHart_mem (y : Halyard) : (s.setHart y).mem = s.mem := rfl

@[simp] theorem copyDone_mem (c : Nat) (id : BitVec 16) (fault : Option (Nat × Word)) : (s.copyDone c id fault).mem = s.mem := by
  unfold State.copyDone
  simp
  (repeat' split) <;> simp

@[simp] theorem retireTransfer_mem (mast h : Nat) (t : Transfer) : (s.retireTransfer mast h t).mem = s.mem := rfl


/-! ### Streams -/

@[simp] theorem putTackle_mem (t : Nat) (x : Tackle) : (s.putTackle t x).mem = s.mem := rfl

@[simp] theorem putShroud_mem (n : Nat) (x : Shroud) : (s.putShroud n x).mem = s.mem := rfl

@[simp] theorem sendFlit_mem (n : Nat) (f : Flit) : (s.sendFlit n f).mem = s.mem := rfl

@[simp] theorem setStream_mem (x : Stream) : (s.setStream x).mem = s.mem := rfl

@[simp] theorem sweepStreams_mem : (s.sweepStreams).mem = s.mem := rfl

@[simp] theorem sendToken_mem (x : Stream) (bs : List Byte) : (s.sendToken x bs).mem = s.mem := by simp [State.sendToken]

@[simp] theorem tokenIn_mem (shroud : Nat) (x : Stream) (b : List Byte) : (s.tokenIn shroud x b).mem = s.mem := rfl


/-! ### Preempt -/

@[simp] theorem mapCores_mem (f : Core → Core) : (s.mapCores f).mem = s.mem := rfl

@[simp] theorem mapMasts_mem (f : Mast → Mast) : (s.mapMasts f).mem = s.mem := rfl

@[simp] theorem dropOps_mem (l : Nat) : (s.dropOps l).mem = s.mem := rfl

@[simp] theorem stopCtxs_mem (l : Nat) : (s.stopCtxs l).mem = s.mem := by simp [State.stopCtxs]

@[simp] theorem rearmSaved_mem (es : List (Nat × Nat × List Word)) (ren : AMap Nat) : (s.rearmSaved es ren).mem = s.mem :=
  by simp [State.rearmSaved]

@[simp] theorem awaitEntries_mem (l : Nat) : (s.awaitEntries l).mem = s.mem := by simp [State.awaitEntries]

@[simp] theorem leaveEntries_mem (l : Nat) : (s.leaveEntries l).mem = s.mem := rfl

@[simp] theorem awaitReefs_mem (k : Nat) : (s.awaitReefs k).mem = s.mem := rfl

@[simp] theorem resumeCtxs_mem (cs : List (Nat × CtxStatus)) : (s.resumeCtxs cs).mem = s.mem := by
  refine foldl_mem (fun t c => ?_) _ _
  show State.mem (match resumedStatus _ _ with | .resumable => _ | .stopped => _ | _ => _) = _
  split <;> simp

@[simp] theorem restoreBanks_mem (l : Nat) (sv : Saved) (first : Nat → Nat) : (s.restoreBanks l sv first).mem = s.mem :=
  by simp [State.restoreBanks]

@[simp] theorem restoreOps_mem (sv : Saved) (ren : AMap Nat) : (s.restoreOps sv ren).mem = s.mem := by simp [State.restoreOps]

@[simp] theorem endSteals_mem (l : Nat) : (s.endSteals l).mem = s.mem := by
  refine foldl_mem (fun t p => ?_) _ _
  dsimp only
  split <;> simp


/-! ### Complete -/

@[simp] theorem raise_mem (fn vector : Nat) : (s.raise fn vector).mem = s.mem := rfl

@[simp] theorem putQueue_mem (k : Nat) (q : Queue) : (s.putQueue k q).mem = s.mem := rfl

@[simp] theorem queueIrq_mem (q : Nat) : (s.queueIrq q).mem = s.mem := rfl

@[simp] theorem restartWatch_mem (k : Nat) : (s.restartWatch k).mem = s.mem := rfl

@[simp] theorem cancel_mem (l : Nat) : (s.cancel l).mem = s.mem := by simp [State.cancel]

@[simp] theorem kill_mem (l code : Nat) : (s.kill l code).mem = s.mem := by
  unfold State.kill
  simp
  (repeat' split) <;> simp

@[simp] theorem assignRoot_mem (l : Nat) : (s.assignRoot l).mem = s.mem := rfl


/-! ### Control -/

@[simp] theorem branch_mem (target : Word) : (s.branch target).mem = s.mem := rfl

@[simp] theorem loopEnd_mem (e : LoopEntry) : (s.loopEnd e).mem = s.mem := by
  unfold State.loopEnd
  simp
  (repeat' split) <;> simp

@[simp] theorem yieldStrand_mem : (s.yieldStrand).mem = s.mem := rfl


/-! ### Queues -/

@[simp] theorem dropExtents_mem (l : Nat) (all : Bool) (r : Nat) : (s.dropExtents l all r).mem = s.mem := rfl

@[simp] theorem fenceCores_mem (p : Partition) : (s.fenceCores p).mem = s.mem := by simp [State.fenceCores]

@[simp] theorem putCp_mem (n : Nat) (c : Cp) : (s.putCp n c).mem = s.mem := rfl

@[simp] theorem reachSel_mem (cp : Nat) : (s.reachSel cp).mem = s.mem := by simp [State.reachSel]

@[simp] theorem alarm1_mem : (s.alarm1).mem = s.mem := rfl

@[simp] theorem badImage_mem : (s.badImage).mem = s.mem := by
  unfold State.badImage
  split <;> simp


/-! ### Platform -/

@[simp] theorem setPlat_mem (p : Platform) : (s.setPlat p).mem = s.mem := rfl

@[simp] theorem endStage_mem (ok : Bool) : (s.endStage ok).mem = s.mem := rfl


/-! ### Issue -/

@[simp] theorem issuer_mem (core strand : Nat) : (s.issuer core strand).mem = s.mem := rfl


/-! ### Arbiter -/

@[simp] theorem unparked_mem (k : Nat) : (s.unparked k).mem = s.mem := by simp [State.unparked, fillGroups_snd]


end Sys2Proof.Machine
end

section
/-! Every instruction and every event keeps memory in its canonical form (log entry 4): a rule for each function of the model that may write
memory, or that ends with a trap, whose entry spills the window. All of them write through `State.write`, clear a range, or filter. -/

namespace Sys2Proof.Machine

-- The many proofs of this part, elaborated at the same time, would need a stack each.
set_option Elab.async false

/-- A sequence ends well where its two parts do. -/
theorem bind_ok {ε α β : Type} {x : Except ε α} {f : α → Except ε β} {b : β} : (x >>= f) = .ok b ↔ ∃ a, x = .ok a ∧ f a = .ok b := by
  cases x <;> simp [bind, Except.bind]

/-- What every step of a loop keeps, the loop keeps. -/
theorem foldl_rule {α β : Type} {P : β → Prop} {g : β → α → β} (step : ∀ b x, P b → P (g b x)) (l : List α) {b : β} (form : P b) :
    P (l.foldl g b) := by
  induction l generalizing b with
  | nil => exact form
  | cons x l ih => exact ih (step b x form)

/-- What every step of a loop keeps that may stop, the loop keeps. -/
theorem foldlM_rule {ε α β : Type} {P : β → Prop} {g : β → α → Except ε β} (step : ∀ b x c, P b → g b x = .ok c → P c) (l : List α)
    {b c : β} (form : P b) (ends : l.foldlM g b = .ok c) : P c := by
  induction l generalizing b with
  | nil => cases ends; exact form
  | cons x l ih =>
    obtain ⟨d, hd, ends⟩ := bind_ok.mp ((List.foldlM_cons).symm.trans ends)
    exact ih (step b x d form hd) ends

theorem foldl_form {α : Type} {g : State → α → State} (step : ∀ s x, memoryForm s → memoryForm (g s x)) (l : List α) {s : State}
    (form : memoryForm s) : memoryForm (l.foldl g s) := foldl_rule step l form

variable {s : State}

/-- A state whose memory is another's has its form. -/
theorem form_of_mem {u : State} (same : u.mem = s.mem) (form : memoryForm s) : memoryForm u := (congrArg (Memory.wf · = true) same).mpr form

theorem write_form (form : memoryForm s) (k : Nat) (bs : List Byte) : memoryForm (s.write k bs) := write_memoryForm s k bs form

theorem spillGroups_form (form : memoryForm s) (g : Nat) (c : Context) : memoryForm (spillGroups g c s).2 := (spillGroups_mem g c s form).1

theorem slideUp_form (form : memoryForm s) (n : Nat) : memoryForm (s.slideUp n) := (slideUp_mem s n form).1


/-! ### Ops -/

theorem takeFree_form (form : memoryForm s) : memoryForm (s.takeFree).2 := by
  grind [memoryForm, State.takeFree]

theorem setDbl_form (form : memoryForm s) (k : Nat) (w : Word) : memoryForm (s.setDbl k w) := by
  grind [memoryForm, State.setDbl, write_form]

theorem trapEntry_form (form : memoryForm s) (cause : Nat) (addr info ret : Word) : memoryForm (s.trapEntry cause addr info ret) := by
  grind [memoryForm, State.trapEntry, hartFault_mem, doubleTrap_mem, setCtx_mem, slideUp_form, setPc_mem]

/-- What the end of an instruction's meaning keeps: memory is in its form, or the meaning itself has ended with this state. -/
theorem finish_form {x : Ex State} {u : State} (ends : s.finish x = .next u) (form : memoryForm s) : memoryForm u ∨ x = .ok u := by
  unfold State.finish at ends
  split at ends
  · cases ends; exact .inr rfl
  · cases ends; exact .inl (trapEntry_form form _ _ _ _)
  · cases ends; exact .inl form
  · cases ends; exact .inl form

theorem happen_form {x : Ex State} {u : State} (ends : s.happen x = .next u) (form : memoryForm s) : memoryForm u ∨ x = .ok u := by
  unfold State.happen at ends
  split at ends
  · cases ends; exact .inr rfl
  · cases ends; exact .inl form

theorem eret_form {u : State} (ends : s.eret = .ok u) (form : memoryForm s) : memoryForm u := by
  grind [memoryForm, State.eret, slideDown_mem, setCtx_mem, popLoops_mem, trapX]

theorem passed_form {u : State} (ends : s.passed = .next u) (form : memoryForm s) : memoryForm u := by
  grind [memoryForm, State.passed]

theorem readChecked_form {ea : Word} {key n : Nat} {val : List Byte} {u : State}
    (ends : s.readChecked ea key n = .ok (val, u)) (form : memoryForm s) : memoryForm u := by
  grind [memoryForm, State.readChecked, bind_ok, correct_mem]

/-! ### LoadStore -/

theorem loadOp_form {d base : Reg} {off : BitVec 12} {n : Nat} {ext : Nat → Word} {acq : Bool} {u : State}
    (ends : s.loadOp d base off n ext acq = .next u) (form : memoryForm s) : memoryForm u := by
  grind [memoryForm, State.loadOp, bind_ok, → finish_form, → readChecked_form, result_mem]

theorem execLdbI8_form {d base : Reg} {off : BitVec 12} {u : State}
    (ends : execLdbI8 d base off s = .next u) (form : memoryForm s) : memoryForm u := by
  grind [memoryForm, execLdbI8, → loadOp_form]

theorem execLdbN8_form {d base : Reg} {off : BitVec 12} {u : State}
    (ends : execLdbN8 d base off s = .next u) (form : memoryForm s) : memoryForm u := by
  grind [memoryForm, execLdbN8, → loadOp_form]

theorem execLdhI16_form {d base : Reg} {off : BitVec 12} {u : State}
    (ends : execLdhI16 d base off s = .next u) (form : memoryForm s) : memoryForm u := by
  grind [memoryForm, execLdhI16, → loadOp_form]

theorem execLdhN16_form {d base : Reg} {off : BitVec 12} {u : State}
    (ends : execLdhN16 d base off s = .next u) (form : memoryForm s) : memoryForm u := by
  grind [memoryForm, execLdhN16, → loadOp_form]

theorem execLdI32_form {d base : Reg} {off : BitVec 12} {u : State}
    (ends : execLdI32 d base off s = .next u) (form : memoryForm s) : memoryForm u := by
  grind [memoryForm, execLdI32, → loadOp_form]

theorem execLdN32_form {d base : Reg} {off : BitVec 12} {u : State}
    (ends : execLdN32 d base off s = .next u) (form : memoryForm s) : memoryForm u := by
  grind [memoryForm, execLdN32, → loadOp_form]

theorem execLd_form {d base : Reg} {off : BitVec 12} {u : State}
    (ends : execLd d base off s = .next u) (form : memoryForm s) : memoryForm u := by
  grind [memoryForm, execLd, → loadOp_form]

theorem execLdAcq_form {d base : Reg} {off : BitVec 12} {u : State}
    (ends : execLdAcq d base off s = .next u) (form : memoryForm s) : memoryForm u := by
  grind [memoryForm, execLdAcq, → loadOp_form]

theorem execLdAcqN32_form {d base : Reg} {off : BitVec 12} {u : State}
    (ends : execLdAcqN32 d base off s = .next u) (form : memoryForm s) : memoryForm u := by
  grind [memoryForm, execLdAcqN32, → loadOp_form]

theorem yardStore_form {ea : Word} {u : State} (ends : s.yardStore ea = .ok u) (form : memoryForm s) : memoryForm u := by
  grind [memoryForm, State.yardStore, bind_ok, setCore_mem]

theorem remoteStore_form {ea : Word} {bs : List Byte} {rel : Bool} {u : State}
    (ends : s.remoteStore ea bs rel = .ok u) (form : memoryForm s) : memoryForm u := by
  grind [memoryForm, State.remoteStore, bind_ok, emit_mem]

theorem storeBytes_form {ea : Word} {bs : List Byte} {rel : Bool} {u : State}
    (ends : s.storeBytes ea bs rel = .ok u) (form : memoryForm s) : memoryForm u := by
  grind [memoryForm, State.storeBytes, bind_ok, → remoteStore_form, buffer_mem, → yardStore_form]

theorem storeOp_form {d base : Reg} {off : BitVec 12} {n : Nat} {rel : Bool} {u : State}
    (ends : s.storeOp d base off n rel = .next u) (form : memoryForm s) : memoryForm u := by
  grind [memoryForm, State.storeOp, bind_ok, → finish_form, → storeBytes_form, advance_mem]

theorem execStb_form {d base : Reg} {off : BitVec 12} {u : State}
    (ends : execStb d base off s = .next u) (form : memoryForm s) : memoryForm u := by
  grind [memoryForm, execStb, → storeOp_form]

theorem execSth_form {d base : Reg} {off : BitVec 12} {u : State}
    (ends : execSth d base off s = .next u) (form : memoryForm s) : memoryForm u := by
  grind [memoryForm, execSth, → storeOp_form]

theorem execStN32_form {d base : Reg} {off : BitVec 12} {u : State}
    (ends : execStN32 d base off s = .next u) (form : memoryForm s) : memoryForm u := by
  grind [memoryForm, execStN32, → storeOp_form]

theorem execSt_form {d base : Reg} {off : BitVec 12} {u : State}
    (ends : execSt d base off s = .next u) (form : memoryForm s) : memoryForm u := by
  grind [memoryForm, execSt, → storeOp_form]

theorem execStRel_form {d base : Reg} {off : BitVec 12} {u : State}
    (ends : execStRel d base off s = .next u) (form : memoryForm s) : memoryForm u := by
  grind [memoryForm, execStRel, → storeOp_form]

theorem execStRelN32_form {d base : Reg} {off : BitVec 12} {u : State}
    (ends : execStRelN32 d base off s = .next u) (form : memoryForm s) : memoryForm u := by
  grind [memoryForm, execStRelN32, → storeOp_form]

theorem pref_form {base : Reg} {off : BitVec 12} {u : State}
    (ends : s.pref base off = .next u) (form : memoryForm s) : memoryForm u := by
  grind [memoryForm, State.pref, bind_ok, → finish_form, advance_mem]

theorem execPrefCode_form {base : Reg} {off : BitVec 12} {u : State}
    (ends : execPrefCode base off s = .next u) (form : memoryForm s) : memoryForm u := by
  grind [memoryForm, execPrefCode, → pref_form]

theorem execPrefHeap_form {base : Reg} {off : BitVec 12} {u : State}
    (ends : execPrefHeap base off s = .next u) (form : memoryForm s) : memoryForm u := by
  grind [memoryForm, execPrefHeap, → pref_form]

theorem execFenceSc_form {sc : Scope} {u : State} (ends : execFenceSc sc s = .next u) (form : memoryForm s) : memoryForm u := by
  grind [memoryForm, execFenceSc, bind_ok, → finish_form, advance_mem, markRelease_mem]

theorem execFenceSl_form {sc : Scope} {u : State} (ends : execFenceSl sc s = .next u) (form : memoryForm s) : memoryForm u := by
  grind [memoryForm, execFenceSl, bind_ok, → finish_form, advance_mem]

theorem execFenceAcq_form {_sc : Scope} {u : State} (ends : execFenceAcq _sc s = .next u) (form : memoryForm s) : memoryForm u := by
  grind [memoryForm, execFenceAcq, advance_mem]

theorem execFenceRel_form {sc : Scope} {u : State} (ends : execFenceRel sc s = .next u) (form : memoryForm s) : memoryForm u := by
  grind [memoryForm, execFenceRel, bind_ok, → finish_form, advance_mem, markRelease_mem]

/-! ### Atomics -/

theorem atomicAt_form {ea : Word} {key : Nat} {op : AtomOp} {v nw : Word} {same : Bool} {val : Word} {u : State}
    (ends : s.atomicAt ea key op v nw same = .ok (val, u)) (form : memoryForm s) : memoryForm u := by
  grind [memoryForm, State.atomicAt, bind_ok, correct_mem, setDbl_form]

theorem atomicOp_form {d base : Reg} {off : BitVec 12} {n spc : Nat} {op : AtomOp} {nw : Word} {u : State}
    (ends : s.atomicOp d base off n spc op nw = .next u) (form : memoryForm s) : memoryForm u := by
  grind [memoryForm, State.atomicOp, bind_ok, → finish_form, → atomicAt_form, result_mem]

theorem execAadd_form {d base : Reg} {off : BitVec 12} {u : State}
    (ends : execAadd d base off s = .next u) (form : memoryForm s) : memoryForm u := by
  grind [memoryForm, execAadd, → atomicOp_form]

theorem execAcas_form {d base : Reg} {off : BitVec 12} {nw : Src} {u : State}
    (ends : execAcas d base off nw s = .next u) (form : memoryForm s) : memoryForm u := by
  grind [memoryForm, execAcas, → atomicOp_form]

theorem execAxch_form {d base : Reg} {off : BitVec 12} {u : State}
    (ends : execAxch d base off s = .next u) (form : memoryForm s) : memoryForm u := by
  grind [memoryForm, execAxch, → atomicOp_form]

theorem execAminI64_form {d base : Reg} {off : BitVec 12} {u : State}
    (ends : execAminI64 d base off s = .next u) (form : memoryForm s) : memoryForm u := by
  grind [memoryForm, execAminI64, → atomicOp_form]

theorem execAminN64_form {d base : Reg} {off : BitVec 12} {u : State}
    (ends : execAminN64 d base off s = .next u) (form : memoryForm s) : memoryForm u := by
  grind [memoryForm, execAminN64, → atomicOp_form]

theorem execAmaxI64_form {d base : Reg} {off : BitVec 12} {u : State}
    (ends : execAmaxI64 d base off s = .next u) (form : memoryForm s) : memoryForm u := by
  grind [memoryForm, execAmaxI64, → atomicOp_form]

theorem execAmaxN64_form {d base : Reg} {off : BitVec 12} {u : State}
    (ends : execAmaxN64 d base off s = .next u) (form : memoryForm s) : memoryForm u := by
  grind [memoryForm, execAmaxN64, → atomicOp_form]

theorem execAand_form {d base : Reg} {off : BitVec 12} {u : State}
    (ends : execAand d base off s = .next u) (form : memoryForm s) : memoryForm u := by
  grind [memoryForm, execAand, → atomicOp_form]

theorem execAor_form {d base : Reg} {off : BitVec 12} {u : State}
    (ends : execAor d base off s = .next u) (form : memoryForm s) : memoryForm u := by
  grind [memoryForm, execAor, → atomicOp_form]

theorem execBadd_form {d base : Reg} {off : BitVec 12} {u : State}
    (ends : execBadd d base off s = .next u) (form : memoryForm s) : memoryForm u := by
  grind [memoryForm, execBadd, → atomicOp_form]

theorem execBcas_form {d base : Reg} {off : BitVec 12} {nw : Src} {u : State}
    (ends : execBcas d base off nw s = .next u) (form : memoryForm s) : memoryForm u := by
  grind [memoryForm, execBcas, → atomicOp_form]

/-! ### Deque -/

theorem roomOn_form {k : Nat} {full : Stop} {u : State} (ends : s.roomOn k full = .ok u) (form : memoryForm s) : memoryForm u := by
  grind [memoryForm, State.roomOn, bind_ok, putTask_mem, focusTask_mem]

theorem pushX_form {r : Record} {u : State} (ends : s.pushX r = .ok u) (form : memoryForm s) : memoryForm u := by
  grind [memoryForm, State.pushX, bind_ok, → roomOn_form, wakeSteals_mem, setTask_mem]

theorem orFail_form {k : Nat} {x : Ex State} (hx : ∀ t, x = .ok t → memoryForm t) {u : State}
    (ends : s.orFail k x = .ok u) (form : memoryForm s) : memoryForm u := by
  unfold State.orFail at ends
  split at ends
  · cases ends; exact form_of_mem (failTask_mem s _ _ _ _) form
  · exact hx u ends

theorem pushOn_form {k : Nat} {r : Record} {u : State} (ends : s.pushOn k r = .ok u) (form : memoryForm s) : memoryForm u := by
  grind [memoryForm, State.pushOn, bind_ok, → orFail_form, → roomOn_form, wakeSteals_mem, putTask_mem]

theorem popOn_form {k : Nat} {r : Record} {u : State} (ends : s.popOn k = .ok (some (r, u))) (form : memoryForm s) : memoryForm u := by
  have popped : (((s.taskAt k).pop.map fun p => (p.1, s.putTask k p.2)) : Option (Record × State)) = some (r, u) := by
    simp only [State.popOn] at ends
    split at ends
    · obtain ⟨_, _, ends⟩ := bind_ok.mp ends
      exact Except.ok.inj ends
    · exact Except.ok.inj ends
  obtain ⟨p, -, same⟩ := Option.map_eq_some_iff.mp popped
  cases same
  exact form

theorem newCtx_form
    (form : memoryForm s) (task strand : Nat) (kind : CtxKind) (pc w0 w1 w2 : Word) : memoryForm (s.newCtx task strand kind pc w0 w1 w2).2 := by
  grind [memoryForm, State.newCtx, putCore_mem]

/-! ### Nodes -/

theorem nnew_form {d : Reg} {kind arity : Word} {u : State}
    (ends : s.nnew d kind arity = .ok u) (form : memoryForm s) : memoryForm u := by
  grind [memoryForm, State.nnew, bind_ok, result_mem, setTask_mem, trapX]

theorem execNnew_form {d : Reg} {kind arity : Src} {u : State}
    (ends : execNnew d kind arity s = .next u) (form : memoryForm s) : memoryForm u := by
  grind [memoryForm, execNnew, → finish_form, → nnew_form]

theorem payload_form {a : Word} {val : ℕ} {val2 : Word} {u : State}
    (ends : s.payload a = .ok (val, val2, u)) (form : memoryForm s) : memoryForm u := by
  grind [memoryForm, State.payload, bind_ok, correct_mem]

theorem setCount_form (form : memoryForm s) (k : Nat) (n : Nat) : memoryForm (s.setCount k n) := by
  grind [memoryForm, State.setCount, setDbl_form]

theorem nfree_form {d n : Reg} {u : State} (ends : s.nfree d n = .ok u) (form : memoryForm s) : memoryForm u := by
  grind [memoryForm, State.nfree, bind_ok, setNodeOf_mem, result_mem, → payload_form, setCount_form]

theorem execNfree_form {d n : Reg} {u : State} (ends : execNfree d n s = .next u) (form : memoryForm s) : memoryForm u := by
  grind [memoryForm, execNfree, → finish_form, → nfree_form]

theorem execNld_form {d n : Reg} {k : Fin 8} {u : State}
    (ends : execNld d n k s = .next u) (form : memoryForm s) : memoryForm u := by
  grind [memoryForm, execNld, bind_ok, → finish_form, result_mem]

theorem execNst_form {d n : Reg} {k : Fin 8} {u : State}
    (ends : execNst d n k s = .next u) (form : memoryForm s) : memoryForm u := by
  grind [memoryForm, execNst, bind_ok, → finish_form, advance_mem, setNodeOf_mem, trapX]

theorem execPget_form {d n : Reg} {i : Src} {u : State}
    (ends : execPget d n i s = .next u) (form : memoryForm s) : memoryForm u := by
  grind [memoryForm, execPget, bind_ok, → finish_form, result_mem]

theorem execPlink_form {x y : Reg} {u : State} (ends : execPlink x y s = .next u) (form : memoryForm s) : memoryForm u := by
  unfold execPlink at ends
  refine (finish_form ends form).elim id fun ends => ?_
  simp only [bind_ok] at ends
  grind [memoryForm, bind_ok, → finish_form, setWord_mem, advance_mem, → pushX_form]

theorem execSplice_form {x y : Reg} {u : State} (ends : execSplice x y s = .next u) (form : memoryForm s) : memoryForm u := by
  unfold execSplice at ends
  refine (finish_form ends form).elim id fun ends => ?_
  simp only [bind_ok] at ends
  grind [memoryForm, bind_ok, → finish_form, advance_mem, splice_mem]

theorem execSpliceJ_form {x z : Reg} {u : State} (ends : execSpliceJ x z s = .next u) (form : memoryForm s) : memoryForm u := by
  unfold execSpliceJ at ends
  refine (finish_form ends form).elim id fun ends => ?_
  simp only [bind_ok] at ends
  grind [memoryForm, bind_ok, → finish_form, setTask_mem, advance_mem, splice_mem, trapX]

/-! ### Rings -/

theorem execQset_form {q : Fin 32} {base : RcSrc} {lgcnt : Fin 9} {size : BitVec 11} {u : State}
    (ends : execQset q base lgcnt size s = .next u) (form : memoryForm s) : memoryForm u := by
  grind [memoryForm, execQset, bind_ok, → finish_form, advance_mem, setMast_mem]

theorem execQsetClr_form {q : Fin 32} {u : State} (ends : execQsetClr q s = .next u) (form : memoryForm s) : memoryForm u := by
  grind [memoryForm, execQsetClr, bind_ok, → finish_form, advance_mem, setMast_mem]

theorem execQwait_form {d : Reg} {q : Fin 32} {n : Src} {u : State}
    (ends : execQwait d q n s = .next u) (form : memoryForm s) : memoryForm u := by
  grind [memoryForm, execQwait, bind_ok, → finish_form, result_mem, putRing_mem, waiting_mem]

theorem execQresv_form {d : Reg} {q : Fin 32} {n : Src} {u : State}
    (ends : execQresv d q n s = .next u) (form : memoryForm s) : memoryForm u := by
  grind [memoryForm, execQresv, bind_ok, → finish_form, result_mem, putRing_mem, waiting_mem]

theorem execQadvP_form {q : Fin 32} {n : Src} {u : State}
    (ends : execQadvP q n s = .next u) (form : memoryForm s) : memoryForm u := by
  grind [memoryForm, execQadvP, bind_ok, → finish_form, advance_mem, putRing_mem]

theorem execQadvC_form {q : Fin 32} {n : Src} {u : State}
    (ends : execQadvC q n s = .next u) (form : memoryForm s) : memoryForm u := by
  grind [memoryForm, execQadvC, bind_ok, → finish_form, advance_mem, putRing_mem]

theorem execQhead_form {d : Reg} {q : Fin 32} {u : State}
    (ends : execQhead d q s = .next u) (form : memoryForm s) : memoryForm u := by
  grind [memoryForm, execQhead, bind_ok, → finish_form, result_mem]

/-! ### Barriers -/

theorem setObj_form (form : memoryForm s) (mast off k : Nat) (w : Word) : memoryForm (s.setObj mast off k w) := by
  grind [memoryForm, State.setObj, setDbl_form]

theorem flip_form (form : memoryForm s) (mast off : Nat) : memoryForm (s.flip mast off) := by
  grind [memoryForm, State.flip, objCorrect_mem, setObj_form]

theorem completePhase_form (form : memoryForm s) (mast off : Nat) : memoryForm (s.completePhase mast off) := by
  grind [memoryForm, State.completePhase, putMast_mem, flip_form]

theorem arrive_form (form : memoryForm s) (mast launch off : Nat) (st : Word) : memoryForm (s.arrive mast launch off st) := by
  unfold State.arrive
  split
  · exact form_of_mem (putLaunch_mem s _ _) form
  · split
    · exact form_of_mem (putMast_mem s _ _) form
    · have counted (a b : Word) : memoryForm (((s.objCorrect mast off [0, 1, 3]).setObj mast off 3 a).setObj mast off 1 b) :=
        setObj_form (setObj_form (form_of_mem (objCorrect_mem s _ _ _) form) _ _ _ _) _ _ _ _
      dsimp only
      split
      · exact completePhase_form (counted _ _) _ _
      · exact counted _ _

theorem execPairSwap_form {u : State} (ends : execPairSwap s = .next u) (form : memoryForm s) : memoryForm u := by
  unfold execPairSwap at ends
  dsimp only at ends
  (repeat' split at ends)
  · cases ends
    refine foldl_form (fun t a ht => arrive_form ht _ _ _ _) _ ?_
    exact form_of_mem (putMast_mem _ _ _) (flip_form form _ _)
  · cases ends; exact form
  · cases ends; exact form

theorem objRead_form {a : Word} {off k : Nat} {val : Word} {u : State}
    (ends : s.objRead a off k = .ok (val, u)) (form : memoryForm s) : memoryForm u := by
  grind [memoryForm, State.objRead, bind_ok, correct_mem]

theorem execBarr_form {a : RcSrc} {u : State} (ends : execBarr a s = .next u) (form : memoryForm s) : memoryForm u := by
  grind [memoryForm, execBarr, bind_ok, → finish_form, advance_mem, emit_mem, arrive_form]

theorem execBarrArm_form {d : Reg} {a : RcSrc} {n : Src} {u : State}
    (ends : execBarrArm d a n s = .next u) (form : memoryForm s) : memoryForm u := by
  grind [memoryForm, execBarrArm, bind_ok, → finish_form, result_mem, waiting_mem, setCtx_mem, → objRead_form, setObj_form,
    setMast_mem]

theorem execBarrDis_form {a : RcSrc} {u : State} (ends : execBarrDis a s = .next u) (form : memoryForm s) : memoryForm u := by
  grind [memoryForm, execBarrDis, bind_ok, → finish_form, → objRead_form, setObj_form, advance_mem, setMast_mem]

theorem bwait_form {d : Reg} {a : Word} {go : Word → Bool} {u : State}
    (ends : s.bwait d a go = .next u) (form : memoryForm s) : memoryForm u := by
  grind [memoryForm, State.bwait, bind_ok, → finish_form, → objRead_form, result_mem]

theorem execBwait_form {d : Reg} {a : RcSrc} {v : Src} {u : State}
    (ends : execBwait d a v s = .next u) (form : memoryForm s) : memoryForm u := by
  grind [memoryForm, execBwait, → bwait_form]

theorem execBwaitG_form {d : Reg} {a : RcSrc} {v : Src} {u : State}
    (ends : execBwaitG d a v s = .next u) (form : memoryForm s) : memoryForm u := by
  grind [memoryForm, execBwaitG, → bwait_form]

theorem execBstat_form {d : Reg} {a : RcSrc} {k : Src} {u : State}
    (ends : execBstat d a k s = .next u) (form : memoryForm s) : memoryForm u := by
  grind [memoryForm, execBstat, bind_ok, → finish_form, → objRead_form, result_mem]

theorem execRemoteArrival_form {u : State} (ends : execRemoteArrival s = .next u) (form : memoryForm s) : memoryForm u := by
  grind [memoryForm, execRemoteArrival, drop_mem, arrive_form, isolation_mem, → passed_form]

/-! ### Banks -/

theorem scrub_form (form : memoryForm s) (lo hi : Nat) : memoryForm (s.scrub lo hi) := Memory.wf_clear lo hi form

theorem execBclaim_form {d : Reg} {pin : Bool} {u : State}
    (ends : execBclaim d pin s = .next u) (form : memoryForm s) : memoryForm u := by
  grind [memoryForm, execBclaim, bind_ok, → finish_form, result_mem, scrub_form, disarm_mem, setBank_mem]

theorem execBfree_form {h : RcSrc} {u : State} (ends : execBfree h s = .next u) (form : memoryForm s) : memoryForm u := by
  grind [memoryForm, execBfree, bind_ok, → finish_form, advance_mem, setBank_mem, disarm_mem]

theorem execBfmt_form {h : RcSrc} {fmt : Src} {u : State}
    (ends : execBfmt h fmt s = .next u) (form : memoryForm s) : memoryForm u := by
  grind [memoryForm, execBfmt, bind_ok, → finish_form, advance_mem, setBank_mem]

theorem waitEntries_form {l : List Nat} {go : State → State} (step : memoryForm (go s)) {u : State}
    (ends : s.waitEntries l go = .ok u) (form : memoryForm s) : memoryForm u := by
  unfold State.waitEntries at ends
  dsimp only at ends
  (repeat' split at ends) <;> cases ends <;> first | exact form | exact step

theorem execBfmtRd_form {d : Reg} {h : RcSrc} {u : State}
    (ends : execBfmtRd d h s = .next u) (form : memoryForm s) : memoryForm u := by
  grind [memoryForm, execBfmtRd, bind_ok, → finish_form, result_mem]

theorem execBpair_form {b : Reg} {front shadow : RcSrc} {u : State}
    (ends : execBpair b front shadow s = .next u) (form : memoryForm s) : memoryForm u := by
  unfold execBpair at ends
  refine (finish_form ends form).elim id fun ends => ?_
  simp only [bind_ok] at ends
  grind [memoryForm, bind_ok, → finish_form, advance_mem, setMast_mem]

theorem execBpairClr_form {front : RcSrc} {u : State}
    (ends : execBpairClr front s = .next u) (form : memoryForm s) : memoryForm u := by
  grind [memoryForm, execBpairClr, bind_ok, → finish_form, advance_mem, setMast_mem]

theorem execSbq_form {d : Reg} {u : State} (ends : execSbq d s = .next u) (form : memoryForm s) : memoryForm u := by
  grind [memoryForm, execSbq, result_mem]

theorem sbwait_form {a n : Word} {write : Bool} {u : State}
    (ends : s.sbwait a n write = .next u) (form : memoryForm s) : memoryForm u := by
  unfold State.sbwait at ends
  refine (finish_form ends form).elim id fun ends => ?_
  grind [memoryForm, bind_ok, → finish_form, advance_mem, → waitEntries_form]

theorem execSbwait_form {a : RcSrc} {n : Src} {u : State}
    (ends : execSbwait a n s = .next u) (form : memoryForm s) : memoryForm u := by
  grind [memoryForm, execSbwait, → sbwait_form]

theorem execSbwaitR_form {a : RcSrc} {n : Src} {u : State}
    (ends : execSbwaitR a n s = .next u) (form : memoryForm s) : memoryForm u := by
  grind [memoryForm, execSbwaitR, → sbwait_form]

/-! ### SpliceUnit -/

theorem swap_form (form : memoryForm s) (launch : Nat) (t old new : Word) : memoryForm (s.swap launch t old new).2 := by
  grind [memoryForm, State.swap, putWord_mem]

theorem lastSwap_form {task : Nat} {a b : Word} {u : State}
    (ends : s.lastSwap task a b = .ok u) (form : memoryForm s) : memoryForm u := by
  grind [memoryForm, State.lastSwap, → pushOn_form]

theorem relinkWith_form {core ix launch : Nat} {sp : Splice} {r : Option Word} {u : State}
    (ends : s.relinkWith core ix launch sp r = .ok u) (form : memoryForm s) : memoryForm u := by
  unfold State.relinkWith at ends
  grind [memoryForm, setSplice_mem, → lastSwap_form, completeSplice_mem, relock_mem, releaseFwd_mem]

theorem relink_form {core ix : Nat} {sp : Splice} {u : State}
    (ends : s.relink core ix sp = .ok u) (form : memoryForm s) : memoryForm u := by
  simp only [State.relink, bind_ok] at ends
  grind [memoryForm, bind_ok, swap_form, → relinkWith_form, sendSwap_mem, setSplice_mem, takeReply_mem, completeSplice_mem, waitX]

theorem execRelink_form {u : State} (ends : execRelink s = .next u) (form : memoryForm s) : memoryForm u := by
  grind [memoryForm, execRelink, → passed_form, → happen_form, → orFail_form, → relink_form]

theorem execSpliceSwap_form {u : State} (ends : execSpliceSwap s = .next u) (form : memoryForm s) : memoryForm u := by
  unfold execSpliceSwap at ends
  (repeat' split at ends)
  all_goals grind [memoryForm, bind_ok, → happen_form, → orFail_form, swap_form, drop_mem, emitUnit_mem, → passed_form]

theorem collapse_form {u : State} (ends : s.collapse = .ok u) (form : memoryForm s) : memoryForm u := by
  grind [memoryForm, State.collapse, bind_ok, putTask_mem, putLaunch_mem, putWord_mem, → lastSwap_form, offX]

theorem execCollapse_form {u : State} (ends : execCollapse s = .next u) (form : memoryForm s) : memoryForm u := by
  grind [memoryForm, execCollapse, → happen_form, → orFail_form, → collapse_form]

theorem repoint_form {core ix : Nat} {p : Repointing} {u : State}
    (ends : s.repoint core ix p = .ok u) (form : memoryForm s) : memoryForm u := by
  grind [memoryForm, State.repoint, bind_ok, swap_form, repointWith_mem, sendSwap_mem, setRepoint_mem, takeReply_mem, waitX]

theorem execRepoint_form {u : State} (ends : execRepoint s = .next u) (form : memoryForm s) : memoryForm u := by
  grind [memoryForm, execRepoint, → passed_form, → happen_form, → orFail_form, → repoint_form]

/-! ### Translation -/

theorem setLeafBits_form (form : memoryForm s) (b : Nat) (ls : List Leaf) : memoryForm (s.setLeafBits b ls) := by
  refine foldl_form (fun t l ht => ?_) ls form
  split
  · exact ht
  · exact setDbl_form ht _ _

theorem filled_form (form : memoryForm s) (k : Nat) (rs : List Range) (r : Range) (f : Fill) : memoryForm (s.filled k rs r f) := by
  grind [memoryForm, State.filled, setLeafBits_form, countFill_mem, setOwnerExtents_mem]

theorem execExtentFill_form {u : State} (ends : execExtentFill s = .next u) (form : memoryForm s) : memoryForm u := by
  grind [memoryForm, execExtentFill, → passed_form, walkFailed_mem, filled_form]

theorem dirtied_form (form : memoryForm s) (k : Nat) (x : Extent) (ls : List Leaf) : memoryForm (s.dirtied k x ls) := by
  grind [memoryForm, State.dirtied, setLeafBits_form, setOwnerExtents_mem]

theorem execDirtyRequest_form {u : State} (ends : execDirtyRequest s = .next u) (form : memoryForm s) : memoryForm u := by
  grind [memoryForm, execDirtyRequest, → passed_form, walkFailed_mem, dirtied_form]

/-- A trap is no end of a meaning. -/
theorem trapX_ne {α : Type} {cause : Nat} {addr info : Word} {a : α} : trapX cause addr info ≠ .ok a := nofun

theorem waitX_ne {α : Type} {a : α} : waitX ≠ .ok a := nofun

theorem offX_ne {α : Type} {a : α} : offX ≠ .ok a := nofun

theorem ensure_form {v : Nat} {k : Acc} {u : State} (ends : s.ensure v k = .ok u) (form : memoryForm s) : memoryForm u := by
  unfold State.ensure at ends
  dsimp only at ends
  split at ends
  · exact absurd ends trapX_ne
  · simp only [bind_ok] at ends
    obtain ⟨_, -, _, -, ends⟩ := ends
    split at ends
    · obtain ⟨t, same, ends⟩ := bind_ok.mp ends
      cases same
      grind [bind_ok, dirtied_form, waitX]
    · split at ends
      · exact absurd ends (by simp [waitX, bind, Except.bind])
      · rw [bind_ok] at ends
        obtain ⟨t, same, ends⟩ := ends
        have formed : memoryForm t := by cases same; exact filled_form form _ _ _ _
        clear same
        grind [bind_ok, dirtied_form, waitX]

theorem ensureFor_form {task : Nat} {ea : Word} {k : Acc} {u : State}
    (ends : s.ensureFor task ea k = .ok u) (form : memoryForm s) : memoryForm u := by
  grind [memoryForm, State.ensureFor, bind_ok, → ensure_form, focusTask_mem]

theorem ensureSpan_form {k : Acc} {stop n v : Nat} {u : State} (ends : State.ensureSpan k stop n v s = .ok u) (form : memoryForm s) :
    memoryForm u := by
  induction n generalizing s v with
  | zero => cases ends; exact form
  | succ n ih =>
    unfold State.ensureSpan at ends
    split at ends
    · cases ends; exact form
    · obtain ⟨t, ht, ends⟩ := bind_ok.mp ends
      exact ih ends (ensure_form ht form)

/-! ### Redex -/

theorem execRpush_form {f : Fin 16} {x y : Reg} {u : State}
    (ends : execRpush f x y s = .next u) (form : memoryForm s) : memoryForm u := by
  grind [memoryForm, execRpush, bind_ok, → finish_form, → pushX_form, advance_mem]

theorem execRpop_form {d : Fin 31} {u : State} (ends : execRpop d s = .next u) (form : memoryForm s) : memoryForm u := by
  grind [memoryForm, execRpop, bind_ok, → finish_form, → popOn_form, result2_mem, waitX]

theorem execRule_form {d : Reg} {k1 k2 : Src} {u : State}
    (ends : execRule d k1 k2 s = .next u) (form : memoryForm s) : memoryForm u := by
  grind [memoryForm, execRule, bind_ok, → finish_form, result_mem]

theorem execFork_form {f : Fin 16} {h : RcSrc} {a0 a1 : Src} {u : State}
    (ends : execFork f h a0 a1 s = .next u) (form : memoryForm s) : memoryForm u := by
  unfold execFork at ends
  refine (finish_form ends form).elim id fun ends => ?_
  simp only [bind_ok] at ends
  grind [memoryForm, bind_ok, → finish_form, → pushX_form, advance_mem, trapX]

theorem joinAt_form {key : Nat} {val val2 : Word} {u : State} (ends : s.joinAt key = .ok (val, val2, u)) (form : memoryForm s) :
    memoryForm u := by
  grind [memoryForm, State.joinAt, correct_mem, setDbl_form]

theorem joinReply_form {d : Reg} {a : Word} {x : Answer} {u : State}
    (ends : s.joinReply d a x = .ok u) (form : memoryForm s) : memoryForm u := by
  unfold State.joinReply at ends
  grind [memoryForm, bind_ok, setTask_mem, joinDone_mem, result_mem, trapEntry_form]

theorem join_form {d : Reg} {a : Word} {u : State} (ends : s.join d a = .ok u) (form : memoryForm s) : memoryForm u := by
  unfold State.join at ends
  rw [bind_ok] at ends
  obtain ⟨key, -, ends⟩ := ends
  dsimp only at ends
  split at ends
  · rw [bind_ok] at ends
    obtain ⟨_, -, ends⟩ := ends
    simp only [bind_ok] at ends
    grind [memoryForm, → roomOn_form, setTask_mem, emit_mem, setCtx_mem, waiting_mem, bind_ok, trapX, joinDone_mem, → joinAt_form]
  · simp only [bind_ok] at ends
    grind [memoryForm, → roomOn_form, setTask_mem, emit_mem, setCtx_mem, waiting_mem, bind_ok, trapX, joinDone_mem, → joinAt_form]

theorem execJoin_form {d : Reg} {a : RcSrc} {u : State} (ends : execJoin d a s = .next u) (form : memoryForm s) : memoryForm u := by
  grind [memoryForm, execJoin, → finish_form, → joinReply_form, waiting_mem, → join_form]

theorem execJoinTarget_form {u : State} (ends : execJoinTarget s = .next u) (form : memoryForm s) : memoryForm u := by
  grind [memoryForm, execJoinTarget, drop_mem, emitUnit_mem, → joinAt_form, → passed_form]

theorem startMeeting_form {core task launch : Nat} {strand ctx : Option Nat} {r : Record} {mv : List Bool} {full : Stop} {val : ℕ} {u : State}
    (ends : s.startMeeting core task launch strand ctx r mv full = .ok (val, u)) (form : memoryForm s) : memoryForm u := by
  grind [memoryForm, State.startMeeting, bind_ok, putTask_mem, putCore_mem, nextMove_mem]

theorem execMeetFetch_form {u : State} (ends : execMeetFetch s = .next u) (form : memoryForm s) : memoryForm u := by
  unfold execMeetFetch at ends
  dsimp only at ends
  split at ends
  · split at ends
    · refine (happen_form ends form).elim id fun ends => ?_
      rw [bind_ok] at ends
      obtain ⟨_, -, ends⟩ := ends
      have later (t : State) (m : Option Meeting) (a b : Nat) (ht : memoryForm t) : memoryForm ((m.map (t.takeLater a b)).getD t) := by
        cases m with
        | none => exact ht
        | some m => exact form_of_mem (takeLater_mem t _ _ _) ht
      grind [memoryForm, drop_mem, emitUnit_mem, setMeeting_mem, serveFetch_mem]
    · cases ends; exact form
  · cases ends; exact form

theorem execMeetInstall_form {u : State} (ends : execMeetInstall s = .next u) (form : memoryForm s) : memoryForm u := by
  unfold execMeetInstall at ends
  (repeat' split at ends)
  all_goals grind [memoryForm, bind_ok, → happen_form, → orFail_form, drop_mem, putTask_mem, installMoved_mem, → passed_form]

theorem meet_form {d : Fin 31} {x y : Word} {u : State} (ends : s.meet d x y = .ok u) (form : memoryForm s) : memoryForm u := by
  simp only [State.meet, bind_ok] at ends
  grind [memoryForm, bind_ok, trapEntry_form, dropMeeting_mem, result2_mem, emitHeld_mem, → startMeeting_form, waiting_mem, trapX]

theorem execMeet_form {d : Fin 31} {x y : Reg} {u : State}
    (ends : execMeet d x y s = .next u) (form : memoryForm s) : memoryForm u := by
  grind [memoryForm, execMeet, → finish_form, → meet_form]

theorem startRecord_form
    (form : memoryForm s) (k strand : Nat) (kind : CtxKind) (h w0 w1 w2 c0 c1 : Word) : memoryForm (s.startRecord k strand kind h w0 w1 w2 c0 c1) := by
  grind [memoryForm, State.startRecord, newCtx_form, focus_mem, setCtx_mem, trapEntry_form]

theorem finishRedex_form {core strand k : Nat} {r : Record} {x y : Word} {u : State}
    (ends : s.finishRedex core strand k r x y = .ok u) (form : memoryForm s) : memoryForm u := by
  grind [memoryForm, State.finishRedex, bind_ok, focusTask_mem, withhold_mem, setLaunch_mem, startRecord_form]

theorem orWithhold_form {k : Nat} {r : Record} {x : Ex State} (hx : ∀ t, x = .ok t → memoryForm t) {u : State}
    (ends : s.orWithhold k r x = .ok u) (form : memoryForm s) : memoryForm u := by
  unfold State.orWithhold at ends
  split at ends
  · cases ends; exact form_of_mem (withhold_mem s _ _ _ _ _) form
  · exact hx u ends

theorem dispatchRedex_form {core strand k : Nat} {r : Record} {u : State}
    (ends : s.dispatchRedex core strand k r = .ok u) (form : memoryForm s) : memoryForm u := by
  grind [memoryForm, State.dispatchRedex, bind_ok, → orWithhold_form, → finishRedex_form, emitHeld_mem, → startMeeting_form,
    strandMeeting_mem, trapX]

theorem dispatchRecord_form {core strand k : Nat} {r : Record} {u : State}
    (ends : s.dispatchRecord core strand k r = .ok u) (form : memoryForm s) : memoryForm u := by
  grind [memoryForm, State.dispatchRecord, startRecord_form, → dispatchRedex_form]

theorem dispatchMet_form {core strand : Nat} {m : Meeting} {u : State}
    (ends : s.dispatchMet core strand m = .ok u) (form : memoryForm s) : memoryForm u := by
  grind [memoryForm, State.dispatchMet, bind_ok, strandMeeting_mem, dropMeeting_mem, withhold_mem, putTask_mem, → finishRedex_form]

theorem execDispatch_form {u : State} (ends : execDispatch s = .next u) (form : memoryForm s) : memoryForm u := by
  refine (happen_form ends form).elim id fun ends => ?_
  split at ends
  · split at ends
    · exact dispatchMet_form ends form
    · exact absurd ends offX_ne
  · split at ends
    · exact absurd ends offX_ne
    · split at ends
      · refine orFail_form (fun t ends => ?_) ends form
        obtain ⟨r, popped, ends⟩ := bind_ok.mp ends
        split at ends
        · exact dispatchRecord_form ends (form_of_mem (putCore_mem _ _ _) (popOn_form popped form))
        · exact absurd ends offX_ne
      · exact absurd ends offX_ne

theorem execHandoffArrive_form {u : State} (ends : execHandoffArrive s = .next u) (form : memoryForm s) : memoryForm u := by
  unfold execHandoffArrive at ends
  (repeat' split at ends)
  all_goals grind [memoryForm, bind_ok, → happen_form, → pushOn_form, drop_mem, → passed_form]

theorem execStealRequest_form {u : State} (ends : execStealRequest s = .next u) (form : memoryForm s) : memoryForm u := by
  unfold execStealRequest at ends
  (repeat' split at ends)
  · refine (happen_form ends form).elim id fun ends => orFail_form (fun v ends => ?_) ends form
    simp only [bind_ok] at ends
    obtain ⟨_, -, t, reads, ends⟩ := ends
    have ht : memoryForm t := foldlM_rule (fun b x c hb hc => ensureFor_form hc hb) _ form reads
    cases ends
    refine form_of_mem ((emitHeld_mem _ _ _ _ _ _ _).trans ?_) ht
    split <;> simp
  · cases ends; exact form
  · cases ends; exact form

theorem execStealReply_form {u : State} (ends : execStealReply s = .next u) (form : memoryForm s) : memoryForm u := by
  unfold execStealReply at ends
  split at ends
  · split at ends
    · refine (happen_form ends form).elim id fun ends => ?_
      simp only [bind_ok] at ends
      obtain ⟨_, -, t, pushes, ends⟩ := ends
      have ht : memoryForm t := foldlM_rule (fun b x c hb hc => pushOn_form hc hb) _ (form_of_mem (drop_mem s _) form) pushes
      cases ends
      exact form_of_mem (putCore_mem _ _ _) ht
    · cases ends; exact form
  · cases ends; exact form

theorem execStealRound_form {u : State} (ends : execStealRound s = .next u) (form : memoryForm s) : memoryForm u := by
  grind [memoryForm, execStealRound, putCore_mem, emitHeld_mem, → passed_form]

/-! ### Lanes -/

theorem execVclaim_form {d : Reg} {n : Src} {u : State}
    (ends : execVclaim d n s = .next u) (form : memoryForm s) : memoryForm u := by
  grind [memoryForm, execVclaim, setCtx_mem, growTo_mem, result_mem]

theorem execVren_form {d : Reg} {n : Src} {u : State} (ends : execVren d n s = .next u) (form : memoryForm s) : memoryForm u := by
  grind [memoryForm, execVren, setCtx_mem, growTo_mem, result_mem]

theorem execVyield_form {u : State} (ends : execVyield s = .next u) (form : memoryForm s) : memoryForm u := by
  grind [memoryForm, execVyield, advance_mem, setCtx_mem]

theorem lanes_form {n : Nat} {v : Fin 16} {p : Pred} {f : Nat → Nat} {u : State}
    (ends : s.lanes n v p f = .next u) (form : memoryForm s) : memoryForm u := by
  grind [memoryForm, State.lanes, bind_ok, → finish_form, advance_mem, setCtx_mem]

theorem lanes2_form {t : VTy} {v : Fin 16} {a b : VSrc} {p : Pred} {f : Nat → Nat → Nat} {u : State}
    (ends : s.lanes2 t v a b p f = .next u) (form : memoryForm s) : memoryForm u := by
  grind [memoryForm, State.lanes2, → lanes_form]

theorem execVadd_form {t : VTy} {v : Fin 16} {a b : VSrc} {p : Pred} {u : State}
    (ends : execVadd t v a b p s = .next u) (form : memoryForm s) : memoryForm u := by
  grind [memoryForm, execVadd, → lanes2_form]

theorem execVsub_form {t : VTy} {v : Fin 16} {a b : VSrc} {p : Pred} {u : State}
    (ends : execVsub t v a b p s = .next u) (form : memoryForm s) : memoryForm u := by
  grind [memoryForm, execVsub, → lanes2_form]

theorem execVmul_form {t : VTy} {v : Fin 16} {a b : VSrc} {p : Pred} {u : State}
    (ends : execVmul t v a b p s = .next u) (form : memoryForm s) : memoryForm u := by
  grind [memoryForm, execVmul, → lanes2_form]

theorem execVmulz_form {t : VTy} {v : Fin 16} {a b : VSrc} {p : Pred} {u : State}
    (ends : execVmulz t v a b p s = .next u) (form : memoryForm s) : memoryForm u := by
  grind [memoryForm, execVmulz, → lanes2_form]

theorem execVfma_form {t : VTy} {v : Fin 16} {a b : VSrc} {p : Pred} {u : State}
    (ends : execVfma t v a b p s = .next u) (form : memoryForm s) : memoryForm u := by
  grind [memoryForm, execVfma, → lanes_form]

theorem execVmin_form {t : VTy} {v : Fin 16} {a b : VSrc} {p : Pred} {u : State}
    (ends : execVmin t v a b p s = .next u) (form : memoryForm s) : memoryForm u := by
  grind [memoryForm, execVmin, → lanes2_form]

theorem execVmax_form {t : VTy} {v : Fin 16} {a b : VSrc} {p : Pred} {u : State}
    (ends : execVmax t v a b p s = .next u) (form : memoryForm s) : memoryForm u := by
  grind [memoryForm, execVmax, → lanes2_form]

theorem execVcmp_form {r : Rel} {t : VTy} {m : Fin 4} {a b : VSrc} {u : State}
    (ends : execVcmp r t m a b s = .next u) (form : memoryForm s) : memoryForm u := by
  grind [memoryForm, execVcmp, bind_ok, → finish_form, advance_mem, setCtx_mem]

theorem execVsel_form {t : VTy} {v : Fin 16} {m : Fin 4} {a b : VSrc} {u : State}
    (ends : execVsel t v m a b s = .next u) (form : memoryForm s) : memoryForm u := by
  grind [memoryForm, execVsel, → lanes_form]

theorem execVcvt_form {dst src : VTy} {r : Rnd} {v : Fin 16} {a : VSrc} {p : Pred} {u : State}
    (ends : execVcvt dst src r v a p s = .next u) (form : memoryForm s) : memoryForm u := by
  grind [memoryForm, execVcvt, → lanes_form]

theorem execVrank_form {v : Fin 16} {a : RcSrc} {b : VSrc} {p : Pred} {u : State}
    (ends : execVrank v a b p s = .next u) (form : memoryForm s) : memoryForm u := by
  grind [memoryForm, execVrank, → lanes_form]

theorem execVselect_form {v : Fin 16} {a : RcSrc} {b : VSrc} {p : Pred} {u : State}
    (ends : execVselect v a b p s = .next u) (form : memoryForm s) : memoryForm u := by
  grind [memoryForm, execVselect, → lanes_form]

theorem execVpopc_form {v : Fin 16} {a : VSrc} {p : Pred} {u : State}
    (ends : execVpopc v a p s = .next u) (form : memoryForm s) : memoryForm u := by
  grind [memoryForm, execVpopc, → lanes_form]

theorem execVshuf_form {t : VTy} {v : Fin 16} {a : Fin 16} {b : VSrc} {p : Pred} {u : State}
    (ends : execVshuf t v a b p s = .next u) (form : memoryForm s) : memoryForm u := by
  grind [memoryForm, execVshuf, → lanes_form]

theorem execVbcast_form {t : VTy} {v : Fin 16} {a : Src} {p : Pred} {u : State}
    (ends : execVbcast t v a p s = .next u) (form : memoryForm s) : memoryForm u := by
  grind [memoryForm, execVbcast, → lanes_form]

theorem execVidx_form {t : VTy} {v : Fin 16} {a b : Src} {p : Pred} {u : State}
    (ends : execVidx t v a b p s = .next u) (form : memoryForm s) : memoryForm u := by
  grind [memoryForm, execVidx, → lanes_form]

theorem execVxp_form {t : VTy} {v : Fin 16} {x0 x1 x2 x3 : VSrc} {prog : BitVec 48} {p : Pred} {u : State}
    (ends : execVxp t v x0 x1 x2 x3 prog p s = .next u) (form : memoryForm s) : memoryForm u := by
  grind [memoryForm, execVxp, → lanes_form]

theorem bankRead_form {ea : Word} {n : Nat} {bs : List Byte} {u : State} (ends : s.bankRead ea n = .ok (bs, u)) (form : memoryForm s) :
    memoryForm u := by
  have corrected (l : List (Nat × Nat × Nat)) : memoryForm (l.foldl (fun s r => s.correct r.1 r.2.2) s) :=
    form_of_mem (foldl_mem (fun t r => correct_mem t _ _) _ _) form
  unfold State.bankRead at ends
  grind [bind_ok, trapX]

theorem execVld_form {t : VTy} {v : Fin 16} {base : Reg} {off : BitVec 12} {u : State}
    (ends : execVld t v base off s = .next u) (form : memoryForm s) : memoryForm u := by
  grind [memoryForm, execVld, bind_ok, → finish_form, → bankRead_form, advance_mem, setCtx_mem]

theorem execVst_form {t : VTy} {v : Fin 16} {base : Reg} {off : BitVec 12} {u : State}
    (ends : execVst t v base off s = .next u) (form : memoryForm s) : memoryForm u := by
  grind [memoryForm, execVst, bind_ok, → finish_form, advance_mem, buffer_mem]

theorem gather_form {size : Nat} {ea : Nat → Word} {l : List Nat} {val : List (Nat × Nat)} {u : State}
    (ends : State.gather size ea l s = .ok (val, u)) (form : memoryForm s) : memoryForm u := by
  induction l generalizing s val with
  | nil => cases ends; exact form
  | cons a l ih =>
    simp only [State.gather, bind_ok] at ends
    obtain ⟨p, hp, q, hq, ends⟩ := ends
    cases ends
    exact ih hq (bankRead_form hp form)

theorem execVgath_form {t : VTy} {v : Fin 16} {a : RcSrc} {idx : Fin 16} {p : Pred} {u : State}
    (ends : execVgath t v a idx p s = .next u) (form : memoryForm s) : memoryForm u := by
  grind [memoryForm, execVgath, bind_ok, → finish_form, → gather_form, advance_mem, setCtx_mem]

theorem reduce_form {t : VTy} {d : Reg} {a n : Word} {op : Nat → Nat → Nat} {ifNone : Nat} {u : State}
    (ends : s.reduce t d a n op ifNone = .next u) (form : memoryForm s) : memoryForm u := by
  grind [memoryForm, State.reduce, bind_ok, → finish_form, result_mem, → bankRead_form]

theorem execVsum_form {t : VTy} {d : Reg} {a : RcSrc} {n : Src} {u : State}
    (ends : execVsum t d a n s = .next u) (form : memoryForm s) : memoryForm u := by
  grind [memoryForm, execVsum, → reduce_form]

theorem execVmaxr_form {t : VTy} {d : Reg} {a : RcSrc} {n : Src} {u : State}
    (ends : execVmaxr t d a n s = .next u) (form : memoryForm s) : memoryForm u := by
  grind [memoryForm, execVmaxr, → reduce_form]

theorem execVredq_form {t : VTy} {d : Reg} {q : Fin 32} {c : Reg} {u : State}
    (ends : execVredq t d q c s = .next u) (form : memoryForm s) : memoryForm u := by
  unfold execVredq at ends
  refine (finish_form ends form).elim id fun ends => ?_
  simp only [bind_ok] at ends
  grind [memoryForm, bind_ok, → finish_form, advance_mem, setMast_mem, awaitMine_mem, tookEntry_mem, waiting_mem, setCtx_mem]

theorem vredqSlot_form {e : Nat} {t : VTy} {d : Reg} {q : Fin 32} {c : Reg} {u : State} (ends : s.vredqSlot e t d q c = .ok u)
    (form : memoryForm s) : memoryForm u := by
  have corrected (l : List (Nat × Nat × Nat)) : memoryForm (l.foldl (fun s p => s.correct p.1 p.2.2) s) :=
    form_of_mem (foldl_mem (fun t r => correct_mem t _ _) _ _) form
  unfold State.vredqSlot at ends
  split at ends
  · exact absurd ends offX_ne
  · rw [bind_ok] at ends
    obtain ⟨_, -, ends⟩ := ends
    dsimp only at ends
    split at ends
    · rw [← Except.ok.inj ends]
      exact trapEntry_form (form_of_mem (stopVredq_mem s) form) _ _ _ _
    · rw [← Except.ok.inj ends]
      exact form_of_mem ((setReg_mem _ _ _).trans ((setReg_mem _ _ _).trans (setMast_mem _ _))) (corrected _)

theorem execVredqSlot_form {u : State} (ends : execVredqSlot s = .next u) (form : memoryForm s) : memoryForm u := by
  grind [memoryForm, execVredqSlot, focus_mem, → happen_form, → vredqSlot_form, → passed_form]

/-! ### SpecialFn -/

theorem special_form {f : SfFn} {d : Reg} {a n : Word} {u : State} (ends : s.special f d a n = .next u) (form : memoryForm s) :
    memoryForm u := by
  unfold State.special at ends
  refine (finish_form ends form).elim id fun ends => ?_
  split at ends
  · rw [← Except.ok.inj ends]
    exact form_of_mem (advance_mem s 1) form
  · simp only [bind_ok] at ends
    obtain ⟨_, -, _, -, _, -, _, -, _, -, _, -, _, -, _, -, ends⟩ := ends
    split at ends
    · rw [← Except.ok.inj ends]
      exact form_of_mem (awaitMine_mem s) form
    · rw [← Except.ok.inj ends]
      exact form_of_mem ((advance_mem _ _).trans ((setMast_mem _ _).trans (tookEntry_mem s))) form

theorem execVexp2_form {d : Reg} {a : RcSrc} {n : Src} {u : State}
    (ends : execVexp2 d a n s = .next u) (form : memoryForm s) : memoryForm u := by
  grind [memoryForm, execVexp2, → special_form]

theorem execVlog2_form {d : Reg} {a : RcSrc} {n : Src} {u : State}
    (ends : execVlog2 d a n s = .next u) (form : memoryForm s) : memoryForm u := by
  grind [memoryForm, execVlog2, → special_form]

theorem execVrcp_form {d : Reg} {a : RcSrc} {n : Src} {u : State}
    (ends : execVrcp d a n s = .next u) (form : memoryForm s) : memoryForm u := by
  grind [memoryForm, execVrcp, → special_form]

theorem execVrsq_form {d : Reg} {a : RcSrc} {n : Src} {u : State}
    (ends : execVrsq d a n s = .next u) (form : memoryForm s) : memoryForm u := by
  grind [memoryForm, execVrsq, → special_form]

theorem execVtanh_form {d : Reg} {a : RcSrc} {n : Src} {u : State}
    (ends : execVtanh d a n s = .next u) (form : memoryForm s) : memoryForm u := by
  grind [memoryForm, execVtanh, → special_form]

theorem execSfStart_form {u : State} (ends : execSfStart s = .next u) (form : memoryForm s) : memoryForm u := by
  grind [memoryForm, execSfStart, putMast_mem, → passed_form]

theorem writeBank_form (form : memoryForm s) (mast off : Nat) (bs : List Byte) : memoryForm (s.writeBank mast off bs) :=
  foldl_form (fun _ r ht => write_form ht r.1 _) _ form

theorem readBank_form (form : memoryForm s) (mast off n : Nat) : memoryForm (s.readBank mast off n).2.2 :=
  form_of_mem (readBank_mem s mast off n) form

theorem sfChunk_form (form : memoryForm s) (mast : Nat) (q : SfReq) : memoryForm (s.sfChunk mast q) := by
  grind [memoryForm, State.sfChunk, readBank_form, writeBank_form]

theorem execSfRetire_form {u : State} (ends : execSfRetire s = .next u) (form : memoryForm s) : memoryForm u := by
  grind [memoryForm, execSfRetire, sfChunk_form, putMast_mem, → passed_form]

/-! ### Envelope -/

theorem eaCompute_form (form : memoryForm s) (mast : Nat) (o : EaOp) : memoryForm (s.eaCompute mast o).2 := by
  grind [memoryForm, State.eaCompute, readBank_form]

theorem execEaStart_form {u : State} (ends : execEaStart s = .next u) (form : memoryForm s) : memoryForm u := by
  grind [memoryForm, execEaStart, eaCompute_form, putMast_mem, → passed_form]

theorem execEaCommit_form {u : State} (ends : execEaCommit s = .next u) (form : memoryForm s) : memoryForm u := by
  unfold execEaCommit at ends
  all_goals grind [memoryForm, putMast_mem, writeBank_form, eaEnd_mem, → passed_form]

theorem eaIssue_form {o : EaOp} {reads writes : Nat} {u : State}
    (ends : s.eaIssue o reads writes = .ok u) (form : memoryForm s) : memoryForm u := by
  grind [memoryForm, State.eaIssue, bind_ok, setMast_mem, tookEntry_mem, waiting_mem, setCtx_mem, awaitMine_mem]

theorem envOp_form {d : Option Reg} {issue : Ex State} (hx : ∀ t, issue = .ok t → memoryForm t) {u : State}
    (ends : s.envOp d issue = .next u) (form : memoryForm s) : memoryForm u := by
  grind [memoryForm, State.envOp, → finish_form, waiting_mem, trapEntry_form, result_mem, advance_mem]

theorem execEclaim_form {d : Reg} {e : Fin 16} {n : Src} {u : State}
    (ends : execEclaim d e n s = .next u) (form : memoryForm s) : memoryForm u := by
  grind [memoryForm, execEclaim, bind_ok, → envOp_form, → eaIssue_form]

theorem execEcap_form {d : Reg} {e : Fin 16} {n : Src} {u : State}
    (ends : execEcap d e n s = .next u) (form : memoryForm s) : memoryForm u := by
  grind [memoryForm, execEcap, bind_ok, → envOp_form, → eaIssue_form]

theorem execEclr_form {hi : Reg} {e : Fin 16} {lo : Src} {u : State}
    (ends : execEclr hi e lo s = .next u) (form : memoryForm s) : memoryForm u := by
  grind [memoryForm, execEclr, bind_ok, → envOp_form, → eaIssue_form]

theorem execEclrFree_form {e : Fin 16} {u : State} (ends : execEclrFree e s = .next u) (form : memoryForm s) : memoryForm u := by
  grind [memoryForm, execEclrFree, bind_ok, → envOp_form, → eaIssue_form]

theorem execEins_form {e : Fin 16} {a : RcSrc} {n : Src} {u : State}
    (ends : execEins e a n s = .next u) (form : memoryForm s) : memoryForm u := by
  grind [memoryForm, execEins, bind_ok, → envOp_form, → eaIssue_form]

theorem ea3_form {k : EaKind} {ed ex ey : Fin 16} {u : State}
    (ends : s.ea3 k ed ex ey = .next u) (form : memoryForm s) : memoryForm u := by
  grind [memoryForm, State.ea3, bind_ok, → envOp_form, → eaIssue_form]

theorem execEmax_form {ed ex ey : Fin 16} {u : State}
    (ends : execEmax ed ex ey s = .next u) (form : memoryForm s) : memoryForm u := by
  grind [memoryForm, execEmax, → ea3_form]

theorem execEsum_form {ed ex ey : Fin 16} {u : State}
    (ends : execEsum ed ex ey s = .next u) (form : memoryForm s) : memoryForm u := by
  grind [memoryForm, execEsum, → ea3_form]

theorem execEinf_form {ed ex ey : Fin 16} {u : State}
    (ends : execEinf ed ex ey s = .next u) (form : memoryForm s) : memoryForm u := by
  grind [memoryForm, execEinf, → ea3_form]

theorem execEleg_form {ed ex : Fin 16} {u : State} (ends : execEleg ed ex s = .next u) (form : memoryForm s) : memoryForm u := by
  grind [memoryForm, execEleg, bind_ok, → envOp_form, → eaIssue_form]

theorem execEeval_form {e : Fin 16} {a : RcSrc} {n : Src} {u : State}
    (ends : execEeval e a n s = .next u) (form : memoryForm s) : memoryForm u := by
  grind [memoryForm, execEeval, bind_ok, → envOp_form, → eaIssue_form]

theorem execEread_form {e : Fin 16} {a : RcSrc} {n : Src} {u : State}
    (ends : execEread e a n s = .next u) (form : memoryForm s) : memoryForm u := by
  grind [memoryForm, execEread, bind_ok, → envOp_form, → eaIssue_form]

theorem execEcnt_form {d : Reg} {e : Fin 16} {u : State}
    (ends : execEcnt d e s = .next u) (form : memoryForm s) : memoryForm u := by
  grind [memoryForm, execEcnt, bind_ok, → envOp_form, → eaIssue_form]

/-! ### Network -/

theorem messageBytes_form {a : Word} {n : Nat} {val : List Byte} {u : State}
    (ends : s.messageBytes a n = .ok (val, u)) (form : memoryForm s) : memoryForm u := by
  grind [memoryForm, State.messageBytes, bind_ok, → bankRead_form, → readChecked_form]

theorem send_form {net : Nat} {d : Reg} {a n : Word} {inl : Bool} {u : State}
    (ends : s.send net d a n inl = .next u) (form : memoryForm s) : memoryForm u := by
  unfold State.send at ends
  refine (finish_form ends form).elim id fun ends => ?_
  simp only [bind_ok] at ends
  grind [memoryForm, bind_ok, → finish_form, → messageBytes_form, advance_mem, emit_mem]

theorem execSend_form {vn : SendNet} {d : Reg} {a : RcSrc} {n : Src} {u : State}
    (ends : execSend vn d a n s = .next u) (form : memoryForm s) : memoryForm u := by
  grind [memoryForm, execSend, → send_form]

theorem execSendi_form {rep : Bool} {d : Reg} {a : RcSrc} {n : Src} {u : State}
    (ends : execSendi rep d a n s = .next u) (form : memoryForm s) : memoryForm u := by
  grind [memoryForm, execSendi, → send_form]

theorem hretCore_form {u : State} (ends : s.hretCore = .ok u) (form : memoryForm s) : memoryForm u := by
  grind [memoryForm, State.hretCore, bind_ok, setTask_mem, endCtx_mem]

theorem hretHart_form {u : State} (ends : s.hretHart = .ok u) (form : memoryForm s) : memoryForm u := by
  grind [memoryForm, State.hretHart, bind_ok, setMast_mem, setCtx_mem]

theorem execHret_form {u : State} (ends : execHret s = .next u) (form : memoryForm s) : memoryForm u := by
  grind [memoryForm, execHret, → finish_form, → hretHart_form, → hretCore_form]

theorem fire_form {k off : Nat} {u : State} (ends : s.fire k off = .ok u) (form : memoryForm s) : memoryForm u := by
  grind [memoryForm, State.fire, → pushOn_form, putTask_mem, failTask_mem]

theorem execTbind_form {k : Reg} {a b : RcSrc} {u : State} (ends : execTbind k a b s = .next u) (form : memoryForm s) : memoryForm u := by
  refine (finish_form ends form).elim id fun ends => ?_
  obtain ⟨_, -, ends⟩ := bind_ok.mp ends
  obtain ⟨_, -, ends⟩ := bind_ok.mp ends
  split at ends
  · cases ends
  · obtain ⟨_, -, ends⟩ := bind_ok.mp ends
    obtain ⟨t, fired, ends⟩ := bind_ok.mp ends
    cases ends
    exact form_of_mem (advance_mem t 1) (foldlM_rule (fun b x c hb hc => fire_form hc hb) _ (form_of_mem (setTask_mem s _) form) fired)

theorem execTunbind_form {a : RcSrc} {u : State} (ends : execTunbind a s = .next u) (form : memoryForm s) : memoryForm u := by
  grind [memoryForm, execTunbind, bind_ok, → finish_form, advance_mem, setTask_mem]

theorem atomSend_form {d : Reg} {n dst : Nat} {k : PKind} {posted trig : Bool} {u : State}
    (ends : s.atomSend d n dst k posted trig = .ok u) (form : memoryForm s) : memoryForm u := by
  grind [memoryForm, State.atomSend, bind_ok, advance_mem, emit_mem, setTask_mem, waiting_mem, setCtx_mem]

theorem atomIssue_form {d : Reg} {n : Nat} {ea : Word} {op : AtomOp} {v nw : Word} {trig : Bool} {u : State}
    (ends : s.atomIssue d n ea op v nw trig = .ok u) (form : memoryForm s) : memoryForm u := by
  simp only [State.atomIssue, bind_ok] at ends
  grind [memoryForm, bind_ok, → atomicAt_form, result_mem, → fire_form, advance_mem, isolation_mem, → atomSend_form]

theorem atomReply_form (form : memoryForm s) (d : Reg) (n : Nat) (ea : Word) (x : Answer) : memoryForm (s.atomReply d n ea x) := by
  cases x with
  | value w => exact form_of_mem (result_mem s _ _ _) form
  | joined w c => exact form_of_mem (result_mem s _ _ _) form
  | fault c a => exact trapEntry_form form _ _ _ _

theorem ratomic_form {n : Nat} {d : Reg} {ea : Word} {op : AtomOp} {v nw : Word} {trig : Bool} {u : State}
    (ends : s.ratomic n d ea op v nw trig = .next u) (form : memoryForm s) : memoryForm u := by
  grind [memoryForm, State.ratomic, atomReply_form, waiting_mem, → finish_form, → atomIssue_form]

theorem execAaddRemote_form {t : Bool} {d : Reg} {a : RcSrc} {v : Src} {u : State}
    (ends : execAaddRemote t d a v s = .next u) (form : memoryForm s) : memoryForm u := by
  grind [memoryForm, execAaddRemote, → ratomic_form]

theorem execAcasRemote_form {t : Bool} {d : Reg} {a : RcSrc} {e nw : Src} {u : State}
    (ends : execAcasRemote t d a e nw s = .next u) (form : memoryForm s) : memoryForm u := by
  grind [memoryForm, execAcasRemote, → ratomic_form]

theorem execAxchRemote_form {t : Bool} {d : Reg} {a : RcSrc} {v : Src} {u : State}
    (ends : execAxchRemote t d a v s = .next u) (form : memoryForm s) : memoryForm u := by
  grind [memoryForm, execAxchRemote, → ratomic_form]

theorem execAminRemote_form {t natural : Bool} {d : Reg} {a : RcSrc} {v : Src} {u : State}
    (ends : execAminRemote t natural d a v s = .next u) (form : memoryForm s) : memoryForm u := by
  grind [memoryForm, execAminRemote, → ratomic_form]

theorem execAmaxRemote_form {t natural : Bool} {d : Reg} {a : RcSrc} {v : Src} {u : State}
    (ends : execAmaxRemote t natural d a v s = .next u) (form : memoryForm s) : memoryForm u := by
  grind [memoryForm, execAmaxRemote, → ratomic_form]

theorem execAandRemote_form {t : Bool} {d : Reg} {a : RcSrc} {v : Src} {u : State}
    (ends : execAandRemote t d a v s = .next u) (form : memoryForm s) : memoryForm u := by
  grind [memoryForm, execAandRemote, → ratomic_form]

theorem execAorRemote_form {t : Bool} {d : Reg} {a : RcSrc} {v : Src} {u : State}
    (ends : execAorRemote t d a v s = .next u) (form : memoryForm s) : memoryForm u := by
  grind [memoryForm, execAorRemote, → ratomic_form]

theorem map_ok {ε α β : Type} {x : Except ε α} {f : α → β} {b : β} : x.map f = .ok b ↔ ∃ a, x = .ok a ∧ f a = b := by
  cases x <;> simp [Except.map]

theorem execRatomicTarget_form {u : State} (ends : execRatomicTarget s = .next u) (form : memoryForm s) : memoryForm u := by
  have fired_form {t v : State} {k off : Nat} {c : Prop} [Decidable c] (ht : memoryForm t)
      (fired : (if c then t.fire k off else .ok t) = .ok v) : memoryForm v := by
    split at fired
    · exact fire_form fired ht
    · rw [← Except.ok.inj fired]
      exact ht
  unfold execRatomicTarget at ends
  split at ends
  · split at ends
    · rename_i p _ _ op ea v nw trig posted key _
      have dropped : memoryForm (s.drop p) := form_of_mem (drop_mem s p) form
      split at ends
      · cases ends; exact form
      · dsimp only at ends
        split at ends
        · rw [← Host.Outcome.next.inj ends]
          exact form_of_mem ((atomAnswer_mem _ _ _ _ _).trans (isolation_mem _ _ _ _)) dropped
        · split at ends
          · rw [← Host.Outcome.next.inj ends]
            exact form_of_mem (atomAnswer_mem _ _ _ _ _) dropped
          · split at ends
            · rw [← Host.Outcome.next.inj ends]
              exact form_of_mem (atomAnswer_mem _ _ _ _ _) dropped
            · refine (happen_form ends form).elim id fun ends => ?_
              obtain ⟨t, fired, same⟩ := map_ok.mp ends
              rw [← same]
              refine form_of_mem (atomAnswer_mem _ _ _ _ _) ?_
              have corrected (k : Nat) : memoryForm ((s.drop p).correct k 8) := form_of_mem (correct_mem _ _ _) dropped
              split at fired
              · exact fired_form (corrected _) fired
              · exact fired_form (setDbl_form (corrected _) _ _) fired
    · cases ends; exact form
  · cases ends; exact form

theorem execRemoteStoreApply_form {u : State} (ends : execRemoteStoreApply s = .next u) (form : memoryForm s) : memoryForm u := by
  grind [memoryForm, execRemoteStoreApply, → passed_form, drop_mem, isolation_mem, write_form]

theorem execReplyArrive_form {u : State} (ends : execReplyArrive s = .next u) (form : memoryForm s) : memoryForm u := by
  grind [memoryForm, execReplyArrive, putCtx_mem, drop_mem, putTask_mem, → passed_form]

theorem execPacketLeave_form {u : State} (ends : execPacketLeave s = .next u) (form : memoryForm s) : memoryForm u := by
  grind [memoryForm, execPacketLeave, → passed_form, useSq_mem]

theorem execMsgArrive_form {u : State} (ends : execMsgArrive s = .next u) (form : memoryForm s) : memoryForm u := by
  unfold execMsgArrive at ends
  (repeat' split at ends)
  all_goals grind [memoryForm, → passed_form, drop_mem, write_form, putTask_mem]

theorem dispatchMsg_form
    (form : memoryForm s) (core strand k ix : Nat) (m : Msg) : memoryForm (s.dispatchMsg core strand k ix m) := by
  grind [memoryForm, State.dispatchMsg, newCtx_form, focus_mem, setTask_mem, setCtx_mem, emitUnit_mem, trapEntry_form]

theorem execMsgDispatch_form {u : State} (ends : execMsgDispatch s = .next u) (form : memoryForm s) : memoryForm u := by
  grind [memoryForm, execMsgDispatch, dispatchMsg_form, → passed_form]

theorem execErrorReply_form {u : State} (ends : execErrorReply s = .next u) (form : memoryForm s) : memoryForm u := by
  grind [memoryForm, execErrorReply, drop_mem, putTask_mem, → passed_form]

theorem execLinkRetrain_form {u : State} (ends : execLinkRetrain s = .next u) (form : memoryForm s) : memoryForm u := by
  grind [memoryForm, execLinkRetrain, → passed_form]

theorem execLinkReroute_form {u : State} (ends : execLinkReroute s = .next u) (form : memoryForm s) : memoryForm u := by
  grind [memoryForm, execLinkReroute, → passed_form]

/-! ### Csr -/

theorem execCsrr_form {d : Reg} {csr : BitVec 12} {u : State}
    (ends : execCsrr d csr s = .next u) (form : memoryForm s) : memoryForm u := by
  grind [memoryForm, execCsrr, bind_ok, → finish_form, result_mem]

theorem execCsrw_form {csr : BitVec 12} {r : Reg} {u : State}
    (ends : execCsrw csr r s = .next u) (form : memoryForm s) : memoryForm u := by
  grind [memoryForm, execCsrw, bind_ok, → finish_form, advance_mem, setHartCsr_mem, setCsr_mem]

theorem execCyc_form {d : Reg} {u : State} (ends : execCyc d s = .next u) (form : memoryForm s) : memoryForm u := by
  grind [memoryForm, execCyc, result_mem]

theorem execBinjArm_form {r : Reg} {u : State} (ends : execBinjArm r s = .next u) (form : memoryForm s) : memoryForm u := by
  grind [memoryForm, execBinjArm, bind_ok, → finish_form, advance_mem, setTask_mem]

theorem execSyscBeat_form {d : Reg} {_a : Src} {u : State}
    (ends : execSyscBeat d _a s = .next u) (form : memoryForm s) : memoryForm u := by
  grind [memoryForm, execSyscBeat, bind_ok, → finish_form, result_mem]

theorem execSyscInfo_form {d : Reg} {_a : Src} {u : State}
    (ends : execSyscInfo d _a s = .next u) (form : memoryForm s) : memoryForm u := by
  grind [memoryForm, execSyscInfo, bind_ok, → finish_form, result_mem]

theorem execSyscFail_form {_d : Reg} {a : Src} {u : State}
    (ends : execSyscFail _d a s = .next u) (form : memoryForm s) : memoryForm u := by
  grind [memoryForm, execSyscFail, bind_ok, → finish_form, setCtx_mem, failLaunch_mem, setTask_mem]

/-! ### Contexts -/

theorem spillAll_form (form : memoryForm s) : memoryForm (s.spillAll) := by
  grind [memoryForm, State.spillAll, spillGroups_form, setCtx_mem]

theorem execParkContext_form {u : State} (ends : execParkContext s = .next u) (form : memoryForm s) : memoryForm u := by
  grind [memoryForm, execParkContext, focus_mem, spillAll_form, stopVredq_mem, setCtx_mem, freeStrand_mem, → passed_form]

theorem execResumeContext_form {u : State} (ends : execResumeContext s = .next u) (form : memoryForm s) : memoryForm u := by
  grind [memoryForm, execResumeContext, resumeOn_mem, → passed_form]

theorem deliver_form (form : memoryForm s) : memoryForm (s.deliver) := by
  grind [memoryForm, State.deliver, leaveLines_mem, result_mem, stopVredq_mem, setCtx_mem, setPc_mem, slideUp_form]

theorem execDeliverEvent_form {u : State} (ends : execDeliverEvent s = .next u) (form : memoryForm s) : memoryForm u := by
  grind [memoryForm, execDeliverEvent, focus_mem, deliver_form, → passed_form]

/-! ### Yards -/

theorem execBfmtTab_form {id code : Src} {u : State}
    (ends : execBfmtTab id code s = .next u) (form : memoryForm s) : memoryForm u := by
  grind [memoryForm, execBfmtTab, bind_ok, → finish_form, → waitEntries_form, advance_mem, setMast_mem]

theorem yardReport_form (form : memoryForm s) (mast : Nat) (c : YCmd) (st : Word) : memoryForm (s.yardReport mast c st) := by
  grind [memoryForm, State.yardReport, arrive_form, putLaunch_mem]

theorem batchWord_form {mast : Nat} {c : YCmd} {w : Word} {u : State} (ends : s.batchWord mast c = some (w, u)) (form : memoryForm s) :
    memoryForm u := by
  unfold State.batchWord at ends
  dsimp only at ends
  (repeat' split at ends)
  · cases ends
  · cases ends; exact form
  · obtain ⟨-, rfl⟩ := Prod.mk.inj (Option.some.inj ends)
    exact form_of_mem (correct_mem s _ _) form

theorem seal_form {mast : Nat} {c d : YCmd} {u : State} (ends : s.seal mast c = some (d, u)) (form : memoryForm s) : memoryForm u := by
  unfold State.seal at ends
  split at ends
  · obtain ⟨p, word, same⟩ := Option.map_eq_some_iff.mp ends
    cases same
    exact batchWord_form word form
  · cases ends; exact form

theorem postChecked_form {core : Nat} {c : YCmd} {u : State}
    (ends : s.postChecked core c = some u) (form : memoryForm s) : memoryForm u := by
  grind [memoryForm, State.postChecked, yardReport_form, freeYSlot_mem, enqueue_mem]

theorem postValid_form {core : Nat} {c : YCmd} {u : State} (ends : s.postValid core c = some u) (form : memoryForm s) : memoryForm u := by
  unfold State.postValid at ends
  dsimp only at ends
  split at ends
  · cases ends; exact form
  · obtain ⟨e, -, same⟩ := Option.map_eq_some_iff.mp ends
    cases same
    exact form_of_mem (endAwait_mem s _ _) form

theorem post_form {core l slot : Nat} {u : State} (ends : s.post core l slot = some u) (form : memoryForm s) : memoryForm u := by
  grind [memoryForm, State.post, endAwait_mem, → postChecked_form, → seal_form, → postValid_form]

theorem takeNext_form {core : Nat} {c : YCmd} {u : State} (ends : s.takeNext core c = some u) (form : memoryForm s) : memoryForm u := by
  grind [memoryForm, State.takeNext, setYhead_mem, putMast_mem]

theorem takeRings_form (form : memoryForm s) (n core : Nat) : memoryForm (State.takeRings n core s) := by
  induction n generalizing s with
  | zero => exact form
  | succ n ih =>
    unfold State.takeRings
    (repeat' split)
    · exact form
    · exact form
    · exact form
    · exact ih (takeNext_form ‹_› form)

theorem giveWay_form {mast yard core : Nat} {c : YCmd} {u : State} (ends : s.giveWay mast yard core c = some u) (form : memoryForm s) :
    memoryForm u := by
  obtain ⟨k, -, same⟩ := Option.map_eq_some_iff.mp ends
  cases same
  exact form_of_mem ((runHead_mem _ _ _ _).trans (setYhead_mem s _ _)) form

theorem yardChoice_form {mast yard : Nat} {u : State} (ends : s.yardChoice mast yard = some u) (form : memoryForm s) : memoryForm u := by
  unfold State.yardChoice at ends
  split at ends
  · obtain ⟨k, -, same⟩ := Option.map_eq_some_iff.mp ends
    cases same
    exact form_of_mem (runHead_mem s _ _ _) form
  · grind [memoryForm, → giveWay_form, takeOver_mem, runHead_mem]

theorem execYardSchedule_form {u : State} (ends : execYardSchedule s = .next u) (form : memoryForm s) : memoryForm u := by
  have taken (l : List Nat) : memoryForm (l.foldl (fun s k => s.takeRings 2 k) s) := foldl_form (fun t k ht => takeRings_form ht 2 k) l form
  grind [execYardSchedule, State.passed, → yardChoice_form]

theorem execYmma_form {u : State} (ends : execYmma s = .next u) (form : memoryForm s) : memoryForm u := by
  unfold execYmma at ends
  dsimp only at ends
  (repeat' split at ends) <;> cases ends
  all_goals simp_all [memoryForm]

theorem execYgang_form {u : State} (ends : execYgang s = .next u) (form : memoryForm s) : memoryForm u := by
  grind [memoryForm, execYgang, setYhead_mem, → passed_form]

theorem retireHeads_form (form : memoryForm s) (mast : Nat) (hs : List (Nat × YCmd)) (st : YCmd → Word) :
    memoryForm (s.retireHeads mast hs st) := by
  refine foldl_form (fun t x ht => yardReport_form ht _ _ _) hs (foldl_form (fun t x ht => ?_) hs form)
  exact form_of_mem (popHead_mem t _ _) ht

theorem execGangForm_form {u : State} (ends : execGangForm s = .next u) (form : memoryForm s) : memoryForm u := by
  have members (l : List (Nat × YCmd)) : memoryForm (l.foldl (fun s h => s.setYhead h.1 { h.2 with member := true }) s) :=
    foldl_form (fun t x ht => form_of_mem (setYhead_mem t _ _) ht) l form
  grind [execGangForm, State.passed, retireHeads_form]

theorem execYardRetire_form {u : State} (ends : execYardRetire s = .next u) (form : memoryForm s) : memoryForm u := by
  grind [memoryForm, execYardRetire, → passed_form, setRunning_mem, retireHeads_form]

theorem execYnop_form {u : State} (ends : execYnop s = .next u) (form : memoryForm s) : memoryForm u := by
  grind [memoryForm, execYnop, worked_mem, → passed_form]

theorem execYzero_form {u : State} (ends : execYzero s = .next u) (form : memoryForm s) : memoryForm u := by
  grind [memoryForm, execYzero, setTile_mem, worked_mem, → passed_form]

theorem execYload_form {u : State} (ends : execYload s = .next u) (form : memoryForm s) : memoryForm u := by
  grind [memoryForm, execYload, → passed_form, worked_mem, opCorrect_mem, setTile_mem]

theorem execYstore_form {u : State} (ends : execYstore s = .next u) (form : memoryForm s) : memoryForm u := by
  unfold execYstore at ends
  dsimp only at ends
  split at ends
  · cases ends; exact form
  · split at ends
    · cases ends; exact form
    · split at ends
      · cases ends; exact form
      · split at ends
        · cases ends
          exact form_of_mem (worked_mem _ _ _ _) (writeBank_form (form_of_mem (setTile_mem s _ _ _ _ _) form) _ _ _)
        · cases ends
          exact form_of_mem (worked_mem _ _ _ _)
            (foldl_form (fun t p ht => writeBank_form ht _ _ _) _ (form_of_mem (setTile_mem s _ _ _ _ _) form))

/-! ### Halyard -/

theorem spanCheck_form {a : Word} {n : Nat} {k : Acc} {spaces : List Nat} {u : State}
    (ends : s.spanCheck a n k spaces = .ok u) (form : memoryForm s) : memoryForm u := by
  grind [memoryForm, State.spanCheck, bind_ok, → ensureSpan_form]

theorem launchRead_form {d : Reg} {u : State} (ends : s.launchRead d = .ok u) (form : memoryForm s) : memoryForm u := by
  simp only [State.launchRead, bind_ok] at ends
  grind [memoryForm, bind_ok, → readChecked_form, → spanCheck_form, result_mem, awaitMine_mem, tookEntry_mem, journal_mem]

theorem execLaunchRead_form {d : Reg} {u : State} (ends : execLaunchRead d s = .next u) (form : memoryForm s) : memoryForm u := by
  grind [memoryForm, execLaunchRead, bind_ok, → finish_form, → launchRead_form]

theorem execHalyardStart_form {u : State} (ends : execHalyardStart s = .next u) (form : memoryForm s) : memoryForm u := by
  grind [memoryForm, execHalyardStart, putHy_mem, stopTransfer_mem, → passed_form]

theorem mvRuns_form {a : Word} {n : Nat} {k : Acc} {spaces : List Nat} {rs : List (Nat × Nat × Nat)} {u : State}
    (ends : s.mvRuns a n k spaces = .ok (rs, u)) (form : memoryForm s) : memoryForm u := by
  unfold State.mvRuns at ends
  obtain ⟨_, -, ends⟩ := bind_ok.mp ends
  split at ends
  · cases ends; exact form
  · refine foldlM_rule (P := fun p : List (Nat × Nat × Nat) × State => memoryForm p.2) (fun p c q hp hq => ?_) _ form ends
    simp only [bind_ok] at hq
    obtain ⟨t, ht, _, -, hq⟩ := hq
    cases hq
    exact ensure_form ht hp
  · cases ends; exact form

theorem mvSource_form {t : Transfer} {a : Word} {n : Nat} {val : List (ℕ × ℕ × ℕ)} {u : State}
    (ends : s.mvSource t a n = .ok (val, u)) (form : memoryForm s) : memoryForm u := by
  grind [memoryForm, State.mvSource, bind_ok, → mvRuns_form]

theorem mvRead_form {t : Transfer} {a : Word} {n : Nat} {bs : List Byte} {bad : Nat → Bool} {u : State}
    (ends : s.mvRead t a n = .ok (bs, bad, u)) (form : memoryForm s) : memoryForm u := by
  obtain ⟨⟨rs, v⟩, source, ends⟩ := bind_ok.mp ends
  cases ends
  exact form_of_mem (foldl_mem (fun t r => correct_mem t _ _) _ _) (mvSource_form source form)

theorem mvWrite_form {a : Word} {bs : List Byte} {u : State} (ends : s.mvWrite a bs = .ok u) (form : memoryForm s) : memoryForm u := by
  unfold State.mvWrite at ends
  (repeat' split at ends)
  · cases ends; exact form
  · cases ends
    refine foldl_form (fun t p ht => ?_) _ form
    split
    · exact form_of_mem (emitUnit_mem t _ _ _ _ _ _) ht
    · exact form_of_mem (emitMove_mem t _ _ _) ht
  · obtain ⟨⟨rs, v⟩, runs, ends⟩ := bind_ok.mp ends
    cases ends
    exact foldl_form (fun t r ht => write_form ht _ _) _ (mvRuns_form runs form)

theorem mvTile_form {a : Word} {bs : List Byte} {u : State}
    (ends : s.mvTile a bs = .ok u) (form : memoryForm s) : memoryForm u := by
  grind [memoryForm, State.mvTile, bind_ok, → mvWrite_form]

theorem moveRaw_form {t : Transfer} {src dst : Word} {n : Nat} {u : Moved}
    (ends : s.moveRaw t src dst n = .ok u) (form : memoryForm s) : memoryForm u.s := by
  grind [memoryForm, State.moveRaw, bind_ok, → mvRead_form, → mvWrite_form]

theorem moveZero_form {dst : Word} {n : Nat} {u : Moved}
    (ends : s.moveZero dst n = .ok u) (form : memoryForm s) : memoryForm u.s := by
  grind [memoryForm, State.moveZero, bind_ok, → mvWrite_form]

theorem sourceElems_form {t : Transfer} {a : Word} {ts td : ETy} {n : Option Nat} {room : Nat} {val : List ℕ} {val2 : ℕ} {val3 : Word} {u : State}
    (ends : s.sourceElems t a ts td n room = .ok (val, val2, val3, u)) (form : memoryForm s) : memoryForm u := by
  grind [memoryForm, State.sourceElems, bind_ok, → mvRead_form]

theorem readPart_form {t : Transfer} {a : Word} {n : Nat} {u : State}
    (ends : s.readPart t a n = .ok u) (form : memoryForm s) : memoryForm u := by
  grind [memoryForm, State.readPart, bind_ok, → spanCheck_form]

theorem writePart_form {t : Transfer} {a : Word} {n : Nat} {u : State}
    (ends : s.writePart t a n = .ok u) (form : memoryForm s) : memoryForm u := by
  grind [memoryForm, State.writePart, bind_ok, → spanCheck_form]

theorem destElems_form {t : Transfer} {dst : Word} {td : ETy} {table : Option Nat} {xs : List Nat} {u : State} {val2 : ℕ}
    (ends : s.destElems t dst td table xs = .ok (u, val2)) (form : memoryForm s) : memoryForm u := by
  grind [memoryForm, State.destElems, bind_ok, → mvTile_form, → writePart_form, → mvWrite_form]

theorem moveTile_form {t : Transfer} {ty : ETy} {src dst : Word} {n : Option Nat} {bytes : Nat} {u : Moved}
    (ends : s.moveTile t ty src dst n bytes = .ok u) (form : memoryForm s) : memoryForm u.s := by
  simp only [State.moveTile] at ends
  grind [memoryForm, bind_ok, → mvRead_form, → mvTile_form]

theorem moveCopy_form {t : Transfer} {src dst : Word} {n : Option Nat} {bytes : Nat} {u : Moved}
    (ends : s.moveCopy t src dst n bytes = .ok u) (form : memoryForm s) : memoryForm u.s := by
  simp only [State.moveCopy] at ends
  grind [memoryForm, bind_ok, → moveTile_form, → moveRaw_form, → sourceElems_form, → destElems_form]

theorem moveZip_form {t : Transfer} {src dst : Word} {n : Option Nat} {bytes budget : Nat} {u : Moved} {val2 : ℕ}
    (ends : s.moveZip t src dst n bytes budget = .ok (u, val2)) (form : memoryForm s) : memoryForm u.s := by
  simp only [State.moveZip, bind_ok] at ends
  grind [memoryForm, bind_ok, → sourceElems_form, → mvWrite_form]

theorem moveUnzip_form {t : Transfer} {src dst : Word} {n : Nat} {u : Moved} {val2 : ℕ}
    (ends : s.moveUnzip t src dst n = .ok (u, val2)) (form : memoryForm s) : memoryForm u.s := by
  grind [memoryForm, State.moveUnzip, bind_ok, → mvRead_form, → destElems_form, trapX]

theorem moveCheck_form {t : Transfer} {v : Move} {u : State}
    (ends : s.moveCheck t v = .ok u) (form : memoryForm s) : memoryForm u := by
  grind [memoryForm, State.moveCheck, bind_ok, → writePart_form, → readPart_form]

theorem indexAt_form {t : Transfer} {a : Word} {val : ℕ} {val2 : ℕ} {val3 : Word} {u : State}
    (ends : s.indexAt t a = .ok (val, val2, val3, u)) (form : memoryForm s) : memoryForm u := by
  grind [memoryForm, State.indexAt, bind_ok, → mvRead_form]

theorem moveIndexed_form {t : Transfer} {ix : Word} {go : State → Word → Ex Moved} {table : Word} {stride : Int} {u : Moved}
    (step : ∀ v w m, memoryForm v → go v w = .ok m → memoryForm m.s) (ends : s.moveIndexed t ix go table stride = .ok u)
    (form : memoryForm s) : memoryForm u.s := by
  obtain ⟨⟨a, b, c, v⟩, index, ends⟩ := bind_ok.mp ends
  obtain ⟨m, moved, ends⟩ := bind_ok.mp ends
  cases ends
  exact step v _ m (indexAt_form index form) moved

theorem move_form {mast h : Nat} {t : Transfer} {v : Move} {u : Moved}
    (ends : s.move mast h t v = .ok u) (form : memoryForm s) : memoryForm u.s := by
  grind [memoryForm, State.move, bind_ok, → moveCheck_form, → moveRaw_form, → moveCopy_form, → moveZip_form, → moveUnzip_form,
    → mvRead_form, putHy_mem, → moveZero_form, packBy_mem, → moveIndexed_form, → readPart_form, → writePart_form]

theorem execMovePerform_form {u : State} (ends : execMovePerform s = .next u) (form : memoryForm s) : memoryForm u := by
  unfold execMovePerform at ends
  dsimp only at ends
  split at ends
  · split at ends
    · split at ends
      · cases ends
        exact form_of_mem (putHy_mem _ _ _ _) (move_form ‹_› (form_of_mem (asHart_mem s _ _ _) form))
      · cases ends; exact form_of_mem (stopTransfer_mem s _ _ _ _) form
      · cases ends; exact form
    · cases ends; exact form
  · cases ends; exact form

theorem execMvgo_form {r : Reg} {u : State} (ends : execMvgo r s = .next u) (form : memoryForm s) : memoryForm u := by
  unfold execMvgo at ends
  refine (finish_form ends form).elim id fun ends => ?_
  obtain ⟨_, -, ends⟩ := bind_ok.mp ends
  obtain ⟨_, -, ends⟩ := bind_ok.mp ends
  obtain ⟨_, -, ends⟩ := bind_ok.mp ends
  split at ends
  · exact absurd ends trapX_ne
  · obtain ⟨t, checked, ends⟩ := bind_ok.mp ends
    rw [← Except.ok.inj ends]
    exact form_of_mem (by simp) (moveCheck_form checked form)

theorem execMvwait_form {d : Reg} {u : State} (ends : execMvwait d s = .next u) (form : memoryForm s) : memoryForm u := by
  grind [memoryForm, execMvwait, bind_ok, → finish_form, result_mem]

theorem execHidx_form {d : Reg} {u : State} (ends : execHidx d s = .next u) (form : memoryForm s) : memoryForm u := by
  refine (finish_form ends form).elim id fun ends => ?_
  obtain ⟨_, -, ends⟩ := bind_ok.mp ends
  split at ends
  · exact absurd ends waitX_ne
  · cases ends
    exact form_of_mem ((result_mem _ _ _ _).trans (setHart_mem s _)) form

theorem execHidxw_form {d : Reg} {u : State} (ends : execHidxw d s = .next u) (form : memoryForm s) : memoryForm u := by
  refine (finish_form ends form).elim id fun ends => ?_
  obtain ⟨_, -, ends⟩ := bind_ok.mp ends
  split at ends
  · cases ends
    exact form_of_mem (result_mem s _ _ _) form
  · cases ends
    exact form_of_mem ((result_mem _ _ _ _).trans (setHart_mem s _)) form

theorem writeMbox_form {t : Transfer} {y : Halyard} {u : State} (ends : s.writeMbox t y = .ok u) (form : memoryForm s) : memoryForm u := by
  unfold State.writeMbox at ends
  (repeat' split at ends)
  · cases ends; exact form
  · cases ends
  · cases ends; exact form
  · obtain ⟨_, -, ends⟩ := bind_ok.mp ends
    cases ends
    exact foldl_form (fun t r ht => write_form ht _ _) _ (mvRuns_form ‹_› form)

theorem postEvent_form {l c : Nat} {e : UEvent} {u : State}
    (ends : s.postEvent l c e = some u) (form : memoryForm s) : memoryForm u := by
  grind [memoryForm, State.postEvent, putLaunch_mem, signal_mem, putCtx_mem]

theorem reportTransfer_form {mast n : Nat} {t : Transfer} {u : State} (ends : s.reportTransfer mast n t = .ok u) (form : memoryForm s) :
    memoryForm u := by
  obtain ⟨v, written, ends⟩ := bind_ok.mp ends
  have hv : memoryForm v := writeMbox_form written (form_of_mem (asHart_mem s _ _ _) form)
  cases ends
  refine form_of_mem (putHy_mem _ _ _ _) ?_
  have arrived (c : Prop) [Decidable c] (off : Nat) (st : Word) : memoryForm (if c then v else v.arrive mast t.launch off st) := by
    split
    · exact hv
    · exact arrive_form hv _ _ _ _
  split
  · exact form_of_mem (copyDone_mem _ _ _ _) (arrived _ _ _)
  · exact arrived _ _ _

theorem endTransfer_form {mast n : Nat} {t : Transfer} {u : State} (ends : s.endTransfer mast n t = some u) (form : memoryForm s) :
    memoryForm u := by
  obtain ⟨v, posted, same⟩ := Option.map_eq_some_iff.mp ends
  have hv : memoryForm v := by grind [→ postEvent_form]
  cases same
  split
  · exact hv
  · exact hv

theorem execHalyardComplete_form {u : State} (ends : execHalyardComplete s = .next u) (form : memoryForm s) : memoryForm u := by
  grind [memoryForm, execHalyardComplete, → passed_form, retireTransfer_mem, → happen_form, → reportTransfer_form,
    → endTransfer_form]

/-! ### Streams -/

theorem blockWrite_form (form : memoryForm s) (x : Stream) (off : Nat) (bs : List Byte) : memoryForm (s.blockWrite x off bs) := by
  grind [memoryForm, State.blockWrite, write_form, → ensure_form, walkFailed_mem]

theorem closeBlock_form (form : memoryForm s) (x : Stream) (c : Nat) : memoryForm (s.closeBlock x c) := by
  grind [memoryForm, State.closeBlock, blockWrite_form, emitUnit_mem]

theorem closeStream_form (form : memoryForm s) (x : Stream) (c : Nat) : memoryForm (s.closeStream x c) := by
  grind [memoryForm, State.closeStream, closeBlock_form, setStream_mem, sendFlit_mem, sweepStreams_mem]

theorem closeAll_form (form : memoryForm s) (f : Stream → Bool) (c : Stream → Nat) : memoryForm (s.closeAll f c) :=
  foldl_form (fun _ x ht => closeStream_form ht x (c x)) _ form

theorem sopenStart_form {a : Word} {u : State} (ends : s.sopenStart a = .ok u) (form : memoryForm s) : memoryForm u := by
  simp only [State.sopenStart, bind_ok] at ends
  grind [memoryForm, bind_ok, → readChecked_form, sendFlit_mem, → spanCheck_form]

theorem sopenMeet_form (form : memoryForm s) (d : Reg) (x : Stream) : memoryForm (s.sopenMeet d x) := by
  grind [memoryForm, State.sopenMeet, waiting_mem, putShroud_mem, sendFlit_mem, closeBlock_form, result_mem, blockWrite_form,
    setStream_mem, closeStream_form]

theorem execSopen_form {d : Reg} {a : RcSrc} {u : State}
    (ends : execSopen d a s = .next u) (form : memoryForm s) : memoryForm u := by
  unfold execSopen at ends
  (repeat' split at ends)
  all_goals grind [memoryForm, bind_ok, sopenMeet_form, → finish_form, → sopenStart_form, waiting_mem]

theorem elemCheck_form {ea : Word} {e : Nat} {k : Acc} {val : ℕ} {u : State}
    (ends : s.elemCheck ea e k = .ok (val, u)) (form : memoryForm s) : memoryForm u := by
  grind [memoryForm, State.elemCheck, bind_ok, → ensure_form]

theorem readNest_form {d : List Word} {e n k : Nat} {val : List Byte} {u : State}
    (ends : s.readNest d e n k = .ok (val, u)) (form : memoryForm s) : memoryForm u := by
  induction n generalizing s k val with
  | zero => cases ends; exact form
  | succ n ih =>
    simp only [State.readNest, bind_ok] at ends
    obtain ⟨c, hc, r, hr, q, hq, ends⟩ := ends
    cases ends
    exact ih hq (readChecked_form hr (elemCheck_form hc form))

theorem writeNest_form {d : List Word} {e n k : Nat} {bs : List Byte} {u : State}
    (ends : s.writeNest d e n k bs = .ok u) (form : memoryForm s) : memoryForm u := by
  induction n generalizing s k bs with
  | zero => cases ends; exact form
  | succ n ih =>
    cases bs with
    | nil => cases ends; exact form
    | cons b bs =>
      obtain ⟨c, hc, ends⟩ := bind_ok.mp ends
      exact ih ends (form_of_mem (buffer_mem _ _ _ _ _) (elemCheck_form hc form))

theorem sendTokens_form (x : Stream) (l : List (List Byte)) (form : memoryForm s) : memoryForm (State.sendTokens x l s).2 := by
  induction l generalizing s x with
  | nil => exact form
  | cons b l ih =>
    unfold State.sendTokens
    split
    · exact form
    · refine ih _ ?_
      split
      · exact form_of_mem (sendToken_mem s x b) form
      · exact form_of_mem ((putTackle_mem _ _ _).trans (sendToken_mem s x b)) form

theorem putRead_form {x : Stream} {n : Nat} {val : Sending} {val2 : Stream} {u : State}
    (ends : s.putRead x n = .ok (val, val2, u)) (form : memoryForm s) : memoryForm u := by
  grind [memoryForm, State.putRead, bind_ok, → readNest_form]

theorem execSput_form {h : Reg} {n : Src} {u : State} (ends : execSput h n s = .next u) (form : memoryForm s) : memoryForm u := by
  grind [memoryForm, execSput, bind_ok, → finish_form, sendTokens_form, advance_mem, setStream_mem, waiting_mem, → putRead_form]

theorem execSget_form {h : Reg} {n : Src} {u : State} (ends : execSget h n s = .next u) (form : memoryForm s) : memoryForm u := by
  grind [memoryForm, execSget, bind_ok, → finish_form, sendFlit_mem, → writeNest_form, advance_mem, setStream_mem, waiting_mem]

theorem execSclose_form {d : Reg} {h : Src} {u : State}
    (ends : execSclose d h s = .next u) (form : memoryForm s) : memoryForm u := by
  grind [memoryForm, execSclose, → finish_form, result_mem, sweepStreams_mem, setStream_mem, closeStream_form, waiting_mem]

theorem execShroudFlitArrive_form {shroud : Nat} {f : Flit} {u : State}
    (ends : execShroudFlitArrive shroud f s = .next u) (form : memoryForm s) : memoryForm u := by
  unfold execShroudFlitArrive at ends
  (repeat' split at ends)
  all_goals grind [memoryForm, → passed_form, putShroud_mem, tokenIn_mem, setStream_mem, closeStream_form, sweepStreams_mem]

theorem execShroudRetrain_form {shroud : Nat} {lanes : Nat} {u : State}
    (ends : execShroudRetrain shroud lanes s = .next u) (form : memoryForm s) : memoryForm u := by
  grind [memoryForm, execShroudRetrain, → passed_form, putShroud_mem]

theorem execShroudFail_form {u : State} (ends : execShroudFail s = .next u) (form : memoryForm s) : memoryForm u := by
  grind [memoryForm, execShroudFail, putShroud_mem, closeAll_form, sweepStreams_mem, → passed_form]

theorem execGraphFire_form {u : State} (ends : execGraphFire s = .next u) (form : memoryForm s) : memoryForm u := by
  grind [memoryForm, execGraphFire, → passed_form, putTackle_mem, closeAll_form]

theorem execStreamToken_form {u : State} (ends : execStreamToken s = .next u) (form : memoryForm s) : memoryForm u := by
  grind [memoryForm, execStreamToken, → passed_form, putTackle_mem, sendFlit_mem, setStream_mem, sendToken_mem]

/-! ### Install -/

theorem writeVirt_form {launch kind n v : Nat} {bs : List Byte} {u : State}
    (ends : s.writeVirt launch kind n v bs = .ok u) (form : memoryForm s) : memoryForm u := by
  induction n generalizing s v bs with
  | zero => cases ends; exact form
  | succ n ih =>
    cases bs with
    | nil => cases ends; exact form
    | cons b bs =>
      unfold State.writeVirt at ends
      split at ends
      · cases ends
      · exact ih ends (write_form form _ _)

theorem writeFor_form (form : memoryForm s) (launch kind v : Nat) (bs : List Byte) : memoryForm (s.writeFor launch kind v bs) := by
  grind [memoryForm, State.writeFor, → writeVirt_form, walkFailed_mem]

theorem scrubPiece_form (form : memoryForm s) (t : Task) : memoryForm (s.scrubPiece t) :=
  foldl_form (fun _ _ hu => scrub_form hu _ _) _ (scrub_form form _ _)

theorem grantMast_form (form : memoryForm s) (l : Nat) (i : Image) (m : Nat) : memoryForm (s.grantMast l i m) := Memory.wf_write _ _ form

theorem readyBlock_form (form : memoryForm s) (k : Nat) : memoryForm (s.readyBlock k) := by
  grind [memoryForm, State.readyBlock, → ensureFor_form, focusTask_mem, walkFailed_mem]

theorem pushFirst_form (form : memoryForm s) (k : Nat) (rs : List Record) : memoryForm (s.pushFirst k rs) := by
  refine foldl_form (fun t r ht => ?_) rs form
  grind [readyBlock_form, → pushOn_form]

theorem grantCore_form
    (form : memoryForm s) (l : Nat) (i : Image) (piece : Nat) (xs : List Extent) (ix core : Nat) : memoryForm (s.grantCore l i piece xs ix core) := by
  grind [memoryForm, State.grantCore, pushFirst_form, putTask_mem, scrubPiece_form]

theorem grantTackle_form (form : memoryForm s) (l : Nat) (i : Image) (xs : List Extent) (t : Nat × Nat × Nat) :
    memoryForm (s.grantTackle l i xs t) :=
  foldl_rule (P := fun q : List Nat × State => memoryForm q.2) (fun _ _ hq => scrub_form hq _ _) _ (scrub_form form _ _)

theorem firstExtents_form (form : memoryForm s) (l : Nat) : memoryForm (s.firstExtents l).2 := by
  refine foldl_rule (P := fun q : List Extent × State => memoryForm q.2) (fun q r hq => ?_) _ form
  split
  · exact form_of_mem (walkFailed_mem q.2 l 0 _ _) hq
  · exact setLeafBits_form hq 6 _

theorem install_form (form : memoryForm s) (l : Nat) (i : Image) : memoryForm (s.install l i) := by
  refine foldl_form (fun t x ht => grantTackle_form ht l i _ x) _ ?_
  refine foldl_form (fun t c ht => grantCore_form ht l i _ _ c.2 c.1) _ ?_
  refine foldl_form (fun t m ht => grantMast_form ht l i m) _ ?_
  refine firstExtents_form (writeFor_form (writeFor_form (writeFor_form ?launched _ _ _ _) _ _ _ _) _ _ _ _) l
  exact form

/-! ### Preempt -/

theorem stopStreams_form (form : memoryForm s) (l : Nat) : memoryForm (s.stopStreams l) := by
  have closed := closeAll_form form (fun x => decide (x.launch = l)) fun _ => 5
  refine form_of_mem (sweepStreams_mem _) ?_
  refine foldl_form (fun t x ht => ?_) _ closed
  split
  · exact form_of_mem (sendFlit_mem t _ _) ht
  · exact ht

theorem scrubPlaces_form (form : memoryForm s) (ps : List (Nat × Nat)) : memoryForm (s.scrubPlaces ps) := Memory.wf_filter _ form

theorem preemptNow_form (form : memoryForm s) (l why : Nat) : memoryForm (s.preemptNow l why) := by
  grind [memoryForm, State.preemptNow, stopStreams_form, stopCtxs_mem, scrubPlaces_form, dropOps_mem, mapMasts_mem, putLaunch_mem]

theorem reenter_form {l : Nat} {es : List (Nat × Nat × List Word)} {ren : AMap Nat} {val : AMap Nat} {u : State}
    (ends : s.reenter l es ren = some (val, u)) (form : memoryForm s) : memoryForm u := by
  induction es generalizing s ren with
  | nil => cases ends; exact form
  | cons e es ih =>
    obtain ⟨m, old, ws⟩ := e
    unfold State.reenter at ends
    split at ends
    · cases ends
    · exact ih ends form

theorem restoreExtents_form (form : memoryForm s) (l : Nat) (sv : Saved) : memoryForm (s.restoreExtents l sv) := by
  unfold State.restoreExtents
  refine foldl_form (fun t p ht => ?_) _ form
  dsimp only
  split
  · split
    · exact form_of_mem (walkFailed_mem t l _ _ _) ht
    · exact setLeafBits_form ht 6 _
  · exact ht

theorem restoreMem_form (form : memoryForm s) (l : Nat) (sv : Saved) : memoryForm (s.restoreMem l sv) :=
  Memory.wf_foldl_put _ (scrubPlaces_form form _)

theorem resumeNow_form (form : memoryForm s) (l : Nat) : memoryForm (s.resumeNow l) := by
  grind [memoryForm, State.resumeNow, → reenter_form, leaveEntries_mem, rearmSaved_mem, restoreExtents_form, restoreOps_mem,
    restoreMem_form, restoreBanks_mem, resumeCtxs_mem, putLaunch_mem]

theorem scrubUnits_form (form : memoryForm s) (l : Nat) : memoryForm (s.scrubUnits l) := by
  refine foldl_form (fun t m ht => ?_) _ form
  dsimp only
  split
  · exact ht
  · exact scrub_form ht _ _

theorem release_form (form : memoryForm s) (l : Nat) : memoryForm (s.release l) := by
  refine form_of_mem ((putLaunch_mem _ _ _).trans (sweepStreams_mem _)) ?_
  refine form_of_mem (foldl_mem (fun t p => drop_mem t p) _ _) (scrubUnits_form ?_ l)
  simpa [memoryForm] using stopStreams_form form l

/-! ### Complete -/

theorem syncDesc_form (form : memoryForm s) (k : Nat) : memoryForm (s.syncDesc k) := by
  grind [memoryForm, State.syncDesc, setDbl_form]

theorem setQueue_form (form : memoryForm s) (k : Nat) (f : Queue → Queue) : memoryForm (s.setQueue k f) := by
  grind [memoryForm, State.setQueue, syncDesc_form, putQueue_mem]

theorem haltQueue_form (form : memoryForm s) (k : Nat) : memoryForm (s.haltQueue k) := by
  grind [memoryForm, State.haltQueue, queueIrq_mem, setQueue_form]

theorem tryWrite_form (form : memoryForm s) (l v : Nat) (bs : List Byte) : memoryForm (s.tryWrite l v bs) := by
  grind [memoryForm, State.tryWrite, → writeVirt_form]

theorem writeRecord_form (form : memoryForm s) (l : Nat) (ws : List Word) : memoryForm (s.writeRecord l ws) := by
  grind [memoryForm, State.writeRecord, → writeVirt_form, walkFailed_mem, queueIrq_mem]

theorem writeBindings_form (form : memoryForm s) (l : Nat) : memoryForm (s.writeBindings l) := by
  unfold State.writeBindings
  dsimp only
  split
  · exact form
  · exact foldl_form (fun t b ht => tryWrite_form ht l _ _) _ form

theorem preempt_form (form : memoryForm s) (l why : Nat) : memoryForm (s.preempt l why) := by
  grind [memoryForm, State.preempt, preemptNow_form, haltQueue_form, restartWatch_mem, writeRecord_form]

theorem complete_form (form : memoryForm s) (l status : Nat) : memoryForm (s.complete l status) := by
  grind [memoryForm, State.complete, release_form, writeBindings_form, writeRecord_form, restartWatch_mem, haltQueue_form,
    putQueue_mem, putLaunch_mem]

theorem execLaunchComplete_form {u : State} (ends : execLaunchComplete s = .next u) (form : memoryForm s) : memoryForm u := by
  grind [memoryForm, execLaunchComplete, → passed_form, complete_form, walkFailed_mem]

theorem execTaskFail_form {u : State} (ends : execTaskFail s = .next u) (form : memoryForm s) : memoryForm u := by
  grind [memoryForm, execTaskFail, kill_mem, → passed_form]

theorem execHostWriteReject_form {u : State} (ends : execHostWriteReject s = .next u) (form : memoryForm s) : memoryForm u := by
  grind [memoryForm, execHostWriteReject, takeFree_form, failLaunch_mem, markFailed_mem]

/-! ### Control -/

theorem branchIf_form {c : Bool} {n : Nat} {off : BitVec 15} {u : State}
    (ends : s.branchIf c n off = .next u) (form : memoryForm s) : memoryForm u := by
  grind [memoryForm, State.branchIf, branch_mem, advance_mem]

theorem execNop_form {_d : Reg} {_csr : BitVec 12} {u : State}
    (ends : execNop _d _csr s = .next u) (form : memoryForm s) : memoryForm u := by
  grind [memoryForm, execNop, advance_mem]

theorem execBr_form {off : BitVec 15} {u : State} (ends : execBr off s = .next u) (form : memoryForm s) : memoryForm u := by
  grind [memoryForm, execBr, branch_mem]

theorem execBrFar_form {off : BitVec 32} {u : State} (ends : execBrFar off s = .next u) (form : memoryForm s) : memoryForm u := by
  grind [memoryForm, execBrFar, branch_mem]

theorem execBz_form {t : ITy} {_likely : Bool} {c : Reg} {off : BitVec 15} {u : State}
    (ends : execBz t _likely c off s = .next u) (form : memoryForm s) : memoryForm u := by
  grind [memoryForm, execBz, → branchIf_form]

theorem execBnz_form {t : ITy} {_likely : Bool} {c : Reg} {off : BitVec 15} {u : State}
    (ends : execBnz t _likely c off s = .next u) (form : memoryForm s) : memoryForm u := by
  grind [memoryForm, execBnz, → branchIf_form]

theorem execBeq_form {t : ITy} {_likely : Bool} {c : Reg} {off : BitVec 15} {y : Src} {u : State}
    (ends : execBeq t _likely c off y s = .next u) (form : memoryForm s) : memoryForm u := by
  grind [memoryForm, execBeq, → branchIf_form]

theorem execBne_form {t : ITy} {_likely : Bool} {c : Reg} {off : BitVec 15} {y : Src} {u : State}
    (ends : execBne t _likely c off y s = .next u) (form : memoryForm s) : memoryForm u := by
  grind [memoryForm, execBne, → branchIf_form]

theorem execBlt_form {t : ITy} {_likely : Bool} {c : Reg} {off : BitVec 15} {y : Src} {u : State}
    (ends : execBlt t _likely c off y s = .next u) (form : memoryForm s) : memoryForm u := by
  grind [memoryForm, execBlt, → branchIf_form]

theorem execBge_form {t : ITy} {_likely : Bool} {c : Reg} {off : BitVec 15} {y : Src} {u : State}
    (ends : execBge t _likely c off y s = .next u) (form : memoryForm s) : memoryForm u := by
  grind [memoryForm, execBge, → branchIf_form]

theorem call_form {f n : Nat} {target : Word} {u : State}
    (ends : s.call f n target = .ok u) (form : memoryForm s) : memoryForm u := by
  grind [memoryForm, State.call, bind_ok, setReg_mem, setCtx_mem, setPc_mem, slideUp_form]

theorem execCall_form {f : Nat} {off : BitVec 15} {u : State}
    (ends : execCall f off s = .next u) (form : memoryForm s) : memoryForm u := by
  grind [memoryForm, execCall, → finish_form, → call_form]

theorem execCallFar_form {off : BitVec 32} {u : State}
    (ends : execCallFar off s = .next u) (form : memoryForm s) : memoryForm u := by
  grind [memoryForm, execCallFar, → finish_form, → call_form]

theorem execCallx_form {f : Nat} {a : RcSrc} {u : State}
    (ends : execCallx f a s = .next u) (form : memoryForm s) : memoryForm u := by
  grind [memoryForm, execCallx, → finish_form, → call_form]

theorem doRet_form {u : State} (ends : s.doRet = .ok u) (form : memoryForm s) : memoryForm u := by
  grind [memoryForm, State.doRet, bind_ok, slideDown_mem, setCtx_mem, setPc_mem, popLoops_mem]

theorem execRet_form {u : State} (ends : execRet s = .next u) (form : memoryForm s) : memoryForm u := by
  grind [memoryForm, execRet, → finish_form, → doRet_form]

theorem enterLoop_form {k : LoopKind} {start stop : Word} {u : State}
    (ends : s.enterLoop k start stop = .ok u) (form : memoryForm s) : memoryForm u := by
  grind [memoryForm, State.enterLoop, bind_ok, setCtx_mem]

theorem execLoop_form {c : Reg} {off : BitVec 15} {u : State}
    (ends : execLoop c off s = .next u) (form : memoryForm s) : memoryForm u := by
  grind [memoryForm, execLoop, setPc_mem, → finish_form, → enterLoop_form]

theorem execLfor_form {t : ITy} {c : Reg} {off : BitVec 15} {limit step : Src} {u : State}
    (ends : execLfor t c off limit step s = .next u) (form : memoryForm s) : memoryForm u := by
  grind [memoryForm, execLfor, → finish_form, → enterLoop_form, setPc_mem]

theorem execLend_form {u : State} (ends : execLend s = .next u) (form : memoryForm s) : memoryForm u := by
  grind [memoryForm, execLend, → finish_form, loopEnd_mem, trapX]

theorem execPark_form {d : Reg} {timeout : Src} {u : State}
    (ends : execPark d timeout s = .next u) (form : memoryForm s) : memoryForm u := by
  grind [memoryForm, execPark, result_mem, waiting_mem, setCtx_mem]

theorem execParkTimeout_form {u : State} (ends : execParkTimeout s = .next u) (form : memoryForm s) : memoryForm u := by
  grind [memoryForm, execParkTimeout, focus_mem, result_mem, setCtx_mem, signal_mem, → passed_form]

theorem execYield_form {u : State} (ends : execYield s = .next u) (form : memoryForm s) : memoryForm u := by
  grind [memoryForm, execYield, advance_mem, yieldStrand_mem]

theorem execTrap_form {a : Src} {imm : BitVec 10} {u : State}
    (ends : execTrap a imm s = .next u) (form : memoryForm s) : memoryForm u := by
  grind [memoryForm, execTrap, advance_mem, trapEntry_form]

theorem execEret_form {u : State} (ends : execEret s = .next u) (form : memoryForm s) : memoryForm u := by
  grind [memoryForm, execEret, → finish_form, → eret_form]

theorem execBkpt_form {imm : BitVec 10} {u : State} (ends : execBkpt imm s = .next u) (form : memoryForm s) : memoryForm u := by
  grind [memoryForm, execBkpt, trapEntry_form]

/-! ### Drain -/

theorem drainYard_form {core l : Nat} {ea : Word} {v : Word} {u : State}
    (ends : s.drainYard core l ea v = some u) (form : memoryForm s) : memoryForm u := by
  grind [memoryForm, State.drainYard, putCore_mem, → post_form]

theorem drainEffect_form {st : BufStore} {u : State} (ends : s.drainEffect st = some u) (form : memoryForm s) : memoryForm u := by
  grind [memoryForm, State.drainEffect, → drainYard_form, writeBank_form, write_form]

theorem execStoreDrain_form {u : State} (ends : execStoreDrain s = .next u) (form : memoryForm s) : memoryForm u := by
  grind [memoryForm, execStoreDrain, focus_mem, → passed_form, → drainEffect_form, setCtx_mem, awaitEntry_mem, endAwait_mem]

/-! ### Payload -/

theorem spareCheck_form {a : Word} {n : Nat} {u : State}
    (ends : s.spareCheck a n = .ok u) (form : memoryForm s) : memoryForm u := by
  grind [memoryForm, State.spareCheck, bind_ok, → spanCheck_form]

theorem startCopy_form {desc a : Word} {n : Nat} {u : State}
    (ends : s.startCopy desc a n = .ok u) (form : memoryForm s) : memoryForm u := by
  grind [memoryForm, State.startCopy, bind_ok, waiting_mem, setCtx_mem, awaitMine_mem, tookEntry_mem, journal_mem, waitX]

theorem adopt_form {r a : Word} {u : State} (ends : s.adopt r a = .ok u) (form : memoryForm s) : memoryForm u := by
  grind [memoryForm, State.adopt, bind_ok, setCount_form, setNodeOf_mem]

theorem nown_form {d n : Reg} {u : State} (ends : s.nown d n = .ok u) (form : memoryForm s) : memoryForm u := by
  simp only [State.nown, bind_ok] at ends
  grind [memoryForm, bind_ok, → payload_form, → adopt_form, setCount_form, result_mem, → spareCheck_form, → startCopy_form, waitX]

theorem execNown_form {d n : Reg} {u : State} (ends : execNown d n s = .next u) (form : memoryForm s) : memoryForm u := by
  grind [memoryForm, execNown, → finish_form, → nown_form]

theorem ndup_form {d t r : Reg} {u : State} (ends : s.ndup d t r = .ok u) (form : memoryForm s) : memoryForm u := by
  simp only [State.ndup, bind_ok] at ends
  grind [memoryForm, bind_ok, → adopt_form, result_mem, → payload_form, setCount_form, setNodeOf_mem, → spareCheck_form,
    → startCopy_form, waitX]

theorem execNdup_form {d t r : Reg} {u : State} (ends : execNdup d t r s = .next u) (form : memoryForm s) : memoryForm u := by
  grind [memoryForm, execNdup, → finish_form, → ndup_form]

/-! ### Queues -/

theorem onQueue_form (form : memoryForm s) (fn : Nat) (a0 : Word) (zeros : List Word) {f : State → Nat → Res × State}
    (step : ∀ q, memoryForm (f s q).2) : memoryForm (s.onQueue fn a0 zeros f).2 := by
  unfold State.onQueue
  dsimp only
  (repeat' split)
  · exact form
  · exact form
  · exact step _

theorem command_form (form : memoryForm s) (fn code : Nat) (args : List Word) {f : State → Res × State} (step : memoryForm (f s).2) :
    memoryForm (s.command fn code args f) := by
  grind [memoryForm, State.command, raise_mem]

theorem onLaunch_form (form : memoryForm s) (fn : Nat) (a0 a1 : Word) (zeros : List Word) {f : State → Nat → Nat → Res × State}
    (step : ∀ q l, memoryForm (f s q l).2) : memoryForm (s.onLaunch fn a0 a1 zeros f).2 := by
  refine onQueue_form form fn a0 zeros fun q => ?_
  (repeat' split)
  · exact form
  · exact form
  · exact step _ _

theorem doPartition_form (form : memoryForm s) (fn : Nat) (a0 a1 a2 a3 : Word) : memoryForm (s.doPartition fn a0 a1 a2 a3).2 := by
  grind [memoryForm, State.doPartition]

theorem execPartition_form {fn : Nat} {a0 a1 a2 a3 : Word} {u : State} (ends : execPartition fn a0 a1 a2 a3 s = .next u) (form : memoryForm s) :
    memoryForm u := by
  cases ends
  exact command_form form _ _ _ (doPartition_form form _ _ _ _ _)

theorem execQcreate_form {fn : Nat} {a0 a1 a2 a3 : Word} {u : State} (ends : execQcreate fn a0 a1 a2 a3 s = .next u) (form : memoryForm s) :
    memoryForm u := by
  cases ends
  refine command_form form _ _ _ ?_
  grind [memoryForm, syncDesc_form, putQueue_mem]

theorem execQdestroy_form {fn : Nat} {a0 a1 a2 a3 : Word} {u : State} (ends : execQdestroy fn a0 a1 a2 a3 s = .next u) (form : memoryForm s) :
    memoryForm u := by
  cases ends
  refine command_form form _ _ _ (onQueue_form form _ _ _ fun q => ?_)
  dsimp only
  split
  · exact form
  · exact form

theorem execDoorbell_form {fn : Nat} {a0 a1 a2 a3 : Word} {u : State} (ends : execDoorbell fn a0 a1 a2 a3 s = .next u) (form : memoryForm s) :
    memoryForm u := by
  cases ends
  refine command_form form _ _ _ (onQueue_form form _ _ _ fun q => ?_)
  dsimp only
  (repeat' split)
  all_goals exact form

theorem execHalt_form {fn : Nat} {a0 a1 a2 a3 : Word} {u : State} (ends : execHalt fn a0 a1 a2 a3 s = .next u) (form : memoryForm s) :
    memoryForm u := by
  cases ends
  exact command_form form _ _ _ (onQueue_form form _ _ _ fun q => setQueue_form form _ _)

theorem execRun_form {fn : Nat} {a0 a1 a2 a3 : Word} {u : State} (ends : execRun fn a0 a1 a2 a3 s = .next u) (form : memoryForm s) :
    memoryForm u := by
  cases ends
  exact command_form form _ _ _ (onQueue_form form _ _ _ fun q => setQueue_form form _ _)

theorem execPreempt_form {fn : Nat} {a0 a1 a2 a3 : Word} {u : State} (ends : execPreempt fn a0 a1 a2 a3 s = .next u) (form : memoryForm s) :
    memoryForm u := by
  cases ends
  refine command_form form _ _ _ (onLaunch_form form _ _ _ _ fun q l => ?_)
  grind [memoryForm, preempt_form, putLaunch_mem, leaveEntries_mem]

theorem execResume_form {fn : Nat} {a0 a1 a2 a3 : Word} {u : State} (ends : execResume fn a0 a1 a2 a3 s = .next u) (form : memoryForm s) :
    memoryForm u := by
  cases ends
  refine command_form form _ _ _ (onLaunch_form form _ _ _ _ fun q l => ?_)
  grind [memoryForm, resumeNow_form, putLaunch_mem, restartWatch_mem]

theorem execKill_form {fn : Nat} {a0 a1 a2 a3 : Word} {u : State} (ends : execKill fn a0 a1 a2 a3 s = .next u) (form : memoryForm s) :
    memoryForm u := by
  cases ends
  exact command_form form _ _ _ (onLaunch_form form _ _ _ _ fun q l => form_of_mem (kill_mem s _ _) form)

theorem execShootdown_form {fn : Nat} {a0 a1 a2 a3 : Word} {u : State} (ends : execShootdown fn a0 a1 a2 a3 s = .next u) (form : memoryForm s) :
    memoryForm u := by
  cases ends
  refine command_form form _ _ _ ?_
  split
  · exact form
  · refine onLaunch_form form _ _ _ _ fun q l => ?_
    grind [memoryForm, dropExtents_mem]

theorem scrubPartition_form (form : memoryForm s) (p : Partition) : memoryForm (s.scrubPartition p) := Memory.wf_filter _ form

theorem flushStores_form (form : memoryForm s) (l : Nat) : memoryForm (s.flushStores l) := by
  refine foldl_form (fun t p ht => ?_) _ form
  refine form_of_mem (putCtx_mem _ _ _) (foldl_form (fun v st hv => ?_) _ ht)
  split
  · exact write_form hv _ _
  · exact hv

theorem resetIsolated_form (form : memoryForm s) (part : Nat) : memoryForm (s.resetIsolated part) :=
  foldl_form (fun _ _ ht => setQueue_form ht _ _) _
    (scrubPartition_form (foldl_form (fun _ _ ht => complete_form (flushStores_form ht _) _ _) _ form) _)

theorem resetGang_form (form : memoryForm s) (part : Nat) : memoryForm (s.resetGang part) :=
  foldl_form (fun _ _ ht => setQueue_form ht _ _) _ (scrubPartition_form
    (foldl_form (fun _ _ ht => form_of_mem (putLaunch_mem _ _ _) (release_form ht _)) _ form) _)

theorem execReset_form {fn : Nat} {a0 a1 a2 a3 : Word} {u : State} (ends : execReset fn a0 a1 a2 a3 s = .next u) (form : memoryForm s) :
    memoryForm u := by
  cases ends
  refine command_form form _ _ _ ?_
  grind [resetGang_form, resetIsolated_form]

theorem nextRecord_form (form : memoryForm s) (k : Nat) : memoryForm (s.nextRecord k) := by
  grind [memoryForm, State.nextRecord, setQueue_form]

theorem withRoot_form {l : Nat} {f : State → State} (step : ∀ t, memoryForm t → memoryForm (f t)) (form : memoryForm s) :
    memoryForm (s.withRoot l f) := step (s.assignRoot l) form

theorem execLaunch_form {k : Nat} {img : Option Image} {u : State} (ends : execLaunch k img s = .next u) (form : memoryForm s) :
    memoryForm u := by
  have bumped : memoryForm { s with nextId := s.nextId + 1 } := form
  have next := nextRecord_form bumped k
  unfold execLaunch at ends
  split at ends
  · cases ends; exact form
  · split at ends
    · cases ends; exact haltQueue_form form k
    · split at ends
      · cases ends; exact form
      · dsimp only at ends
        split at ends
        · cases ends; exact haltQueue_form form k
        · split at ends
          · rw [← Host.Outcome.next.inj ends]
            exact form_of_mem ((assignRoot_mem _ _).trans (putLaunch_mem _ _ _)) next
          · rw [← Host.Outcome.next.inj ends]
            refine form_of_mem (restartWatch_mem _ _) (withRoot_form (fun t ht => ?_) (form_of_mem (putLaunch_mem _ _ _) next))
            exact form_of_mem (putLaunch_mem _ _ _) (writeRecord_form ht _ _)

theorem execLaunchDispatch_form {u : State} (ends : execLaunchDispatch s = .next u) (form : memoryForm s) : memoryForm u := by
  grind [memoryForm, execLaunchDispatch, install_form, → passed_form]

theorem execFenceRecord_form {u : State} (ends : execFenceRecord s = .next u) (form : memoryForm s) : memoryForm u := by
  grind [memoryForm, execFenceRecord, → passed_form, haltQueue_form, setQueue_form, nextRecord_form]

theorem execNopRecord_form {u : State} (ends : execNopRecord s = .next u) (form : memoryForm s) : memoryForm u := by
  grind [memoryForm, execNopRecord, → passed_form, nextRecord_form, haltQueue_form]

theorem execPriorityPreempt_form {u : State} (ends : execPriorityPreempt s = .next u) (form : memoryForm s) : memoryForm u := by
  grind [memoryForm, execPriorityPreempt, preempt_form, → passed_form]

theorem execPreemptedResume_form {u : State} (ends : execPreemptedResume s = .next u) (form : memoryForm s) : memoryForm u := by
  grind [memoryForm, execPreemptedResume, resumeNow_form, awaitEntries_mem, leaveEntries_mem, → passed_form]

theorem execSysMessage_form {u : State} (ends : execSysMessage s = .next u) (form : memoryForm s) : memoryForm u := by
  grind [memoryForm, execSysMessage, write_form, drop_mem, setQueue_form, → passed_form]

theorem execWatchdogStep1_form {u : State} (ends : execWatchdogStep1 s = .next u) (form : memoryForm s) : memoryForm u := by
  unfold execWatchdogStep1 at ends
  dsimp only at ends
  split at ends <;> cases ends
  · refine foldl_form (fun t l ht => ?_) _ form
    grind [memoryForm, preempt_form, putLaunch_mem]
  · exact form

theorem execWatchdogStep2_form {u : State} (ends : execWatchdogStep2 s = .next u) (form : memoryForm s) : memoryForm u := by
  unfold execWatchdogStep2 at ends
  dsimp only at ends
  split at ends <;> cases ends
  · exact foldl_form (fun t l ht => form_of_mem (kill_mem t _ _) ht) _ (setQueue_form form _ _)
  · exact form

theorem execWatchdogStep3_form {u : State} (ends : execWatchdogStep3 s = .next u) (form : memoryForm s) : memoryForm u := by
  have fenced (k : Nat) (f g : Queue → Queue) (p : Partition) (js : List Nat) :
      memoryForm (js.foldl (fun s j => s.setQueue j g) ((s.setQueue k f).fenceCores p)) :=
    foldl_form (fun t j ht => setQueue_form ht j g) js (form_of_mem (fenceCores_mem _ p) (setQueue_form form k f))
  unfold execWatchdogStep3 at ends
  dsimp only at ends
  split at ends
  · rw [← Host.Outcome.next.inj ends]
    exact fenced _ _ _ _ _
  · rw [← Host.Outcome.next.inj ends]
    exact form

theorem execGangWatchdog_form {u : State} (ends : execGangWatchdog s = .next u) (form : memoryForm s) : memoryForm u := by
  grind [memoryForm, execGangWatchdog, resetGang_form, → passed_form]

theorem execCxdata_form {cp : Nat} {sel : CpAccess} {write : Option Word} {u : State}
    (ends : execCxdata cp sel write s = .next u) (form : memoryForm s) : memoryForm u := by
  unfold execCxdata at ends
  (repeat' split at ends)
  all_goals grind [memoryForm, → passed_form, putCp_mem, setCpCsr_mem]

theorem execFwswap_form {fn : Nat} {a0 a1 a2 a3 : Word} {u : State} (ends : execFwswap fn a0 a1 a2 a3 s = .next u) (form : memoryForm s) :
    memoryForm u := by
  cases ends
  refine command_form form _ _ _ ?_
  dsimp only
  (repeat' split)
  all_goals exact form

theorem execSwapVerify_form {cp : Nat} {ok : Bool} {version : BitVec 16} {u : State}
    (ends : execSwapVerify cp ok version s = .next u) (form : memoryForm s) : memoryForm u := by
  grind [memoryForm, execSwapVerify, putCp_mem, → passed_form, badImage_mem]

theorem execSwapTakeBack_form {u : State} (ends : execSwapTakeBack s = .next u) (form : memoryForm s) : memoryForm u := by
  grind [memoryForm, execSwapTakeBack, putCp_mem, → passed_form]

theorem execSwapTimeout_form {u : State} (ends : execSwapTimeout s = .next u) (form : memoryForm s) : memoryForm u := by
  grind [memoryForm, execSwapTimeout, putCp_mem, → passed_form]

theorem haltAll_form (form : memoryForm s) (code : Nat) : memoryForm (s.haltAll code) :=
  foldl_form (fun t _ ht => form_of_mem (kill_mem t _ _) ht) _
    (foldl_form (fun _ _ ht => haltQueue_form ht _) _ form)

theorem execAlarmClass1_form {u : State} (ends : execAlarmClass1 s = .next u) (form : memoryForm s) : memoryForm u := by
  grind [memoryForm, execAlarmClass1, alarm1_mem]

theorem alarm2_form (form : memoryForm s) : memoryForm (s.alarm2) := by
  grind [memoryForm, State.alarm2, haltAll_form]

theorem execAlarmClass2_form {u : State} (ends : execAlarmClass2 s = .next u) (form : memoryForm s) : memoryForm u := by
  grind [memoryForm, execAlarmClass2, alarm2_form]

theorem execAlarmClass3_form {u : State} (ends : execAlarmClass3 s = .next u) (form : memoryForm s) : memoryForm u := by
  grind [memoryForm, execAlarmClass3, alarm2_form]

theorem execVerificationAvailable_form {u : State}
    (ends : execVerificationAvailable s = .next u) (form : memoryForm s) : memoryForm u := by
  grind [memoryForm, execVerificationAvailable, → passed_form]

/-! ### Platform -/

theorem execPowerOnReset_form {u : State} (ends : execPowerOnReset s = .next u) (form : memoryForm s) : memoryForm u := by
  cases ends
  exact Memory.wf_filter _ form

theorem execWarmReset_form {u : State} (ends : execWarmReset s = .next u) (form : memoryForm s) : memoryForm u := by
  grind [memoryForm, execWarmReset, → passed_form]

theorem execBootVerify_form {ok : Bool} {u : State}
    (ends : execBootVerify ok s = .next u) (form : memoryForm s) : memoryForm u := by
  grind [memoryForm, execBootVerify, endStage_mem, → passed_form]

theorem execFuseMapBuild_form {u : State} (ends : execFuseMapBuild s = .next u) (form : memoryForm s) : memoryForm u := by
  grind [memoryForm, execFuseMapBuild, endStage_mem, setPlat_mem, → passed_form]

theorem execBringupScrub_form {u : State} (ends : execBringupScrub s = .next u) (form : memoryForm s) : memoryForm u := by
  unfold execBringupScrub at ends
  split at ends <;> cases ends
  · exact Memory.wf_filter _ form
  · exact form

theorem execHbmTrain_form {ok : Bool} {u : State} (ends : execHbmTrain ok s = .next u) (form : memoryForm s) : memoryForm u := by
  unfold execHbmTrain at ends
  (repeat' split at ends) <;> cases ends
  · exact Memory.wf_filter _ form
  · exact form
  · exact form

theorem execLinkTrain_form {ok : Bool} {shroudsUp : BitVec 16} {u : State}
    (ends : execLinkTrain ok shroudsUp s = .next u) (form : memoryForm s) : memoryForm u := by
  grind [memoryForm, execLinkTrain, endStage_mem, setPlat_mem, → passed_form]

theorem execOpenCommands_form {u : State} (ends : execOpenCommands s = .next u) (form : memoryForm s) : memoryForm u := by
  grind [memoryForm, execOpenCommands, setPlat_mem, → passed_form]

theorem heated_form (form : memoryForm s) : memoryForm (s.heated) := by
  grind [memoryForm, State.heated, haltAll_form, setPlat_mem]

theorem execThermalThrottle_form {u : State} (ends : execThermalThrottle s = .next u) (form : memoryForm s) : memoryForm u := by
  grind [memoryForm, execThermalThrottle, heated_form, → passed_form]

theorem execThermalRecover_form {u : State} (ends : execThermalRecover s = .next u) (form : memoryForm s) : memoryForm u := by
  grind [memoryForm, execThermalRecover, heated_form, → passed_form]

theorem execThermalTrip_form {u : State} (ends : execThermalTrip s = .next u) (form : memoryForm s) : memoryForm u := by
  grind [memoryForm, execThermalTrip, heated_form, → passed_form]

theorem execPcapWrite_form {v : Byte} {u : State} (ends : execPcapWrite v s = .next u) (form : memoryForm s) : memoryForm u := by
  grind [memoryForm, execPcapWrite, setPlat_mem]

theorem execPowerCheck_form {milliwatts : Nat} {low10ms : Bool} {u : State}
    (ends : execPowerCheck milliwatts low10ms s = .next u) (form : memoryForm s) : memoryForm u := by
  grind [memoryForm, execPowerCheck, setPlat_mem]

theorem execDynamicAddressAssign_form {addr : Nat} {u : State}
    (ends : execDynamicAddressAssign addr s = .next u) (form : memoryForm s) : memoryForm u := by
  grind [memoryForm, execDynamicAddressAssign, setPlat_mem]

theorem execBypass_form {u : State} (ends : execBypass s = .next u) (form : memoryForm s) : memoryForm u := by
  grind [memoryForm, execBypass, setPlat_mem]

theorem execIdcode_form {u : State} (ends : execIdcode s = .next u) (form : memoryForm s) : memoryForm u := by
  grind [memoryForm, execIdcode, setPlat_mem]

theorem execSamplePreload_form {u : State} (ends : execSamplePreload s = .next u) (form : memoryForm s) : memoryForm u := by
  grind [memoryForm, execSamplePreload, takeFree_form, setPlat_mem]

theorem execExtest_form {u : State} (ends : execExtest s = .next u) (form : memoryForm s) : memoryForm u := by
  grind [memoryForm, execExtest, setPlat_mem]

theorem execDebugUnlock_form {tokenOk : Bool} {u : State}
    (ends : execDebugUnlock tokenOk s = .next u) (form : memoryForm s) : memoryForm u := by
  grind [memoryForm, execDebugUnlock, setPlat_mem, alarm2_form]

/-! ### Scalar -/

theorem intOp_form {t : ITy} {d : Reg} {a b : Src} {f : Int → Int → Int} {u : State}
    (ends : s.intOp t d a b f = .next u) (form : memoryForm s) : memoryForm u := by
  grind [memoryForm, State.intOp, result_mem]

theorem bitOp_form {d : Reg} {a b : Src} {f : Word → Word → Word} {u : State}
    (ends : s.bitOp d a b f = .next u) (form : memoryForm s) : memoryForm u := by
  grind [memoryForm, State.bitOp, result_mem]

theorem unOp_form {d : Reg} {a : Src} {f : Word → Word} {u : State}
    (ends : s.unOp d a f = .next u) (form : memoryForm s) : memoryForm u := by
  grind [memoryForm, State.unOp, result_mem]

theorem execAdd_form {t : ITy} {d : Reg} {a b : Src} {u : State}
    (ends : execAdd t d a b s = .next u) (form : memoryForm s) : memoryForm u := by
  grind [memoryForm, execAdd, → intOp_form]

theorem execSub_form {t : ITy} {d : Reg} {a b : Src} {u : State}
    (ends : execSub t d a b s = .next u) (form : memoryForm s) : memoryForm u := by
  grind [memoryForm, execSub, → intOp_form]

theorem execMul_form {t : ITy} {d : Reg} {a b : Src} {u : State}
    (ends : execMul t d a b s = .next u) (form : memoryForm s) : memoryForm u := by
  grind [memoryForm, execMul, → intOp_form]

theorem execMulh_form {t : ITy} {d : Reg} {a b : Src} {u : State}
    (ends : execMulh t d a b s = .next u) (form : memoryForm s) : memoryForm u := by
  grind [memoryForm, execMulh, → intOp_form]

theorem execDiv_form {t : ITy} {d : Reg} {a b : Src} {u : State}
    (ends : execDiv t d a b s = .next u) (form : memoryForm s) : memoryForm u := by
  grind [memoryForm, execDiv, → intOp_form]

theorem execRem_form {t : ITy} {d : Reg} {a b : Src} {u : State}
    (ends : execRem t d a b s = .next u) (form : memoryForm s) : memoryForm u := by
  grind [memoryForm, execRem, → intOp_form]

theorem execMin_form {t : ITy} {d : Reg} {a b : Src} {u : State}
    (ends : execMin t d a b s = .next u) (form : memoryForm s) : memoryForm u := by
  grind [memoryForm, execMin, → intOp_form]

theorem execMax_form {t : ITy} {d : Reg} {a b : Src} {u : State}
    (ends : execMax t d a b s = .next u) (form : memoryForm s) : memoryForm u := by
  grind [memoryForm, execMax, → intOp_form]

theorem execSlt_form {t : ITy} {d : Reg} {a b : Src} {u : State}
    (ends : execSlt t d a b s = .next u) (form : memoryForm s) : memoryForm u := by
  grind [memoryForm, execSlt, → intOp_form]

theorem execSeq_form {t : ITy} {d : Reg} {a b : Src} {u : State}
    (ends : execSeq t d a b s = .next u) (form : memoryForm s) : memoryForm u := by
  grind [memoryForm, execSeq, → intOp_form]

theorem execAnd_form {d : Reg} {a b : Src} {u : State} (ends : execAnd d a b s = .next u) (form : memoryForm s) : memoryForm u := by
  grind [memoryForm, execAnd, → bitOp_form]

theorem execOr_form {d : Reg} {a b : Src} {u : State} (ends : execOr d a b s = .next u) (form : memoryForm s) : memoryForm u := by
  grind [memoryForm, execOr, → bitOp_form]

theorem execXor_form {d : Reg} {a b : Src} {u : State} (ends : execXor d a b s = .next u) (form : memoryForm s) : memoryForm u := by
  grind [memoryForm, execXor, → bitOp_form]

theorem execAndn_form {d : Reg} {a b : Src} {u : State}
    (ends : execAndn d a b s = .next u) (form : memoryForm s) : memoryForm u := by
  grind [memoryForm, execAndn, → bitOp_form]

theorem execShl_form {d : Reg} {a b : Src} {u : State} (ends : execShl d a b s = .next u) (form : memoryForm s) : memoryForm u := by
  grind [memoryForm, execShl, → bitOp_form]

theorem execShr_form {d : Reg} {a b : Src} {u : State} (ends : execShr d a b s = .next u) (form : memoryForm s) : memoryForm u := by
  grind [memoryForm, execShr, → bitOp_form]

theorem execSra_form {d : Reg} {a b : Src} {u : State} (ends : execSra d a b s = .next u) (form : memoryForm s) : memoryForm u := by
  grind [memoryForm, execSra, → bitOp_form]

theorem execRot_form {d : Reg} {a b : Src} {u : State} (ends : execRot d a b s = .next u) (form : memoryForm s) : memoryForm u := by
  grind [memoryForm, execRot, → bitOp_form]

theorem execClz_form {t : BTy} {d : Reg} {a : Src} {u : State}
    (ends : execClz t d a s = .next u) (form : memoryForm s) : memoryForm u := by
  grind [memoryForm, execClz, → unOp_form]

theorem execCtz_form {t : BTy} {d : Reg} {a : Src} {u : State}
    (ends : execCtz t d a s = .next u) (form : memoryForm s) : memoryForm u := by
  grind [memoryForm, execCtz, → unOp_form]

theorem execPopc_form {t : BTy} {d : Reg} {a : Src} {u : State}
    (ends : execPopc t d a s = .next u) (form : memoryForm s) : memoryForm u := by
  grind [memoryForm, execPopc, → unOp_form]

theorem execSextI8_form {d : Reg} {a : Src} {u : State}
    (ends : execSextI8 d a s = .next u) (form : memoryForm s) : memoryForm u := by
  grind [memoryForm, execSextI8, → unOp_form]

theorem execSextI16_form {d : Reg} {a : Src} {u : State}
    (ends : execSextI16 d a s = .next u) (form : memoryForm s) : memoryForm u := by
  grind [memoryForm, execSextI16, → unOp_form]

theorem execSextI32_form {d : Reg} {a : Src} {u : State}
    (ends : execSextI32 d a s = .next u) (form : memoryForm s) : memoryForm u := by
  grind [memoryForm, execSextI32, → unOp_form]

theorem execZextN8_form {d : Reg} {a : Src} {u : State}
    (ends : execZextN8 d a s = .next u) (form : memoryForm s) : memoryForm u := by
  grind [memoryForm, execZextN8, → unOp_form]

theorem execZextN16_form {d : Reg} {a : Src} {u : State}
    (ends : execZextN16 d a s = .next u) (form : memoryForm s) : memoryForm u := by
  grind [memoryForm, execZextN16, → unOp_form]

theorem execZextN32_form {d : Reg} {a : Src} {u : State}
    (ends : execZextN32 d a s = .next u) (form : memoryForm s) : memoryForm u := by
  grind [memoryForm, execZextN32, → unOp_form]

theorem execBfx_form {natural : Bool} {d : Reg} {a : Src} {pos : BitVec 6} {len : BitVec 7} {u : State}
    (ends : execBfx natural d a pos len s = .next u) (form : memoryForm s) : memoryForm u := by
  grind [memoryForm, execBfx, result_mem]

theorem execBfi_form {d : Reg} {a : Src} {pos : BitVec 6} {len : BitVec 7} {u : State}
    (ends : execBfi d a pos len s = .next u) (form : memoryForm s) : memoryForm u := by
  grind [memoryForm, execBfi, result_mem]

theorem execLi_form {d : Reg} {imm : BitVec 10} {u : State}
    (ends : execLi d imm s = .next u) (form : memoryForm s) : memoryForm u := by
  grind [memoryForm, execLi, result_mem]

theorem execLiLit32_form {d : Reg} {lit : BitVec 32} {u : State}
    (ends : execLiLit32 d lit s = .next u) (form : memoryForm s) : memoryForm u := by
  grind [memoryForm, execLiLit32, result_mem]

theorem execLiCidx_form {d : Reg} {k : Fin 512} {u : State}
    (ends : execLiCidx d k s = .next u) (form : memoryForm s) : memoryForm u := by
  grind [memoryForm, execLiCidx, result_mem]

/-! ### ScalarFloat -/

theorem fresult_form {t : ETy} {d : Reg} {v : Nat} {u : State}
    (ends : s.fresult t d v = .next u) (form : memoryForm s) : memoryForm u := by
  grind [memoryForm, State.fresult, result_mem]

theorem fOp_form {t : ETy} {d : Reg} {a b : Src} {f : Nat → Nat → Nat} {u : State}
    (ends : s.fOp t d a b f = .next u) (form : memoryForm s) : memoryForm u := by
  grind [memoryForm, State.fOp, → fresult_form]

theorem execFaddF32_form {r : Rnd} {d : Reg} {a b : Src} {u : State}
    (ends : execFaddF32 r d a b s = .next u) (form : memoryForm s) : memoryForm u := by
  grind [memoryForm, execFaddF32, → fOp_form]

theorem execFaddF64_form {r : Rnd} {d : Reg} {a b : Src} {u : State}
    (ends : execFaddF64 r d a b s = .next u) (form : memoryForm s) : memoryForm u := by
  grind [memoryForm, execFaddF64, → fOp_form]

theorem execFsubF32_form {r : Rnd} {d : Reg} {a b : Src} {u : State}
    (ends : execFsubF32 r d a b s = .next u) (form : memoryForm s) : memoryForm u := by
  grind [memoryForm, execFsubF32, → fOp_form]

theorem execFsubF64_form {r : Rnd} {d : Reg} {a b : Src} {u : State}
    (ends : execFsubF64 r d a b s = .next u) (form : memoryForm s) : memoryForm u := by
  grind [memoryForm, execFsubF64, → fOp_form]

theorem execFmulF32_form {r : Rnd} {d : Reg} {a b : Src} {u : State}
    (ends : execFmulF32 r d a b s = .next u) (form : memoryForm s) : memoryForm u := by
  grind [memoryForm, execFmulF32, → fOp_form]

theorem execFmulF64_form {r : Rnd} {d : Reg} {a b : Src} {u : State}
    (ends : execFmulF64 r d a b s = .next u) (form : memoryForm s) : memoryForm u := by
  grind [memoryForm, execFmulF64, → fOp_form]

theorem execFmaF32_form {r : Rnd} {d : Reg} {a b : Src} {u : State}
    (ends : execFmaF32 r d a b s = .next u) (form : memoryForm s) : memoryForm u := by
  grind [memoryForm, execFmaF32, → fOp_form]

theorem execFmaF64_form {r : Rnd} {d : Reg} {a b : Src} {u : State}
    (ends : execFmaF64 r d a b s = .next u) (form : memoryForm s) : memoryForm u := by
  grind [memoryForm, execFmaF64, → fOp_form]

theorem execFdivF32_form {r : Rnd} {d : Reg} {a b : Src} {u : State}
    (ends : execFdivF32 r d a b s = .next u) (form : memoryForm s) : memoryForm u := by
  grind [memoryForm, execFdivF32, → fOp_form]

theorem execFdivF64_form {r : Rnd} {d : Reg} {a b : Src} {u : State}
    (ends : execFdivF64 r d a b s = .next u) (form : memoryForm s) : memoryForm u := by
  grind [memoryForm, execFdivF64, → fOp_form]

theorem execFminF32_form {d : Reg} {a b : Src} {u : State}
    (ends : execFminF32 d a b s = .next u) (form : memoryForm s) : memoryForm u := by
  grind [memoryForm, execFminF32, → fOp_form]

theorem execFmaxF32_form {d : Reg} {a b : Src} {u : State}
    (ends : execFmaxF32 d a b s = .next u) (form : memoryForm s) : memoryForm u := by
  grind [memoryForm, execFmaxF32, → fOp_form]

theorem execFcmpF32_form {d : Reg} {a b : Src} {u : State}
    (ends : execFcmpF32 d a b s = .next u) (form : memoryForm s) : memoryForm u := by
  grind [memoryForm, execFcmpF32, result_mem]

theorem execFminF64_form {d : Reg} {a b : Src} {u : State}
    (ends : execFminF64 d a b s = .next u) (form : memoryForm s) : memoryForm u := by
  grind [memoryForm, execFminF64, → fOp_form]

theorem execFmaxF64_form {d : Reg} {a b : Src} {u : State}
    (ends : execFmaxF64 d a b s = .next u) (form : memoryForm s) : memoryForm u := by
  grind [memoryForm, execFmaxF64, → fOp_form]

theorem execFcmpF64_form {d : Reg} {a b : Src} {u : State}
    (ends : execFcmpF64 d a b s = .next u) (form : memoryForm s) : memoryForm u := by
  grind [memoryForm, execFcmpF64, result_mem]

theorem execFsqrt_form {t : FTy} {r : Rnd} {d : Reg} {a : Src} {u : State}
    (ends : execFsqrt t r d a s = .next u) (form : memoryForm s) : memoryForm u := by
  grind [memoryForm, execFsqrt, → fresult_form]

theorem execFcvt_form {dst src : ETy} {r : Rnd} {d : Reg} {a : Src} {u : State}
    (ends : execFcvt dst src r d a s = .next u) (form : memoryForm s) : memoryForm u := by
  grind [memoryForm, execFcvt, result_mem]

/-! ### Traps -/

theorem execIllegalInstruction_form {field : Nat} {word : IWord} {u : State}
    (ends : execIllegalInstruction field word s = .next u) (form : memoryForm s) : memoryForm u := by
  grind [memoryForm, execIllegalInstruction, trapEntry_form]

theorem execFetchFault_form {addr : Word} {u : State}
    (ends : execFetchFault addr s = .next u) (form : memoryForm s) : memoryForm u := by
  grind [memoryForm, execFetchFault, trapEntry_form]

theorem execPcieCompletionTimeout_form {u : State}
    (ends : execPcieCompletionTimeout s = .next u) (form : memoryForm s) : memoryForm u := by
  unfold execPcieCompletionTimeout at ends
  all_goals grind [memoryForm, focus_mem, trapEntry_form, → passed_form]

/-! ### The dispatch, and a step -/

/-- Every instruction and every event keeps the form. -/
theorem exec_form {i : Instr} {u : State} (ends : exec i s = .next u) (form : memoryForm s) : memoryForm u := by
  cases i with
  | add => exact execAdd_form ends form
  | sub => exact execSub_form ends form
  | mul => exact execMul_form ends form
  | mulh => exact execMulh_form ends form
  | div => exact execDiv_form ends form
  | rem => exact execRem_form ends form
  | min => exact execMin_form ends form
  | max => exact execMax_form ends form
  | slt => exact execSlt_form ends form
  | seq => exact execSeq_form ends form
  | and => exact execAnd_form ends form
  | or => exact execOr_form ends form
  | xor => exact execXor_form ends form
  | andn => exact execAndn_form ends form
  | shl => exact execShl_form ends form
  | shr => exact execShr_form ends form
  | sra => exact execSra_form ends form
  | rot => exact execRot_form ends form
  | clz => exact execClz_form ends form
  | ctz => exact execCtz_form ends form
  | popc => exact execPopc_form ends form
  | sextI8 => exact execSextI8_form ends form
  | sextI16 => exact execSextI16_form ends form
  | sextI32 => exact execSextI32_form ends form
  | zextN8 => exact execZextN8_form ends form
  | zextN16 => exact execZextN16_form ends form
  | zextN32 => exact execZextN32_form ends form
  | bfx => exact execBfx_form ends form
  | bfi => exact execBfi_form ends form
  | li => exact execLi_form ends form
  | liLit32 => exact execLiLit32_form ends form
  | liCidx => exact execLiCidx_form ends form
  | faddF32 => exact execFaddF32_form ends form
  | faddF64 => exact execFaddF64_form ends form
  | fsubF32 => exact execFsubF32_form ends form
  | fsubF64 => exact execFsubF64_form ends form
  | fmulF32 => exact execFmulF32_form ends form
  | fmulF64 => exact execFmulF64_form ends form
  | fmaF32 => exact execFmaF32_form ends form
  | fmaF64 => exact execFmaF64_form ends form
  | fdivF32 => exact execFdivF32_form ends form
  | fdivF64 => exact execFdivF64_form ends form
  | fminF32 => exact execFminF32_form ends form
  | fmaxF32 => exact execFmaxF32_form ends form
  | fcmpF32 => exact execFcmpF32_form ends form
  | fminF64 => exact execFminF64_form ends form
  | fmaxF64 => exact execFmaxF64_form ends form
  | fcmpF64 => exact execFcmpF64_form ends form
  | fsqrt => exact execFsqrt_form ends form
  | fcvt => exact execFcvt_form ends form
  | nop d csr => exact execNop_form (_d := d) (_csr := csr) ends form
  | br => exact execBr_form ends form
  | brFar => exact execBrFar_form ends form
  | bz _ likely _ _ => exact execBz_form (_likely := likely) ends form
  | bnz _ likely _ _ => exact execBnz_form (_likely := likely) ends form
  | beq _ likely _ _ _ => exact execBeq_form (_likely := likely) ends form
  | bne _ likely _ _ _ => exact execBne_form (_likely := likely) ends form
  | blt _ likely _ _ _ => exact execBlt_form (_likely := likely) ends form
  | bge _ likely _ _ _ => exact execBge_form (_likely := likely) ends form
  | call => exact execCall_form ends form
  | callFar => exact execCallFar_form ends form
  | callx => exact execCallx_form ends form
  | ret => exact execRet_form ends form
  | loop => exact execLoop_form ends form
  | lfor => exact execLfor_form ends form
  | lend => exact execLend_form ends form
  | park => exact execPark_form ends form
  | yield => exact execYield_form ends form
  | trap => exact execTrap_form ends form
  | eret => exact execEret_form ends form
  | bkpt => exact execBkpt_form ends form
  | ldbI8 => exact execLdbI8_form ends form
  | ldbN8 => exact execLdbN8_form ends form
  | ldhI16 => exact execLdhI16_form ends form
  | ldhN16 => exact execLdhN16_form ends form
  | ldI32 => exact execLdI32_form ends form
  | ldN32 => exact execLdN32_form ends form
  | ld => exact execLd_form ends form
  | stb => exact execStb_form ends form
  | sth => exact execSth_form ends form
  | stN32 => exact execStN32_form ends form
  | st => exact execSt_form ends form
  | ldAcq => exact execLdAcq_form ends form
  | stRel => exact execStRel_form ends form
  | ldAcqN32 => exact execLdAcqN32_form ends form
  | stRelN32 => exact execStRelN32_form ends form
  | aadd => exact execAadd_form ends form
  | acas => exact execAcas_form ends form
  | axch => exact execAxch_form ends form
  | aminI64 => exact execAminI64_form ends form
  | aminN64 => exact execAminN64_form ends form
  | amaxI64 => exact execAmaxI64_form ends form
  | amaxN64 => exact execAmaxN64_form ends form
  | aand => exact execAand_form ends form
  | aor => exact execAor_form ends form
  | badd => exact execBadd_form ends form
  | bcas => exact execBcas_form ends form
  | prefCode => exact execPrefCode_form ends form
  | prefHeap => exact execPrefHeap_form ends form
  | fenceSc => exact execFenceSc_form ends form
  | fenceSl => exact execFenceSl_form ends form
  | fenceAcq sc => exact execFenceAcq_form (_sc := sc) ends form
  | fenceRel => exact execFenceRel_form ends form
  | nnew => exact execNnew_form ends form
  | nfree => exact execNfree_form ends form
  | nld => exact execNld_form ends form
  | nst => exact execNst_form ends form
  | pget => exact execPget_form ends form
  | plink => exact execPlink_form ends form
  | splice => exact execSplice_form ends form
  | spliceJ => exact execSpliceJ_form ends form
  | ndup => exact execNdup_form ends form
  | nown => exact execNown_form ends form
  | rpush => exact execRpush_form ends form
  | rpop => exact execRpop_form ends form
  | meet => exact execMeet_form ends form
  | rule => exact execRule_form ends form
  | fork => exact execFork_form ends form
  | join => exact execJoin_form ends form
  | vclaim => exact execVclaim_form ends form
  | vyield => exact execVyield_form ends form
  | vren => exact execVren_form ends form
  | vld => exact execVld_form ends form
  | vst => exact execVst_form ends form
  | vgath => exact execVgath_form ends form
  | vadd => exact execVadd_form ends form
  | vsub => exact execVsub_form ends form
  | vmul => exact execVmul_form ends form
  | vmulz => exact execVmulz_form ends form
  | vfma => exact execVfma_form ends form
  | vmin => exact execVmin_form ends form
  | vmax => exact execVmax_form ends form
  | vcmp => exact execVcmp_form ends form
  | vsel => exact execVsel_form ends form
  | vcvt => exact execVcvt_form ends form
  | vsum => exact execVsum_form ends form
  | vmaxr => exact execVmaxr_form ends form
  | vredq => exact execVredq_form ends form
  | vxp => exact execVxp_form ends form
  | vrank => exact execVrank_form ends form
  | vselect => exact execVselect_form ends form
  | vpopc => exact execVpopc_form ends form
  | vshuf => exact execVshuf_form ends form
  | vbcast => exact execVbcast_form ends form
  | vidx => exact execVidx_form ends form
  | qset => exact execQset_form ends form
  | qsetClr => exact execQsetClr_form ends form
  | qwait => exact execQwait_form ends form
  | qresv => exact execQresv_form ends form
  | qadvP => exact execQadvP_form ends form
  | qadvC => exact execQadvC_form ends form
  | qhead => exact execQhead_form ends form
  | bclaim => exact execBclaim_form ends form
  | bfree => exact execBfree_form ends form
  | bfmt => exact execBfmt_form ends form
  | bfmtTab => exact execBfmtTab_form ends form
  | bfmtRd => exact execBfmtRd_form ends form
  | bpair => exact execBpair_form ends form
  | bpairClr => exact execBpairClr_form ends form
  | sbq => exact execSbq_form ends form
  | sbwait => exact execSbwait_form ends form
  | sbwaitR => exact execSbwaitR_form ends form
  | barr => exact execBarr_form ends form
  | barrArm => exact execBarrArm_form ends form
  | barrDis => exact execBarrDis_form ends form
  | bwait => exact execBwait_form ends form
  | bwaitG => exact execBwaitG_form ends form
  | bstat => exact execBstat_form ends form
  | eclaim => exact execEclaim_form ends form
  | ecap => exact execEcap_form ends form
  | eclr => exact execEclr_form ends form
  | eclrFree => exact execEclrFree_form ends form
  | eins => exact execEins_form ends form
  | emax => exact execEmax_form ends form
  | esum => exact execEsum_form ends form
  | einf => exact execEinf_form ends form
  | eleg => exact execEleg_form ends form
  | eeval => exact execEeval_form ends form
  | eread => exact execEread_form ends form
  | ecnt => exact execEcnt_form ends form
  | vexp2 => exact execVexp2_form ends form
  | vlog2 => exact execVlog2_form ends form
  | vrcp => exact execVrcp_form ends form
  | vrsq => exact execVrsq_form ends form
  | vtanh => exact execVtanh_form ends form
  | send => exact execSend_form ends form
  | sendi => exact execSendi_form ends form
  | hret => exact execHret_form ends form
  | aaddRemote => exact execAaddRemote_form ends form
  | acasRemote => exact execAcasRemote_form ends form
  | axchRemote => exact execAxchRemote_form ends form
  | aminRemote => exact execAminRemote_form ends form
  | amaxRemote => exact execAmaxRemote_form ends form
  | aandRemote => exact execAandRemote_form ends form
  | aorRemote => exact execAorRemote_form ends form
  | tbind => exact execTbind_form ends form
  | tunbind => exact execTunbind_form ends form
  | csrr => exact execCsrr_form ends form
  | csrw => exact execCsrw_form ends form
  | cyc => exact execCyc_form ends form
  | binjArm => exact execBinjArm_form ends form
  | launchRead => exact execLaunchRead_form ends form
  | syscBeat _ a => exact execSyscBeat_form (_a := a) ends form
  | syscInfo _ a => exact execSyscInfo_form (_a := a) ends form
  | syscFail d _ => exact execSyscFail_form (_d := d) ends form
  | sopen => exact execSopen_form ends form
  | sput => exact execSput_form ends form
  | sget => exact execSget_form ends form
  | sclose => exact execSclose_form ends form
  | mvgo => exact execMvgo_form ends form
  | mvwait => exact execMvwait_form ends form
  | hidx d => exact execHidx_form (d := d) ends form
  | hidxw d => exact execHidxw_form (d := d) ends form
  | cxdata => exact execCxdata_form ends form
  | partition => exact execPartition_form ends form
  | qcreate => exact execQcreate_form ends form
  | qdestroy => exact execQdestroy_form ends form
  | doorbell => exact execDoorbell_form ends form
  | preempt => exact execPreempt_form ends form
  | resume => exact execResume_form ends form
  | kill => exact execKill_form ends form
  | halt => exact execHalt_form ends form
  | run => exact execRun_form ends form
  | shootdown => exact execShootdown_form ends form
  | reset => exact execReset_form ends form
  | fwswap => exact execFwswap_form ends form
  | swapVerify => exact execSwapVerify_form ends form
  | launch => exact execLaunch_form ends form
  | shroudRetrain => exact execShroudRetrain_form ends form
  | bootVerify => exact execBootVerify_form ends form
  | hbmTrain => exact execHbmTrain_form ends form
  | linkTrain => exact execLinkTrain_form ends form
  | pcapWrite => exact execPcapWrite_form ends form
  | powerCheck => exact execPowerCheck_form ends form
  | debugUnlock => exact execDebugUnlock_form ends form
  | illegalInstruction => exact execIllegalInstruction_form ends form
  | fetchFault => exact execFetchFault_form ends form
  | shroudFlitArrive => exact execShroudFlitArrive_form ends form
  | dynamicAddressAssign => exact execDynamicAddressAssign_form ends form
  | parkTimeout => exact execParkTimeout_form ends form
  | storeDrain => exact execStoreDrain_form ends form
  | joinTarget => exact execJoinTarget_form ends form
  | vredqSlot => exact execVredqSlot_form ends form
  | pairSwap => exact execPairSwap_form ends form
  | remoteArrival => exact execRemoteArrival_form ends form
  | eaStart => exact execEaStart_form ends form
  | eaCommit => exact execEaCommit_form ends form
  | sfStart => exact execSfStart_form ends form
  | sfRetire => exact execSfRetire_form ends form
  | ratomicTarget => exact execRatomicTarget_form ends form
  | ynop => exact execYnop_form ends form
  | ymma => exact execYmma_form ends form
  | yzero => exact execYzero_form ends form
  | yload => exact execYload_form ends form
  | ystore => exact execYstore_form ends form
  | ygang => exact execYgang_form ends form
  | gangForm => exact execGangForm_form ends form
  | yardSchedule => exact execYardSchedule_form ends form
  | yardRetire => exact execYardRetire_form ends form
  | remoteStoreApply => exact execRemoteStoreApply_form ends form
  | relink => exact execRelink_form ends form
  | spliceSwap => exact execSpliceSwap_form ends form
  | collapse => exact execCollapse_form ends form
  | meetFetch => exact execMeetFetch_form ends form
  | meetInstall => exact execMeetInstall_form ends form
  | repoint => exact execRepoint_form ends form
  | dispatch => exact execDispatch_form ends form
  | handoffArrive => exact execHandoffArrive_form ends form
  | stealRequest => exact execStealRequest_form ends form
  | stealReply => exact execStealReply_form ends form
  | stealRound => exact execStealRound_form ends form
  | parkContext => exact execParkContext_form ends form
  | resumeContext => exact execResumeContext_form ends form
  | deliverEvent => exact execDeliverEvent_form ends form
  | msgArrive => exact execMsgArrive_form ends form
  | msgDispatch => exact execMsgDispatch_form ends form
  | errorReply => exact execErrorReply_form ends form
  | replyArrive => exact execReplyArrive_form ends form
  | packetLeave => exact execPacketLeave_form ends form
  | linkRetrain => exact execLinkRetrain_form ends form
  | linkReroute => exact execLinkReroute_form ends form
  | halyardStart => exact execHalyardStart_form ends form
  | movePerform => exact execMovePerform_form ends form
  | halyardComplete => exact execHalyardComplete_form ends form
  | extentFill => exact execExtentFill_form ends form
  | dirtyRequest => exact execDirtyRequest_form ends form
  | swapTakeBack => exact execSwapTakeBack_form ends form
  | swapTimeout => exact execSwapTimeout_form ends form
  | launchDispatch => exact execLaunchDispatch_form ends form
  | fenceRecord => exact execFenceRecord_form ends form
  | nopRecord => exact execNopRecord_form ends form
  | launchComplete => exact execLaunchComplete_form ends form
  | taskFail => exact execTaskFail_form ends form
  | priorityPreempt => exact execPriorityPreempt_form ends form
  | preemptedResume => exact execPreemptedResume_form ends form
  | sysMessage => exact execSysMessage_form ends form
  | watchdogStep1 => exact execWatchdogStep1_form ends form
  | watchdogStep2 => exact execWatchdogStep2_form ends form
  | watchdogStep3 => exact execWatchdogStep3_form ends form
  | gangWatchdog => exact execGangWatchdog_form ends form
  | alarmClass1 => exact execAlarmClass1_form ends form
  | alarmClass2 => exact execAlarmClass2_form ends form
  | alarmClass3 => exact execAlarmClass3_form ends form
  | shroudFail => exact execShroudFail_form ends form
  | graphFire => exact execGraphFire_form ends form
  | streamToken => exact execStreamToken_form ends form
  | hostWriteReject => exact execHostWriteReject_form ends form
  | powerOnReset => exact execPowerOnReset_form ends form
  | warmReset => exact execWarmReset_form ends form
  | fuseMapBuild => exact execFuseMapBuild_form ends form
  | bringupScrub => exact execBringupScrub_form ends form
  | openCommands => exact execOpenCommands_form ends form
  | thermalThrottle => exact execThermalThrottle_form ends form
  | thermalRecover => exact execThermalRecover_form ends form
  | thermalTrip => exact execThermalTrip_form ends form
  | bypass => exact execBypass_form ends form
  | idcode => exact execIdcode_form ends form
  | samplePreload => exact execSamplePreload_form ends form
  | extest => exact execExtest_form ends form
  | pcieCompletionTimeout => exact execPcieCompletionTimeout_form ends form
  | verificationAvailable => exact execVerificationAvailable_form ends form

theorem tick_form (form : memoryForm s) (ready : List Nat) : memoryForm (s.tick ready) := form_of_mem (tick_mem s ready) form

theorem issue_form {ready : List Nat} {u : State} (ends : issue ready s = .next u) (form : memoryForm s) : memoryForm u := by
  have ticked := tick_form form ready
  rcases issue_cases s ends with rfl | rfl | ⟨_, t, -, trapped, rfl⟩ | ⟨i, t, -, ran, rfl⟩
  · exact form
  · exact deliver_form ticked
  · exact form_of_mem (settle_mem t _) ((finish_form trapped ticked).resolve_right nofun)
  · exact form_of_mem (settle_mem t _) (exec_form ran ticked)

theorem turn_form {u : State} (ends : turn s = .next u) (form : memoryForm s) : memoryForm u := by
  rcases turn_cases s ends with ⟨-, issued⟩ | ⟨core, _, rest, -, cycle⟩ | ⟨i, p, rest, -, event⟩ | ⟨fn, code, rest, -, rfl⟩ |
    ⟨n, rest, -, rfl⟩
  · exact issue_form issued form
  · rcases cycle with ⟨_, -, issued⟩ | rfl
    · exact issue_form issued form
    · exact form
  · rcases event with ⟨t, ran, rfl⟩ | rfl
    · exact form_of_mem (s := t) rfl (exec_form ran form)
    · exact form
  · exact form_of_mem (strayCommand_mem _ fn _) form
  · exact cpTurn_memoryForm _ n form

/-- Settles O59: a step is a turn, which is an issue, an event or a CP's, and the signals after it. -/
theorem everyStepKeepsTheMemoryForm : Obligations.EveryStepKeepsTheMemoryForm := by
  intro s u form ends
  obtain ⟨t, ran, rfl⟩ := step_next s ends
  exact form_of_mem (sweep_mem t) (turn_form ran form)

end Sys2Proof.Machine
end

section
/-! Loads, stores, atomics, prefetches and fences (R112 to R117, R136, R331), and how a sequence of checks is passed or stops. -/

namespace Sys2Proof.Machine

/-! ### Passing checks -/

theorem ok_bind {α β : Type} (a : α) (f : α → Ex β) : ((.ok a : Ex α) >>= f) = f a := rfl

theorem error_bind {α β : Type} (e : Stop) (f : α → Ex β) : ((.error e : Ex α) >>= f) = .error e := rfl

theorem need_true (e : Stop) : need true e = .ok () := rfl

theorem need_false (e : Stop) : need false e = .error e := rfl

theorem need_ok {c : Bool} {e : Stop} (holds : c = true) : need c e = .ok () := if_pos holds

section
variable {s : State}

/-! ### Loads -/

theorem readChecked_of_readable {ea : Word} {n key : Nat} (ready : readable s ea n key) :
    s.readChecked ea key n =
      .ok (forward s.ctx.storeBuf ea (Memory.read s.mem key n), if covered s.ctx.storeBuf ea n then s else s.correct key n) := by
  obtain ⟨-, moved, bank, good⟩ := ready
  have first : (space ea ≠ 0x9 || !s.posting) = true := by by_cases h : space ea = 0x9 <;> simp [h, bank]
  have second : (space ea ≠ 0x9 || s.engine = .tackle || s.sbFree false (keyOff key) n) = true := by
    by_cases h : space ea = 0x9 <;> by_cases h' : s.engine = .tackle <;> simp [h, h', bank]
  simp only [State.readChecked, moved, first, second, good, Option.isNone_none, Bool.true_or, need_true, ok_bind]

theorem loadOp_of_readable {d base : Reg} {off : BitVec 12} {n key : Nat} {ext : Nat → Word} {acq : Bool}
    (ready : readable s (s.ea base off n) n key) (empty : acq = true → s.ctx.storeBuf = []) :
    ∃ u, s.loadOp d base off n ext acq = .next u ∧ wrote 1 d (ext (loadedBytes s (s.ea base off n) n key))
      (if covered s.ctx.storeBuf (s.ea base off n) n then s else s.correct key n) u := by
  have bare : (!acq || s.ctx.storeBuf.isEmpty) = true := by cases acq <;> simp_all
  refine ⟨_, finish_ok ?_, result_wrote _ 1 d _⟩
  simp only [ready.1, bare, readChecked_of_readable ready, need_true, ok_bind]
  rfl

/-- Settles O16: a load that passes its checks is the result of the bytes it reads, in the state whose check bits are corrected. -/
theorem loadsWriteTheirRegister : Obligations.LoadsWriteTheirRegister := by
  intro s d base off key x load ea ready acquires
  have ends := loadOp_of_readable (d := d) (ext := x.2.2.1) ready acquires
  simp only [List.mem_cons, List.not_mem_nil, or_false] at load
  obtain rfl | rfl | rfl | rfl | rfl | rfl | rfl | rfl | rfl := load <;> exact ends

/-! ### Misaligned accesses -/

theorem memCheck_misaligned {ea : Word} {n : Nat} (odd : ea.toNat % n ≠ 0) (k : Acc) (spaces : List Nat) :
    s.memCheck ea n k spaces = .error (.trap 0x03 ea 0) := by
  simp only [State.memCheck, odd, decide_false, need_false, error_bind]

theorem loadOp_misaligned {d base : Reg} {off : BitVec 12} {n : Nat} {ext : Nat → Word} {acq : Bool} (can : canTrap s)
    (odd : (s.ea base off n).toNat % n ≠ 0) :
    ∃ u, s.loadOp d base off n ext acq = .next u ∧ tookTrap 0x03 (s.ea base off n) 0 s.pc s u :=
  finish_trap (by simp only [memCheck_misaligned odd, error_bind]) can

theorem storeOp_misaligned {d base : Reg} {off : BitVec 12} {n : Nat} {rel : Bool} (can : canTrap s) (travels : s.mayTravel = true)
    (odd : (s.ea base off n).toNat % n ≠ 0) :
    ∃ u, s.storeOp d base off n rel = .next u ∧ tookTrap 0x03 (s.ea base off n) 0 s.pc s u :=
  finish_trap (by simp only [State.storeBytes, travels, toBytes_length, memCheck_misaligned odd, Bool.or_true, need_true, ok_bind,
    error_bind]) can

/-- A trap leaves the store buffer and the packets alone. -/
theorem tookTrap_storeBuf_net {cause : Nat} {addr info ret : Word} {u : State} (took : tookTrap cause addr info ret s u) :
    u.ctx.storeBuf = s.ctx.storeBuf ∧ u.net = s.net := by
  obtain ⟨-, -, -, -, -, -, -, -, -, -, -, ⟨rest, -, own⟩, -⟩ := took
  exact ⟨(congrArg Context.storeBuf own :), (congrArg State.net rest :)⟩

/-- Settles O18: the alignment is the first check of every load and store. -/
theorem misalignedAccessTraps : Obligations.MisalignedAccessTraps := by
  intro s d base off can travels
  have whole {x : Host.Outcome State Fault Refusal} {ea : Word} :
      (∃ u, x = .next u ∧ tookTrap 0x03 ea 0 s.pc s u) →
      ∃ u, x = .next u ∧ tookTrap 0x03 ea 0 s.pc s u ∧ u.ctx.storeBuf = s.ctx.storeBuf ∧ u.net = s.net :=
    fun ⟨u, ends, took⟩ => ⟨u, ends, took, tookTrap_storeBuf_net took⟩
  simp only [List.forall_mem_cons, List.not_mem_nil, false_imp_iff, implies_true, and_true]
  exact ⟨fun odd => whole (loadOp_misaligned (ext := fun x => ofInt (sextN 16 x)) can odd), fun odd => whole (loadOp_misaligned can odd),
    fun odd => whole (loadOp_misaligned (ext := fun x => ofInt (sextN 32 x)) can odd), fun odd => whole (loadOp_misaligned can odd),
    fun odd => whole (loadOp_misaligned can odd), fun odd => whole (loadOp_misaligned can odd),
    fun odd => whole (loadOp_misaligned can odd), fun odd => whole (storeOp_misaligned can travels odd),
    fun odd => whole (storeOp_misaligned can travels odd), fun odd => whole (storeOp_misaligned can travels odd),
    fun odd => whole (storeOp_misaligned can travels odd), fun odd => whole (storeOp_misaligned can travels odd)⟩

/-! ### Atomics -/

theorem atomicAt_of_ready {ea : Word} {spc key : Nat} {op : AtomOp} {v nw : Word} (ready : atomicReady s ea spc key) :
    s.atomicAt ea key op v nw true = .ok (s.dbl key, (s.correct key 8).setDbl key (op.apply (s.dbl key) v nw)) := by
  obtain ⟨-, clear, released, moved, own, bank, good⟩ := ready
  have first : (space ea ≠ 0x9 || !s.mast.touchesArmed (keyOff key) 8) = true := by by_cases h : space ea = 0x9 <;> simp [h, clear]
  have second : (space ea ≠ 0x9 || s.engine = .tackle || s.sbFree true (keyOff key) 8) = true := by
    by_cases h : space ea = 0x9 <;> by_cases h' : s.engine = .tackle <;> simp [h, h', bank]
  have same : (s.correct key 8).dbl key = s.dbl key := by simp only [State.dbl, correct_mem]
  simp only [State.atomicAt, first, second, released, moved, own, good, same, Option.isNone_none, Bool.not_false, Bool.not_true,
    Bool.and_true, Bool.and_false, Bool.false_eq_true, if_false, need_true, ok_bind]

theorem atomicOp_of_ready {d base : Reg} {off : BitVec 12} {n spc key : Nat} {op : AtomOp} {nw : Word}
    (ready : atomicReady s (s.ea base off 8) spc key) :
    ∃ u, s.atomicOp d base off n spc op nw = .next u ∧
      wrote n d (s.dbl key) ((s.correct key 8).setDbl key (op.apply (s.dbl key) (s.reg d) nw)) u :=
  ⟨_, finish_ok (by simp only [ready.1, atomicAt_of_ready ready, ok_bind]), result_wrote _ n d _⟩

/-- Settles O19: an atomic that is ready is the result of the old double, in the state whose double is replaced. -/
theorem atomicsReadAndReplace : Obligations.AtomicsReadAndReplace := by
  intro s d base off nw key
  simp only [List.forall_mem_cons, List.not_mem_nil, false_imp_iff, implies_true, and_true]
  exact ⟨atomicOp_of_ready, atomicOp_of_ready, atomicOp_of_ready, atomicOp_of_ready, atomicOp_of_ready, atomicOp_of_ready,
    atomicOp_of_ready, atomicOp_of_ready, atomicOp_of_ready, atomicOp_of_ready, atomicOp_of_ready⟩

end

end Sys2Proof.Machine
end

section
/-! How an instruction ends: the pc goes on, a register takes the result, and nothing else moves. What the registers and the pc read depends on the
context and on the shared registers of the task only. -/

namespace Sys2Proof.Machine

section
variable {s t : State}

@[simp] theorem advance_cur (n : Nat) : (s.advance n).cur = s.cur := rfl
@[simp] theorem advance_tasks (n : Nat) : (s.advance n).tasks = s.tasks := rfl
@[simp] theorem advance_masts (n : Nat) : (s.advance n).masts = s.masts := rfl
@[simp] theorem advance_queues (n : Nat) : (s.advance n).queues = s.queues := rfl
@[simp] theorem advance_tackles (n : Nat) : (s.advance n).tackles = s.tackles := rfl
@[simp] theorem advance_streams (n : Nat) : (s.advance n).streams = s.streams := rfl
@[simp] theorem advance_task (n : Nat) : (s.advance n).task = s.task := rfl
@[simp] theorem advance_core (n : Nat) : (s.advance n).core = s.core := rfl
@[simp] theorem advance_mast (n : Nat) : (s.advance n).mast = s.mast := rfl
@[simp] theorem advance_launch (n : Nat) : (s.advance n).launch = s.launch := rfl

@[simp] theorem setReg_masts (d : Reg) (v : Word) : (s.setReg d v).masts = s.masts := by unfold State.setReg; split <;> [rfl; split <;> rfl]
@[simp] theorem setReg_queues (d : Reg) (v : Word) : (s.setReg d v).queues = s.queues := by unfold State.setReg; split <;> [rfl; split <;> rfl]
@[simp] theorem setReg_tackles (d : Reg) (v : Word) : (s.setReg d v).tackles = s.tackles := by unfold State.setReg; split <;> [rfl; split <;> rfl]
@[simp] theorem setReg_streams (d : Reg) (v : Word) : (s.setReg d v).streams = s.streams := by unfold State.setReg; split <;> [rfl; split <;> rfl]
@[simp] theorem setReg_mast (d : Reg) (v : Word) : (s.setReg d v).mast = s.mast := by simp [State.mast]

@[simp] theorem result_cur (n : Nat) (d : Reg) (v : Word) : (s.result n d v).cur = s.cur := by simp [State.result]
@[simp] theorem result_masts (n : Nat) (d : Reg) (v : Word) : (s.result n d v).masts = s.masts := by simp [State.result]
@[simp] theorem result_queues (n : Nat) (d : Reg) (v : Word) : (s.result n d v).queues = s.queues := by simp [State.result]
@[simp] theorem result_tackles (n : Nat) (d : Reg) (v : Word) : (s.result n d v).tackles = s.tackles := by simp [State.result]
@[simp] theorem result_streams (n : Nat) (d : Reg) (v : Word) : (s.result n d v).streams = s.streams := by simp [State.result]
@[simp] theorem result_mast (n : Nat) (d : Reg) (v : Word) : (s.result n d v).mast = s.mast := by simp [State.result]

/-! ### What an instruction leaves alone -/

/-- What a program sees of the state is the same: its pc, its registers and memory. -/
structure sameProgram (s t : State) : Prop where
  pc : t.pc = s.pc
  regs : sameRegs s t
  memory : sameMemory s t

theorem reg_congr (file : t.ctx.file = s.ctx.file) (base : t.ctx.base = s.ctx.base) (globals : t.task.globals = s.task.globals)
    (r : Reg) : t.reg r = s.reg r := by
  cases r <;> simp only [State.reg, file, base, globals]

theorem sameProgram.of_fields (file : t.ctx.file = s.ctx.file) (base : t.ctx.base = s.ctx.base) (pc : t.ctx.pc = s.ctx.pc)
    (globals : t.task.globals = s.task.globals) (mem : t.mem = s.mem) : sameProgram s t :=
  ⟨pc, reg_congr file base globals, fun _ => by rw [mem]⟩

theorem sameProgram.of_ctx (ctx : t.ctx = s.ctx) (task : t.task = s.task) (mem : t.mem = s.mem) : sameProgram s t :=
  .of_fields (by rw [ctx]) (by rw [ctx]) (by rw [ctx]) (by rw [task]) mem

theorem sameProgram.refl (s : State) : sameProgram s s := .of_ctx rfl rfl rfl

theorem sameProgram.trans {u : State} (first : sameProgram s t) (second : sameProgram t u) : sameProgram s u :=
  ⟨second.pc.trans first.pc, fun r => (second.regs r).trans (first.regs r), fun a => (second.memory a).trans (first.memory a)⟩

/-! ### How it goes on -/

@[simp] theorem advance_pc (n : Nat) : (s.advance n).pc = s.pc + Word.of (4 * n) := setPc_pc s _

@[simp] theorem advance_reg (n : Nat) (r : Reg) : (s.advance n).reg r = s.reg r := reg_setPc s _ r

theorem sameProgram.acted (same : sameProgram s t) (n : Nat) : acted n s (t.advance n) :=
  ⟨by rw [advance_pc, same.pc], fun r => (advance_reg n r).trans (same.regs r), same.memory⟩

theorem sameProgram.answered (same : sameProgram s t) (n : Nat) (d : Reg) (v : Word) : answered n d v s (t.result n d v) := by
  obtain ⟨pc, own, others, -, only⟩ := result_wrote t n d v
  exact ⟨by rw [pc, same.pc], own, fun r other => (others r other).trans (same.regs r),
    fun a => (congrArg (Memory.get · a) (result_mem t n d v)).trans (same.memory a)⟩

theorem sameProgram.waits (same : sameProgram s t) : waits s t.waiting :=
  have own : sameProgram t t.waiting := .of_fields (by simp [State.waiting]) (by simp [State.waiting]) (by simp [State.waiting]) rfl rfl
  ⟨(same.trans own).pc, by simp [State.waiting], (same.trans own).regs, (same.trans own).memory⟩

theorem result_reg_same (n : Nat) (d : Reg) (v : Word) : (s.result n d v).reg d = if d = .g 0 then 0 else v := (result_wrote s n d v).2.1

@[simp] theorem result_pc (n : Nat) (d : Reg) (v : Word) : (s.result n d v).pc = s.pc + Word.of (4 * n) := (result_wrote s n d v).1

end

end Sys2Proof.Machine
end

section
/-! Prefetches, fences and the scoreboard instructions (R136, R206, R207, R331). -/

namespace Sys2Proof.Machine

section
variable {s : State}

theorem pref_of_aligned {base : Reg} {off : BitVec 12} (aligned : (s.ea base off 64).toNat % 64 = 0)
    (within : s.loadSpaces.contains (space (s.ea base off 64)) = true) (zeros : zeroFieldsOk (s.ea base off 64) = true) :
    ∃ u, s.pref base off = .next u ∧ wentOn 1 s u := by
  have low : bits (s.ea base off 64) 5 0 = 0 := by simpa [bits] using aligned
  refine ⟨_, finish_ok ?_, advance_wentOn s 1⟩
  simp only [low, within, zeros, decide_true, Bool.and_true, need_true, ok_bind]

/-! ### Fences -/

/-- The context behind a fence that also releases, or not. -/
def Context.fenced (c : Context) (pc : Word) (rel : Bool) : Context := { c with pc := pc, relOrd := if rel then c.order else c.relOrd }

theorem fence_end (rel : Bool) : (if rel then s.markRelease else s).advance 1 = s.setCtx (s.ctx.fenced (s.pc + 4) rel) := by
  cases rel
  · rfl
  · simp only [if_true, State.advance, setPc_eq, State.markRelease, setCtx_ctx, setCtx_setCtx, setCtx_pc]; rfl

/-- What a fence leaves behind: nothing changes but the pc and, where it releases, the mark for later writes. -/
theorem fenced_end (rel : Bool) :
    let u := (if rel then s.markRelease else s).advance 1
    u.pc = s.pc + 4 ∧ sameRegs s u ∧ sameMemory s u ∧ u.ctx.storeBuf = s.ctx.storeBuf ∧ ctxOnly s u ∧
      u.ctx.relOrd = (if rel then s.ctx.order else s.ctx.relOrd) := by
  intro u
  have ends : u = s.setCtx (s.ctx.fenced (s.pc + 4) rel) := fence_end rel
  rw [ends, setCtx_ctx]
  exact ⟨setCtx_pc s _, reg_setCtx s rfl rfl, fun _ => rfl, rfl, setCtx_ctxOnly s _, rfl⟩

theorem wide_eq (sc : Scope) : Scope.wide sc = (sc = .dev || sc = .sys : Bool) := by cases sc <;> rfl

theorem fenceSc_of_over {sc : Scope} (done : sc = .strand ∨ s.drained = true) :
    exec (.fenceSc sc) s = .next ((if (sc = .dev || sc = .sys : Bool) then s.markRelease else s).advance 1) := by
  have passes : (decide (sc = .strand) || s.drained) = true := by simpa using done
  refine finish_ok ?_
  simp only [passes, wide_eq, need_true, ok_bind]

theorem fenceSl_of_over {sc : Scope} (done : sc = .strand ∨ s.drained = true) : exec (.fenceSl sc) s = .next (s.advance 1) := by
  have passes : (decide (sc = .strand) || s.drained) = true := by simpa using done
  refine finish_ok ?_
  simp only [passes, need_true, ok_bind]

theorem fenceRel_of_over {sc : Scope} (done : sc = .dev ∨ sc = .sys ∨ s.scopeDone sc = true) :
    exec (.fenceRel sc) s = .next ((if (sc ≠ .strand : Bool) then s.markRelease else s).advance 1) := by
  have passes : (Scope.wide sc || s.scopeDone sc) = true := by simpa [wide_eq, or_assoc] using done
  refine finish_ok ?_
  simp only [passes, need_true, ok_bind]
  by_cases own : sc = .strand <;> simp [own]

/-! ### Waiting for scoreboard entries -/

/-- An instruction that waits for entries of which none is there goes on. -/
theorem waitEntries_none {l : List Nat} {go : State → State} (fresh : s.ctx.await = .none)
    (clear : ∀ e ∈ s.mast.sb, e.seq ∉ l) : s.waitEntries l go = .ok (go s) := by
  have none : (s.mast.sb.any fun e => l.contains e.seq) = false := by simpa using clear
  simp only [State.waitEntries, fresh, none, Bool.false_eq_true, if_false]

theorem bfmtTab_of_unused {id code : Src} (granted : s.grant.ctabs.contains (s.src id).toNat = true)
    (unused : s.codecEntries (s.src id).toNat = []) (fresh : s.ctx.await = .none) :
    exec (.bfmtTab id code) s =
      .next ((s.setMast { s.mast with ctab := s.mast.ctab.set (s.src id).toNat (s.src code) }).advance 1) := by
  refine finish_ok ?_
  simp only [granted, unused, need_true, ok_bind]
  exact waitEntries_none fresh fun _ _ => List.not_mem_nil

/-- No entry has an interval that conflicts with an access of a piece of the range. -/
def rangeFree (s : State) (off len : Nat) (write : Bool) : Prop :=
  ∀ e ∈ s.mast.sb, ∀ p ∈ s.mast.pieces off len, ∀ j ∈ e.ivals, j.conflicts write (granules p.1 p.2).1 (granules p.1 p.2).2 = false

theorem sbwait_zero (a : Word) (write : Bool) : s.sbwait a 0 write = .next (s.advance 1) := rfl

theorem sbwait_of_free {a n : Word} {write : Bool} (some : n ≠ 0) (bank : space a = 0x9) (zeros : zeroFieldsOk a = true)
    (fits : bits a 19 0 + n.toNat ≤ 2 ^ 20)
    (held : ∀ i, i < 16 → i * 65536 < bits a 19 0 + n.toNat → bits a 19 0 < (i + 1) * 65536 →
      s.mast.holds s.cur.launch i = true ∧ s.mast.isShadow i = false)
    (drained : s.drained = true) (fresh : s.ctx.await = .none) (free : rangeFree s (bits a 19 0) n.toNat write) :
    s.sbwait a n write = .next (s.advance 1) := by
  have inRange : ∀ i ∈ (List.range 16).filter fun k => decide (k * 65536 < bits a 19 0 + n.toNat) && decide (bits a 19 0 < (k + 1) * 65536),
      s.mast.holds s.cur.launch i = true ∧ s.mast.isShadow i = false := by
    intro i mem
    obtain ⟨small, low, high⟩ : i < 16 ∧ i * 65536 < bits a 19 0 + n.toNat ∧ bits a 19 0 < (i + 1) * 65536 := by simpa using mem
    exact held i small low high
  have holds := List.all_eq_true.mpr fun i mem => (inRange i mem).1
  have shadows := List.any_eq_false.mpr fun i mem => by simpa using (inRange i mem).2
  have clear : (s.mast.sb.filter fun e => (s.mast.pieces (bits a 19 0) n.toNat).any fun p =>
      e.ivals.any (·.conflicts write (granules p.1 p.2).1 (granules p.1 p.2).2)) = [] := by
    simpa [List.filter_eq_nil_iff, rangeFree] using free
  refine finish_ok ?_
  simp only [some, bank, zeros, fits, holds, shadows, drained, clear, if_false, decide_true, Bool.and_true, Bool.not_false, need_true, ok_bind]
  exact waitEntries_none fresh fun _ _ => List.not_mem_nil

theorem sbq_entries (d : Reg) : exec (.sbq d) s = .next (s.result 1 d (Word.of (s.mast.sb.length * 2 ^ 32 +
    (128 - (s.mast.sb.filter fun e => decide (128 ≤ e.id)).length) * 2 ^ 16 +
    (s.mast.sb.filter fun e => decide (e.core = s.coreIx)).length * 2 ^ 8 +
    (16 - (s.mast.sb.filter fun e => decide (16 * s.coreIx ≤ e.id ∧ e.id < 16 * s.coreIx + 16)).length)))) := by
  have own : ∀ e : SbEntry, decide (e.id / 16 = s.coreIx) = decide (16 * s.coreIx ≤ e.id ∧ e.id < 16 * s.coreIx + 16) := by
    intro e; congr 1; exact propext (by omega)
  simp only [← own]
  rfl

end

/-- Settles O20: each check of these instructions is one of the statement's conditions. -/
theorem fencesPrefetchesAndScoreboard : Obligations.FencesPrefetchesAndScoreboard := by
  refine ⟨fun s base off sc => ⟨fun aligned within zeros => ?_, fun done => ⟨?_, ?_⟩, ?_, fun done => ?_⟩,
    fun s d a id code n => ⟨fun granted unused fresh => ?_, ?_, fun zero => ?_, fun some bank zeros fits held drained fresh => ?_⟩⟩
  · exact ⟨pref_of_aligned aligned within zeros, pref_of_aligned aligned within zeros⟩
  · exact ⟨_, fenceSc_of_over done, fenced_end _⟩
  · exact ⟨_, fenceSl_of_over done, fenced_end false⟩
  · exact ⟨_, rfl, advance_wentOn s 1⟩
  · exact ⟨_, fenceRel_of_over done, fenced_end _⟩
  · exact ⟨_, bfmtTab_of_unused granted unused fresh, (sameProgram.acted (.of_ctx rfl rfl rfl) 1).1,
      (sameProgram.acted (.of_ctx rfl rfl rfl) 1).2.1, fun _ => rfl, by simp⟩
  · exact ⟨_, sbq_entries d, result_wrote s 1 d _⟩
  · have done (write : Bool) : ∃ u, s.sbwait (s.rc a) (s.src n) write = .next u ∧ wentOn 1 s u :=
      ⟨_, by rw [zero, sbwait_zero], advance_wentOn s 1⟩
    exact ⟨done true, done false⟩
  · exact ⟨fun free => ⟨_, sbwait_of_free some bank zeros fits held drained fresh free, advance_wentOn s 1⟩,
      fun free => ⟨_, sbwait_of_free some bank zeros fits held drained fresh free, advance_wentOn s 1⟩⟩

end Sys2Proof.Machine
end

section
/-! The lane pool: no lanes, elementwise instructions and vector memory access (R245 to R250). -/

namespace Sys2Proof.Machine

/-! ### Checks in turn -/

section
variable {α β : Type} {x : Ex α} {f : α → Ex β} {y : Ex β}

theorem ok_then {a : α} (passes : x = .ok a) (rest : f a = y) : (x >>= f) = y := by rw [passes]; exact rest

theorem need_then {c : Bool} {e : Stop} {f : Unit → Ex β} (holds : c = true) (rest : f () = y) : (need c e >>= f) = y :=
  ok_then (need_ok holds) rest

theorem stop_then {e : Stop} (stops : x = .error e) : (x >>= f) = .error e := by rw [stops]; rfl

end

section
variable {s : State}

/-! ### No lanes -/

theorem needVl_zero (none : s.ctx.vl = 0) : s.needVl = .error (.trap 0x0C s.pc 0) := by
  simp only [State.needVl, none, ne_eq, not_true, decide_false, need_false, State.bad0C]

theorem needVl_some (lanes : s.ctx.vl ≠ 0) : s.needVl = .ok () := need_ok (by simpa using lanes)

theorem noLanes_traps (can : canTrap s) (none : s.ctx.vl = 0) {rest : Unit → Ex State} :
    ∃ u, s.finish (s.needVl >>= rest) = .next u ∧ tookTrap 0x0C s.pc 0 s.pc s u :=
  finish_trap (by rw [needVl_zero none, error_bind]) can

end

/-- Settles O26: each of these instructions first asks for lanes. -/
theorem noLanesTraps : Obligations.NoLanesTraps := by
  intro s t src v v2 d base c off ra a b x2 x3 sa sb p r rel m prog q can none i mem
  have ends {rest : Unit → Ex State} := noLanes_traps can none (rest := rest)
  simp only [List.mem_cons, List.not_mem_nil, or_false] at mem
  obtain rfl | rfl | rfl | rfl | rfl | rfl | rfl | rfl | rfl | rfl | rfl | rfl | rfl | rfl | rfl | rfl | rfl | rfl | rfl | rfl | rfl |
    rfl | rfl := mem <;> exact ends

section
variable {s : State}

/-! ### Elementwise instructions -/

theorem getD_set_same {α : Type} {l : List α} {k : Nat} (inside : k < l.length) (x d : α) : (l.set k x).getD k d = x := by
  simp [List.getD_eq_getElem?_getD, inside]

theorem getD_set_other {α : Type} {l : List α} {j k : Nat} (other : k ≠ j) (x d : α) : (l.set j x).getD k d = l.getD k d := by
  simp [List.getD_eq_getElem?_getD, List.getElem?_set_ne (Ne.symm other)]

theorem getD_map_range {α : Type} {n e : Nat} (below : e < n) (f : Nat → α) (d : α) : ((List.range n).map f).getD e d = f e := by
  simp [List.getD_eq_getElem?_getD, below]

theorem velem_setV_same {c : Context} (sixteen : c.v.length = 16) (v : Fin 16) (p : Pred) (f : Nat → Nat) {e : Nat} (below : e < c.vl) :
    (c.setV v p f).velem v.val e = if c.active p e then Word.of (f e) else c.velem v.val e := by
  have inside : v.val < c.v.length := by rw [sixteen]; exact v.isLt
  simp only [Context.setV, Context.velem, getD_set_same inside, getD_map_range below]

theorem velem_setV_other {c : Context} (v : Fin 16) (p : Pred) (f : Nat → Nat) {k : Nat} (other : k ≠ v.val) (e : Nat) :
    (c.setV v p f).velem k e = c.velem k e := by
  simp only [Context.setV, Context.velem, getD_set_other other]

/-- The context behind a lane instruction of `n` words. -/
def Context.stepped (c : Context) (n : Nat) : Context := { c with pc := c.pc + Word.of (4 * n) }

/-- An instruction of `n` words that only sets the acting context goes on. -/
structure ctxStep (n : Nat) (c : Context) (s u : State) : Prop where
  pc : u.pc = s.pc + Word.of (4 * n)
  regs : sameRegs s u
  memory : sameMemory s u
  only : ctxOnly s u
  ctx : u.ctx = c.stepped n

theorem setCtx_advance {c : Context} (file : c.file = s.ctx.file) (base : c.base = s.ctx.base) (pc : c.pc = s.ctx.pc) (n : Nat) :
    ctxStep n c s ((s.setCtx c).advance n) := by
  have ends : (s.setCtx c).advance n = s.setCtx (c.stepped n) := by
    simp only [State.advance, setPc_eq, setCtx_ctx, setCtx_setCtx, setCtx_pc]
    rfl
  rw [ends]
  exact ⟨by rw [setCtx_pc, Context.stepped, pc]; rfl, reg_setCtx s file base, fun _ => rfl, setCtx_ctxOnly s _, setCtx_ctx s _⟩

theorem lanes_active (some : s.ctx.vl ≠ 0) (n : Nat) (v : Fin 16) (p : Pred) (f : Nat → Nat) :
    ∃ u, s.lanes n v p f = .next u ∧ u.pc = s.pc + Word.of (4 * n) ∧ sameRegs s u ∧ ctxOnly s u ∧
      (s.ctx.v.length = 16 → ∀ e, e < s.ctx.vl → u.ctx.velem v.val e =
        (if s.ctx.active p e then Word.of (f e) else s.ctx.velem v.val e)) ∧
      (∀ k e, k ≠ v.val → u.ctx.velem k e = s.ctx.velem k e) ∧ { u.ctx with v := s.ctx.v, pc := s.ctx.pc } = s.ctx := by
  have ends : s.lanes n v p f = .next ((s.setCtx (s.ctx.setV v p f)).advance n) := finish_ok (by rw [needVl_some some, ok_bind])
  obtain ⟨pc, regs, -, only, ctx⟩ := setCtx_advance (s := s) (c := s.ctx.setV v p f) rfl rfl rfl n
  refine ⟨_, ends, pc, regs, only, ?_⟩
  rw [ctx]
  exact ⟨fun sixteen e below => velem_setV_same sixteen v p f below, fun k e other => velem_setV_other v p f other e, rfl⟩

theorem vcmp_bits (some : s.ctx.vl ≠ 0) (rel : Rel) (t : VTy) (m : Fin 4) (a b : VSrc) :
    ∃ u, exec (.vcmp rel t m a b) s = .next u ∧ u.pc = s.pc + 4 ∧ sameRegs s u ∧ ctxOnly s u ∧
      { u.ctx with m := s.ctx.m, pc := s.ctx.pc } = s.ctx ∧ (s.ctx.m.length = 4 → ∀ e, e < s.ctx.vl →
        u.ctx.mbit m.val e = relHolds rel t.ety (s.vsrc t.ety a e) (s.vsrc t.ety b e)) := by
  let row := (List.range s.ctx.vl).map fun e => relHolds rel t.ety (s.vsrc t.ety a e) (s.vsrc t.ety b e)
  have ends : exec (.vcmp rel t m a b) s = .next ((s.setCtx { s.ctx with m := s.ctx.m.set m.val row }).advance 1) :=
    finish_ok (by rw [needVl_some some, ok_bind])
  obtain ⟨pc, regs, -, only, ctx⟩ := setCtx_advance (s := s) (c := { s.ctx with m := s.ctx.m.set m.val row }) rfl rfl rfl 1
  refine ⟨_, ends, pc, regs, only, ?_⟩
  rw [ctx]
  refine ⟨rfl, fun four e below => ?_⟩
  have inside : m.val < s.ctx.m.length := by rw [four]; exact m.isLt
  simp only [Context.stepped, Context.mbit, getD_set_same inside, row, getD_map_range below]

end

/-- Settles O27: every elementwise instruction is `lanes` of its function, and VCMP sets a whole mask. -/
theorem laneInstructionsWriteActiveElements : Obligations.LaneInstructionsWriteActiveElements := by
  intro s t src v a16 a b x2 x3 ra sa sb p r rel m prog A B D N ins
  refine ⟨fun x mem some => ?_, fun some => vcmp_bits some rel t m a b⟩
  have ends := lanes_active some x.2.1 v x.2.2.1 x.2.2.2
  simp only [ins, List.mem_cons, List.not_mem_nil, or_false] at mem
  obtain rfl | rfl | rfl | rfl | rfl | rfl | rfl | rfl | rfl | rfl | rfl | rfl | rfl | rfl | rfl | rfl := mem <;> exact ends

/-! ### Vector memory access -/

/-- Settles O28: past its checks and reads each of the three sets the vector register, or buffers one store. -/
theorem vectorMemoryInstructionsComplete : Obligations.VectorMemoryInstructionsComplete := by
  intro s c t v ix base off a p bs got ea n at_ es some
  have lanes := needVl_some some
  refine ⟨fun range read => ?_, fun range clear => ?_, fun checked gathered => ?_⟩
  · obtain ⟨pc, regs, memory, -, ctx⟩ := setCtx_advance (s := c) (c := c.ctx.setV v .all fun e => ofBytes ((bs.drop (e * t.size)).take t.size))
      rfl rfl rfl 1
    refine ⟨_, finish_ok ?_, pc, regs, memory, (congrArg Context.v ctx :)⟩
    exact ok_then lanes (ok_then range (ok_then read rfl))
  · obtain ⟨pc, regs, -, only, ctx⟩ := setCtx_advance (s := s) (c := { s.ctx with
      storeBuf := s.ctx.storeBuf ++ [⟨ea, 0, (List.range s.ctx.vl).flatMap fun e => toBytes t.size (s.ctx.velem v.val e).toNat,
          s.ctx.order, s.ctx.relOrd⟩], order := s.ctx.order + 1 }) rfl rfl rfl 1
    refine ⟨_, finish_ok ?_, pc, regs, only, (congrArg Context.storeBuf ctx :)⟩
    exact ok_then lanes (ok_then range (need_then (congrArg not clear) rfl))
  · obtain ⟨pc, regs, memory, -, ctx⟩ := setCtx_advance (s := c)
      (c := c.ctx.setV v p fun e => ((got.find? fun q => q.1 = e).getD (0, 0)).2) rfl rfl rfl 1
    refine ⟨_, finish_ok ?_, pc, regs, memory, (congrArg Context.v ctx :)⟩
    exact ok_then lanes (ok_then checked (ok_then gathered rfl))

end Sys2Proof.Machine
end

section
/-! Control and status registers (R103, R104, R312, R381) and system calls (R375). -/

namespace Sys2Proof.Machine

theorem need_stops {α : Type} {c : Bool} {e : Stop} {f : Unit → Ex α} (fails : c = false) : (need c e >>= f) = .error e := by rw [fails]; rfl

section
variable {s : State}

/-! ### The checks of a CSR instruction -/

/-- The number `k` is open to the engine that acts: in no closed range, and on a mast core no hart's number. -/
def csrOpen (s : State) (k : Nat) : Prop := csrClosed k = false ∧ (s.engine = .mast → hartCsr k = false)

theorem csrPrivilege_open {k : Nat} (free : csrOpen s k) : s.csrPrivilege k = .ok () := by
  obtain ⟨range, hart⟩ := free
  exact need_ok (by by_cases mast : s.engine = .mast <;> simp [range, mast, hart])

theorem csrPrivilege_closed {k : Nat} (closed : ¬ csrOpen s k) : s.csrPrivilege k = .error (.trap 0x15 s.pc (Word.of k)) := by
  have fails : (!csrClosed k && (s.engine ≠ .mast || !hartCsr k)) = false := by
    by_cases range : csrClosed k = false <;> by_cases mast : s.engine = .mast <;> simp_all [csrOpen]
  rw [State.csrPrivilege, fails, need_false]

/-- The information of an illegal CSR instruction names field 5. -/
theorem csrIllegal_field {w : Nat} (fits : w < 2 ^ 32) : bits (Word.of (5 * 2 ^ 32 + w)) 63 32 = 5 := by
  simp only [bits, Word.of, BitVec.toNat_ofNat, Nat.shiftRight_eq_div_pow]
  omega

theorem encS_lt {op : Nat} (known : op < 256) (d : Reg) (n : BitVec 12) : encS op d.code n.toNat < 2 ^ 32 := by
  have := Sys2Proof.Laws.reg_code_lt d
  simp only [encS]
  omega

/-! ### CSRR -/

/-- The value of a CSR on the engine that acts. -/
def csrValue (s : State) (k : Nat) : Word :=
  match s.engine with
  | .mast => s.csr k
  | .tackle => s.csrTackle k
  | .hart => s.csrHart k

theorem csrValue_mast {k : Nat} (mast : s.engine = .mast) : csrValue s k = s.csr k := by rw [csrValue, mast]

theorem csrValue_tackle {k : Nat} (tackle : s.engine = .tackle) : csrValue s k = s.csrTackle k := by rw [csrValue, tackle]

theorem csrValue_hart {k : Nat} (hart : s.engine = .hart) : csrValue s k = s.csrHart k := by rw [csrValue, hart]

theorem csrReads_mast {k : Nat} (known : csrAssigned k = true) : csrReads .mast k = true := by simp [csrReads, csrOn, known]

theorem csrr_reads (d : Reg) {n : BitVec 12} (free : csrOpen s n.toNat) (reads : csrReads s.engine n.toNat = true) :
    ∃ u, exec (.csrr d n) s = .next u ∧ wrote 1 d (csrValue s n.toNat) s u :=
  ⟨_, finish_ok (ok_then (csrPrivilege_open free) (need_then reads rfl)), result_wrote s 1 d _⟩

theorem csrr_absent (d : Reg) {n : BitVec 12} (can : canTrap s) (free : csrOpen s n.toNat) (absent : csrReads s.engine n.toNat = false) :
    ∃ u, exec (.csrr d n) s = .next u ∧ tookTrap 0x01 s.pc (Word.of (5 * 2 ^ 32 + encS 0xED d.code n.toNat)) s.pc s u :=
  finish_trap (ok_then (csrPrivilege_open free) (need_stops absent)) can

/-! ### CSRW -/

theorem csrw_absent (r : Reg) {n : BitVec 12} (can : canTrap s) (free : csrOpen s n.toNat) (absent : csrOn s.engine n.toNat = false) :
    ∃ u, exec (.csrw n r) s = .next u ∧ tookTrap 0x01 s.pc (Word.of (5 * 2 ^ 32 + encS 0xEE r.code n.toNat)) s.pc s u :=
  finish_trap (ok_then (csrPrivilege_open free) (need_stops absent)) can

/-- A write of a CSR leaves the program alone and touches nothing but the context and the task. -/
theorem setCsr_keeps (k : Nat) (v : Word) :
    sameProgram s (s.setCsr k v) ∧ { s.setCsr k v with ctxs := s.ctxs, tasks := s.tasks } = s ∧
      (∀ j, j ≠ s.cur.ctx → (s.setCsr k v).ctxAt j = s.ctxAt j) ∧ (∀ j, j ≠ s.cur.task → (s.setCsr k v).taskAt j = s.taskAt j) := by
  have own {c : Context} (file : c.file = s.ctx.file) (base : c.base = s.ctx.base) (pc : c.pc = s.ctx.pc) :
      sameProgram s (s.setCtx c) ∧ { s.setCtx c with ctxs := s.ctxs, tasks := s.tasks } = s ∧
        (∀ j, j ≠ s.cur.ctx → (s.setCtx c).ctxAt j = s.ctxAt j) ∧ (∀ j, j ≠ s.cur.task → (s.setCtx c).taskAt j = s.taskAt j) :=
    ⟨.of_fields (by rw [setCtx_ctx, file]) (by rw [setCtx_ctx, base]) (by rw [setCtx_ctx, pc]) rfl rfl, rfl,
      fun _ other => setCtx_ctxAt_other s c other, fun _ _ => rfl⟩
  have shared {t : Task} (globals : t.globals = s.task.globals) :
      sameProgram s (s.setTask t) ∧ { s.setTask t with ctxs := s.ctxs, tasks := s.tasks } = s ∧
        (∀ j, j ≠ s.cur.ctx → (s.setTask t).ctxAt j = s.ctxAt j) ∧ (∀ j, j ≠ s.cur.task → (s.setTask t).taskAt j = s.taskAt j) :=
    ⟨.of_fields rfl rfl rfl (by rw [setTask_task, globals]) rfl, rfl, fun _ _ => rfl, fun _ other => setTask_taskAt_other s t other⟩
  unfold State.setCsr
  split
  case h_5 => exact shared rfl
  case h_9 => exact shared rfl
  case h_19 => exact ⟨.refl s, rfl, fun _ _ => rfl, fun _ _ => rfl⟩
  all_goals exact own rfl rfl rfl

/-- The CSRs of a context that a task may write, with the context behind the write. -/
def Context.csrWrites (c : Context) (v : Word) : List (Nat × Context) :=
  [(0x010, { c with trapcause := v.truncate 8 }), (0x011, { c with trapaddr := v }), (0x012, { c with trappc := v }),
    (0x013, { c with trapinfo := v }), (0x015, { c with eamask := v.getLsbD 2 }), (0x018, { c with uien := v.getLsbD 0 }),
    (0x01B, { c with uipc := v }), (0x020, { c with parkthr := v }), (0x0C0, { c with etol := v }), (0x100, { c with hsrc := v }),
    (0x101, { c with hdst := v }), (0x102, { c with hlen := v }), (0x103, { c with hstr := v }), (0x104, { c with hpb := v }),
    (0x105, { c with harg := v }), (0x106, { c with hctl := v })]

/-- The CSRs of a task that it may write, with the task behind the write. -/
def Task.csrWrites (t : Task) (v : Word) : List (Nat × Task) := [(0x014, { t with tvec := v }), (0x01C, { t with uivec := v })]

theorem setCsr_ctx {v : Word} : ∀ x ∈ s.ctx.csrWrites v, (s.setCsr x.1 v).ctx = x.2 := by
  simp only [Context.csrWrites, List.forall_mem_cons, List.not_mem_nil, false_imp_iff, implies_true, and_true]
  exact ⟨setCtx_ctx s _, setCtx_ctx s _, setCtx_ctx s _, setCtx_ctx s _, setCtx_ctx s _, setCtx_ctx s _, setCtx_ctx s _, setCtx_ctx s _,
    setCtx_ctx s _, setCtx_ctx s _, setCtx_ctx s _, setCtx_ctx s _, setCtx_ctx s _, setCtx_ctx s _, setCtx_ctx s _, setCtx_ctx s _⟩

theorem setCsr_ctx_other {k : Nat} {v : Word} (other : ∀ x ∈ s.ctx.csrWrites v, k ≠ x.1) : (s.setCsr k v).ctx = s.ctx := by
  simp only [Context.csrWrites, List.forall_mem_cons, List.not_mem_nil, false_imp_iff, implies_true, and_true] at other
  unfold State.setCsr
  split <;> simp_all

theorem setCsr_task {v : Word} : ∀ x ∈ s.task.csrWrites v, (s.setCsr x.1 v).task = x.2 := by
  simp only [Task.csrWrites, List.forall_mem_cons, List.not_mem_nil, false_imp_iff, implies_true, and_true]
  exact ⟨setTask_task s _, setTask_task s _⟩

theorem setCsr_task_other {k : Nat} {v : Word} (other : ∀ x ∈ s.task.csrWrites v, k ≠ x.1) : (s.setCsr k v).task = s.task := by
  simp only [Task.csrWrites, List.forall_mem_cons, List.not_mem_nil, false_imp_iff, implies_true, and_true] at other
  unfold State.setCsr
  split <;> simp_all

@[simp] theorem hy_setHy (m : Mast) (h : Nat) (y : Halyard) : (m.setHy h y).hy h = y := by
  by_cases first : h = 0 <;> simp [Mast.setHy, Mast.hy, first]

theorem setHartCsr_hart (k : Nat) (v : Word) : (s.setHartCsr k v).hart =
    (if k = 0x110 then { s.hart with mvsrc := v } else if k = 0x111 then { s.hart with mvdst := v } else s.hart) := by
  unfold State.setHartCsr State.hart
  split
  · rw [setMast_mast, setMast_cur, hy_setHy]
  · split
    · rw [setMast_mast, setMast_cur, hy_setHy]
    · rfl

theorem setHartCsr_only (k : Nat) (v : Word) : ∃ ms, s.setHartCsr k v = { s with masts := ms } := by
  unfold State.setHartCsr
  split
  · exact ⟨_, rfl⟩
  · split <;> exact ⟨_, rfl⟩

theorem csrw_writes (r : Reg) {n : BitVec 12} (free : csrOpen s n.toNat) (there : csrOn s.engine n.toNat = true)
    (admitted : csrWriteTraps n.toNat = false) :
    exec (.csrw n r) s = .next ((if s.engine = .hart then s.setHartCsr n.toNat (s.reg r) else s.setCsr n.toNat (s.reg r)).advance 1) :=
  finish_ok (ok_then (csrPrivilege_open free) (need_then there (need_then (by rw [admitted]; rfl) rfl)))

theorem advance_ctx_back {t : State} (pc : t.pc = s.pc) (n : Nat) : { (t.advance n).ctx with pc := s.ctx.pc } = t.ctx := by
  have same : s.ctx.pc = t.ctx.pc := pc.symm
  rw [State.advance, setPc_eq, setCtx_ctx, same]

/-- What a CSRW leaves behind on a core: one field of the context, or of the task, and the pc. -/
theorem setCsr_end {k : Nat} {v : Word} :
    let u := (s.setCsr k v).advance 1
    u.pc = s.pc + 4 ∧ sameRegs s u ∧ sameMemory s u ∧ (∀ j, j ≠ s.cur.ctx → u.ctxAt j = s.ctxAt j) ∧
      (∀ j, j ≠ s.cur.task → u.taskAt j = s.taskAt j) ∧ { u with ctxs := s.ctxs, tasks := s.tasks } = s ∧
      (∀ x ∈ s.ctx.csrWrites v, k = x.1 → { u.ctx with pc := s.ctx.pc } = x.2) ∧
      ((∀ x ∈ s.ctx.csrWrites v, k ≠ x.1) → { u.ctx with pc := s.ctx.pc } = s.ctx) ∧
      (∀ x ∈ s.task.csrWrites v, k = x.1 → u.task = x.2) ∧ ((∀ x ∈ s.task.csrWrites v, k ≠ x.1) → u.task = s.task) := by
  intro u
  obtain ⟨same, rest, ctxs, tasks⟩ := setCsr_keeps (s := s) k v
  obtain ⟨pc, regs, memory⟩ := same.acted 1
  have back : { u.ctx with pc := s.ctx.pc } = (s.setCsr k v).ctx := advance_ctx_back same.pc 1
  have cur : (s.setCsr k v).cur = s.cur := (congrArg State.cur rest :)
  refine ⟨pc, regs, memory, fun j other => ?_, tasks, rest, ?_, ?_, ?_, setCsr_task_other⟩
  · exact (setCtx_ctxAt_other _ _ (by rw [cur]; exact other)).trans (ctxs j other)
  · rintro x mem rfl; exact back.trans (setCsr_ctx x mem)
  · exact fun other => back.trans (setCsr_ctx_other other)
  · rintro x mem rfl; exact setCsr_task x mem

/-- What a CSRW leaves behind on a hart: one of its move registers, and the pc. -/
theorem setHartCsr_end {k : Nat} {v : Word} :
    let u := (s.setHartCsr k v).advance 1
    u.pc = s.pc + 4 ∧ sameRegs s u ∧ sameMemory s u ∧ (∀ j, j ≠ s.cur.ctx → u.ctxAt j = s.ctxAt j) ∧
      (∀ j, j ≠ s.cur.task → u.taskAt j = s.taskAt j) ∧ { u with ctxs := s.ctxs, masts := s.masts } = s ∧
      { u.ctx with pc := s.ctx.pc } = s.ctx ∧
      u.hart = (if k = 0x110 then { s.hart with mvsrc := v } else if k = 0x111 then { s.hart with mvdst := v } else s.hart) := by
  intro u
  obtain ⟨ms, only⟩ := setHartCsr_only (s := s) k v
  have same : sameProgram s (s.setHartCsr k v) := by rw [only]; exact .of_ctx rfl rfl rfl
  obtain ⟨pc, regs, memory⟩ := same.acted 1
  have ctx : (s.setHartCsr k v).ctx = s.ctx := by rw [only]; rfl
  refine ⟨pc, regs, memory, fun j other => ?_, fun j _ => ?_, ?_, (advance_ctx_back same.pc 1).trans ctx, setHartCsr_hart k v⟩
  · exact (setCtx_ctxAt_other _ _ (by rw [only]; exact other)).trans (by rw [only]; rfl)
  · exact (by rw [only]; rfl : (s.setHartCsr k v).taskAt j = s.taskAt j)
  · simp only [u, only]; rfl

end

/-- Settles O40: the number passes or fails the privilege check, exists or not, and is read, written or trapped. -/
theorem csrInstructionsComplete : Obligations.CsrInstructionsComplete := by
  intro s d r n k c v isOpen ctxWrites taskWrites
  refine ⟨fun free _ => ?_, fun free _ there admitted => ?_, fun can free there traps => ?_, fun can closed => ⟨?_, ?_⟩,
    fun can free absent => ⟨fun unread => ?_, ?_⟩, ⟨_, rfl, result_wrote s 1 d _⟩⟩
  · have reading (reads : csrReads s.engine k = true) := csrr_reads d free reads
    refine ⟨fun mast known => ?_, fun tackle reads => ?_, fun hart reads => ?_⟩
    · rw [mast, csrValue_mast mast] at reading
      exact reading (csrReads_mast known)
    · rw [tackle, csrValue_tackle tackle] at reading
      exact reading reads
    · rw [hart, csrValue_hart hart] at reading
      exact reading reads
  · refine ⟨_, csrw_writes r free there admitted, ?_⟩
    by_cases hart : s.engine = .hart
    · rw [if_pos hart]
      obtain ⟨pc, regs, memory, ctxs, tasks, own⟩ := setHartCsr_end (s := s) (k := k) (v := v)
      exact ⟨pc, regs, memory, ctxs, tasks, fun core => absurd hart core, fun _ => own⟩
    · rw [if_neg hart]
      obtain ⟨pc, regs, memory, ctxs, tasks, own⟩ := setCsr_end (s := s) (k := k) (v := v)
      exact ⟨pc, regs, memory, ctxs, tasks, fun _ => own, fun core => absurd core hart⟩
  · exact finish_trap (ok_then (csrPrivilege_open free) (need_then there (need_stops (congrArg not traps)))) can
  · exact finish_trap (stop_then (csrPrivilege_closed closed)) can
  · exact finish_trap (stop_then (csrPrivilege_closed closed)) can
  · obtain ⟨u, ends, took⟩ := csrr_absent d can free unread
    exact ⟨u, _, ends, took, csrIllegal_field (encS_lt (by decide) d n)⟩
  · obtain ⟨u, ends, took⟩ := csrw_absent r can free absent
    exact ⟨u, _, ends, took, csrIllegal_field (encS_lt (by decide) r n)⟩

/-! ### System calls -/

section
variable {s : State}

theorem bits_low32 (w : Word) : bits w 31 0 = w.toNat % 2 ^ 32 := rfl

theorem failLaunch_first (fresh : s.launch.failure = none) (f : Failure) : (s.failLaunch s.cur.launch f).launch.failure = some f := by
  have first : (s.launchAt s.cur.launch).failure = none := fresh
  dsimp only [State.failLaunch]
  rw [if_pos first]
  exact congrArg Launch.failure (putLaunch_launchAt_same s s.cur.launch _)

theorem needShare_of_room {net n : Nat} (room : hasRoom s net n) : s.needShare net n = .ok () := need_ok (by simpa [hasRoom] using room)

theorem syscCheck_of_room (core : s.engine ≠ .tackle) (travels : s.mayTravel = true) (room : hasRoom s 3 32) : s.syscCheck = .ok () :=
  need_then (by simpa using core) (ok_then (need_ok travels) (needShare_of_room room))

end

/-- Settles O41: past its check SYSC does its one write. -/
theorem systemCallsComplete : Obligations.SystemCallsComplete := by
  intro s d a core travels room
  have checked := syscCheck_of_room core travels room
  refine ⟨?_, ⟨_, finish_ok (ok_then checked rfl), result_wrote s 1 d _⟩, ?_⟩
  · let t : State := { s with queues := s.queues.set s.launch.queue { s.queue with wcount := 0, wstep := 0 } }
    obtain ⟨pc, own, -, -, rest, -⟩ := result_wrote t 1 d 0
    refine ⟨t.result 1 d 0, finish_ok (ok_then checked rfl), pc, by simpa using own, fun _ => by rw [result_mem], ?_, ?_⟩
    · rw [result_queues, AMap.get_set_same]
    · exact (congrArg (fun x : State => { x with queues := s.queues }) rest :)
  · let f : Failure := ⟨0x42, bits (s.src a) 31 0, s.cur.core, s.ctx.trapaddr, s.ctx.trappc⟩
    let t := (s.setTask { s.task with failed := true }).failLaunch s.cur.launch f
    have ctx : t.ctx = s.ctx := by simp only [State.ctx, t, failLaunch_cur, failLaunch_ctxs, setTask_cur, setTask_ctxs]
    have task : t.task = { s.task with failed := true } := by
      simp only [State.task, t, failLaunch_cur, failLaunch_tasks, setTask_cur, setTask_tasks, AMap.get_set_same]
    refine ⟨t.setCtx { s.ctx with status := .failed }, finish_ok (ok_then checked rfl), by rw [setCtx_ctx], ?_, ?_, fun fresh => ⟨f, ?_, rfl, ?_, rfl⟩⟩
    · exact reg_congr (by rw [setCtx_ctx]) (by rw [setCtx_ctx]) (by rw [setCtx_task, task])
    · exact fun _ => by rw [setCtx_mem, failLaunch_mem, setTask_mem]
    · rw [setCtx_launch]
      exact failLaunch_first (s := s.setTask { s.task with failed := true }) fresh f
    · exact bits_low32 _

end Sys2Proof.Machine
end

section
/-! Stores: into the store buffer or to another mast, and the drain of the oldest one (R112, R113, R201, R212, R213, R331). -/

namespace Sys2Proof.Machine

section
variable {s : State}

theorem advance_ctx (n : Nat) : (s.advance n).ctx = s.ctx.stepped n := setCtx_ctx s _

/-! ### Packets -/

/-- The packet that the acting context places. -/
def State.emitted (s : State) (net dst n : Nat) (rel : Bool) (k : PKind) : Packet :=
  ⟨s.nextPkt, net, s.cur.core, dst, s.cur.launch, s.cur.ctx, s.ctx.order, if rel then s.ctx.order else s.ctx.relOrd,
    if s.engine = .hart then 0 else n, flitsOf n, false, k⟩

/-- The state behind the packet, before its share is taken. -/
def State.placed (s : State) (net dst n : Nat) (rel : Bool) (k : PKind) : State :=
  ({ s with net := s.net ++ [s.emitted net dst n rel k], nextPkt := s.nextPkt + 1 } : State).setCtx { s.ctx with order := s.ctx.order + 1 }

theorem emit_eq (net dst n : Nat) (rel : Bool) (k : PKind) : s.emit net dst n rel k =
    if s.engine = .hart then s.placed net dst n rel k
    else (s.placed net dst n rel k).setTask { s.task with sqUsed := s.task.sqUsed.add net n } := by
  by_cases hart : s.engine = .hart
  · simp [State.emit, hart, State.placed, State.emitted]
  · simp only [State.emit, hart, decide_false, State.placed, State.emitted, if_false, Bool.false_eq_true]
    rfl

theorem emit_net (net dst n : Nat) (rel : Bool) (k : PKind) : (s.emit net dst n rel k).net = s.net ++ [s.emitted net dst n rel k] := by
  rw [emit_eq]; split <;> rfl

theorem emit_ctx (net dst n : Nat) (rel : Bool) (k : PKind) : (s.emit net dst n rel k).ctx = { s.ctx with order := s.ctx.order + 1 } := by
  rw [emit_eq]; split <;> exact setCtx_ctx _ _

theorem emit_globals (net dst n : Nat) (rel : Bool) (k : PKind) : (s.emit net dst n rel k).task.globals = s.task.globals := by
  rw [emit_eq]
  split
  · rfl
  · rw [setTask_task]

theorem emit_sameProgram (net dst n : Nat) (rel : Bool) (k : PKind) : sameProgram s (s.emit net dst n rel k) :=
  .of_fields (by rw [emit_ctx]) (by rw [emit_ctx]) (by rw [emit_ctx]) (emit_globals net dst n rel k) (by simp)

/-! ### Stores that pass their checks -/

/-- The context behind a store that has entered its buffer. -/
def Context.buffered (c : Context) (ea : Word) (key : Nat) (bs : List Byte) (rel : Bool) : Context :=
  { c with storeBuf := c.storeBuf ++ [⟨ea, key, bs, c.order, if rel then c.order else c.relOrd⟩], order := c.order + 1 }

theorem buffer_ctx (ea : Word) (key : Nat) (bs : List Byte) (rel : Bool) :
    (s.buffer ea key bs rel).ctx = s.ctx.buffered ea key bs rel := setCtx_ctx s _

theorem buffer_sameProgram (ea : Word) (key : Nat) (bs : List Byte) (rel : Bool) : sameProgram s (s.buffer ea key bs rel) :=
  .of_fields (by rw [buffer_ctx]; rfl) (by rw [buffer_ctx]; rfl) (by rw [buffer_ctx]; rfl) rfl rfl

theorem yardStore_of_free {ea : Word}
    (free : (s.core.yslots.get (ySlotKey s.cur.launch (yardSlot ea)) YSlot.init).busy = false) :
    ∃ cs, s.yardStore ea = .ok { s with cores := cs } := by
  by_cases last : bits ea 5 3 = 7
  · exact ⟨_, need_then (by rw [free]; rfl) (by rw [if_pos last]; rfl)⟩
  · exact ⟨s.cores, need_then (by rw [free]; rfl) (by rw [if_neg last])⟩

theorem storeBytes_of_storable {ea : Word} {bs : List Byte} {n key : Nat} (rel : Bool) (len : bs.length = n) (ready : storable s ea n key)
    (near : space ea ≠ 0xB) :
    ∃ cs, s.storeBytes ea bs rel = .ok (({ s with cores := cs } : State).buffer ea key bs rel) := by
  subst len
  obtain ⟨checked, clear, free⟩ := ready
  have unarmed : (space ea ≠ 0x9 || !s.mast.touchesArmed (keyOff key) bs.length) = true := by
    by_cases bank : space ea = 0x9 <;> simp [bank, clear]
  by_cases yard : (inYardWindow ea && s.engine = .mast) = true
  · obtain ⟨window, mast⟩ : inYardWindow ea = true ∧ s.engine = .mast := by simpa using yard
    obtain ⟨cs, ends⟩ := yardStore_of_free (free window mast)
    exact ⟨cs, need_then (by simp [near]) (ok_then checked (by rw [if_neg near, unarmed, need_true, ok_bind, if_pos yard, ends, ok_bind]))⟩
  · exact ⟨s.cores, need_then (by simp [near]) (ok_then checked (by rw [if_neg near, unarmed, need_true, ok_bind, if_neg yard, ok_bind]))⟩

theorem storeOp_of_storable {d base : Reg} {off : BitVec 12} {n key : Nat} {rel : Bool} (ready : storable s (s.ea base off n) n key)
    (near : space (s.ea base off n) ≠ 0xB) :
    ∃ u, s.storeOp d base off n rel = .next u ∧ u.pc = s.pc + 4 ∧ sameRegs s u ∧ sameMemory s u ∧ u.net = s.net ∧
      u.ctx.storeBuf = s.ctx.storeBuf ++ [⟨s.ea base off n, key, toBytes n (s.reg d).toNat, s.ctx.order,
        if rel then s.ctx.order else s.ctx.relOrd⟩] := by
  obtain ⟨cs, ends⟩ := storeBytes_of_storable rel (toBytes_length n (s.reg d).toNat) ready near
  obtain ⟨pc, regs, memory⟩ := (buffer_sameProgram (s := { s with cores := cs }) (s.ea base off n) key (toBytes n (s.reg d).toNat) rel).acted 1
  exact ⟨_, finish_ok (ok_then ends rfl), pc, regs, memory, rfl, by rw [advance_ctx, buffer_ctx]; rfl⟩

theorem storeOp_remote {d base : Reg} {off : BitVec 12} {n key : Nat} {rel : Bool} (ready : storable s (s.ea base off n) n key)
    (far : space (s.ea base off n) = 0xB) (travels : s.mayTravel = true) (room : hasRoom s 0 32) :
    ∃ u p, s.storeOp d base off n rel = .next u ∧ u.pc = s.pc + 4 ∧ sameRegs s u ∧ sameMemory s u ∧
      u.ctx.storeBuf = s.ctx.storeBuf ∧ u.net = s.net ++ [p] ∧ p.kind = .rstore (s.ea base off n) (toBytes n (s.reg d).toNat) ∧
      p.dst = 8 * bits (s.ea base off n) 41 32 := by
  let bs := toBytes n (s.reg d).toNat
  have checked : s.memCheck (s.ea base off n) bs.length .store s.storeSpaces = .ok key := by rw [toBytes_length]; exact ready.1
  have ends : s.storeBytes (s.ea base off n) bs rel = .ok (s.emit 0 (8 * bits (s.ea base off n) 41 32) 32 rel (.rstore (s.ea base off n) bs)) :=
    need_then (by simp [travels]) (ok_then checked (by rw [if_pos far]; exact ok_then (needShare_of_room room) rfl))
  obtain ⟨pc, regs, memory⟩ := (emit_sameProgram (s := s) 0 (8 * bits (s.ea base off n) 41 32) 32 rel (.rstore (s.ea base off n) bs)).acted 1
  exact ⟨_, _, finish_ok (ok_then ends rfl), pc, regs, memory, by rw [advance_ctx, emit_ctx]; rfl, emit_net _ _ _ _ _, rfl, rfl⟩

/-! ### The drain of the oldest store -/

/-- The acting context after its oldest store has left the buffer. -/
def State.unbuffered (s : State) (rest : List BufStore) : State := s.setCtx { s.ctx with storeBuf := rest }

theorem unbuffered_regs (rest : List BufStore) : sameRegs s (s.unbuffered rest) := reg_setCtx s rfl rfl

theorem storeDrain_of_effect {st : BufStore} {rest : List BufStore} {u : State} (oldest : (s.focus s.place.a).ctx.storeBuf = st :: rest)
    (packets : (s.focus s.place.a).packetsDone s.place.a (if (s.focus s.place.a).posts st then st.order else st.rel) = true)
    (moves : (s.focus s.place.a).movesDone s.place.a st.order = true) (active : (s.focus s.place.a).launch.status ≠ .preempted)
    (effect : ((s.focus s.place.a).unbuffered rest).drainEffect st = some u) : exec .storeDrain s = .next u := by
  show execStoreDrain s = _
  have free : ((s.focus s.place.a).packetsDone (s.focus s.place.a).cur.ctx (if (s.focus s.place.a).posts st then st.order else st.rel) &&
      (s.focus s.place.a).movesDone (s.focus s.place.a).cur.ctx st.order && decide ((s.focus s.place.a).launch.status ≠ .preempted)) = true := by
    simp only [Bool.and_eq_true, decide_eq_true_eq]
    exact ⟨⟨packets, moves⟩, active⟩
  simp only [execStoreDrain, oldest]
  rw [if_pos free]
  simp only [State.unbuffered] at effect
  rw [effect]

theorem drainEffect_plain {st : BufStore} (local_ : space st.ea ≠ 0x9 ∨ s.engine = .tackle) (data : inYardWindow st.ea = false ∨ s.engine ≠ .mast) :
    s.drainEffect st = some (s.write st.key st.bytes) := by
  have window : (inYardWindow st.ea && decide (s.engine = .mast)) = false := by
    rcases data with data | data <;> simp [data]
  have bank : (decide (space st.ea = 0x9) && decide (s.engine ≠ .tackle)) = false := by
    rcases local_ with far | tackle <;> simp [*]
  rw [State.drainEffect, window, bank]
  rfl

/-- A run of writes. -/
def State.writes (s : State) (rs : List (Nat × Nat × Nat)) (bs : List Byte) : State :=
  rs.foldl (fun s r => s.write r.1 ((bs.drop r.2.1).take r.2.2)) s

theorem writes_mem (rs : List (Nat × Nat × Nat)) (bs : List Byte) {t : State} (same : t.mem = s.mem) :
    (s.writes rs bs).mem = (t.writes rs bs).mem := by
  induction rs generalizing s t with
  | nil => exact same.symm
  | cons r rs ih => exact ih (by rw [write_mem, write_mem, same])

theorem writes_ctx (rs : List (Nat × Nat × Nat)) (bs : List Byte) : (s.writes rs bs).ctx = s.ctx := by
  induction rs generalizing s with
  | nil => rfl
  | cons r rs ih => exact ih.trans (write_ctx s _ _)

theorem writes_regs (rs : List (Nat × Nat × Nat)) (bs : List Byte) : sameRegs s (s.writes rs bs) := by
  induction rs generalizing s with
  | nil => exact fun _ => rfl
  | cons r rs ih => exact fun x => (ih x).trans (write_reg s _ _ x)

theorem drainEffect_bank {st : BufStore} (bank : space st.ea = 0x9) (mast : s.engine ≠ .tackle)
    (free : ∀ r ∈ s.runsOf s.mastNo (bits st.ea 19 0) st.bytes.length, s.sbFree true (keyOff r.1) r.2.2 = true) :
    s.drainEffect st = some (s.writes (s.runsOf s.mastNo (bits st.ea 19 0) st.bytes.length) st.bytes) := by
  have window : (inYardWindow st.ea && decide (s.engine = .mast)) = false := by simp [inYardWindow, bank]
  have banked : (decide (space st.ea = 0x9) && decide (s.engine ≠ .tackle)) = true := by simp [bank, mast]
  have all := List.all_eq_true.mpr free
  simp only [State.drainEffect, window, banked, all, if_true, if_false, Bool.false_eq_true]
  rfl

/-! ### Stores into the yard window -/

/-- The state behind a store of `v` into the acting core's yard window. -/
def State.yardStored (s : State) (ea v : Word) : State :=
  let k := ySlotKey s.cur.launch (yardSlot ea)
  let sl := s.core.yslots.get k YSlot.init
  s.setCore { s.core with yslots := s.core.yslots.set k { sl with dbl := sl.dbl.set (bits ea 5 3) v } }

theorem drainEffect_yard {st : BufStore} (window : inYardWindow st.ea = true) (mast : s.engine = .mast) :
    s.drainEffect st = if bits st.ea 5 3 = 7 && s.runs s.cur.launch then
      (s.yardStored st.ea (Word.of (ofBytes st.bytes))).post s.cur.core s.cur.launch (yardSlot st.ea)
      else some (s.yardStored st.ea (Word.of (ofBytes st.bytes))) := by
  have yard : (inYardWindow st.ea && decide (s.engine = .mast)) = true := by simp [window, mast]
  rw [State.drainEffect, if_pos yard]
  rfl

theorem drainEffect_inner {st : BufStore} (window : inYardWindow st.ea = true) (mast : s.engine = .mast) (inner : bits st.ea 5 3 ≠ 7) :
    s.drainEffect st = some (s.yardStored st.ea (Word.of (ofBytes st.bytes))) := by
  rw [drainEffect_yard window mast, if_neg]
  simp [inner]

theorem drainEffect_last {st : BufStore} (window : inYardWindow st.ea = true) (mast : s.engine = .mast) (last : bits st.ea 5 3 = 7)
    (runs : s.runs s.cur.launch = true) :
    s.drainEffect st = (s.yardStored st.ea (Word.of (ofBytes st.bytes))).post s.cur.core s.cur.launch (yardSlot st.ea) := by
  rw [drainEffect_yard window mast, if_pos]
  simp [last, runs]

theorem posts_inner {st : BufStore} (inner : bits st.ea 5 3 ≠ 7) : s.posts st = false := by
  simp [State.posts, inner]

theorem posts_last {st : BufStore} (window : inYardWindow st.ea = true) (mast : s.engine = .mast) (last : bits st.ea 5 3 = 7) :
    s.posts st = true := by
  simp [State.posts, window, mast, last]

theorem postChecked_valid {core : Nat} {c : YCmd} (valid : s.yardCodes (core / 8) core c.launch c = ([], [])) :
    s.postChecked core c = none := by
  simp [State.postChecked, valid]

theorem postChecked_rejected {core : Nat} {c : YCmd} (wrong : (s.yardCodes (core / 8) core c.launch c).1 ≠ []) :
    ∃ code, s.postChecked core c =
      some ((s.freeYSlot core c.launch c.slot).yardReport (core / 8) c (rejectStatus code)) := by
  have some : (!(s.yardCodes (core / 8) core c.launch c).1.isEmpty) = true := by simpa using wrong
  exact ⟨_, by rw [State.postChecked]; exact if_pos some⟩

/-- The command of the slot `slot`. -/
def State.slotCmd (s : State) (core l slot : Nat) : YCmd := newCmd l slot ((s.coreAt core).yslots.get (ySlotKey l slot) YSlot.init).dbl

theorem post_valid {core l slot : Nat} (valid : s.yardCodes (core / 8) core l (s.slotCmd core l slot) = ([], []))
    (plain : (s.slotCmd core l slot).bat = false) : s.post core l slot = s.postValid core (s.slotCmd core l slot) := by
  have passes : s.postChecked core (s.slotCmd core l slot) = none := postChecked_valid valid
  have sealed : s.seal (core / 8) (s.slotCmd core l slot) = some (s.slotCmd core l slot, s) := by
    simp only [State.seal, plain, Bool.and_false, Bool.false_and, if_false, Bool.false_eq_true]
  simp only [State.slotCmd] at passes sealed
  simp only [State.post, passes, sealed]
  rfl

theorem post_rejected {core l slot : Nat} (wrong : (s.yardCodes (core / 8) core l (s.slotCmd core l slot)).1 ≠ []) :
    ∃ code, s.post core l slot = some (((s.freeYSlot core l slot).yardReport (core / 8) (s.slotCmd core l slot) (rejectStatus code)).endAwait
      (core / 8) (.drain s.cur.ctx)) := by
  obtain ⟨code, rejected⟩ := postChecked_rejected (s := s) (c := s.slotCmd core l slot) wrong
  refine ⟨code, ?_⟩
  simp only [State.slotCmd] at rejected
  simp only [State.post, rejected]
  rfl

/-- A status of a rejection counts. -/
theorem rejectStatus_counts (code : Nat) : bit (rejectStatus code) 7 = true := by
  have odd : (code * 65536 + 128) / 2 ^ 7 % 2 = 1 := by omega
  rw [bit, rejectStatus, Word.of, BitVec.getLsbD_ofNat, Nat.testBit_eq_decide_div_mod_eq, odd]
  rfl

theorem endAwait_only (mast : Nat) (w : SbWaiter) : ∃ ms, s.endAwait mast w = { s with masts := ms } := by
  dsimp only [State.endAwait]
  split
  · exact ⟨_, rfl⟩
  · exact ⟨s.masts, rfl⟩

theorem yardStored_slot (ea v : Word) :
    let sl := s.core.yslots.get (ySlotKey s.cur.launch (yardSlot ea)) YSlot.init
    (s.yardStored ea v).core.yslots.get (ySlotKey s.cur.launch (yardSlot ea)) YSlot.init = { sl with dbl := sl.dbl.set (bits ea 5 3) v } := by
  intro sl
  rw [State.yardStored, setCore_core, AMap.get_set_same]

theorem yardStored_slotCmd (ea v : Word) : (s.yardStored ea v).slotCmd s.cur.core s.cur.launch (yardSlot ea) =
    newCmd s.cur.launch (yardSlot ea)
      ((s.core.yslots.get (ySlotKey s.cur.launch (yardSlot ea)) YSlot.init).dbl.set (bits ea 5 3) v) := by
  have core : (s.yardStored ea v).coreAt s.cur.core = (s.yardStored ea v).core := rfl
  rw [State.slotCmd, core, State.yardStored, setCore_core, AMap.get_set_same]

theorem yardStored_yqueue (ea v : Word) : (s.yardStored ea v).core.yqueue = s.core.yqueue := by rw [State.yardStored, setCore_core]

/-- The command that a store of double 7 posts. -/
def State.postedCmd (s : State) (ea v : Word) : YCmd :=
  newCmd s.cur.launch (yardSlot ea) ((s.core.yslots.get (ySlotKey s.cur.launch (yardSlot ea)) YSlot.init).dbl.set (bits ea 5 3) v)

theorem post_stored {ea v : Word}
    (valid : (s.yardStored ea v).yardCodes (s.cur.core / 8) s.cur.core s.cur.launch (s.postedCmd ea v) = ([], []))
    (plain : (s.postedCmd ea v).bat = false) :
    (s.yardStored ea v).post s.cur.core s.cur.launch (yardSlot ea) = (s.yardStored ea v).postValid s.cur.core (s.postedCmd ea v) := by
  have named : (s.yardStored ea v).slotCmd s.cur.core s.cur.launch (yardSlot ea) = s.postedCmd ea v := yardStored_slotCmd ea v
  rw [← named] at valid plain ⊢
  exact post_valid valid plain

/-- The program that a drain leaves: nothing but the store buffer of its context has changed of it. -/
structure drainedOnly (s u : State) : Prop where
  ctx : u.ctx = s.ctx
  task : u.task = s.task
  mem : u.mem = s.mem

theorem yardStored_only (ea v : Word) : drainedOnly s (s.yardStored ea v) := ⟨rfl, rfl, rfl⟩

/-- A command without an operation joins its queue without an entry. -/
theorem postValid_plain {core : Nat} {c : YCmd} (plain : c.cop = 0 ∨ c.cop = 2) : s.postValid core c = some (s.enqueue core c) :=
  if_pos (by simpa using plain)

theorem postValid_entry {core : Nat} {c : YCmd} (work : c.cop ≠ 0) (zero : c.cop ≠ 2) {e : Nat × Bool}
    (entry : s.entryOn (core / 8) (core % 8) (.drain s.cur.ctx) = some e) :
    ∃ u, s.postValid core c = some u ∧ drainedOnly s u ∧ u.cur = s.cur ∧
      (u.coreAt core).yqueue = (s.coreAt core).yqueue ++ [{ c with entry := some e.1 }] ∧
      ∃ x ∈ (u.mastAt (core / 8)).sb, x.id = e.1 ∧ x.launch = c.launch ∧ x.core = core % 8 := by
  obtain ⟨ms, only⟩ := endAwait_only (s := s) (core / 8) (.drain s.cur.ctx)
  have other : (decide (c.cop = 0) || decide (c.cop = 2)) = false := by simp [work, zero]
  simp only [State.postValid, other, Bool.false_eq_true, if_false, entry, Option.map_some, only]
  refine ⟨_, rfl, ⟨rfl, rfl, rfl⟩, rfl, ?_, ?_⟩
  · simp only [State.enqueue, putCore_coreAt_same]; rfl
  · simp only [State.enqueue, putCore_mastAt, putMast_mastAt_same, Mast.register]
    exact ⟨_, List.mem_append_right _ (List.mem_singleton_self _), rfl, rfl, rfl⟩

theorem freeYSlot_yqueue (core l slot : Nat) : ((s.freeYSlot core l slot).coreAt core).yqueue = (s.coreAt core).yqueue := by
  simp [State.freeYSlot]

theorem freeYSlot_busy (core l slot : Nat) :
    (((s.freeYSlot core l slot).coreAt core).yslots.get (ySlotKey l slot) YSlot.init).busy = false := by
  simp [State.freeYSlot]

/-- A rejected command that names no barrier frees its slot and is counted. -/
theorem post_counted {core l slot : Nat} (wrong : (s.yardCodes (core / 8) core l (s.slotCmd core l slot)).1 ≠ [])
    (silent : (s.slotCmd core l slot).bar = false) :
    ∃ u, s.post core l slot = some u ∧ drainedOnly s u ∧ u.cur = s.cur ∧ (u.coreAt core).yqueue = (s.coreAt core).yqueue ∧
      ((u.coreAt core).yslots.get (ySlotKey l slot) YSlot.init).busy = false ∧
      (u.launchAt l).yrej = satAdd (s.launchAt l).yrej 1 := by
  obtain ⟨code, ends⟩ := post_rejected wrong
  have quiet : (s.freeYSlot core l slot).barOk (core / 8) (s.slotCmd core l slot) = false := by simp [State.barOk, silent]
  have report : (s.freeYSlot core l slot).yardReport (core / 8) (s.slotCmd core l slot) (rejectStatus code) =
      (s.freeYSlot core l slot).putLaunch l { s.launchAt l with yrej := satAdd (s.launchAt l).yrej 1 } := by
    rw [State.yardReport, quiet, rejectStatus_counts]
    rfl
  rw [report] at ends
  obtain ⟨ms, only⟩ := endAwait_only (s := (s.freeYSlot core l slot).putLaunch l { s.launchAt l with yrej := satAdd (s.launchAt l).yrej 1 })
    (core / 8) (.drain s.cur.ctx)
  refine ⟨_, ends, ?_⟩
  rw [only]
  refine ⟨⟨rfl, rfl, rfl⟩, rfl, ?_, ?_, ?_⟩
  · exact freeYSlot_yqueue core l slot
  · exact freeYSlot_busy core l slot
  · exact congrArg Launch.yrej (putLaunch_launchAt_same (s.freeYSlot core l slot) l { s.launchAt l with yrej := satAdd (s.launchAt l).yrej 1 })

theorem post_stored_counted {ea v : Word}
    (wrong : ((s.yardStored ea v).yardCodes (s.cur.core / 8) s.cur.core s.cur.launch (s.postedCmd ea v)).1 ≠ [])
    (silent : (s.postedCmd ea v).bar = false) :
    ∃ u, (s.yardStored ea v).post s.cur.core s.cur.launch (yardSlot ea) = some u ∧ drainedOnly (s.yardStored ea v) u ∧
      u.cur = s.cur ∧ (u.coreAt s.cur.core).yqueue = ((s.yardStored ea v).coreAt s.cur.core).yqueue ∧
      ((u.coreAt s.cur.core).yslots.get (ySlotKey s.cur.launch (yardSlot ea)) YSlot.init).busy = false ∧
      (u.launchAt s.cur.launch).yrej = satAdd ((s.yardStored ea v).launchAt s.cur.launch).yrej 1 := by
  have named : (s.yardStored ea v).slotCmd s.cur.core s.cur.launch (yardSlot ea) = s.postedCmd ea v := yardStored_slotCmd ea v
  rw [← named] at wrong silent
  exact post_counted wrong silent

end

/-- Settles O17: a store enters the buffer or becomes a packet, and its drain is one write, or one post of a command. -/
theorem storesEnterTheBufferAndDrain : Obligations.StoresEnterTheBufferAndDrain := by
  refine ⟨fun s d base off key x store => ?_, fun s st rest => ?_⟩
  · intro ea bs ready
    have near := storeOp_of_storable (d := d) (rel := x.2.2) ready
    have far := storeOp_remote (d := d) (rel := x.2.2) ready
    simp only [List.mem_cons, List.not_mem_nil, or_false] at store
    obtain rfl | rfl | rfl | rfl | rfl | rfl := store <;> exact ⟨near, far⟩
  · intro a off i k sl ds c b codes drained oldest packets moves active
    have unread (r : Reg) : (a.unbuffered rest).reg r = a.reg r := unbuffered_regs rest r
    have plain {u : State} (held : a.posts st = false) (effect : (a.unbuffered rest).drainEffect st = some u) : exec .storeDrain s = .next u :=
      storeDrain_of_effect oldest (by rw [if_neg (by rw [held]; decide)]; exact packets) moves active effect
    have only {u : State} (same : drainedOnly (a.unbuffered rest) u) (ends : exec .storeDrain s = .next u) : drained u ∧ sameMemory a u :=
      ⟨⟨ends, (congrArg Context.storeBuf same.ctx).trans (congrArg Context.storeBuf (setCtx_ctx a _)),
        fun r => (reg_congr (by rw [same.ctx]) (by rw [same.ctx]) (by rw [same.task]) r).trans (unread r)⟩, fun _ => by rw [same.mem]; rfl⟩
    refine ⟨fun local_ data form => ?_, fun bank mast free => ?_, fun window mast => ⟨fun inner => ?_, fun last older runs => ⟨?_, ?_⟩⟩⟩
    · have held : a.posts st = false := by rcases data with data | data <;> simp [State.posts, data]
      refine ⟨_, ⟨plain held (drainEffect_plain local_ data), ?_, fun r => (write_reg _ _ _ r).trans (unread r)⟩, fun x outside => ?_, fun j inside => ?_⟩
      · rw [write_ctx]; exact congrArg Context.storeBuf (setCtx_ctx a _)
      · rw [write_mem]; exact Memory.get_write_other _ _ _ form outside
      · rw [write_mem]; exact Memory.get_write_in _ _ _ j form inside
    · have held : a.posts st = false := by simp [State.posts, inYardWindow, bank]
      refine ⟨_, ⟨plain held (drainEffect_bank bank mast free), ?_, fun r => (writes_regs _ _ r).trans (unread r)⟩, writes_mem _ _ rfl⟩
      rw [writes_ctx]; exact congrArg Context.storeBuf (setCtx_ctx a _)
    · have held : a.posts st = false := posts_inner inner
      obtain ⟨gone, memory⟩ := only (yardStored_only _ _) (plain held (drainEffect_inner window mast inner))
      exact ⟨_, gone, memory, congrArg YSlot.dbl (yardStored_slot _ _), yardStored_yqueue _ _⟩
    · intro valid single
      have effect := (drainEffect_last (s := a.unbuffered rest) window mast last runs).trans (post_stored valid single)
      have ends {u : State} (done : b.postValid a.cur.core c = some u) : exec .storeDrain s = .next u :=
        storeDrain_of_effect oldest (by rw [if_pos (posts_last window mast last)]; exact older) moves active (effect.trans done)
      have queue : (b.coreAt a.cur.core).yqueue = a.core.yqueue := yardStored_yqueue (s := a.unbuffered rest) st.ea (Word.of (ofBytes st.bytes))
      refine ⟨fun plain => ?_, fun e work zero entry => ?_⟩
      · obtain ⟨gone, memory⟩ := only (u := b.enqueue a.cur.core c) ⟨rfl, rfl, rfl⟩ (ends (postValid_plain plain))
        exact ⟨_, gone, memory, (congrArg Core.yqueue (putCore_coreAt_same b a.cur.core _)).trans (congrArg (· ++ [c]) queue)⟩
      · obtain ⟨u, done, same, cur, yqueue, entered⟩ := postValid_entry work zero entry
        obtain ⟨gone, memory⟩ := only ⟨same.ctx, same.task, same.mem⟩ (ends done)
        have there : u.core = u.coreAt a.cur.core := congrArg u.coreAt (congrArg Cur.core cur :)
        exact ⟨u, gone, memory, by rw [there, yqueue, queue], entered⟩
    · intro wrong silent
      obtain ⟨u, done, same, cur, yqueue, busy, yrej⟩ := post_stored_counted (s := a.unbuffered rest) wrong silent
      have ends : exec .storeDrain s = .next u := storeDrain_of_effect oldest (by rw [if_pos (posts_last window mast last)]; exact older) moves active
        ((drainEffect_last (s := a.unbuffered rest) window mast last runs).trans done)
      obtain ⟨gone, memory⟩ := only ⟨same.ctx, same.task, same.mem⟩ ends
      have there : u.core = u.coreAt a.cur.core := congrArg u.coreAt (congrArg Cur.core cur :)
      have launch : u.launch = u.launchAt a.cur.launch := congrArg u.launchAt (congrArg Cur.launch cur :)
      exact ⟨u, gone, memory, by rw [there]; exact yqueue.trans (yardStored_yqueue (s := a.unbuffered rest) _ _), by rw [there]; exact busy,
        by rw [launch]; exact yrej⟩

end Sys2Proof.Machine
end

section
/-! Node instructions: NNEW, NFREE, NLD, NST, PGET (R149 to R152). -/

namespace Sys2Proof.Machine

section
variable {s : State}

/-! ### Nodes of the acting task -/

theorem node_setNode_same (t : Task) (k : Nat) (n : Node) : (t.setNode k n).node k = n := by
  simp [Task.setNode, Task.node]

theorem result_task (n : Nat) (d : Reg) (v : Word) : { (s.result n d v).task with globals := s.task.globals } = s.task := by
  obtain ⟨-, -, -, -, -, -, -, -, own, -⟩ := result_wrote s n d v
  exact own

theorem result_node (n : Nat) (d : Reg) (v : Word) (k : Nat) : (s.result n d v).task.node k = s.task.node k :=
  (congrArg (Task.node · k) (result_task n d v) :)

theorem setNodeOf_nodeOf (r : Word) (n : Node) : (s.setNodeOf r n).nodeOf r = n := by
  rw [State.setNodeOf, State.nodeOf, setTask_task, node_setNode_same]

theorem setNode_sameProgram (k : Nat) (n : Node) : sameProgram s (s.setTask (s.task.setNode k n)) :=
  .of_fields rfl rfl rfl (by rw [setTask_task]; rfl) rfl

theorem setNodeOf_sameProgram (r : Word) (n : Node) : sameProgram s (s.setNodeOf r n) := setNode_sameProgram _ n

/-- What an instruction that sets a node and goes on leaves behind. -/
theorem setNodeOf_advance (r : Word) (n : Node) :
    let u := (s.setNodeOf r n).advance 1
    u.pc = s.pc + 4 ∧ sameRegs s u ∧ sameMemory s u ∧ u.nodeOf r = n := by
  obtain ⟨pc, regs, memory⟩ := (setNodeOf_sameProgram (s := s) r n).acted 1
  exact ⟨pc, regs, memory, setNodeOf_nodeOf r n⟩

/-! ### NNEW -/

/-- The node that NNEW makes. -/
def newNode (gen : BitVec 16) (kind arity : Word) : Node :=
  { Node.init with gen := gen, live := true, kind := BitVec.ofNat 12 kind.toNat, arity := arity.toNat }

theorem nnew_of_free {d : Reg} {kind arity : Src} {slot : Nat} (small : (s.src kind).toNat ≤ 0xFFE)
    (known : (s.src kind).toNat < s.task.nkind) (ports : (s.src arity).toNat ≤ 3) (free : s.task.freeSlot = some slot)
    (ready : s.slotReady slot .netW = .ok ()) (released : s.released = true) :
    exec (.nnew d kind arity) s =
      .next ((s.setTask (s.task.setNode slot (newNode (s.task.node slot).gen (s.src kind) (s.src arity)))).result 1 d
        (mkRef s.cur.core slot (s.task.node slot).gen.toNat 0)) :=
  finish_ok (need_then (by simp [small, known]) (need_then (by simp [ports])
    (by rw [free]; exact ok_then ready (need_then released rfl))))

/-! ### NFREE -/

/-- The state in which the node `nd` of `r` has left its slot. -/
def State.withoutNode (s : State) (r : Word) (nd : Node) : State :=
  s.setNodeOf r (if s.splicing s.cur.launch r then { nd with live := false, rel := true } else nd.freed)

theorem withoutNode_sameProgram (r : Word) (nd : Node) : sameProgram s (s.withoutNode r nd) := setNodeOf_sameProgram r _

theorem payload_ok {a w : Word} {key : Nat} {t : State} (ends : s.payload a = .ok (key, w, t)) : w = s.dbl key ∧ t = s.correct key 8 := by
  obtain ⟨_, -, ends⟩ := bind_ok.mp ends
  obtain ⟨_, -, ends⟩ := bind_ok.mp ends
  obtain ⟨_, -, ends⟩ := bind_ok.mp ends
  obtain ⟨_, -, ends⟩ := bind_ok.mp ends
  obtain ⟨_, -, ends⟩ := bind_ok.mp ends
  obtain ⟨rfl, rfl, rfl⟩ : _ = key ∧ _ = w ∧ _ = t := by simpa using ends
  exact ⟨rfl, rfl⟩

end

/-- Settles O21: past its checks each instruction is one change of its node and a result. -/
theorem nodeInstructionsComplete : Obligations.NodeInstructionsComplete := by
  intro s d n kind arity i k r nd
  refine ⟨fun slot small known ports free ready released => ?_, fun checked released => ⟨fun leaves bare => ?_,
    fun key w t leaves loaded header => ?_, fun zero fits => ?_, fun one fits => ?_, fun state => ?_⟩, fun checked => ⟨?_, fun inside => ?_⟩⟩
  · let new := newNode (s.task.node slot).gen (s.src kind) (s.src arity)
    let t := s.setTask (s.task.setNode slot new)
    obtain ⟨pc, own, -, memory⟩ := (setNode_sameProgram (s := s) slot new).answered 1 d
      (mkRef s.cur.core slot (s.task.node slot).gen.toNat 0)
    have made : (t.result 1 d (mkRef s.cur.core slot (s.task.node slot).gen.toNat 0)).task.node slot = new := by
      rw [result_node, setTask_task, node_setNode_same]
    refine ⟨_, nnew_of_free small known ports free ready released, pc, memory, own, ?_⟩
    rw [made]
    exact ⟨rfl, BitVec.toNat_ofNat .. ▸ Nat.mod_eq_of_lt (by omega), rfl, rfl, rfl⟩
  · have ends : exec (.nfree d n) s = .next ((s.withoutNode r nd).result 1 d 0) :=
      finish_ok (ok_then checked (need_then released (need_then leaves (if_pos bare))))
    obtain ⟨pc, own, -, memory⟩ := (withoutNode_sameProgram (s := s) r nd).answered 1 d 0
    refine ⟨_, ends, pc, memory, own.trans (ite_self 0), ?_⟩
    rw [result_node]
    exact setNodeOf_nodeOf r _
  · obtain ⟨rfl, rfl⟩ := payload_ok header
    let c := s.correct key 8
    let counted := c.setCount key (countOf (s.dbl key) - 1)
    have ends : exec (.nfree d n) s = .next ((counted.withoutNode r nd).result 1 d (if countOf (s.dbl key) = 1 then nd.desc else 0)) :=
      finish_ok (ok_then checked (need_then released (need_then leaves ((if_neg loaded).trans (ok_then header rfl)))))
    refine ⟨_, ends, ?_, result_reg_same 1 d _, ?_⟩
    · rw [result_pc, (withoutNode_sameProgram r nd).pc]
      simp [counted, c, State.setCount, State.setDbl]
    · rw [result_mem]
      have same : c.dbl key = s.dbl key := by simp only [State.dbl, c, correct_mem]
      have mem : counted.mem = Memory.write s.mem key (toBytes 8 (setBits (s.dbl key) 63 48 (countOf (s.dbl key) - 1)).toNat) := by
        simp only [counted, State.setCount, State.setDbl, write_mem, same, c, correct_mem]
      exact mem
  · refine ⟨_, finish_ok (ok_then checked (need_then released ?_)), setNodeOf_advance r _⟩
    rw [if_pos zero]
    exact need_then (by simpa using fits) rfl
  · refine ⟨_, finish_ok (ok_then checked (need_then released ?_)), setNodeOf_advance r _⟩
    rw [if_neg (by omega), if_pos one]
    exact need_then fits rfl
  · refine ⟨_, finish_ok (ok_then checked (need_then released ?_)), setNodeOf_advance r _⟩
    rw [if_neg (by omega), if_neg (by omega), if_neg (by omega)]
  · exact ⟨_, finish_ok (ok_then checked rfl), result_wrote s 1 d _⟩
  · exact ⟨_, exec_pget_of_within checked inside, result_wrote s 1 d _⟩

end Sys2Proof.Machine
end

section
/-! PLINK, SPLICE and the record instructions (R153, R154, R159, R165 to R168, R181 to R185). -/

namespace Sys2Proof.Machine

section
variable {s : State}

theorem setWord_sameProgram (r w : Word) : sameProgram s (s.setWord r w) := setNodeOf_sameProgram r _

/-! ### A push where a place is free -/

theorem spills_of_room {t : Task} (room : t.deque.length + t.reserved < 256) : t.spills = false := by
  simp [Task.spills, Nat.not_le.mpr room]

theorem roomOn_of_room {k : Nat} {full : Stop} (room : (s.taskAt k).deque.length + (s.taskAt k).reserved < 256) :
    s.roomOn k full = .ok (s.putTask k (s.taskAt k)) := by
  simp only [State.roomOn, spills_of_room room, Task.room, if_pos room, Bool.false_eq_true, if_false]

/-- The state behind a push of the acting context. -/
structure pushedOn (r : Record) (s t : State) : Prop where
  same : sameProgram s t
  deque : t.task.deque = s.task.deque ++ [r]
  nodes : t.task.nodes = s.task.nodes

theorem pushX_of_room {r : Record} (room : s.task.deque.length + s.task.reserved < 256) : ∃ t, s.pushX r = .ok t ∧ pushedOn r s t := by
  have task : (s.putTask s.cur.task (s.taskAt s.cur.task)).task = s.task := putTask_taskAt_same s s.cur.task _
  refine ⟨_, ok_then (roomOn_of_room room) rfl, .of_fields rfl rfl rfl ?_ rfl, ?_, ?_⟩
  · exact (congrArg Task.globals (setTask_task (s.putTask s.cur.task (s.taskAt s.cur.task)) _)).trans (by rw [task])
  · exact (congrArg Task.deque (setTask_task (s.putTask s.cur.task (s.taskAt s.cur.task)) _)).trans (by rw [task])
  · exact (congrArg Task.nodes (setTask_task (s.putTask s.cur.task (s.taskAt s.cur.task)) _)).trans (by rw [task])

/-! ### PLINK -/

/-- The state in which the two ports of the registers name each other. -/
def State.wired (s : State) (a b : Word) : State := (s.setWord a (portWord 1 b)).setWord b (portWord 1 a)

theorem wired_sameProgram (a b : Word) : sameProgram s (s.wired a b) := (setWord_sameProgram a _).trans (setWord_sameProgram b _)

theorem wired_task (a b : Word) : { (s.wired a b).task with nodes := s.task.nodes } = s.task := by
  simp only [State.wired, State.setWord, State.setNodeOf, setTask_task]
  rfl

/-- The checks of PLINK. -/
structure plinkable (s : State) (a b : Word) : Prop where
  first : s.chk a true .netW = .ok ()
  second : s.chk b true .netW = .ok ()
  released : s.released = true
  ne : a ≠ b
  bare : refState (s.word a) = 0
  bare' : refState (s.word b) = 0

theorem plink_of_aux {x y : Reg} (ready : plinkable s (s.reg x) (s.reg y)) (aux : refPort (s.reg x) ≠ 0 ∨ refPort (s.reg y) ≠ 0) :
    exec (.plink x y) s = .next ((s.wired (s.reg x) (s.reg y)).advance 1) := by
  obtain ⟨first, second, released, ne, bare, bare'⟩ := ready
  refine finish_ok (ok_then first (ok_then second (need_then released (need_then (by simp [ne, bare, bare']) (if_neg ?_)))))
  rcases aux with aux | aux <;> simp [aux]

theorem plink_of_principal {x y : Reg} (ready : plinkable s (s.reg x) (s.reg y)) (principal : refPort (s.reg x) = 0)
    (principal' : refPort (s.reg y) = 0) {t : State} (pushed : (s.wired (s.reg x) (s.reg y)).pushX (redexRecord (s.reg x) (s.reg y) 0 0) = .ok t) :
    exec (.plink x y) s = .next (t.advance 1) := by
  obtain ⟨first, second, released, ne, bare, bare'⟩ := ready
  refine finish_ok (ok_then first (ok_then second (need_then released (need_then (by simp [ne, bare, bare']) ((if_pos ?_).trans (ok_then pushed rfl))))))
  simp [principal, principal']

/-! ### SPLICE -/

theorem splice_bound {x y : Word} (bound : refState (s.word x) = 4) :
    s.splice x y = ((s.setWord y (s.word x)).bindHost (bits (s.word x) 19 0) y).setWord x 0 := if_pos bound

/-- The state in which a splice of the wired port `x` to `y` is in the splice unit. -/
def State.spliced (s : State) (x y : Word) : State :=
  let t := (s.setWord y (portWord 3 (refOfWord (s.word x)))).setWord x (fwdWord false y)
  (t.setCore { s.core with splices := s.core.splices ++ [⟨s.cur.task, s.cur.ctx, x, y, refOfWord (s.word x), .start, s.ctx.order, [], x⟩] }).setCtx
    { s.ctx with order := s.ctx.order + 1 }

theorem splice_wired {x y : Word} (wired : refState (s.word x) ≠ 4) : s.splice x y = s.spliced x y := if_neg wired

theorem splice_sameProgram (x y : Word) : sameProgram s (s.splice x y) := by
  by_cases bound : refState (s.word x) = 4
  · rw [splice_bound bound]
    have host {t : State} (h : Nat) (w : Word) : sameProgram t (t.bindHost h w) := .of_ctx rfl rfl rfl
    exact ((setWord_sameProgram y _).trans (host _ _)).trans (setWord_sameProgram x _)
  · rw [splice_wired bound]
    let t := (s.setWord y (portWord 3 (refOfWord (s.word x)))).setWord x (fwdWord false y)
    have ports : sameProgram s t := (setWord_sameProgram y _).trans (setWord_sameProgram x _)
    have ctx : (s.spliced x y).ctx = { s.ctx with order := s.ctx.order + 1 } := setCtx_ctx _ _
    exact ports.trans (.of_fields (by rw [ctx]; rfl) (by rw [ctx]; rfl) (by rw [ctx]; rfl) rfl rfl)

/-! ### Pairs of results and RPOP -/

theorem pairReg_ne (d : Fin 31) : pairReg d 1 ≠ pairReg d 0 := by
  have := d.isLt
  simp only [pairReg, ne_eq, Reg.w.injEq, Fin.ext_iff, Fin.val_ofNat]
  omega

theorem result2_end (d : Fin 31) (a b : Word) :
    let u := s.result2 d a b
    u.pc = s.pc + 4 ∧ sameMemory s u ∧ u.reg (pairReg d 0) = a ∧ u.reg (pairReg d 1) = b ∧
      ∀ r, r ≠ pairReg d 0 → r ≠ pairReg d 1 → u.reg r = s.reg r := by
  intro u
  refine ⟨?_, fun _ => ?_, ?_, ?_, fun r first second => ?_⟩
  · simp only [u, State.result2, advance_pc, setReg_pc]; rfl
  · simp only [u, State.result2, advance_mem, setReg_mem]
  all_goals simp only [u, State.result2, advance_reg, reg_setReg]
  · rw [if_neg (pairReg_ne d).symm, if_pos trivial, if_neg nofun]
  · rw [if_pos trivial, if_neg nofun]
  · rw [if_neg second, if_neg first]

theorem popOn_kept {k : Nat} {q : Option (Record × Task)} (kept : (s.taskAt k).refills = false) (ends : (s.taskAt k).pop = q) :
    s.popOn k = .ok (q.map fun p => (p.1, s.putTask k p.2)) := by
  simp only [State.popOn, kept, ends, Bool.false_eq_true, if_false]

theorem pop_last {t : Task} {rs : List Record} {rec : Record} (some : t.deque = rs ++ [rec]) :
    t.refills = false ∧ t.pop = .some (rec, { t with deque := rs }) := by
  have kept : t.refills = false := by simp [Task.refills, some]
  refine ⟨kept, ?_⟩
  simp only [Task.pop, Task.refill, kept, some, Bool.false_eq_true, if_false, List.getLast?_append, List.getLast?_singleton, Option.some_or,
    List.dropLast_concat]

theorem pop_none {t : Task} (empty : t.deque = []) (kept : t.refills = false) : t.pop = none := by
  simp only [Task.pop, Task.refill, kept, empty, Bool.false_eq_true, if_false, List.getLast?_nil]

theorem finish_wait {x : Ex State} (waits : x = .error .wait) : s.finish x = .next s.waiting := by rw [waits]; rfl

theorem rpop_none {d : Fin 31} (stays : s.task.refills = false) (none : s.task.pop = none) :
    exec (.rpop d) s = if s.task.reserved = 0 then .next (s.result2 d 0 0) else .next s.waiting := by
  have ends : s.popOn s.cur.task = .ok .none := popOn_kept stays none
  by_cases free : s.task.reserved = 0
  · rw [if_pos free]
    exact finish_ok (ok_then ends (if_pos free))
  · rw [if_neg free]
    exact finish_wait (ok_then ends (if_neg free))

theorem rpop_popped {d : Fin 31} {rec : Record} {t : Task} (stays : s.task.refills = false) (popped : s.task.pop = some (rec, t)) :
    exec (.rpop d) s = .next ((s.putTask s.cur.task t).result2 d rec.d0 rec.d1) := by
  have ends : s.popOn s.cur.task = .ok (some (rec, s.putTask s.cur.task t)) := popOn_kept stays popped
  exact finish_ok (ok_then ends rfl)

end

/-- Settles O23: the checks of each instruction are the statement's conditions, and what is behind them is one change of the nodes or the deque. -/
theorem wiringAndRecordInstructionsComplete : Obligations.WiringAndRecordInstructionsComplete := by
  refine ⟨fun s x y => ?_, fun s f d x y r h a0 a1 => ?_⟩
  · intro a b wired first second released
    refine ⟨fun ne bare bare' => ⟨fun aux => ?_, fun principal principal' room => ?_⟩, fun bare dying room => ?_, fun k inX inY ne dying dying' apart free ready room => ?_⟩
    · obtain ⟨pc, regs, memory⟩ := (wired_sameProgram (s := s) a b).acted 1
      exact ⟨_, plink_of_aux ⟨first, second, released, ne, bare, bare'⟩ aux, pc, regs, memory, rfl, (congrArg Task.deque (wired_task a b) :)⟩
    · have size : (s.wired a b).task.deque.length + (s.wired a b).task.reserved = s.task.deque.length + s.task.reserved :=
        (congrArg (fun t : Task => t.deque.length + t.reserved) (wired_task a b) :)
      obtain ⟨t, pushed, same, deque, nodes⟩ := pushX_of_room (s := s.wired a b) (r := redexRecord a b 0 0) (by rw [size]; exact room)
      obtain ⟨pc, regs, memory⟩ := ((wired_sameProgram (s := s) a b).trans same).acted 1
      exact ⟨_, plink_of_principal ⟨first, second, released, ne, bare, bare'⟩ principal principal' pushed, pc, regs, memory, nodes,
        deque.trans (congrArg (Task.deque · ++ [redexRecord a b 0 0]) (wired_task a b) :)⟩
    · obtain ⟨pc, regs, memory⟩ := (splice_sameProgram (s := s) a b).acted 1
      refine ⟨_, finish_ok (ok_then first (ok_then second (need_then released (need_then (by simpa using bare) (ok_then dying
        (need_then (by simpa using room) rfl)))))), pc, regs, memory, fun bound => ⟨?_, ?_⟩, fun wire => ⟨?_, ?_⟩⟩
      · rw [advance_launch, splice_bound bound]; exact congrArg Launch.hostbind (setLaunch_launch _ _)
      · rw [advance_core, splice_bound bound]; rfl
      · rw [advance_task, splice_wired wire]; rfl
      · rw [advance_core, splice_wired wire]; exact congrArg Core.splices (setCore_core _ _)
    · obtain ⟨pc, regs, memory⟩ := ((setNode_sameProgram (s := s) k (joinThimble (s.task.node k).gen s.cur.ctx s.ctx.order)).trans
        ((splice_sameProgram _ _).trans (splice_sameProgram _ _))).acted 1
      refine ⟨_, finish_ok (ok_then first (ok_then second (need_then released (need_then ?_ (ok_then dying (ok_then dying'
        (need_then ?_ ?_))))))), pc, regs, memory, rfl⟩
      · exact Bool.and_eq_true_iff.mpr ⟨Bool.and_eq_true_iff.mpr ⟨inX, inY⟩, decide_eq_true ne⟩
      · show (!(decide (refState (s.word a) = 1) && refers (s.word a) b)) = true
        by_cases principal : refState (s.word a) = 1 <;> simp [principal, apart]
      · rw [free]
        exact ok_then ready (need_then (by simpa using room) rfl)
  · intro pushed
    have push {n : Nat} {i : Instr} {rec : Record} (room : s.task.deque.length + s.task.reserved < 256)
        (runs : ∀ t, s.pushX rec = .ok t → exec i s = .next (t.advance n)) : ∃ u, exec i s = .next u ∧ pushed n rec u := by
      obtain ⟨t, ends, same, deque, -⟩ := pushX_of_room room
      obtain ⟨pc, regs, memory⟩ := same.acted n
      exact ⟨_, runs t ends, pc, regs, memory, deque⟩
    refine ⟨fun first second released room => ?_, fun i aligned index released room => ?_, fun empty kept => ?_, fun empty bare free => ?_,
      fun rs rec some => ?_, fun v first second read => ?_⟩
    · exact push room fun t ends => finish_ok (need_then (by simp [first, second]) (need_then released (ok_then ends rfl)))
    · refine push room fun t ends => finish_ok (need_then (by simpa [bits] using aligned) ?_)
      rw [index]
      exact need_then released (ok_then ends rfl)
    · have stays : s.task.refills = false := by simp [Task.refills, kept]
      exact ⟨_, rpop_none stays (pop_none empty stays) |>.trans (if_neg kept), (sameProgram.refl s).waits⟩
    · have stays : s.task.refills = false := by simp [Task.refills, bare]
      obtain ⟨pc, memory, low, high, -⟩ := result2_end (s := s) d 0 0
      exact ⟨_, rpop_none stays (pop_none empty stays) |>.trans (if_pos free), pc, memory, low, high⟩
    · obtain ⟨stays, popped⟩ := pop_last some
      obtain ⟨pc, memory, low, high, -⟩ := result2_end (s := s.putTask s.cur.task { s.task with deque := rs }) d rec.d0 rec.d1
      exact ⟨_, rpop_popped stays popped, pc, memory, low, high, congrArg Task.deque (putTask_taskAt_same s s.cur.task _)⟩
    · exact exec_rule_wrote r first second read

end Sys2Proof.Machine
end

section
/-! MEET and JOIN (R174, R175, R183, R186, R295). -/

namespace Sys2Proof.Machine

section
variable {s : State}

/-! ### What a write leaves of a task -/

/-- A write changes the error count and the injection of a task only. -/
theorem write_taskAt {β : Type} (g : Task → β) (count : ∀ t n, g { t with bcec := n } = g t) (arm : ∀ t w, g { t with binj := w } = g t)
    (k : Nat) (bs : List Byte) (j : Nat) : g ((s.write k bs).taskAt j) = g (s.taskAt j) := by
  simp only [State.write]
  rw [inject_taskAt _ g arm, countCorrected_taskAt _ g count]
  rfl

theorem correct_taskAt {β : Type} (g : Task → β) (count : ∀ t n, g { t with bcec := n } = g t) (k n j : Nat) :
    g ((s.correct k n).taskAt j) = g (s.taskAt j) := by
  simp only [State.correct]
  rw [countCorrected_taskAt _ g count]
  rfl

theorem write_task {β : Type} (g : Task → β) (count : ∀ t n, g { t with bcec := n } = g t) (arm : ∀ t w, g { t with binj := w } = g t)
    (k : Nat) (bs : List Byte) : g (s.write k bs).task = g s.task := by
  exact (congrArg (fun c : Cur => g ((s.write k bs).taskAt c.task)) (write_cur s k bs)).trans (write_taskAt g count arm k bs s.cur.task)

theorem correct_task {β : Type} (g : Task → β) (count : ∀ t n, g { t with bcec := n } = g t) (k n : Nat) :
    g (s.correct k n).task = g s.task := by
  exact (congrArg (fun c : Cur => g ((s.correct k n).taskAt c.task)) (correct_cur s k n)).trans (correct_taskAt g count k n s.cur.task)

/-! ### MEET -/

theorem needSend_of_local {x y : Word} (here : s.ctx.kind ≠ .rep ∨ refCore x = s.cur.core ∧ refCore y = s.cur.core) : s.needSend x y = .ok () :=
  need_ok (by simpa using here)

theorem needSend_of_reply {x y : Word} (reply : s.ctx.kind = .rep) (far : refCore x ≠ s.cur.core ∨ refCore y ≠ s.cur.core) :
    s.needSend x y = .error (.trap 0x15 s.pc 0xFFE) := by
  have fails : (decide (s.ctx.kind ≠ .rep) || (decide (refCore x = s.cur.core) && decide (refCore y = s.cur.core))) = false := by
    rcases far with far | far <;> simp [reply, far]
  rw [State.needSend, fails, need_false]

/-- The meeting of the acting context for a pair of nodes. -/
def State.meetingOf (s : State) (x y : Word) : Option Meeting :=
  s.core.meetings.find? fun m => decide (m.ctx = some s.cur.ctx) && decide (m.record.refs = (x, y))

theorem meet_of_ready {d : Fin 31} {x y : Word} (sends : s.needSend x y = .ok ()) (first : rpushOk x = true) (second : rpushOk y = true) (apart : sameNode x y = false)
    (none : s.meetingOf x y = none) (slots : s.unitReady s.cur.task (slotsOn s.cur.core [x, y]) .net = .ok ())
    (passes : s.localCheck s.cur.launch s.cur.core x y = .none) (plan : s.meetPlan s.cur.launch s.cur.core x y = .ready)
    (free : s.unlocked s.cur.task x = true) (free' : s.unlocked s.cur.task y = true) :
    s.meet d x y = .ok (s.result2 d (s.meetOrder s.cur.launch x y false false).1 (s.meetOrder s.cur.launch x y false false).2) := by
  refine ok_then sends (need_then (by rw [first, second, apart]; rfl) ?_)
  simp only [State.meetingOf] at none
  rw [none]
  refine ok_then slots ?_
  rw [passes, plan]
  exact need_then (by rw [free, free']; rfl) rfl

theorem meet_of_met {d : Fin 31} {x y : Word} {m : Meeting} (sends : s.needSend x y = .ok ())
    (first : rpushOk x = true) (second : rpushOk y = true) (apart : sameNode x y = false) (running : s.meetingOf x y = some m)
    (slots : s.unitReady s.cur.task (slotsOn s.cur.core [m.x, m.y]) .net = .ok ()) (sound : m.failed = none)
    (over_ : s.meetingDone s.cur.launch m = true) (free : s.unlocked s.cur.task m.x = true) (free' : s.unlocked s.cur.task m.y = true) :
    let o := s.meetOrder s.cur.launch m.x m.y m.movedX m.movedY
    s.meet d x y = .ok ((s.dropMeeting s.cur.core m.id).result2 d o.1 o.2) := by
  refine ok_then sends (need_then (by rw [first, second, apart]; rfl) ?_)
  simp only [State.meetingOf] at running
  rw [running]
  dsimp only
  rw [sound]
  exact ok_then slots (need_then (by rw [over_, free, free']; rfl) rfl)

/-! ### JOIN -/

/-- A packet that goes leaves the network, and gives its share back. -/
theorem drop_only (p : Packet) : ∃ cs ts,
    s.drop p = { s with net := s.net.filter fun q => decide (q.id ≠ p.id), cores := cs, tasks := ts } := by
  simp only [State.drop, State.useSq]
  split
  · exact ⟨_, _, rfl⟩
  · split <;> exact ⟨_, _, rfl⟩

@[simp] theorem drop_dbl (p : Packet) (k : Nat) : (s.drop p).dbl k = s.dbl k := by simp only [State.dbl, drop_mem]

@[simp] theorem drop_badDouble (p : Packet) (k n : Nat) : (s.drop p).badDouble k n = s.badDouble k n := by
  obtain ⟨cs, ts, only⟩ := drop_only (s := s) p; rw [only]; rfl

@[simp] theorem drop_net (p : Packet) : (s.drop p).net = s.net.filter fun q => decide (q.id ≠ p.id) := by
  obtain ⟨cs, ts, only⟩ := drop_only (s := s) p; rw [only]

theorem correct_only (k n : Nat) : ∃ e ts, s.correct k n = { s with ecc := e, tasks := ts } := by
  simp only [State.correct, State.countCorrected]
  split
  · exact ⟨_, _, rfl⟩
  · split <;> exact ⟨_, _, rfl⟩

/-- The double at the key counts arrivals, and the one behind it is a task record. -/
structure joinObject (s : State) (key : Nat) : Prop where
  sound : s.badDouble key 16 = none
  count : s.dbl key ≠ 0
  task : bits (s.dbl (key + 8)) 63 61 = 6
  zero : bits (s.dbl (key + 8)) 60 60 = 0
  zero' : bits (s.dbl (key + 8)) 55 52 = 0

theorem dbl_correct (k n j : Nat) : (s.correct k n).dbl j = s.dbl j := by simp only [State.dbl, correct_mem]

theorem joinObject.dropped {key : Nat} (object : joinObject s key) (p : Packet) : joinObject (s.drop p) key := by
  obtain ⟨sound, count, task, zero, zero'⟩ := object
  exact ⟨(drop_badDouble p key 16).trans sound, by rw [drop_dbl]; exact count, by rw [drop_dbl]; exact task, by rw [drop_dbl]; exact zero,
    by rw [drop_dbl]; exact zero'⟩

@[simp] theorem correct_net (k n : Nat) : (s.correct k n).net = s.net := by
  obtain ⟨e, ts, only⟩ := correct_only (s := s) k n; rw [only]

@[simp] theorem setDbl_net (k : Nat) (w : Word) : (s.setDbl k w).net = s.net := by
  obtain ⟨m, e, ts, only⟩ := write_rest s k (toBytes 8 w.toNat); rw [State.setDbl, only]

theorem joinAt_of_object {key : Nat} (object : joinObject s key) :
    s.joinAt key = .ok (s.dbl key - 1, s.dbl (key + 8), (s.correct key 16).setDbl key (s.dbl key - 1)) := by
  obtain ⟨sound, count, task, zero, zero'⟩ := object
  have whole : ¬ (s.dbl key = 0 ∨ bits (s.dbl (key + 8)) 63 61 ≠ 6 ∨ bits (s.dbl (key + 8)) 60 60 ≠ 0 ∨ bits (s.dbl (key + 8)) 55 52 ≠ 0) := by
    simp only [count, task, zero, zero', ne_eq, not_true, or_self, not_false_eq_true]
  simp only [State.joinAt, sound, Option.isSome_none, Bool.false_eq_true, if_false, dbl_correct, if_neg whole]

theorem joinDone_end (d : Reg) (a count cont : Word) :
    let u := s.joinDone d a count cont
    u.pc = s.pc + 4 ∧ u.reg d = (if d = .g 0 then 0 else count) ∧ u.mem = s.mem ∧
      u.task.deque = (if count = 0 then s.task.deque ++ [joinRecord cont a] else s.task.deque) := by
  intro u
  have spared (t : State) : (t.result 1 d count).task.deque = t.task.deque := (congrArg Task.deque (result_task (s := t) 1 d count) :)
  by_cases last : count = 0
  · let t := s.setTask { s.task with deque := s.task.deque ++ [joinRecord cont a] }
    have ends : u = (t.wakeSteals s.cur.core).result 1 d count := by simp only [u, State.joinDone, if_pos last]; rfl
    rw [ends, if_pos last]
    refine ⟨result_pc 1 d count, result_reg_same 1 d count, result_mem _ 1 d count, ?_⟩
    rw [spared]
    exact congrArg Task.deque (setTask_task s _)
  · have ends : u = s.result 1 d count := by simp only [u, State.joinDone, if_neg last]
    rw [ends, if_neg last]
    exact ⟨result_pc 1 d count, result_reg_same 1 d count, result_mem s 1 d count, spared s⟩

/-- The state of JOIN before its arrival: the deque has room already. -/
theorem join_of_local {d : Reg} {a : Word} {key : Nat} (near : space a = 0x8 ∨ space a = 0x9) (checked : s.joinCheck a = .ok key)
    (room : s.task.deque.length + s.task.reserved < 256) (settled : s.settled = true)
    (bank : space a = 0x9 → s.sbFree true (keyOff key) 16 = true) (object : joinObject s key) :
    s.join d a = .ok ((((s.putTask s.cur.task s.task).correct key 16).setDbl key (s.dbl key - 1)).joinDone d a (s.dbl key - 1) (s.dbl (key + 8))) := by
  have here : space a ≠ 0xA := by rcases near with near | near <;> rw [near] <;> decide
  have turn : (decide (space a ≠ 0x9) || s.sbFree true (keyOff key) 16) = true := by
    by_cases h : space a = 0x9 <;> simp [h, bank]
  have arrived := joinAt_of_object (s := s.putTask s.cur.task s.task) (key := key)
    ⟨object.sound, object.count, object.task, object.zero, object.zero'⟩
  refine ok_then checked ((if_neg here).trans (ok_then (roomOn_of_room room) (need_then settled (need_then (by simp [here])
    ((if_neg here).trans (need_then turn ?_))))))
  exact (congrArg (fun x => match x with | .error c => trapX c a 0 | .ok (count, cont, s) => .ok (s.joinDone d a count cont)) arrived)

end

/-- Settles O25: a MEET that need not wait answers its pair in their order, and a JOIN is an arrival at its object and what the count then asks for. -/
theorem meetAndJoinsComplete : Obligations.MeetAndJoinsComplete := by
  refine ⟨fun s d x y => ?_, ?_, fun s d e a p count cont come => ?_, fun s p a => ?_⟩
  · intro a b answered
    refine ⟨fun can reply far => finish_trap (stop_then (needSend_of_reply reply far)) can, fun here first second apart =>
      ⟨fun none slots passes plan free free' => ?_, fun m running slots sound done free free' => ?_⟩⟩
    · exact ⟨_, finish_ok (meet_of_ready (needSend_of_local here) first second apart none slots passes plan free free'),
        result2_end d _ _⟩
    · exact ⟨_, finish_ok (meet_of_met (needSend_of_local here) first second apart running slots sound done free free'),
        result2_end (s := s.dropMeeting s.cur.core m.id) d _ _⟩
  · intro s d a key ea count cont fresh local_ checked room drained packets bank sound some task zero zero'
    have ends : exec (.join d a) s = s.finish (s.join d ea) := by
      show execJoin d a s = _
      unfold execJoin
      split
      case h_1 awaits => exact absurd awaits (fresh _ _ _)
      case h_2 awaits => exact absurd awaits (fresh _ _ _)
      case h_3 => rfl
    have settled : s.settled = true := by rw [State.settled, drained, packets]; rfl
    let t := ((s.putTask s.cur.task s.task).correct key 16).setDbl key (s.dbl key - 1)
    obtain ⟨pc, result, mem, deque⟩ := joinDone_end (s := t) d ea (s.dbl key - 1) cont
    have same : t.task.deque = s.task.deque := by
      simp only [t, State.setDbl, write_task (fun x => x.deque) (fun _ _ => rfl) (fun _ _ => rfl), correct_task (fun x => x.deque) (fun _ _ => rfl)]
      exact congrArg Task.deque (putTask_taskAt_same s s.cur.task _)
    refine ⟨_, ends.trans (finish_ok (join_of_local local_ checked room settled bank ⟨sound, some, task, zero, zero'⟩)), ?_, result, ?_, ?_⟩
    · rw [pc]; simp only [t, State.setDbl, write_pc, correct_pc]; rfl
    · rw [mem]; simp only [t, State.setDbl, write_mem, correct_mem]; rfl
    · rw [deque, same]
  · have ends : exec (.join d a) s = s.finish (s.joinReply d (s.rc a) (.joined count cont)) := by
      show execJoin d a s = _
      rw [execJoin, come]
    let t := s.setTask { s.task with reserved := s.task.reserved - 1 }
    obtain ⟨pc, result, mem, deque⟩ := joinDone_end (s := t) d (s.rc a) count cont
    refine ⟨_, ends.trans (finish_ok rfl), pc, result, fun _ => by rw [mem]; rfl, ?_⟩
    rw [deque, setTask_task]
  · intro t key count cont here kind applies live low high sound some task zero zero'
    have arrived := joinAt_of_object (joinObject.dropped ⟨sound, some, task, zero, zero'⟩ p)
    rw [drop_dbl, drop_dbl] at arrived
    let u := ((s.drop p).correct key 16).setDbl key (count - 1)
    let q : Packet := ⟨u.nextPkt, 1, p.dst, p.src, p.launch, 0, 0, 0, 0, flitsOf 32, false, .answer p.ctx (.joined (count - 1) cont)⟩
    have within : (!(t.live && decide (t.locb ≤ bits a 16 0) && decide (bits a 16 0 + 16 ≤ t.locl))) = false := by simp [live, low, high]
    have ends : exec .joinTarget s = .next (u.emitUnit 1 p.dst p.src p.launch 32 (.answer p.ctx (.joined (count - 1) cont))) := by
      show execJoinTarget s = _
      simp only [execJoinTarget, here, kind, applies, if_true]
      rw [if_neg (by rw [within]; decide), arrived]
    refine ⟨_, q, ends, ?_, ?_, rfl, rfl⟩
    · simp only [emitUnit_mem, u, setDbl_mem, correct_mem, drop_mem]
    · have net : u.net = s.net.filter fun r => decide (r.id ≠ p.id) := by
        simp only [u, setDbl_net, correct_net, drop_net]
      exact congrArg (· ++ [q]) net

end Sys2Proof.Machine
end

section
/-! Lane grants, reductions and VREDQ (R58, R240 to R243, R251, R252). -/

namespace Sys2Proof.Machine

/-! ### Maps over contexts -/

/-- A function on entries that keeps those of a key keeps what the key reads. -/
theorem AMap.get_map_fixed {α : Type} {f : Nat × α → Nat × α} {k : Nat} (keys : ∀ p, (f p).1 = p.1) (fixed : ∀ p, p.1 = k → f p = p)
    (m : AMap α) (d : α) : AMap.get (m.map f) k d = m.get k d := by
  induction m with
  | nil => rfl
  | cons p m ih =>
    simp only [List.map_cons, AMap.get, keys]
    split
    case isTrue own => rw [fixed p own]
    case isFalse => exact ih

/-- The reefs that a list of contexts holds on a mast. -/
def heldReefs (cs : AMap Context) (mast : Nat) : Nat :=
  ((cs.filter fun p => decide (mastOf p.2.core = mast)).map fun p => p.2.vgrant / 16).sum

theorem heldReefs_cons (p : Nat × Context) (cs : AMap Context) (mast : Nat) :
    heldReefs (p :: cs) mast = (if mastOf p.2.core = mast then p.2.vgrant / 16 else 0) + heldReefs cs mast := by
  by_cases here : mastOf p.2.core = mast <;> simp [heldReefs, here]

theorem heldReefs_set (cs : AMap Context) (k mast : Nat) {c : Context} (core : c.core = (cs.get k Context.init).core)
    (grant : c.vgrant = (cs.get k Context.init).vgrant) : heldReefs (cs.set k c) mast = heldReefs cs mast := by
  induction cs with
  | nil =>
    have none : c.vgrant / 16 = 0 := by simp [grant, AMap.get, Context.init]
    rw [AMap.set, heldReefs_cons, none, ite_self, Nat.zero_add]
  | cons p cs ih =>
    by_cases own : p.1 = k
    · simp only [AMap.get, AMap.set, own, if_true, heldReefs_cons] at core grant ⊢
      rw [core, grant]
    · simp only [AMap.get, AMap.set, own, if_false, heldReefs_cons] at core grant ⊢
      rw [ih core grant]

section
variable {s : State}

/-! ### Grants -/

theorem setPend_ctx (mast : Nat) : (s.setPend mast s.cur.ctx).ctx = s.ctx := by
  refine AMap.get_map_fixed (fun p => ?_) (fun p own => ?_) _ _
  · split <;> rfl
  · have own : p.1 = s.cur.ctx := own
    simp [own]

theorem setPend_vgrant (mast but k : Nat) : ((s.setPend mast but).ctxAt k).vgrant = (s.ctxAt k).vgrant :=
  AMap.get_map_field Context.vgrant _ (fun p => by split <;> rfl) (fun p => by split <;> rfl) _ _ _

/-- The lanes of a grant that grows towards `w`. -/
def State.grown (s : State) (g w : Nat) : Nat := g + 16 * Nat.min ((w - g) / 16) s.growReefs

theorem growTo_ctx (w : Nat) : (s.growTo w).ctx = { s.ctx with vgrant := s.grown s.ctx.vgrant w } := by
  unfold State.growTo
  dsimp only
  split
  · exact (setPend_ctx _).trans (setCtx_ctx _ _)
  · exact setCtx_ctx _ _

theorem growTo_vgrant_other (w : Nat) {k : Nat} (other : k ≠ s.cur.ctx) : ((s.growTo w).ctxAt k).vgrant = (s.ctxAt k).vgrant := by
  unfold State.growTo
  dsimp only
  split
  · exact (setPend_vgrant _ _ k).trans (congrArg Context.vgrant (setCtx_ctxAt_other s _ other))
  · exact congrArg Context.vgrant (setCtx_ctxAt_other s _ other)

theorem growTo_rest (w : Nat) : (s.growTo w).mem = s.mem ∧ (s.growTo w).cur = s.cur ∧ (s.growTo w).task = s.task := by
  unfold State.growTo
  dsimp only
  split <;> exact ⟨rfl, rfl, rfl⟩

theorem growReefs_setCtx {c : Context} (core : c.core = s.ctx.core) (launch : c.launch = s.ctx.launch) (grant : c.vgrant = s.ctx.vgrant) :
    (s.setCtx c).growReefs = s.growReefs := by
  have first : (s.setCtx c).firstReefs s.mastNo = s.firstReefs s.mastNo := by
    simp only [State.firstReefs]
    congr 1
    funext k
    by_cases own : k = s.cur.ctx
    · subst own
      exact congrArg s.runs ((congrArg Context.launch (setCtx_ctx s c)).trans launch)
    · exact congrArg (fun c : Context => s.runs c.launch) (setCtx_ctxAt_other s c own)
  have free : (s.setCtx c).freeReefs s.mastNo = s.freeReefs s.mastNo :=
    congrArg (16 - ·) (heldReefs_set s.ctxs s.cur.ctx s.mastNo core grant)
  show (if ((s.setCtx c).firstReefs s.mastNo).isSome then 0 else (s.setCtx c).freeReefs s.mastNo) = _
  rw [first, free]
  rfl

/-- The context behind a new width. -/
def Context.renewed (c : Context) (vl : Nat) : Context := { c with vpend := false }.clearV vl

/-- What a new width of the acting context leaves, and what it clears. -/
def widened (width : Nat) (s u : State) : Prop :=
  u.ctx.vl = width ∧ u.ctx.vpend = false ∧ u.ctx.v = List.replicate 16 (List.replicate width 0) ∧
    u.ctx.m = List.replicate 4 (List.replicate width false) ∧ sameMemory s u ∧ u.pc = s.pc + 4 ∧
    ∀ k, k ≠ s.cur.ctx → (u.ctxAt k).vgrant = (s.ctxAt k).vgrant

/-- What a result changes of the acting context. -/
theorem result_ctx (n : Nat) (d : Reg) (v : Word) : { (s.result n d v).ctx with file := s.ctx.file, pc := s.ctx.pc } = s.ctx := by
  obtain ⟨-, -, -, -, -, -, -, own, -⟩ := result_wrote s n d v
  exact own

theorem result_ctxAt_other (n : Nat) (d : Reg) (v : Word) {k : Nat} (other : k ≠ s.cur.ctx) : (s.result n d v).ctxAt k = s.ctxAt k := by
  obtain ⟨-, -, -, -, -, others, -⟩ := result_wrote s n d v
  exact others k other

/-- A state that differs from `s` in the grants of the acting context and in who is asked to yield. -/
structure regranted (s t : State) : Prop where
  cur : t.cur = s.cur
  mem : t.mem = s.mem
  pc : t.ctx.pc = s.ctx.pc
  others : ∀ k, k ≠ s.cur.ctx → (t.ctxAt k).vgrant = (s.ctxAt k).vgrant

theorem regranted.refl (s : State) : regranted s s := ⟨rfl, rfl, rfl, fun _ _ => rfl⟩

theorem regranted.trans {t u : State} (first : regranted s t) (second : regranted t u) : regranted s u :=
  ⟨second.cur.trans first.cur, second.mem.trans first.mem, second.pc.trans first.pc,
    fun k other => (second.others k (by rw [first.cur]; exact other)).trans (first.others k other)⟩

theorem regranted_setCtx {c : Context} (pc : c.pc = s.ctx.pc) : regranted s (s.setCtx c) :=
  ⟨rfl, rfl, by rw [setCtx_ctx, pc], fun _ other => by rw [setCtx_ctxAt_other s c other]⟩

theorem regranted_growTo (w : Nat) : regranted s (s.growTo w) := by
  obtain ⟨mem, cur, -⟩ := growTo_rest (s := s) w
  exact ⟨cur, mem, by rw [growTo_ctx], fun _ other => growTo_vgrant_other w other⟩

/-- An instruction ends that has changed grants, with a new width, and answers. -/
theorem renewed_result {t : State} (same : regranted s t) (width : Nat) (d : Reg) (w : Word) :
    let u := (t.setCtx (t.ctx.renewed width)).result 1 d w
    widened width s u ∧ u.ctx.vgrant = t.ctx.vgrant ∧ u.ctx.vwant = t.ctx.vwant := by
  intro u
  obtain ⟨cur, mem, pc, others⟩ := same.trans (regranted_setCtx (s := t) (c := t.ctx.renewed width) rfl)
  have ctx := result_ctx (s := t.setCtx (t.ctx.renewed width)) 1 d w
  rw [setCtx_ctx] at ctx
  refine ⟨⟨(congrArg Context.vl ctx :), (congrArg Context.vpend ctx :), (congrArg Context.v ctx :), (congrArg Context.m ctx :), fun a => ?_, ?_, fun k other => ?_⟩,
    (congrArg Context.vgrant ctx :), (congrArg Context.vwant ctx :)⟩
  · rw [result_mem, mem]
  · exact (result_pc 1 d w).trans (congrArg (· + 4) pc)
  · rw [result_ctxAt_other 1 d w (by rw [cur]; exact other), others k other]

/-- The grant of VCLAIM. -/
def State.claimed (s : State) (w : Nat) : State :=
  let t := s.setCtx { s.ctx with vwant := w }
  if w ≤ t.ctx.vgrant then t.setCtx { t.ctx with vgrant := w } else t.growTo w

theorem vclaim_eq (d : Reg) (n : Src) :
    let t := s.claimed (Nat.min 256 (up16 (s.src n).toNat))
    exec (.vclaim d n) s = .next ((t.setCtx (t.ctx.renewed t.ctx.vgrant)).result 1 d (Word.of t.ctx.vgrant)) := by
  intro t
  have own : (t.setCtx (t.ctx.renewed t.ctx.vgrant)).ctx.vgrant = t.ctx.vgrant := by rw [setCtx_ctx]; rfl
  show Host.Outcome.next ((t.setCtx (t.ctx.renewed t.ctx.vgrant)).result 1 d (Word.of (t.setCtx (t.ctx.renewed t.ctx.vgrant)).ctx.vgrant)) = _
  rw [own]

theorem claimed_end (w : Nat) : regranted s (s.claimed w) ∧ (s.claimed w).ctx.vwant = w ∧
    (s.claimed w).ctx.vgrant = if w ≤ s.ctx.vgrant then w else s.grown s.ctx.vgrant w := by
  let t := s.setCtx { s.ctx with vwant := w }
  have wants : regranted s t := regranted_setCtx rfl
  have ctx : t.ctx = { s.ctx with vwant := w } := setCtx_ctx s _
  by_cases less : w ≤ s.ctx.vgrant
  · have ends : s.claimed w = t.setCtx { t.ctx with vgrant := w } := if_pos (by rw [ctx]; exact less)
    rw [ends, if_pos less]
    exact ⟨wants.trans (regranted_setCtx rfl), (congrArg Context.vwant (setCtx_ctx t _)).trans (congrArg Context.vwant ctx :),
      (congrArg Context.vgrant (setCtx_ctx t _) :)⟩
  · have ends : s.claimed w = t.growTo w := if_neg (by rw [ctx]; exact less)
    have reefs : t.growReefs = s.growReefs := growReefs_setCtx rfl rfl rfl
    have grows : (t.growTo w).ctx = { t.ctx with vgrant := t.grown t.ctx.vgrant w } := growTo_ctx w
    have lanes : t.grown t.ctx.vgrant w = s.grown s.ctx.vgrant w := by rw [ctx]; simp only [State.grown, reefs]
    rw [ends, if_neg less]
    exact ⟨wants.trans (regranted_growTo w), (congrArg Context.vwant grows).trans (congrArg Context.vwant ctx :),
      (congrArg Context.vgrant grows).trans lanes⟩

theorem vclaim_end (d : Reg) (n : Src) : ∃ u, exec (.vclaim d n) s = .next u ∧
    u.ctx.vgrant = (if Nat.min 256 (up16 (s.src n).toNat) ≤ s.ctx.vgrant then Nat.min 256 (up16 (s.src n).toNat)
      else s.grown s.ctx.vgrant (Nat.min 256 (up16 (s.src n).toNat))) ∧
    u.ctx.vwant = Nat.min 256 (up16 (s.src n).toNat) ∧ widened u.ctx.vgrant s u ∧ u.reg d = (if d = .g 0 then 0 else Word.of u.ctx.vgrant) := by
  refine ⟨_, vclaim_eq d n, ?_⟩
  generalize Nat.min 256 (up16 (s.src n).toNat) = w
  obtain ⟨same, wants, grant⟩ := claimed_end (s := s) w
  obtain ⟨wide, vgrant, vwant⟩ := renewed_result same (s.claimed w).ctx.vgrant d (Word.of (s.claimed w).ctx.vgrant)
  refine ⟨vgrant.trans grant, vwant.trans wants, ?_, ?_⟩
  · rw [vgrant]; exact wide
  · rw [vgrant]; exact result_reg_same 1 d _

/-- The grant of VREN. -/
def State.renewedGrant (s : State) : State :=
  if s.ctx.vpend && 32 ≤ s.ctx.vgrant then s.setCtx { s.ctx with vgrant := 16 * ((s.ctx.vgrant + 31) / 32) }
  else if s.ctx.vgrant < s.ctx.vwant then s.growTo s.ctx.vwant else s

theorem vren_eq (d : Reg) (n : Src) :
    let t := s.renewedGrant
    let width := if (s.src n).toNat = 0 then t.ctx.vgrant else Nat.min (s.src n).toNat t.ctx.vgrant
    exec (.vren d n) s = .next ((t.setCtx (t.ctx.renewed width)).result 1 d (Word.of width)) := rfl

theorem renewedGrant_end : regranted s s.renewedGrant ∧
    s.renewedGrant.ctx.vgrant = (if s.ctx.vpend = true ∧ 32 ≤ s.ctx.vgrant then 16 * ((s.ctx.vgrant + 31) / 32)
      else if s.ctx.vgrant < s.ctx.vwant then s.grown s.ctx.vgrant s.ctx.vwant else s.ctx.vgrant) := by
  by_cases halves : s.ctx.vpend = true ∧ 32 ≤ s.ctx.vgrant
  · have ends : s.renewedGrant = s.setCtx { s.ctx with vgrant := 16 * ((s.ctx.vgrant + 31) / 32) } := if_pos (by simpa using halves)
    rw [ends, if_pos halves, setCtx_ctx]
    exact ⟨regranted_setCtx rfl, rfl⟩
  · have other : s.renewedGrant = if s.ctx.vgrant < s.ctx.vwant then s.growTo s.ctx.vwant else s := if_neg (by simpa using halves)
    rw [other, if_neg halves]
    split
    · exact ⟨regranted_growTo _, by rw [growTo_ctx]⟩
    · exact ⟨.refl s, rfl⟩

/-! ### VREDQ -/

theorem endAwait_sb (m : Nat) (w : SbWaiter) (k : Nat) : ((s.endAwait m w).mastAt k).sb = (s.mastAt k).sb := by
  dsimp only [State.endAwait]
  split
  · by_cases own : k = m
    · rw [own, putMast_mastAt_same]
    · rw [putMast_mastAt_other s m _ own]
  · rfl

theorem tookEntry_end : sameProgram s s.tookEntry ∧ s.tookEntry.mast.sb = s.mast.sb := by
  obtain ⟨ms, only⟩ := endAwait_only (s := s) s.mastNo (.issue s.cur.ctx)
  have cur : s.tookEntry.cur = s.cur := by rw [State.tookEntry, only]
  refine ⟨by rw [State.tookEntry, only]; exact .of_ctx rfl rfl rfl, ?_⟩
  exact (congrArg (fun c : Cur => (s.tookEntry.mastAt (mastOf c.core)).sb) cur).trans (endAwait_sb s.mastNo _ s.mastNo)

theorem vredq_of_nothing {t : VTy} {d c : Reg} {q : Fin 32} {r : Ring} (lanes : s.ctx.vl ≠ 0) (ring : s.mast.ringOf s.cur.launch q.val = some r)
    (whole : r.size % t.size = 0) (zero : s.reg c = 0) (fresh : s.ctx.await = .none) (settled : s.settled = true) (entry : s.myEntry ≠ none) :
    exec (.vredq t d q c) s = .next (s.tookEntry.advance 1) := by
  obtain ⟨e, found⟩ := Option.ne_none_iff_exists'.mp entry
  refine finish_ok (ok_then (needVl_some lanes) ?_)
  rw [ring]
  refine need_then (by simpa using whole) ?_
  rw [fresh]
  refine need_then settled ?_
  rw [found]
  exact if_pos ((tookEntry_end.1.regs c).trans zero)

theorem vredq_of_counted {t : VTy} {d c : Reg} {q : Fin 32} {r : Ring} {e : Nat} (lanes : s.ctx.vl ≠ 0)
    (ring : s.mast.ringOf s.cur.launch q.val = some r) (whole : r.size % t.size = 0) (zero : s.reg c = 0) (awaits : s.ctx.await = .vredq e t d q c) :
    exec (.vredq t d q c) s = .next ((s.setMast (s.mast.retire e)).advance 1) := by
  refine finish_ok (ok_then (needVl_some lanes) ?_)
  rw [ring]
  refine need_then (by simpa using whole) ?_
  rw [awaits]
  exact need_then (by simpa using zero) rfl

/-- Corrects the doubles of some runs of bytes. -/
def State.corrects (s : State) (rs : List (Nat × Nat × Nat)) : State := rs.foldl (fun s p => s.correct p.1 p.2.2) s

theorem corrects_only (rs : List (Nat × Nat × Nat)) :
    sameProgram s (s.corrects rs) ∧ (s.corrects rs).mem = s.mem ∧ (s.corrects rs).cur = s.cur ∧ (s.corrects rs).mast = s.mast := by
  induction rs generalizing s with
  | nil => exact ⟨.refl s, rfl, rfl, rfl⟩
  | cons p rs ih =>
    obtain ⟨same, mem, cur, mast⟩ := ih (s := s.correct p.1 p.2.2)
    have first : sameProgram s (s.correct p.1 p.2.2) := ⟨correct_pc s _ _, correct_reg s _ _, fun _ => by rw [correct_mem]⟩
    refine ⟨first.trans same, mem.trans (correct_mem s _ _), cur.trans (correct_cur s _ _), mast.trans ?_⟩
    obtain ⟨e, ts, only⟩ := correct_only (s := s) p.1 p.2.2
    rw [only]
    rfl

/-- The sum of the published slot of a ring, added to the register `d`. -/
def State.slotSum (s : State) (t : VTy) (d : Reg) (r : Ring) : Nat :=
  laneAdd t ((s.reg d).toNat % 2 ^ t.ety.width) (tree (laneAdd t) 17 (elems (r.size / t.size) t.size
    ((s.bankRuns (r.slotAddr r.take) r.size).flatMap fun p => Memory.read s.mem p.1 p.2.2)))

/-- The ring after one slot has been taken and released. -/
def Ring.taken1 (r : Ring) : Ring := { r with take := r.take + 1 }.release [r.take]

/-- The state before the registers of one VREDQ slot are written. -/
def State.slotTaken (s : State) (e : Nat) (q : Fin 32) (r : Ring) : State :=
  let s := s.corrects (s.bankRuns (r.slotAddr r.take) r.size)
  s.setMast ((s.mast.setRing s.cur.launch q.val r.taken1).rearm e q.val (r.taken1.ivals s.mast false q.val r.taken1.take 0))

/-- The state behind one VREDQ slot. -/
def State.summed (s : State) (e : Nat) (t : VTy) (d : Reg) (q : Fin 32) (c : Reg) (r : Ring) : State :=
  let s' := (s.slotTaken e q r).setReg d (t.ety.toReg (canonical t (s.slotSum t d r)))
  s'.setReg c (s'.reg c - 1)

theorem slotReadable_of_free {q : Fin 32} {r : Ring} {e : Nat} (ring : s.mast.ringOf s.cur.launch q.val = some r) (published : r.take < r.pub)
    (free : s.mast.rangeFree (s.mast.sb.filter fun x => decide (x.id ≠ e)) false (r.off r.take) r.size = true) :
    s.slotReadable q (some e) = true := by
  have own : (fun x : SbEntry => decide (some x.id ≠ some e)) = fun x => decide (x.id ≠ e) := by funext x; simp
  simp only [State.slotReadable, ring, own, free, published, decide_true, Bool.and_true]

theorem vredqSlot_of_sound {t : VTy} {d c : Reg} {q : Fin 32} {r : Ring} {e : Nat} (ring : s.mast.ringOf s.cur.launch q.val = some r)
    (count : s.reg c ≠ 0) (readable : s.slotReadable q (some e) = true)
    (sound : ∀ x ∈ s.bankRuns (r.slotAddr r.take) r.size, s.badDouble x.1 x.2.2 = none) :
    s.vredqSlot e t d q c = .ok (s.summed e t d q c r) := by
  have none : ((s.bankRuns (r.slotAddr r.take) r.size).findSome? fun p =>
      (s.badDouble p.1 p.2.2).map fun k => r.slotAddr r.take + Word.of (p.2.1 + (8 * k - p.1))) = .none := by
    rw [List.findSome?_eq_none_iff]
    intro x mem
    rw [sound x mem]
    rfl
  simp only [State.vredqSlot, ring]
  refine need_then (Bool.and_eq_true_iff.mpr ⟨decide_eq_true count, readable⟩) ?_
  rw [none]
  rfl

theorem ringOf_setRing (m : Mast) (launch q : Nat) (r : Ring) : (m.setRing launch q r).ringOf launch q = some r := by
  simp [Mast.ringOf, Mast.setRing]

theorem summed_end (e : Nat) (t : VTy) {d c : Reg} (q : Fin 32) (r : Ring) (other : c ≠ d) (named : c ≠ .g 0) :
    let u := s.summed e t d q c r
    u.reg c = s.reg c - 1 ∧ u.reg d = (if d = .g 0 then 0 else t.ety.toReg (canonical t (s.slotSum t d r))) ∧ sameMemory s u ∧
      u.mast.ringOf s.cur.launch q.val = some r.taken1 := by
  intro u
  obtain ⟨same, mem, cur, mast⟩ := corrects_only (s := s) (s.bankRuns (r.slotAddr r.take) r.size)
  have taken : sameProgram s (s.slotTaken e q r) := same.trans (.of_ctx rfl rfl rfl)
  refine ⟨?_, ?_, fun a => ?_, ?_⟩
  · simp only [u, State.summed, reg_setReg, if_pos trivial, if_neg named, if_neg other, taken.regs c]
  · simp only [u, State.summed, reg_setReg, if_neg other.symm, if_pos trivial]
  · simp only [u, State.summed, setReg_mem]
    exact taken.memory a
  · simp only [u, State.summed, setReg_mast, State.slotTaken, setMast_mast, cur]
    exact ringOf_setRing _ _ _ _

end

/-- Settles O29: a grant is one change of the acting context, a reduction one tree over what it reads, a VREDQ slot one addition. -/
theorem laneGrantsAndReductionsComplete : Obligations.LaneGrantsAndReductionsComplete := by
  refine ⟨fun s d n => ?_, fun s c t d a n bs lanes => ⟨fun none => ⟨?_, ?_⟩, fun some range read => ⟨?_, ?_⟩⟩,
    fun s t d c q r e lanes ring whole zero => ⟨fun fresh settled entry => ?_, fun awaits => ?_⟩,
    fun s t d c q r e => ?_⟩
  · intro c w grown cleared
    refine ⟨?_, ?_, ?_⟩
    · exact vclaim_end d n
    · obtain ⟨same, grant⟩ := renewedGrant_end (s := s)
      obtain ⟨wide, vgrant, -⟩ := renewed_result same (if (s.src n).toNat = 0 then s.renewedGrant.ctx.vgrant
        else Nat.min (s.src n).toNat s.renewedGrant.ctx.vgrant) d (Word.of (if (s.src n).toNat = 0 then s.renewedGrant.ctx.vgrant
        else Nat.min (s.src n).toNat s.renewedGrant.ctx.vgrant))
      refine ⟨_, vren_eq d n, vgrant.trans grant, ?_, ?_⟩
      · simp only [vgrant]; exact wide
      · rw [wide.1]; exact result_reg_same 1 d _
    · let c := { s.ctx with vgrant := 0, vwant := 0, vpend := false }.clearV 0
      obtain ⟨pc, regs, memory, only, ctx⟩ := setCtx_advance (s := s) (c := c) rfl rfl rfl 1
      refine ⟨_, rfl, (congrArg Context.vgrant ctx :), (congrArg Context.vwant ctx :), ⟨(congrArg Context.vl ctx :), (congrArg Context.vpend ctx :),
        (congrArg Context.v ctx :), (congrArg Context.m ctx :), memory, pc, fun k other => by rw [only.2 k other]⟩, regs⟩
  · exact ⟨_, finish_ok (ok_then (needVl_some lanes) (if_pos none)), result_wrote s 1 d _⟩
  · exact ⟨_, finish_ok (ok_then (needVl_some lanes) (if_pos none)), result_wrote s 1 d _⟩
  · exact ⟨_, finish_ok (ok_then (needVl_some lanes) ((if_neg some).trans (ok_then range (ok_then read rfl)))), result_wrote c 1 d _⟩
  · exact ⟨_, finish_ok (ok_then (needVl_some lanes) ((if_neg some).trans (ok_then range (ok_then read rfl)))), result_wrote c 1 d _⟩
  · obtain ⟨same, sb⟩ := tookEntry_end (s := s)
    exact ⟨_, vredq_of_nothing lanes ring whole zero fresh settled entry, same.acted 1, sb⟩
  · obtain ⟨pc, regs, memory⟩ := (sameProgram.of_ctx (s := s) (t := s.setMast (s.mast.retire e)) rfl rfl rfl).acted 1
    refine ⟨_, vredq_of_counted lanes ring whole zero awaits, pc, regs, memory, ?_⟩
    rw [advance_mast, setMast_mast]
    rfl
  · intro a off rs awaits waiting runs quiet ring count published free sound other named
    have readable := slotReadable_of_free ring published free
    have ends := vredqSlot_of_sound (t := t) (d := d) ring count readable sound
    have happens : exec .vredqSlot s = .next (a.summed e t d q c r) := by
      show execVredqSlot s = _
      have may : (a.ctx.status = .waiting && a.runs a.cur.launch && !a.deliverable : Bool) = true := by
        rw [runs, quiet, waiting]; rfl
      simp only [execVredqSlot]
      rw [awaits]
      dsimp only
      rw [if_pos may, ends]
      rfl
    obtain ⟨low, high, memory, ringed⟩ := summed_end (s := a) e t q r other named
    exact ⟨_, happens, low, memory, ⟨_, ringed, rfl, fun first clear => by simp [Ring.taken1, Ring.release, first, clear, runOver]⟩, high⟩

end Sys2Proof.Machine
end

section
/-! Special-function requests (R253, R254). -/

namespace Sys2Proof.Machine

section
variable {s : State}

/-- A unit that has its entry waits for none: nothing else of its mast changes. -/
theorem tookEntry_mast : ∃ w, s.tookEntry.mast = { s.mast with sbWait := w } := by
  by_cases waits : (s.mast.sbWait.any fun x => decide (x.2 = .issue s.cur.ctx)) = true
  · have ends : s.tookEntry = s.putMast s.mastNo { s.mast with sbWait := s.mast.sbWait.filter fun x => !(decide (x.2 = .issue s.cur.ctx)) } :=
      if_pos waits
    exact ⟨_, by rw [ends]; exact putMast_mastAt_same s s.mastNo _⟩
  · have ends : s.tookEntry = s := if_neg waits
    exact ⟨s.mast.sbWait, by rw [ends]⟩

theorem tookEntry_cur : s.tookEntry.cur = s.cur := by
  obtain ⟨ms, only⟩ := endAwait_only (s := s) s.mastNo (.issue s.cur.ctx)
  rw [State.tookEntry, only]

theorem aligned_of_rangeCheck {ea : Word} {size n : Nat} (checked : s.rangeCheck ea size n = .ok ()) : ea.toNat % size = 0 := by
  obtain ⟨_, aligned, -⟩ := bind_ok.mp checked
  by_contra odd
  rw [need, if_neg (by simpa using odd)] at aligned
  exact nomatch aligned

theorem special_of_none {f : SfFn} {d : Reg} {a : Word} : s.special f d a 0 = .next (s.advance 1) := rfl

/-- The request that joins the queue. -/
def State.sfRequest (s : State) (f : SfFn) (d a : Word) (k e : Nat) : SfReq := ⟨s.cur.launch, f, bits d 19 0, bits a 19 0, k, e, false, 0⟩

/-- The mast behind a request that has joined its queue. -/
def State.sfJoined (s : State) (f : SfFn) (d a : Word) (k e : Nat) (sh : Bool) : Mast :=
  let m := s.mast
  let en : SbEntry := ⟨e, m.sfCount, 6, s.coreIx, sh, s.cur.launch, m.ivalsOf false (bits a 19 0) (4 * k) ++ m.ivalsOf true (bits d 19 0) (4 * k), 0⟩
  { m.register en with sfCount := m.sfCount + 1, sfQueue := m.sfQueue ++ [s.sfRequest f d a k e] }

theorem special_of_ready {f : SfFn} {d : Reg} {a n : Word} {e : Nat} {sh : Bool} (some : n ≠ 0) (fits : n.toNat ≤ 2 ^ 18)
    (dst : s.rangeCheck (s.reg d) 4 (4 * n.toNat) = .ok ()) (src : s.rangeCheck a 4 (4 * n.toNat) = .ok ())
    (apart : bits a 19 0 = bits (s.reg d) 19 0 ∨ bits a 19 0 + 4 * n.toNat ≤ bits (s.reg d) 19 0 ∨ bits (s.reg d) 19 0 + 4 * n.toNat ≤ bits a 19 0)
    (clear : s.touchesObj (s.reg d) (4 * n.toNat) = false) (settled : s.settled = true) (room : s.mast.sfQueue.length < 64)
    (entry : s.myEntry = .some (e, sh)) :
    ∃ u, s.special f d a n = .next u ∧ acted 1 s u ∧ u.mast.sfQueue = s.mast.sfQueue ++ [s.sfRequest f (s.reg d) a n.toNat e] := by
  obtain ⟨same, -⟩ := tookEntry_end (s := s)
  obtain ⟨w, mast⟩ := tookEntry_mast (s := s)
  let q := s.sfRequest f (s.reg d) a n.toNat e
  have disjoint : (bits a 19 0 = bits (s.reg d) 19 0 || bits a 19 0 + 4 * n.toNat ≤ bits (s.reg d) 19 0 ||
      bits (s.reg d) 19 0 + 4 * n.toNat ≤ bits a 19 0 : Bool) = true := by simpa [or_assoc] using apart
  have ends : s.special f d a n = .next ((s.tookEntry.setMast (s.tookEntry.sfJoined f (s.reg d) a n.toNat e sh)).advance 1) := by
    refine finish_ok ((if_neg some).trans (need_then (by simpa using fits) (need_then (by simpa using aligned_of_rangeCheck dst)
      (need_then (by simpa using aligned_of_rangeCheck src) (ok_then dst (ok_then src (need_then disjoint (need_then (congrArg not clear)
        (need_then (by simp [settled, room]) ?_)))))))))
    rw [entry]
    rfl
  refine ⟨_, ends, (same.trans (.of_ctx rfl rfl rfl)).acted 1, ?_⟩
  rw [advance_mast, setMast_mast, State.sfJoined, mast, State.sfRequest, tookEntry_cur]
  rfl

theorem writes_only (rs : List (Nat × Nat × Nat)) (bs : List Byte) : ∃ m e ts, s.writes rs bs = { s with mem := m, ecc := e, tasks := ts } := by
  induction rs generalizing s with
  | nil => exact ⟨_, _, _, rfl⟩
  | cons r rs ih =>
    obtain ⟨_, _, _, first⟩ := write_rest s r.1 ((bs.drop r.2.1).take r.2.2)
    obtain ⟨m, e, ts, rest⟩ := ih (s := s.write r.1 ((bs.drop r.2.1).take r.2.2))
    exact ⟨m, e, ts, rest.trans (by rw [first])⟩

theorem corrects_rest (rs : List (Nat × Nat × Nat)) : ∃ e ts, s.corrects rs = { s with ecc := e, tasks := ts } := by
  induction rs generalizing s with
  | nil => exact ⟨_, _, rfl⟩
  | cons r rs ih =>
    obtain ⟨_, _, first⟩ := correct_only (s := s) r.1 r.2.2
    obtain ⟨e, ts, rest⟩ := ih (s := s.correct r.1 r.2.2)
    exact ⟨e, ts, rest.trans (by rw [first])⟩

theorem sfChunk_only (mast : Nat) (q : SfReq) : ∃ m e ts, s.sfChunk mast q = { s with mem := m, ecc := e, tasks := ts } := by
  obtain ⟨_, _, read⟩ := corrects_rest (s := s) (s.runsOf mast (q.src + 4 * q.wrote) (4 * Nat.min 32 (q.n - q.wrote)))
  obtain ⟨m, e, ts, written⟩ := writes_only (s := s.corrects (s.runsOf mast (q.src + 4 * q.wrote) (4 * Nat.min 32 (q.n - q.wrote)))) _ _
  exact ⟨m, e, ts, written.trans (by rw [read])⟩

end

/-- Settles O30: a request joins the queue, its head starts, and each retirement writes one chunk. -/
theorem specialFunctionRequestsComplete : Obligations.SpecialFunctionRequestsComplete := by
  refine ⟨fun s d a n e sh => ?_, fun s q rest head => ⟨fun fresh free => ?_, fun started lives => ?_⟩⟩
  · intro k o p x mem
    have both : (s.src n = 0 → ∃ u, s.special x.2 d (s.rc a) (s.src n) = .next u ∧ wentOn 1 s u) ∧
        (s.src n ≠ 0 → k ≤ 2 ^ 18 → s.rangeCheck (s.reg d) 4 (4 * k) = .ok () → s.rangeCheck (s.rc a) 4 (4 * k) = .ok () →
          (o = p ∨ o + 4 * k ≤ p ∨ p + 4 * k ≤ o) → s.touchesObj (s.reg d) (4 * k) = false → s.settled = true →
          s.mast.sfQueue.length < 64 → s.myEntry = some (e, sh) → ∃ u, s.special x.2 d (s.rc a) (s.src n) = .next u ∧ u.pc = s.pc + 4 ∧
            sameRegs s u ∧ sameMemory s u ∧ u.mast.sfQueue = s.mast.sfQueue ++ [⟨s.cur.launch, x.2, p, o, k, e, false, 0⟩]) := by
      refine ⟨fun none => ⟨_, by rw [none]; exact special_of_none, advance_wentOn s 1⟩,
        fun some fits dst src apart clear settled room entry => ?_⟩
      obtain ⟨u, ends, ⟨pc, regs, memory⟩, queue⟩ := special_of_ready (f := x.2) some fits dst src apart clear settled room entry
      exact ⟨u, ends, pc, regs, memory, queue⟩
    simp only [List.mem_cons, List.not_mem_nil, or_false] at mem
    obtain rfl | rfl | rfl | rfl | rfl := mem <;> exact both
  · have may : (!q.started && !(s.mastAt s.place.a).opBlocked q.entry []) = true := by rw [fresh, free]; rfl
    refine ⟨s.putMast s.place.a { s.mastAt s.place.a with sfQueue := { q with started := true } :: rest }, ?_, by rw [putMast_mastAt_same], fun _ => rfl⟩
    show execSfStart s = _
    simp only [execSfStart, head]
    exact if_pos may
  · intro k r out
    have may : (q.started && !(s.launchAt q.launch).killed) = true := by rw [started, lives]; rfl
    let t := s.sfChunk s.place.a q
    let m := t.mastAt s.place.a
    have ends : exec .sfRetire s = .next (t.putMast s.place.a (if q.n ≤ q.wrote + 32 then { m.retire q.entry with sfQueue := rest }
        else { m with sfQueue := { q with wrote := q.wrote + 32 } :: rest })) := by
      show execSfRetire s = _
      have place : t.place = s.place := by
        obtain ⟨_, _, _, only⟩ := sfChunk_only (s := s) s.place.a q
        exact (congrArg State.place only :)
      simp only [execSfRetire, head]
      rw [if_pos may, place]
    refine ⟨_, ends, ?_, rfl⟩
    rw [putMast_mastAt_same]
    split <;> rfl

end Sys2Proof.Machine
end

section
/-! Rings and banks (R118 to R134): one lemma for each instruction that says its end state where its checks pass, and O31 from them. -/

namespace Sys2Proof.Machine

variable {s : State}

theorem setMast_sameProgram (m : Mast) : sameProgram s (s.setMast m) := .of_ctx rfl rfl rfl

/-! ### Rings -/

@[simp] theorem putRing_ringOf (q : Fin 32) (r : Ring) : (s.putRing q r).mast.ringOf s.cur.launch q.val = some r := by
  rw [State.putRing, setMast_mast, ringOf_setRing]

theorem ringFor_of_count {q : Fin 32} {r : Ring} {n : Nat} (ring : s.mast.ringOf s.cur.launch q.val = some r) (fits : n ≤ r.count) :
    s.ringFor q n = .ok r := by
  rw [State.ringFor, ring]
  exact if_neg (Nat.not_lt.mpr fits)

theorem qsetClr_of_quiet {q : Fin 32} (granted : q.val < s.grant.rings) (written : s.writesDone = true) (quiet : s.quiet q.val = true) :
    exec (.qsetClr q) s = .next ((s.setMast { s.mast with rings := s.mast.rings.erase (ringKey s.cur.launch q.val) }).advance 2) :=
  finish_ok (need_then (decide_eq_true granted) (need_then (Bool.and_eq_true_iff.mpr ⟨written, quiet⟩) rfl))

theorem qset_of_quiet {q : Fin 32} {base : RcSrc} {lg : Fin 9} {size : BitVec 11} (granted : q.val < s.grant.rings)
    (written : s.writesDone = true) (quiet : s.quiet q.val = true) (aligned : (s.rc base).toNat % 32 = 0) (bank : space (s.rc base) = 0x9)
    (zeros : zeroFieldsOk (s.rc base) = true) (fits : bits (s.rc base) 19 0 + 32 * size.toNat * 2 ^ lg.val ≤ 2 ^ 20)
    (free : s.mast.rangeFree s.mast.sb true (bits (s.rc base) 19 0) (32 * size.toNat * 2 ^ lg.val) = true)
    (held : ∀ i, i < 16 → i * 65536 < bits (s.rc base) 19 0 + 32 * size.toNat * 2 ^ lg.val → bits (s.rc base) 19 0 < (i + 1) * 65536 →
      s.mast.holds s.cur.launch i = true ∧ s.mast.isShadow i = false ∧ s.mast.pairOf i = none) :
    exec (.qset q base lg size) s = .next ((s.setMast (s.mast.setRing s.cur.launch q.val
      (Ring.fresh (bits (s.rc base) 19 0) (32 * size.toNat) (2 ^ lg.val)))).advance 2) := by
  refine finish_ok (need_then (decide_eq_true granted) (need_then (decide_eq_true aligned) (need_then ?_ (need_then ?_
    (need_then (Bool.and_eq_true_iff.mpr ⟨Bool.and_eq_true_iff.mpr ⟨written, quiet⟩, free⟩) rfl)))))
  · exact Bool.and_eq_true_iff.mpr ⟨Bool.and_eq_true_iff.mpr ⟨decide_eq_true bank, zeros⟩, decide_eq_true fits⟩
  · refine List.all_eq_true.mpr fun i mem => ?_
    obtain ⟨small, low, high⟩ : i < 16 ∧ i * 65536 < bits (s.rc base) 19 0 + 32 * size.toNat * 2 ^ lg.val ∧
      bits (s.rc base) 19 0 < (i + 1) * 65536 := by simpa using mem
    obtain ⟨holds, shadow, single⟩ := held i small low high
    simp [holds, shadow, single]

/-- The end of a ring instruction that replaces its ring and writes no register. -/
theorem putRing_acted (q : Fin 32) (r : Ring) :
    let u := (s.putRing q r).advance 1
    u.pc = s.pc + 4 ∧ sameRegs s u ∧ sameMemory s u ∧ u.mast.ringOf s.cur.launch q.val = some r := by
  obtain ⟨pc, regs, memory⟩ := (setMast_sameProgram (s := s) (s.mast.setRing s.cur.launch q.val r)).acted 1
  exact ⟨pc, regs, memory, putRing_ringOf q r⟩

/-- The end of one that answers in a register. -/
theorem putRing_result (q : Fin 32) (r : Ring) (d : Reg) (v : Word) :
    let u := (s.putRing q r).result 1 d v
    u.pc = s.pc + 4 ∧ sameMemory s u ∧ u.reg d = (if d = .g 0 then 0 else v) ∧ u.mast.ringOf s.cur.launch q.val = some r := by
  obtain ⟨pc, reg, -, memory⟩ := (setMast_sameProgram (s := s) (s.mast.setRing s.cur.launch q.val r)).answered 1 d v
  exact ⟨pc, memory, reg, by rw [result_mast, putRing_ringOf]⟩

/-- A ring after QWAIT takes `k` slots. -/
def Ring.takes (r : Ring) (k ctx : Nat) : Ring :=
  { r with take := r.take + k, coreTaken := r.coreTaken ++ (List.range k).map (r.take + ·), waitTake := leaveWaiters r.waitTake ctx }

/-- A ring after QRESV reserves `k` slots. -/
def Ring.reserves (r : Ring) (k ctx : Nat) : Ring := { r with resv := r.resv + k, waitResv := leaveWaiters r.waitResv ctx }

theorem qwait_of_published {d : Reg} {q : Fin 32} {n : Src} {r : Ring} (ring : s.mast.ringOf s.cur.launch q.val = some r)
    (fits : (s.src n).toNat ≤ r.count) (published : (s.src n).toNat ≤ r.pub - r.take)
    (first : firstServed r.waitTake s.cur.ctx r.canTake = true) :
    exec (.qwait d q n) s = .next ((s.putRing q (r.takes (s.src n).toNat s.cur.ctx)).result 1 d (r.slotAddr r.take)) :=
  finish_ok (ok_then (ringFor_of_count ring fits) (if_pos
    (Bool.or_eq_true_iff.mpr (.inr (Bool.and_eq_true_iff.mpr ⟨decide_eq_true published, first⟩)))))

theorem qresv_of_free {d : Reg} {q : Fin 32} {n : Src} {r : Ring} (ring : s.mast.ringOf s.cur.launch q.val = some r)
    (fits : (s.src n).toNat ≤ r.count) (room : r.resv + (s.src n).toNat - r.rel ≤ r.count)
    (first : firstServed r.waitResv s.cur.ctx r.canResv = true) :
    exec (.qresv d q n) s = .next ((s.putRing q (r.reserves (s.src n).toNat s.cur.ctx)).result 1 d (r.slotAddr r.resv)) :=
  finish_ok (ok_then (ringFor_of_count ring fits) (if_pos
    (Bool.or_eq_true_iff.mpr (.inr (Bool.and_eq_true_iff.mpr ⟨decide_eq_true room, first⟩)))))

theorem qadvP_of_reserved {q : Fin 32} {n : Src} {r : Ring} (ring : s.mast.ringOf s.cur.launch q.val = some r)
    (fits : (s.src n).toNat ≤ r.count) (reserved : (s.src n).toNat ≤ r.resv - r.pub) (early : r.pubEarly = []) (drained : s.bankDrained = true) :
    exec (.qadvP q n) s = .next ((s.putRing q { r with pub := r.pub + (s.src n).toNat }).advance 1) := by
  refine finish_ok (ok_then (ringFor_of_count ring fits) (need_then (decide_eq_true reserved) (need_then drained ?_)))
  obtain ⟨_, _, _, _, _, _, _, _, _, _, _, _⟩ := r
  cases early
  rfl

theorem qadvC_of_taken {q : Fin 32} {n : Src} {r : Ring} (ring : s.mast.ringOf s.cur.launch q.val = some r)
    (fits : (s.src n).toNat ≤ r.count) (taken : (s.src n).toNat ≤ r.coreTaken.length) (released : s.released = true) :
    exec (.qadvC q n) s = .next ((s.putRing q
      { r.release (r.coreTaken.take (s.src n).toNat) with coreTaken := r.coreTaken.drop (s.src n).toNat }).advance 1) :=
  finish_ok (ok_then (ringFor_of_count ring fits) (need_then (decide_eq_true taken) (need_then released rfl)))

/-! ### Banks -/

theorem setBank_sameProgram (k : Nat) (b : Bank) : sameProgram s (s.setBank k b) := setMast_sameProgram _

@[simp] theorem setBank_get (k : Nat) (b : Bank) : (s.setBank k b).mast.banks.get k Bank.init = b := by
  rw [State.setBank, setMast_mast, AMap.get_set_same]

/-- Disarming an injection changes the arming bit of binj alone. -/
theorem disarm_sameProgram (k : Nat) : sameProgram s (s.disarm k) := by
  refine .of_fields rfl rfl rfl ?_ rfl
  exact AMap.get_map_field Task.globals _ (fun p => by split <;> rfl) (fun p => by split <;> rfl) _ _ _

theorem bclaim_of_none {d : Reg} {pin : Bool}
    (none : ((List.range 16).find? fun k => s.grant.banks.contains k && !s.mast.holds s.cur.launch k) = none) :
    exec (.bclaim d pin) s = .next (s.result 1 d 0) := by
  refine finish_ok ?_
  rw [none]

/-- What BCLAIM makes of a bank before it claims it. -/
def State.scrubbed (s : State) (k : Nat) : State :=
  (s.disarm k).scrub (bankKey s.mastNo (k * 65536)) (bankKey s.mastNo ((k + 1) * 65536))

theorem bclaim_of_free {d : Reg} {pin : Bool} {k : Nat}
    (free : ((List.range 16).find? fun k => s.grant.banks.contains k && !s.mast.holds s.cur.launch k) = some k) (written : s.writesDone = true) :
    exec (.bclaim d pin) s =
      .next (((s.scrubbed k).setBank k { holder := some s.cur.launch, pinned := pin, table := 0, type := 4 }).result 1 d (handleOf k)) := by
  refine finish_ok ?_
  rw [free]
  exact need_then written rfl

theorem bfree_of_quiet {h : RcSrc} {k : Nat} (named : s.handle (s.rc h) = .ok k) (rings : s.mast.ringOver s.cur.launch k = false)
    (paired : s.mast.paired k = false) (armed : s.mast.armedIn k = false) (written : s.writesDone = true) (quiet : s.bankQuiet k = true) :
    exec (.bfree h) s = .next (((s.disarm k).setBank k { s.bank k with holder := none, pinned := false }).advance 1) :=
  finish_ok (ok_then named (need_then (by simp [rings, paired, armed]) (need_then (Bool.and_eq_true_iff.mpr ⟨written, quiet⟩) rfl)))

theorem bfmt_of_idle {h : RcSrc} {fmt : Src} {k : Nat} (named : s.handle (s.rc h) = .ok k) (zeros : bits (s.src fmt) 63 8 = 0)
    (known : bits (s.src fmt) 3 0 < 0xE) (table : bits (s.src fmt) 3 0 < 0xC ∨ s.grant.ctabs.contains (bits (s.src fmt) 7 4) = true)
    (written : s.writesDone = true) (idle : s.mast.bankBusy (s.mast.fmtBank k) = false) :
    exec (.bfmt h fmt) s = .next ((s.setBank (s.mast.fmtBank k)
      { s.bank (s.mast.fmtBank k) with table := bits (s.src fmt) 7 4, type := bits (s.src fmt) 3 0 }).advance 1) :=
  finish_ok (ok_then named (need_then (by simp [zeros, known]) (need_then (Bool.or_eq_true_iff.mpr (table.imp_left decide_eq_true))
    (need_then (by simp [written, idle]) rfl))))

theorem bfmtRd_value (d : Reg) {h : RcSrc} {k : Nat} (named : s.handle (s.rc h) = .ok k) :
    exec (.bfmtRd d h) s = .next (s.result 1 d (Word.of ((if s.mast.paired k then 512 else 0) +
      (if (s.bank (s.mast.fmtBank k)).pinned then 256 else 0) + 16 * (s.bank (s.mast.fmtBank k)).table + (s.bank (s.mast.fmtBank k)).type))) :=
  finish_ok (ok_then named rfl)

/-- What BPAIR asks of the object that it names. -/
structure pairBarrier (s : State) (a : Word) (front shadow : Nat) : Prop where
  aligned : a.toNat % 32 = 0
  bank : space a = 0x9
  zeros : zeroFieldsOk a = true
  holds : s.mast.holds s.cur.launch (bits a 19 16) = true
  notFront : bits a 19 16 ≠ front
  notShadow : bits a 19 16 ≠ shadow
  reached : s.mast.isShadow (bits a 19 16) = false

theorem bpair_of_free {d : Reg} {h h2 : RcSrc} {k j : Nat} (front : s.handle (s.rc h) = .ok k) (shadow : s.handle (s.rc h2) = .ok j)
    (apart : k ≠ j) (single : s.mast.paired k = false) (single' : s.mast.paired j = false) (rings : s.mast.ringOver s.cur.launch k = false)
    (rings' : s.mast.ringOver s.cur.launch j = false) (barrier : pairBarrier s (s.reg d) k j) (written : s.writesDone = true)
    (idle : s.mast.bankBusy j = false) :
    exec (.bpair d h h2) s = .next ((s.setMast { s.mast with pairs := s.mast.pairs ++
      [{ front := k, shadow := j, bar := bits (s.reg d) 19 0, swapped := false, due := none, late := [] }] }).advance 1) := by
  obtain ⟨aligned, bank, zeros, holds, notFront, notShadow, reached⟩ := barrier
  refine finish_ok (ok_then front (ok_then shadow (need_then ?_ (need_then (decide_eq_true aligned) (need_then ?_ (need_then ?_
    (need_then ?_ rfl)))))))
  · simp [apart, single, single', rings, rings']
  · simp [bank, zeros, holds, notFront, notShadow]
  · simp [reached]
  · simp [written, idle]

theorem bpairClr_of_quiet {h : RcSrc} {k : Nat} {p : Pair} (named : s.handle (s.rc h) = .ok k) (pair : s.mast.pairOf k = some p)
    (written : s.writesDone = true) (front : s.bankQuiet p.front = true) (shadow : s.bankQuiet p.shadow = true) (due : p.due = none) :
    exec (.bpairClr h) s = .next ((s.setMast { s.mast with pairs := s.mast.pairs.filter fun q => decide (q.front ≠ k) }).advance 1) := by
  refine finish_ok (ok_then named ?_)
  rw [pair]
  exact need_then (by simp [written, front, shadow, due]) rfl

/-- Settles O31, an instruction at a time: rings first, then banks. -/
theorem ringAndBankInstructionsComplete : Obligations.RingAndBankInstructionsComplete := by
  unfold Obligations.RingAndBankInstructionsComplete
  refine ⟨fun s d q n base lg size => ?_, fun s d h h2 fmt pin k j => ?_⟩
  · refine ⟨fun granted written quiet => ⟨?clear, fun aligned bank zeros fits free held => ?define⟩, fun r ring => ⟨?head, fun fits =>
      ⟨fun published first => ?take, fun room first => ?reserve, fun reserved early drained => ?publish, fun taken released => ?release⟩⟩⟩
    case clear =>
      obtain ⟨pc, regs, memory⟩ := (setMast_sameProgram (s := s) _).acted 2
      exact ⟨_, qsetClr_of_quiet granted written quiet, pc, regs, memory, congrArg Mast.rings (setMast_mast s _)⟩
    case define =>
      obtain ⟨pc, regs, memory⟩ := (setMast_sameProgram (s := s) _).acted 2
      exact ⟨_, qset_of_quiet granted written quiet aligned bank zeros fits free held, pc, regs, memory, putRing_ringOf q _⟩
    case head => exact ⟨_, finish_ok (ok_then (ringFor_of_count ring (Nat.zero_le _)) rfl), result_wrote s 1 d _⟩
    case take => exact ⟨_, qwait_of_published ring fits published first, putRing_result q _ d _⟩
    case reserve => exact ⟨_, qresv_of_free ring fits room first, putRing_result q _ d _⟩
    case publish => exact ⟨_, qadvP_of_reserved ring fits reserved early drained, putRing_acted q _⟩
    case release => exact ⟨_, qadvC_of_taken ring fits taken released, putRing_acted q _⟩
  · refine ⟨fun none => ⟨_, bclaim_of_none none, result_wrote s 1 d 0⟩, fun free written => ⟨_, bclaim_of_free free written, ?claim⟩,
      fun named => ⟨fun rings single armed written quiet => ⟨_, bfree_of_quiet named rings single armed written quiet, ?free⟩,
        fun zeros known table written idle => ⟨_, bfmt_of_idle named zeros known table written idle, ?format⟩,
        ⟨_, bfmtRd_value d named, result_wrote s 1 d _⟩,
        fun shadow apart single single' rings rings' aligned bank zeros holds notFront notShadow reached written idle =>
          ⟨_, bpair_of_free named shadow apart single single' rings rings'
            ⟨aligned, bank, zeros, holds, notFront, notShadow, reached⟩ written idle, ?pair⟩,
        fun p pair written front shadow due => ⟨_, bpairClr_of_quiet named pair written front shadow due, ?unpair⟩⟩⟩
    case claim =>
      refine ⟨result_pc _ _ _, result_reg_same _ _ _, ?_, ?_⟩
      · rw [result_mast, setBank_get]
      · exact result_mem _ _ _ _
    case free =>
      refine ⟨((disarm_sameProgram k).trans (setBank_sameProgram k _)).acted 1, ?_⟩
      rw [advance_mast, setBank_get]
    case format =>
      refine ⟨(setBank_sameProgram _ _).acted 1, ?_, ?_⟩ <;> rw [advance_mast, setBank_get]
    case pair => exact ⟨(setMast_sameProgram _).acted 1, congrArg Mast.pairs (setMast_mast s _)⟩
    case unpair => exact ⟨(setMast_sameProgram _).acted 1, congrArg Mast.pairs (setMast_mast s _)⟩

end Sys2Proof.Machine
end

section
/-! Doubles of memory and barrier objects: what a write and a correction leave in each double, and whether it reads as uncorrectable. -/

namespace Sys2Proof.Machine

variable {s : State}

/-! ### Filtered maps -/

theorem AMap.get_filter_kept {α : Type} {f : Nat × α → Bool} {k : Nat} (kept : ∀ p, p.1 = k → f p = true) (m : AMap α) (d : α) :
    AMap.get (m.filter f) k d = m.get k d := by
  induction m with
  | nil => rfl
  | cons p m ih =>
    by_cases own : p.1 = k
    · simp [kept p own, AMap.get, own]
    · by_cases keep : f p = true <;> simp [keep, AMap.get, own, ih]

theorem AMap.has_filter_kept {α : Type} {f : Nat × α → Bool} {k : Nat} (kept : ∀ p, p.1 = k → f p = true) (m : AMap α) :
    AMap.has (m.filter f) k = m.has k := by
  induction m with
  | nil => rfl
  | cons p m ih =>
    by_cases own : p.1 = k
    · simp [kept p own, AMap.has, own]
    · by_cases keep : f p = true <;> simp [keep, AMap.has, own, ih]

theorem AMap.has_filter_gone {α : Type} {f : Nat × α → Bool} {k : Nat} (gone : ∀ p, p.1 = k → f p = false) (m : AMap α) :
    AMap.has (m.filter f) k = false := by
  induction m with
  | nil => rfl
  | cons p m ih =>
    by_cases own : p.1 = k
    · simp [gone p own, ih]
    · by_cases keep : f p = true <;> simp [keep, AMap.has, own, ih]

/-! ### The double at a key -/

/-- Whether the check bits of double `d` say that it is uncorrectable. -/
def badAt (ecc : AMap Bool) (d : Nat) : Bool := ecc.has d && ecc.get d false

theorem badDouble_aligned {k : Nat} (aligned : k % 8 = 0) : s.badDouble k 8 = if badAt s.ecc (k / 8) then some (k / 8) else none := by
  have one : dblKeys k 8 = [k / 8] := by
    have single : (k + 8 - 1) / 8 - k / 8 + 1 = 1 := by omega
    rw [dblKeys, if_neg (by decide), single]
    rfl
  rw [State.badDouble, one, List.find?_singleton]
  rfl

theorem correct_badAt (k n d : Nat) : badAt (s.correct k n).ecc d = badAt s.ecc d := by
  have ecc : (s.correct k n).ecc =
      s.ecc.filter fun p => !(((dblKeys k n).filter fun d => s.ecc.has d && !s.ecc.get d false).contains p.1) := by
    simp only [State.correct, State.countCorrected]
    split <;> [rfl; split <;> rfl]
  rw [ecc]
  by_cases hit : ((dblKeys k n).filter fun d => s.ecc.has d && !s.ecc.get d false).contains d = true
  · have single : s.ecc.get d false = false := by
      simp only [List.contains_eq_mem, List.mem_filter, Bool.and_eq_true, decide_eq_true_eq, Bool.not_eq_true'] at hit
      exact hit.2.2
    rw [badAt, AMap.has_filter_gone (fun p own => by rw [own, hit]; rfl), badAt, single, Bool.and_false, Bool.false_and]
  · have kept : ∀ p : Nat × Bool, p.1 = d →
        (!(((dblKeys k n).filter fun d => s.ecc.has d && !s.ecc.get d false).contains p.1)) = true := fun p own => by rw [own, Bool.eq_false_iff.mpr hit]; rfl
    rw [badAt, AMap.has_filter_kept kept, AMap.get_filter_kept kept, badAt]

/-- No error injection is armed (R130). -/
def disarmed (s : State) : Prop := ∀ t ∈ s.tasks, bit t.2.binj 63 = false

theorem inject_disarmed (quiet : disarmed s) (k n : Nat) : s.inject k n = s := by
  have missed : ∀ t ∈ s.tasks, (t.2.live && decide (mastOf t.2.core = bankKeyMast k) && bit t.2.binj 63 &&
      decide (k < binjKey (bankKeyMast k) t.2.binj + 64) && decide (binjKey (bankKeyMast k) t.2.binj < k + n)) = false := by
    intro t mem
    simp [quiet t mem]
  simp only [State.inject]
  split
  · rfl
  · have none : (s.tasks.filter fun t => t.2.live && decide (mastOf t.2.core = bankKeyMast k) && bit t.2.binj 63 &&
        decide (k < binjKey (bankKeyMast k) t.2.binj + 64) && decide (binjKey (bankKeyMast k) t.2.binj < k + n)) = [] :=
      List.filter_eq_nil_iff.mpr fun t mem => by rw [missed t mem]; exact Bool.false_ne_true
    have same : (s.tasks.map fun t => if (t.2.live && decide (mastOf t.2.core = bankKeyMast k) && bit t.2.binj 63 &&
        decide (k < binjKey (bankKeyMast k) t.2.binj + 64) && decide (binjKey (bankKeyMast k) t.2.binj < k + n))
        then (t.1, { t.2 with binj := setBits t.2.binj 63 63 0 }) else t) = s.tasks := by
      conv_rhs => rw [← List.map_id s.tasks]
      exact List.map_congr_left fun t mem => by rw [missed t mem]; rfl
    rw [none, same]
    rfl

theorem countCorrected_disarmed (quiet : disarmed s) (k n : Nat) : disarmed (s.countCorrected k n) := by
  simp only [State.countCorrected]
  split
  · exact quiet
  · split
    · exact quiet
    · intro t mem
      obtain ⟨p, there, rfl⟩ := List.mem_map.mp mem
      split <;> exact quiet p there

/-- A state whose bytes and check bits a write has replaced. -/
def State.rewritten (s : State) (k : Nat) (bs : List Byte) : State :=
  { s with mem := Memory.write s.mem k bs, ecc := eccAfterWrite s.ecc k bs.length }

theorem write_eq (quiet : disarmed s) (k : Nat) (bs : List Byte) :
    s.write k bs = (s.rewritten k bs).countCorrected k (partialCorrected s.ecc k bs.length) :=
  inject_disarmed (countCorrected_disarmed (s := s.rewritten k bs) quiet _ _) _ _

@[simp] theorem write_disarmed (quiet : disarmed s) (k : Nat) (bs : List Byte) : disarmed (s.write k bs) := by
  rw [write_eq quiet]
  exact countCorrected_disarmed (s := s.rewritten k bs) quiet _ _

@[simp] theorem correct_disarmed (quiet : disarmed s) (k n : Nat) : disarmed (s.correct k n) :=
  countCorrected_disarmed (s := { s with ecc := s.ecc.filter fun p => !(((dblKeys k n).filter fun d => s.ecc.has d && !s.ecc.get d false).contains p.1) }) quiet _ _

theorem write_ecc (quiet : disarmed s) (k : Nat) (bs : List Byte) : (s.write k bs).ecc = eccAfterWrite s.ecc k bs.length := by
  rw [write_eq quiet]
  simp only [State.countCorrected]
  split <;> [rfl; split <;> rfl]

/-- A double that is written whole has fresh check bits; the others keep theirs. -/
theorem setDbl_badAt (quiet : disarmed s) {k : Nat} (aligned : k % 8 = 0) (w : Word) (d : Nat) :
    badAt (s.setDbl k w).ecc d = if d = k / 8 then false else badAt s.ecc d := by
  rw [State.setDbl, write_ecc quiet, toBytes_length, eccAfterWrite]
  split
  · next own =>
    subst own
    rw [badAt, AMap.has_filter_gone, Bool.false_and]
    rintro ⟨d, b⟩ rfl
    have whole : k < 8 * (k / 8) + 8 ∧ 8 * (k / 8) < k + 8 ∧ k ≤ 8 * (k / 8) ∧ 8 * (k / 8) + 8 ≤ k + 8 := by omega
    simp [whole]
  · next other =>
    have kept : ∀ p : Nat × Bool, p.1 = d → (!(decide (k < 8 * p.1 + 8) && decide (8 * p.1 < k + 8) &&
        (!p.2 || (decide (k ≤ 8 * p.1) && decide (8 * p.1 + 8 ≤ k + 8))))) = true := by
      rintro ⟨d, b⟩ rfl
      have apart : ¬ (k < 8 * d + 8 ∧ 8 * d < k + 8) := by omega
      have apart' : (decide (k < 8 * d + 8) && decide (8 * d < k + 8)) = false := by simpa using apart
      rw [apart', Bool.false_and, Bool.not_false]
    rw [badAt, AMap.has_filter_kept kept, AMap.get_filter_kept kept, badAt]

theorem Memory.read_congr {m m' : Memory} {n : Nat} : ∀ {k : Nat}, (∀ a, k ≤ a → a < k + n → m.get a = m'.get a) → m.read k n = m'.read k n := by
  induction n with
  | zero => exact fun _ => rfl
  | succ n ih =>
    intro k same
    rw [Memory.read, Memory.read, same k (Nat.le_refl k) (by omega), ih fun a low high => same a (by omega) (by omega)]

theorem Memory.read_getD {m : Memory} {n i : Nat} (below : i < n) (k : Nat) : (m.read k n).getD i 0 = m.get (k + i) := by
  induction n generalizing k i with
  | zero => exact absurd below (Nat.not_lt_zero i)
  | succ n ih =>
    cases i with
    | zero => rfl
    | succ i => rw [Memory.read, List.getD_cons_succ, ih (Nat.lt_of_succ_lt_succ below), Nat.add_right_comm, Nat.add_assoc]

@[simp] theorem Memory.read_length (m : Memory) (k n : Nat) : (m.read k n).length = n := by
  induction n generalizing k with
  | zero => rfl
  | succ n ih => rw [Memory.read, List.length_cons, ih]

theorem Memory.read_write_same {m : Memory} (form : m.wf = true) (k : Nat) (bs : List Byte) : (m.write k bs).read k bs.length = bs := by
  refine List.ext_getElem (Memory.read_length _ k _) fun i below inside => ?_
  have value := (Memory.read_getD (m := m.write k bs) inside k).trans (Memory.get_write_in m k bs i form inside)
  rwa [List.getD_eq_getElem _ _ below, List.getD_eq_getElem _ _ inside] at value

theorem setDbl_dbl_same (form : memoryForm s) (k : Nat) (w : Word) : (s.setDbl k w).dbl k = w := by
  have length : (toBytes 8 w.toNat).length = 8 := toBytes_length 8 _
  have read := Memory.read_write_same form k (toBytes 8 w.toNat)
  rw [length] at read
  rw [State.dbl, setDbl_mem, read, ofBytes_toBytes, Word.of, Nat.mod_eq_of_lt (show w.toNat < 256 ^ 8 from w.isLt), BitVec.ofNat_toNat, BitVec.setWidth_eq]

theorem setDbl_get_other (form : memoryForm s) {k a : Nat} (w : Word) (other : a < k ∨ k + 8 ≤ a) :
    Memory.get (s.setDbl k w).mem a = Memory.get s.mem a := by
  rw [setDbl_mem, Memory.get_write_other _ _ _ form (by rwa [toBytes_length])]

theorem setDbl_dbl_other (form : memoryForm s) {k j : Nat} (w : Word) (other : j + 8 ≤ k ∨ k + 8 ≤ j) : (s.setDbl k w).dbl j = s.dbl j := by
  rw [State.dbl, State.dbl, Memory.read_congr fun a low high => setDbl_get_other form w (by omega)]

/-! ### Barrier objects (R228) -/

@[simp] theorem correct_form (form : memoryForm s) (k n : Nat) : memoryForm (s.correct k n) := form_of_mem (by simp) form

@[simp] theorem setObj_disarmed (quiet : disarmed s) (m off j : Nat) (w : Word) : disarmed (s.setObj m off j w) := write_disarmed quiet _ _

@[simp] theorem objCorrect_form (form : memoryForm s) (m off : Nat) (ks : List Nat) : memoryForm (s.objCorrect m off ks) :=
  foldl_rule (P := memoryForm) (fun _ _ form => correct_form form _ _) ks form

@[simp] theorem objCorrect_disarmed (quiet : disarmed s) (m off : Nat) (ks : List Nat) : disarmed (s.objCorrect m off ks) :=
  foldl_rule (P := disarmed) (fun _ _ quiet => correct_disarmed quiet _ _) ks quiet

theorem objCorrect_badAt (m off : Nat) (ks : List Nat) (d : Nat) : badAt (s.objCorrect m off ks).ecc d = badAt s.ecc d := by
  unfold State.objCorrect
  induction ks generalizing s with
  | nil => rfl
  | cons k ks ih => rw [List.foldl_cons, ih, correct_badAt]

theorem dbl_of_mem {t : State} (same : t.mem = s.mem) (k : Nat) : t.dbl k = s.dbl k := by rw [State.dbl, same, State.dbl]

@[simp] theorem objCorrect_dbl (m off : Nat) (ks : List Nat) (k : Nat) : (s.objCorrect m off ks).dbl k = s.dbl k :=
  dbl_of_mem (objCorrect_mem s m off ks) k

theorem setObj_dbl (form : memoryForm s) (m off j k : Nat) (w : Word) :
    (s.setObj m off j w).dbl (bankKey m (off + 8 * k)) = if k = j then w else s.dbl (bankKey m (off + 8 * k)) := by
  split
  · next own => rw [own]; exact setDbl_dbl_same form _ w
  · next other => exact setDbl_dbl_other form w (by simp only [bankKey]; omega)

section
variable {m off : Nat} (aligned : off % 8 = 0)
include aligned

theorem bankKey_aligned (k : Nat) : bankKey m (off + 8 * k) % 8 = 0 := by simp only [bankKey]; omega

/-- The machinery's reading of a double depends on its bytes and on its check bits. -/
theorem objDbl_eq (k : Nat) : s.objDbl m off k = if badAt s.ecc (bankKey m (off + 8 * k) / 8)
    then Config.badDouble (off + 8 * k) (s.dbl (bankKey m (off + 8 * k))) else s.dbl (bankKey m (off + 8 * k)) := by
  have multiple := bankKey_aligned (m := m) aligned k
  simp only [State.objDbl]
  generalize bankKey m (off + 8 * k) = key at multiple ⊢
  rw [badDouble_aligned multiple]
  split <;> rfl

theorem objCorrect_objDbl (ks : List Nat) (k : Nat) : (s.objCorrect m off ks).objDbl m off k = s.objDbl m off k := by
  rw [objDbl_eq aligned, objCorrect_badAt, objCorrect_dbl, ← objDbl_eq aligned]

theorem setObj_objDbl (form : memoryForm s) (quiet : disarmed s) (j k : Nat) (w : Word) :
    (s.setObj m off j w).objDbl m off k = if k = j then w else s.objDbl m off k := by
  rw [objDbl_eq aligned, State.setObj, setDbl_badAt quiet (bankKey_aligned aligned j), ← State.setObj, setObj_dbl form]
  by_cases own : k = j
  · simp [own]
  · have apart : bankKey m (off + 8 * k) / 8 ≠ bankKey m (off + 8 * j) / 8 := by simp only [bankKey]; omega
    rw [if_neg apart, if_neg own, if_neg own, ← objDbl_eq aligned]

end

end Sys2Proof.Machine
end

section
/-! Barrier instructions (R228 to R232): the object that each of them leaves, and O32 and O33. -/

namespace Sys2Proof.Machine

variable {s t : State}

/-! ### What an arrival leaves alone -/

/-- A state whose context that acts is the same, with the same global registers. -/
structure sameContext (s t : State) : Prop where
  ctx : t.ctx = s.ctx
  globals : t.task.globals = s.task.globals

theorem sameContext.refl (s : State) : sameContext s s := ⟨rfl, rfl⟩

theorem sameContext.trans {u : State} (first : sameContext s t) (second : sameContext t u) : sameContext s u :=
  ⟨second.ctx.trans first.ctx, second.globals.trans first.globals⟩

theorem sameContext.regs (same : sameContext s t) : sameRegs s t := reg_congr (by rw [same.ctx]) (by rw [same.ctx]) same.globals

theorem sameContext.pc (same : sameContext s t) : t.pc = s.pc := by rw [State.pc, same.ctx, State.pc]

theorem sameContext.advance (same : sameContext s t) (n : Nat) :
    (t.advance n).pc = s.pc + Word.of (4 * n) ∧ sameRegs s (t.advance n) :=
  ⟨by rw [advance_pc, same.pc], fun r => (advance_reg n r).trans (same.regs r)⟩

theorem sameContext.result (same : sameContext s t) (n : Nat) (d : Reg) (v : Word) :
    let u := t.result n d v
    u.pc = s.pc + Word.of (4 * n) ∧ u.reg d = (if d = .g 0 then 0 else v) ∧ ∀ r, r ≠ d → u.reg r = s.reg r := by
  obtain ⟨pc, reg, others, -⟩ := result_wrote t n d v
  exact ⟨by rw [pc, same.pc], reg, fun r other => (others r other).trans (same.regs r)⟩

theorem write_sameContext (k : Nat) (bs : List Byte) : sameContext s (s.write k bs) :=
  ⟨write_ctx s k bs, write_task Task.globals (fun _ _ => rfl) (fun _ _ => rfl) k bs⟩

theorem correct_sameContext (k n : Nat) : sameContext s (s.correct k n) :=
  ⟨correct_ctx s k n, correct_task Task.globals (fun _ _ => rfl) k n⟩

theorem setObj_sameContext (m off j : Nat) (w : Word) : sameContext s (s.setObj m off j w) := write_sameContext _ _

theorem objCorrect_sameContext (m off : Nat) (ks : List Nat) : sameContext s (s.objCorrect m off ks) :=
  foldl_rule (P := sameContext s) (fun _ _ same => same.trans (correct_sameContext _ _)) ks (.refl s)

theorem flip_sameContext (m off : Nat) : sameContext s (s.flip m off) := by
  simp only [State.flip]
  exact ((((objCorrect_sameContext _ _ _).trans (setObj_sameContext _ _ _ _)).trans (setObj_sameContext _ _ _ _)).trans
    (setObj_sameContext _ _ _ _)).trans (setObj_sameContext _ _ _ _)

theorem setMast_sameContext (m : Mast) : sameContext s (s.setMast m) := ⟨rfl, rfl⟩

theorem putMast_sameContext (k : Nat) (m : Mast) : sameContext s (s.putMast k m) := ⟨rfl, rfl⟩

theorem completePhase_sameContext (m off : Nat) : sameContext s (s.completePhase m off) := by
  simp only [State.completePhase]
  split
  · exact putMast_sameContext _ _
  · split
    · exact flip_sameContext m off
    · exact (flip_sameContext m off).trans (putMast_sameContext _ _)

/-- An object after an arrival of status `st` has been counted (R230). -/
def State.counted (s : State) (m off : Nat) (st : Word) : State :=
  let w := s.objDbl m off 1
  ((s.objCorrect m off [0, 1, 3]).setObj m off 3 (mergeStatus (s.objDbl m off 3) st)).setObj m off 1
    (setBits w 31 0 ((bits w 31 0 + 1) % 2 ^ 32))

theorem arrive_sameContext (m launch off : Nat) (st : Word) : sameContext s (s.arrive m launch off st) := by
  simp only [State.arrive]
  split
  · exact ⟨rfl, rfl⟩
  · split
    · exact ⟨rfl, rfl⟩
    · split
      · exact ((objCorrect_sameContext _ _ _).trans (setObj_sameContext _ _ _ _)).trans (setObj_sameContext _ _ _ _)
          |>.trans (completePhase_sameContext m off)
      · exact ((objCorrect_sameContext _ _ _).trans (setObj_sameContext _ _ _ _)).trans (setObj_sameContext _ _ _ _)

theorem completePhase_single {m off : Nat} (single : (s.mastAt m).pairsAt off = []) : s.completePhase m off = s.flip m off := by
  simp only [State.completePhase, single, List.any_nil, List.isEmpty_nil, Bool.false_eq_true, if_false, if_true]

theorem arrive_unarmed {m off : Nat} (unarmed : (s.mastAt m).armed off = false) (l : Nat) (st : Word) :
    s.arrive m l off st = s.putLaunch l { s.launchAt l with arrdrop := (s.launchAt l).arrdrop + 1 } := by
  rw [State.arrive, unarmed]
  rfl

/-! ### The object after an arrival -/

/-- The four doubles of an object, where nothing else of memory has changed. -/
structure objIs (m off : Nat) (s u : State) (w0 w1 w2 w3 : Word) : Prop where
  d0 : u.dbl (bankKey m off) = w0
  d1 : u.dbl (bankKey m (off + 8)) = w1
  d2 : u.dbl (bankKey m (off + 16)) = w2
  d3 : u.dbl (bankKey m (off + 24)) = w3
  rest : ∀ x, x < bankKey m off ∨ bankKey m off + 32 ≤ x → Memory.get u.mem x = Memory.get s.mem x

theorem objIs.of_mem {m off : Nat} {u v : State} {w0 w1 w2 w3 : Word} (object : objIs m off s u w0 w1 w2 w3) (same : v.mem = u.mem) :
    objIs m off s v w0 w1 w2 w3 := by
  obtain ⟨d0, d1, d2, d3, rest⟩ := object
  exact ⟨(dbl_of_mem same _).trans d0, (dbl_of_mem same _).trans d1, (dbl_of_mem same _).trans d2, (dbl_of_mem same _).trans d3,
    by rwa [same]⟩

theorem objIs.refl (m off : Nat) (s : State) : objIs m off s s (s.dbl (bankKey m off)) (s.dbl (bankKey m (off + 8)))
    (s.dbl (bankKey m (off + 16))) (s.dbl (bankKey m (off + 24))) := ⟨rfl, rfl, rfl, rfl, fun _ _ => rfl⟩

/-- Writing one double replaces it in the object. -/
theorem objIs.set {m off : Nat} {u : State} {w0 w1 w2 w3 : Word} (object : objIs m off s u w0 w1 w2 w3) (form : memoryForm u) {j : Nat}
    (below : j < 4) (w : Word) :
    objIs m off s (u.setObj m off j w) (if j = 0 then w else w0) (if j = 1 then w else w1) (if j = 2 then w else w2) (if j = 3 then w else w3) := by
  obtain ⟨d0, d1, d2, d3, rest⟩ := object
  refine ⟨?_, ?_, ?_, ?_, fun x outside => ?_⟩
  · exact (setObj_dbl form m off j 0 w).trans (by simp only [Nat.mul_zero, Nat.add_zero, d0, eq_comm])
  · exact (setObj_dbl form m off j 1 w).trans (by simp only [Nat.mul_one, d1, eq_comm])
  · exact (setObj_dbl form m off j 2 w).trans (by simp only [Nat.reduceMul, d2, eq_comm])
  · exact (setObj_dbl form m off j 3 w).trans (by simp only [Nat.reduceMul, d3, eq_comm])
  · refine (setDbl_get_other form w ?_).trans (rest x outside)
    simp only [bankKey] at outside ⊢
    omega

theorem setBits_again (w : Word) (hi lo a b : Nat) : setBits (setBits w hi lo a) hi lo b = setBits w hi lo b := by
  simp only [setBits]
  generalize hi + 1 - lo = n
  have masked (i : Nat) : ((2 ^ n - 1) <<< lo).testBit i = decide (lo ≤ i ∧ i - lo < n) := by
    simp [Nat.testBit_shiftLeft, Nat.testBit_two_pow_sub_one]
  have field (v i : Nat) (outside : ¬ (lo ≤ i ∧ i - lo < n)) : ((v % 2 ^ n) <<< lo).testBit i = false := by
    simpa [Nat.testBit_shiftLeft, Nat.testBit_mod_two_pow] using fun low high => absurd ⟨low, high⟩ outside
  refine BitVec.eq_of_getLsbD_eq fun i below => ?_
  simp only [BitVec.getLsbD_or, BitVec.getLsbD_and, BitVec.getLsbD_not, BitVec.getLsbD_ofNat, below, decide_true, Bool.true_and, masked]
  by_cases inside : lo ≤ i ∧ i - lo < n
  · simp [inside]
  · simp [inside, field]

section
variable {m off : Nat} (aligned : off % 8 = 0)
include aligned

/-- What the flip of a phase leaves in the object (R230). -/
theorem flip_is (form : memoryForm t) (quiet : disarmed t) {w0 w1 w2 w3 : Word} (object : objIs m off s t w0 w1 w2 w3) :
    objIs m off s (t.flip m off) (Word.of ((bits (t.objDbl m off 0) 63 48 + 1) % 65536 * 2 ^ 48 +
      (1 - bits (t.objDbl m off 0) 32 32) * 2 ^ 32 + bits (t.objDbl m off 0) 31 0)) (setBits (t.objDbl m off 1) 31 0 0)
      (t.objDbl m off 3) 0 := by
  have read := object.of_mem (objCorrect_mem t m off [0, 1, 3])
  have form0 := objCorrect_form form m off [0, 1, 3]
  have form1 := setObj_form form0 m off 2 (t.objDbl m off 3)
  have form2 := setObj_form form1 m off 3 0
  simp only [State.flip, objCorrect_objDbl aligned]
  have first := read.set form0 (j := 2) (by decide) (t.objDbl m off 3)
  have second := first.set form1 (j := 3) (by decide) 0
  have value : (((t.objCorrect m off [0, 1, 3]).setObj m off 2 (t.objDbl m off 3)).setObj m off 3 0).objDbl m off 1 = t.objDbl m off 1 := by
    rw [setObj_objDbl aligned form1 (by simp [quiet]), if_neg (by decide),
      setObj_objDbl aligned form0 (by simp [quiet]), if_neg (by decide), objCorrect_objDbl aligned]
  rw [value]
  have third := second.set form2 (j := 1) (by decide) (setBits (t.objDbl m off 1) 31 0 0)
  simpa using third.set (setObj_form form2 m off 1 _) (j := 0) (by decide) _

omit aligned in
theorem counted_is (form : memoryForm s) (st : Word) :
    objIs m off s (s.counted m off st) (s.dbl (bankKey m off))
      (setBits (s.objDbl m off 1) 31 0 ((bits (s.objDbl m off 1) 31 0 + 1) % 2 ^ 32)) (s.dbl (bankKey m (off + 16)))
      (mergeStatus (s.objDbl m off 3) st) := by
  have read := (objIs.refl m off s).of_mem (objCorrect_mem s m off [0, 1, 3])
  have merged := read.set (objCorrect_form form _ _ _) (j := 3) (by decide) (mergeStatus (s.objDbl m off 3) st)
  simpa [State.counted] using merged.set (setObj_form (objCorrect_form form _ _ _) _ _ _ _) (j := 1) (by decide) _

theorem counted_objDbl (form : memoryForm s) (quiet : disarmed s) (st : Word) (k : Nat) : (s.counted m off st).objDbl m off k =
    if k = 1 then setBits (s.objDbl m off 1) 31 0 ((bits (s.objDbl m off 1) 31 0 + 1) % 2 ^ 32)
    else if k = 3 then mergeStatus (s.objDbl m off 3) st else s.objDbl m off k := by
  rw [State.counted, setObj_objDbl aligned (setObj_form (objCorrect_form form _ _ _) _ _ _ _) (by simp [quiet]),
    setObj_objDbl aligned (objCorrect_form form _ _ _) (by simp [quiet]), objCorrect_objDbl aligned]

/-- An arrival at an armed object with no swap due is counted; the one that makes the count whole completes the phase. -/
theorem arrive_armed (form : memoryForm s) (quiet : disarmed s) (armed : (s.mastAt m).armed off = true)
    (calm : ∀ p ∈ (s.mastAt m).pairsAt off, p.due = none) (l : Nat) (st : Word) :
    s.arrive m l off st = if (bits (s.objDbl m off 1) 31 0 + 1) % 2 ^ 32 = bits (s.objDbl m off 0) 31 0
      then (s.counted m off st).completePhase m off else s.counted m off st := by
  have none : ((s.mastAt m).pairsAt off).find? (·.due.isSome) = none := List.find?_eq_none.mpr fun p mem => by simp [calm p mem]
  have d1 : ((s.objCorrect m off [0, 1, 3]).setObj m off 3 (mergeStatus (s.objDbl m off 3) st)).objDbl m off 1 = s.objDbl m off 1 := by
    rw [setObj_objDbl aligned (objCorrect_form form _ _ _) (by simp [quiet]), if_neg (by decide), objCorrect_objDbl aligned]
  have d0 : (s.counted m off st).objDbl m off 0 = s.objDbl m off 0 := by
    rw [counted_objDbl aligned form quiet, if_neg (by decide), if_neg (by decide)]
  rw [State.counted] at d0
  simp only [State.arrive, State.counted, armed, none, objCorrect_objDbl aligned, d1, d0, Bool.not_true, Bool.false_eq_true, if_false]

end

theorem setObj_mastAt (m off j : Nat) (w : Word) (k : Nat) : (s.setObj m off j w).mastAt k = s.mastAt k := by
  obtain ⟨_, _, _, same⟩ := write_rest s (bankKey m (off + 8 * j)) (toBytes 8 w.toNat)
  rw [State.setObj, State.setDbl, same]
  rfl

theorem objCorrect_mastAt (m off : Nat) (ks : List Nat) (k : Nat) : (s.objCorrect m off ks).mastAt k = s.mastAt k := by
  unfold State.objCorrect
  induction ks generalizing s with
  | nil => rfl
  | cons j ks ih =>
    obtain ⟨_, _, same⟩ := correct_only (s := s) (bankKey m (off + 8 * j)) 8
    rw [List.foldl_cons, ih, same]
    rfl

theorem counted_mastAt (m off : Nat) (st : Word) (k : Nat) : (s.counted m off st).mastAt k = s.mastAt k := by
  rw [State.counted, setObj_mastAt, setObj_mastAt, objCorrect_mastAt]

theorem counted_form (form : memoryForm s) (m off : Nat) (st : Word) : memoryForm (s.counted m off st) :=
  setObj_form (setObj_form (objCorrect_form form _ _ _) _ _ _ _) _ _ _ _

theorem counted_disarmed (quiet : disarmed s) (m off : Nat) (st : Word) : disarmed (s.counted m off st) :=
  setObj_disarmed (setObj_disarmed (objCorrect_disarmed quiet _ _ _) _ _ _ _) _ _ _ _

/-! ### The checks of the barrier instructions -/

theorem objCheck_aligned {a : Word} {spaces : List Nat} {off : Nat} (checked : s.objCheck a spaces = .ok off) : off % 8 = 0 := by
  obtain ⟨_, low, checked⟩ := bind_ok.mp checked
  obtain ⟨_, -, checked⟩ := bind_ok.mp checked
  obtain ⟨_, -, checked⟩ := bind_ok.mp checked
  obtain ⟨_, -, checked⟩ := bind_ok.mp checked
  have aligned : bits a 4 0 = 0 := by
    by_contra odd
    rw [need, if_neg (by simpa using odd)] at low
    exact nomatch low
  have multiple : bits a 19 0 % 8 = 0 := by
    have low : a.toNat % 32 = 0 := aligned
    have whole : bits a 19 0 = a.toNat % 2 ^ 20 := rfl
    omega
  have place : off = s.mast.resolve (bits a 19 0 / 65536 % 16) * 65536 + bits a 19 0 % 65536 := (Except.ok.inj checked).symm
  omega

theorem objRead_of_sound {a : Word} {off k : Nat} (sound : s.badDouble (bankKey s.mastNo (off + 8 * k)) 8 = none) :
    s.objRead a off k = .ok (s.dbl (bankKey s.mastNo (off + 8 * k)), s.correct (bankKey s.mastNo (off + 8 * k)) 8) :=
  need_then (by rw [sound]; rfl) rfl

theorem barr_of_local {a : RcSrc} {off : Nat} (checked : s.objCheck (s.rc a) [0x9, 0xB] = .ok off) (near : space (s.rc a) = 0x9)
    (settled : s.settled = true) : exec (.barr a) s = .next ((s.arrive s.mastNo s.cur.launch off 0).advance 1) := by
  refine finish_ok (need_then (by simp [near]) (ok_then checked ?_))
  rw [if_neg (by rw [near]; decide)]
  exact need_then settled rfl

theorem barr_of_remote {a : RcSrc} {off : Nat} (checked : s.objCheck (s.rc a) [0x9, 0xB] = .ok off) (far : space (s.rc a) = 0xB)
    (travels : s.mayTravel = true) (room : hasRoom s 0 32) :
    exec (.barr a) s = .next ((s.emit 0 (8 * bits (s.rc a) 41 32) 32 true (.arrival (s.rc a) 0)).advance 1) :=
  finish_ok (need_then (by simp [travels]) (ok_then checked (by rw [if_pos far]; exact ok_then (needShare_of_room room) rfl)))

/-- The end of a local BARR whose object is armed. -/
theorem barr_armed_is {off : Nat} (aligned : off % 8 = 0) (form : memoryForm s) (quiet : disarmed s) (armed : s.mast.armed off = true)
    (calm : ∀ p ∈ s.mast.pairsAt off, p.due = none) :
    let m := s.mastNo
    let k := (bits (s.objDbl m off 1) 31 0 + 1) % 2 ^ 32
    let u := (s.arrive m s.cur.launch off 0).advance 1
    (k ≠ bits (s.objDbl m off 0) 31 0 → objIs m off s u (s.dbl (bankKey m off)) (setBits (s.objDbl m off 1) 31 0 k)
      (s.dbl (bankKey m (off + 16))) (mergeStatus (s.objDbl m off 3) 0)) ∧
    (k = bits (s.objDbl m off 0) 31 0 → s.mast.pairsAt off = [] → objIs m off s u
      (Word.of ((bits (s.objDbl m off 0) 63 48 + 1) % 65536 * 2 ^ 48 + (1 - bits (s.objDbl m off 0) 32 32) * 2 ^ 32 + bits (s.objDbl m off 0) 31 0))
      (setBits (s.objDbl m off 1) 31 0 0) (mergeStatus (s.objDbl m off 3) 0) 0) := by
  intro m k u
  have arrived := arrive_armed (m := s.mastNo) aligned form quiet armed calm s.cur.launch 0
  refine ⟨fun more => (counted_is form 0).of_mem (congrArg State.mem (arrived.trans (if_neg more)) :), fun whole single => ?_⟩
  have flipped := flip_is aligned (counted_form form m off 0) (counted_disarmed quiet m off 0) (counted_is form 0)
  have d0 := counted_objDbl aligned (m := m) form quiet 0 0
  have d1 := counted_objDbl aligned (m := m) form quiet 0 1
  have d3 := counted_objDbl aligned (m := m) form quiet 0 3
  simp only [Nat.reduceEqDiff, if_true, if_false] at d0 d1 d3
  rw [d0, d1, d3, setBits_again] at flipped
  refine flipped.of_mem (congrArg State.mem (arrived.trans ((if_pos whole).trans (completePhase_single ?_))) :)
  rw [counted_mastAt]
  exact single

theorem armable_of {k off : Nat} (some : k ≠ 0) (fits : k < 2 ^ 32) (unarmed : s.mast.armed off = false) :
    (decide (k ≠ 0) && decide (k < 2 ^ 32) && !s.mast.armed off) = true := by
  rw [unarmed, decide_eq_true some, decide_eq_true fits]
  rfl

/-- The grant of barrier objects is used up, or is not. -/
theorem barrArm_of_full {d : Reg} {a : RcSrc} {n : Src} {off : Nat} (checked : s.objCheck (s.rc a) [0x9] = .ok off) (some : (s.src n).toNat ≠ 0)
    (fits : (s.src n).toNat < 2 ^ 32) (unarmed : s.mast.armed off = false)
    (full : s.grant.bars ≤ (s.mast.trackers.filter fun t => decide (t.1 = s.cur.launch)).length) :
    exec (.barrArm d a n) s = .next (s.result 1 d 0) :=
  finish_ok (ok_then checked (need_then (armable_of some fits unarmed) (if_pos full)))

/-- The object that BARR.arm writes, its generation and phase kept. -/
def State.objArmed (s : State) (off count : Nat) : State :=
  let w := s.dbl (bankKey s.mastNo off)
  ((((s.correct (bankKey s.mastNo off) 8).setObj s.mastNo off 0 (Word.of (bits w 63 48 * 2 ^ 48 + bits w 32 32 * 2 ^ 32 + count))).setObj
    s.mastNo off 1 0x8000000000000000).setObj s.mastNo off 2 0).setObj s.mastNo off 3 0

def State.tracked (s : State) (off : Nat) : State := s.setMast { s.mast with trackers := s.mast.trackers ++ [(s.cur.launch, off)] }

theorem barrArm_of_free {d : Reg} {a : RcSrc} {n : Src} {off : Nat} (checked : s.objCheck (s.rc a) [0x9] = .ok off) (some : (s.src n).toNat ≠ 0)
    (fits : (s.src n).toNat < 2 ^ 32) (unarmed : s.mast.armed off = false)
    (room : (s.mast.trackers.filter fun t => decide (t.1 = s.cur.launch)).length < s.grant.bars) (released : s.released = true)
    (stored : ∀ q ∈ s.armStores off, s.buffered q = false) (free : s.sbFree true off 32 = true)
    (sound : s.badDouble (bankKey s.mastNo off) 8 = none) :
    exec (.barrArm d a n) s = .next (((s.objArmed off (s.src n).toNat).tracked off).result 1 d 1) := by
  refine finish_ok (ok_then checked (need_then (armable_of some fits unarmed) ((if_neg (Nat.not_le.mpr room)).trans
    (need_then released ((if_neg ?_).trans (ok_then (objRead_of_sound (k := 0) sound) rfl))))))
  have none : (s.armStores off).any s.buffered = false := List.any_eq_false.mpr fun q mem => by simp [stored q mem]
  simp [none, free]

theorem objArmed_sameContext (off count : Nat) : sameContext s (s.objArmed off count) :=
  ((((correct_sameContext _ _).trans (setObj_sameContext _ _ _ _)).trans (setObj_sameContext _ _ _ _)).trans
    (setObj_sameContext _ _ _ _)).trans (setObj_sameContext _ _ _ _)

theorem objArmed_is (form : memoryForm s) (off count : Nat) : objIs s.mastNo off s (s.objArmed off count)
    (Word.of (bits (s.dbl (bankKey s.mastNo off)) 63 48 * 2 ^ 48 + bits (s.dbl (bankKey s.mastNo off)) 32 32 * 2 ^ 32 + count))
    0x8000000000000000 0 0 := by
  have form0 := correct_form form (bankKey s.mastNo off) 8
  have form1 := setObj_form form0 s.mastNo off 0
    (Word.of (bits (s.dbl (bankKey s.mastNo off)) 63 48 * 2 ^ 48 + bits (s.dbl (bankKey s.mastNo off)) 32 32 * 2 ^ 32 + count))
  have form2 := setObj_form form1 s.mastNo off 1 0x8000000000000000
  have form3 := setObj_form form2 s.mastNo off 2 0
  have read := (objIs.refl s.mastNo off s).of_mem (correct_mem s (bankKey s.mastNo off) 8)
  have written := (((read.set form0 (j := 0) (by decide) _).set form1 (j := 1) (by decide) 0x8000000000000000).set form2 (j := 2) (by decide) 0).set
    form3 (j := 3) (by decide) 0
  simpa only [State.objArmed, Nat.reduceEqDiff, if_true, if_false] using written

theorem tracked_mem (off : Nat) : (s.tracked off).mem = s.mem := rfl

theorem tracked_armed (off : Nat) : (s.tracked off).mast.armed off = true := by
  rw [State.tracked, setMast_mast, Mast.armed, List.any_append]
  simp

def State.untracked (s : State) (off : Nat) : State :=
  s.setMast { s.mast with trackers := s.mast.trackers.filter fun t => decide (t.2 ≠ off) }

theorem untracked_mem (off : Nat) : ((s.untracked off).advance 1).mem = s.mem := rfl

theorem untracked_armed (off : Nat) : (s.untracked off).mast.armed off = false := by
  rw [State.untracked, setMast_mast, Mast.armed]
  simp

/-- The object that BARR.dis leaves. -/
def State.objDisarmed (s : State) (off : Nat) : State :=
  (s.correct (bankKey s.mastNo (off + 8)) 8).setObj s.mastNo off 1 (setBits (s.dbl (bankKey s.mastNo (off + 8))) 63 63 0)

theorem barrDis_of_armed {a : RcSrc} {off : Nat} (checked : s.objCheck (s.rc a) [0x9] = .ok off) (armed : s.mast.armed off = true)
    (single : s.mast.pairsAt off = []) (released : s.released = true) (sound : s.badDouble (bankKey s.mastNo (off + 8)) 8 = none) :
    exec (.barrDis a) s = .next (((s.objDisarmed off).untracked off).advance 1) := by
  refine finish_ok (ok_then checked (need_then (by simp [armed, single]) (need_then released (ok_then (objRead_of_sound (k := 1) sound) ?_))))
  have same : (s.correct (bankKey s.mastNo (off + 8)) 8).mastNo = s.mastNo := congrArg mastOf (congrArg Cur.core (correct_cur s _ _))
  rw [State.objDisarmed, ← same]
  rfl

theorem objDisarmed_sameContext (off : Nat) : sameContext s (s.objDisarmed off) :=
  (correct_sameContext _ _).trans (setObj_sameContext _ _ _ _)

theorem objDisarmed_is (form : memoryForm s) (off : Nat) : objIs s.mastNo off s (s.objDisarmed off) (s.dbl (bankKey s.mastNo off))
    (setBits (s.dbl (bankKey s.mastNo (off + 8))) 63 63 0) (s.dbl (bankKey s.mastNo (off + 16))) (s.dbl (bankKey s.mastNo (off + 24))) := by
  have read := (objIs.refl s.mastNo off s).of_mem (correct_mem s (bankKey s.mastNo (off + 8)) 8)
  simpa only [State.objDisarmed, Nat.reduceEqDiff, if_true, if_false] using read.set (correct_form form _ _) (j := 1) (by decide) _

theorem bwait_of_go {d : Reg} {a : Word} {off : Nat} {go : Word → Bool} (checked : s.objCheck a [0x9] = .ok off) (armed : s.mast.armed off = true)
    (sound : s.badDouble (bankKey s.mastNo off) 8 = none) (goes : go (s.dbl (bankKey s.mastNo off)) = true) :
    s.bwait d a go = .next ((s.correct (bankKey s.mastNo off) 8).result 1 d (s.dbl (bankKey s.mastNo off))) :=
  finish_ok (ok_then checked (need_then armed (ok_then (objRead_of_sound (k := 0) sound) (need_then goes rfl))))

theorem bstat_of_sound {d : Reg} {a : RcSrc} {n : Src} {off : Nat} (checked : s.objCheck (s.rc a) [0x9] = .ok off) (known : (s.src n).toNat ≤ 3)
    (sound : s.badDouble (bankKey s.mastNo (off + 8 * (s.src n).toNat)) 8 = none) :
    exec (.bstat d a n) s = .next ((s.correct (bankKey s.mastNo (off + 8 * (s.src n).toNat)) 8).result 1 d
      (s.dbl (bankKey s.mastNo (off + 8 * (s.src n).toNat)))) :=
  finish_ok (ok_then checked (need_then (decide_eq_true known) (ok_then (objRead_of_sound sound) rfl)))

/-- Settles O32, an instruction at a time. -/
theorem barrierInstructionsComplete : Obligations.BarrierInstructionsComplete := by
  unfold Obligations.BarrierInstructionsComplete
  intro s d a n off ea m w raw ok is
  refine ⟨fun checked => ⟨fun near drained packets => ?local_, fun far travels room => ?remote⟩,
    fun checked => ⟨fun some fits unarmed => ⟨fun full => ?full, fun room released stored free sound => ?arm⟩,
      fun armed single released sound => ?disarm, fun armed sound => ⟨fun phase => ?phase, fun generation => ?generation⟩,
      fun k named known sound => ?status⟩⟩
  case local_ =>
    have same : sameContext s (s.arrive s.mastNo s.cur.launch off 0) := arrive_sameContext _ _ _ _
    obtain ⟨pc, regs⟩ := same.advance 1
    refine ⟨_, barr_of_local checked near (Bool.and_eq_true_iff.mpr ⟨drained, packets⟩), pc, regs, fun unarmed => ?_, fun armed calm => ?_⟩
    · rw [arrive_unarmed (m := s.mastNo) unarmed]
      exact ⟨fun _ => rfl, congrArg Launch.arrdrop (AMap.get_set_same s.launches _ _ _)⟩
    · refine ⟨fun more form quiet => ?_, fun whole single form quiet => ?_⟩
      · obtain ⟨d0, d1, d2, d3, rest⟩ := (barr_armed_is (objCheck_aligned checked) form quiet armed calm).1 more
        exact ⟨d0, d1, d2, d3, rest⟩
      · obtain ⟨d0, d1, d2, d3, rest⟩ := (barr_armed_is (objCheck_aligned checked) form quiet armed calm).2 whole single
        exact ⟨d0, d1, d2, d3, rest⟩
  case remote =>
    obtain ⟨pc, regs, memory⟩ := (emit_sameProgram (s := s) 0 (8 * bits ea 41 32) 32 true (.arrival ea 0)).acted 1
    exact ⟨_, _, barr_of_remote checked far travels room, pc, regs, memory, emit_net _ _ _ _ _, rfl, rfl⟩
  case full => exact ⟨_, barrArm_of_full checked some fits unarmed full, result_wrote s 1 d 0⟩
  case arm =>
    have same : sameContext s ((s.objArmed off (s.src n).toNat).tracked off) := (objArmed_sameContext off _).trans (setMast_sameContext _)
    obtain ⟨pc, reg, others⟩ := same.result 1 d 1
    refine ⟨_, barrArm_of_free checked some fits unarmed room released stored free sound, pc, reg, others, ?_, fun form quiet => ?_⟩
    · rw [result_mast, tracked_armed]
    · obtain ⟨d0, d1, d2, d3, rest⟩ := (objArmed_is form off (s.src n).toNat).of_mem ((result_mem ((s.objArmed off (s.src n).toNat).tracked off) 1 d 1).trans (tracked_mem off))
      exact ⟨d0, d1, d2, d3, rest⟩
  case disarm =>
    have same : sameContext s ((s.objDisarmed off).untracked off) :=
      (objDisarmed_sameContext off).trans (setMast_sameContext _)
    obtain ⟨pc, regs⟩ := same.advance 1
    refine ⟨_, barrDis_of_armed checked armed single released sound, pc, regs, ?_, fun form quiet => ?_⟩
    · rw [advance_mast, untracked_armed]
    · obtain ⟨d0, d1, d2, d3, rest⟩ := (objDisarmed_is form off).of_mem (untracked_mem off)
      exact ⟨d0, d1, d2, d3, rest⟩
  case phase => exact ⟨_, bwait_of_go (go := fun w => decide (bits w 32 32 ≠ bits (s.src n) 0 0)) checked armed sound (decide_eq_true phase), result_wrote _ 1 d _⟩
  case generation => exact ⟨_, bwait_of_go (go := fun w => decide (bits w 63 48 ≠ bits (s.src n) 15 0)) checked armed sound (decide_eq_true generation), result_wrote _ 1 d _⟩
  case status =>
    subst named
    exact ⟨_, bstat_of_sound checked known sound, result_wrote _ 1 d _⟩

/-! ### Arrivals from other masts, and delayed swaps -/

theorem remoteArrival_eq {p : Packet} {ea st : Word} (there : s.packet s.place.a = some p) (kind : p.kind = .arrival ea st)
    (turn : s.mayApply p = true) :
    exec .remoteArrival s = if (s.mastAt (bits ea 41 32)).holds p.launch (bits ea 19 16) && !(s.mastAt (bits ea 41 32)).isShadow (bits ea 19 16)
      then .next ((s.drop p).arrive (bits ea 41 32) p.launch ((s.mastAt (bits ea 41 32)).physOff (bits ea 19 0)) st)
      else .next ((s.drop p).isolation p.launch p.src ea) := by
  rw [show exec .remoteArrival s = execRemoteArrival s from rfl]
  simp only [execRemoteArrival, there, kind, turn, if_true]

theorem flip_mastAt (m off k : Nat) : (s.flip m off).mastAt k = s.mastAt k := by
  simp only [State.flip, setObj_mastAt, objCorrect_mastAt]

/-- The pair of a front bank after the swap of an object that is its barrier. -/
theorem swapPairs_pairOf {m : Mast} {b : Nat} {p : Pair} (found : m.pairOf b = some p) :
    (m.swapPairs (m.physOff p.bar)).pairOf b = some { p with swapped := !p.swapped, due := none, late := [] } := by
  obtain ⟨front, -⟩ := List.find?_eq_some_iff_append.mp found
  have named : ((m.pairsAt (m.physOff p.bar)).map (·.front)).contains p.front = true := by
    have mem : p ∈ m.pairsAt (m.physOff p.bar) := List.mem_filter.mpr ⟨List.mem_of_find?_eq_some found, decide_eq_true rfl⟩
    exact List.contains_iff_mem.mpr (List.mem_map_of_mem mem)
  simp only [Mast.swapPairs, Mast.pairOf, List.find?_map]
  rw [show (m.pairs.find? _) = some p from (List.find?_congr fun q _ => by dsimp only [Function.comp]; split <;> rfl).trans found]
  simp only [Option.map_some, named, if_true]

/-- Settles O33: an arrival as at its own mast, and a delayed swap. -/
theorem arrivalsAndSwapsComplete : Obligations.ArrivalsAndSwapsComplete := by
  unfold Obligations.ArrivalsAndSwapsComplete
  refine fun s => ⟨fun p ea st there kind turn => ⟨fun holds shadow => ?held, fun stray => ?stray⟩, fun p found due free => ?swap⟩
  case held =>
    rw [remoteArrival_eq there kind turn, holds, shadow]
    rfl
  case stray =>
    have fails : ((s.mastAt (bits ea 41 32)).holds p.launch (bits ea 19 16) && !(s.mastAt (bits ea 41 32)).isShadow (bits ea 19 16)) = false := by
      obtain holds | shadow := stray
      · rw [holds, Bool.false_and]
      · rw [shadow, Bool.not_true, Bool.and_false]
    refine ⟨(s.drop p).isolation p.launch p.src ea, by rw [remoteArrival_eq there kind turn, fails]; rfl, fun _ => ?_, failLaunch_failure _ _ _⟩
    rw [isolation_mem, drop_mem]
  case swap =>
    have unblocked : ((s.mastAt s.place.a).pairsAt ((s.mastAt s.place.a).physOff p.bar)).any
        (fun q => (s.mastAt s.place.a).swapBlocked q (q.due.getD 0)) = false := List.any_eq_false.mpr fun q mem => by simp [(free q mem).2]
    have early : ((s.mastAt s.place.a).pairsAt ((s.mastAt s.place.a).physOff p.bar)).flatMap (·.late) = [] :=
      List.flatMap_eq_nil_iff.mpr fun q mem => (free q mem).1
    refine ⟨(s.flip s.place.a ((s.mastAt s.place.a).physOff p.bar)).putMast s.place.a
      ((s.mastAt s.place.a).swapPairs ((s.mastAt s.place.a).physOff p.bar)), { p with swapped := !p.swapped, due := none, late := [] }, ?_, ?_, rfl, rfl⟩
    · rw [show exec .pairSwap s = execPairSwap s from rfl]
      simp only [execPairSwap, found, due, unblocked, early, flip_mastAt, Bool.not_false, Bool.and_true, if_true, List.foldl_nil]
    · rw [putMast_mastAt_same, swapPairs_pairOf found]

end Sys2Proof.Machine
end

section
/-! The envelope accumulator's queue (R264, R265): an instruction takes its operation's outcome, waits or issues; O34. -/

namespace Sys2Proof.Machine

variable {s : State} {d : Option Reg} {issue : Ex State}

/-! ### An instruction whose operation has been issued -/

theorem envOp_answers {d : Reg} {w : Word} (ended : s.ctx.await = .ea (some (.done w))) : s.envOp (some d) issue = .next (s.result 1 d w) := by
  rw [State.envOp, ended]

theorem envOp_goes {w : Word} (ended : s.ctx.await = .ea (some (.done w))) : s.envOp none issue = .next (s.advance 1) := by
  rw [State.envOp, ended]

theorem envOp_trap {c : Nat} {addr info : Word} (ended : s.ctx.await = .ea (some (.trap c addr info))) :
    s.envOp d issue = .next (s.trapEntry c addr info s.pc) := by rw [State.envOp, ended]

theorem envOp_waits (runs : s.ctx.await = .ea none) : s.envOp d issue = .next s.waiting := by rw [State.envOp, runs]

theorem envOp_fresh (fresh : s.ctx.await = .none) : s.envOp d issue = s.finish issue := by rw [State.envOp, fresh]

theorem ea_values (d : Reg) (e : Fin 16) (n : Src) :
    ∀ i ∈ ([.eclaim d e n, .ecap d e n, .ecnt d e] : List Instr), ∃ issue, exec i s = s.envOp (some d) issue := by
  intro i mem
  simp only [List.mem_cons, List.not_mem_nil, or_false] at mem
  obtain rfl | rfl | rfl := mem <;> exact ⟨_, rfl⟩

theorem ea_effects (d : Reg) (e x y : Fin 16) (n : Src) (a : RcSrc) :
    ∀ i ∈ ([.eclr d e n, .eclrFree e, .eins e a n, .emax e x y, .esum e x y, .einf e x y, .eleg e x, .eeval e a n, .eread e a n] : List Instr),
      ∃ issue, exec i s = s.envOp none issue := by
  intro i mem
  simp only [List.mem_cons, List.not_mem_nil, or_false] at mem
  obtain rfl | rfl | rfl | rfl | rfl | rfl | rfl | rfl | rfl := mem <;> exact ⟨_, rfl⟩

theorem ea_all (d : Reg) (e x y : Fin 16) (n : Src) (a : RcSrc) :
    ∀ i ∈ ([.eclaim d e n, .ecap d e n, .ecnt d e] ++
      [.eclr d e n, .eclrFree e, .eins e a n, .emax e x y, .esum e x y, .einf e x y, .eleg e x, .eeval e a n, .eread e a n] : List Instr),
      ∃ d issue, exec i s = s.envOp d issue := by
  intro i mem
  obtain value | effect := List.mem_append.mp mem
  · exact ⟨_, ea_values d e n i value⟩
  · exact ⟨_, ea_effects d e x y n a i effect⟩

/-! ### Issue -/

/-- The state after an operation that reads and writes no bank has been issued. -/
def State.eaQueued (s : State) (o : EaOp) : State :=
  s.tookEntry.setMast { s.mast with
    eaCount := s.mast.eaCount + 1, eaQueue := s.mast.eaQueue ++ [{ o with entry := none, tag := s.mast.eaCount + 1 }] }

def State.eaAwaits (s : State) : State := (s.setCtx { s.ctx with eopValid := true, eopTag := s.mast.eaCount, await := .ea none }).waiting

theorem eaQueued_mast (o : EaOp) : (s.eaQueued o).mast = { s.mast with
    eaCount := s.mast.eaCount + 1, eaQueue := s.mast.eaQueue ++ [{ o with entry := none, tag := s.mast.eaCount + 1 }] } := setMast_mast _ _

theorem eaIssue_of_plain {o : EaOp} (settled : s.settled = true) (room : s.mast.eaQueue.length < 32) :
    s.eaIssue o 0 0 = .ok (s.eaQueued o).eaAwaits := by
  refine need_then (Bool.and_eq_true_iff.mpr ⟨settled, decide_eq_true room⟩) ((if_pos ?_).trans ?_)
  · simp [Mast.ivalsOf, Mast.pieces]
  · rw [State.eaAwaits, eaQueued_mast]
    rfl

theorem eaAwaits_end (s : State) :
    s.eaAwaits.ctx.status = .waiting ∧ s.eaAwaits.ctx.await = .ea none ∧ s.eaAwaits.pc = s.pc ∧ s.eaAwaits.mem = s.mem ∧
      s.eaAwaits.mast = s.mast := by
  simp [State.eaAwaits, State.waiting, State.pc, State.mast]

theorem envName_of_held {e : Nat} (granted : e < s.grant.env.1) (held : (s.mast.envH s.cur.launch e).held = true) (asks : Bool) :
    s.envName e asks = .ok () := need_ok (by simp [granted, held])

theorem ea3_of_held {k : EaKind} {e x y : Fin 16}
    (held : ∀ h ∈ [e, x, y], h.val < s.grant.env.1 ∧ (s.mast.envH s.cur.launch h.val).held = true) (settled : s.settled = true)
    (room : s.mast.eaQueue.length < 32) (fresh : s.ctx.await = .none) :
    s.ea3 k e x y = .next (s.eaQueued (s.eaOp k e.val x.val y.val 0 0 0)).eaAwaits := by
  obtain ⟨first, second, third⟩ : _ ∧ _ ∧ _ := ⟨held e (by simp), held x (by simp), held y (by simp)⟩
  exact (envOp_fresh fresh).trans (finish_ok (ok_then (envName_of_held first.1 first.2 _) (ok_then (envName_of_held second.1 second.2 _)
    (ok_then (envName_of_held third.1 third.2 _) (eaIssue_of_plain settled room)))))

theorem exec_eclr (hi : Reg) (e : Fin 16) (lo : Src) : exec (.eclr hi e lo) s = s.envOp none (do
    s.envName e.val true
    s.eaIssue (s.eaOp .clr e.val 0 0 (Word.of (s.fsrc .f64 lo)) 0 (s.reg hi)) 0 0) := rfl

theorem exec_eclrFree (e : Fin 16) : exec (.eclrFree e) s = s.envOp none (do
    s.envName e.val true
    s.eaIssue (s.eaOp .free e.val 0 0 0 0 0) 0 0) := rfl

theorem exec_eleg (e x : Fin 16) : exec (.eleg e x) s = s.envOp none (do
    s.envName e.val true
    s.envName x.val true
    s.eaIssue (s.eaOp .leg e.val x.val 0 0 0 0) 0 0) := rfl

theorem ea_issued {i : Instr} {u : State} (takes : exec i s = s.envOp d issue) (fresh : s.ctx.await = .none) (issues : issue = .ok u) :
    exec i s = .next u := takes.trans ((envOp_fresh fresh).trans (finish_ok issues))

/-- Every operation that names held handles alone is queued. -/
theorem ea_issues {hi : Reg} {e x y : Fin 16} {lo : Src} (fresh : s.ctx.await = .none) (settled : s.settled = true)
    (room : s.mast.eaQueue.length < 32)
    (held : ∀ h ∈ [e, x, y], h.val < s.grant.env.1 ∧ (s.mast.envH s.cur.launch h.val).held = true) :
    ∀ z ∈ ([(.eclr hi e lo, .clr), (.eclrFree e, .free), (.emax e x y, .max), (.esum e x y, .sum), (.einf e x y, .inf),
        (.eleg e x, .leg)] : List (Instr × EaKind)),
      ∃ x y a n w, exec z.1 s = .next (s.eaQueued (s.eaOp z.2 e.val x y a n w)).eaAwaits := by
  have dest := envName_of_held (held e (by simp)).1 (held e (by simp)).2 true
  have operand := envName_of_held (held x (by simp)).1 (held x (by simp)).2 true
  intro z mem
  simp only [List.mem_cons, List.not_mem_nil, or_false] at mem
  obtain rfl | rfl | rfl | rfl | rfl | rfl := mem
  · exact ⟨_, _, _, _, _, ea_issued (exec_eclr hi e lo) fresh (ok_then dest (eaIssue_of_plain settled room))⟩
  · exact ⟨_, _, _, _, _, ea_issued (exec_eclrFree e) fresh (ok_then dest (eaIssue_of_plain settled room))⟩
  · exact ⟨_, _, _, _, _, ea3_of_held held settled room fresh⟩
  · exact ⟨_, _, _, _, _, ea3_of_held held settled room fresh⟩
  · exact ⟨_, _, _, _, _, ea3_of_held held settled room fresh⟩
  · exact ⟨_, _, _, _, _, ea_issued (exec_eleg e x) fresh (ok_then dest (ok_then operand (eaIssue_of_plain settled room)))⟩

/-! ### The head of the queue -/

theorem eaCompute_mem (m : Nat) (o : EaOp) : (s.eaCompute m o).2.mem = s.mem := by
  simp only [State.eaCompute]
  split
  · rfl
  · split
    · rfl
    · exact readBank_mem s _ _ _

theorem eaStart_of_free {o : EaOp} {rest : List EaOp} (head : (s.mastAt s.place.a).eaQueue = o :: rest) (fresh : o.result = none)
    (free : ∀ e, o.entry = some e → (s.mastAt s.place.a).opBlocked e [] = false) :
    exec .eaStart s = .next ((s.eaCompute s.place.a o).2.putMast s.place.a { (s.eaCompute s.place.a o).2.mastAt s.place.a with
      eaQueue := { o with result := some (s.eaCompute s.place.a o).1 } :: rest }) := by
  rw [show exec .eaStart s = execEaStart s from rfl, execEaStart]
  cases entry : o.entry with
  | none => simp only [head, fresh, entry, Option.isNone_none, Bool.not_false, Bool.and_true, if_true]
  | some e => simp only [head, fresh, entry, free e entry, Option.isNone_none, Bool.not_false, Bool.and_true, if_true]

/-- The mast after an operation's new envelope has replaced the destination's, and the operation has left the queue. -/
def Mast.eaCommitted (m : Mast) (o : EaOp) (rest : List EaOp) (h : Handle) : Mast := { m.setEnvH o.launch o.ed h with eaQueue := rest }

theorem eaCommit_of_plain {o : EaOp} {rest : List EaOp} {h : Handle} (head : (s.mastAt s.place.a).eaQueue = o :: rest)
    (ended : o.result = some (.commit h)) (plain : o.entry = none) :
    exec .eaCommit s = .next (((s.putMast s.place.a ((s.mastAt s.place.a).setEnvH o.launch o.ed h)).putMast s.place.a
      ((s.mastAt s.place.a).eaCommitted o rest h)).eaEnd o (.commit h)) := by
  rw [show exec .eaCommit s = execEaCommit s from rfl, execEaCommit]
  simp only [head, ended, plain, putMast_mastAt_same, Mast.eaCommitted]

/-- Settles O34: outcomes and waits, then issues, then the head of the queue. -/
theorem envelopeAccumulatorRuns : Obligations.EnvelopeAccumulatorRuns := by
  unfold Obligations.EnvelopeAccumulatorRuns
  refine ⟨fun s d e x y n a w => ⟨fun ended => ⟨fun i mem => ?value, fun i mem => ?effect⟩, fun c addr info can ended i mem => ?trap,
    fun runs i mem => ?waits⟩, fun s hi e x y lo fresh settled room held z mem => ?issue, fun s o rest head =>
      ⟨fun fresh free => ?start, fun h ended plain => ?commit⟩⟩
  case value =>
    obtain ⟨issue, takes⟩ := ea_values (s := s) d e n i mem
    exact ⟨_, takes.trans (envOp_answers ended), result_wrote s 1 d w⟩
  case effect =>
    obtain ⟨issue, takes⟩ := ea_effects (s := s) d e x y n a i mem
    exact ⟨_, takes.trans (envOp_goes ended), advance_wentOn s 1⟩
  case trap =>
    obtain ⟨_, issue, takes⟩ := ea_all (s := s) d e x y n a i mem
    exact ⟨_, takes.trans (envOp_trap ended), trapEntry_tookTrap _ _ _ _ _ can⟩
  case waits =>
    obtain ⟨_, issue, takes⟩ := ea_all (s := s) d e x y n a i mem
    obtain ⟨pc, waiting, regs, memory⟩ := (sameProgram.refl s).waits
    exact ⟨_, takes.trans (envOp_waits runs), waiting, pc, regs, memory, setCtx_ctxOnly _ _⟩
  case issue =>
    obtain ⟨x', y', a, n, w, queued⟩ := ea_issues fresh settled room held z mem
    obtain ⟨waiting, awaits, pc, memory, mast⟩ := eaAwaits_end (s.eaQueued (s.eaOp z.2 e.val x' y' a n w))
    have took := tookEntry_end (s := s).1
    refine ⟨_, { s.eaOp z.2 e.val x' y' a n w with entry := none, tag := s.mast.eaCount + 1 }, queued, waiting, awaits,
      pc.trans took.pc, fun b => ?_, ?_, rfl, rfl, rfl, rfl, rfl, ?_⟩
    · rw [memory]
      exact took.memory b
    · rw [mast, eaQueued_mast]
    · rw [mast, eaQueued_mast]
  case start =>
    exact ⟨_, eaStart_of_free head fresh free, fun b => by rw [putMast_mem, eaCompute_mem], by rw [putMast_mastAt_same]⟩
  case commit =>
    refine ⟨_, eaCommit_of_plain head ended plain, fun _ => rfl, ?_, ?_, ?_, ?_⟩
    · exact congrArg Mast.eaQueue (putMast_mastAt_same _ s.place.a _)
    · exact (congrArg (Mast.envH · o.launch o.ed) (putMast_mastAt_same _ s.place.a _)).trans (AMap.get_set_same _ _ _ _)
    · exact congrArg Context.await (putCtx_ctxAt_same _ o.ctx _)
    · exact congrArg Context.eopValid (putCtx_ctxAt_same _ o.ctx _)

end Sys2Proof.Machine
end

section
/-! SEND and SENDI (R288 to R290, R295): a message that passes every check is placed as a packet; O35. -/

namespace Sys2Proof.Machine

variable {s c : State} {a n : Word} {bs : List Byte}

/-- What every SEND asks of its source: a mast core's message of 8 to 256 bytes, whose bytes can be read. -/
structure sendable (s c : State) (a n : Word) (bs : List Byte) : Prop where
  mast : s.engine = .mast
  low : 8 ≤ n.toNat
  high : n.toNat ≤ 256
  doubles : n.toNat % 8 = 0
  aligned : a.toNat % 8 = 0
  place : s.messagePlace a n.toNat = true
  bytes : s.messageBytes a n.toNat = .ok (bs, c)

theorem sendable.length (ready : sendable s c a n bs) :
    (decide (8 ≤ n.toNat) && decide (n.toNat ≤ 256) && decide (n.toNat % 8 = 0)) = true := by
  rw [decide_eq_true ready.low, decide_eq_true ready.high, decide_eq_true ready.doubles]
  rfl

/-- The sender's right on a network (R295). -/
def mayUse (s : State) (net : Nat) : Bool := if net = 1 then s.ctx.kind ≠ .rep else s.mayTravel

theorem send_to_core {net : Nat} {d : Reg} {inl : Bool} (ready : sendable s c a n bs) (core : net ≠ 3) (may : mayUse s net = true)
    (small : (s.reg d).toNat < 2 ^ 13) (known : s.coreIn s.cur.launch (s.reg d).toNat = true)
    (code : inl = true → inlineOk (Word.of (ofBytes (bs.take 8))) n.toNat = true) (room : packetBytes n.toNat ≤ s.task.sqFree net) :
    s.send net d a n inl = .next ((c.emit net (s.reg d).toNat (packetBytes n.toNat) true (.msg bs inl)).advance 1) := by
  refine finish_ok (need_then (decide_eq_true ready.mast) (need_then may (need_then ready.length (need_then (decide_eq_true ready.aligned)
    (need_then ready.place (need_then ?_ (need_then ?_ (ok_then ready.bytes (need_then ?_ (ok_then (needShare_of_room (.inr room))
      (if_neg core)))))))))))
  · exact Bool.or_eq_true_iff.mpr (.inr (Bool.and_eq_true_iff.mpr ⟨decide_eq_true small, known⟩))
  · exact Bool.or_eq_true_iff.mpr (.inl (decide_eq_true core))
  · cases inl
    · rfl
    · exact code rfl

theorem send_to_cp {d : Reg} (ready : sendable s c a n bs) (travels : s.mayTravel = true) (small : (s.reg d).toNat ≤ 15)
    (room : packetBytes n.toNat ≤ s.task.sqFree 3) :
    s.send 3 d a n false =
      .next ((c.emit 3 (cpNode c.launch.queue) (packetBytes n.toNat) true (.sysMsg (s.reg d).toNat bs)).advance 1) :=
  finish_ok (need_then (decide_eq_true ready.mast) (need_then travels (need_then ready.length (need_then (decide_eq_true ready.aligned)
    (need_then ready.place (need_then rfl (need_then (Bool.or_eq_true_iff.mpr (.inr (decide_eq_true small)))
      (ok_then ready.bytes (need_then rfl (ok_then (needShare_of_room (.inr room)) rfl))))))))))

/-- The end of an instruction that has placed a packet. -/
theorem emit_end (net dst size : Nat) (rel : Bool) (k : PKind) :
    let u := (c.emit net dst size rel k).advance 1
    u.pc = c.pc + 4 ∧ sameRegs c u ∧ sameMemory c u ∧ u.net = c.net ++ [c.emitted net dst size rel k] := by
  obtain ⟨pc, regs, memory⟩ := (emit_sameProgram (s := c) net dst size rel k).acted 1
  exact ⟨pc, regs, memory, emit_net _ _ _ _ _⟩

/-- Settles O35: the network by network checks of one sender. -/
theorem sendsPlaceAPacket : Obligations.SendsPlaceAPacket := by
  unfold Obligations.SendsPlaceAPacket
  intro s c d a n bs dst k mast low high doubles aligned place bytes sent
  have ready : sendable s c (s.rc a) (s.src n) bs := ⟨mast, low, high, doubles, aligned, place, bytes⟩
  have placed {net to_ size : Nat} {kind : PKind} {i : Instr}
      (ends : exec i s = .next ((c.emit net to_ size true kind).advance 1)) : sent net to_ kind i := by
    obtain ⟨pc, regs, memory, packet⟩ := emit_end (c := c) net to_ size true kind
    exact ⟨_, _, ends, pc, regs, memory, packet, rfl, rfl, rfl, rfl⟩
  refine ⟨fun small known => ⟨fun travels room => ?_, fun reply room => ?_, fun code => ⟨fun travels room => ?_, fun reply room => ?_⟩⟩,
    fun travels small room => ?_⟩
  · exact placed (send_to_core ready (by decide) travels small known (fun inl => nomatch inl) room)
  · exact placed (send_to_core ready (by decide) (decide_eq_true reply) small known (fun inl => nomatch inl) room)
  · exact placed (send_to_core ready (by decide) travels small known (fun _ => code) room)
  · exact placed (send_to_core ready (by decide) (decide_eq_true reply) small known (fun _ => code) room)
  · exact placed (send_to_cp ready travels small room)

end Sys2Proof.Machine
end

section
/-! HRET (R293, R311): what a context's end and a transfer's end leave; O36. -/

namespace Sys2Proof.Machine

variable {s : State}

/-- The task of the context that ends, without the message that started the context. -/
def State.messageEnded (s : State) : State :=
  s.setTask { s.task with inbox := s.task.inbox.filter fun m => !(m.taken && decide (m.ctx = s.cur.ctx)) }

theorem hret_of_core (core : s.engine ≠ .hart) (splices : ∀ sp ∈ s.core.splices, sp.ctx ≠ s.cur.ctx) (thimbles : s.thimblesLeft = false)
    (drained : s.drained = true) (operation : s.ctx.eopValid = false) : exec .hret s = .next s.messageEnded.endCtx := by
  have ends : s.hretCore = .ok s.messageEnded.endCtx :=
    need_then (List.all_eq_true.mpr fun sp mem => decide_eq_true (splices sp mem)) (need_then (by rw [thimbles]; rfl)
      (need_then (by rw [drained, operation]; rfl) rfl))
  refine finish_ok ?_
  split
  · next hart => exact absurd hart core
  · exact ends

theorem hret_of_hart (hart : s.engine = .hart) (drained : s.drained = true) (moves : (s.mast.hy (hyNo s.cur.core)).queue = []) :
    let y := { s.mast.hy (hyNo s.cur.core) with stage := .ended, user := BitVec.ofNat 8 (s.reg (.w 8)).toNat }
    exec .hret s = .next ((s.setMast (s.mast.setHy (hyNo s.cur.core) y)).setCtx { s.ctx with status := .stopped }) := by
  refine finish_ok ?_
  rw [hart]
  exact need_then (by rw [drained, moves]; rfl) rfl

theorem freeStrand_strand {c : Context} {st : Strand} (there : (s.coreAt c.core).strands[c.strand]? = some st) :
    ((s.freeStrand c).coreAt c.core).strands[c.strand]? = some { st with ctx := none } := by
  simp only [State.freeStrand, putCore_coreAt_same, List.getElem?_modify_eq, there]
  rfl

/-- Settles O36: on a core, and on a halyard's hart. -/
theorem hretEndsTheContext : Obligations.HretEndsTheContext := by
  unfold Obligations.HretEndsTheContext
  refine fun s => ⟨fun core splices thimbles drained operation => ?_, fun hart drained moves => ?_⟩
  · refine ⟨_, hret_of_core core splices thimbles drained operation, rfl, fun _ => rfl, fun st there => ?_, ?_, fun m mem => ?_⟩
    · exact freeStrand_strand (s := s.messageEnded.setLaunch { s.launch with evdrop := s.launch.evdrop + s.ctx.pending.length }) there
    · exact congrArg Launch.evdrop (AMap.get_set_same s.launches _ _ _)
    · have inbox : s.messageEnded.endCtx.task.inbox = s.task.inbox.filter fun m => !(m.taken && decide (m.ctx = s.cur.ctx)) :=
        congrArg Task.inbox (AMap.get_set_same s.tasks _ _ _)
      rw [inbox, List.mem_filter] at mem
      rintro ⟨taken, own⟩
      simp [taken, own] at mem
  · refine ⟨_, hret_of_hart hart drained moves, congrArg Context.status (setCtx_ctx _ _), fun _ => rfl, ?_, ?_⟩
    · exact congrArg Halyard.stage ((congrArg (Mast.hy · (hyNo s.cur.core)) (setMast_mast s _)).trans (hy_setHy _ _ _))
    · exact (congrArg (fun y : Halyard => y.user.toNat) ((congrArg (Mast.hy · (hyNo s.cur.core)) (setMast_mast s _)).trans (hy_setHy _ _ _))).trans
        (BitVec.toNat_ofNat _ _)

end Sys2Proof.Machine
end

section
/-! Remote atomics at their sender (R296, R297): the reply, the request, and the atomic that stays on its mast. -/

namespace Sys2Proof.Machine

variable {s : State} {d : Reg} {n : Nat} {ea v nw : Word} {op : AtomOp} {trig : Bool}

theorem ratomic_replied {p : Nat} {e : Reg} {x : Answer} (replied : s.ctx.await = .reply p e (some x)) :
    s.ratomic n d ea op v nw trig = .next (s.atomReply d n ea x) := by rw [State.ratomic, replied]

theorem ratomic_fresh (fresh : ∀ i r g, s.ctx.await ≠ .reply i r g) :
    s.ratomic n d ea op v nw trig = s.finish (s.atomIssue d n ea op v nw trig) := by
  rw [State.ratomic]
  split
  · next reply => exact absurd reply (fresh _ _ _)
  · next reply => exact absurd reply (fresh _ _ _)
  · rfl

/-- The remote atomics with their operands, as R296 lists them. -/
theorem ratomic_all (t nat : Bool) (d : Reg) (a : RcSrc) (v nw : Src) :
    ∀ x ∈ ([(.aaddRemote t d a v, 1, .add, 0),
       (.acasRemote t d a v nw, 2, .cas, s.src nw), (.axchRemote t d a v, 1, .xch, 0),
       (.aminRemote t nat d a v, 1, if nat then .minN else .min, 0), (.amaxRemote t nat d a v, 1, if nat then .maxN else .max, 0),
       (.aandRemote t d a v, 1, .and, 0), (.aorRemote t d a v, 1, .or, 0)] : List (Instr × Nat × AtomOp × Word)),
      exec x.1 s = s.ratomic x.2.1 d (s.rc a) x.2.2.1 (s.src v) x.2.2.2 t := by
  intro x mem
  simp only [List.mem_cons, List.not_mem_nil, or_false] at mem
  obtain rfl | rfl | rfl | rfl | rfl | rfl | rfl := mem <;> rfl

/-! ### The request -/

theorem emit_ibRsv (net dst size : Nat) (rel : Bool) (k : PKind) : (s.emit net dst size rel k).task.ibRsv = s.task.ibRsv := by
  rw [emit_eq]
  split
  · rfl
  · exact (congrArg Task.ibRsv (setTask_task (s.placed net dst size rel k) _) :)

theorem atomSend_posted {dst : Nat} {k : PKind} (room : hasRoom s 0 32) :
    s.atomSend d n dst k true trig = .ok ((s.emit 0 dst 32 trig k).advance n) := ok_then (needShare_of_room room) rfl

/-- The sender while it waits for its reply, for which room is reserved. -/
def State.atomAsked (s : State) (d : Reg) (dst : Nat) (trig : Bool) (k : PKind) : State :=
  let t := (s.setTask { s.task with ibRsv := s.task.ibRsv + 32 }).emit 0 dst 32 trig k
  (t.setCtx { t.ctx with await := .reply s.nextPkt d none }).waiting

theorem atomSend_waits {dst : Nat} {k : PKind} (room : hasRoom s 0 32) (reply : s.task.replyRoom 32 = true) :
    s.atomSend d n dst k false trig = .ok (s.atomAsked d dst trig k) := ok_then (needShare_of_room room) (need_then reply rfl)

theorem setTask_sameProgram {t : Task} (globals : t.globals = s.task.globals) : sameProgram s (s.setTask t) :=
  .of_fields rfl rfl rfl ((congrArg Task.globals (setTask_task s t)).trans globals) rfl

theorem setCtx_sameProgram {c : Context} (file : c.file = s.ctx.file) (base : c.base = s.ctx.base) (pc : c.pc = s.ctx.pc) :
    sameProgram s (s.setCtx c) := .of_fields (by rw [setCtx_ctx, file]) (by rw [setCtx_ctx, base]) (by rw [setCtx_ctx, pc]) rfl rfl

theorem atomAsked_end (s : State) (d : Reg) (dst : Nat) (trig : Bool) (k : PKind) :
    ∃ q, waits s (s.atomAsked d dst trig k) ∧ (s.atomAsked d dst trig k).net = s.net ++ [q] ∧ q.kind = k ∧ q.dst = dst ∧
      (s.atomAsked d dst trig k).ctx.await = .reply q.id d none ∧ (s.atomAsked d dst trig k).task.ibRsv = s.task.ibRsv + 32 := by
  let r := s.setTask { s.task with ibRsv := s.task.ibRsv + 32 }
  let t := r.emit 0 dst 32 trig k
  have reserved : sameProgram s r := setTask_sameProgram rfl
  have sent : sameProgram r t := emit_sameProgram _ _ _ _ _
  have asked : sameProgram t (t.setCtx { t.ctx with await := .reply s.nextPkt d none }) := setCtx_sameProgram rfl rfl rfl
  refine ⟨r.emitted 0 dst 32 trig k, ((reserved.trans sent).trans asked).waits, ?_, rfl, rfl, ?_, ?_⟩
  · exact emit_net (s := r) 0 dst 32 trig k
  · exact (congrArg Context.await (setCtx_ctx _ _)).trans (congrArg Context.await (setCtx_ctx t _))
  · exact (emit_ibRsv (s := r) 0 dst 32 trig k).trans (congrArg Task.ibRsv (setTask_task s _))

/-- An address that a remote atomic's request can be sent for, the place that it goes to, and the translated place of a heap double. -/
def travels (s : State) (ea : Word) (trig : Bool) (dst key : Nat) : Prop :=
  space ea = 0xA ∧ s.coreIn s.cur.launch (bits ea 44 32) = true ∧ dst = bits ea 44 32 ∧ key = 0 ∨
    space ea = 0xB ∧ trig = false ∧ s.mastIn s.cur.launch (bits ea 41 32) = true ∧ dst = 8 * bits ea 41 32 ∧ key = 0 ∨
    space ea = 0x0 ∧ trig = false ∧ s.extentCheck ea 8 .atomic = .ok key ∧ dst = memCtl key

theorem atomIssue_travels {dst key : Nat} (aligned : ea.toNat % 8 = 0) (zeros : zeroFieldsOk ea = true) (may : s.mayTravel = true)
    (way : travels s ea trig dst key) :
    s.atomIssue d n ea op v nw trig =
      s.atomSend d n dst (.atomic op ea v nw trig (decide (d = .g 0)) key) (decide (d = .g 0)) trig := by
  obtain ⟨core, known, rfl, rfl⟩ | ⟨bank, rfl, known, rfl, rfl⟩ | ⟨heap, rfl, checked, rfl⟩ := way
  · refine need_then (by simp [may]) (need_then (decide_eq_true aligned) (need_then (by simp [atomSpace, core, zeros])
      (need_then (by simp [core]) ?_)))
    rw [core]
    exact need_then known rfl
  · refine need_then (by simp [may]) (need_then (decide_eq_true aligned) (need_then (by simp [atomSpace, bank, zeros]) (need_then rfl ?_)))
    rw [bank]
    exact need_then known rfl
  · refine need_then (by simp [may]) (need_then (decide_eq_true aligned) (need_then (by simp [atomSpace, heap, zeros]) (need_then rfl ?_)))
    rw [heap]
    exact ok_then checked rfl

/-! ### At its own core's memory or its mast's banks -/

theorem memCheck_in {spaces spaces' : List Nat} {k : Acc} {key : Nat} (checked : s.memCheck ea n k spaces = .ok key)
    (listed : spaces'.contains (space ea) = true) : s.memCheck ea n k spaces' = .ok key := by
  obtain ⟨_, aligned, checked⟩ := bind_ok.mp checked
  obtain ⟨_, inside, checked⟩ := bind_ok.mp checked
  refine bind_ok.mpr ⟨_, aligned, bind_ok.mpr ⟨(), ?_, checked⟩⟩
  have zeros : (spaces.contains (space ea) && zeroFieldsOk ea) = true := by
    by_contra outside
    rw [need, if_neg outside] at inside
    exact nomatch inside
  exact need_ok (Bool.and_eq_true_iff.mpr ⟨listed, (Bool.and_eq_true_iff.mp zeros).2⟩)

/-- The double after an atomic: an ACAS that finds another value than it expects writes nothing. -/
def State.atomWritten (s : State) (key : Nat) (op : AtomOp) (v nw : Word) : State :=
  if op = .cas ∧ s.dbl key ≠ v then s.correct key 8 else (s.correct key 8).setDbl key (op.apply (s.dbl key) v nw)

theorem atomicAt_written {spc key : Nat} (ready : atomicReady s ea spc key) :
    s.atomicAt ea key op v nw false = .ok (s.dbl key, s.atomWritten key op v nw) := by
  obtain ⟨-, clear, released, moved, own, bank, good⟩ := ready
  have first : (space ea ≠ 0x9 || !s.mast.touchesArmed (keyOff key) 8) = true := by by_cases h : space ea = 0x9 <;> simp [h, clear]
  have second : (space ea ≠ 0x9 || s.engine = .tackle || s.sbFree true (keyOff key) 8) = true := by
    by_cases h : space ea = 0x9 <;> by_cases h' : s.engine = .tackle <;> simp [h, h', bank]
  simp only [State.atomicAt, first, second, released, moved, own, good, dbl_correct, State.atomWritten, Option.isNone_none, Bool.not_false,
    Bool.and_true, need_true, ok_bind, Bool.and_eq_true, decide_eq_true_eq]

theorem atomIssue_local {key : Nat} (aligned : ea.toNat % 8 = 0) (zeros : zeroFieldsOk ea = true) (near : space ea = 0x8 ∨ space ea = 0x9)
    (ready : atomicReady s ea (space ea) key) :
    s.atomIssue d n ea op v nw false = .ok ((s.atomWritten key op v nw).result n d (s.dbl key)) := by
  have checked : s.memCheck ea 8 .atomic [0x8, 0x9] = .ok key := memCheck_in ready.1 (by rcases near with h | h <;> rw [h] <;> rfl)
  have acts := atomicAt_written (op := op) (v := v) (nw := nw) ready
  refine need_then (by rcases near with h | h <;> simp [h]) (need_then (decide_eq_true aligned)
    (need_then (by rcases near with h | h <;> simp [atomSpace, h, zeros]) (need_then rfl ?_)))
  rcases near with h | h <;> rw [h] <;> refine ok_then checked (need_then rfl ?_) <;> rw [acts] <;> rfl

end Sys2Proof.Machine
end

section
/-! Remote atomics at their target (R297, R299): the double, the trigger and the answer; O37. -/

namespace Sys2Proof.Machine

variable {s : State} {ea v nw : Word} {op : AtomOp} {trig posted : Bool} {p : Packet}

/-! ### A task after a packet has been dropped, and after a record has been pushed -/

theorem useSq_taskAt {β : Type} (g : Task → β) (shares : ∀ t u, g { t with sqUsed := u } = g t) (net src launch : Nat) (f : Nat → Nat) (j : Nat) :
    g ((s.useSq net src launch f).taskAt j) = g (s.taskAt j) := by
  simp only [State.useSq]
  split
  · rfl
  · by_cases own : j = taskKey launch src
    · rw [own, putTask_taskAt_same, shares]
    · rw [putTask_taskAt_other _ _ _ own]

theorem drop_taskAt {β : Type} (g : Task → β) (shares : ∀ t u, g { t with sqUsed := u } = g t) (p : Packet) (j : Nat) :
    g ((s.drop p).taskAt j) = g (s.taskAt j) := by
  simp only [State.drop]
  split
  · rfl
  · exact useSq_taskAt g shares _ _ _ _ j

theorem pushOn_of_room {k : Nat} {r : Record} (room : (s.taskAt k).deque.length + (s.taskAt k).reserved < 256) :
    ∃ t, s.pushOn k r = .ok t ∧ t.mem = s.mem ∧ t.net = s.net ∧ (t.taskAt k).deque = (s.taskAt k).deque ++ [r] := by
  have same : (s.putTask k (s.taskAt k)).taskAt k = s.taskAt k := putTask_taskAt_same s k _
  have ends : s.pushOn k r = .ok (((s.putTask k (s.taskAt k)).putTask k { (s.putTask k (s.taskAt k)).taskAt k with
      deque := ((s.putTask k (s.taskAt k)).taskAt k).deque ++ [r] }).wakeSteals ((s.putTask k (s.taskAt k)).taskAt k).core) := by
    rw [State.pushOn, roomOn_of_room room]
    rfl
  refine ⟨_, ends, rfl, rfl, ?_⟩
  exact (congrArg Task.deque (putTask_taskAt_same (s.putTask k (s.taskAt k)) k _)).trans (by rw [same])

theorem fire_bound {k off : Nat} (bound : (s.taskAt k).bind.has off = true) :
    s.fire k off = s.pushOn k (taskRecord ((s.taskAt k).bind.get off (0, 0)).1 0 1 ((s.taskAt k).bind.get off (0, 0)).2 (localAddr off)) :=
  if_pos bound

theorem fire_pushes {k off : Nat} (bound : (s.taskAt k).bind.has off = true)
    (room : (s.taskAt k).deque.length + (s.taskAt k).reserved < 256) :
    ∃ t, s.fire k off = .ok t ∧ t.mem = s.mem ∧ t.net = s.net ∧ (t.taskAt k).deque = (s.taskAt k).deque ++
      [taskRecord ((s.taskAt k).bind.get off (0, 0)).1 0 1 ((s.taskAt k).bind.get off (0, 0)).2 (localAddr off)] := by
  obtain ⟨t, pushed, rest⟩ := pushOn_of_room (r := taskRecord ((s.taskAt k).bind.get off (0, 0)).1 0 1 ((s.taskAt k).bind.get off (0, 0)).2
    (localAddr off)) room
  exact ⟨t, (fire_bound bound).trans pushed, rest⟩

theorem fire_kept {k off : Nat} (unbound : (s.taskAt k).bind.has off = false) (room : (s.taskAt k).pendTrig.length < 16) :
    s.fire k off = .ok (s.putTask k { s.taskAt k with pendTrig := (s.taskAt k).pendTrig ++ [off] }) :=
  (if_neg (by rw [unbound]; exact Bool.false_ne_true)).trans (if_pos room)

/-! ### The double at its target -/

theorem atomWritten_mem (key : Nat) (op : AtomOp) (v nw : Word) : (s.atomWritten key op v nw).mem =
    if op = .cas ∧ s.dbl key ≠ v then s.mem else Memory.write s.mem key (toBytes 8 (op.apply (s.dbl key) v nw).toNat) := by
  rw [State.atomWritten]
  split <;> simp

theorem atomWritten_net (key : Nat) (op : AtomOp) (v nw : Word) : (s.atomWritten key op v nw).net = s.net := by
  rw [State.atomWritten]
  split <;> simp

theorem atomWritten_dbl (form : memoryForm s) (key : Nat) (op : AtomOp) (v nw : Word) : (s.atomWritten key op v nw).dbl key =
    if op = .cas ∧ s.dbl key ≠ v then s.dbl key else op.apply (s.dbl key) v nw := by
  rw [State.atomWritten]
  split
  · exact dbl_correct _ _ _
  · exact setDbl_dbl_same (correct_form form _ _) _ _

theorem atomWritten_taskAt {β : Type} (g : Task → β) (count : ∀ t n, g { t with bcec := n } = g t) (arm : ∀ t w, g { t with binj := w } = g t)
    (key : Nat) (op : AtomOp) (v nw : Word) (j : Nat) : g ((s.atomWritten key op v nw).taskAt j) = g (s.taskAt j) := by
  rw [State.atomWritten]
  split
  · exact correct_taskAt g count _ _ _
  · exact (write_taskAt g count arm _ _ _).trans (correct_taskAt g count _ _ _)

/-- The target of a request that has come: the packet is dropped, and its double read and written. -/
def State.atomDone (s : State) (p : Packet) (key : Nat) (op : AtomOp) (v nw : Word) : State := (s.drop p).atomWritten key op v nw

theorem atomDone_task (p : Packet) (key : Nat) (op : AtomOp) (v nw : Word) (k : Nat) :
    ((s.atomDone p key op v nw).taskAt k).bind = (s.taskAt k).bind ∧ ((s.atomDone p key op v nw).taskAt k).deque = (s.taskAt k).deque ∧
      ((s.atomDone p key op v nw).taskAt k).reserved = (s.taskAt k).reserved ∧
      ((s.atomDone p key op v nw).taskAt k).pendTrig = (s.taskAt k).pendTrig := by
  have kept {β : Type} (g : Task → β) (count : ∀ t n, g { t with bcec := n } = g t) (arm : ∀ t w, g { t with binj := w } = g t)
      (shares : ∀ t u, g { t with sqUsed := u } = g t) : g ((s.atomDone p key op v nw).taskAt k) = g (s.taskAt k) :=
    (atomWritten_taskAt g count arm key op v nw k).trans (drop_taskAt g shares p k)
  refine ⟨kept Task.bind ?_ ?_ ?_, kept Task.deque ?_ ?_ ?_, kept Task.reserved ?_ ?_ ?_, kept Task.pendTrig ?_ ?_ ?_⟩ <;> exact fun _ _ => rfl

/-- A trigger fires where its double goes from another value to zero (R299). -/
theorem fires_iff {key : Nat} (form : memoryForm s) : (trig && s.dbl key ≠ 0 && (s.atomDone p key op v nw).dbl key = 0) = true ↔
    trig = true ∧ s.dbl key ≠ 0 ∧ (if op = .cas ∧ s.dbl key ≠ v then s.dbl key else op.apply (s.dbl key) v nw) = 0 := by
  rw [State.atomDone, atomWritten_dbl (form_of_mem (drop_mem s p) form), drop_dbl, Bool.and_eq_true_iff, Bool.and_eq_true_iff,
    decide_eq_true_iff, decide_eq_true_iff, and_assoc]

structure atomRequest (s : State) (p : Packet) (op : AtomOp) (ea v nw : Word) (trig posted : Bool) (key0 : Nat) : Prop where
  there : s.packet s.place.a = some p
  kind : p.kind = .atomic op ea v nw trig posted key0
  turn : s.mayApply p = true
  bank : s.atomWaits ea = false
  object : s.atomArmed ea = false

theorem drop_atomArmed (p : Packet) (ea : Word) : (s.drop p).atomArmed ea = s.atomArmed ea := by
  obtain ⟨_, _, same⟩ := drop_only (s := s) p
  rw [same]
  rfl

theorem ratomicTarget_outside {key0 : Nat} (request : atomRequest s p op ea v nw trig posted key0)
    (outside : (s.drop p).atomTarget p ea key0 = none) :
    exec .ratomicTarget s = .next ((s.drop p).atomAnswer p ea posted (.fault 0x04 ea)) := by
  obtain ⟨there, kind, turn, bank, object⟩ := request
  rw [show exec .ratomicTarget s = execRatomicTarget s from rfl, execRatomicTarget]
  simp only [there, kind, turn, bank, drop_atomArmed, object, outside, Bool.not_true, Bool.or_self, Bool.false_eq_true, if_false]

theorem ratomicTarget_inside {key0 key : Nat} (request : atomRequest s p op ea v nw trig posted key0)
    (inside : (s.drop p).atomTarget p ea key0 = some key) (sound : s.badDouble key 8 = none) :
    exec .ratomicTarget s = s.happen ((if trig && s.dbl key ≠ 0 && (s.atomDone p key op v nw).dbl key = 0
      then (s.atomDone p key op v nw).fire (taskKey p.launch p.dst) (bits ea 16 0) else .ok (s.atomDone p key op v nw)).map
        fun u => u.atomAnswer p ea posted (.value (s.dbl key))) := by
  obtain ⟨there, kind, turn, bank, object⟩ := request
  rw [show exec .ratomicTarget s = execRatomicTarget s from rfl, execRatomicTarget]
  simp only [there, kind, turn, bank, drop_atomArmed, object, inside, drop_badDouble, sound, dbl_correct, drop_dbl, State.atomDone,
    State.atomWritten, Option.isSome_none, Bool.not_true, Bool.or_self, Bool.false_eq_true, if_false, Bool.and_eq_true, decide_eq_true_eq]

/-! ### The answer -/

theorem isolation_net (launch agent : Nat) (ea : Word) : (s.isolation launch agent ea).net = s.net := by
  rw [State.isolation]
  obtain ⟨_, same⟩ := failLaunch_only (s := s.markFailed fun t => decide (t.launch = launch) && decide (t.core = s.senderCore launch agent))
    launch ⟨0x40, 0, s.senderCore launch agent, ea, 0⟩
  rw [same]
  rfl

/-- A request that waits is answered; a posted one is not. -/
theorem atomAnswer_net (posted : Bool) (a : Answer) : (posted = true → (s.atomAnswer p ea posted a).net = s.net) ∧
    (posted = false → ∃ q, (s.atomAnswer p ea posted a).net = s.net ++ [q] ∧ q.kind = .answer p.ctx a ∧ q.dst = p.src) := by
  cases posted with
  | true =>
    refine ⟨fun _ => ?_, fun no => nomatch no⟩
    cases a with
    | fault => exact isolation_net _ _ _
    | value => rfl
    | joined => rfl
  | false => exact ⟨fun no => (nomatch no), fun _ => ⟨⟨s.nextPkt, 1, p.dst, p.src, p.launch, 0, 0, 0, 0, flitsOf 32, false, .answer p.ctx a⟩, rfl, rfl, rfl⟩⟩

theorem atomAnswer_value (posted : Bool) (w : Word) :
    (s.atomAnswer p ea posted (.value w)).mem = s.mem ∧ (s.atomAnswer p ea posted (.value w)).tasks = s.tasks := by
  cases posted <;> exact ⟨rfl, rfl⟩

theorem atomAnswer_taskAt (posted : Bool) (w : Word) (k : Nat) : (s.atomAnswer p ea posted (.value w)).taskAt k = s.taskAt k := by
  rw [State.taskAt, (atomAnswer_value posted w).2, State.taskAt]

/-- The end of a request at a double of the launch's region, whose trigger, where it fires, leaves memory and packets alone. -/
theorem target_done {key0 key : Nat} (request : atomRequest s p op ea v nw trig posted key0)
    (inside : (s.drop p).atomTarget p ea key0 = some key) (sound : s.badDouble key 8 = none) {t : State}
    (fires : (if trig && s.dbl key ≠ 0 && (s.atomDone p key op v nw).dbl key = 0
      then (s.atomDone p key op v nw).fire (taskKey p.launch p.dst) (bits ea 16 0) else .ok (s.atomDone p key op v nw)) = .ok t)
    (mem : t.mem = (s.atomDone p key op v nw).mem) (net : t.net = (s.atomDone p key op v nw).net) :
    let u := t.atomAnswer p ea posted (.value (s.dbl key))
    let rest := s.net.filter fun r => decide (r.id ≠ p.id)
    exec .ratomicTarget s = .next u ∧ ((posted = true → u.net = rest) ∧
      (posted = false → ∃ q, u.net = rest ++ [q] ∧ q.kind = .answer p.ctx (.value (s.dbl key)) ∧ q.dst = p.src)) ∧
      u.mem = if op = .cas ∧ s.dbl key ≠ v then s.mem else Memory.write s.mem key (toBytes 8 (op.apply (s.dbl key) v nw).toNat) := by
  intro u rest
  have kept : t.net = rest := net.trans ((atomWritten_net key op v nw).trans (drop_net p))
  refine ⟨?_, ?_, ?_⟩
  · rw [ratomicTarget_inside request inside sound, fires]
    rfl
  · have answers := atomAnswer_net (s := t) (p := p) (ea := ea) posted (.value (s.dbl key))
    rwa [kept] at answers
  · rw [(atomAnswer_value posted _).1, mem, State.atomDone, atomWritten_mem, drop_dbl, drop_mem]

/-- Settles O37: the sender by the state of its reply, then the target by its trigger. -/
theorem remoteAtomicsComplete : Obligations.RemoteAtomicsComplete := by
  unfold Obligations.RemoteAtomicsComplete
  refine ⟨?sender, ?target⟩
  case sender =>
    intro s t nat d e a v nw p w sv all ea
    have takes (d : Reg) : ∀ x ∈ all d, exec x.1 s = s.ratomic x.2.1 d ea x.2.2.1 sv x.2.2.2 t := ratomic_all t nat d a v nw
    refine ⟨fun replied x mem => ?value, fun c addr can replied x mem => ?fault, fun fresh aligned zeros =>
      ⟨fun dst key may room way => ⟨fun x mem => ?posted, fun named reply x mem => ?asked⟩, fun key plain near ready => ?near⟩⟩
    case value => exact ⟨_, (takes d x mem).trans (ratomic_replied replied), result_wrote s _ d w⟩
    case fault => exact ⟨_, (takes d x mem).trans (ratomic_replied replied), trapEntry_tookTrap _ _ _ _ _ can⟩
    case posted =>
      have issues := atomIssue_travels (d := .g 0) (n := x.2.1) (op := x.2.2.1) (v := sv) (nw := x.2.2.2) aligned zeros may way
      obtain ⟨pc, regs, memory⟩ := (emit_sameProgram (s := s) 0 dst 32 t (.atomic x.2.2.1 ea sv x.2.2.2 t true key)).acted x.2.1
      exact ⟨_, _, (takes _ x mem).trans ((ratomic_fresh fresh).trans (finish_ok (issues.trans (atomSend_posted room)))), pc, regs, memory,
        emit_net _ _ _ _ _, rfl, rfl⟩
    case asked =>
      have issues := atomIssue_travels (d := d) (n := x.2.1) (op := x.2.2.1) (v := sv) (nw := x.2.2.2) aligned zeros may way
      rw [decide_eq_false named] at issues
      obtain ⟨q, waits, net, kind, place, awaits, reserved⟩ := atomAsked_end s d dst t (.atomic x.2.2.1 ea sv x.2.2.2 t false key)
      exact ⟨_, q, (takes _ x mem).trans ((ratomic_fresh fresh).trans (finish_ok (issues.trans (atomSend_waits room reply)))), waits, net,
        kind, place, awaits, reserved⟩
    case near =>
      intro old c x mem
      subst plain
      exact ⟨_, (takes _ x mem).trans ((ratomic_fresh fresh).trans (finish_ok (atomIssue_local aligned zeros near ready))), result_wrote _ _ d _⟩
  case target =>
    intro s p op ea v nw trig posted key0 there kind turn bank object net answers k off b
    have request : atomRequest s p op ea v nw trig posted key0 := ⟨there, kind, turn, bank, object⟩
    refine ⟨fun key inside sound form => ?_, fun outside => ?outside⟩
    intro old new done
    refine ⟨fun idle => ?plain, fun armed some zero => ?fires⟩
    case plain =>
      have calm : ¬ (trig && s.dbl key ≠ 0 && (s.atomDone p key op v nw).dbl key = 0) = true := by
        rw [fires_iff form]
        rintro ⟨armed, some, zero⟩
        obtain idle | idle | idle := idle
        · exact absurd armed (by rw [idle]; exact Bool.false_ne_true)
        · exact some idle
        · exact idle zero
      exact ⟨_, target_done request inside sound (if_neg calm) rfl rfl⟩
    case fires =>
      have fires := (fires_iff (p := p) (trig := trig) (op := op) (v := v) (nw := nw) form).mpr ⟨armed, some, zero⟩
      obtain ⟨bind, deque, reserved, pending⟩ := atomDone_task (s := s) p key op v nw k
      refine ⟨fun bound room => ?_, fun unbound room => ?_⟩
      · obtain ⟨t, fired, mem, net, record⟩ := fire_pushes (s := s.atomDone p key op v nw) (k := k) (off := off)
          (by rwa [bind]) (by rwa [deque, reserved])
        refine ⟨_, target_done request inside sound ((if_pos fires).trans fired) mem net, ?_⟩
        rw [atomAnswer_taskAt, record, bind, deque]
      · have fired := fire_kept (s := s.atomDone p key op v nw) (k := k) (off := off) (by rwa [bind]) (by rwa [pending])
        refine ⟨_, target_done request inside sound ((if_pos fires).trans fired) rfl rfl, ?_⟩
        rw [atomAnswer_taskAt, putTask_taskAt_same]
        exact congrArg (· ++ [off]) pending
    case outside =>
      have net := atomAnswer_net (s := s.drop p) (p := p) (ea := ea) posted (.fault 0x04 ea)
      rw [drop_net] at net
      refine ⟨_, ratomicTarget_outside request outside, fun x => ?_, net, fun isPosted => ?_⟩
      · cases posted with
        | true => rw [State.atomAnswer, isolation_mem, drop_mem]
        | false => exact congrArg (Memory.get · x) (drop_mem s p)
      · subst isPosted
        exact failLaunch_failure _ _ _

end Sys2Proof.Machine
end

section
/-! Packets and messages at their targets (R113, R286, R291, R292); O38. -/

namespace Sys2Proof.Machine

variable {s : State} {p : Packet}

/-! ### Packets -/

theorem remoteStoreApply_of_held {ea : Word} {bs : List Byte} (there : s.packet s.place.a = some p) (kind : p.kind = .rstore ea bs)
    (turn : s.mayApply p = true) :
    let m := s.mastAt (bits ea 41 32)
    let off := m.storeBank (bits ea 19 16) * 65536 + bits ea 15 0
    conflict m.sb true (off / 32) ((off + bs.length + 31) / 32) = false → m.holds p.launch (bits ea 19 16) = true →
      m.isShadow (bits ea 19 16) = false → m.touchesArmed (off / 8 * 8) 8 = false →
      exec .remoteStoreApply s = .next ((s.drop p).write (bankKey (bits ea 41 32) off) bs) := by
  intro m off free holds reached clear
  rw [show exec .remoteStoreApply s = execRemoteStoreApply s from rfl, execRemoteStoreApply]
  simp only [there, kind, turn]
  rw [if_neg, if_neg]
  · simp only [Bool.or_eq_true, Bool.not_eq_true', not_or, Bool.not_eq_false, Bool.not_eq_true]
    exact ⟨⟨holds, reached⟩, clear⟩
  · rw [Bool.not_true, Bool.false_or]
    exact Bool.eq_false_iff.mp free

/-- A context whose reply has come. -/
def Context.replied (c : Context) (id : Nat) (d : Reg) (a : Answer) : Context := { c with await := .reply id d (some a) }

theorem replyArrive_of_waiting {c id : Nat} {a : Answer} {d : Reg} (there : s.packet s.place.a = some p) (kind : p.kind = .answer c a)
    (waits : (s.ctxAt c).await = .reply id d none) (turn : s.mayApply p = true) :
    let t := (s.drop p).putCtx c ((s.ctxAt c).replied id d a)
    let k := (s.ctxAt c).task
    exec .replyArrive s = .next (t.putTask k { t.taskAt k with
      ibRsv := (t.taskAt k).ibRsv - (if (t.taskAt k).ibRsv < 32 then (t.taskAt k).ibRsv else 32) }) := by
  rw [show exec .replyArrive s = execReplyArrive s from rfl, execReplyArrive]
  simp only [there, kind, waits, turn, if_true]
  rfl

/-- The send share of a packet that leaves gets its space back. -/
def State.shareBack (s : State) (p : Packet) : State := if p.bytes = 0 then s else s.useSq p.net p.src p.launch (· - p.bytes)

theorem packetLeave_of_turn (there : s.packet s.place.a = some p) (stays : p.left = false) (credits : s.hasCredits p = true)
    (ready : s.pathReady p = true) (turn : s.inTurn p = true) :
    exec .packetLeave s = .next { s.shareBack p with
      net := (s.shareBack p).net.map fun q => if q.id = p.id then { q with left := true } else q } := by
  rw [show exec .packetLeave s = execPacketLeave s from rfl, execPacketLeave]
  simp only [there, stays, credits, ready, turn, Bool.not_true, Bool.or_self, Bool.false_eq_true, if_false, State.shareBack]

theorem shareBack_share (share : p.net ≠ 2) : ((s.shareBack p).taskAt (taskKey p.launch p.src)).sqUsed =
    (s.taskAt (taskKey p.launch p.src)).sqUsed.sub p.net p.bytes := by
  rw [State.shareBack]
  split
  · next none => rw [none, Shares.sub]; simp
  · rw [State.useSq, if_neg share]
    exact (congrArg Task.sqUsed (putTask_taskAt_same s _ _)).trans rfl

theorem shareBack_steal (steal : p.net = 2) : ((s.shareBack p).coreAt p.src).stealSq = (s.coreAt p.src).stealSq - p.bytes := by
  rw [State.shareBack]
  split
  · next none => rw [none, Nat.sub_zero]
  · rw [State.useSq, if_pos steal]
    exact congrArg Core.stealSq (putCore_coreAt_same s _ _)

theorem shareBack_mem : (s.shareBack p).mem = s.mem := by
  rw [State.shareBack]
  split
  · rfl
  · rw [State.useSq]
    split <;> rfl

theorem errorReply_of_turn (there : s.packet s.place.a = some p) (kind : p.kind = .errReply) (turn : s.mayApply p = true) :
    let t := (s.drop p).taskAt (taskKey p.launch p.dst)
    exec .errorReply s = .next ((s.drop p).putTask (taskKey p.launch p.dst) { t with mfault := Nat.min (t.mfault + 1) (2 ^ 32 - 1) }) := by
  rw [show exec .errorReply s = execErrorReply s from rfl, execErrorReply]
  simp only [there, kind, turn, if_true]

/-! ### Messages -/

theorem msgArrive_of_gone {bs : List Byte} {inl : Bool} (there : s.packet s.place.a = some p) (kind : p.kind = .msg bs inl)
    (turn : s.mayApply p = true) (gone : (s.taskAt (taskKey p.launch p.dst)).live = false) : exec .msgArrive s = .next (s.drop p) := by
  rw [show exec .msgArrive s = execMsgArrive s from rfl, execMsgArrive]
  simp only [there, kind, turn, gone, Bool.not_true, Bool.not_false, Bool.true_or, Bool.false_eq_true, if_false, if_true]

theorem msgArrive_of_room {bs : List Byte} {inl : Bool} {off : Nat} (there : s.packet s.place.a = some p) (kind : p.kind = .msg bs inl)
    (turn : s.mayApply p = true) (live : (s.taskAt (taskKey p.launch p.dst)).live = true) (runs : (s.launchAt p.launch).killed = false)
    (room : (s.taskAt (taskKey p.launch p.dst)).runFor p.net bs.length = some off) :
    let t := (s.drop p).write (localKey p.dst off) bs
    let k := taskKey p.launch p.dst
    exec .msgArrive s = .next (t.putTask k { t.taskAt k with
      inbox := (t.taskAt k).inbox ++ [⟨p.net, Word.of p.src, bs.length, inl, off, false, 0⟩] }) := by
  rw [show exec .msgArrive s = execMsgArrive s from rfl, execMsgArrive]
  simp only [there, kind, turn, live, runs, room, Bool.not_true, Bool.or_self, Bool.false_eq_true, if_false]

theorem msgDispatch_of_next {k ix : Nat} {m : Msg} (may : s.mayTakeNew s.place.a s.place.b = true)
    (next : s.nextMessage s.place.a = some (k, ix, m)) : exec .msgDispatch s = .next (s.dispatchMsg s.place.a s.place.b k ix m) := by
  rw [show exec .msgDispatch s = execMsgDispatch s from rfl, execMsgDispatch]
  simp only [may, next, if_true]

/-- The context that an inline message starts. -/
theorem dispatchMsg_inline (core strand k ix : Nat) {m : Msg} (inline : m.inl = true) :
    let u := s.dispatchMsg core strand k ix m
    u.mem = s.mem ∧ (u.ctxAt s.nextCtx).status = .running ∧ (u.ctxAt s.nextCtx).kind = msgKind m.net ∧
      (u.ctxAt s.nextCtx).pc = localAddr m.off + 8 ∧ (u.ctxAt s.nextCtx).strand = strand := by
  simp only [State.dispatchMsg, inline, Bool.true_or, if_true]
  exact ⟨rfl, by simp [State.newCtx, State.focus, State.ctxAt, State.setCtx, State.setTask, State.ctx, State.putCore]⟩

/-- Settles O38: packets by kind, then messages. -/
theorem packetsAndMessagesArrive : Obligations.PacketsAndMessagesArrive := by
  unfold Obligations.PacketsAndMessagesArrive
  refine ⟨fun s p there => ?_, fun s p bs inl => ?_, fun s k ix m => ?_⟩
  · refine ⟨fun ea bs kind turn => ?store, fun c a id d kind waits turn => ?reply, fun stays credits ready turn => ?leave, fun kind turn => ?error⟩
    case store =>
      intro m b off free holds reached clear
      obtain ⟨_, _, _, same⟩ := write_rest (s.drop p) (bankKey (bits ea 41 32) off) bs
      refine ⟨_, remoteStoreApply_of_held there kind turn free holds reached clear, ?_, ?_⟩
      · rw [same, drop_net]
      · rw [write_mem, drop_mem]
    case reply =>
      have ctx : ((s.drop p).putCtx c ((s.ctxAt c).replied id d a)).ctxAt c = (s.ctxAt c).replied id d a := putCtx_ctxAt_same _ _ _
      exact ⟨_, replyArrive_of_waiting there kind waits turn, drop_net p, fun _ => by rw [putTask_mem, putCtx_mem, drop_mem],
        (congrArg Context.await ctx :), (congrArg Context.pc ctx :)⟩
    case leave =>
      refine ⟨_, packetLeave_of_turn there stays credits ready turn, fun _ => congrArg (Memory.get · _) shareBack_mem, fun q mem own => ?_,
        shareBack_share, shareBack_steal⟩
      obtain ⟨r, -, rfl⟩ := List.mem_map.mp mem
      by_cases named : r.id = p.id
      · rw [if_pos named]
      · rw [if_neg named] at own
        exact absurd own named
    case error =>
      refine ⟨_, errorReply_of_turn there kind turn, drop_net p, fun _ => by rw [putTask_mem, drop_mem], ?_⟩
      rw [putTask_taskAt_same]
      exact congrArg (fun n => Nat.min (n + 1) (2 ^ 32 - 1)) (drop_taskAt Task.mfault (fun _ _ => rfl) p _)
  · intro k there kind turn
    refine ⟨fun gone => ⟨_, msgArrive_of_gone there kind turn gone, drop_net p, fun _ => by rw [drop_mem]⟩, fun off live runs room => ?_⟩
    obtain ⟨_, _, _, same⟩ := write_rest (s.drop p) (localKey p.dst off) bs
    refine ⟨_, msgArrive_of_room there kind turn live runs room, ?_, ?_, ?_⟩
    · rw [putTask_net, same, drop_net]
    · rw [putTask_mem, write_mem, drop_mem]
    · rw [putTask_taskAt_same]
      exact congrArg (· ++ _) ((write_taskAt Task.inbox (fun _ _ => rfl) (fun _ _ => rfl) _ _ k).trans
        (drop_taskAt Task.inbox (fun _ _ => rfl) p k))
  · intro core may next inline some
    obtain ⟨mem, rest⟩ := dispatchMsg_inline (s := s) core s.place.b k ix inline
    exact ⟨_, msgDispatch_of_next may next, fun _ => by rw [mem], rest⟩

end Sys2Proof.Machine
end

section
/-! Trigger bindings and error injection (R130, R298 to R300); O39. -/

namespace Sys2Proof.Machine

variable {s : State}

theorem tbind_of_local {k : Reg} {a h : RcSrc} {i : Nat} (checked : s.trigCheck (s.rc a) = .ok ()) (aligned : (s.rc h).toNat % 4 = 0)
    (handler : s.task.handlerIndex (s.rc h) = some i) (room : s.task.bind.has (bits (s.rc a) 16 0) = true ∨ s.task.bind.length < 32)
    (calm : ∀ p ∈ s.task.pendTrig, p ≠ bits (s.rc a) 16 0) :
    exec (.tbind k a h) s = .next ((s.setTask { s.task with
      bind := s.task.bind.set (bits (s.rc a) 16 0) (i, BitVec.ofNat 32 (s.reg k).toNat)
      pendTrig := s.task.pendTrig.filter fun p => decide (p ≠ bits (s.rc a) 16 0) }).advance 1) := by
  refine finish_ok (ok_then checked (need_then (decide_eq_true aligned) ?_))
  rw [handler]
  have none : (s.task.pendTrig.filter fun p => decide (p = bits (s.rc a) 16 0)) = [] :=
    List.filter_eq_nil_iff.mpr fun p mem => by simp [calm p mem]
  refine need_then (Bool.or_eq_true_iff.mpr (room.imp_right decide_eq_true)) ?_
  simp only [none, List.length_nil, List.range_zero, List.foldlM_nil]
  rfl

theorem tunbind_of_local {a : RcSrc} (checked : s.trigCheck (s.rc a) = .ok ()) :
    exec (.tunbind a) s = .next ((s.setTask { s.task with bind := s.task.bind.erase (bits (s.rc a) 16 0) }).advance 1) :=
  finish_ok (ok_then checked rfl)

theorem binjOk_of_held {v : Word} (mast : s.engine = .mast) (arms : bit v 63 = true →
    s.mast.holds s.cur.launch (bits v 51 48) = true ∧ popcN 8 (bits v 7 0) ≠ 3 ∧ popcN 8 (bits v 7 0) ≠ 5 ∧ popcN 8 (bits v 7 0) ≠ 7) :
    s.binjOk v = true := by
  by_cases armed : bit v 63 = true
  · obtain ⟨holds, three, five, seven⟩ := arms armed
    simp [State.binjOk, mast, holds, three, five, seven]
  · simp [State.binjOk, armed]

theorem binjArm_of_ok {r : Reg} (mast : s.engine = .mast) (ok : s.binjOk (s.reg r) = true) :
    exec (.binjArm r) s = .next ((s.setTask { s.task with binj := binjFields (s.reg r) }).advance 1) := by
  refine finish_ok (need_then (by rw [mast]; rfl) (need_then ok ?_))
  rw [mast]
  rfl

/-- Settles O39. -/
theorem triggersAndInjectionsComplete : Obligations.TriggersAndInjectionsComplete := by
  unfold Obligations.TriggersAndInjectionsComplete
  refine ⟨fun s k a h => ?_, fun s r => ?_⟩
  · intro off checked
    refine ⟨fun i aligned handler room calm => ?_, ?_⟩
    · obtain ⟨pc, regs, memory⟩ := (setTask_sameProgram (s := s) (t := { s.task with
        bind := s.task.bind.set off (i, BitVec.ofNat 32 (s.reg k).toNat)
        pendTrig := s.task.pendTrig.filter fun p => decide (p ≠ off) }) rfl).acted 1
      exact ⟨_, tbind_of_local checked aligned handler room calm, pc, regs, memory, congrArg Task.bind (setTask_task s _)⟩
    · obtain ⟨pc, regs, memory⟩ := (setTask_sameProgram (s := s) (t := { s.task with bind := s.task.bind.erase off }) rfl).acted 1
      exact ⟨_, tunbind_of_local checked, pc, regs, memory, congrArg Task.bind (setTask_task s _)⟩
  · intro v w mast arms
    obtain ⟨pc, regs, memory⟩ := (setTask_sameProgram (s := s) (t := { s.task with binj := binjFields v }) rfl).acted 1
    exact ⟨_, binjArm_of_ok mast (binjOk_of_held mast arms), pc, regs, memory, congrArg Task.binj (setTask_task s _)⟩

end Sys2Proof.Machine
end

section
/-! Halyards (R307 to R317): the hart's registers, the start of a transfer, its moves and its completion, and the launch read; O42. -/

namespace Sys2Proof.Machine

variable {s : State}

/-! ### A halyard of a mast -/

@[simp] theorem putHy_hyAt (mast h : Nat) (y : Halyard) : (s.putHy mast h y).hyAt mast h = y := by
  rw [State.hyAt, State.putHy, putMast_mastAt_same, hy_setHy]

@[simp] theorem setHart_hart (y : Halyard) : (s.setHart y).hart = y := by
  rw [State.setHart, State.hart, setMast_mast, setMast_cur, hy_setHy]

theorem setHart_sameProgram (y : Halyard) : sameProgram s (s.setHart y) := setMast_sameProgram _

theorem hart_of_masts {t : State} (masts : t.masts = s.masts) (cur : t.cur = s.cur) : t.hart = s.hart := by
  rw [State.hart, State.mast, masts, cur]
  rfl

theorem retire_hy (m : Mast) (e h : Nat) : (m.retire e).hy h = m.hy h := rfl

theorem setHy_sb (m : Mast) (h : Nat) (y : Halyard) : (m.setHy h y).sb = m.sb := by
  rw [Mast.setHy]
  split <;> rfl

/-! ### The registers of a hart (R312) -/

theorem hartOnly_of_hart {n : Nat} {i : Instr} (hart : s.engine = .hart) (range : csrClosed n = false) (own : csrOn .hart n = true) :
    s.hartOnly n i = .ok () :=
  ok_then (csrPrivilege_open ⟨range, fun mast => absurd (hart.symm.trans mast) (by decide)⟩) (need_ok (by rw [State.csrExists, hart]; exact own))

/-- The move that mvgo's value names. -/
def State.moveOf (s : State) (v : Word) : Move := ⟨s.hart.mvsrc, s.hart.mvdst, bits v 35 32, bits v 31 0, s.ctx.order, s.ctx.relOrd⟩

def State.moveLegal (s : State) (v : Word) : Prop :=
  bits v 63 36 = 0 ∧ (s.moveOf v).mode < 6 ∧ moveCountOk (s.moveOf v).mode (s.moveOf v).n = true

theorem moveLegal_iff (v : Word) :
    (decide (bits v 63 36 = 0) && decide (bits v 35 32 < 6) && moveCountOk (bits v 35 32) (bits v 31 0)) = true ↔ s.moveLegal v := by
  rw [Bool.and_eq_true_iff, Bool.and_eq_true_iff, decide_eq_true_iff, decide_eq_true_iff, and_assoc]
  rfl

/-- A hart's state after a move has been queued. -/
def State.moveQueued (s c : State) (m : Move) : State := c.setHart { c.hart with queue := s.hart.queue ++ [m] }

theorem mvgo_of_legal {c : State} {r : Reg} {t : Transfer} {rest : List Transfer} (hart : s.engine = .hart) (legal : s.moveLegal (s.reg r))
    (room : s.hart.queue.length < 8) (runs : s.hart.journal = t :: rest) (checked : s.moveCheck t (s.moveOf (s.reg r)) = .ok c) :
    exec (.mvgo r) s = .next (((s.moveQueued c (s.moveOf (s.reg r))).setCtx
      { (s.moveQueued c (s.moveOf (s.reg r))).ctx with order := (s.moveQueued c (s.moveOf (s.reg r))).ctx.order + 1 }).advance 1) := by
  refine finish_ok (ok_then (hartOnly_of_hart hart rfl (by decide)) (need_then ((moveLegal_iff _).mpr legal)
    (need_then (decide_eq_true room) ?_)))
  rw [runs]
  exact ok_then checked rfl

theorem finish_traps {x : Ex State} {cause : Nat} {addr info : Word} (traps : x = .error (.trap cause addr info)) :
    s.finish x = .next (s.trapEntry cause addr info s.pc) := by
  rw [traps]
  rfl

theorem mvgo_of_illegal {r : Reg} (hart : s.engine = .hart) (illegal : ¬ s.moveLegal (s.reg r)) :
    exec (.mvgo r) s = .next (s.trapEntry 0x01 s.pc 0 s.pc) := by
  refine finish_traps (ok_then (hartOnly_of_hart hart rfl (by decide)) (need_stops ?_))
  exact Bool.eq_false_iff.mpr fun holds => illegal ((moveLegal_iff _).mp holds)

theorem mvwait_of_none (d : Reg) (hart : s.engine = .hart) (none : s.hart.queue = []) :
    exec (.mvwait d) s = .next (s.result 1 d (Word.of s.hart.flags)) :=
  finish_ok (ok_then (hartOnly_of_hart hart rfl (by decide)) (need_then (by rw [none]; rfl) rfl))

theorem mvwait_of_some (d : Reg) (hart : s.engine = .hart) (some : s.hart.queue ≠ []) : exec (.mvwait d) s = .next s.waiting :=
  finish_wait (ok_then (hartOnly_of_hart hart rfl (by decide)) (need_stops (List.isEmpty_eq_false_iff.mpr some)))

theorem hidx_of_line {d : Reg} {l : List (BitVec 32)} {rest : List (List (BitVec 32))} (hart : s.engine = .hart) (line : s.hart.ixLines = l :: rest) :
    exec (.hidx d) s = .next ((s.setHart { s.hart with ixLines := rest, ixCur := l }).result 1 d (Word.of l.length)) := by
  refine finish_ok (ok_then (hartOnly_of_hart hart rfl (by decide)) ?_)
  rw [line]

theorem hidxw_of_word {d : Reg} {x : BitVec 32} {rest : List (BitVec 32)} (hart : s.engine = .hart) (word : s.hart.ixCur = x :: rest) :
    exec (.hidxw d) s = .next ((s.setHart { s.hart with ixCur := rest }).result 1 d (x.zeroExtend 64)) := by
  refine finish_ok (ok_then (hartOnly_of_hart hart rfl (by decide)) ?_)
  rw [word]

theorem hidxw_of_end (d : Reg) (hart : s.engine = .hart) (ended : s.hart.ixCur = []) :
    exec (.hidxw d) s = .next (s.result 1 d 0xFFFFFFFFFFFFFFFF) := by
  refine finish_ok (ok_then (hartOnly_of_hart hart rfl (by decide)) ?_)
  rw [ended]

/-! ### The start of a transfer (R311, R313) -/

/-- A halyard that starts a transfer. -/
def Halyard.started (y : Halyard) (t : Transfer) : Halyard :=
  { y with stage := .running, hart := 0, plan := planOf t, queue := [], flags := 0, packOff := 0, fault := none,
           derrAddr := 0, user := 0, mvsrc := 0, mvdst := 0, ixLines := [], ixCur := [], extents := [] }

variable {t : Transfer} {rest : List Transfer}

theorem halyardStart_eq (head : (s.hyAt s.place.a s.place.b).journal = t :: rest) (idle : (s.hyAt s.place.a s.place.b).stage = .idle)
    (runs : s.runs t.launch = true) (fresh : t.told = false) :
    let mast := s.place.a
    let h := s.place.b
    let y := (s.hyAt mast h).started t
    let pc := 0x1000 + 256 * ((s.mastAt mast).grants.get t.launch Grant.init).ucode.1 + (s.launchAt t.launch).kernels.get t.kernel 0
    exec .halyardStart s =
      if s.needsBudget mast t && t.budgetOf < 8 then .next ((s.putHy mast h y).stopTransfer mast h 0x0D t.hdst)
      else if t.copy.isSome || t.kernel ≤ 4 then .next (s.putHy mast h y)
      else .next (({ s with ctxs := s.ctxs.set s.nextCtx (hartCtx mast h t pc), nextCtx := s.nextCtx + 1 } : State).putHy mast h
        { y with hart := s.nextCtx }) := by
  rw [show exec .halyardStart s = execHalyardStart s from rfl, execHalyardStart]
  simp only [head, idle, runs, fresh, decide_true, Bool.and_true, if_true, Bool.false_eq_true, if_false, Halyard.started]

theorem enough_of_budget {mast : Nat} (budget : s.needsBudget mast t = false ∨ 8 ≤ t.budgetOf) :
    ¬ (s.needsBudget mast t && t.budgetOf < 8) = true := by
  rcases budget with none | large
  · rw [none]
    exact Bool.false_ne_true
  · rw [decide_eq_false (Nat.not_lt.mpr large), Bool.and_false]
    exact Bool.false_ne_true

theorem stopTransfer_eq {mast h cause : Nat} {addr : Word} : ∃ cs,
    s.stopTransfer mast h cause addr = { s.putHy mast h { s.hyAt mast h with stage := .ended, fault := some (cause, addr), queue := [], plan := [] }
      with ctxs := cs } := by
  simp only [State.stopTransfer]
  split
  · exact ⟨_, rfl⟩
  · exact ⟨_, rfl⟩

theorem stopTransfer_hyAt (mast h cause : Nat) (addr : Word) : (s.stopTransfer mast h cause addr).hyAt mast h =
    { s.hyAt mast h with stage := .ended, fault := some (cause, addr), queue := [], plan := [] } := by
  obtain ⟨cs, ends⟩ := stopTransfer_eq (s := s) (mast := mast) (h := h) (cause := cause) (addr := addr)
  rw [ends]
  exact putHy_hyAt _ _ _

theorem stopTransfer_mem' (mast h cause : Nat) (addr : Word) : (s.stopTransfer mast h cause addr).mem = s.mem := by
  obtain ⟨cs, ends⟩ := stopTransfer_eq (s := s) (mast := mast) (h := h) (cause := cause) (addr := addr)
  rw [ends]
  rfl

/-! ### Moves (R312, R313) -/

/-- What the halyard asks of its oldest move before it performs it. -/
structure moveReady (s : State) (t : Transfer) (rest : List Transfer) (v : Move) : Prop where
  head : (s.hyAt s.place.a s.place.b).journal = t :: rest
  next : (s.hyAt s.place.a s.place.b).nextMove = some v
  running : (s.hyAt s.place.a s.place.b).stage = .running
  runs : s.runs t.launch = true
  order : s.moveInOrder (s.hyAt s.place.a s.place.b) v = true
  free : (s.mastAt s.place.a).opBlocked t.entry [] = false

theorem movePerform_moved {v : Move} {m : Moved} (ready : moveReady s t rest v)
    (moves : (s.asHart s.place.a s.place.b t).move s.place.a s.place.b t v = .ok m) :
    exec .movePerform s = .next (m.s.putHy s.place.a s.place.b ((m.s.hyAt s.place.a s.place.b).pop.afterMove m.flags m.addr)) := by
  obtain ⟨head, next, running, runs, order, free⟩ := ready
  rw [show exec .movePerform s = execMovePerform s from rfl, execMovePerform]
  simp only [head, next, running, runs, order, free, moves, decide_true, Bool.and_true, Bool.not_false, if_true]

theorem movePerform_stopped {v : Move} {c : Nat} {a i : Word} (ready : moveReady s t rest v)
    (stops : (s.asHart s.place.a s.place.b t).move s.place.a s.place.b t v = .error (.trap c a i)) :
    exec .movePerform s = .next (s.stopTransfer s.place.a s.place.b c a) := by
  obtain ⟨head, next, running, runs, order, free⟩ := ready
  rw [show exec .movePerform s = execMovePerform s from rfl, execMovePerform]
  simp only [head, next, running, runs, order, free, stops, decide_true, Bool.and_true, Bool.not_false, if_true]

theorem pop_flags (y : Halyard) : y.pop.flags = y.flags := by
  rw [Halyard.pop]
  split <;> rfl

theorem afterMove_flags (y : Halyard) (flags : Nat) (addr : Word) : (y.afterMove flags addr).flags = y.flags ||| flags := by
  simp only [Halyard.afterMove]
  split <;> rfl

/-! ### Completion (R314, R317) -/

theorem halyardComplete_ended (head : (s.hyAt s.place.a s.place.b).journal = t :: rest) (runs : s.runs t.launch = true)
    (ended : (s.hyAt s.place.a s.place.b).stage = .ended) (written : s.transferWritten s.place.a s.place.b t (s.hyAt s.place.a s.place.b) = true) :
    exec .halyardComplete s = .next (s.retireTransfer s.place.a s.place.b t) := by
  rw [show exec .halyardComplete s = execHalyardComplete s from rfl, execHalyardComplete]
  simp only [head, runs, ended, written, Bool.not_true, Bool.false_eq_true, if_false, if_true]

theorem happen_ok {x : Ex State} {u : State} (ends : x = .ok u) : s.happen x = .next u := by
  rw [ends]
  rfl

theorem halyardComplete_retired (head : (s.hyAt s.place.a s.place.b).journal = t :: rest) (runs : s.runs t.launch = true)
    (retired : (s.hyAt s.place.a s.place.b).stage = .retired) :
    exec .halyardComplete s = s.happen (s.reportTransfer s.place.a s.place.b t) := by
  rw [show exec .halyardComplete s = execHalyardComplete s from rfl, execHalyardComplete]
  simp only [head, runs, retired, Bool.not_true, Bool.false_eq_true, if_false]

theorem reportTransfer_plain {mast h : Nat} {v : State} (written : (s.asHart mast h t).writeMbox t (s.hyAt mast h) = .ok v) (bar : t.bar = 0)
    (copy : t.copy = none) : s.reportTransfer mast h t = .ok (v.putHy mast h { v.hyAt mast h with stage := .reported }) := by
  refine ok_then written ?_
  simp only [bar, copy, if_true]

theorem halyardComplete_reported (head : (s.hyAt s.place.a s.place.b).journal = t :: rest) (runs : s.runs t.launch = true)
    (reported : (s.hyAt s.place.a s.place.b).stage = .reported) (quiet : t.irq = false) : ∃ cs,
    exec .halyardComplete s = .next { s.putHy s.place.a s.place.b { Halyard.init with journal := rest, seq := (s.hyAt s.place.a s.place.b).seq }
      with ctxs := cs } := by
  rw [show exec .halyardComplete s = execHalyardComplete s from rfl, execHalyardComplete]
  simp only [head, runs, reported, State.endTransfer, quiet, Bool.not_true, Bool.false_eq_true, if_false, Option.map_some, List.tail_cons]
  split
  · exact ⟨_, rfl⟩
  · exact ⟨_, rfl⟩

theorem retireTransfer_end (mast h : Nat) :
    (s.retireTransfer mast h t).mem = s.mem ∧ (s.retireTransfer mast h t).hyAt mast h = { s.hyAt mast h with stage := .retired } ∧
      ((s.retireTransfer mast h t).mastAt mast).sb = ((s.mastAt mast).retire t.entry).sb := by
  have kept : (s.putMast mast ((s.mastAt mast).retire t.entry)).hyAt mast h = s.hyAt mast h := by
    rw [State.hyAt, putMast_mastAt_same, retire_hy, State.hyAt]
  refine ⟨rfl, ?_, ?_⟩
  · rw [State.retireTransfer, putHy_hyAt, kept]
  · simp only [State.retireTransfer, State.putHy, putMast_mastAt_same, setHy_sb]

/-! ### The launch read (R307 to R309) -/

theorem tookEntry_ctx (s : State) : s.tookEntry.ctx = s.ctx := by
  obtain ⟨_, only⟩ := endAwait_only (s := s) s.mastNo (.issue s.cur.ctx)
  rw [State.tookEntry, only]
  rfl

/-- The transfer that a launch read journals, and the state behind it. -/
def State.readJournalled (w : State) (p : List Word) (h slot e : Nat) (sh : Bool) (rr wr : Word × Nat) : State :=
  w.tookEntry.journal h e sh (w.tookEntry.transferOf p h slot e rr wr)
    (w.tookEntry.mast.spanIvals false rr.1 rr.2 ++ w.tookEntry.mast.spanIvals true wr.1 wr.2)

theorem readJournalled_end (w : State) (p : List Word) (h slot e : Nat) (sh : Bool) (rr wr : Word × Nat) :
    sameProgram w (w.readJournalled p h slot e sh rr wr) ∧ ((w.readJournalled p h slot e sh rr wr).mast.hy h).journal =
      (w.mast.hy h).journal ++ [w.tookEntry.transferOf p h slot e rr wr] := by
  obtain ⟨waiters, mast⟩ := tookEntry_mast (s := w)
  refine ⟨tookEntry_end.1.trans (setMast_sameProgram _), ?_⟩
  simp only [State.readJournalled, State.journal, setMast_mast, hy_setHy]
  rw [mast]
  rfl

/-- A launch read of declared ranges that pass their checks; `t`, `v` and `w` are the states after the block and the ranges are read. -/
structure readReady (s t v w : State) (key : Nat) (bs : List Byte) : Prop where
  mast : s.engine = .mast
  settled : s.settled = true
  kernel : s.kernelOk s.ctx.hctl = true
  place : s.memCheck s.ctx.hpb 64 .load [0x0, 0x9] = .ok key
  block : s.readChecked s.ctx.hpb key 64 = .ok (bs, t)
  fields : s.blockOk (paramBlock bs) = true
  rows : lenOk s.ctx.hlen = true
  reads : bits ((paramBlock bs).getD 4 0) 31 0 ≠ 0
  writes : bits ((paramBlock bs).getD 4 0) 63 32 ≠ 0
  source : t.spanCheck ((paramBlock bs).getD 3 0) (bits ((paramBlock bs).getD 4 0) 31 0) .load [0x0, 0x9] = .ok v
  dest : v.spanCheck ((paramBlock bs).getD 5 0) (bits ((paramBlock bs).getD 4 0) 63 32) .store [0x0, 0x9, 0xB] = .ok w
  unarmed : w.spanArmed ((paramBlock bs).getD 5 0) (bits ((paramBlock bs).getD 4 0) 63 32) = false

theorem launchRead_full {s t v w : State} {key : Nat} {bs : List Byte} {d : Reg} (ready : readReady s t v w key bs)
    (full : w.mast.journalFor (bits s.ctx.hctl 1 0) = none) : exec (.launchRead d) s = .next (w.result 1 d 0) := by
  obtain ⟨mast, settled, kernel, place, block, fields, rows, reads, writes, source, dest, unarmed⟩ := ready
  refine finish_ok (need_then (decide_eq_true mast) (need_then settled (need_then kernel (ok_then place (ok_then block (need_then fields
    (need_then (by rw [rows]; rfl) ?_)))))))
  simp only [if_pos reads, if_pos writes]
  refine ok_then source (ok_then dest (need_then (by rw [unarmed]; rfl) ?_))
  rw [full]

theorem launchRead_journals {s t v w : State} {key h slot e : Nat} {sh : Bool} {bs : List Byte} {d : Reg} (ready : readReady s t v w key bs)
    (room : w.mast.journalFor (bits s.ctx.hctl 1 0) = some (h, slot)) (entry : w.myEntry = some (e, sh)) :
    let rr := ((paramBlock bs).getD 3 0, bits ((paramBlock bs).getD 4 0) 31 0)
    let wr := ((paramBlock bs).getD 5 0, bits ((paramBlock bs).getD 4 0) 63 32)
    exec (.launchRead d) s = .next ((w.readJournalled (paramBlock bs) h slot e sh rr wr).result 1 d
      ((w.tookEntry.transferOf (paramBlock bs) h slot e rr wr).id.zeroExtend 64)) := by
  obtain ⟨mast, settled, kernel, place, block, fields, rows, reads, writes, source, dest, unarmed⟩ := ready
  refine finish_ok (need_then (decide_eq_true mast) (need_then settled (need_then kernel (ok_then place (ok_then block (need_then fields
    (need_then (by rw [rows]; rfl) ?_)))))))
  simp only [if_pos reads, if_pos writes]
  refine ok_then source (ok_then dest (need_then (by rw [unarmed]; rfl) ?_))
  rw [room, entry]
  rfl

/-- Settles O42: the hart's registers, then the halyard's own steps, then the launch read. -/
theorem halyardTransfersRun : Obligations.HalyardTransfersRun := by
  unfold Obligations.HalyardTransfersRun
  refine ⟨?registers, ?steps, ?read⟩
  case registers =>
    intro s d r hart v m legal
    refine ⟨fun t rest fits room runs c checked => ?_, fun illegal => mvgo_of_illegal hart illegal,
      fun none => ⟨_, mvwait_of_none d hart none, result_wrote s 1 d _⟩, fun some => ⟨_, mvwait_of_some d hart some, (sameProgram.refl s).waits⟩,
      fun l rest line => ?_, fun x rest word => ?_, fun ended => ⟨_, hidxw_of_end d hart ended, result_wrote s 1 d _⟩⟩
    · have queued := (setHart_sameProgram (s := c) { c.hart with queue := s.hart.queue ++ [m] }).trans
        (setCtx_sameProgram (s := s.moveQueued c m) (c := { (s.moveQueued c m).ctx with order := (s.moveQueued c m).ctx.order + 1 }) rfl rfl rfl)
      exact ⟨_, mvgo_of_legal hart fits room runs checked, queued.acted 1,
        (hart_of_masts rfl rfl).trans (setHart_hart (s := c) { c.hart with queue := s.hart.queue ++ [m] })⟩
    · exact ⟨_, hidx_of_line hart line, (setHart_sameProgram _).answered 1 d _,
        (hart_of_masts (result_masts 1 d _) (result_cur 1 d _)).trans (setHart_hart _)⟩
    · exact ⟨_, hidxw_of_word hart word, (setHart_sameProgram _).answered 1 d _,
        (hart_of_masts (result_masts 1 d _) (result_cur 1 d _)).trans (setHart_hart _)⟩
  case steps =>
    intro s t rest mast h y head
    refine ⟨fun idle runs fresh budget => ⟨fun shipped => ?shipped, fun own copy some => ?own⟩, fun idle runs fresh needs small => ?budget,
      fun v next running runs order free => ⟨fun m moves => ?moved, fun c a i stops => ?stopped⟩,
      fun runs => ⟨fun ended moves stores packets => ?ended, fun v retired written bar copy => ?retired, fun reported quiet => ?reported⟩⟩
    case shipped =>
      have enough := enough_of_budget budget
      refine ⟨_, (halyardStart_eq head idle runs fresh).trans ((if_neg enough).trans (if_pos (by simp [shipped]))), fun _ => rfl, rfl, ?_⟩
      rw [putHy_hyAt]
      exact ⟨rfl, rfl, rfl⟩
    case own =>
      have enough := enough_of_budget budget
      refine ⟨_, (halyardStart_eq head idle runs fresh).trans ((if_neg enough).trans (if_neg (by simp [copy, own]))), fun _ => rfl, ?_⟩
      rw [putHy_hyAt]
      have ctx := AMap.get_set_same s.ctxs s.nextCtx (hartCtx mast h t (0x1000 + 256 * ((s.mastAt mast).grants.get t.launch Grant.init).ucode.1 +
        (s.launchAt t.launch).kernels.get t.kernel 0)) Context.init
      exact ⟨rfl, rfl, congrArg Context.status ctx, congrArg Context.core ctx, congrArg Context.pc ctx⟩
    case budget =>
      have few : (s.needsBudget mast t && t.budgetOf < 8) = true := Bool.and_eq_true_iff.mpr ⟨needs, decide_eq_true small⟩
      have kept : (s.putHy mast h (y.started t)).hyAt mast h = y.started t := putHy_hyAt _ _ _
      refine ⟨_, (halyardStart_eq head idle runs fresh).trans (if_pos few), fun _ => by rw [stopTransfer_mem']; rfl, ?_, ?_⟩
      · simp only [State.stopTransfer]
        rw [kept]
        rfl
      · rw [stopTransfer_hyAt, kept]
        exact ⟨rfl, rfl, rfl⟩
    case moved =>
      refine ⟨_, movePerform_moved ⟨head, next, running, runs, order, free⟩ moves, rfl, ?_⟩
      rw [putHy_hyAt, afterMove_flags, pop_flags]
    case stopped =>
      refine ⟨_, movePerform_stopped ⟨head, next, running, runs, order, free⟩ stops, fun _ => by rw [stopTransfer_mem'], ?_⟩
      rw [stopTransfer_hyAt]
      exact ⟨rfl, rfl, rfl⟩
    case ended =>
      have written : s.transferWritten mast h t y = true := by
        refine Bool.and_eq_true_iff.mpr ⟨Bool.and_eq_true_iff.mpr ⟨by rw [moves]; rfl, ?_⟩, List.all_eq_true.mpr fun p mem => ?_⟩
        · exact Bool.or_eq_true_iff.mpr (stores.imp decide_eq_true List.isEmpty_iff.mpr)
        · rw [← Bool.decide_and]
          simpa only [Bool.not_eq_true', decide_eq_false_iff_not] using packets p mem
      obtain ⟨memory, hyAt, sb⟩ := retireTransfer_end (s := s) (t := t) mast h
      refine ⟨_, halyardComplete_ended head runs ended written, fun _ => by rw [memory], ?_, ?_, sb⟩ <;> rw [hyAt]
    case retired =>
      refine ⟨_, (halyardComplete_retired head runs retired).trans (happen_ok (reportTransfer_plain written bar copy)), rfl, ?_⟩
      rw [putHy_hyAt]
    case reported =>
      obtain ⟨cs, ends⟩ := halyardComplete_reported head runs reported quiet
      have free := putHy_hyAt (s := s) mast h { Halyard.init with journal := rest, seq := y.seq }
      exact ⟨_, ends, fun _ => rfl, congrArg Halyard.journal free, congrArg Halyard.stage free⟩
  case read =>
    intro s t v w d key bs c p rlen wlen mast drained packets kernel place block fields rows reads writes source dest unarmed
    have ready : readReady s t v w key bs :=
      ⟨mast, Bool.and_eq_true_iff.mpr ⟨drained, packets⟩, kernel, place, block, fields, rows, reads, writes, source, dest, unarmed⟩
    refine ⟨fun full => ⟨_, launchRead_full ready full, result_wrote w 1 d 0⟩, fun h slot e sh room entry => ?_⟩
    obtain ⟨same, journal⟩ := readJournalled_end w p h slot e sh (p.getD 3 0, rlen) (p.getD 5 0, wlen)
    obtain ⟨waiters, taken⟩ := tookEntry_mast (s := w)
    refine ⟨_, _, launchRead_journals ready room entry, same.answered 1 d _, ?_, ?_, ?_, ?_, rfl, rfl⟩
    · rw [result_mast]
      exact journal
    · simp only [State.transferOf, taken]
      rfl
    · exact congrArg Context.hsrc (tookEntry_ctx w)
    · exact congrArg Context.hdst (tookEntry_ctx w)

end Sys2Proof.Machine
end

section
/-! Shared payloads (R161, R162): NDUP and NOWN count a sharer, wait for a copy, or adopt it; O43. -/

namespace Sys2Proof.Machine

variable {s : State}

/-! ### Counts and addresses -/

theorem setCount_sameContext (k n : Nat) : sameContext s (s.setCount k n) := write_sameContext _ _

@[simp] theorem setCount_cur (k n : Nat) : (s.setCount k n).cur = s.cur := write_cur s _ _

@[simp] theorem setCount_mem (k n : Nat) : (s.setCount k n).mem = Memory.write s.mem k (toBytes 8 (setBits (s.dbl k) 63 48 n).toNat) := setDbl_mem s _ _

theorem globalAddr_of_cur {t : State} (cur : t.cur = s.cur) (a : Word) : t.globalAddr a = s.globalAddr a := by
  rw [State.globalAddr, State.mastNo, cur]
  rfl

/-! ### The node's new payload -/

/-- The end of an instruction that gives a node another payload. -/
theorem setNodeOf_result {t : State} (same : sameContext s t) (r : Word) (n : Node) (d : Reg) (v : Word) :
    let u := (t.setNodeOf r n).result 1 d v
    u.pc = s.pc + 4 ∧ u.reg d = (if d = .g 0 then 0 else v) ∧ (∀ e, e ≠ d → u.reg e = s.reg e) ∧ u.nodeOf r = n ∧ u.mem = t.mem := by
  obtain ⟨pc, reg, others, -⟩ := (setNodeOf_sameProgram (s := t) r n).answered 1 d v
  refine ⟨pc.trans (by rw [same.pc]; rfl), reg, fun e other => (others e other).trans (same.regs e), ?_, result_mem _ _ _ _⟩
  exact (result_node (s := t.setNodeOf r n) 1 d v (refKey r)).trans (setNodeOf_nodeOf r n)

theorem adopt_of_free {r a : Word} {k : Nat} (place : s.payloadKey (s.globalAddr a) .atomic = .ok k) (free : s.keyBusy true k 8 = false) :
    s.adopt r a = .ok ((s.setCount k 1).setNodeOf r { (s.setCount k 1).nodeOf r with desc := s.globalAddr a }) := by
  refine ok_then place (need_then (by rw [free]; rfl) ?_)
  simp only [globalAddr_of_cur (setCount_cur k 1)]

/-! ### The copy (R162) -/

/-- The transfer of a copy, and the state that has journalled it and waits for it. -/
def State.copyAsked (v : State) (desc a : Word) (n h slot e : Nat) (sh : Bool) : State :=
  let s := v.tookEntry
  let t := s.copyTransfer desc a n h slot e
  let u := s.journal h e sh t (s.mast.spanIvals false (s.ownBank desc) n ++ s.mast.spanIvals true a n)
  (u.setCtx { u.ctx with await := .copy t.id a }).waiting

theorem startCopy_of_room {desc a : Word} {n h slot e : Nat} {sh : Bool} (fresh : s.copying desc a = none) (settled : s.settled = true)
    (room : s.mast.journalFor 2 = some (h, slot)) (entry : s.myEntry = some (e, sh)) :
    s.startCopy desc a n = .ok (s.copyAsked desc a n h slot e sh) := by
  rw [State.startCopy, fresh]
  refine need_then settled ?_
  rw [room, entry]
  rfl

theorem journal_sameProgram (h e : Nat) (sh : Bool) (t : Transfer) (is : List Interval) : sameProgram s (s.journal h e sh t is) :=
  setMast_sameProgram _

theorem copyAsked_end (v : State) (desc a : Word) (n h slot e : Nat) (sh : Bool) :
    let u := v.copyAsked desc a n h slot e sh
    let T := v.tookEntry.copyTransfer desc a n h slot e
    waits v u ∧ u.ctx.await = .copy T.id a ∧ (u.mast.hy h).journal = (v.mast.hy h).journal ++ [T] ∧ T.copy = some (v.cur.ctx, a) := by
  intro u T
  obtain ⟨waiters, mast⟩ := tookEntry_mast (s := v)
  let is := v.tookEntry.mast.spanIvals false (v.tookEntry.ownBank desc) n ++ v.tookEntry.mast.spanIvals true a n
  have journalled := (tookEntry_end (s := v)).1.trans (journal_sameProgram h e sh T is)
  have asked := journalled.trans (setCtx_sameProgram (c := { (v.tookEntry.journal h e sh T is).ctx with await := .copy T.id a }) rfl rfl rfl)
  refine ⟨asked.waits, ?_, ?_, ?_⟩
  · exact (congrArg Context.await (setCtx_ctx _ _)).trans (congrArg Context.await (setCtx_ctx _ _))
  · refine (congrArg (fun m : Mast => (m.hy h).journal) (setMast_mast v.tookEntry _)).trans ?_
    rw [hy_setHy, mast]
    rfl
  · exact congrArg (fun c : Cur => some (c.ctx, a)) tookEntry_cur

/-- The part of NDUP and NOWN that journals a copy. -/
theorem copy_of_room {c v : State} {desc a h : Word} {n slot e : Nat} {sh : Bool} (spare : c.spareCheck a (payloadSize h) = .ok v)
    (fresh : v.copying desc a = none) (room : v.mast.journalFor 2 = some (n, slot)) (settled : v.settled = true) (entry : v.myEntry = some (e, sh)) :
    (c.spareCheck a (payloadSize h) >>= fun s => s.startCopy desc a (payloadSize h)) =
      .ok (v.copyAsked desc a (payloadSize h) n slot e sh) :=
  ok_then spare (startCopy_of_room fresh settled room entry)

/-! ### NDUP (R161) -/

/-- NDUP's checks of its two nodes. -/
structure dupReady (s : State) (t r : Reg) : Prop where
  target : s.chk (s.reg t) false .netW = .ok ()
  source : s.chk (s.reg r) false .net = .ok ()
  released : s.released = true
  empty : (s.nodeOf (s.reg t)).desc = 0
  payload : (s.nodeOf (s.reg r)).desc ≠ 0

/-- A context that neither waits for a copy nor has one. -/
def noCopy (s : State) : Prop := (∀ b f, s.ctx.await ≠ .copied b f) ∧ ∀ j b, s.ctx.await ≠ .copy j b

variable {d t r : Reg}

theorem dupReady.slots (ready : dupReady s t r) : ((s.nodeOf (s.reg t)).desc = 0 && (s.nodeOf (s.reg r)).desc ≠ 0) = true :=
  Bool.and_eq_true_iff.mpr ⟨decide_eq_true ready.empty, decide_eq_true ready.payload⟩

theorem ndup_of_noCopy (ready : dupReady s t r) (none : noCopy s) : s.ndup d t r = (do
    let p ← s.payload (s.nodeOf (s.reg r)).desc
    if countOf p.2.1 < 65535 then
      let u := p.2.2.setCount p.1 (countOf p.2.1 + 1)
      .ok ((u.setNodeOf (s.reg t) { u.nodeOf (s.reg t) with desc := (s.nodeOf (s.reg r)).desc }).result 1 d 0)
    else do
      let v ← p.2.2.spareCheck (s.reg d) (payloadSize p.2.1)
      v.startCopy (s.nodeOf (s.reg r)).desc (s.reg d) (payloadSize p.2.1)) := by
  refine ok_then ready.target (ok_then ready.source (need_then ready.released (need_then ready.slots ?_)))
  split
  · next copied => exact absurd copied (none.1 _ _)
  · next copy => exact absurd copy (none.2 _ _)
  · rfl

theorem ndup_of_copied {b : Word} {u : State} (ready : dupReady s t r) (copied : s.ctx.await = .copied b none)
    (adopts : s.adopt (s.reg t) b = .ok u) : s.ndup d t r = .ok (u.result 1 d 1) := by
  refine ok_then ready.target (ok_then ready.source (need_then ready.released (need_then ready.slots ?_)))
  rw [copied]
  exact ok_then rfl (ok_then adopts rfl)

theorem ndup_of_copy {j : BitVec 16} {b : Word} (ready : dupReady s t r) (copy : s.ctx.await = .copy j b) : s.ndup d t r = .error .wait := by
  refine ok_then ready.target (ok_then ready.source (need_then ready.released (need_then ready.slots ?_)))
  rw [copy]
  rfl

/-! ### NOWN (R162) -/

/-- NOWN's checks of its node. -/
structure ownReady (s : State) (r : Reg) : Prop where
  node : s.chk (s.reg r) false .netW = .ok ()
  released : s.released = true
  payload : (s.nodeOf (s.reg r)).desc ≠ 0

theorem nown_of_noCopy (ready : ownReady s r) (none : noCopy s) : s.nown d r = (do
    let p ← s.payload (s.nodeOf (s.reg r)).desc
    if countOf p.2.1 = 1 then .ok (p.2.2.result 1 d 0)
    else do
      let v ← p.2.2.spareCheck (s.reg d) (payloadSize p.2.1)
      v.startCopy (s.nodeOf (s.reg r)).desc (s.reg d) (payloadSize p.2.1)) := by
  refine ok_then ready.node (need_then ready.released (need_then (decide_eq_true ready.payload) ?_))
  split
  · next copied => exact absurd copied (none.1 _ _)
  · next copy => exact absurd copy (none.2 _ _)
  · rfl

theorem nown_of_copied {b h : Word} {k : Nat} {c u : State} (ready : ownReady s r) (copied : s.ctx.await = .copied b none)
    (found : s.payload (s.nodeOf (s.reg r)).desc = .ok (k, h, c)) (adopts : (c.setCount k (countOf h - 1)).adopt (s.reg r) b = .ok u) :
    s.nown d r = .ok (u.result 1 d (if countOf h = 1 then 2 else 1)) := by
  refine ok_then ready.node (need_then ready.released (need_then (decide_eq_true ready.payload) ?_))
  rw [copied]
  exact ok_then rfl (ok_then found (ok_then adopts rfl))

theorem nown_of_copy {j : BitVec 16} {b : Word} (ready : ownReady s r) (copy : s.ctx.await = .copy j b) : s.nown d r = .error .wait := by
  refine ok_then ready.node (need_then ready.released (need_then (decide_eq_true ready.payload) ?_))
  rw [copy]
  rfl

/-- Settles O43: NDUP by the state of its copy, then NOWN. -/
theorem sharedPayloadsComplete : Obligations.SharedPayloadsComplete := by
  unfold Obligations.SharedPayloadsComplete
  intro s c d t r k h x y a desc dup own copies released some
  have copied {i : Instr} (takes : ∀ u, (c.spareCheck a (payloadSize h) >>= fun v => v.startCopy desc a (payloadSize h)) = .ok u →
      exec i s = .next u) : copies i := by
    intro v n slot e sh spare fresh room settled entry
    obtain ⟨waits, awaits, journal, copy⟩ := copyAsked_end v desc a (payloadSize h) n slot e sh
    exact ⟨_, _, takes _ (copy_of_room spare fresh room settled entry), waits, awaits, journal, rfl, rfl, rfl, copy⟩
  refine ⟨fun target source empty => ?_, fun node => ?_⟩
  · have ready : dupReady s t r := ⟨target, source, released, empty, some⟩
    refine ⟨fun found notCopied notCopy => ⟨fun few => ?counts, fun full => copied fun u asks => ?asks⟩, fun b k' there place free => ?adopts,
      fun j b copy => ⟨_, finish_wait (ndup_of_copy ready copy), (sameProgram.refl s).waits⟩⟩
    case counts =>
      obtain ⟨rfl, rfl⟩ := payload_ok found
      have same : sameContext s ((s.correct k 8).setCount k (countOf (s.dbl k) + 1)) := (correct_sameContext k 8).trans (setCount_sameContext k _)
      obtain ⟨pc, reg, others, node, memory⟩ := setNodeOf_result same x
        { ((s.correct k 8).setCount k (countOf (s.dbl k) + 1)).nodeOf x with desc := desc } d 0
      refine ⟨_, finish_ok ((ndup_of_noCopy ready ⟨notCopied, notCopy⟩).trans (ok_then found (if_pos few))), pc, reg.trans (ite_self _), others,
        (congrArg Node.desc node :), ?_⟩
      rw [memory, setCount_mem, dbl_correct, correct_mem]
    case asks =>
      exact finish_ok ((ndup_of_noCopy ready ⟨notCopied, notCopy⟩).trans (ok_then found ((if_neg (by rw [full]; decide)).trans asks)))
    case adopts =>
      obtain ⟨pc, reg, others, node, memory⟩ := setNodeOf_result (setCount_sameContext k' 1) x
        { (s.setCount k' 1).nodeOf x with desc := s.globalAddr b } d 1
      exact ⟨_, finish_ok (ndup_of_copied ready there (adopt_of_free place free)), pc, reg, others, (congrArg Node.desc node :),
        memory.trans (setCount_mem k' 1)⟩
  · have ready : ownReady s r := ⟨node, released, some⟩
    refine ⟨fun found notCopied notCopy => ⟨fun one => ?alone, fun several => copied fun u asks => ?asks⟩,
      fun b k' there found place free => ?adopts, fun j b copy => ⟨_, finish_wait (nown_of_copy ready copy), (sameProgram.refl s).waits⟩⟩
    case alone =>
      exact ⟨_, finish_ok ((nown_of_noCopy ready ⟨notCopied, notCopy⟩).trans (ok_then found (if_pos one))), result_wrote c 1 d 0⟩
    case asks =>
      exact finish_ok ((nown_of_noCopy ready ⟨notCopied, notCopy⟩).trans (ok_then found ((if_neg (Nat.ne_of_gt several)).trans asks)))
    case adopts =>
      obtain ⟨rfl, rfl⟩ := payload_ok found
      let u := (s.correct k 8).setCount k (countOf (s.dbl k) - 1)
      have cur : u.cur = s.cur := (setCount_cur k _).trans (correct_cur s k 8)
      have same : sameContext s (u.setCount k' 1) :=
        ((correct_sameContext k 8).trans (setCount_sameContext k _)).trans (setCount_sameContext k' 1)
      have address : u.globalAddr b = s.globalAddr b := globalAddr_of_cur cur b
      obtain ⟨pc, reg, others, node, memory⟩ := setNodeOf_result same y { (u.setCount k' 1).nodeOf y with desc := u.globalAddr b } d
        (if countOf (s.dbl k) = 1 then 2 else 1)
      exact ⟨_, finish_ok (nown_of_copied ready there found (adopt_of_free (by rw [address]; exact place) free)), pc, reg, others,
        (congrArg Node.desc node :).trans address, memory⟩

end Sys2Proof.Machine
end

section
/-! What the writes of a stream's block leave alone, and what a close of a stream does (R350, R387, R388). -/

namespace Sys2Proof.Machine

variable {s : State}

/-! ### Serving an access -/

/-- A state that differs in memory, in what serving an access changes (check bits, counters, extents, a failed launch), and in
packets. -/
structure served (s t : State) : Prop where
  rest : ∃ m e ts ms ls n p, t = { s with mem := m, ecc := e, tasks := ts, masts := ms, launches := ls, net := n, nextPkt := p }
  globals : ∀ k, (t.taskAt k).globals = (s.taskAt k).globals

theorem served.refl (s : State) : served s s := ⟨⟨_, _, _, _, _, _, _, rfl⟩, fun _ => rfl⟩

theorem served.trans {t u : State} (first : served s t) (second : served t u) : served s u := by
  obtain ⟨_, _, _, _, _, _, _, hfirst⟩ := first.rest
  obtain ⟨m, e, ts, ms, ls, n, p, hsecond⟩ := second.rest
  exact ⟨⟨m, e, ts, ms, ls, n, p, by rw [hsecond, hfirst]⟩, fun k => (second.globals k).trans (first.globals k)⟩

theorem served.cur {t : State} (work : served s t) : t.cur = s.cur := by obtain ⟨_, _, _, _, _, _, _, h⟩ := work.rest; rw [h]

theorem served.ctxs {t : State} (work : served s t) : t.ctxs = s.ctxs := by obtain ⟨_, _, _, _, _, _, _, h⟩ := work.rest; rw [h]

theorem served.streams {t : State} (work : served s t) : t.streams = s.streams := by obtain ⟨_, _, _, _, _, _, _, h⟩ := work.rest; rw [h]

theorem served.shrouds {t : State} (work : served s t) : t.shrouds = s.shrouds := by obtain ⟨_, _, _, _, _, _, _, h⟩ := work.rest; rw [h]

theorem served.tackles {t : State} (work : served s t) : t.tackles = s.tackles := by obtain ⟨_, _, _, _, _, _, _, h⟩ := work.rest; rw [h]

theorem write_served (k : Nat) (bs : List Byte) : served s (s.write k bs) := by
  obtain ⟨m, e, ts, h⟩ := write_rest s k bs
  exact ⟨⟨m, e, ts, s.masts, s.launches, s.net, s.nextPkt, h⟩, fun j => write_taskAt Task.globals (fun _ _ => rfl) (fun _ _ => rfl) k bs j⟩

theorem putTask_served (k : Nat) (t : Task) (globals : t.globals = (s.taskAt k).globals) : served s (s.putTask k t) := by
  refine ⟨⟨s.mem, s.ecc, _, s.masts, s.launches, s.net, s.nextPkt, rfl⟩, fun j => ?_⟩
  by_cases own : j = k
  · rw [own, putTask_taskAt_same, globals]
  · rw [putTask_taskAt_other s k t own]

theorem putMast_served (k : Nat) (m : Mast) : served s (s.putMast k m) := ⟨⟨s.mem, s.ecc, s.tasks, _, s.launches, s.net, s.nextPkt, rfl⟩, fun _ => rfl⟩

theorem failLaunch_served (l : Nat) (f : Failure) : served s (s.failLaunch l f) := by
  obtain ⟨ls, h⟩ := failLaunch_only (s := s) l f
  rw [h]
  exact ⟨⟨s.mem, s.ecc, s.tasks, s.masts, ls, s.net, s.nextPkt, rfl⟩, fun _ => rfl⟩

theorem markFailed_served (f : Task → Bool) : served s (s.markFailed f) :=
  ⟨⟨s.mem, s.ecc, _, s.masts, s.launches, s.net, s.nextPkt, rfl⟩, fun _ =>
    AMap.get_map_field Task.globals _ (fun p => by split <;> rfl) (fun p => by split <;> rfl) _ _ _⟩

theorem walkFailed_served (l core v level : Nat) : served s (s.walkFailed l core v level) :=
  (markFailed_served _).trans (failLaunch_served _ _)

theorem setLeafBits_served (b : Nat) (ls : List Leaf) : served s (s.setLeafBits b ls) := by
  refine foldl_rule (P := served s) (fun u l work => ?_) ls (.refl s)
  split
  · exact work
  · exact work.trans (write_served _ _)

theorem setOwnerExtents_served (k : Nat) (xs : List Extent) : served s (s.setOwnerExtents k xs) := by
  unfold State.setOwnerExtents
  split
  · exact putTask_served k _ rfl
  · exact putMast_served _ _

theorem countFill_served (k : Nat) : served s (s.countFill k) := by
  unfold State.countFill
  split
  · exact putTask_served k _ rfl
  · exact .refl s

theorem filled_served (k : Nat) (rs : List Range) (r : Range) (f : Fill) : served s (s.filled k rs r f) :=
  ((setLeafBits_served _ _).trans (setOwnerExtents_served _ _)).trans (countFill_served _)

theorem dirtied_served (k : Nat) (x : Extent) (ls : List Leaf) : served s (s.dirtied k x ls) :=
  (setLeafBits_served _ _).trans (setOwnerExtents_served _ _)

theorem ensure_served {v : Nat} {k : Acc} {u : State} (ends : s.ensure v k = .ok u) : served s u := by
  unfold State.ensure at ends
  dsimp only at ends
  split at ends
  · exact absurd ends trapX_ne
  · simp only [bind_ok] at ends
    obtain ⟨_, -, _, -, ends⟩ := ends
    split at ends
    · obtain ⟨t, same, ends⟩ := bind_ok.mp ends
      cases same
      grind [bind_ok, dirtied_served, served.refl, waitX]
    · split at ends
      · exact absurd ends (by simp [waitX, bind, Except.bind])
      · rw [bind_ok] at ends
        obtain ⟨t, same, ends⟩ := ends
        have before : served s t := by cases same; exact filled_served _ _ _ _
        clear same
        grind [bind_ok, dirtied_served, served.trans, waitX]

/-! ### The block of a stream -/

theorem blockWrite_served (x : Stream) (off : Nat) (bs : List Byte) : served s (s.blockWrite x off bs) := by
  unfold State.blockWrite
  split
  · exact write_served _ _
  · dsimp only
    split
    case h_1 u ends =>
      split
      · obtain ⟨⟨m, e, ts, ms, ls, n, p, h⟩, globals⟩ := (ensure_served ends).trans (write_served _ _)
        exact ⟨⟨m, e, ts, ms, ls, n, p, by rw [h]⟩, globals⟩
      · exact .refl s
    case h_2 =>
      split
      · exact walkFailed_served _ _ _ _
      · exact .refl s

theorem served.sameContext {t : State} (work : served s t) : sameContext s t := by
  constructor
  · rw [State.ctx, work.ctxs, work.cur]
    rfl
  · rw [State.task, work.cur]
    exact work.globals _

theorem closeBlock_served (x : Stream) (c : Nat) : served s (s.closeBlock x c) := by
  have block : served s ((s.blockWrite x 56 (toBytes 8 x.moved)).blockWrite x 48 [BitVec.ofNat 8 c]) :=
    (blockWrite_served _ _ _).trans (blockWrite_served _ _ _)
  unfold State.closeBlock
  split
  · dsimp only
    split
    · exact block
    · exact block.trans ⟨⟨_, _, _, _, _, _, _, rfl⟩, fun _ => rfl⟩
  · exact block

/-! ### Streams and flits -/

theorem sendFlit_sameProgram (n : Nat) (f : Flit) : sameProgram s (s.sendFlit n f) := .of_ctx rfl rfl rfl

theorem setStream_sameProgram (x : Stream) : sameProgram s (s.setStream x) := .of_ctx rfl rfl rfl

theorem sweepStreams_sameProgram : sameProgram s s.sweepStreams := .of_ctx rfl rfl rfl

theorem putShroud_shroudAt_same (n : Nat) (x : Shroud) : (s.putShroud n x).shroudAt n = x := AMap.get_set_same _ _ _ _

theorem sendFlit_shroudAt (n : Nat) (f : Flit) : (s.sendFlit n f).shroudAt n = { s.shroudAt n with sent := (s.shroudAt n).sent ++ [f] } :=
  putShroud_shroudAt_same _ _

theorem putTackle_tackleAt_same (k : Nat) (x : Tackle) : (s.putTackle k x).tackleAt k = x := AMap.get_set_same _ _ _ _

/-- A stream takes the place of the one of its number. -/
theorem mem_setStream {x y : Stream} (there : x ∈ s.streams) (id : x.id = y.id) : y ∈ (s.setStream y).streams :=
  List.mem_map.mpr ⟨x, there, if_pos id⟩

/-- A stream that has replaced one has its number's place alone. -/
theorem setStream_id {x y : Stream} (there : y ∈ (s.setStream x).streams) (id : y.id = x.id) : y = x := by
  obtain ⟨z, -, same⟩ := List.mem_map.mp there
  split at same
  · exact same.symm
  · rename_i other
    exact absurd (same ▸ id) other

theorem mem_sweepStreams {y : Stream} (there : y ∈ s.streams) (kept : y.over = false) : y ∈ s.sweepStreams.streams :=
  List.mem_filter.mpr ⟨there, by rw [kept]; rfl⟩

theorem mem_of_streamOf {t h : Nat} {x : Stream} (named : s.streamOf t h = some x) : x ∈ s.streams := List.mem_of_find?_eq_some named

theorem mem_of_opening {c : Nat} {x : Stream} (opens : s.opening c = some x) : x ∈ s.streams := List.mem_of_find?_eq_some opens

theorem sendFlits_sent (n : Nat) (fs : List Flit) :
    (fs.foldl (fun s f => s.sendFlit n f) s).shroudAt n = { s.shroudAt n with sent := (s.shroudAt n).sent ++ fs } := by
  induction fs generalizing s with
  | nil => simp
  | cons f fs ih => rw [List.foldl_cons, ih, sendFlit_shroudAt]; simp

theorem sendFlits_only (n : Nat) (fs : List Flit) : ∃ xs, fs.foldl (fun s f => s.sendFlit n f) s = { s with shrouds := xs } := by
  induction fs generalizing s with
  | nil => exact ⟨_, rfl⟩
  | cons f fs ih => obtain ⟨xs, h⟩ := ih (s := s.sendFlit n f); exact ⟨xs, h⟩

/-! ### Closes -/

/-- The stream that a close leaves. -/
def Stream.closed (x : Stream) (c : Nat) : Stream := { x with code := c, held := x.held && decide (c ≠ 5) }

theorem closeStream_streams (x : Stream) (c : Nat) :
    (s.closeStream x c).streams = ((s.setStream (x.closed c)).streams).filter fun y => !y.over := by
  have streams : (s.closeBlock x c).streams = s.streams := (closeBlock_served x c).streams
  simp only [State.closeStream, State.sweepStreams]
  split <;> simp only [State.sendFlit, State.putShroud, State.setStream, streams] <;> rfl

theorem mem_closeStream {x y : Stream} {c : Nat} (there : y ∈ s.streams) (id : y.id = x.id) (kept : (x.closed c).over = false) :
    x.closed c ∈ (s.closeStream x c).streams := by
  rw [closeStream_streams]
  exact List.mem_filter.mpr ⟨mem_setStream there id, by rw [kept]; rfl⟩

theorem closeStream_sameContext (x : Stream) (c : Nat) : sameContext s (s.closeStream x c) := by
  refine (closeBlock_served x c).sameContext.trans ?_
  simp only [State.closeStream]
  split <;> exact ⟨rfl, rfl⟩

theorem closeStream_tackles (x : Stream) (c : Nat) : (s.closeStream x c).tackles = s.tackles := by
  refine Eq.trans ?_ (closeBlock_served (s := s) x c).tackles
  simp only [State.closeStream]
  split <;> rfl

/-- A close sends at most one flit. -/
theorem closeStream_shrouds (x : Stream) (c : Nat) :
    (s.closeStream x c).shrouds = s.shrouds ∨ ∃ f, (s.closeStream x c).shrouds = (s.sendFlit (shroudOf x.tackle) f).shrouds := by
  have shrouds := (closeBlock_served (s := s) x c).shrouds
  simp only [State.closeStream]
  split
  · refine .inr ⟨.close (x.tackle % 2) x.sid x.dir c, ?_⟩
    simp only [State.sweepStreams, State.sendFlit, State.putShroud, State.shroudAt, State.setStream, shrouds]
  · exact .inl shrouds

theorem closeAll_tackles (f : Stream → Bool) (c : Stream → Nat) : (s.closeAll f c).tackles = s.tackles :=
  foldl_rule (P := fun t : State => t.tackles = s.tackles) (fun _ _ same => (closeStream_tackles _ _).trans same) _ rfl

end Sys2Proof.Machine
end

section
/-! Stream instructions, graph operations and queue-bound streams (R383 to R389); O44. -/

namespace Sys2Proof.Machine

variable {s : State}

/-! ### SOPEN -/

theorem peerOpen_of_none {x : Shroud} (none : x.peers = []) (t sid dir : Nat) : x.peerOpen t sid dir = .none := by
  rw [Shroud.peerOpen, none]
  rfl

theorem sopen_starts {d : Reg} {a : RcSrc} {t : State} (fresh : s.opening s.cur.ctx = none) (starts : s.sopenStart (s.rc a) = .ok t)
    (none : ∀ i, (t.shroudAt i).peers = []) : exec (.sopen d a) s = .next t.waiting := by
  rw [show exec (.sopen d a) s = execSopen d a s from rfl, execSopen, fresh]
  refine finish_ok (ok_then starts ?_)
  cases t.opening t.cur.ctx with
  | none => rfl
  | some x => simp only [State.sopenMeet, peerOpen_of_none (none _)]

theorem sopen_meets {d : Reg} {a : RcSrc} {x : Stream} (opens : s.opening s.cur.ctx = some x) :
    exec (.sopen d a) s = .next (s.sopenMeet d x) := by
  rw [show exec (.sopen d a) s = execSopen d a s from rfl, execSopen, opens]

section
variable {d : Reg} {x : Stream} {c : BitVec 32} (meets : (s.shroudAt (shroudOf x.tackle)).peerOpen x.tackle x.sid x.dir = some c)
include meets

theorem sopenMeet_waits (ready : s.closeReady s.cur.ctx = false) : s.sopenMeet d x = s.waiting := by
  simp only [State.sopenMeet, meets, ready, Bool.not_false, if_true]

/-- The state in which the peer's SOPEN and its close are taken. -/
def State.peerTaken (s : State) (x : Stream) : State :=
  s.putShroud (shroudOf x.tackle) ((s.shroudAt (shroudOf x.tackle)).takePeer x.tackle x.sid x.dir)

/-- Two ends with different blocks tell each other, and no stream is left. -/
theorem sopenMeet_differs (ready : s.closeReady s.cur.ctx = true) (differs : c ≠ blockCrc x.dbl) :
    s.sopenMeet d x =
      let t := ((s.peerTaken x).closeBlock x 2).sendFlit (shroudOf x.tackle) (.close (x.tackle % 2) x.sid x.dir 2)
      { t with streams := t.streams.filter fun y => decide (y.id ≠ x.id) }.result 1 d (BitVec.allOnes 64) := by
  simp only [State.sopenMeet, meets, ready, Bool.not_true, Bool.false_eq_true, if_false, if_pos differs]
  rfl

/-- The stream that a SOPEN opens. -/
def State.openedStream (s : State) (x : Stream) : Stream :=
  { x with opened := true, peerEnd := (s.shroudAt (shroudOf x.tackle)).peerShut x.tackle x.sid x.dir }

/-- The state in which a SOPEN has opened its stream and told a sender of its window. -/
def State.streamOpened (s : State) (x : Stream) : State :=
  let y := s.openedStream x
  let t := ((s.peerTaken x).setStream y).blockWrite y 48 [0#8]
  if x.dir = 0 then t.sendFlit (shroudOf x.tackle) (.credit (x.tackle % 2) x.sid x.win) else t

theorem sopenMeet_opens (ready : s.closeReady s.cur.ctx = true) (agrees : c = blockCrc x.dbl) :
    s.sopenMeet d x =
      (if (s.shroudAt (shroudOf x.tackle)).peerShut x.tackle x.sid x.dir then (s.streamOpened x).closeStream (s.openedStream x) 4
        else s.streamOpened x).result 1 d (Word.of x.handle) := by
  have same : ¬ c ≠ blockCrc x.dbl := not_not.mpr agrees
  simp only [State.sopenMeet, meets, ready, Bool.not_true, Bool.false_eq_true, if_false, if_neg same]
  rfl

end

theorem streamOpened_sameContext (x : Stream) : sameContext s (s.streamOpened x) := by
  have block := (blockWrite_served (s := (s.peerTaken x).setStream (s.openedStream x)) (s.openedStream x) 48 [0#8]).sameContext
  have begun : sameContext s ((s.peerTaken x).setStream (s.openedStream x)) := ⟨rfl, rfl⟩
  unfold State.streamOpened
  dsimp only
  split
  · exact begun.trans (block.trans ⟨rfl, rfl⟩)
  · exact begun.trans block

theorem streamOpened_mem (x : Stream) :
    (s.streamOpened x).mem = (((s.peerTaken x).setStream (s.openedStream x)).blockWrite (s.openedStream x) 48 [0#8]).mem := by
  unfold State.streamOpened
  dsimp only
  split <;> rfl

theorem mem_streamOpened {x : Stream} (there : x ∈ s.streams) : s.openedStream x ∈ (s.streamOpened x).streams := by
  have opened : s.openedStream x ∈ ((s.peerTaken x).setStream (s.openedStream x)).streams :=
    mem_setStream (s := s.peerTaken x) there rfl
  rw [← (blockWrite_served (s.openedStream x) 48 [0#8]).streams] at opened
  unfold State.streamOpened
  dsimp only
  split <;> exact opened

/-! ### SPUT and SGET -/

theorem streamFor_ok {h : Word} {k : Nat} {send : Bool} {x : Stream} (ends : s.streamFor h k send = .ok x) :
    s.streamNamed h send = .ok x := by
  simp only [State.streamFor, bind_ok] at ends
  obtain ⟨y, named, _, -, same⟩ := ends
  cases same
  exact named

theorem mem_of_streamNamed {h : Word} {send : Bool} {x : Stream} (named : s.streamNamed h send = .ok x) : x ∈ s.streams := by
  unfold State.streamNamed at named
  split at named
  · exact absurd named nofun
  · rename_i y found
    obtain ⟨_, -, same⟩ := bind_ok.mp named
    cases same
    split at found
    · exact mem_of_streamOf found
    · exact absurd found nofun

theorem cutTokens_one {k : Nat} {bs : List Byte} (some' : k ≠ 0) (bytes : bs ≠ []) (fits : bs.length ≤ 256) : cutTokens k bs = [bs] := by
  obtain ⟨f, rfl⟩ := Nat.exists_eq_succ_of_ne_zero some'
  cases bs with
  | nil => exact absurd rfl bytes
  | cons b bs => exact if_pos fits

/-- The SPUT of `k` elements of the context that acts, as the first of its stream. -/
def State.firstSend (s : State) (x : Stream) (k : Nat) : Sending := ⟨s.cur.ctx, s.pc, x.moved + k⟩

theorem putRead_first {x : Stream} {k : Nat} {bs : List Byte} {t : State} (idle : x.sends = []) (sent : x.tx = []) (some' : k ≠ 0)
    (sized : x.size ≠ 0) (reads : s.readNest x.dbl x.size k x.moved = .ok (bs, t)) (length : bs.length = k * x.size)
    (fits : k * x.size ≤ 256) :
    s.putRead x k = .ok (s.firstSend x k, { x with sends := [s.firstSend x k], tx := [bs] }, t) := by
  have bytes : bs ≠ [] := by
    rintro rfl
    exact absurd length.symm (Nat.mul_ne_zero some' sized)
  have none : x.moved + x.count [] = x.moved := by simp [Stream.count]
  unfold State.putRead
  simp only [sent, none, idle, List.nil_append]
  rw [reads]
  exact congrArg (fun l => Except.ok (s.firstSend x k, { x with sends := [s.firstSend x k], tx := l }, t))
    (cutTokens_one some' bytes (length ▸ fits))

section
variable {h : Reg} {n : Src} {x y z : Stream} {p : Sending} {t v : State} (takes : s.streamFor (s.reg h) (s.src n).toNat true = .ok x)
  (idle : x.sends = []) (reads : s.putRead x (s.src n).toNat = .ok (p, y, t)) (sends : State.sendTokens y y.tx t = (z, v))
include takes idle reads sends

theorem sput_sends (all : p.goal ≤ z.moved) :
    exec (.sput h n) s = .next ((v.setStream { z with sends := z.sends.erase p }).advance 1) := by
  rw [show exec (.sput h n) s = execSput h n s from rfl, execSput]
  have none : x.sending s.cur.ctx s.pc = none := by rw [Stream.sending, idle]; rfl
  simp only [streamFor_ok takes, ok_bind, none, takes, reads, sends, if_pos all]
  rfl

theorem sput_waits (some' : ¬ p.goal ≤ z.moved) : exec (.sput h n) s = .next (v.setStream z).waiting := by
  rw [show exec (.sput h n) s = execSput h n s from rfl, execSput]
  have none : x.sending s.cur.ctx s.pc = none := by rw [Stream.sending, idle]; rfl
  simp only [streamFor_ok takes, ok_bind, none, takes, reads, sends, if_neg some']
  rfl

end

theorem sendTokens_one {x : Stream} {b : List Byte} (credit : x.credit ≠ 0) (flows : (s.shroudAt (shroudOf x.tackle)).flows = true)
    (alone : x.q = 31) :
    State.sendTokens x [b] s =
      ({ x with credit := x.credit - 1, moved := x.moved + b.length / x.size, tx := [] }, s.sendToken x b) := by
  simp [State.sendTokens, credit, flows, alone]

theorem sendTokens_none {x : Stream} {b : List Byte} (credit : x.credit = 0) :
    State.sendTokens x [b] s = ({ x with tx := [b] }, s) := by
  simp [State.sendTokens, credit]

theorem takeBytes_zero (f : Nat) (ts : List (List Byte)) (enough : f = ts.length) : takeBytes f 0 ts = ([], ts, 0) := by
  cases ts with
  | nil => cases f <;> rfl
  | cons t ts => subst enough; rfl

/-- The first token alone, where it is what is asked for. -/
theorem takeBytes_first {n : Nat} {b : List Byte} {rest : List (List Byte)} (some' : n ≠ 0) (whole : b.length = n) :
    takeBytes (b :: rest).length n (b :: rest) = (b, rest, 1) := by
  simp only [List.length_cons, takeBytes, if_neg some', if_neg (show ¬ n < b.length by omega), show n - b.length = 0 by omega]
  rw [takeBytes_zero rest.length rest rfl]
  simp

theorem sget_takes {h : Reg} {n : Src} {x : Stream} {b : List Byte} {rest : List (List Byte)} {t : State}
    (takes : s.streamFor (s.reg h) (s.src n).toNat false = .ok x) (some' : (s.src n).toNat ≠ 0) (fresh : x.stage = [])
    (window : x.rx = b :: rest) (sized : x.size ≠ 0) (whole : b.length = (s.src n).toNat * x.size)
    (checked : s.checkNest x.dbl x.size (s.src n).toNat x.moved = .ok ())
    (written : s.writeNest x.dbl x.size (s.src n).toNat x.moved b = .ok t) :
    exec (.sget h n) s = .next (((t.sendFlit (shroudOf x.tackle) (.credit (x.tackle % 2) x.sid 1)).setStream
      { x with moved := x.moved + (s.src n).toNat, rx := rest,
               writers := if x.writers.contains s.cur.ctx then x.writers else x.writers ++ [s.cur.ctx] }).advance 1) := by
  rw [show exec (.sget h n) s = execSget h n s from rfl, execSget]
  refine finish_ok (ok_then takes (ok_then checked ?_))
  have first : takeBytes x.rx.length ((s.src n).toNat * x.size - x.stage.length) x.rx = (b, rest, 1) := by
    rw [window, fresh]
    exact takeBytes_first (Nat.mul_ne_zero some' sized) whole
  simp only [first]
  simp only [fresh, List.nil_append, ← whole, le_refl, if_true, List.take_length, List.drop_length, written, ok_bind]
  simp

/-! ### SCLOSE -/

section
variable {d : Reg} {n : Src} {x : Stream} (handle : (s.src n).toNat < 16)
  (named : s.streamOf (tackleOf s.cur.core) (s.src n).toNat = some x)
include handle named

theorem sclose_closed (closed : x.code ≠ 0) :
    exec (.sclose d n) s = .next ((s.setStream { x with held := false }).sweepStreams.result 1 d (Word.of x.moved)) := by
  rw [show exec (.sclose d n) s = execSclose d n s from rfl, execSclose]
  simp only [if_pos handle, named, ne_eq, closed, not_false_eq_true, if_true]

theorem sclose_waits (open' : x.code = 0)
    (early : ¬ ((x.moved = x.total ∧ (x.dir = 0 ∨ x.acked = x.total)) ∧ s.closeReady s.cur.ctx = true ∧ s.streamDrained x = true)) :
    exec (.sclose d n) s = .next s.waiting := by
  rw [show exec (.sclose d n) s = execSclose d n s from rfl, execSclose]
  simp only [if_pos handle, named, ne_eq, open', not_true_eq_false, if_false, if_neg early]

/-- A SCLOSE that closes its stream answers the count of its elements. -/
theorem sclose_done (open' : x.code = 0) (all : x.moved = x.total) (told : x.dir = 0 ∨ x.acked = x.total)
    (ready : s.closeReady s.cur.ctx = true) (drained : s.streamDrained x = true) :
    ∃ t, sameContext s t ∧ exec (.sclose d n) s = .next (t.result 1 d (Word.of x.moved)) := by
  have closes := closeStream_sameContext (s := s) x 1
  rw [show exec (.sclose d n) s = execSclose d n s from rfl, execSclose]
  simp only [if_pos handle, named, ne_eq, open', not_true_eq_false, if_false,
    if_pos (And.intro (And.intro all told) (And.intro ready drained))]
  generalize s.closeStream x 1 = t at closes
  split
  · refine ⟨_, ?_, rfl⟩
    exact closes.trans ⟨rfl, rfl⟩
  · exact ⟨_, closes, rfl⟩

end

/-! ### Graphs -/

/-- The queues of a graph after each of these has lost its head. -/
def popHeads (qs : AMap (List (List Byte))) (ins : List Nat) : AMap (List (List Byte)) :=
  ins.foldl (fun qs q => AMap.set qs q ((qs.get q []).tail)) qs

theorem popHeads_other {ins : List Nat} {q : Nat} (other : q ∉ ins) (qs : AMap (List (List Byte))) :
    (popHeads qs ins).get q [] = qs.get q [] := by
  induction ins generalizing qs with
  | nil => rfl
  | cons p ins ih =>
    rw [List.mem_cons, not_or] at other
    exact (ih other.2 _).trans (AMap.get_set_other _ other.1 _ _)

/-- A queue that is named loses its head once, where no queue is named twice. -/
theorem popHeads_named {ins : List Nat} (once : ins.Nodup) {q : Nat} (named : q ∈ ins) (qs : AMap (List (List Byte))) :
    (popHeads qs ins).get q [] = (qs.get q []).tail := by
  induction ins generalizing qs with
  | nil => exact absurd named nofun
  | cons p ins ih =>
    obtain ⟨fresh, once⟩ := List.nodup_cons.mp once
    by_cases own : q = p
    · subst own
      exact (popHeads_other fresh _).trans (AMap.get_set_same _ _ _ _)
    · exact (ih once ((List.mem_cons.mp named).resolve_left own) _).trans (by rw [AMap.get_set_other _ own])

theorem nodup_eraseDups (l : List Nat) : l.eraseDups.Nodup := by
  induction hn : l.length using Nat.strong_induction_on generalizing l with
  | _ n ih =>
    cases l with
    | nil => exact List.nodup_nil
    | cons a l =>
      rw [List.eraseDups_cons, List.nodup_cons]
      refine ⟨by simp, ih _ ?_ _ rfl⟩
      have := List.length_filter_le (fun b => !b == a) l
      simp only [List.length_cons] at hn
      omega

/-- The operation of the turn may fire. -/
structure mayFire (s : State) (o : GOp) : Prop where
  op : (s.tackleAt s.place.a).graph[s.place.b]? = some o
  ready : (s.tackleAt s.place.a).opReady o = true
  first : (((s.tackleAt s.place.a).graph.take s.place.b).any fun p =>
    decide (p.core = o.core) && (s.tackleAt s.place.a).opReady p) = false
  runs : (s.tackleAt s.place.a).stop = false
  holder : ∃ l, (s.tackleAt s.place.a).holder = some l ∧ (s.launchAt l).status = .resident ∧ (s.launchAt l).killed = false

/-- The front tokens of an operation's queues. -/
def State.fronts (s : State) (o : GOp) : List (List Byte) := o.ins.map fun q => ((s.tackleAt s.place.a).queues.get q []).headD []

theorem graphFire_publishes {o : GOp} {b : List Byte} (fires : mayFire s o) (result : graphResult o (s.fronts o) = some b) :
    exec .graphFire s = .next (s.putTackle s.place.a ({ s.tackleAt s.place.a with
      queues := popHeads (s.tackleAt s.place.a).queues o.ins.eraseDups }.publish o.out b)) := by
  obtain ⟨op, ready, first, runs, l, holder, resident, alive⟩ := fires
  rw [show exec .graphFire s = execGraphFire s from rfl, execGraphFire]
  simp only [State.fronts] at result
  simp only [op, ready, first, runs, holder, resident, alive, result, decide_true, Bool.not_false, Bool.and_true, if_true]
  rfl

/-- The graph of a tackle stops, and its streams are closed. -/
def State.graphStopped (s : State) : State :=
  (s.putTackle s.place.a { s.tackleAt s.place.a with stop := true }).closeAll
    (fun x => decide (x.tackle = s.place.a) && decide (x.q ≠ 31)) fun _ => 6

theorem graphFire_stops {o : GOp} (fires : mayFire s o) (result : graphResult o (s.fronts o) = none)
    (drained : ∀ x ∈ s.streams, x.tackle = s.place.a → x.q ≠ 31 → x.opened = true → x.code = 0 → s.streamDrained x = true) :
    exec .graphFire s = .next s.graphStopped := by
  obtain ⟨op, ready, first, runs, l, holder, resident, alive⟩ := fires
  have all : (s.streams.all fun x => !(decide (x.tackle = s.place.a) && decide (x.q ≠ 31) && x.opened && decide (x.code = 0)) ||
      s.streamDrained x) = true := by
    refine List.all_eq_true.mpr fun x there => ?_
    have := drained x there
    grind
  rw [show exec .graphFire s = execGraphFire s from rfl, execGraphFire]
  simp only [State.fronts] at result
  simp only [op, ready, first, runs, holder, resident, alive, result, all, State.graphStopped, decide_true, Bool.not_false,
    Bool.and_true, if_true]

theorem graphStopped_stop : (s.graphStopped.tackleAt s.place.a).stop = true := by
  rw [State.graphStopped, State.tackleAt, closeAll_tackles]
  exact congrArg Tackle.stop (putTackle_tackleAt_same (s := s) _ _)

/-! ### Queue-bound streams -/

/-- The queue-bound stream of the turn, which may move a token of these bytes. -/
structure mayMove (s : State) (x : Stream) (b : List Byte) : Prop where
  names : (s.streams.find? fun x => decide (x.tackle = s.place.a) && decide (x.handle = s.place.b) && x.opened && decide (x.code = 0)) = some x
  bound : x.bound = true
  flows : (s.shroudAt (shroudOf s.place.a)).flows = true
  runs : (s.tackleAt s.place.a).stop = false
  left : x.moved + b.length / x.size ≤ x.total

theorem mayMove.mem {x : Stream} {b : List Byte} (moves : mayMove s x b) : x ∈ s.streams := List.mem_of_find?_eq_some moves.names

theorem mayMove.tackle {x : Stream} {b : List Byte} (moves : mayMove s x b) : x.tackle = s.place.a := by
  have := List.find?_some moves.names
  simp only [Bool.and_eq_true, decide_eq_true_eq] at this
  exact this.1.1.1

theorem streamToken_in {x : Stream} {b : List Byte} {rest : List (List Byte)} (moves : mayMove s x b) (receives : x.dir = 0)
    (window : x.rx = b :: rest) (room : (s.tackleAt s.place.a).room x.q = true) :
    exec .streamToken s = .next (((s.putTackle s.place.a ((s.tackleAt s.place.a).publish x.q b)).setStream
      { x with rx := rest, moved := x.moved + b.length / x.size }).sendFlit (shroudOf s.place.a) (.credit (x.tackle % 2) x.sid 1)) := by
  obtain ⟨names, bound, flows, runs, left⟩ := moves
  rw [show exec .streamToken s = execStreamToken s from rfl, execStreamToken]
  simp only [names, bound, flows, runs, receives, window, room, left, Bool.not_true, Bool.or_self, Bool.false_eq_true, if_false,
    and_self, if_true]

theorem streamToken_out {x : Stream} {b : List Byte} {rest : List (List Byte)} (moves : mayMove s x b) (sends : x.dir ≠ 0)
    (queue : (s.tackleAt s.place.a).queues.get x.q [] = b :: rest) (credit : x.credit ≠ 0) (whole : b.length % x.size = 0) :
    exec .streamToken s = .next (((s.putTackle s.place.a { s.tackleAt s.place.a with
      queues := (s.tackleAt s.place.a).queues.set x.q rest }).setStream
      { x with credit := x.credit - 1, moved := x.moved + b.length / x.size }).sendToken x b) := by
  obtain ⟨names, bound, flows, runs, left⟩ := moves
  rw [show exec .streamToken s = execStreamToken s from rfl, execStreamToken]
  simp only [names, bound, flows, runs, if_neg sends, queue, left, Bool.not_true, Bool.or_self, Bool.false_eq_true, if_false,
    whole, ne_eq, credit, not_false_eq_true, and_self, if_true]

/-! ### O44 -/

theorem sopen_completes (d : Reg) (a : RcSrc) (x : Stream) :
    let peer := (s.shroudAt (shroudOf x.tackle)).peerOpen x.tackle x.sid x.dir
    let shut := (s.shroudAt (shroudOf x.tackle)).peerShut x.tackle x.sid x.dir
    let y : Stream := { x with opened := true, peerEnd := shut }
    s.opening s.cur.ctx = some x → peer ≠ none →
       (s.closeReady s.cur.ctx = false → ∃ u, exec (.sopen d a) s = .next u ∧ waits s u ∧ u.streams = s.streams) ∧
       (s.closeReady s.cur.ctx = true →
         (peer = some (blockCrc x.dbl) → ∃ u, exec (.sopen d a) s = .next u ∧ u.pc = s.pc + 4 ∧
           u.reg d = (if d = .g 0 then 0 else Word.of x.handle) ∧ (∀ r, r ≠ d → u.reg r = s.reg r) ∧
           (shut = false → u.mem = (((s.peerTaken x).setStream y).blockWrite y 48 [0]).mem ∧ y ∈ u.streams) ∧
           (shut = true → x.held = true → { y with code := 4 } ∈ u.streams)) ∧
         (peer ≠ some (blockCrc x.dbl) → ∃ u, exec (.sopen d a) s = .next u ∧ u.pc = s.pc + 4 ∧
           u.reg d = (if d = .g 0 then 0 else BitVec.allOnes 64) ∧ (∀ r, r ≠ d → u.reg r = s.reg r) ∧
           ∀ z ∈ u.streams, z.id ≠ x.id)) := by
  intro peer shut y opens met
  obtain ⟨c, meets⟩ := Option.ne_none_iff_exists'.mp met
  have there : x ∈ s.streams := mem_of_opening opens
  refine ⟨fun early => ⟨_, (sopen_meets opens).trans (congrArg _ (sopenMeet_waits meets early)), (sameProgram.refl s).waits, rfl⟩,
    fun ready => ⟨fun agrees => ?_, fun differs => ?_⟩⟩
  · have opened := sopenMeet_opens (d := d) meets ready (Option.some_inj.mp (meets.symm.trans agrees))
    by_cases closed : shut = true
    · rw [if_pos closed] at opened
      obtain ⟨pc, reg, others⟩ := ((streamOpened_sameContext (s := s) x).trans (closeStream_sameContext (s.openedStream x) 4)).result 1 d
        (Word.of x.handle)
      refine ⟨_, (sopen_meets opens).trans (congrArg _ opened), pc, reg, others, fun unshut => ?_, fun _ held => ?_⟩
      · exact absurd (unshut.symm.trans closed) nofun
      · rw [result_streams]
        have left : (s.openedStream x).closed 4 = { y with code := 4 } := by
          simp [Stream.closed, State.openedStream, y, shut, held]
        exact left ▸ mem_closeStream (mem_streamOpened there) rfl (by simp [Stream.closed, State.openedStream, Stream.over, held])
    · rw [if_neg closed] at opened
      obtain ⟨pc, reg, others⟩ := (streamOpened_sameContext (s := s) x).result 1 d (Word.of x.handle)
      refine ⟨_, (sopen_meets opens).trans (congrArg _ opened), pc, reg, others, fun _ => ⟨?_, ?_⟩, fun is => absurd is closed⟩
      · rw [result_mem]
        exact streamOpened_mem x
      · rw [result_streams]
        exact mem_streamOpened there
  · have other : c ≠ blockCrc x.dbl := fun same => differs (meets.trans (congrArg some same))
    have taken : sameContext s (s.peerTaken x) := ⟨rfl, rfl⟩
    have closed := taken.trans (closeBlock_served (s := s.peerTaken x) x 2).sameContext
    have told := closed.trans (t := (s.peerTaken x).closeBlock x 2)
      (u := { ((s.peerTaken x).closeBlock x 2).sendFlit (shroudOf x.tackle) (.close (x.tackle % 2) x.sid x.dir 2) with
        streams := ((s.peerTaken x).closeBlock x 2).streams.filter fun y => decide (y.id ≠ x.id) }) ⟨rfl, rfl⟩
    obtain ⟨pc, reg, others⟩ := told.result 1 d (BitVec.allOnes 64)
    refine ⟨_, (sopen_meets opens).trans (congrArg _ (sopenMeet_differs meets ready other)), pc, reg, others, fun z left => ?_⟩
    rw [result_streams] at left
    exact of_decide_eq_true (List.mem_filter.mp left).2

theorem sendToken_sameProgram (x : Stream) (b : List Byte) : sameProgram s (s.sendToken x b) := by
  obtain ⟨xs, h⟩ := sendFlits_only (s := s) (shroudOf x.tackle) (tokenFlits (x.tackle % 2) x.sid 8 b)
  rw [State.sendToken, h]
  exact .of_ctx rfl rfl rfl

theorem sendToken_streams (x : Stream) (b : List Byte) : (s.sendToken x b).streams = s.streams := by
  obtain ⟨xs, h⟩ := sendFlits_only (s := s) (shroudOf x.tackle) (tokenFlits (x.tackle % 2) x.sid 8 b)
  rw [State.sendToken, h]

theorem sendToken_tackles (x : Stream) (b : List Byte) : (s.sendToken x b).tackles = s.tackles := by
  obtain ⟨xs, h⟩ := sendFlits_only (s := s) (shroudOf x.tackle) (tokenFlits (x.tackle % 2) x.sid 8 b)
  rw [State.sendToken, h]

theorem sput_completes (h : Reg) (n : Src) (x : Stream) :
    let k := (s.src n).toNat
    let link := shroudOf x.tackle
    let next : Stream := { x with moved := x.moved + k }
    ∀ bs t, s.streamFor (s.reg h) k true = .ok x → k ≠ 0 → x.size ≠ 0 → k * x.size ≤ 256 → x.sends = [] → x.tx = [] → x.q = 31 →
       s.readNest x.dbl x.size k x.moved = .ok (bs, t) → t.streams = s.streams → bs.length = k * x.size →
       (x.credit ≠ 0 → (t.shroudAt link).flows = true →
         ∃ u, exec (.sput h n) s = .next u ∧ acted 1 t u ∧ { next with credit := x.credit - 1 } ∈ u.streams ∧
           (u.shroudAt link).sent = (t.shroudAt link).sent ++ tokenFlits (x.tackle % 2) x.sid 8 bs) ∧
       (x.credit = 0 → ∃ u, exec (.sput h n) s = .next u ∧ waits t u ∧ u.shrouds = t.shrouds ∧
         { x with sends := [⟨s.cur.ctx, s.pc, x.moved + k⟩], tx := [bs] } ∈ u.streams) := by
  intro k link next bs t takes some' sized fits idle sent alone reads streams length
  have there : x ∈ t.streams := streams ▸ mem_of_streamNamed (streamFor_ok takes)
  have read := putRead_first idle sent some' sized reads length fits
  have elements : bs.length / x.size = k := by rw [length, Nat.mul_div_cancel _ (Nat.pos_of_ne_zero sized)]
  refine ⟨fun credit flows => ?_, fun credit => ?_⟩
  · have sends := sendTokens_one (x := { x with sends := [s.firstSend x k], tx := [bs] }) (b := bs) credit flows alone
    have moved : x.moved + bs.length / x.size = x.moved + k := by rw [elements]
    let rest := [s.firstSend x k].erase (s.firstSend x k)
    have last : { x with credit := x.credit - 1, moved := x.moved + bs.length / x.size, tx := [], sends := rest } =
        { next with credit := x.credit - 1 } := by
      rw [moved, show rest = x.sends by simp [rest, idle], ← sent]
    have run := sput_sends takes idle read sends (le_of_eq moved.symm)
    refine ⟨_, run, ?_, ?_, congrArg Shroud.sent (sendFlits_sent link (tokenFlits (x.tackle % 2) x.sid 8 bs))⟩
    · exact ((sendToken_sameProgram _ bs).trans (setStream_sameProgram _)).acted 1
    · rw [← last]
      refine mem_setStream (s := t.sendToken _ bs) (x := x) ?_ rfl
      rw [sendToken_streams]
      exact there
  · have sends := sendTokens_none (s := t) (x := { x with sends := [s.firstSend x k], tx := [bs] }) (b := bs) credit
    have behind : ¬ x.moved + k ≤ x.moved := by omega
    exact ⟨_, sput_waits takes idle read sends behind, (setStream_sameProgram _).waits, rfl, mem_setStream (s := t) there rfl⟩

theorem sget_completes (h : Reg) (n : Src) (x : Stream) :
    let k := (s.src n).toNat
    let link := shroudOf x.tackle
    let next : Stream := { x with moved := x.moved + k }
    ∀ b rest t, s.streamFor (s.reg h) k false = .ok x → k ≠ 0 → x.stage = [] → x.rx = b :: rest → x.size ≠ 0 →
       b.length = k * x.size → s.checkNest x.dbl x.size k x.moved = .ok () → s.writeNest x.dbl x.size k x.moved b = .ok t →
       t.streams = s.streams →
       ∃ u, exec (.sget h n) s = .next u ∧ acted 1 t u ∧
         { next with rx := rest, writers := (if x.writers.contains s.cur.ctx then x.writers else x.writers ++ [s.cur.ctx]) } ∈ u.streams ∧
         (u.shroudAt link).sent = (t.shroudAt link).sent ++ [.credit (x.tackle % 2) x.sid 1] := by
  intro k link next b rest t takes some' fresh window sized whole checked written streams
  have there : x ∈ t.streams := streams ▸ mem_of_streamNamed (streamFor_ok takes)
  refine ⟨_, sget_takes takes some' fresh window sized whole checked written,
    ((sendFlit_sameProgram _ _).trans (setStream_sameProgram _)).acted 1, mem_setStream (s := t.sendFlit _ _) there rfl, ?_⟩
  exact congrArg Shroud.sent (sendFlit_shroudAt (s := t) link _)

theorem sclose_completes (d : Reg) (n : Src) (x : Stream) :
    let k := (s.src n).toNat
    k < 16 → s.streamOf (tackleOf s.cur.core) k = some x →
       (x.code ≠ 0 → ∃ u, exec (.sclose d n) s = .next u ∧ answered 1 d (Word.of x.moved) s u ∧
         ∀ y ∈ u.streams, y.id = x.id → y.held = false) ∧
       (x.code = 0 → x.moved = x.total → (x.dir = 0 ∨ x.acked = x.total) → s.closeReady s.cur.ctx = true →
         s.streamDrained x = true →
         ∃ u, exec (.sclose d n) s = .next u ∧ u.pc = s.pc + 4 ∧ u.reg d = (if d = .g 0 then 0 else Word.of x.moved)) ∧
       (x.code = 0 → x.moved ≠ x.total ∨ s.closeReady s.cur.ctx = false ∨ s.streamDrained x = false →
         ∃ u, exec (.sclose d n) s = .next u ∧ waits s u) := by
  intro k handle named
  refine ⟨fun closed => ⟨_, sclose_closed handle named closed,
    ((setStream_sameProgram _).trans sweepStreams_sameProgram).answered 1 d _, fun y left own => ?_⟩,
    fun opened all told ready drained => ?_, fun opened early => ⟨_, sclose_waits handle named opened ?_, (sameProgram.refl s).waits⟩⟩
  · rw [result_streams] at left
    rw [setStream_id (List.mem_filter.mp left).1 own]
  · obtain ⟨t, same, run⟩ := sclose_done (d := d) handle named opened all told ready drained
    obtain ⟨pc, reg, -⟩ := same.result 1 d (Word.of x.moved)
    exact ⟨_, run, pc, reg⟩
  · rintro ⟨⟨all, -⟩, ready, drained⟩
    rcases early with short | notReady | undrained
    · exact short all
    · exact absurd (ready.symm.trans notReady) nofun
    · exact absurd (drained.symm.trans undrained) nofun

theorem graphFire_completes (o : GOp) (fires : mayFire s o) :
    let t := s.tackleAt s.place.a
    let r := graphResult o (s.fronts o)
    (∀ b, r = some b → o.out ∉ o.ins → ∃ u, exec .graphFire s = .next u ∧ sameMemory s u ∧
       (u.tackleAt s.place.a).queues.get o.out [] = t.queues.get o.out [] ++ [b] ∧
       ∀ q ∈ o.ins, (u.tackleAt s.place.a).queues.get q [] = (t.queues.get q []).tail) ∧
    (r = none → (∀ x ∈ s.streams, x.tackle = s.place.a → x.q ≠ 31 → x.opened = true → x.code = 0 → s.streamDrained x = true) →
       ∃ u, exec .graphFire s = .next u ∧ (u.tackleAt s.place.a).stop = true) := by
  intro t r
  refine ⟨fun b result apart => ⟨_, graphFire_publishes fires result, fun _ => rfl, ?_, fun q named => ?_⟩,
    fun result drained => ⟨_, graphFire_stops fires result drained, graphStopped_stop⟩⟩
  · rw [putTackle_tackleAt_same, Tackle.publish]
    exact (AMap.get_set_same _ _ _ _).trans (by rw [popHeads_other (fun twice => apart (List.mem_eraseDups.mp twice))])
  · have other : q ≠ o.out := fun same => apart (same ▸ named)
    rw [putTackle_tackleAt_same, Tackle.publish]
    exact (AMap.get_set_other _ other _ _).trans (popHeads_named (nodup_eraseDups _) (List.mem_eraseDups.mpr named) _)

theorem streamToken_completes (x : Stream) (b : List Byte) (rest : List (List Byte)) (moves : mayMove s x b) :
    let t := s.tackleAt s.place.a
    let link := shroudOf s.place.a
    (x.dir = 0 → x.rx = b :: rest → t.room x.q = true →
      ∃ u, exec .streamToken s = .next u ∧ sameMemory s u ∧
        (u.tackleAt s.place.a).queues.get x.q [] = t.queues.get x.q [] ++ [b] ∧
        { x with rx := rest, moved := x.moved + b.length / x.size } ∈ u.streams ∧
        (u.shroudAt link).sent = (s.shroudAt link).sent ++ [.credit (x.tackle % 2) x.sid 1]) ∧
    (x.dir ≠ 0 → t.queues.get x.q [] = b :: rest → x.credit ≠ 0 → b.length % x.size = 0 →
      ∃ u, exec .streamToken s = .next u ∧ sameMemory s u ∧ (u.tackleAt s.place.a).queues.get x.q [] = rest ∧
        { x with credit := x.credit - 1, moved := x.moved + b.length / x.size } ∈ u.streams ∧
        (u.shroudAt link).sent = (s.shroudAt link).sent ++ tokenFlits (x.tackle % 2) x.sid 8 b) := by
  intro t link
  refine ⟨fun receives window room => ⟨_, streamToken_in moves receives window room, fun _ => rfl, ?_,
    mem_setStream (s := s.putTackle _ _) moves.mem rfl, ?_⟩, fun sends queue credit whole =>
    ⟨_, streamToken_out moves sends queue credit whole, ?_, ?_, ?_, ?_⟩⟩
  · exact (congrArg (fun t : Tackle => t.queues.get x.q []) (putTackle_tackleAt_same (s := s) _ _)).trans (AMap.get_set_same _ _ _ _)
  · exact congrArg Shroud.sent (sendFlit_shroudAt (s := (s.putTackle _ _).setStream _) link _)
  · exact (sendToken_sameProgram (s := (s.putTackle _ _).setStream _) x b).memory
  · rw [State.tackleAt, sendToken_tackles]
    exact (congrArg (fun t : Tackle => t.queues.get x.q []) (putTackle_tackleAt_same (s := s) _ _)).trans (AMap.get_set_same _ _ _ _)
  · rw [sendToken_streams]
    exact mem_setStream (s := s.putTackle _ _) moves.mem rfl
  · rw [State.sendToken, moves.tackle]
    exact congrArg Shroud.sent (sendFlits_sent (s := (s.putTackle _ _).setStream _) link _)

/-- Settles O44: each stream instruction, and each turn of a graph or a queue-bound stream, runs by its equation above. -/
theorem streamsAndGraphsRun : Obligations.StreamsAndGraphsRun := by
  unfold Obligations.StreamsAndGraphsRun
  refine ⟨fun s d h a n x => ⟨fun t fresh starts none => sopen_starts fresh starts none, sopen_completes d a x,
    sput_completes h n x, sget_completes h n x, sclose_completes d n x⟩, fun s => ⟨?_, ?_⟩⟩
  · intro o l op ready first runs holder resident alive
    exact graphFire_completes o ⟨op, ready, first, runs, l, holder, resident, alive⟩
  · intro x b rest names bound flows runs left
    exact streamToken_completes x b rest ⟨names, bound, flows, runs, left⟩

end Sys2Proof.Machine
end

section
/-! Shroud links (R377 to R379, R387, R388): what the arrival of each flit does, retrains and failures; O45. -/

namespace Sys2Proof.Machine

variable {s : State} {n t sid : Nat} {y : Stream}

/-! ### Arrivals -/

section
variable (flows : (s.shroudAt n).flows = true)
include flows

theorem arrive_open (dir : Nat) (c : BitVec 32) :
    exec (.shroudFlitArrive n (.open_ t sid dir c)) s =
      .next (s.putShroud n { s.shroudAt n with peers := (s.shroudAt n).peers ++ [.open_ t sid dir c] }) := by
  rw [show exec (.shroudFlitArrive n (.open_ t sid dir c)) s = execShroudFlitArrive n (.open_ t sid dir c) s from rfl, execShroudFlitArrive]
  simp only [flows, Bool.not_true, Bool.false_eq_true, if_false]

theorem arrive_last {bs : List Byte} (names : s.streamBySid (2 * n + t) sid true = some y) (isOpen : y.code = 0) (room : y.rx.length < y.win)
    (flit : bs.length ≤ 32) (fits : (y.rxPart ++ bs).length ≤ 256) (some' : y.rxPart ++ bs ≠ [])
    (whole : (y.rxPart ++ bs).length % y.size = 0) :
    exec (.shroudFlitArrive n (.data t sid bs true)) s = .next (s.tokenIn n y (y.rxPart ++ bs)) := by
  have passes : ¬ (y.win ≤ y.rx.length ∨ 32 < bs.length ∨ 256 < (y.rxPart ++ bs).length) := by omega
  rw [show exec (.shroudFlitArrive n (.data t sid bs true)) s = execShroudFlitArrive n (.data t sid bs true) s from rfl, execShroudFlitArrive]
  simp only [flows, Bool.not_true, Bool.false_eq_true, if_false, names, ne_eq, isOpen, not_true_eq_false, if_neg passes, if_true]
  exact if_pos ⟨mt List.length_eq_zero_iff.mp some', whole⟩

theorem arrive_part {bs : List Byte} (names : s.streamBySid (2 * n + t) sid true = some y) (isOpen : y.code = 0) (room : y.rx.length < y.win)
    (full : bs.length = 32) (fits : (y.rxPart ++ bs).length ≤ 256) :
    exec (.shroudFlitArrive n (.data t sid bs false)) s = .next (s.setStream { y with rxPart := y.rxPart ++ bs }) := by
  have passes : ¬ (y.win ≤ y.rx.length ∨ 32 < bs.length ∨ 256 < (y.rxPart ++ bs).length) := by omega
  rw [show exec (.shroudFlitArrive n (.data t sid bs false)) s = execShroudFlitArrive n (.data t sid bs false) s from rfl,
    execShroudFlitArrive]
  simp only [flows, Bool.not_true, Bool.false_eq_true, if_false, names, ne_eq, isOpen, not_true_eq_false, if_neg passes, if_pos full]

theorem arrive_credit (names : s.streamBySid (2 * n + t) sid false = some y) (k : Nat) :
    exec (.shroudFlitArrive n (.credit t sid k)) s = .next (s.setStream { y with credit := y.credit + k }) := by
  rw [show exec (.shroudFlitArrive n (.credit t sid k)) s = execShroudFlitArrive n (.credit t sid k) s from rfl, execShroudFlitArrive]
  simp only [flows, Bool.not_true, Bool.false_eq_true, if_false, names]

theorem arrive_ack {k : Nat} (names : s.streamBySid (2 * n + t) sid false = some y) (moved : y.acked + k ≤ y.moved) :
    exec (.shroudFlitArrive n (.ack t sid k)) s = .next (s.setStream { y with acked := y.acked + k }) := by
  rw [show exec (.shroudFlitArrive n (.ack t sid k)) s = execShroudFlitArrive n (.ack t sid k) s from rfl, execShroudFlitArrive]
  simp only [flows, Bool.not_true, Bool.false_eq_true, if_false, names, if_pos moved]

theorem arrive_close {dir c : Nat} (names : s.streamBySid (2 * n + t) sid (decide (dir ≠ 0)) = some y)
    (ordinary : ¬ (y.code = 0 ∧ (c = 5 ∨ c = 6))) :
    exec (.shroudFlitArrive n (.close t sid dir c)) s = .next (s.setStream { y with peerEnd := true }).sweepStreams := by
  rw [show exec (.shroudFlitArrive n (.close t sid dir c)) s = execShroudFlitArrive n (.close t sid dir c) s from rfl, execShroudFlitArrive]
  simp only [flows, Bool.not_true, Bool.false_eq_true, if_false, names]
  exact if_neg ordinary

theorem arrive_close_failed {dir c : Nat} (names : s.streamBySid (2 * n + t) sid (decide (dir ≠ 0)) = some y)
    (failed : y.code = 0 ∧ (c = 5 ∨ c = 6)) (drained : s.streamDrained y = true) :
    exec (.shroudFlitArrive n (.close t sid dir c)) s =
      .next ((s.setStream { y with peerEnd := true }).closeStream { y with peerEnd := true } 4) := by
  rw [show exec (.shroudFlitArrive n (.close t sid dir c)) s = execShroudFlitArrive n (.close t sid dir c) s from rfl, execShroudFlitArrive]
  simp only [flows, Bool.not_true, Bool.false_eq_true, if_false, names]
  exact (if_pos failed).trans (if_pos drained)

/-- Whether a stream that still opens here meets the flit's. -/
def State.opensHere (s : State) (n : Nat) (f : Flit) : Bool :=
  s.streams.any fun y => !y.opened && decide (shroudOf y.tackle = n) && flitMeets false y.tackle y.sid y.dir f

theorem arrive_close_early {dir c : Nat} (names : s.streamBySid (2 * n + t) sid (decide (dir ≠ 0)) = none) :
    exec (.shroudFlitArrive n (.close t sid dir c)) s =
      .next (s.putShroud n ((s.shroudAt n).keepClose (s.opensHere n (.close t sid dir c)) t sid dir (.close t sid dir c))) := by
  rw [show exec (.shroudFlitArrive n (.close t sid dir c)) s = execShroudFlitArrive n (.close t sid dir c) s from rfl, execShroudFlitArrive]
  simp only [flows, Bool.not_true, Bool.false_eq_true, if_false, names]
  rfl

theorem arrive_linkAck {k : Nat} (sent : (s.shroudAt n).acked + k ≤ (s.shroudAt n).sent.length) :
    exec (.shroudFlitArrive n (.linkAck k)) s = .next (s.putShroud n { s.shroudAt n with acked := (s.shroudAt n).acked + k }) := by
  have kept : k ≤ (s.shroudAt n).replay.length := by rw [Shroud.replay, List.length_drop]; omega
  rw [show exec (.shroudFlitArrive n (.linkAck k)) s = execShroudFlitArrive n (.linkAck k) s from rfl, execShroudFlitArrive]
  simp only [flows, Bool.not_true, Bool.false_eq_true, if_false, if_pos kept]

end

theorem mem_of_streamBySid {t : Nat} {recv : Bool} (names : s.streamBySid t sid recv = some y) : y ∈ s.streams :=
  List.mem_of_find?_eq_some names

/-! ### A close of a stream that still opens -/

/-- A flit of a stream meets the opposite direction alone. -/
theorem flitMeets_dir (opens : Bool) (t sid : Nat) {dir dir' : Nat} (same : dir = 0 ↔ dir' = 0) :
    flitMeets opens t sid dir = flitMeets opens t sid dir' := by
  funext f
  cases f <;> simp only [flitMeets, same]

/-- The direction of the peer's end of a stream. -/
def farDir (dir : Nat) : Nat := if dir = 0 then 1 else 0

theorem farDir_zero (dir : Nat) : farDir dir = 0 ↔ dir ≠ 0 := by unfold farDir; split <;> simp_all

theorem flitMeets_close (t sid dir c : Nat) (tackle : Nat) (mine : tackle % 2 = t) :
    flitMeets false tackle sid dir (.close t sid (farDir dir) c) = true := by
  have far : (dir = 0) ≠ (farDir dir = 0) := by
    rw [ne_eq, eq_iff_iff, farDir_zero]
    tauto
  simp only [flitMeets, Bool.not_false, Bool.true_and, Bool.and_eq_true, decide_eq_true_eq]
  exact ⟨⟨mine.symm, trivial⟩, far⟩

theorem keepClose_kept {x : Shroud} {dir : Nat} {f : Flit}
    (fewer : x.peers.countP (flitMeets false t sid dir) < x.peers.countP (flitMeets true t sid dir)) :
    x.keepClose true t sid (farDir dir) f = { x with peers := x.peers ++ [f] } := by
  have near : farDir (farDir dir) = 0 ↔ dir = 0 := by rw [farDir_zero, ne_eq, farDir_zero, not_not]
  have side (opens : Bool) : flitMeets opens t sid (if farDir dir = 0 then 1 else 0) = flitMeets opens t sid dir := flitMeets_dir opens t sid near
  unfold Shroud.keepClose
  simp only [side]
  exact (if_neg (Nat.not_le.mpr fewer)).trans (if_pos trivial)

theorem opensHere_of {y : Stream} (there : y ∈ s.streams) (opening : y.opened = false) (low : t < 2) (tackle : y.tackle = 2 * n + t) (c : Nat) :
    s.opensHere n (.close t y.sid (farDir y.dir) c) = true := by
  refine List.any_eq_true.mpr ⟨y, there, ?_⟩
  rw [flitMeets_close t y.sid y.dir c y.tackle (by omega), opening, show shroudOf y.tackle = n by rw [shroudOf]; omega]
  simp

/-! ### Retrains and failures -/

theorem retrain_begins (real : n < 16) (ready : s.plat.ready = true) (lanes : Nat) (still : (s.shroudAt n).training = false) :
    exec (.shroudRetrain n lanes) s = .next (s.putShroud n { s.shroudAt n with training := true }) := by
  have open' : ¬ (16 ≤ n ∨ (!s.plat.ready) = true) := by simp [ready, real]
  rw [show exec (.shroudRetrain n lanes) s = execShroudRetrain n lanes s from rfl, execShroudRetrain]
  simp only [if_neg open', still, Bool.not_false, if_true]

/-- A retrain that ends leaves the lanes of the end, and reports a port that goes down. -/
theorem retrain_ends (real : n < 16) (ready : s.plat.ready = true) (lanes : Nat) (trains : (s.shroudAt n).training = true) :
    ∃ p, exec (.shroudRetrain n lanes) s = .next { s.putShroud n { s.shroudAt n with
      training := false, lanes := Nat.min lanes (s.shroudAt n).lanes, up := decide (4 ≤ Nat.min lanes (s.shroudAt n).lanes) } with plat := p } := by
  have open' : ¬ (16 ≤ n ∨ (!s.plat.ready) = true) := by simp [ready, real]
  rw [show exec (.shroudRetrain n lanes) s = execShroudRetrain n lanes s from rfl, execShroudRetrain]
  simp only [if_neg open', trains, Bool.not_true, Bool.false_eq_true, if_false]
  split
  · exact ⟨_, rfl⟩
  · exact ⟨s.plat, rfl⟩

/-- The port of a shroud is down, and nothing of the peer waits there. -/
def State.portDown (s : State) (n : Nat) : Prop :=
  (s.shroudAt n).up = false ∧ (s.shroudAt n).training = false ∧ (s.shroudAt n).peers = []

theorem sendFlit_portDown (k : Nat) (f : Flit) (down : s.portDown n) : (s.sendFlit k f).portDown n := by
  by_cases own : n = k
  · subst own
    rw [State.portDown, sendFlit_shroudAt]
    exact down
  · rw [State.portDown, show (s.sendFlit k f).shroudAt n = s.shroudAt n from AMap.get_set_other _ own _ _]
    exact down

theorem portDown_of_shrouds {t : State} (same : t.shrouds = s.shrouds) (down : s.portDown n) : t.portDown n := by
  rw [State.portDown, State.shroudAt, same]
  exact down

theorem closeStream_portDown (x : Stream) (c : Nat) (down : s.portDown n) : (s.closeStream x c).portDown n := by
  rcases closeStream_shrouds (s := s) x c with same | ⟨f, same⟩
  · exact portDown_of_shrouds same down
  · exact portDown_of_shrouds same (sendFlit_portDown _ f down)

theorem closeAll_portDown (f : Stream → Bool) (c : Stream → Nat) (down : s.portDown n) : (s.closeAll f c).portDown n :=
  foldl_rule (P := fun t : State => t.portDown n) (fun _ _ down => closeStream_portDown _ _ down) _ down

/-- The streams that a failed port leaves: those that still opened there are gone, and the peer's end of the others is gone. -/
def failedStreams (n : Nat) (xs : List Stream) : List Stream :=
  ((xs.filter fun y => !(decide (shroudOf y.tackle = n) && !y.opened)).map fun y =>
    if decide (shroudOf y.tackle = n) then { y with peerEnd := true } else y).filter fun x => !x.over

theorem failedStreams_ended {xs : List Stream} (left : y ∈ failedStreams n xs) (mine : shroudOf y.tackle = n) :
    y.opened = true ∧ y.peerEnd = true := by
  obtain ⟨z, kept, same⟩ := List.mem_map.mp (List.mem_filter.mp left).1
  have stays := (List.mem_filter.mp kept).2
  by_cases own : shroudOf z.tackle = n
  · rw [if_pos (decide_eq_true own)] at same
    rw [← same]
    rw [decide_eq_true own] at stays
    exact ⟨by simpa using stays, rfl⟩
  · rw [if_neg (by rw [decide_eq_false own]; exact Bool.false_ne_true)] at same
    exact absurd (same ▸ mine) own

/-- The state that a failed port leaves, with its report. -/
theorem shroudFail_fails (place : n = s.place.a) (real : n < 16) (ready : s.plat.ready = true)
    (down : (s.shroudAt n).training = true ∨ (s.shroudAt n).up = false)
    (drained : ∀ y ∈ s.streams, shroudOf y.tackle = n → s.streamDrained y = true) :
    ∃ u, exec .shroudFail s = .next u ∧ u.portDown n ∧ ∃ xs, u.streams = failedStreams n xs := by
  subst place
  have all : (s.streams.all fun y => !(decide (shroudOf y.tackle = s.place.a)) || s.streamDrained y) = true := by
    refine List.all_eq_true.mpr fun y there => ?_
    by_cases mine : shroudOf y.tackle = s.place.a
    · rw [drained y there mine, Bool.or_true]
    · rw [decide_eq_false mine]
      rfl
  have port : ((s.shroudAt s.place.a).training || !(s.shroudAt s.place.a).up) = true := by
    rcases down with trains | down
    · rw [trains]; rfl
    · rw [down, Bool.not_false, Bool.or_true]
  have begun : (s.putShroud s.place.a { s.shroudAt s.place.a with up := false, training := false, peers := [] }).portDown s.place.a := by
    rw [State.portDown, putShroud_shroudAt_same]
    exact ⟨rfl, rfl, rfl⟩
  have closed := closeAll_portDown (fun y => decide (shroudOf y.tackle = s.place.a)) (fun y => if y.finished then 1 else 3) begun
  rw [show exec .shroudFail s = execShroudFail s from rfl, execShroudFail]
  simp only [port, real, ready, all, decide_true, Bool.and_self, if_true]
  exact ⟨_, rfl, closed, _, rfl⟩

/-! ### O45 -/

theorem flits_of_data (flows : (s.shroudAt n).flows = true) {bs : List Byte} (names : s.streamBySid (2 * n + t) sid true = some y)
    (isOpen : y.code = 0) (room : y.rx.length < y.win) (flit : bs.length ≤ 32) :
    let b := y.rxPart ++ bs
    b.length ≤ 256 →
    (b ≠ [] → b.length % y.size = 0 → ∃ u, exec (.shroudFlitArrive n (.data t sid bs true)) s = .next u ∧ sameMemory s u ∧
      { y with rx := y.rx ++ [b], rxPart := [] } ∈ u.streams ∧
      (u.shroudAt n).sent = (s.shroudAt n).sent ++ [.ack (y.tackle % 2) y.sid (b.length / y.size)]) ∧
    (bs.length = 32 → ∃ u, exec (.shroudFlitArrive n (.data t sid bs false)) s = .next u ∧ sameMemory s u ∧
      { y with rxPart := b } ∈ u.streams ∧ (u.shroudAt n).sent = (s.shroudAt n).sent) := by
  intro b fits
  have there := mem_of_streamBySid names
  refine ⟨fun some' whole => ⟨_, arrive_last flows names isOpen room flit fits some' whole, fun _ => rfl, ?_, ?_⟩,
    fun full => ⟨_, arrive_part flows names isOpen room full fits, fun _ => rfl, mem_setStream there rfl, rfl⟩⟩
  · exact mem_setStream there rfl
  · exact congrArg Shroud.sent (sendFlit_shroudAt (s := s.setStream _) n _)

theorem flits_of_close (flows : (s.shroudAt n).flows = true) {dir c : Nat}
    (names : s.streamBySid (2 * n + t) sid (decide (dir ≠ 0)) = some y) (isOpen : y.code = 0) :
    (c ≠ 5 → c ≠ 6 → ∃ u, exec (.shroudFlitArrive n (.close t sid dir c)) s = .next u ∧ sameMemory s u ∧
      { y with peerEnd := true } ∈ u.streams) ∧
    (c = 5 ∨ c = 6 → y.held = true → s.streamDrained y = true →
      ∃ u, exec (.shroudFlitArrive n (.close t sid dir c)) s = .next u ∧ { y with peerEnd := true, code := 4 } ∈ u.streams) := by
  have ends : { y with peerEnd := true } ∈ (s.setStream { y with peerEnd := true }).streams :=
    mem_setStream (mem_of_streamBySid names) rfl
  refine ⟨fun not5 not6 => ⟨_, arrive_close flows names ?_, fun _ => rfl, mem_sweepStreams ends ?_⟩,
    fun failed held drained => ⟨_, arrive_close_failed flows names ⟨isOpen, failed⟩ drained, ?_⟩⟩
  · rintro ⟨-, is | is⟩
    · exact not5 is
    · exact not6 is
  · simp [Stream.over, Stream.ended, isOpen]
  · have left : Stream.closed { y with peerEnd := true } 4 = { y with peerEnd := true, code := 4 } := by simp [Stream.closed, held]
    exact left ▸ mem_closeStream ends rfl (by simp [Stream.closed, Stream.over, held])

/-- Settles O45: each flit by its equation, and the retrains and failures of a port. -/
theorem shroudLinksCarryFlits : Obligations.ShroudLinksCarryFlits := by
  unfold Obligations.ShroudLinksCarryFlits
  intro s n t sid x
  refine ⟨fun flows => ⟨fun dir c => ?opens, fun y bs names isOpen room flit => flits_of_data flows names isOpen room flit,
    fun y k names => ⟨?credit, fun moved => ?ack⟩,
    fun y dir c names isOpen not5 not6 => (flits_of_close flows names isOpen).1 not5 not6,
    fun y dir c names isOpen failed held drained => (flits_of_close flows names isOpen).2 failed held drained, ?early, fun k sent => ?link⟩,
    fun lanes real ready => ⟨fun still => ?begins, fun trains => ?ends⟩, fun place real ready down drained => ?fails⟩
  case opens =>
    exact ⟨_, arrive_open flows dir c, fun _ => rfl, congrArg Shroud.peers (putShroud_shroudAt_same n _)⟩
  case credit => exact ⟨_, arrive_credit flows names k, fun _ => rfl, mem_setStream (mem_of_streamBySid names) rfl⟩
  case ack => exact ⟨_, arrive_ack flows names moved, fun _ => rfl, mem_setStream (mem_of_streamBySid names) rfl⟩
  case early =>
    intro y there c dir opening low tackle own none fewer
    subst own
    refine ⟨_, arrive_close_early flows none, fun _ => rfl, rfl, ?_⟩
    rw [putShroud_shroudAt_same, show dir = farDir y.dir from rfl, opensHere_of there opening low tackle c]
    exact congrArg Shroud.peers (keepClose_kept fewer)
  case link =>
    refine ⟨_, arrive_linkAck flows sent, fun _ => rfl, ?_, ?_⟩
    · rw [putShroud_shroudAt_same, Shroud.replay, Shroud.replay, List.drop_drop]
    · rw [putShroud_shroudAt_same]
  case begins =>
    exact ⟨_, retrain_begins real ready lanes still, fun _ => rfl, congrArg Shroud.training (putShroud_shroudAt_same n _), rfl⟩
  case ends =>
    obtain ⟨p, run⟩ := retrain_ends real ready lanes trains
    refine ⟨_, run, fun _ => rfl, ?_, ?_, ?_⟩
    · exact congrArg Shroud.training (putShroud_shroudAt_same n _)
    · exact congrArg Shroud.lanes (putShroud_shroudAt_same n _)
    · exact congrArg Shroud.up (putShroud_shroudAt_same n _)
  case fails =>
    obtain ⟨u, run, ⟨up, training, peers⟩, xs, streams⟩ := shroudFail_fails place real ready down drained
    exact ⟨u, run, up, training, peers, fun y left mine => failedStreams_ended (streams ▸ left) mine⟩

end Sys2Proof.Machine
end

section
/-! Matrix yards: heads of queues and tiles behind the operations of a yard (R213 to R227); O46. -/

namespace Sys2Proof.Machine

variable {s : State} {core : Nat} {c : YCmd}

/-! ### What serving keeps -/

theorem served.cores {t : State} (work : served s t) : t.cores = s.cores := by obtain ⟨_, _, _, _, _, _, _, h⟩ := work.rest; rw [h]

theorem served.coreAt {t : State} (work : served s t) (k : Nat) : t.coreAt k = s.coreAt k := by rw [State.coreAt, work.cores]; rfl

theorem correct_served (k n : Nat) : served s (s.correct k n) := by
  obtain ⟨e, ts, h⟩ := correct_only (s := s) k n
  exact ⟨⟨s.mem, e, ts, s.masts, s.launches, s.net, s.nextPkt, h⟩, correct_taskAt Task.globals (fun _ _ => rfl) k n⟩

theorem setObj_served (m off j : Nat) (w : Word) : served s (s.setObj m off j w) := write_served _ _

theorem objCorrect_served (m off : Nat) (ks : List Nat) : served s (s.objCorrect m off ks) :=
  foldl_rule (P := served s) (fun _ _ work => work.trans (correct_served _ _)) ks (.refl s)

theorem flip_served (m off : Nat) : served s (s.flip m off) := by
  simp only [State.flip]
  exact ((((objCorrect_served _ _ _).trans (setObj_served _ _ _ _)).trans (setObj_served _ _ _ _)).trans
    (setObj_served _ _ _ _)).trans (setObj_served _ _ _ _)

theorem completePhase_served (m off : Nat) : served s (s.completePhase m off) := by
  simp only [State.completePhase]
  split
  · exact putMast_served _ _
  · split
    · exact flip_served m off
    · exact (flip_served m off).trans (putMast_served _ _)

theorem putLaunch_served (l : Nat) (x : Launch) : served s (s.putLaunch l x) :=
  ⟨⟨s.mem, s.ecc, s.tasks, s.masts, _, s.net, s.nextPkt, rfl⟩, fun _ => rfl⟩

theorem arrive_served (m launch off : Nat) (st : Word) : served s (s.arrive m launch off st) := by
  simp only [State.arrive]
  split
  · exact putLaunch_served _ _
  · split
    · exact putMast_served _ _
    · have counted : served s (s.counted m off st) :=
        ((objCorrect_served _ _ _).trans (setObj_served _ _ _ _)).trans (setObj_served _ _ _ _)
      split
      · exact ((objCorrect_served _ _ _).trans (setObj_served _ _ _ _)).trans (setObj_served _ _ _ _)
          |>.trans (completePhase_served m off)
      · exact ((objCorrect_served _ _ _).trans (setObj_served _ _ _ _)).trans (setObj_served _ _ _ _)

theorem yardReport_served (m : Nat) (c : YCmd) (st : Word) : served s (s.yardReport m c st) := by
  unfold State.yardReport
  split
  · exact arrive_served _ _ _ _
  · split
    · exact putLaunch_served _ _
    · exact .refl s

/-! ### Heads -/

theorem setYhead_yhead_same (core : Nat) (c : YCmd) : (s.setYhead core c).yhead core = some c := by
  rw [State.yhead, State.setYhead, putCore_coreAt_same]
  rfl

theorem setYhead_yhead_other {core k : Nat} (other : k ≠ core) (c : YCmd) : (s.setYhead core c).yhead k = s.yhead k := by
  rw [State.yhead, State.setYhead, putCore_coreAt_other _ _ _ other]
  rfl

theorem ageHeads_rule {P : State → Prop} (m y own n : Nat) (step : ∀ t k c, k ≠ own → P t → P (t.setYhead k c)) (start : P s) :
    P (s.ageHeads m y own n) := by
  refine foldl_rule (P := P) (fun t k h => ?_) _ start
  split
  · rename_i older
    split
    · refine step t k _ ?_ h
      intro own
      simp [own] at older
    · exact h
  · exact h

theorem ageHeads_masts (m y own n : Nat) : (s.ageHeads m y own n).masts = s.masts :=
  ageHeads_rule (P := fun t => t.masts = s.masts) m y own n (fun _ _ _ _ h => h) rfl

theorem worked_masts (core cycles : Nat) (c : YCmd) : (s.worked core cycles c).masts = s.masts := ageHeads_masts _ _ _ _

/-- A unit of work leaves the head with its next state. -/
theorem worked_yhead (core cycles : Nat) (c : YCmd) : (s.worked core cycles c).yhead core = some c :=
  ageHeads_rule (P := fun t => t.yhead core = some c) _ _ _ _ (fun _ _ d other h => (setYhead_yhead_other other.symm d).trans h)
    (setYhead_yhead_same core c)

theorem tileAt_of_masts {t : State} (masts : t.masts = s.masts) (m l y n : Nat) : t.tileAt m l y n = s.tileAt m l y n := by
  rw [State.tileAt, State.mastAt, masts]
  rfl

theorem setTile_tileAt (m l y n : Nat) (t : Tile) : (s.setTile m l y n t).tileAt m l y n = t := by
  rw [State.tileAt, State.setTile, putMast_mastAt_same]
  exact AMap.get_set_same _ _ _ _

theorem sameMemory_of_mem {t : State} (mem : t.mem = s.mem) : sameMemory s t := fun _ => by rw [mem]

theorem yhead_of_running {cop : Nat} (runs : s.running core cop = some c) : s.yhead core = some c := by
  unfold State.running at runs
  split at runs
  · rename_i d head
    split at runs
    · rw [head, Option.some_inj.mp runs]
    · exact absurd runs nofun
  · exact absurd runs nofun

/-! ### Commands without operands -/

theorem ynop_finishes (runs : s.running s.place.a 0 = some c) :
    exec .ynop s = .next (s.worked s.place.a 2 { c with stage := .finished }) := by
  rw [show exec .ynop s = execYnop s from rfl, execYnop, runs]

theorem yzero_finishes (runs : s.running s.place.a 2 = some c) :
    exec .yzero s = .next ((s.setTile (s.place.a / 8) c.launch (s.place.a % 8 / 2) c.tile Tile.init).worked s.place.a 4
      { c with stage := .finished }) := by
  rw [show exec .yzero s = execYzero s from rfl, execYzero, runs]

theorem ygang_joins (head : s.yhead s.place.a = some c) (gang : c.cop = 5) (posted : c.stage = .posted) :
    exec .ygang s = .next (s.setYhead s.place.a { c with stage := .waiting }) := by
  rw [show exec .ygang s = execYgang s from rfl, execYgang, head]
  simp only [gang, posted, decide_true, Bool.and_self, if_true]

/-! ### Copies between banks and tiles -/

section
variable {t : ETy} (runs : s.running s.place.a 3 = some c) (type : ETy.ofCode (s.sideFmt (s.place.a / 8) c).2 = some t)
  (free : s.gangBlocked (s.place.a / 8) [s.place.a] = false)
include runs type free

/-- The rows that a YLOAD finds; none is the format fault. -/
def State.sideRows (s : State) (mast : Nat) (c : YCmd) (t : ETy) : Option (List (List Nat × Bool)) :=
  if t.isEf8 then s.loadTile mast c t else some (s.loadRows mast c t)

theorem yload_faults (fault : s.sideRows (s.place.a / 8) c t = none) :
    exec .yload s = .next (s.worked s.place.a (copyCycles t c.viewTy) { c with stage := .finished, status := c.status ||| 64 }) := by
  rw [show exec .yload s = execYload s from rfl, execYload]
  simp only [State.sideRows] at fault
  simp only [runs, type, free, fault, Bool.false_eq_true, if_false]

/-- The tile of a list of rows. -/
def tileOfRows (rows : List (List Nat × Bool)) : Tile := rows.zipIdx.foldl (fun (t : Tile) p => t.setRow p.2 p.1.1) Tile.init

/-- The rows of a list that are lost. -/
def lostRows (rows : List (List Nat × Bool)) : List Nat := (rows.zipIdx.filter fun p => p.1.2).map (·.2)

theorem yload_loads {rows : List (List Nat × Bool)} (found : s.sideRows (s.place.a / 8) c t = some rows) :
    exec .yload s = .next (((s.opCorrect (s.place.a / 8) c.launch t (c.d 2) c.slotA false 32 32).setTile (s.place.a / 8) c.launch
      (s.place.a % 8 / 2) c.tile { tileOfRows rows with poison := BitVec.ofNat 32 (rowMask (lostRows rows)) }).worked s.place.a
      (copyCycles t c.viewTy) { c with stage := .finished, status := c.status ||| rowStatus (rowMask (lostRows rows)) 16 }) := by
  rw [show exec .yload s = execYload s from rfl, execYload]
  simp only [State.sideRows] at found
  simp only [runs, type, free, found, Bool.false_eq_true, if_false]
  rfl

end

theorem lostRows_none {rows : List (List Nat × Bool)} (sound : ∀ r ∈ rows, r.2 = false) : lostRows rows = [] := by
  rw [lostRows, List.map_eq_nil_iff, List.filter_eq_nil_iff]
  intro p there
  rw [sound p.1 (List.fst_mem_of_mem_zipIdx there)]
  exact Bool.false_ne_true

/-! ### Stores of tiles -/

theorem writeBank_served (m off : Nat) (bs : List Byte) : served s (s.writeBank m off bs) :=
  foldl_rule (P := served s) (fun _ _ work => work.trans (write_served _ _)) _ (.refl s)

theorem writeBank_masts (m off : Nat) (bs : List Byte) : (s.writeBank m off bs).masts = s.masts := by
  refine foldl_rule (P := fun t : State => t.masts = s.masts) (fun t r same => ?_) _ rfl
  obtain ⟨_, _, _, h⟩ := write_rest t r.1 ((bs.drop r.2.1).take r.2.2)
  rw [h]
  exact same

theorem writeBank_mem (m off : Nat) (bs : List Byte) :
    (s.writeBank m off bs).mem =
      (s.runsOf m off bs.length).foldl (fun mem r => Memory.write mem r.1 ((bs.drop r.2.1).take r.2.2)) s.mem := by
  unfold State.writeBank
  generalize s.runsOf m off bs.length = rs
  induction rs generalizing s with
  | nil => rfl
  | cons r rs ih => exact ih.trans (by rw [write_mem]; rfl)

/-- The rows of a tile written to a bank side. -/
def State.rowsStored (s : State) (mast : Nat) (m : Mast) (c : YCmd) (t : ETy) (rows : List (List Nat)) : State :=
  rows.zipIdx.foldl (fun s p => s.writeBank mast (m.sideRow c t p.2) (p.1.flatMap fun x => toBytes (t.width / 8) (c.conv t c.viewTy x))) s

theorem rowsStored_kept (mast : Nat) (m : Mast) (c : YCmd) (t : ETy) (rows : List (List Nat)) :
    served s (s.rowsStored mast m c t rows) ∧ (s.rowsStored mast m c t rows).masts = s.masts :=
  foldl_rule (P := fun t : State => served s t ∧ t.masts = s.masts)
    (fun _ _ ⟨work, same⟩ => ⟨work.trans (writeBank_served _ _ _), (writeBank_masts _ _ _).trans same⟩) _ ⟨.refl s, rfl⟩

/-- The bytes of the rows go to the places that the mast's rings and banks name, which its tiles do not change. -/
theorem rowsStored_mem (mast l y n : Nat) (tile : Tile) (c : YCmd) (t : ETy) (rows : List (List Nat)) :
    ((s.setTile mast l y n tile).rowsStored mast ((s.setTile mast l y n tile).mastAt mast) c t rows).mem =
      (rows.zipIdx.foldl (fun s p => s.writeBank mast ((s.mastAt mast).sideRow c t p.2)
        (p.1.flatMap fun x => toBytes (t.width / 8) (c.conv t c.viewTy x))) s).mem := by
  let R (u v : State) : Prop := u.mem = v.mem ∧ u.masts = (s.setTile mast l y n tile).masts ∧ v.masts = s.masts
  have stepped : R ((s.setTile mast l y n tile).rowsStored mast ((s.setTile mast l y n tile).mastAt mast) c t rows)
      (rows.zipIdx.foldl (fun s p => s.writeBank mast ((s.mastAt mast).sideRow c t p.2)
        (p.1.flatMap fun x => toBytes (t.width / 8) (c.conv t c.viewTy x))) s) := by
    refine List.foldl_rel ⟨rfl, rfl, rfl⟩ fun p _ u v ⟨mem, mine, yours⟩ => ⟨?_, (writeBank_masts _ _ _).trans mine,
      (writeBank_masts _ _ _).trans yours⟩
    have mastU : u.mastAt mast = { s.mastAt mast with tiles := (s.mastAt mast).tiles.set (tileKey l y n) tile } := by
      rw [State.mastAt, mine]
      exact putMast_mastAt_same _ _ _
    have mastV : v.mastAt mast = s.mastAt mast := by
      rw [State.mastAt, yours]
      rfl
    have place : ((s.setTile mast l y n tile).mastAt mast).sideRow c t p.2 = (v.mastAt mast).sideRow c t p.2 := by
      rw [mastV, State.setTile, putMast_mastAt_same]
      rfl
    have runs (off k : Nat) : u.runsOf mast off k = v.runsOf mast off k := by
      rw [State.runsOf, State.runsOf, mastU, mastV]
      rfl
    rw [writeBank_mem, writeBank_mem, mem, place, runs]
  exact stepped.1

section
variable {t : ETy} (runs : s.running s.place.a 4 = some c) (type : ETy.ofCode (s.sideFmt (s.place.a / 8) c).2 = some t)
  (free : s.gangBlocked (s.place.a / 8) [s.place.a] = false)
include runs type free

/-- The tile that a YSTORE reads, its rows in error poisoned. -/
def State.storedTile (s : State) (c : YCmd) : Tile :=
  ((s.tileAt (s.place.a / 8) c.launch (s.place.a % 8 / 2) c.tile).readRows 32).1

/-- The state in which a YSTORE has read its tile. -/
def State.tileRead (s : State) (c : YCmd) : State :=
  s.setTile (s.place.a / 8) c.launch (s.place.a % 8 / 2) c.tile (s.storedTile c)

theorem ystore_rows (plain : t.isEf8 = false) :
    exec .ystore s = .next (((s.tileRead c).rowsStored (s.place.a / 8) ((s.tileRead c).mastAt (s.place.a / 8)) c t
      ((List.range 32).map ((s.storedTile c).storeRow c.viewTy))).worked s.place.a (copyCycles t c.viewTy)
      { c with stage := .finished, status := c.status ||| rowStatus (rowMask ((List.range 32).filter (s.storedTile c).poisoned)) 32 }) := by
  rw [show exec .ystore s = execYstore s from rfl, execYstore]
  simp only [runs, type, free, plain, Bool.false_eq_true, if_false]
  rfl

theorem ystore_ends :
    ∃ v n st, served (s.tileRead c) v ∧ v.masts = (s.tileRead c).masts ∧
      exec .ystore s = .next (v.worked s.place.a n { c with stage := .finished, status := c.status ||| st }) := by
  by_cases plain : t.isEf8 = false
  · obtain ⟨work, masts⟩ := rowsStored_kept (s := s.tileRead c) (s.place.a / 8) ((s.tileRead c).mastAt (s.place.a / 8)) c t
      ((List.range 32).map ((s.storedTile c).storeRow c.viewTy))
    exact ⟨_, _, _, work, masts, ystore_rows runs type free plain⟩
  · rw [show exec .ystore s = execYstore s from rfl, execYstore]
    simp only [runs, type, free, plain, Bool.false_eq_true, if_false, if_true, BitVec.or_assoc]
    exact ⟨_, _, _, writeBank_served _ _ _, writeBank_masts _ _ _, rfl⟩

end

/-- A tile without poison and errors reads as it is. -/
theorem readRows_sound {t : Tile} (poison : t.poison = 0) (bad : t.bad = 0) (n : Nat) : (t.readRows n).1 = t := by
  simp only [Tile.readRows, poison, bad]
  cases t
  simp_all [rowMask]

theorem poisoned_none {t : Tile} (poison : t.poison = 0) : (List.range 32).filter t.poisoned = [] := by
  simp [Tile.poisoned, poison]

/-! ### YMMA -/

theorem gangCores_single (alone : c.member = false) (core : Nat) : gangCores core c = [core] := by
  rw [gangCores, alone]
  rfl

theorem ymma_empty (runs : s.running s.place.a 1 = some c) {x : ETy × ETy × Nat} (types : mmaTypes c.fa c.fb = some x) (empty : c.m = 0) :
    exec .ymma s = .next (s.worked s.place.a 0 { c with stage := .finished }) := by
  rw [show exec .ymma s = execYmma s from rfl, execYmma]
  simp only [runs, types, if_pos empty]

theorem ymma_steps (runs : s.running s.place.a 1 = some c) {ta tb : ETy} {dep : Nat} (types : mmaTypes c.fa c.fb = some (ta, tb, dep))
    (alone : c.member = false) (rows : c.m ≠ 0) (free : s.gangBlocked (s.place.a / 8) [s.place.a] = false) (begun : c.kstep ≠ 0) :
    exec .ymma s = .next (s.mmaStep s.place.a c ta tb dep [s.place.a]) := by
  rw [show exec .ymma s = execYmma s from rfl, execYmma]
  simp only [runs, types, if_neg rows, gangCores_single alone, free, if_neg begun, Bool.false_eq_true, if_false, List.isEmpty_nil,
    Bool.not_true]

theorem addStatus_yhead (head : s.yhead core = some c) (st : Word) :
    (s.addStatus core st).yhead core = some { c with status := c.status ||| st } := by
  rw [State.addStatus, head]
  exact setYhead_yhead_same _ _

theorem addStatus_masts (core : Nat) (st : Word) : (s.addStatus core st).masts = s.masts := by
  unfold State.addStatus
  split <;> rfl

theorem addStatus_mem' (core : Nat) (st : Word) : (s.addStatus core st).mem = s.mem := by
  unfold State.addStatus
  split <;> rfl

theorem kstep_yhead (m k : Nat) (a b : YCmd) (ta tb : ETy) (dep i j : Nat) : (s.kstep m k a b ta tb dep i).1.yhead j = s.yhead j := rfl

theorem kstep_mem' (m k : Nat) (a b : YCmd) (ta tb : ETy) (dep i : Nat) : (s.kstep m k a b ta tb dep i).1.mem = s.mem := rfl

/-- A k-step of a command without partners, past the first of its slice. -/
theorem mmaStep_single (head : s.yhead core = some c) (ta tb : ETy) {dep : Nat} (later : c.kstep % (c.depth / dep) ≠ 0) :
    ∃ st, s.mmaStep core c ta tb dep [core] =
      (((s.kstep (core / 8) core c c ta tb dep (c.kstep % (c.depth / dep))).1.addStatus core st).worked core 16
        { c with status := c.status ||| st, kstep := c.kstep + 1,
                 stage := if c.kstep + 1 = c.depth / dep then .finished else .ready }) := by
  have own (i : Nat) : [core].getD i core = core := by cases i <;> rfl
  refine ⟨(s.kstep (core / 8) core c c ta tb dep (c.kstep % (c.depth / dep))).2, ?_⟩
  unfold State.mmaStep
  simp only [own, head, Option.getD_some, later, decide_false, Bool.false_and, Bool.false_eq_true, if_false,
    addStatus_yhead (kstep_yhead (s := s) _ _ _ _ _ _ _ _ _ |>.trans head), List.length_singleton, Nat.mul_one, decide_eq_true_eq]

/-! ### Gangs -/

/-- The heads of some cores become members of their gang. -/
def State.joined (s : State) (hs : List (Nat × YCmd)) : State := hs.foldl (fun s h => s.setYhead h.1 { h.2 with member := true }) s

theorem joined_mem (hs : List (Nat × YCmd)) : (s.joined hs).mem = s.mem :=
  foldl_rule (P := fun t : State => t.mem = s.mem) (fun t _ same => (setYhead_mem (s := t) _ _).trans same) hs rfl

theorem joined_other {hs : List (Nat × YCmd)} {k : Nat} (other : ∀ h ∈ hs, h.1 ≠ k) : (s.joined hs).yhead k = s.yhead k := by
  induction hs generalizing s with
  | nil => rfl
  | cons h hs ih =>
    exact (ih (s := s.setYhead h.1 _) fun j there => other j (List.mem_cons_of_mem _ there)).trans
      (setYhead_yhead_other (other h List.mem_cons_self).symm _)

theorem joined_yhead {hs : List (Nat × YCmd)} {k : Nat} {g : YCmd} (there : (k, g) ∈ hs) (one : ∀ h ∈ hs, h.1 = k → h.2 = g) :
    (s.joined hs).yhead k = some { g with member := true } := by
  induction hs generalizing s with
  | nil => exact absurd there nofun
  | cons h hs ih =>
    by_cases later : ∃ j ∈ hs, j.1 = k
    · obtain ⟨j, mem, own⟩ := later
      have same := one j (List.mem_cons_of_mem _ mem) own
      refine ih (s := s.setYhead h.1 _) ?_ fun j there => one j (List.mem_cons_of_mem _ there)
      rw [← own, ← same]
      exact mem
    · have head : h = (k, g) := by
        rcases List.mem_cons.mp there with same | mem
        · exact same.symm
        · exact absurd ⟨_, mem, rfl⟩ later
      refine (joined_other (s := s.setYhead h.1 _) fun j mem own => later ⟨j, mem, own⟩).trans ?_
      rw [head]
      exact setYhead_yhead_same _ _

theorem mem_headsOf {cores : List Nat} {h : Nat × YCmd} : h ∈ s.headsOf cores ↔ h.1 ∈ cores ∧ s.yhead h.1 = some h.2 := by
  simp only [State.headsOf, List.mem_filterMap, Option.map_eq_some_iff]
  constructor
  · rintro ⟨k, there, g, head, rfl⟩
    exact ⟨there, head⟩
  · rintro ⟨there, head⟩
    exact ⟨h.1, there, h.2, head, rfl⟩

/-- The head of a core waits in the gang of a YMMA, and its slice agrees with it. -/
structure waitsIn (s : State) (c : YCmd) (k : Nat) (g : YCmd) : Prop where
  head : s.yhead k = some g
  code : g.cop = 5
  mask : g.gmask = c.gmask
  tag : g.gtag = c.gtag
  waiting : g.stage = .waiting
  fresh : g.member = false
  launch : g.launch = c.launch
  agrees : sliceBad c g = false

theorem gang_forms (head : s.yhead s.place.a = some c) (code : c.cop = 1) (gang : c.gmask ≠ 0) (fresh : c.member = false)
    (valid : gangOk s.place.a c = true) (accepted : c.reject = 0)
    (wait : ∀ k ∈ gangCores s.place.a { c with member := true }, k ≠ s.place.a → ∃ g, waitsIn s c k g) :
    exec .gangForm s = .next (s.joined (s.headsOf (gangCores s.place.a { c with member := true }))) := by
  have agree : ((s.headsOf (gangCores s.place.a { c with member := true })).any fun h =>
      decide (h.1 ≠ s.place.a) && sliceBad c h.2) = false := by
    refine List.any_eq_false.mpr fun h there bad => ?_
    obtain ⟨mine, own⟩ := mem_headsOf.mp there
    simp only [Bool.and_eq_true, decide_eq_true_eq] at bad
    obtain ⟨g, waits⟩ := wait h.1 mine bad.1
    have same : g = h.2 := Option.some_inj.mp (waits.head.symm.trans own)
    rw [← same, waits.agrees] at bad
    exact Bool.false_ne_true bad.2
  rw [show exec .gangForm s = execGangForm s from rfl, execGangForm]
  simp only [head]
  refine (if_pos ?_).trans ?_
  · simp only [code, gang, fresh, valid, ne_eq, decide_true, decide_not, decide_false, Bool.not_false, Bool.and_self, Bool.true_and]
    refine List.all_eq_true.mpr fun k there => ?_
    obtain ⟨mine, other⟩ := List.mem_filter.mp there
    obtain ⟨g, waits⟩ := wait k mine (by simpa using other)
    simp only [waits.head, waits.code, waits.mask, waits.tag, waits.waiting, waits.fresh, waits.launch, decide_true, Bool.not_false,
      Bool.and_self]
  · simp only [agree, if_pos accepted, Bool.false_eq_true, if_false, List.append_nil]
    exact if_neg (not_not.mpr rfl)

/-! ### Retirement and scheduling -/

theorem giveSlots_cores (m : Nat) (c : YCmd) : (s.giveSlots m c).cores = s.cores := by
  refine foldl_rule (P := fun t : State => t.cores = s.cores) (fun t x same => ?_) _ rfl
  dsimp only
  split <;> exact same

theorem popHead_yqueue (core : Nat) (c : YCmd) : ((s.popHead core c).coreAt core).yqueue = (s.coreAt core).yqueue.tail := by
  have cores := giveSlots_cores (s := s) (core / 8) c
  have coreAt : (s.giveSlots (core / 8) c).coreAt core = s.coreAt core := by rw [State.coreAt, cores]; rfl
  unfold State.popHead
  rw [freeYSlot_yqueue, putCore_coreAt_same]
  cases c.entry <;> exact congrArg (fun x : Core => x.yqueue.tail) coreAt

theorem retire_single (head : s.yhead core = some c) (m : Nat) (st : YCmd → Word) :
    ((s.retireHeads m (s.headsOf [core]) st).coreAt core).yqueue = (s.coreAt core).yqueue.tail := by
  have alone : s.headsOf [core] = [(core, c)] := by simp only [State.headsOf, List.filterMap_cons, head]; rfl
  rw [alone]
  exact (congrArg Core.yqueue ((yardReport_served (s := s.popHead core c) m c (st c)).coreAt core)).trans (popHead_yqueue core c)

theorem yardRetire_retires (head : s.yhead s.place.a = some c) (finished : c.stage = .finished) (lead : c.cop ≠ 5) (alone : c.member = false)
    (single : c.cop ≠ 1 ∨ c.gmask = 0) :
    ∃ (t : State) (st : YCmd → Word), t.cores = s.cores ∧ exec .yardRetire s = .next (t.retireHeads (s.place.a / 8) (t.headsOf [s.place.a]) st) := by
  have retires : (decide (c.stage = .finished) && decide (c.cop ≠ 5) &&
      (decide (c.gmask = 0) || decide (c.cop ≠ 1) || c.member)) = true := by
    simp only [finished, lead, alone, ne_eq, decide_not, decide_false, decide_true, Bool.not_false, Bool.and_self, Bool.true_and, Bool.or_false]
    rcases single with other | none
    · simp [other]
    · simp [none]
  rw [show exec .yardRetire s = execYardRetire s from rfl, execYardRetire]
  simp only [head, retires, if_true, gangCores_single alone]
  split
  · exact ⟨s.setRunning (s.place.a / 8) (s.place.a % 8 / 2) none, _, rfl, rfl⟩
  · exact ⟨s, _, rfl, rfl⟩

/-- The state in which the heads of a yard have taken their ring slots. -/
def State.ringsTaken (s : State) (mast yard : Nat) : State := (yardCores mast yard).foldl (fun s k => s.takeRings 2 k) s

theorem yardSchedule_starts {k : Nat} (idle : ((s.ringsTaken s.place.a s.place.b).mastAt s.place.a).runs s.place.b = none)
    (best : (s.ringsTaken s.place.a s.place.b).bestHead s.place.a s.place.b = some k)
    (head : (s.ringsTaken s.place.a s.place.b).yhead k = some c) :
    exec .yardSchedule s =
      .next (((s.ringsTaken s.place.a s.place.b).setYhead k { c with stage := .running }).setRunning s.place.a s.place.b (some k)) := by
  have choice : (s.ringsTaken s.place.a s.place.b).yardChoice s.place.a s.place.b = some
      (((s.ringsTaken s.place.a s.place.b).setYhead k { c with stage := .running }).setRunning s.place.a s.place.b (some k)) := by
    rw [State.yardChoice, idle, best]
    simp only [Option.map_some, State.runHead, head]
  rw [show exec .yardSchedule s = execYardSchedule s from rfl, execYardSchedule]
  simp only [State.ringsTaken] at choice
  simp only [choice]
  rfl

theorem setRunning_runs (m yard : Nat) (k : Option Nat) (there : yard < (s.mastAt m).running.length) :
    ((s.setRunning m yard k).mastAt m).runs yard = k := by
  rw [State.setRunning, putMast_mastAt_same, Mast.runs]
  simp [there]

/-! ### O46 -/

theorem yload_completes {t : ETy} (runs : s.running s.place.a 3 = some c) (type : ETy.ofCode (s.sideFmt (s.place.a / 8) c).2 = some t)
    (free : s.gangBlocked (s.place.a / 8) [s.place.a] = false) :
    let ended (u : State) (st : Word) : Prop := u.yhead s.place.a = some { c with stage := .finished, status := c.status ||| st }
    let rows := if t.isEf8 then s.loadTile (s.place.a / 8) c t else some (s.loadRows (s.place.a / 8) c t)
    (rows = none → ∃ u, exec .yload s = .next u ∧ sameMemory s u ∧ ended u 64) ∧
    (∀ rs, rows = some rs → (∀ r ∈ rs, r.2 = false) → ∃ u, exec .yload s = .next u ∧ sameMemory s u ∧ ended u 0 ∧
      (u.tileAt (s.place.a / 8) c.launch (s.place.a % 8 / 2) c.tile).poison = 0 ∧
      u.tileAt (s.place.a / 8) c.launch (s.place.a % 8 / 2) c.tile =
        { rs.zipIdx.foldl (fun (t : Tile) p => t.setRow p.2 p.1.1) Tile.init with poison := 0 }) := by
  intro ended rows
  refine ⟨fun fault => ⟨_, yload_faults runs type free fault, sameMemory_of_mem (worked_mem _ _ _ _), worked_yhead _ _ _⟩,
    fun rs found sound => ?_⟩
  have run := yload_loads runs type free found
  rw [lostRows_none sound] at run
  have tile := (tileAt_of_masts (worked_masts (s := (s.opCorrect (s.place.a / 8) c.launch t (c.d 2) c.slotA false 32 32).setTile
    (s.place.a / 8) c.launch (s.place.a % 8 / 2) c.tile { tileOfRows rs with poison := 0 }) s.place.a (copyCycles t c.viewTy)
    { c with stage := .finished, status := c.status ||| 0 }) (s.place.a / 8) c.launch (s.place.a % 8 / 2) c.tile).trans
      (setTile_tileAt _ _ _ _ _)
  refine ⟨_, run, sameMemory_of_mem ?_, worked_yhead _ _ _, congrArg Tile.poison tile, tile⟩
  rw [worked_mem, setTile_mem, opCorrect_mem]

theorem ystore_completes {t : ETy} (runs : s.running s.place.a 4 = some c) (type : ETy.ofCode (s.sideFmt (s.place.a / 8) c).2 = some t)
    (free : s.gangBlocked (s.place.a / 8) [s.place.a] = false) :
    let mast := s.place.a / 8
    let ended (u : State) (st : Word) : Prop := u.yhead s.place.a = some { c with stage := .finished, status := c.status ||| st }
    let tile := s.tileAt mast c.launch (s.place.a % 8 / 2) c.tile
    (∃ u st, exec .ystore s = .next u ∧ ended u st ∧ u.tileAt mast c.launch (s.place.a % 8 / 2) c.tile = (tile.readRows 32).1) ∧
    (t.isEf8 = false → tile.poison = 0 → tile.bad = 0 → ∃ u, exec .ystore s = .next u ∧ ended u 0 ∧
      u.mem = (((List.range 32).map (tile.storeRow c.viewTy)).zipIdx.foldl (fun s p =>
        s.writeBank mast ((s.mastAt mast).sideRow c t p.2) (p.1.flatMap fun x => toBytes (t.width / 8) (c.conv t c.viewTy x))) s).mem) := by
  intro mast ended tile
  refine ⟨?_, fun plain poison bad => ?_⟩
  · obtain ⟨v, n, st, -, masts, run⟩ := ystore_ends runs type free
    refine ⟨_, st, run, worked_yhead _ _ _, ?_⟩
    rw [tileAt_of_masts (worked_masts _ _ _), tileAt_of_masts masts]
    exact setTile_tileAt _ _ _ _ _
  · have sound : s.storedTile c = tile := readRows_sound poison bad 32
    have run := ystore_rows runs type free plain
    rw [sound, poisoned_none poison] at run
    refine ⟨_, run, worked_yhead _ _ _, ?_⟩
    rw [worked_mem]
    exact rowsStored_mem mast c.launch (s.place.a % 8 / 2) c.tile (s.storedTile c) c t _

theorem ymma_completes {ta tb : ETy} {dep : Nat} (runs : s.running s.place.a 1 = some c)
    (types : mmaTypes c.fa c.fb = some (ta, tb, dep)) (alone : c.member = false) :
    let core := s.place.a
    let mast := core / 8
    let yard := core % 8 / 2
    (c.m = 0 → ∃ u, exec .ymma s = .next u ∧ sameMemory s u ∧ u.yhead core = some { c with stage := .finished }) ∧
    (c.m ≠ 0 → s.gangBlocked mast [core] = false → c.kstep ≠ 0 → c.kstep % (c.depth / dep) ≠ 0 →
      ∃ u d, exec .ymma s = .next u ∧ sameMemory s u ∧ u.yhead core = some d ∧ d.kstep = c.kstep + 1 ∧
        d.stage = (if c.kstep + 1 = c.depth / dep then .finished else .ready) ∧
        u.tileAt mast c.launch yard c.tile =
          (s.kstep mast core c c ta tb dep (c.kstep % (c.depth / dep))).1.tileAt mast c.launch yard c.tile) := by
  intro core mast yard
  refine ⟨fun empty => ⟨_, ymma_empty runs types empty, sameMemory_of_mem (worked_mem _ _ _ _), worked_yhead _ _ _⟩,
    fun rows free begun later => ?_⟩
  obtain ⟨st, step⟩ := mmaStep_single (yhead_of_running runs) ta tb later
  refine ⟨_, _, (ymma_steps runs types alone rows free begun).trans (congrArg _ step), sameMemory_of_mem ?_, worked_yhead _ _ _, rfl, rfl, ?_⟩
  · rw [worked_mem, addStatus_mem', kstep_mem']
  · exact tileAt_of_masts ((worked_masts _ _ _).trans (addStatus_masts _ _)) _ _ _ _

theorem gangForm_completes :
    let core := s.place.a
    let cores := gangCores core { c with member := true }
    s.yhead core = some c → c.cop = 1 → c.gmask ≠ 0 → c.member = false → gangOk core c = true → c.reject = 0 →
    (∀ k ∈ cores, k ≠ core → ∃ g, s.yhead k = some g ∧ g.cop = 5 ∧ g.gmask = c.gmask ∧ g.gtag = c.gtag ∧ g.stage = .waiting ∧
      g.member = false ∧ g.launch = c.launch ∧ sliceBad c g = false) →
    ∃ u, exec .gangForm s = .next u ∧ sameMemory s u ∧ ∀ k ∈ cores, u.yhead k = (s.yhead k).map fun g => { g with member := true } := by
  intro core cores head code gang fresh valid accepted wait
  have waits : ∀ k ∈ cores, k ≠ core → ∃ g, waitsIn s c k g := fun k mine other => by
    obtain ⟨g, head, code, mask, tag, waiting, fresh, launch, agrees⟩ := wait k mine other
    exact ⟨g, head, code, mask, tag, waiting, fresh, launch, agrees⟩
  refine ⟨_, gang_forms head code gang fresh valid accepted waits, sameMemory_of_mem (joined_mem _), fun k mine => ?_⟩
  obtain ⟨g, own⟩ : ∃ g, s.yhead k = some g := by
    by_cases lead : k = core
    · exact ⟨c, lead ▸ head⟩
    · obtain ⟨g, waits⟩ := waits k mine lead
      exact ⟨g, waits.head⟩
  rw [own]
  refine joined_yhead (mem_headsOf.mpr ⟨mine, own⟩) fun h there same => ?_
  exact Option.some_inj.mp ((mem_headsOf.mp there).2.symm.trans (same ▸ own))

/-- Settles O46: each command of a yard by its equation, with its head and its tile behind it. -/
theorem yardCommandsRun : Obligations.YardCommandsRun := by
  unfold Obligations.YardCommandsRun
  refine ⟨fun s c => ⟨fun runs => ?nop, fun runs => ?zero, fun t runs type free => yload_completes runs type free,
    fun t runs type free => ystore_completes runs type free, fun head gang posted => ?joins⟩,
    fun s c => ⟨⟨fun ta tb dep runs types alone => ymma_completes runs types alone, gangForm_completes, fun head finished lead alone single => ?retires⟩,
      fun k there idle best head => ?starts⟩⟩
  case nop =>
    refine ⟨_, ynop_finishes runs, sameMemory_of_mem (worked_mem _ _ _ _), (worked_yhead _ _ _).trans ?_⟩
    rw [show c.status ||| 0 = c.status from BitVec.or_zero]
  case zero =>
    refine ⟨_, yzero_finishes runs, sameMemory_of_mem (worked_mem _ _ _ _), (worked_yhead _ _ _).trans ?_,
      (tileAt_of_masts (worked_masts _ _ _) _ _ _ _).trans (setTile_tileAt _ _ _ _ _)⟩
    rw [show c.status ||| 0 = c.status from BitVec.or_zero]
  case joins => exact ⟨_, ygang_joins head gang posted, fun _ => rfl, setYhead_yhead_same _ _⟩
  case retires =>
    obtain ⟨t, st, cores, run⟩ := yardRetire_retires head finished lead alone single
    have coreAt : t.coreAt s.place.a = s.coreAt s.place.a := by rw [State.coreAt, cores]; rfl
    have own : t.yhead s.place.a = some c := by rw [State.yhead, coreAt]; exact head
    exact ⟨_, run, (retire_single own _ st).trans (by rw [coreAt])⟩
  case starts =>
    refine ⟨_, yardSchedule_starts idle best head, rfl, setRunning_runs _ _ _ ?_, setYhead_yhead_same _ _⟩
    exact there

end Sys2Proof.Machine
end

section
/-! The splice unit (R155, R159, R160): what a round of a splice or a repointing, a swap and a collapse do. -/

namespace Sys2Proof.Machine

variable {s t : State} {core ix : Nat}

/-! ### Changes of tasks alone -/

/-- Two states that differ in tasks alone. -/
def tasksOnly (s t : State) : Prop := ∃ ts, t = { s with tasks := ts }

theorem tasksOnly.refl (s : State) : tasksOnly s s := ⟨s.tasks, rfl⟩

theorem tasksOnly.trans {u : State} (first : tasksOnly s t) (second : tasksOnly t u) : tasksOnly s u := by
  obtain ⟨_, hfirst⟩ := first
  obtain ⟨ts, hsecond⟩ := second
  exact ⟨ts, by rw [hsecond, hfirst]⟩

theorem tasksOnly.mem (only : tasksOnly s t) : t.mem = s.mem := by obtain ⟨_, h⟩ := only; rw [h]

theorem tasksOnly.net (only : tasksOnly s t) : t.net = s.net := by obtain ⟨_, h⟩ := only; rw [h]

theorem tasksOnly.coreAt (only : tasksOnly s t) (k : Nat) : t.coreAt k = s.coreAt k := by obtain ⟨_, h⟩ := only; rw [h]; rfl

theorem putTask_only (k : Nat) (x : Task) : tasksOnly s (s.putTask k x) := ⟨_, rfl⟩

theorem putNode_only (l : Nat) (r : Word) (n : Node) : tasksOnly s (s.putNode l r n) := ⟨_, rfl⟩

theorem putWord_only (l : Nat) (r w : Word) : tasksOnly s (s.putWord l r w) := ⟨_, rfl⟩

theorem releaseFwd_only (l : Nat) (r : Word) : tasksOnly s (s.releaseFwd l r) := by
  unfold State.releaseFwd
  split
  · exact .refl s
  · split
    · exact .refl s
    · exact putNode_only _ _ _

theorem joinMoved_only (l : Nat) (p : Repointing) : tasksOnly s (s.joinMoved l p) := by
  unfold State.joinMoved
  split
  · dsimp only
    split
    · exact (putWord_only _ _ _).trans (releaseFwd_only _ _)
    · exact .refl s
  · exact .refl s

/-- A splice that completes leaves its core's list; the rest is the work of tasks. -/
theorem completeSplice_only (l : Nat) (sp : Splice) :
    tasksOnly (s.putCore core { s.coreAt core with splices := (s.coreAt core).splices.eraseIdx ix }) (s.completeSplice core ix l sp) := by
  have released := foldl_rule (P := tasksOnly (s.putCore core { s.coreAt core with splices := (s.coreAt core).splices.eraseIdx ix }))
    (fun t x only => only.trans (releaseFwd_only l x)) sp.names (b := (s.putWord l sp.y (portWord 1 (s.wordAt l sp.y))).putCore core
      { s.coreAt core with splices := (s.coreAt core).splices.eraseIdx ix }) ⟨_, rfl⟩
  refine foldl_rule (P := tasksOnly _) (fun t x only => ?_) sp.names released
  split
  · split
    · exact only.trans (putNode_only _ _ _)
    · exact only
  · exact only

theorem completeSplice_mem' (l : Nat) (sp : Splice) : (s.completeSplice core ix l sp).mem = s.mem := (completeSplice_only l sp).mem

theorem completeSplice_net (l : Nat) (sp : Splice) : (s.completeSplice core ix l sp).net = s.net := (completeSplice_only l sp).net

theorem completeSplice_splices (l : Nat) (sp : Splice) :
    ((s.completeSplice core ix l sp).coreAt core).splices = (s.coreAt core).splices.eraseIdx ix := by
  rw [(completeSplice_only l sp).coreAt, putCore_coreAt_same]

/-! ### Pushes and packets -/

theorem wakeSteals_splices (k j : Nat) : ((s.wakeSteals k).coreAt j).splices = (s.coreAt j).splices := by
  by_cases own : j = k
  · rw [own, State.wakeSteals, putCore_coreAt_same, Core.awake]
    split <;> rfl
  · rw [State.wakeSteals, putCore_coreAt_other _ _ _ own]

theorem pushOn_kept {k : Nat} {r : Record} {v : State} (ends : s.pushOn k r = .ok v) :
    v.net = s.net ∧ ∀ j, (v.coreAt j).splices = (s.coreAt j).splices := by
  have failed (cause : Nat) (addr info : Word) : (s.failTask k cause addr info).net = s.net ∧
      ∀ j, ((s.failTask k cause addr info).coreAt j).splices = (s.coreAt j).splices := by
    obtain ⟨ls, h⟩ := failLaunch_only (s := s.putTask k { s.taskAt k with failed := true }) (s.taskAt k).launch
      ⟨cause, 0, (s.taskAt k).core, addr, info⟩
    rw [State.failTask]
    simp only [h]
    exact ⟨rfl, fun _ => rfl⟩
  unfold State.pushOn State.orFail at ends
  split at ends
  · rw [← Except.ok.inj ends]
    exact failed _ _ _
  · obtain ⟨u, room, ends⟩ := bind_ok.mp ends
    have roomed : tasksOnly s u := by
      unfold State.roomOn at room
      grind [bind_ok, putTask_only]
    rw [← Except.ok.inj ends]
    exact ⟨roomed.net, fun j => (wakeSteals_splices _ j).trans (congrArg Core.splices (roomed.coreAt j))⟩

theorem lastSwap_kept {k : Nat} {a b : Word} {v : State} (ends : s.lastSwap k a b = .ok v) :
    v.net = s.net ∧ ∀ j, (v.coreAt j).splices = (s.coreAt j).splices := by
  unfold State.lastSwap at ends
  dsimp only at ends
  split at ends
  · exact pushOn_kept ends
  · rw [← Except.ok.inj ends]
    exact ⟨rfl, fun _ => rfl⟩

theorem useSq_coreAt {β : Type} (g : Core → β) (steal : ∀ c n, g { c with stealSq := n } = g c) (net src launch : Nat) (f : Nat → Nat) (j : Nat) :
    g ((s.useSq net src launch f).coreAt j) = g (s.coreAt j) := by
  unfold State.useSq
  split
  · by_cases own : j = src
    · rw [own, putCore_coreAt_same, steal]
    · rw [putCore_coreAt_other _ _ _ own]
  · rfl

theorem drop_coreAt {β : Type} (g : Core → β) (steal : ∀ c n, g { c with stealSq := n } = g c) (p : Packet) (j : Nat) :
    g ((s.drop p).coreAt j) = g (s.coreAt j) := by
  unfold State.drop
  dsimp only
  split
  · rfl
  · exact useSq_coreAt g steal _ _ _ _ j

theorem useSq_net (net src launch : Nat) (f : Nat → Nat) : (s.useSq net src launch f).net = s.net := by
  unfold State.useSq
  split <;> rfl

/-- The packet that a unit places with room of its task's share. -/
def heldPacket (s : State) (net src dst launch n : Nat) (k : PKind) : Packet :=
  ⟨s.nextPkt, net, src, dst, launch, 0, 0, 0, packetBytes n, flitsOf n, false, k⟩

theorem emitHeld_net (net src dst launch n : Nat) (k : PKind) :
    (s.emitHeld net src dst launch n k).net = s.net ++ [heldPacket s net src dst launch n k] := useSq_net _ _ _ _

theorem emitHeld_coreAt {β : Type} (g : Core → β) (steal : ∀ c n, g { c with stealSq := n } = g c) (net src dst launch n : Nat) (k : PKind)
    (j : Nat) : g ((s.emitHeld net src dst launch n k).coreAt j) = g (s.coreAt j) := useSq_coreAt g steal _ _ _ _ j

theorem foldlM_ok {α : Type} {f : α → Ex Unit} {l : List α} (all : ∀ x ∈ l, f x = .ok ()) : l.foldlM (fun _ x => f x) () = .ok () := by
  induction l with
  | nil => rfl
  | cons x l ih =>
    rw [List.foldlM_cons, all x List.mem_cons_self]
    exact ih fun y there => all y (List.mem_cons_of_mem _ there)

theorem happen_orFail {x : Ex State} {k : Nat} (ends : x = .ok t) : s.happen (s.orFail k x) = .next t := by
  rw [ends]
  rfl

/-! ### Splices -/

/-- The splice of the turn may do a round. -/
structure maySplice (s : State) (sp : Splice) : Prop where
  there : (s.coreAt s.place.a).splices[s.place.b]? = some sp
  ready : s.unitReady sp.task (slotsOn s.place.a [sp.x, sp.y, sp.z]) .netW = .ok ()
  names : ∀ x ∈ sp.also, s.nameReady (s.taskAt sp.task).launch x = .ok ()

theorem relink_runs {sp : Splice} (may : maySplice s sp) (round : s.relink s.place.a s.place.b sp = .ok t) : exec .relink s = .next t := by
  rw [show exec .relink s = execRelink s from rfl, execRelink, may.there]
  simp only [round]
  rfl

/-- The state in which a splice has sent its swap. -/
def State.swapSent (s : State) (core ix : Nat) (sp : Splice) : State :=
  (s.setSplice core ix { sp with stage := .swapping }).sendSwap core sp.task (s.taskAt sp.task).launch sp.z sp.own sp.y false

theorem relink_sends {sp : Splice} (may : maySplice s sp) (start : sp.stage = .start) (far : refCore sp.z ≠ s.place.a)
    (room : s.swapRoom sp.task = .ok ()) : exec .relink s = .next (s.swapSent s.place.a s.place.b sp) := by
  refine relink_runs may (ok_then may.ready (ok_then (foldlM_ok may.names) ?_))
  simp only [start, if_neg far]
  exact ok_then room rfl

theorem relink_completes {sp : Splice} (may : maySplice s sp) {p : Packet} {w : Word} {v : State} (swaps : sp.stage = .swapping)
    (reply : s.swapReply s.place.a (s.taskAt sp.task).launch sp.z sp.own sp.y false = some (p, some w)) (names : refers w sp.own = true)
    (ready : s.fwdReady (s.taskAt sp.task).launch sp.z = .ok ()) (wired : refState w = 1 ∨ refState w = 3)
    (last : ((s.takeReply sp.task p).completeSplice s.place.a s.place.b (s.taskAt sp.task).launch sp).lastSwap sp.task sp.y sp.z = .ok v) :
    exec .relink s = .next v := by
  refine relink_runs may (ok_then may.ready (ok_then (foldlM_ok may.names) ?_))
  simp only [swaps, reply]
  refine ok_then ready ((if_pos ?_).trans last)
  simp only [names, Bool.true_and, Bool.or_eq_true, decide_eq_true_eq]
  exact wired

theorem relink_over {sp : Splice} (may : maySplice s sp) (waits : sp.stage = .waitOther)
    (swapped : refers (s.wordAt (s.taskAt sp.task).launch sp.y) sp.z = false) :
    exec .relink s = .next (s.completeSplice s.place.a s.place.b (s.taskAt sp.task).launch sp) := by
  refine relink_runs may (ok_then may.ready (ok_then (foldlM_ok may.names) ?_))
  simp only [waits]
  exact need_then (by rw [swapped]; rfl) rfl

/-! ### Repointings -/

/-- The repointing of the turn may do its swap. -/
structure mayRepoint (s : State) (r : Repointing) : Prop where
  there : (s.coreAt s.place.a).repoints[s.place.b]? = some r
  ready : s.unitReady r.task (slotsOn s.place.a [r.new, r.far]) .netW = .ok ()
  forwards : ∀ v ∈ r.old :: r.via.toList, s.fwdReady (s.taskAt r.task).launch v = .ok ()

theorem repoint_runs {r : Repointing} (may : mayRepoint s r) (swap : s.repoint s.place.a s.place.b r = .ok t) :
    exec .repoint s = .next t := by
  rw [show exec .repoint s = execRepoint s from rfl, execRepoint, may.there]
  simp only [swap]
  rfl

/-- The state in which a repointing has sent its swap. -/
def State.repointSent (s : State) (core ix : Nat) (r : Repointing) : State :=
  (s.setRepoint core ix { r with stage := .swapping }).sendSwap core r.task (s.taskAt r.task).launch r.far r.old r.new true

theorem repoint_sends {r : Repointing} (may : mayRepoint s r) (start : r.stage = .start) (far : refCore r.far ≠ s.place.a)
    (room : s.swapRoom r.task = .ok ()) : exec .repoint s = .next (s.repointSent s.place.a s.place.b r) := by
  refine repoint_runs may (ok_then may.ready (ok_then (foldlM_ok may.forwards) ?_))
  simp only [start, if_neg far]
  exact ok_then room rfl

theorem repoint_ends {r : Repointing} (may : mayRepoint s r) {p : Packet} {w : Word} (swaps : r.stage = .swapping)
    (reply : s.swapReply s.place.a (s.taskAt r.task).launch r.far r.old r.new true = some (p, some w)) (names : refers w r.old = true)
    (wired : refState w = 1 ∨ refState w = 3) :
    exec .repoint s = .next ((((s.takeReply r.task p).endRepoint s.place.a s.place.b).releaseFwd (s.taskAt r.task).launch r.old).joinMoved
      (s.taskAt r.task).launch r) := by
  refine repoint_runs may (ok_then may.ready (ok_then (foldlM_ok may.forwards) ?_))
  simp only [swaps, reply]
  refine congrArg Except.ok (if_pos ?_)
  simp only [names, Bool.true_and, Bool.or_eq_true, decide_eq_true_eq]
  exact wired

/-! ### Swaps at the core that holds the port -/

theorem nodeAt_drop (p : Packet) (l : Nat) (r : Word) : (s.drop p).nodeAt l r = s.nodeAt l r := by
  have nodes := drop_taskAt (s := s) Task.nodes (fun _ _ => rfl) p (refTask l r)
  unfold State.nodeAt Task.node
  rw [nodes]

theorem putNode_node_same (l : Nat) (r : Word) (n : Node) : ((s.putNode l r n).taskAt (refTask l r)).node (refKey r) = n := by
  rw [State.putNode, putTask_taskAt_same, node_setNode_same]

/-- A node that a reference names is what its slot holds. -/
theorem node_of_nodeAt {l : Nat} {r : Word} {n : Node} (there : s.nodeAt l r = some n) : (s.taskAt (refTask l r)).node (refKey r) = n := by
  unfold State.nodeAt at there
  dsimp only at there
  split at there
  · exact absurd there nofun
  · exact Option.some_inj.mp there

/-- A word with a state stands in a port that the node has. -/
theorem port_of_state {n : Node} {k : Nat} (some' : refState (n.port k) ≠ 0) : k < n.ports.length := by
  by_contra beyond
  refine some' ?_
  rw [Node.port, List.getD_eq_default _ _ (Nat.le_of_not_lt beyond)]
  rfl

theorem setPort_port_same {n : Node} {k : Nat} (there : k < n.ports.length) (w : Word) : (n.setPort k w).port k = w := by
  simp [Node.port, Node.setPort, there]

theorem putWord_wordAt {l : Nat} {r : Word} (there : refState (s.wordAt l r) ≠ 0) (w : Word) : (s.putWord l r w).wordAt l r = w := by
  rw [State.wordAt, State.putWord, putNode_node_same]
  exact setPort_port_same (port_of_state there) w

theorem swap_wired {l : Nat} {t old new : Word} {n : Node} (there : s.nodeAt l t = some n) (names : refers (n.port (refPort t)) old = true)
    (wired : refState (n.port (refPort t)) = 1 ∨ refState (n.port (refPort t)) = 3) :
    s.swap l t old new = (some (n.port (refPort t)), s.putWord l t (portWord (refState (n.port (refPort t))) new)) := by
  have wired' : (decide (refState (n.port (refPort t)) = 1) || decide (refState (n.port (refPort t)) = 3)) = true := by
    simp only [Bool.or_eq_true, decide_eq_true_eq]
    exact wired
  rw [State.swap, there]
  simp only [names, wired', Bool.and_self, if_true]

theorem spliceSwap_swaps {p : Packet} {t old new : Word} {rp : Bool} {n : Node} (there : s.packet s.place.a = some p)
    (kind : p.kind = .swap t old new rp) (turn : s.mayApply p = true) (lands : s.inFlight p.launch t = false)
    (ready : s.unitReady (taskKey p.launch p.dst) [refKey t] .netW = .ok ()) (node : s.nodeAt p.launch t = some n)
    (names : refers (n.port (refPort t)) old = true) (wired : refState (n.port (refPort t)) = 1 ∨ refState (n.port (refPort t)) = 3) :
    exec .spliceSwap s = .next (((s.drop p).putWord p.launch t (portWord (refState (n.port (refPort t))) new)).emitUnit 1 p.dst p.src
      p.launch 32 (.swapped t old new rp (some (n.port (refPort t))))) := by
  have swapped := swap_wired (s := s.drop p) ((nodeAt_drop p _ _).trans node) names wired (new := new)
  rw [show exec .spliceSwap s = execSpliceSwap s from rfl, execSpliceSwap, there]
  simp only [kind]
  have may : (s.mayApply p && !s.inFlight p.launch t) = true := by rw [turn, lands]; rfl
  refine happen_orFail (need_then may (ok_then ready ?_))
  rw [swapped]

theorem wordAt_swapped {p : Packet} {t : Word} {n : Node} (node : s.nodeAt p.launch t = some n)
    (wired : refState (n.port (refPort t)) = 1 ∨ refState (n.port (refPort t)) = 3) (w : Word) :
    ((s.drop p).putWord p.launch t w).wordAt p.launch t = w := by
  have own : (s.drop p).wordAt p.launch t = n.port (refPort t) :=
    congrArg (fun m : Node => m.port (refPort t)) (node_of_nodeAt ((nodeAt_drop p _ _).trans node))
  refine putWord_wordAt ?_ w
  rw [own]
  omega

/-! ### Collapses -/

/-- Binds a host port. -/
def State.hostBound (s : State) (l : Nat) (h w : Word) : State :=
  s.putLaunch l { s.launchAt l with hostbind := (s.launchAt l).hostbind.set (bits h 19 0) w }

theorem hostBound_same (l : Nat) (h w : Word) : ((s.hostBound l h w).launchAt l).hostbind.get (bits h 19 0) 0 = w :=
  (congrArg (fun x : Launch => x.hostbind.get (bits h 19 0) 0) (putLaunch_launchAt_same s l _)).trans (AMap.get_set_same _ _ _ _)

theorem hostBound_other (l : Nat) (h w : Word) {k : Nat} (other : k ≠ bits h 19 0) :
    ((s.hostBound l h w).launchAt l).hostbind.get k 0 = (s.launchAt l).hostbind.get k 0 :=
  (congrArg (fun x : Launch => x.hostbind.get k 0) (putLaunch_launchAt_same s l _)).trans (AMap.get_set_other _ other _ _)

/-- A join thimble between two host wires binds each to the other's port, and its slot is free. -/
def State.hostsJoined (s : State) (k slot : Nat) (n : Node) : State :=
  let l := (s.taskAt k).launch
  let t := (s.hostBound l (n.port 0) (n.port 1)).hostBound l (n.port 1) (n.port 0)
  t.putTask k ((t.taskAt k).setNode slot n.freed)

theorem collapse_hosts {n : Node} (node : (s.taskAt s.place.a).node s.place.b = n) (joins : n.isJoin = true)
    (ready : s.unitReady s.place.a [s.place.b] .netW = .ok ())
    (quiet : ∀ sp ∈ (s.coreAt (s.taskAt s.place.a).core).splices,
      ¬ (sp.task = s.place.a ∧ sameNode sp.y (mkRef (s.taskAt s.place.a).core s.place.b n.gen.toNat 0) = true))
    (host0 : refState (n.port 0) = 4) (host1 : refState (n.port 1) = 4) :
    exec .collapse s = .next (s.hostsJoined s.place.a s.place.b n) := by
  have none : (s.coreAt (s.taskAt s.place.a).core).splices.any (fun sp =>
      decide (sp.task = s.place.a) && sameNode sp.y (mkRef (s.taskAt s.place.a).core s.place.b n.gen.toNat 0)) = false := by
    refine List.any_eq_false.mpr fun sp there both => quiet sp there ?_
    simpa only [Bool.and_eq_true, decide_eq_true_eq] using both
  have far (w : Word) (host : refState w = 4) : s.farReady (s.taskAt s.place.a).launch w = .ok () := if_neg (by rw [host]; decide)
  subst node
  have alone : ((((s.taskAt s.place.a).node s.place.b).isJoin) && !(s.coreAt (s.taskAt s.place.a).core).splices.any (fun sp =>
      decide (sp.task = s.place.a) && sameNode sp.y (mkRef (s.taskAt s.place.a).core s.place.b
        ((s.taskAt s.place.a).node s.place.b).gen.toNat 0))) = true := by rw [joins, none]; rfl
  refine happen_orFail (need_then alone (ok_then ready (ok_then (far _ host0) (ok_then (far _ host1) ?_))))
  exact if_pos (by rw [host0, host1]; rfl)

end Sys2Proof.Machine
end

section
/-! Meetings that move nodes (R138, R175, R191): fetches, the thimbles that they leave, and installs; O47. -/

namespace Sys2Proof.Machine

variable {s : State} {p : Packet} {id : Nat} {r o new : Word} {held : Bool} {n : Node} {core ix : Nat}

/-! ### Thimbles of meetings -/

/-- The reference names a meeting thimble. -/
def thimbleAt (s : State) (l : Nat) (r : Word) : Prop := ∃ m, s.nodeAt l r = some m ∧ m.thim = true ∧ m.live = false ∧ m.kind = 0xFFF

theorem gen_of_nodeAt {l : Nat} (there : s.nodeAt l r = some n) : n.gen.toNat = refGen r := by
  have node := node_of_nodeAt there
  unfold State.nodeAt at there
  dsimp only at there
  rw [node] at there
  split at there
  · exact absurd there nofun
  · rename_i valid
    exact (by simpa using valid : n.free = false ∧ n.gen.toNat = refGen r).2

theorem nodeAt_of_node {l : Nat} (node : (s.taskAt (refTask l r)).node (refKey r) = n) (used : n.free = false) (gen : n.gen.toNat = refGen r) :
    s.nodeAt l r = some n := by
  unfold State.nodeAt
  dsimp only
  rw [node, used, gen]
  simp

theorem leaveSlot_node (l : Nat) (r new : Word) (n : Node) (j k : Nat) :
    ((s.leaveSlot l r new n).taskAt j).node k = ((s.putNode l r (n.moved new)).taskAt j).node k := rfl

/-- A node that has left its slot is a thimble there. -/
theorem leaveSlot_thimble (there : s.nodeAt l r = some n) (new : Word) : thimbleAt (s.leaveSlot l r new n) l r :=
  ⟨n.moved new, nodeAt_of_node (putNode_node_same _ _ _) rfl (gen_of_nodeAt (n := n) there :), rfl, rfl, rfl⟩

/-- A thimble stays one when another node, or itself, leaves its slot. -/
theorem leaveSlot_thimble_kept {l : Nat} {r' : Word} {n' : Node} (there : s.nodeAt l r' = some n') (new' : Word) (thimble : thimbleAt s l r) :
    thimbleAt (s.leaveSlot l r' new' n') l r := by
  obtain ⟨m, named, thim, live, kind⟩ := thimble
  have node := node_of_nodeAt named
  by_cases task : refTask l r = refTask l r'
  · by_cases key : refKey r = refKey r'
    · have same : m = n' := by rw [← node, ← node_of_nodeAt there, task, key]
      refine ⟨n'.moved new', nodeAt_of_node ?_ rfl (same ▸ gen_of_nodeAt named :), rfl, rfl, rfl⟩
      rw [task, key]
      exact putNode_node_same _ _ _
    · refine ⟨m, nodeAt_of_node ?_ (by rw [Node.free, thim]; simp) (gen_of_nodeAt named), thim, live, kind⟩
      rw [leaveSlot_node, State.putNode, task, putTask_taskAt_same]
      exact (AMap.get_set_other _ key _ _).trans (by rw [← task]; exact node)
  · refine ⟨m, nodeAt_of_node ?_ (by rw [Node.free, thim]; simp) (gen_of_nodeAt named), thim, live, kind⟩
    rw [leaveSlot_node, State.putNode, putTask_taskAt_other _ _ _ task]
    exact node

theorem takeLater_thimble {l core : Nat} {m : Meeting} (thimble : thimbleAt s l r) : thimbleAt (s.takeLater core l m) l r := by
  unfold State.takeLater
  split
  · split
    · rename_i n' there
      exact leaveSlot_thimble_kept (s := s.setMeeting core _) there _ thimble
    · exact thimble
  · exact thimble

theorem takeLater_mem' (l core : Nat) (m : Meeting) : (s.takeLater core l m).mem = s.mem := by
  unfold State.takeLater
  split
  · split <;> rfl
  · rfl

theorem takeLater_net (l core : Nat) (m : Meeting) : (s.takeLater core l m).net = s.net := by
  unfold State.takeLater
  split
  · split <;> rfl
  · rfl

/-! ### Fetches -/

theorem meetCheck_passes {l : Nat} {others : List Word} (node : s.nodeAt l r = some n) (live : n.live = true)
    (wired : refState (n.port 0) = 1 ∨ refState (n.port 0) = 3) (names : refers (n.port 0) o = true) (there : o ∈ others) :
    s.meetCheck l r others = none := by
  have met : others.any (refers (n.port 0)) = true := List.any_eq_true.mpr ⟨o, there, names⟩
  rw [State.meetCheck, node]
  simp only [live, met, Bool.not_true, Bool.false_eq_true, if_false, Bool.and_true, Bool.or_eq_true, decide_eq_true_eq, wired, if_true]

/-- The meeting of a fetch, on the core that it comes from. -/
def State.fetcher (s : State) (p : Packet) (id : Nat) : Option Meeting := (s.coreAt p.src).meetings.find? fun m => decide (m.id = id)

theorem fetcher_mem {m : Meeting} (found : s.fetcher p id = some m) : m ∈ (s.coreAt p.src).meetings ∧ m.id = id :=
  ⟨List.mem_of_find?_eq_some found, by simpa using List.find?_some found⟩

/-- A fetch whose checks pass. -/
structure mayFetch (s : State) (p : Packet) (id : Nat) (r o new : Word) (held : Bool) (n : Node) : Prop where
  there : s.packet s.place.a = some p
  kind : p.kind = .fetch id r o new held
  turn : held = true ∨ s.mayApply p = true
  readable : s.nodeReadable (taskKey p.launch p.dst) (refKey r) = .ok ()
  node : s.nodeAt p.launch r = some n
  live : n.live = true
  names : refers (n.port 0) o = true
  wired : refState (n.port 0) = 1 ∨ refState (n.port 0) = 3
  second : ∀ m ∈ (s.coreAt p.src).meetings, m.id = id → m.later = none ∧ s.laterReady p.launch m = .ok () ∧ s.laterCheck p.launch m = none

/-- Whether a port of a node of the fetch's meeting is LOCKED. -/
def State.fetchLocked (s : State) (p : Packet) (id : Nat) (n : Node) : Bool :=
  (n.ports.any fun w => decide (refState w = 3)) || ((s.fetcher p id).map (s.laterLocked p.launch)).getD false

/-- The outcome of a fetch whose checks pass. -/
theorem meetFetch_checked (may : mayFetch s p id r o new held n) :
    exec .meetFetch s = .next (
      if s.fetchLocked p id n then
        { s with net := s.net.map fun q => if q.id = p.id then { q with kind := .fetch id r o new true } else q }
      else
        let t := s.serveFetch p id r new n
        ((s.fetcher p id).map (t.takeLater p.src p.launch)).getD t) := by
  have checked (others : List Word) : s.meetCheck p.launch r (o :: others) = none :=
    meetCheck_passes may.node may.live may.wired may.names List.mem_cons_self
  have turn : (held || s.mayApply p) = true := Bool.or_eq_true_iff.mpr may.turn
  have first : ((s.fetcher p id).bind fun m => m.later.map fun n => (m, n)) = none := by
    cases found : s.fetcher p id with
    | none => rfl
    | some m => rw [Option.bind_some, (may.second m (fetcher_mem found).1 (fetcher_mem found).2).1]; rfl
  have ready : ((s.fetcher p id).map (s.laterReady p.launch)).getD (.ok ()) = .ok () := by
    cases found : s.fetcher p id with
    | none => rfl
    | some m => exact (may.second m (fetcher_mem found).1 (fetcher_mem found).2).2.1
  have check : (s.fetcher p id).bind (s.laterCheck p.launch) = none := by
    cases found : s.fetcher p id with
    | none => rfl
    | some m => exact (may.second m (fetcher_mem found).1 (fetcher_mem found).2).2.2
  simp only [State.fetcher] at first ready check
  rw [show exec .meetFetch s = execMeetFetch s from rfl, execMeetFetch, may.there]
  simp only [may.kind]
  refine happen_ok (need_then turn ?_)
  simp only [first, may.readable, ok_bind, ready, checked, check, may.node]
  simp only [State.fetchLocked, State.fetcher]
  exact (apply_ite Except.ok _ _ _).symm

theorem meetFetch_later {m : Meeting} (there : s.packet s.place.a = some p) (kind : p.kind = .fetch id r o new held)
    (turn : held = true ∨ s.mayApply p = true) (found : s.fetcher p id = some m) (later : m.later = some n) :
    exec .meetFetch s = .next (((s.drop p).setMeeting p.src { m with later := none }).emitUnit 1 p.dst p.src p.launch 64
      (.fetched id (some n) 0)) := by
  have second : ((s.fetcher p id).bind fun m => m.later.map fun n => (m, n)) = some (m, n) := by rw [found, Option.bind_some, later]; rfl
  simp only [State.fetcher] at second
  rw [show exec .meetFetch s = execMeetFetch s from rfl, execMeetFetch, there]
  simp only [kind]
  refine happen_ok (need_then (Bool.or_eq_true_iff.mpr turn) ?_)
  simp only [second]

/-! ### Installs -/

/-- The node of a meeting's move may be installed. -/
structure mayInstall (s : State) (p : Packet) (id k cause : Nat) (node : Option Node) (m : Meeting) : Prop where
  there : s.packet s.place.a = some p
  kind : p.kind = .fetched id node cause
  turn : s.mayApply p = true
  found : ((s.coreAt p.dst).meetings.find? fun m => decide (m.id = id)) = some m
  slot : m.slot = some k
  ready : s.unitReady m.task [k] .netW = .ok ()
  forward : node.isSome = true → s.fwdReady p.launch m.fetched = .ok ()

/-- The state in which the reply of a fetch has been taken in. -/
def State.fetchTaken (s : State) (p : Packet) (m : Meeting) : State :=
  (s.drop p).putTask m.task { (s.drop p).taskAt m.task with ibRsv := ((s.drop p).taskAt m.task).ibRsv - 64 }

theorem meetInstall_installs {k cause : Nat} {node : Option Node} {m : Meeting} (may : mayInstall s p id k cause node m)
    (last : node = none ∨ m.toMove = []) :
    exec .meetInstall s = .next ((s.fetchTaken p m).installMoved p.dst p.launch m k node cause) := by
  rw [show exec .meetInstall s = execMeetInstall s from rfl, execMeetInstall, may.there]
  simp only [may.kind, may.found, may.slot]
  refine happen_orFail (need_then may.turn (ok_then may.ready ?_))
  have room (t : State) : (node.isNone || m.toMove.isEmpty || t.fetchRoom m.task) = true := by
    rcases last with none | last
    · rw [none]; rfl
    · rw [last]; simp
  cases node with
  | none => exact need_then (room _) rfl
  | some n => exact ok_then (may.forward rfl) (need_then (room _) rfl)

/-- The repointings of a node whose ports are wired or unwired leave tasks and memory alone. -/
theorem installPorts_wired (core task launch : Nat) (old new : Word) (n : Node) (id : Nat)
    (wired : ∀ w ∈ n.ports, refState w = 1 ∨ refState w = 0) :
    (s.installPorts core task launch old new n id).tasks = s.tasks ∧ (s.installPorts core task launch old new n id).mem = s.mem := by
  unfold State.installPorts
  have all : ∀ q ∈ n.ports.zipIdx, refState q.1 = 1 ∨ refState q.1 = 0 := fun q there => wired q.1 (List.fst_mem_of_mem_zipIdx there)
  revert all
  generalize n.ports.zipIdx = qs
  intro all
  induction qs generalizing s with
  | nil => exact ⟨rfl, rfl⟩
  | cons q qs ih =>
    rw [List.foldl_cons]
    refine (ih fun q there => all q (List.mem_cons_of_mem _ there)).imp (fun same => same.trans ?_) (fun same => same.trans ?_) <;>
      rcases all q List.mem_cons_self with one | none <;> simp only [*] <;> rfl

/-! ### O47 -/

theorem relink_completes_net {sp : Splice} (may : maySplice s sp) {w : Word} {v : State} (swaps : sp.stage = .swapping)
    (reply : s.swapReply s.place.a (s.taskAt sp.task).launch sp.z sp.own sp.y false = some (p, some w)) (names : refers w sp.own = true)
    (ready : s.fwdReady (s.taskAt sp.task).launch sp.z = .ok ()) (wired : refState w = 1 ∨ refState w = 3)
    (last : ((s.takeReply sp.task p).completeSplice s.place.a s.place.b (s.taskAt sp.task).launch sp).lastSwap sp.task sp.y sp.z = .ok v) :
    ∃ u, exec .relink s = .next u ∧ u.net = s.net.filter (fun q => decide (q.id ≠ p.id)) ∧
      (u.coreAt s.place.a).splices = (s.coreAt s.place.a).splices.eraseIdx s.place.b := by
  obtain ⟨net, splices⟩ := lastSwap_kept last
  refine ⟨v, relink_completes may swaps reply names ready wired last, ?_, ?_⟩
  · rw [net, completeSplice_net]
    exact drop_net p
  · rw [splices, completeSplice_splices]
    exact congrArg (List.eraseIdx · _) (drop_coreAt Core.splices (fun _ _ => rfl) p s.place.a)

theorem swapSent_end {sp : Splice} (there : (s.coreAt core).splices[ix]? = some sp) :
    (s.swapSent core ix sp).mem = s.mem ∧ ((s.swapSent core ix sp).coreAt core).splices[ix]? = some { sp with stage := .swapping } ∧
      ∃ q, (s.swapSent core ix sp).net = s.net ++ [q] ∧ q.dst = refCore sp.z ∧ q.kind = .swap sp.z sp.own sp.y false := by
  have bound : ix < (s.coreAt core).splices.length := (List.getElem?_eq_some_iff.mp there).1
  refine ⟨emitHeld_mem _ _ _ _ _ _ _, ?_, _, emitHeld_net _ _ _ _ _ _, rfl, rfl⟩
  have kept : ((s.swapSent core ix sp).coreAt core).splices = (s.coreAt core).splices.set ix { sp with stage := .swapping } :=
    (emitHeld_coreAt Core.splices (fun _ _ => rfl) _ _ _ _ _ _ _).trans
      (congrArg Core.splices (putCore_coreAt_same s core { s.coreAt core with splices := _ }))
  rw [kept, List.getElem?_set_self bound]

theorem repointSent_end {q : Repointing} (there : (s.coreAt core).repoints[ix]? = some q) :
    (s.repointSent core ix q).mem = s.mem ∧ ((s.repointSent core ix q).coreAt core).repoints[ix]? = some { q with stage := .swapping } ∧
      ∃ k, (s.repointSent core ix q).net = s.net ++ [k] ∧ k.dst = refCore q.far ∧ k.kind = .swap q.far q.old q.new true := by
  have bound : ix < (s.coreAt core).repoints.length := (List.getElem?_eq_some_iff.mp there).1
  refine ⟨emitHeld_mem _ _ _ _ _ _ _, ?_, _, emitHeld_net _ _ _ _ _ _, rfl, rfl⟩
  have kept : ((s.repointSent core ix q).coreAt core).repoints = (s.coreAt core).repoints.set ix { q with stage := .swapping } :=
    (emitHeld_coreAt Core.repoints (fun _ _ => rfl) _ _ _ _ _ _ _).trans
      (congrArg Core.repoints (putCore_coreAt_same s core { s.coreAt core with repoints := _ }))
  rw [kept, List.getElem?_set_self bound]

/-- What a repointing that ends leaves: its entry is gone, and the reply is taken. -/
theorem repointEnded_end (q : Repointing) (p : Packet) (l : Nat) :
    let u := (((s.takeReply q.task p).endRepoint core ix).releaseFwd l q.old).joinMoved l q
    u.mem = s.mem ∧ u.net = s.net.filter (fun q => decide (q.id ≠ p.id)) ∧
      (u.coreAt core).repoints = (s.coreAt core).repoints.eraseIdx ix := by
  intro u
  have only : tasksOnly ((s.takeReply q.task p).endRepoint core ix) u := (releaseFwd_only l q.old).trans (joinMoved_only l q)
  refine ⟨only.mem.trans (drop_mem s p), only.net.trans (drop_net p), ?_⟩
  rw [only.coreAt, State.endRepoint, putCore_coreAt_same]
  exact congrArg (List.eraseIdx · ix) (drop_coreAt Core.repoints (fun _ _ => rfl) p core)

theorem hostsJoined_end (k slot : Nat) (n : Node) :
    let u := s.hostsJoined k slot n
    u.mem = s.mem ∧ (u.taskAt k).node slot = n.freed ∧
      (u.launchAt (s.taskAt k).launch).hostbind.get (bits (n.port 1) 19 0) 0 = n.port 0 ∧
      (bits (n.port 0) 19 0 ≠ bits (n.port 1) 19 0 →
        (u.launchAt (s.taskAt k).launch).hostbind.get (bits (n.port 0) 19 0) 0 = n.port 1) := by
  refine ⟨rfl, ?_, hostBound_same _ _ _, fun apart => (hostBound_other _ _ _ apart).trans (hostBound_same _ _ _)⟩
  exact (congrArg (fun t : Task => t.node slot) (putTask_taskAt_same _ k _)).trans (node_setNode_same _ _ _)

theorem fetchLocked_none (free : ∀ w ∈ n.ports, refState w ≠ 3)
    (later : ∀ m ∈ (s.coreAt p.src).meetings, m.id = id → s.laterLocked p.launch m = false) : s.fetchLocked p id n = false := by
  have own : (n.ports.any fun w => decide (refState w = 3)) = false :=
    List.any_eq_false.mpr fun w there locked => free w there (of_decide_eq_true locked)
  rw [State.fetchLocked, own]
  cases found : s.fetcher p id with
  | none => rfl
  | some m => exact later m (fetcher_mem found).1 (fetcher_mem found).2

theorem fetchLocked_own (locked : ∃ w ∈ n.ports, refState w = 3) : s.fetchLocked p id n = true := by
  obtain ⟨w, there, is⟩ := locked
  rw [State.fetchLocked, List.any_eq_true.mpr ⟨w, there, decide_eq_true is⟩]
  rfl

theorem meetFetch_serves (may : mayFetch s p id r o new held n) (free : s.fetchLocked p id n = false) :
    ∃ u q m, exec .meetFetch s = .next u ∧ sameMemory s u ∧ u.net = s.net.filter (fun q => decide (q.id ≠ p.id)) ++ [q] ∧
      q.kind = .fetched id (some n) 0 ∧ q.dst = p.src ∧ u.nodeAt p.launch r = some m ∧ m.thim = true ∧ m.live = false ∧ m.kind = 0xFFF := by
  have run := meetFetch_checked may
  rw [free] at run
  have served : thimbleAt (s.serveFetch p id r new n) p.launch r := leaveSlot_thimble ((nodeAt_drop p _ _).trans may.node) new
  have net : (s.serveFetch p id r new n).net = s.net.filter (fun q => decide (q.id ≠ p.id)) ++ _ :=
    congrArg (· ++ [_]) (drop_net p)
  have mem : (s.serveFetch p id r new n).mem = s.mem := drop_mem s p
  cases found : s.fetcher p id with
  | none =>
    rw [found] at run
    obtain ⟨m, named, thim, live, kind⟩ := served
    exact ⟨_, _, m, run, sameMemory_of_mem mem, net, rfl, rfl, named, thim, live, kind⟩
  | some w =>
    rw [found] at run
    obtain ⟨m, named, thim, live, kind⟩ := takeLater_thimble (core := p.src) (m := w) served
    exact ⟨_, _, m, run, sameMemory_of_mem ((takeLater_mem' _ _ _).trans mem), (takeLater_net _ _ _).trans net, rfl, rfl, named, thim, live,
      kind⟩

theorem meetFetch_waits (may : mayFetch s p id r o new held n) (locked : s.fetchLocked p id n = true) :
    ∃ u, exec .meetFetch s = .next u ∧ { u with net := s.net } = s ∧ ∃ q ∈ u.net, q.id = p.id ∧ q.kind = .fetch id r o new true := by
  have run := meetFetch_checked may
  rw [if_pos locked] at run
  exact ⟨_, run, rfl, _, List.mem_map.mpr ⟨p, List.mem_of_find?_eq_some may.there, if_pos rfl⟩, rfl, rfl⟩

theorem fetchTaken_mem (m : Meeting) : (s.fetchTaken p m).mem = s.mem := drop_mem s p

theorem fetchTaken_node (m : Meeting) (k : Nat) : ((s.fetchTaken p m).taskAt m.task).node k = (s.taskAt m.task).node k := by
  have nodes := drop_taskAt (s := s) Task.nodes (fun _ _ => rfl) p m.task
  rw [State.fetchTaken, putTask_taskAt_same]
  exact congrArg (fun ns : AMap Node => ns.get k Node.init) nodes

/-- A last move of wired ports puts the node into its slot. -/
theorem installMoved_node (core launch k cause : Nat) {m : Meeting} (last : m.toMove = [])
    (wired : ∀ w ∈ n.ports, refState w = 1 ∨ refState w = 0) :
    (s.installMoved core launch m k (some n) cause).mem = s.mem ∧
      ((s.installMoved core launch m k (some n) cause).taskAt m.task).node k = { n with gen := ((s.taskAt m.task).node k).gen } := by
  unfold State.installMoved
  simp only [State.nextMove, last]
  generalize ht : State.setMeeting _ core _ = t
  obtain ⟨tasks, mem⟩ := installPorts_wired (s := t) core m.task launch m.fetched (mkRef core k ((s.taskAt m.task).node k).gen.toNat 0) n m.id wired
  refine ⟨mem.trans (ht ▸ rfl), ?_⟩
  rw [State.taskAt, tasks, ← ht]
  exact (congrArg (fun t : Task => t.node k) (putTask_taskAt_same s m.task _)).trans (node_setNode_same _ _ _)

/-- A failed fetch fails its meeting and gives its slots back. -/
theorem installMoved_failed {core : Nat} (launch k cause : Nat) {m : Meeting} (there : m ∈ (s.coreAt core).meetings) :
    (s.installMoved core launch m k none cause).mem = s.mem ∧
      { m with slot := none, spare := [], toMove := [], failed := some (cause, 0) } ∈
        ((s.installMoved core launch m k none cause).coreAt core).meetings := by
  refine ⟨rfl, ?_⟩
  simp only [State.installMoved, State.setMeeting, putCore_coreAt_same]
  exact List.mem_map.mpr ⟨m, there, if_pos rfl⟩

/-- Settles O47: each round of the splice unit, and each fetch and install of a meeting, by its equation. -/
theorem spliceUnitAndMeetingsRun : Obligations.SpliceUnitAndMeetingsRun := by
  unfold Obligations.SpliceUnitAndMeetingsRun
  refine ⟨⟨?relinks, ?repoints, ?swaps, ?collapses⟩, ?fetches, ?laters, ?installs⟩
  case relinks =>
    intro s sp core ix launch there ready names
    have may : maySplice s sp := ⟨there, ready, names⟩
    refine ⟨fun start far room => ?_, fun p w v swaps reply named fwd wired last => relink_completes_net may swaps reply named fwd wired last,
      fun waits swapped => ⟨_, relink_over may waits swapped, sameMemory_of_mem (completeSplice_mem' _ _), completeSplice_splices _ _⟩⟩
    obtain ⟨mem, stage, q, net, dst, kind⟩ := swapSent_end there
    exact ⟨_, q, relink_sends may start far room, sameMemory_of_mem mem, stage, net, dst, kind⟩
  case repoints =>
    intro s r core ix there ready forwards
    have may : mayRepoint s r := ⟨there, ready, forwards⟩
    refine ⟨fun start far room => ?_, fun p w swaps reply named wired => ?_⟩
    · obtain ⟨mem, stage, q, net, dst, kind⟩ := repointSent_end there
      exact ⟨_, q, repoint_sends may start far room, sameMemory_of_mem mem, stage, net, dst, kind⟩
    · obtain ⟨mem, net, gone⟩ := repointEnded_end (s := s) (core := core) (ix := ix) r p (s.taskAt r.task).launch
      exact ⟨_, repoint_ends may swaps reply named wired, sameMemory_of_mem mem, net, gone⟩
  case swaps =>
    intro s p t old new rp n w there kind turn lands ready node names wired
    exact ⟨_, _, spliceSwap_swaps there kind turn lands ready node names wired, sameMemory_of_mem (drop_mem s p),
      congrArg (· ++ [_]) (drop_net p), rfl, rfl, wordAt_swapped node wired _⟩
  case collapses =>
    intro s k n p0 joins ready quiet host0 host1 h0 h1
    obtain ⟨mem, freed, first, second⟩ := hostsJoined_end (s := s) k s.place.b n
    exact ⟨_, collapse_hosts rfl joins ready quiet host0 host1, sameMemory_of_mem mem, freed, first, second⟩
  case fetches =>
    intro s p id r o new held n there kind turn readable node live names wired second
    have may : mayFetch s p id r o new held n := ⟨there, kind, turn, readable, node, live, names, wired, second⟩
    exact ⟨fun free later => meetFetch_serves may (fetchLocked_none free later), fun locked => meetFetch_waits may (fetchLocked_own locked)⟩
  case laters =>
    intro s p id r o new held m n there kind turn found later
    exact ⟨_, _, meetFetch_later there kind turn found later, sameMemory_of_mem (drop_mem s p), fun w => nodeAt_drop p _ _,
      congrArg (· ++ [_]) (drop_net p), rfl, rfl⟩
  case installs =>
    intro s p id k cause node m there kind turn found slot ready forward
    have may : mayInstall s p id k cause node m := ⟨there, kind, turn, found, slot, ready, forward⟩
    refine ⟨fun n is last wired => ?_, fun is => ?_⟩
    · subst is
      obtain ⟨mem, put⟩ := installMoved_node (s := s.fetchTaken p m) p.dst p.launch k cause last wired
      rw [fetchTaken_node] at put
      exact ⟨_, meetInstall_installs may (.inr last), sameMemory_of_mem (mem.trans (fetchTaken_mem m)), put⟩
    · subst is
      have meetings : ((s.fetchTaken p m).coreAt p.dst).meetings = (s.coreAt p.dst).meetings :=
        drop_coreAt Core.meetings (fun _ _ => rfl) p p.dst
      obtain ⟨mem, left⟩ := installMoved_failed (s := s.fetchTaken p m) p.launch k cause (meetings ▸ List.mem_of_find?_eq_some found)
      have own : m.id = id := by simpa using List.find?_some found
      exact ⟨_, meetInstall_installs may (.inl rfl), sameMemory_of_mem (mem.trans (fetchTaken_mem m)), _, left, own, rfl, rfl⟩

end Sys2Proof.Machine
end

section
/-! The deque unit (R165 to R178): dispatch of task records, handoffs and steals; O48. -/

namespace Sys2Proof.Machine

variable {s : State} {p : Packet}

/-! ### Idle strands -/

theorem mayDispatch_strand {core i : Nat} (may : s.mayDispatch core i = true) :
    ((s.coreAt core).strand i).idle = true ∧ i < (s.coreAt core).strands.length := by
  simp only [State.mayDispatch, State.mayTakeNew, Bool.and_eq_true] at may
  obtain ⟨⟨⟨-, idle⟩, -⟩, -⟩ := may
  refine ⟨idle, ?_⟩
  by_contra beyond
  rw [Core.strand, List.getD_eq_default _ _ (Nat.le_of_not_lt beyond)] at idle
  exact absurd idle (by decide)

theorem mayDispatch_meeting {core i : Nat} (may : s.mayDispatch core i = true) : ((s.coreAt core).strand i).meeting = none := by
  have idle := (mayDispatch_strand may).1
  simp only [Strand.idle, Bool.and_eq_true, Option.isNone_iff_eq_none] at idle
  exact idle.2

/-! ### Dispatch -/

/-- A record starts in a new context at a handler of its task's bounds. -/
theorem startRecord_starts {k strand : Nat} {kind : CtxKind} {h w0 w1 w2 c0 c1 : Word} (bounds : (s.taskAt k).inHbnd h = true) :
    let u := s.startRecord k strand kind h w0 w1 w2 c0 c1
    u.mem = s.mem ∧ u.taskAt k = s.taskAt k ∧ (u.ctxAt s.nextCtx).status = .running ∧ (u.ctxAt s.nextCtx).kind = kind ∧
      (u.ctxAt s.nextCtx).pc = h ∧ (u.ctxAt s.nextCtx).strand = strand ∧ (u.ctxAt s.nextCtx).file.get 1 0 = w1 := by
  intro u
  have run : u = (let t := ((s.newCtx k strand kind h w0 w1 w2).2.focus s.nextCtx)
      t.setCtx { t.ctx with cur0 := c0, cur1 := c1 }) := if_pos bounds
  have ctx : u.ctxAt s.nextCtx = { ((s.newCtx k strand kind h w0 w1 w2).2.ctxAt s.nextCtx) with cur0 := c0, cur1 := c1 } := by
    rw [run]
    exact AMap.get_set_same _ _ _ _
  have made : ((s.newCtx k strand kind h w0 w1 w2).2.ctxAt s.nextCtx) = _ := AMap.get_set_same _ _ _ _
  rw [ctx, made]
  exact ⟨by rw [run]; rfl, by rw [run]; rfl, rfl, rfl, rfl, rfl, rfl⟩

theorem popOn_mem' {k : Nat} {r : Record} {v : State} (pops : s.popOn k = .ok (some (r, v))) : v.mem = s.mem := by
  have only : tasksOnly s v := by
    unfold State.popOn at pops
    dsimp only at pops
    obtain ⟨q, hq⟩ : ∃ q, (s.taskAt k).pop.map (fun p => (p.1, s.putTask k p.2)) = q := ⟨_, rfl⟩
    split at pops
    · obtain ⟨_, -, pops⟩ := bind_ok.mp pops
      obtain ⟨q, -, same⟩ := Option.map_eq_some_iff.mp (Except.ok.inj pops)
      cases same
      exact putTask_only _ _
    · obtain ⟨q, -, same⟩ := Option.map_eq_some_iff.mp (Except.ok.inj pops)
      cases same
      exact putTask_only _ _
  exact only.mem

theorem dispatch_task {k : Nat} {t : Task} {r : Record} {v : State} (may : s.mayDispatch s.place.a s.place.b = true)
    (first : ((s.tasksOf s.place.a).find? fun p => p.2.pop.isSome && (s.freeArea p.1).isSome) = some (k, t))
    (pops : s.popOn k = .ok (some (r, v))) (task : bits r.d0 63 61 = 6) :
    exec .dispatch s = .next ((v.putCore s.place.a ((v.coreAt s.place.a).foundWork s.place.b)).startRecord k s.place.b .task
      ((v.taskAt k).cbase + Word.of (4 * bits r.d0 51 32)) (Word.of (bits r.d0 31 0)) r.d1 (recordFlags r) 0 0) := by
  rw [show exec .dispatch s = execDispatch s from rfl, execDispatch]
  simp only [mayDispatch_meeting may, may, Bool.not_true, Bool.false_eq_true, if_false, first, pops]
  exact happen_orFail (if_pos task)

/-! ### Handoffs -/

theorem drop_room {key : Nat} (room : (s.taskAt key).deque.length + (s.taskAt key).reserved < 256) :
    ((s.drop p).taskAt key).deque.length + ((s.drop p).taskAt key).reserved < 256 := by
  rw [drop_taskAt Task.deque (fun _ _ => rfl), drop_taskAt Task.reserved (fun _ _ => rfl)]
  exact room

theorem handoffArrive_pushes {r : Record} {t : State} (there : s.packet s.place.a = some p) (turn : s.mayApply p = true)
    (kind : p.kind = .handoff r) (pushed : (s.drop p).pushOn (taskKey p.launch p.dst) r = .ok t) : exec .handoffArrive s = .next t := by
  rw [show exec .handoffArrive s = execHandoffArrive s from rfl, execHandoffArrive, there]
  simp only [kind]
  exact happen_ok (need_then turn pushed)

/-! ### Steals at the victim -/

theorem takeUnpinned_length (n : Nat) (rs : List Record) : (takeUnpinned n rs).1.length ≤ n := by
  induction rs generalizing n with
  | nil => cases n <;> simp [takeUnpinned]
  | cons r rs ih =>
    cases n with
    | zero => simp [takeUnpinned]
    | succ n =>
      unfold takeUnpinned
      split
      · exact ih (n + 1)
      · exact Nat.succ_le_succ (ih n)

/-- A task without spilled blocks yields records of its deque, at most 15. -/
theorem yield_resident {t : Task} (none : t.spilled = []) :
    t.yield = ((takeUnpinned t.yields t.deque).1, { t with deque := (takeUnpinned t.yields t.deque).2 }) := by
  cases t
  subst none
  rfl

theorem yield_length {t : Task} (none : t.spilled = []) : t.yield.1.length ≤ 15 := by
  rw [yield_resident none]
  exact (takeUnpinned_length _ _).trans (Nat.min_le_right _ _)

theorem drop_left (left : p.left = true) : s.drop p = { s with net := s.net.filter fun q => decide (q.id ≠ p.id) } := by
  rw [State.drop, left]
  rfl

theorem left_of_mayApply (turn : s.mayApply p = true) : p.left = true := by
  simp only [State.mayApply, Bool.and_eq_true] at turn
  exact turn.1.1.1.1

/-- The state in which a victim's task without spilled blocks has answered a request. The model sizes the reply by the spilled blocks
that it has read, of which there are none. -/
def State.yielded (s : State) (p : Packet) (i : Nat) : State :=
  let k := taskKey p.launch p.dst
  let t := s.taskAt k
  ((s.drop p).putTask k t.yield.2).emitHeld 2 p.dst p.src p.launch 0 (.stealRep i t.yield.1)

theorem stealRequest_yields {i : Nat} (there : s.packet s.place.a = some p) (turn : s.mayApply p = true) (kind : p.kind = .stealReq i)
    (runs : s.taskRuns (s.taskAt (taskKey p.launch p.dst)) = true) (resident : (s.taskAt (taskKey p.launch p.dst)).spilled = [])
    (room : s.stealRoom p.dst (if (s.taskAt (taskKey p.launch p.dst)).yield.1.isEmpty then 32
      else 16 * (s.taskAt (taskKey p.launch p.dst)).yield.1.length) = true) :
    exec .stealRequest s = .next (s.yielded p i) := by
  have left := left_of_mayApply turn
  have may := Bool.and_eq_true_iff.mpr ⟨turn, room⟩
  have none : blocksRead (s.taskAt (taskKey p.launch p.dst)).yields (s.taskAt (taskKey p.launch p.dst)).spilled = 0 := by
    rw [resident]; rfl
  have dropped : (s.drop p).taskRuns (s.taskAt (taskKey p.launch p.dst)) = true := by rw [drop_left left]; exact runs
  have kept : { (s.taskAt (taskKey p.launch p.dst)).yield.2 with
      extents := ((s.drop p).taskAt (taskKey p.launch p.dst)).extents
      xrefill := ((s.drop p).taskAt (taskKey p.launch p.dst)).xrefill } = (s.taskAt (taskKey p.launch p.dst)).yield.2 := by
    rw [drop_left left]
    rfl
  rw [show exec .stealRequest s = execStealRequest s from rfl, execStealRequest, there]
  simp only [kind, runs, if_true, none, List.range_zero, List.foldlM_nil]
  refine happen_orFail (need_then may (ok_then rfl ?_))
  simp only [dropped, if_true, kept]
  rfl

/-! ### Answers of steals -/

theorem pushOn_reserved {k : Nat} {r : Record} {t : State} (room : (s.taskAt k).deque.length + (s.taskAt k).reserved < 256)
    (pushed : s.pushOn k r = .ok t) : (t.taskAt k).reserved = (s.taskAt k).reserved := by
  rw [State.pushOn, roomOn_of_room room] at pushed
  rw [← Except.ok.inj pushed]
  exact (congrArg Task.reserved (putTask_taskAt_same _ k _)).trans (congrArg Task.reserved (putTask_taskAt_same s k (s.taskAt k)) :)

/-- Records that fit are pushed in their order. -/
theorem pushes_of_room {k : Nat} {rs : List Record} (room : (s.taskAt k).deque.length + (s.taskAt k).reserved + rs.length ≤ 256) :
    ∃ t, rs.foldlM (fun s r => s.pushOn k r) s = .ok t ∧ t.mem = s.mem ∧ t.net = s.net ∧ (t.taskAt k).deque = (s.taskAt k).deque ++ rs := by
  induction rs generalizing s with
  | nil => exact ⟨s, rfl, rfl, rfl, by simp⟩
  | cons r rs ih =>
    rw [List.length_cons] at room
    have first : (s.taskAt k).deque.length + (s.taskAt k).reserved < 256 := by omega
    obtain ⟨t, pushed, mem, net, deque⟩ := pushOn_of_room (r := r) first
    have reserved : (t.taskAt k).reserved = (s.taskAt k).reserved := pushOn_reserved first pushed
    obtain ⟨u, rest, umem, unet, udeque⟩ := ih (s := t) (by rw [deque, reserved, List.length_append, List.length_singleton]; omega)
    refine ⟨u, ?_, umem.trans mem, unet.trans net, by rw [udeque, deque]; simp⟩
    rw [List.foldlM_cons]
    exact ok_then pushed rest

/-- A strand of a core has the answer of its request. -/
def Strand.answered (st : Strand) (none : Bool) : Strand := { st with asking := false, stealAt := if none then st.stealAt else Option.none }

theorem stealReply_lands {i : Nat} {rs : List Record} {t : State} (there : s.packet s.place.a = some p) (turn : s.mayApply p = true)
    (kind : p.kind = .stealRep i rs) (pushed : rs.foldlM (fun s r => s.pushOn (taskKey p.launch p.dst) r) (s.drop p) = .ok t) :
    exec .stealReply s = .next (t.putCore p.dst { t.coreAt p.dst with
      strands := (t.coreAt p.dst).strands.modify i fun st => st.answered rs.isEmpty }) := by
  rw [show exec .stealReply s = execStealReply s from rfl, execStealReply, there]
  simp only [kind]
  exact happen_ok (need_then turn (ok_then pushed rfl))

theorem strand_answered (c : Core) (i : Nat) (none : Bool) :
    (Core.strand { c with strands := c.strands.modify i fun st => st.answered none } i).asking = false := by
  by_cases there : i < c.strands.length
  · rw [strand_modify _ _ _ there]
    rfl
  · rw [strand_modify_out _ _ _ there]
    rfl

/-! ### Rounds of steals -/

/-- The strands of a core with one of them changed. -/
def State.setStrand (s : State) (core i : Nat) (f : Strand → Strand) : State :=
  s.putCore core { s.coreAt core with strands := (s.coreAt core).strands.modify i f }

theorem setStrand_strand {core i : Nat} (f : Strand → Strand) (there : i < (s.coreAt core).strands.length) :
    ((s.setStrand core i f).coreAt core).strand i = f ((s.coreAt core).strand i) := by
  rw [State.setStrand, putCore_coreAt_same]
  exact strand_modify _ _ f there

theorem setStrand_length (core i : Nat) (f : Strand → Strand) :
    ((s.setStrand core i f).coreAt core).strands.length = (s.coreAt core).strands.length := by
  rw [State.setStrand, putCore_coreAt_same, List.length_modify]

theorem setStrand_stealRoom (core i n : Nat) (f : Strand → Strand) : (s.setStrand core i f).stealRoom core n = s.stealRoom core n := by
  simp only [State.stealRoom, State.sqRoom, State.setStrand, putCore_coreAt_same, if_true]

/-- The state in which a round has begun, where it had not. -/
def State.roundBegun (s : State) (core i : Nat) : State :=
  if ((s.coreAt core).strand i).stealAt.isNone then s.setStrand core i fun st => { st with round := (s.coreAt core).cyc, resting := false } else s

/-- What a turn of a round leaves alone before its request or its end. -/
structure roundOf (s t : State) (core i : Nat) : Prop where
  mem : t.mem = s.mem
  net : t.net = s.net
  steals : t.stealList core = s.stealList core
  room : t.stealRoom core 32 = s.stealRoom core 32
  length : (t.coreAt core).strands.length = (s.coreAt core).strands.length

theorem roundBegun_of (core i : Nat) : roundOf s (s.roundBegun core i) core i := by
  unfold State.roundBegun
  split
  · exact ⟨rfl, rfl, rfl, setStrand_stealRoom _ _ _ _, setStrand_length _ _ _⟩
  · exact ⟨rfl, rfl, rfl, rfl, rfl⟩

/-- A strand that may take a turn of a round of steals. -/
structure maySteal (s : State) : Prop where
  dispatches : s.mayDispatch s.place.a s.place.b = true
  quiet : ((s.coreAt s.place.a).strand s.place.b).asking = false
  none : ∀ p ∈ s.tasksOf s.place.a, p.2.pop = .none
  begins : ((s.coreAt s.place.a).strand s.place.b).stealAt ≠ .none ∨
    (s.coreAt s.place.a).mayRound ((s.coreAt s.place.a).strand s.place.b) = true

theorem maySteal.opens (may : maySteal s) : (s.mayDispatch s.place.a s.place.b && !((s.coreAt s.place.a).strand s.place.b).asking &&
    (((s.coreAt s.place.a).strand s.place.b).stealAt.isSome || (s.coreAt s.place.a).mayRound ((s.coreAt s.place.a).strand s.place.b)) &&
    (s.tasksOf s.place.a).all fun p => p.2.pop.isNone) = true := by
  have all : ((s.tasksOf s.place.a).all fun p => p.2.pop.isNone) = true :=
    List.all_eq_true.mpr fun p there => by rw [may.none p there]; rfl
  have begins : (((s.coreAt s.place.a).strand s.place.b).stealAt.isSome ||
      (s.coreAt s.place.a).mayRound ((s.coreAt s.place.a).strand s.place.b)) = true := by
    rw [Bool.or_eq_true, Option.isSome_iff_ne_none]
    exact may.begins
  rw [may.dispatches, may.quiet, begins, all]
  rfl

/-- A strand that has asked the victim of this number of its round. -/
def Strand.asks (st : Strand) (i : Nat) : Strand := { st with asking := true, stealAt := some (i + 1) }

/-- The state of a core in which a strand of a round asks. -/
def State.roundAsks (s : State) (core i : Nat) : State :=
  (s.roundBegun core i).setStrand core i fun st => st.asks (((s.coreAt core).strand i).stealAt.getD 0)

theorem stealRound_asks (may : maySteal s) {l v : Nat}
    (next : (s.stealList s.place.a)[((s.coreAt s.place.a).strand s.place.b).stealAt.getD 0]? = some (l, v))
    (room : s.stealRoom s.place.a 32 = true) :
    exec .stealRound s = .next ((s.roundAsks s.place.a s.place.b).emitHeld 2 s.place.a v l 32 (.stealReq s.place.b)) := by
  have same := roundBegun_of (s := s) s.place.a s.place.b
  rw [← same.steals] at next
  rw [← same.room] at room
  rw [show exec .stealRound s = execStealRound s from rfl, execStealRound]
  refine (if_pos may.opens).trans ?_
  unfold State.roundAsks
  unfold State.roundBegun State.setStrand at next room ⊢
  simp only [next, room, if_true]
  rfl

theorem stealRound_rests (may : maySteal s)
    (ends : (s.stealList s.place.a)[((s.coreAt s.place.a).strand s.place.b).stealAt.getD 0]? = none) :
    exec .stealRound s = .next ((s.roundBegun s.place.a s.place.b).setStrand s.place.a s.place.b fun st =>
      { st with stealAt := none, resting := true }) := by
  have same := roundBegun_of (s := s) s.place.a s.place.b
  rw [← same.steals] at ends
  rw [show exec .stealRound s = execStealRound s from rfl, execStealRound]
  refine (if_pos may.opens).trans ?_
  unfold State.roundBegun State.setStrand at ends ⊢
  simp only [ends]

/-- Settles O48: a dispatch, the packets of handoffs and steals, and a round of steals, each by its equation. -/
theorem dequeUnitRuns : Obligations.DequeUnitRuns := by
  unfold Obligations.DequeUnitRuns
  refine ⟨?dispatch, ?packets, ?rounds⟩
  case dispatch =>
    intro s v k t r core h may first pops task bounds _
    obtain ⟨mem, kept, rest⟩ := startRecord_starts (s := v.putCore core ((v.coreAt core).foundWork s.place.b)) (k := k) (strand := s.place.b)
      (kind := .task) (h := h) (w0 := Word.of (bits r.d0 31 0)) (w1 := r.d1) (w2 := recordFlags r) (c0 := 0) (c1 := 0) bounds
    exact ⟨_, dispatch_task may first pops task, sameMemory_of_mem (mem.trans (popOn_mem' (v := v) pops :)), kept, rest⟩
  case packets =>
    intro s p key t gone there turn
    refine ⟨fun r kind room => ?_, fun i kind runs resident room => ?_, fun i rs kind room => ?_⟩
    · obtain ⟨u, pushed, mem, net, deque⟩ := pushOn_of_room (s := s.drop p) (r := r) (drop_room (p := p) room)
      refine ⟨u, handoffArrive_pushes there turn kind pushed, sameMemory_of_mem (mem.trans (drop_mem s p)), net.trans (drop_net p), ?_⟩
      rw [deque, drop_taskAt Task.deque (fun _ _ => rfl)]
    · refine ⟨_, heldPacket ((s.drop p).putTask key t.yield.2) 2 p.dst p.src p.launch 0 (.stealRep i t.yield.1), stealRequest_yields there turn
        kind runs resident room, sameMemory_of_mem ?_, ?_, ?_, rfl, rfl, yield_length resident⟩
      · exact (emitHeld_mem _ _ _ _ _ _ _).trans (drop_mem s p)
      · exact (putTask_taskAt_same _ _ _)
      · exact (emitHeld_net _ _ _ _ _ _).trans (congrArg (· ++ [_]) (drop_net p))
    · have fits : ((s.drop p).taskAt key).deque.length + ((s.drop p).taskAt key).reserved + rs.length ≤ 256 := by
        rw [drop_taskAt Task.deque (fun _ _ => rfl), drop_taskAt Task.reserved (fun _ _ => rfl)]
        exact room
      obtain ⟨u, pushed, mem, net, deque⟩ := pushes_of_room fits
      refine ⟨_, stealReply_lands there turn kind pushed, sameMemory_of_mem (mem.trans (drop_mem s p)), net.trans (drop_net p), ?_, ?_⟩
      · exact deque.trans (by rw [drop_taskAt Task.deque (fun _ _ => rfl)])
      · rw [putCore_coreAt_same]
        exact strand_answered _ _ _
  case rounds =>
    intro s core c st dispatches quiet none begins
    have may : maySteal s := ⟨dispatches, quiet, none, begins⟩
    have same := roundBegun_of (s := s) core s.place.b
    have bound : s.place.b < ((s.roundBegun core s.place.b).coreAt core).strands.length := same.length ▸ (mayDispatch_strand dispatches).2
    refine ⟨fun l v next room => ?_, fun ends => ?_⟩
    · refine ⟨_, heldPacket (s.roundAsks core s.place.b) 2 core v l 32 (.stealReq s.place.b),
        stealRound_asks may next room, sameMemory_of_mem ((emitHeld_mem _ _ _ _ _ _ _).trans same.mem), ?_, rfl, rfl, rfl, ?_⟩
      · exact (emitHeld_net _ _ _ _ _ _).trans (congrArg (· ++ [_]) same.net)
      · exact (emitHeld_coreAt (fun c => (c.strand s.place.b).asking) (fun _ _ => rfl) _ _ _ _ _ _ _).trans
          (congrArg Strand.asking (setStrand_strand _ bound))
    · refine ⟨_, stealRound_rests may ends, sameMemory_of_mem same.mem, ?_, ?_⟩
      · exact congrArg Strand.stealAt (setStrand_strand _ bound)
      · exact congrArg Strand.resting (setStrand_strand _ bound)

end Sys2Proof.Machine
end

section
/-! Contexts that park, resume and take an event, long links and extents (R80, R88, R284, R349 to R351); O49. -/

namespace Sys2Proof.Machine

variable {s : State}

/-! ### Parking -/

theorem stopVredq_ctx : s.stopVredq.ctx = s.ctx ∨ s.stopVredq.ctx = { s.ctx with await := .none } := by
  unfold State.stopVredq
  split
  · exact .inr (setCtx_ctx _ _)
  · exact .inl rfl

theorem stopVredq_cur : s.stopVredq.cur = s.cur := by
  unfold State.stopVredq
  split <;> rfl

theorem stopVredq_tasks : s.stopVredq.tasks = s.tasks := by
  unfold State.stopVredq
  split <;> rfl

/-- A reduction that stops leaves the context's program and window alone. -/
theorem stopVredq_window : s.stopVredq.ctx.file = s.ctx.file ∧ s.stopVredq.ctx.base = s.ctx.base ∧ s.stopVredq.ctx.pc = s.ctx.pc ∧
    s.stopVredq.ctx.low = s.ctx.low ∧ s.stopVredq.ctx.wsp = s.ctx.wsp ∧ s.stopVredq.ctx.core = s.ctx.core := by
  rcases stopVredq_ctx (s := s) with same | none
  · rw [same]; exact ⟨rfl, rfl, rfl, rfl, rfl, rfl⟩
  · rw [none]; exact ⟨rfl, rfl, rfl, rfl, rfl, rfl⟩

theorem stopVredq_task : s.stopVredq.task = s.task := by rw [State.task, stopVredq_tasks, stopVredq_cur]; rfl

theorem spillGroups_globals (g : Nat) (c : Context) (s : State) : (spillGroups g c s).2.task.globals = s.task.globals := by
  induction g generalizing c s with
  | zero => rfl
  | succ g ih => exact (ih _ _).trans (write_task Task.globals (fun _ _ => rfl) (fun _ _ => rfl) _ _)

/-- Spilling every resident entry moves the spill pointer and L alone. -/
theorem spillAll_ctx : s.spillAll.ctx = { s.ctx with
    wsp := s.ctx.wsp + Word.of (32 * ((s.ctx.base + 32 - s.ctx.low) / 4)), low := s.ctx.low + 4 * ((s.ctx.base + 32 - s.ctx.low) / 4) } := by
  rw [State.spillAll, setCtx_ctx, spillGroups_ctx]

theorem spillAll_globals : s.spillAll.task.globals = s.task.globals := spillGroups_globals _ _ _

/-- The bytes of a context's entries are those of one with the same core and spill pointer. -/
theorem spillBytes_congr {c d : Context} (core : c.core = d.core) (wsp : c.wsp = d.wsp) (g a : Nat) : spillBytes c g a ↔ spillBytes d g a := by
  simp only [spillBytes, spillKey, core, wsp]

/-- A context that parks: its entries are spilled, and it waits without its strand. -/
def State.parks (s : State) : State :=
  let t := s.stopVredq.spillAll
  let u := t.setCtx { t.ctx with
    status := .parked, waitStart := match t.ctx.await with | .park _ _ _ => t.ctx.waitStart | _ => none }
  u.freeStrand u.ctx

theorem parkContext_parks {start : Word} (waits : (s.focus s.place.a).ctx.waitStart = some start)
    (status : (s.focus s.place.a).ctx.status = .waiting) (engine : (s.focus s.place.a).engine ≠ .hart)
    (due : parkDue (s.focus s.place.a).ctx.parkthr start (s.focus s.place.a).core.cyc = true)
    (few : (s.focus s.place.a).parkedOn (s.focus s.place.a).ctx.core < 12) (room : (s.focus s.place.a).ctx.parkRoom = true)
    (parks : (s.focus s.place.a).ctx.await.parks = true) : exec .parkContext s = .next (s.focus s.place.a).parks := by
  rw [show exec .parkContext s = execParkContext s from rfl, execParkContext]
  simp only [waits, status, ne_eq, engine, not_false_eq_true, due, few, room, parks, decide_true, Bool.and_self, if_true]
  rfl

theorem parks_ctx : ∃ w, s.parks.ctx = { s.stopVredq.spillAll.ctx with status := .parked, waitStart := w } :=
  ⟨_, setCtx_ctx _ _⟩

theorem parks_regs : sameRegs s s.parks := by
  obtain ⟨file, base, -⟩ := stopVredq_window (s := s)
  obtain ⟨w, ctx⟩ := parks_ctx (s := s)
  rw [spillAll_ctx] at ctx
  refine reg_congr ?_ ?_ ?_
  · rw [ctx]; exact file
  · rw [ctx]; exact base
  · exact spillAll_globals.trans (by rw [stopVredq_task])

theorem parks_pc : s.parks.pc = s.pc := by
  obtain ⟨-, -, pc, -⟩ := stopVredq_window (s := s)
  obtain ⟨w, ctx⟩ := parks_ctx (s := s)
  rw [spillAll_ctx] at ctx
  rw [State.pc, ctx]
  exact pc

theorem parks_mem (form : memoryForm s) (a : Nat) (apart : ¬ spillBytes s.ctx ((s.ctx.base + 32 - s.ctx.low) / 4) a) :
    Memory.get s.parks.mem a = Memory.get s.mem a := by
  obtain ⟨-, base, -, low, wsp, core⟩ := stopVredq_window (s := s)
  have spilled := (spillGroups_mem ((s.stopVredq.ctx.base + 32 - s.stopVredq.ctx.low) / 4) s.stopVredq.ctx s.stopVredq
    (form_of_mem (stopVredq_mem s) form)).2 a ?_
  · exact spilled.trans (by rw [stopVredq_mem])
  · rw [spillBytes_congr core wsp, base, low]
    exact apart

/-! ### Resumption -/

theorem fillGroups_kept {β : Type} (g : Context → β) (window : ∀ c f l w, g { c with file := f, low := l, wsp := w } = g c) (n : Nat)
    (c : Context) (s : State) : g (fillGroups n c s).1 = g c := by
  have kept := fillGroups_fst n c s
  rw [← window (fillGroups n c s).1 c.file c.low c.wsp, kept]

theorem shrinkGrant_pc (c : Context) : (shrinkGrant c).pc = c.pc := by
  unfold shrinkGrant
  split <;> rfl

theorem resumeContext_resumes {k : Nat} (idle : ((s.coreAt s.place.a).strand s.place.b).idle = true)
    (free : (s.coreAt s.place.a).cfence = false) (next : s.nextResume s.place.a = some k) :
    exec .resumeContext s = .next (s.resumeOn s.place.a s.place.b k) := by
  rw [show exec .resumeContext s = execResumeContext s from rfl, execResumeContext]
  simp only [idle, free, Bool.not_false, Bool.and_self, if_true, next]

theorem resumeOn_ctx (core strand k : Nat) :
    ∃ t : State, t.mem = s.mem ∧ (s.resumeOn core strand k).mem = s.mem ∧ (s.resumeOn core strand k).ctxAt k =
      (fillGroups 64 { shrinkGrant (s.ctxAt k) with status := .running, strand := strand } t).1 := by
  let t : State := (s.putCore core { s.coreAt core with
    parked := (s.coreAt core).parked.filter fun c => decide (c ≠ k)
    strands := (s.coreAt core).strands.modify strand fun st => { st with ctx := some k, stealAt := none, resting := false } }).focus k
  have made : s.resumeOn core strand k =
      t.setCtx (fillGroups 64 { shrinkGrant (s.ctxAt k) with status := .running, strand := strand } t).1 :=
    congrArg (fun u : State => u.setCtx (fillGroups 64 { shrinkGrant (s.ctxAt k) with status := .running, strand := strand } t).1)
      (fillGroups_snd 64 _ t)
  exact ⟨t, rfl, by rw [made]; rfl, by rw [made]; exact AMap.get_set_same _ _ _ _⟩

/-! ### Delivery -/

theorem leaveLines_ctx (k : Nat) : (s.leaveLines k).ctx = s.ctx ∧ (s.leaveLines k).tasks = s.tasks := by
  unfold State.leaveLines
  dsimp only
  split <;> exact ⟨rfl, rfl⟩

/-- The context that takes an event. -/
def Context.interrupted (c : Context) (e : UEvent) (es : List UEvent) : Context :=
  { c with uicause := e.source, xid := e.id, uipc := c.pc, inui := true, pending := es, status := .running, waitStart := none, await := .none }

/-- A context whose wait is over, in no line of its mast any more. -/
def State.waitLeft (s : State) : State := (s.leaveLines s.cur.ctx).stopVredq

theorem waitLeft_ctx : s.waitLeft.ctx.pending = s.ctx.pending ∧ s.waitLeft.ctx.pc = s.ctx.pc ∧ s.waitLeft.task = s.task := by
  obtain ⟨ctx, tasks⟩ := leaveLines_ctx (s := s) s.cur.ctx
  have task : s.waitLeft.task = s.task := by
    rw [State.waitLeft, stopVredq_task, State.task, tasks, leaveLines_cur]
    rfl
  rcases stopVredq_ctx (s := s.leaveLines s.cur.ctx) with same | none
  · rw [State.waitLeft, same, ctx]; exact ⟨rfl, rfl, task⟩
  · rw [State.waitLeft, none, ctx]; exact ⟨rfl, rfl, task⟩

theorem deliver_interrupts {e : UEvent} {es : List UEvent} (pending : s.ctx.pending = e :: es) (apart : ∀ d a b, s.ctx.await ≠ .park d a b) :
    s.deliver = (((s.waitLeft.setCtx (s.waitLeft.ctx.interrupted e es)).slideUp 32).setPc
      (if e.handler ≠ 0 then e.handler else s.task.uivec)) := by
  obtain ⟨left, -, task⟩ := waitLeft_ctx (s := s)
  rw [pending] at left
  unfold State.deliver
  unfold State.waitLeft at left task ⊢
  simp only [(leaveLines_ctx (s := s) s.cur.ctx).1, left, setCtx_task, task]
  rfl

/-- A slide changes the place of the window and the spilled part, and no other field of the context. -/
theorem slideUp_keeps {β : Type} (g : Context → β) (kept : ∀ c w l b f, g { c with wsp := w, low := l, base := b, file := f } = g c)
    (t : State) (n : Nat) : g (t.slideUp n).ctx = g t.ctx := by
  have raised (c : Context) : g (c.raise n) = g c := kept c c.wsp c.low _ _
  rw [slideUp_ctx, raised]
  exact kept t.ctx _ _ t.ctx.base t.ctx.file

theorem setPc_keeps {β : Type} (g : Context → β) (kept : ∀ c p, g { c with pc := p } = g c) (t : State) (a : Word) :
    g (t.setPc a).ctx = g t.ctx := by
  rw [setPc_eq, setCtx_ctx, kept]

theorem setPc_reg (t : State) (a : Word) (r : Reg) : (t.setPc a).reg r = t.reg r :=
  reg_congr (setPc_keeps Context.file (fun _ _ => rfl) t a) (setPc_keeps Context.base (fun _ _ => rfl) t a) rfl r

/-- A handler that is entered in a fresh window keeps what has been saved for it. -/
theorem freshWindow {β : Type} (g : Context → β) (moved : ∀ c w l b f, g { c with wsp := w, low := l, base := b, file := f } = g c)
    (jumped : ∀ c p, g { c with pc := p } = g c) (t : State) (a : Word) : g ((t.slideUp 32).setPc a).ctx = g t.ctx :=
  (setPc_keeps g jumped _ a).trans (slideUp_keeps g moved t 32)

theorem deliverEvent_delivers (may : (s.focus s.place.a).deliverable = true) (free : (s.focus s.place.a).core.cfence = false)
    (runs : (s.focus s.place.a).runs (s.focus s.place.a).cur.launch = true) : exec .deliverEvent s = .next (s.focus s.place.a).deliver := by
  rw [show exec .deliverEvent s = execDeliverEvent s from rfl, execDeliverEvent]
  simp only [may, free, runs, Bool.not_false, Bool.and_self, if_true]

/-! ### Extents -/

theorem setLeafBits_taskAt {β : Type} (g : Task → β) (count : ∀ t n, g { t with bcec := n } = g t) (arm : ∀ t w, g { t with binj := w } = g t)
    (b : Nat) (ls : List Leaf) (j : Nat) : g ((s.setLeafBits b ls).taskAt j) = g (s.taskAt j) := by
  refine foldl_rule (P := fun t : State => g (t.taskAt j) = g (s.taskAt j)) (fun t l same => ?_) ls rfl
  split
  · exact same
  · exact (write_taskAt g count arm _ _ _).trans same

theorem setLeafBits_masts (b : Nat) (ls : List Leaf) : (s.setLeafBits b ls).masts = s.masts := by
  refine foldl_rule (P := fun t : State => t.masts = s.masts) (fun t l same => ?_) ls rfl
  split
  · exact same
  · obtain ⟨_, _, _, h⟩ := write_rest t l.key (toBytes 8 (t.dbl l.key ||| Word.of (2 ^ b)).toNat)
    exact (congrArg State.masts h).trans same

theorem ownerExtents_setLeafBits (b : Nat) (ls : List Leaf) (k : Nat) : (s.setLeafBits b ls).ownerExtents k = s.ownerExtents k := by
  unfold State.ownerExtents
  rw [setLeafBits_taskAt Task.extents (fun _ _ => rfl) (fun _ _ => rfl), State.mastAt, setLeafBits_masts]
  rfl

theorem ownerExtents_set (k : Nat) (xs : List Extent) : (s.setOwnerExtents k xs).ownerExtents k = xs := by
  unfold State.setOwnerExtents State.ownerExtents
  split
  · rw [putTask_taskAt_same]
  · dsimp only
    rw [putMast_mastAt_same, hy_setHy]

theorem ownerExtents_countFill (k : Nat) : (s.countFill k).ownerExtents k = s.ownerExtents k := by
  unfold State.countFill State.ownerExtents
  split
  · rw [putTask_taskAt_same]
  · rfl

/-- A fill gives its owner the extent, and counts in the owner's task. -/
theorem filled_end (k : Nat) (rs : List Range) (r : Range) (f : Fill) :
    (s.filled k rs r f).ownerExtents k = addExtent (s.ownerExtents k) (f.extent r (rs.findIdx fun x => decide (x = r))) ∧
      (k < hyOwner → ((s.filled k rs r f).taskAt k).xrefill = Nat.min ((s.taskAt k).xrefill + 1) (2 ^ 32 - 1)) := by
  constructor
  · rw [State.filled, ownerExtents_countFill, ownerExtents_set, ownerExtents_setLeafBits]
  · intro task
    have counted := setLeafBits_taskAt (s := s) Task.xrefill (fun _ _ => rfl) (fun _ _ => rfl) 6 f.leaves k
    unfold State.filled State.countFill State.setOwnerExtents
    simp only [if_pos task, putTask_taskAt_same, counted]

theorem dirtied_end (k : Nat) (x : Extent) (ls : List Leaf) :
    (s.dirtied k x ls).ownerExtents k = (s.ownerExtents k).map fun y => if y = x then { y with warm := false } else y := by
  rw [State.dirtied, ownerExtents_set, ownerExtents_setLeafBits]

theorem extentFill_fills {r : Range} {f : Fill} (range : rangeOf (s.launchAt (s.ownerLaunch s.place.a)).ranges s.place.b 1 = some r)
    (runs : s.launchRuns (s.ownerLaunch s.place.a) = true) (miss : extentOf (s.ownerExtents s.place.a) s.place.b = none)
    (walks : s.fillFor (s.ownerLaunch s.place.a) r s.place.b = .ok f) :
    exec .extentFill s = .next (s.filled s.place.a (s.launchAt (s.ownerLaunch s.place.a)).ranges r f) := by
  rw [show exec .extentFill s = execExtentFill s from rfl, execExtentFill]
  simp only [range, runs, miss, Option.isNone_none, Bool.and_self, if_true, walks]

theorem dirtyRequest_dirties {x : Extent} {ls : List Leaf} (found : extentOf (s.ownerExtents s.place.a) s.place.b = some x)
    (warm : x.warm = true) (runs : s.launchRuns (s.ownerLaunch s.place.a) = true)
    (leaves : s.extentLeaves (s.ownerLaunch s.place.a) x = .ok ls) : exec .dirtyRequest s = .next (s.dirtied s.place.a x ls) := by
  rw [show exec .dirtyRequest s = execDirtyRequest s from rfl, execDirtyRequest]
  simp only [found, warm, runs, Bool.and_self, if_true, leaves]

/-! ### Links -/

theorem linkRetrain_toggles (up : (s.linkAt s.place.a).up = true) :
    exec .linkRetrain s = .next { s with links := s.links.set s.place.a { s.linkAt s.place.a with training := !(s.linkAt s.place.a).training } } := by
  rw [show exec .linkRetrain s = execLinkRetrain s from rfl, execLinkRetrain]
  simp only [up, if_true]

theorem linkReroute_moves (up : (s.linkAt s.place.a).up = true) (trains : (s.linkAt s.place.a).training = true)
    (own : (s.linkAt s.place.a).rerouted = false) :
    exec .linkReroute s = .next { s with links := s.links.set s.place.a { s.linkAt s.place.a with rerouted := true } } := by
  rw [show exec .linkReroute s = execLinkReroute s from rfl, execLinkReroute]
  simp only [up, trains, own, Bool.not_false, Bool.and_self, if_true]

/-- Settles O49: each event by its equation. -/
theorem contextsLinksAndExtents : Obligations.ContextsLinksAndExtents := by
  unfold Obligations.ContextsLinksAndExtents
  refine ⟨⟨?parks, ?resumes, ?delivers⟩, fun s => ?links⟩
  case parks =>
    intro s start t c waits status engine due few room parks
    obtain ⟨w, ctx⟩ := parks_ctx (s := t)
    exact ⟨_, parkContext_parks waits status engine due few room parks, by rw [ctx], parks_pc, parks_regs, fun form a apart =>
      parks_mem (s := t) form a apart⟩
  case resumes =>
    intro s k co idle free next
    obtain ⟨t, -, mem, ctx⟩ := resumeOn_ctx (s := s) s.place.a s.place.b k
    refine ⟨_, resumeContext_resumes idle free next, sameMemory_of_mem mem, ?_, ?_, ?_⟩
    · rw [ctx, fillGroups_kept Context.status (fun _ _ _ _ => rfl)]
    · rw [ctx, fillGroups_kept Context.strand (fun _ _ _ _ => rfl)]
    · rw [ctx, fillGroups_kept Context.pc (fun _ _ _ _ => rfl)]
      exact shrinkGrant_pc _
  case delivers =>
    intro s e es t may free runs pending apart
    have run := (deliverEvent_delivers may free runs).trans (congrArg _ (deliver_interrupts pending apart))
    generalize (if e.handler ≠ 0 then e.handler else t.task.uivec) = entry at run
    have kept {β : Type} (g : Context → β) (moved : ∀ c w l b f, g { c with wsp := w, low := l, base := b, file := f } = g c)
        (jumped : ∀ c p, g { c with pc := p } = g c) :=
      (freshWindow g moved jumped (t.waitLeft.setCtx (t.waitLeft.ctx.interrupted e es)) entry).trans (congrArg g (setCtx_ctx _ _))
    exact ⟨_, run, kept Context.inui (fun _ _ _ _ _ => rfl) (fun _ _ => rfl),
      (kept Context.uipc (fun _ _ _ _ _ => rfl) (fun _ _ => rfl)).trans waitLeft_ctx.2.1,
      kept Context.uicause (fun _ _ _ _ _ => rfl) (fun _ _ => rfl), kept Context.xid (fun _ _ _ _ _ => rfl) (fun _ _ => rfl),
      kept Context.pending (fun _ _ _ _ _ => rfl) (fun _ _ => rfl), setPc_pc _ _, fun i => (setPc_reg _ _ _).trans (slideUp_window_reg _ i)⟩
  case links =>
    intro l own xs rs
    refine ⟨fun up => ⟨_, linkRetrain_toggles up, fun _ => rfl, AMap.get_set_same _ _ _ _, rfl⟩,
      fun up trains away => ⟨_, linkReroute_moves up trains away, fun _ => rfl, AMap.get_set_same _ _ _ _, rfl⟩,
      fun r f range runs miss walks => ?_, fun x ls found warm runs leaves => ⟨_, dirtyRequest_dirties found warm runs leaves, dirtied_end _ _ _⟩⟩
    obtain ⟨extents, counts⟩ := filled_end (s := s) s.place.a rs r f
    exact ⟨_, extentFill_fills range runs miss walks, extents, counts⟩

end Sys2Proof.Machine
end

section
/-! Host commands and the queue commands (R358, R359, R361, R370, R391, R392); O50. -/

namespace Sys2Proof.Machine

variable {s : State}

/-! ### The control page (R392) -/

/-- A function's control page holds this. -/
def State.pageSet (s : State) (fn : Nat) (p : CtlPage) : State := { s with pages := s.pages.set fn p }

/-- A command's result in its function's page, and the interrupt that tells its end. -/
def State.answered (s : State) (fn : Nat) (args : List Word) (r : Res) : State :=
  (s.pageSet fn { carg := args, cres := Word.of r.code, run := none }).raise fn 0

/-- How a command that has been tried leaves its page: it runs on, or has ended. -/
def State.afterCommand (s : State) (fn code : Nat) (args carg : List Word) (r : Res) : State :=
  if r = .runs then s.pageSet fn { carg := carg, cres := 2, run := some (code, args) } else s.answered fn carg r

theorem pageSet_page (fn : Nat) (p : CtlPage) : (s.pageSet fn p).page fn = p := AMap.get_set_same _ _ _ _

theorem answered_page (fn : Nat) (args : List Word) (r : Res) :
    (s.answered fn args r).page fn = { carg := args, cres := Word.of r.code, run := none } := AMap.get_set_same _ _ _ _

theorem answered_msix (fn : Nat) (args : List Word) (r : Res) : (s.answered fn args r).plat.msix.head? = some (fn, 0) := rfl

/-- cstat.busy tells whether a command of the function runs. -/
theorem cstat_busy (fn : Nat) : bit (s.cstat fn) 1 = (s.page fn).run.isSome := by
  have stage : (Word.of (16 * s.plat.stage)).getLsbD 1 = false := by
    simp only [Word.of, BitVec.getLsbD_ofNat, show 16 * s.plat.stage = 2 ^ 4 * s.plat.stage from rfl, Nat.testBit_two_pow_mul]
    rfl
  unfold bit State.cstat
  rw [BitVec.getLsbD_or, BitVec.getLsbD_or, stage]
  cases s.plat.ready <;> cases (s.page fn).run.isSome <;> rfl

/-! ### Commands -/

/-- What a command's own work gives: nothing before bring-up has ended. -/
def State.tried (s : State) (f : State → Res × State) : Res × State := if s.plat.ready then f s else (.busy, s)

theorem afterCommand_eq (fn code : Nat) (args : List Word) (p : CtlPage) (r : Res × State) :
    (let run := match r.1 with | .runs => some (code, args) | _ => none
     let u := { r.2 with pages := r.2.pages.set fn { p with cres := Word.of r.1.code, run := run } }
     if run.isSome then u else u.raise fn 0) = r.2.afterCommand fn code args p.carg r.1 := by
  obtain ⟨r, t⟩ := r
  cases r <;> rfl

theorem command_fresh {fn : Nat} (low : fn < 34) (idle : (s.page fn).run = none) (code : Nat) (args : List Word) (f : State → Res × State) :
    s.command fn code args f = (s.tried f).2.afterCommand fn code args args (s.tried f).1 := by
  have still : ¬34 ≤ fn := by omega
  refine .trans ?_ (afterCommand_eq fn code args { s.page fn with carg := args } (s.tried f))
  unfold State.command
  simp only [still, idle, if_false, reduceCtorEq, decide_false, Bool.false_and, Option.isSome_none, Bool.false_eq_true]
  rfl

theorem command_goesOn {fn code : Nat} {args : List Word} (low : fn < 34) (own : (s.page fn).run = some (code, args)) (again : s.place.a = 1)
    (f : State → Res × State) : s.command fn code args f = (s.tried f).2.afterCommand fn code args (s.page fn).carg (s.tried f).1 := by
  have still : ¬34 ≤ fn := by omega
  refine .trans ?_ (afterCommand_eq fn code args (s.page fn) (s.tried f))
  unfold State.command
  simp only [still, own, again, if_false, decide_true, Bool.and_self, if_true, Bool.not_true, Bool.and_false, Bool.false_eq_true]
  rfl

/-- While a command runs, a write of a command changes carg and cres only. -/
theorem command_ignored {fn : Nat} {c : Nat × List Word} (low : fn < 34) (running : (s.page fn).run = some c) (first : s.place.a ≠ 1) (code : Nat)
    (args : List Word) (f : State → Res × State) : s.command fn code args f = s.pageSet fn { carg := args, cres := 2, run := some c } := by
  have still : ¬34 ≤ fn := by omega
  unfold State.command
  simp only [still, running, first, if_false, decide_false, Bool.and_false, Bool.false_eq_true, Option.isSome_some, Bool.not_false,
    Bool.and_self, if_true]
  rfl

/-! ### Outcomes (R361) -/

/-- A command has ended: its result stands in its page, and vector 0 tells it. -/
def commandEnded (s : State) (fn : Nat) (args : List Word) (u : State) : Prop :=
  ∃ r, u.page fn = { carg := args, cres := Word.of (Res.code r), run := none } ∧ r ≠ .runs ∧ u.plat.msix.head? = some (fn, 0) ∧
    bit (u.cstat fn) 1 = false ∧ (s.plat.ready = false → r = .busy ∧ { u with pages := s.pages, plat := s.plat } = s)

/-- A command's work always ends it. -/
def shortWork (f : State → Res × State) : Prop := ∀ s, (f s).1 ≠ .runs

/-- A command's work changes nothing while the command runs on. -/
def longWork (f : State → Res × State) : Prop := ∀ s, (f s).1 = .runs → (f s).2 = s

theorem answered_ended (t : State) (fn : Nat) (args : List Word) {r : Res} (stops : r ≠ .runs)
    (early : s.plat.ready = false → r = .busy ∧ t = s) : commandEnded s fn args (t.answered fn args r) := by
  refine ⟨r, answered_page fn args r, stops, answered_msix fn args r, ?_, fun closed => ?_⟩
  · rw [cstat_busy, answered_page]
    rfl
  · obtain ⟨busy, rfl⟩ := early closed
    exact ⟨busy, rfl⟩

theorem tried_early (f : State → Res × State) (closed : s.plat.ready = false) : s.tried f = (.busy, s) := by
  rw [State.tried, closed]
  rfl

theorem afterCommand_ended (f : State → Res × State) (stops : (s.tried f).1 ≠ .runs) (fn code : Nat) (args : List Word) :
    commandEnded s fn args ((s.tried f).2.afterCommand fn code args args (s.tried f).1) := by
  rw [State.afterCommand, if_neg stops]
  exact answered_ended _ fn args stops fun closed => by rw [tried_early f closed]; exact ⟨rfl, rfl⟩

theorem tried_short {f : State → Res × State} (work : shortWork f) : (s.tried f).1 ≠ .runs := by
  unfold State.tried
  split
  · exact work s
  · nofun

theorem tried_long {f : State → Res × State} (work : longWork f) (runs : (s.tried f).1 = .runs) : (s.tried f).2 = s := by
  unfold State.tried at runs ⊢
  split at runs
  · rw [if_pos ‹_›]; exact work s runs
  · exact nomatch runs

theorem command_ends {fn : Nat} (low : fn < 34) (idle : (s.page fn).run = none) (code : Nat) (args : List Word) {f : State → Res × State}
    (work : shortWork f) : commandEnded s fn args (s.command fn code args f) := by
  rw [command_fresh low idle]
  exact afterCommand_ended f (tried_short work) fn code args

theorem command_endsOrRuns {fn : Nat} (low : fn < 34) (idle : (s.page fn).run = none) (code : Nat) (args : List Word) {f : State → Res × State}
    (work : longWork f) : commandEnded s fn args (s.command fn code args f) ∨
      (s.command fn code args f).page fn = { carg := args, cres := 2, run := some (code, args) } ∧
        bit ((s.command fn code args f).cstat fn) 1 = true ∧ { s.command fn code args f with pages := s.pages } = s := by
  rw [command_fresh low idle]
  by_cases runs : (s.tried f).1 = .runs
  · rw [State.afterCommand, if_pos runs, tried_long work runs, cstat_busy, pageSet_page]
    exact .inr ⟨rfl, rfl, rfl⟩
  · exact .inl (afterCommand_ended f runs fn code args)

theorem command_keepsArguments {fn code : Nat} {args : List Word} (low : fn < 34) (own : (s.page fn).run = some (code, args))
    (again : s.place.a = 1) {f : State → Res × State} (work : longWork f) :
    ((s.command fn code args f).page fn).carg = (s.page fn).carg ∧
      (((s.command fn code args f).page fn).run = none ∧ (s.command fn code args f).plat.msix.head? = some (fn, 0) ∨
        (s.command fn code args f).page fn = { s.page fn with cres := 2 } ∧ { s.command fn code args f with pages := s.pages } = s) := by
  rw [command_goesOn low own again]
  by_cases runs : (s.tried f).1 = .runs
  · rw [State.afterCommand, if_pos runs, tried_long work runs, pageSet_page, ← own]
    exact ⟨rfl, .inr ⟨rfl, rfl⟩⟩
  · rw [State.afterCommand, if_neg runs, answered_page]
    exact ⟨rfl, .inl ⟨rfl, rfl⟩⟩

/-! ### Which commands may run on -/

theorem onQueue_stops {fn : Nat} {a0 : Word} {zeros : List Word} {f : State → Nat → Res × State} (work : ∀ k, (f s k).1 ≠ .runs) :
    (s.onQueue fn a0 zeros f).1 ≠ .runs := by
  unfold State.onQueue
  dsimp only
  split
  · nofun
  · split
    · nofun
    · exact work _

theorem onQueue_waits {fn : Nat} {a0 : Word} {zeros : List Word} {f : State → Nat → Res × State} (work : ∀ k, (f s k).1 = .runs → (f s k).2 = s) :
    (s.onQueue fn a0 zeros f).1 = .runs → (s.onQueue fn a0 zeros f).2 = s := by
  unfold State.onQueue
  dsimp only
  split
  · nofun
  · split
    · nofun
    · exact work _

theorem onLaunch_stops {fn : Nat} {a0 a1 : Word} {zeros : List Word} {f : State → Nat → Nat → Res × State} (work : ∀ k l, (f s k l).1 ≠ .runs) :
    (s.onLaunch fn a0 a1 zeros f).1 ≠ .runs := by
  refine onQueue_stops fun k => ?_
  split
  · nofun
  · split
    · nofun
    · exact work _ _

theorem onLaunch_waits {fn : Nat} {a0 a1 : Word} {zeros : List Word} {f : State → Nat → Nat → Res × State}
    (work : ∀ k l, (f s k l).1 = .runs → (f s k l).2 = s) :
    (s.onLaunch fn a0 a1 zeros f).1 = .runs → (s.onLaunch fn a0 a1 zeros f).2 = s := by
  refine onQueue_waits fun k => ?_
  split
  · nofun
  · split
    · nofun
    · exact work _ _

theorem doPartition_stops (fn : Nat) (a0 a1 a2 a3 : Word) : shortWork fun s => s.doPartition fn a0 a1 a2 a3 := by
  intro s
  unfold State.doPartition
  dsimp only
  (repeat' split) <;> nofun

/-- The work of every command but PREEMPT and SHOOTDOWN ends at once. -/
theorem shortCommands_end {fn : Nat} (low : fn < 34) (idle : (s.page fn).run = none) (a0 a1 a2 a3 : Word) :
    ∀ i ∈ ([.partition fn a0 a1 a2 a3, .qcreate fn a0 a1 a2 a3, .qdestroy fn a0 a1 a2 a3, .doorbell fn a0 a1 a2 a3, .halt fn a0 a1 a2 a3,
      .run fn a0 a1 a2 a3, .resume fn a0 a1 a2 a3, .kill fn a0 a1 a2 a3, .reset fn a0 a1 a2 a3, .fwswap fn a0 a1 a2 a3] : List Instr),
      ∃ u, exec i s = .next u ∧ commandEnded s fn [a0, a1, a2, a3] u := by
  simp only [List.forall_mem_cons]
  refine ⟨⟨_, rfl, command_ends low idle _ _ (doPartition_stops fn a0 a1 a2 a3)⟩, ⟨_, rfl, command_ends low idle _ _ fun s => ?qcreate⟩,
    ⟨_, rfl, command_ends low idle _ _ fun s => onQueue_stops fun k => ?qdestroy⟩,
    ⟨_, rfl, command_ends low idle _ _ fun s => onQueue_stops fun k => ?doorbell⟩,
    ⟨_, rfl, command_ends low idle _ _ fun s => onQueue_stops fun k => nofun⟩,
    ⟨_, rfl, command_ends low idle _ _ fun s => onQueue_stops fun k => nofun⟩,
    ⟨_, rfl, command_ends low idle _ _ fun s => onLaunch_stops fun k l => ?resume⟩,
    ⟨_, rfl, command_ends low idle _ _ fun s => onLaunch_stops fun k l => nofun⟩,
    ⟨_, rfl, command_ends low idle _ _ fun s => ?reset⟩, ⟨_, rfl, command_ends low idle _ _ fun s => ?fwswap⟩, List.forall_mem_nil _⟩
  all_goals
    dsimp only
    (repeat' split) <;> nofun

theorem preempt_waits (fn : Nat) (a0 a1 a2 a3 : Word) : ∃ f, longWork f ∧ ∀ s, exec (.preempt fn a0 a1 a2 a3) s = .next (s.command fn 5 [a0, a1, a2, a3] f) := by
  refine ⟨_, fun s => onLaunch_waits fun k l => ?_, fun s => rfl⟩
  dsimp only
  split
  · nofun
  · split
    · split
      · nofun
      · exact fun _ => rfl
    · split <;> nofun

theorem shootdown_waits (fn : Nat) (a0 a1 a2 a3 : Word) :
    ∃ f, longWork f ∧ ∀ s, exec (.shootdown fn a0 a1 a2 a3) s = .next (s.command fn 10 [a0, a1, a2, a3] f) := by
  refine ⟨_, fun s => ?_, fun s => rfl⟩
  split
  · nofun
  · refine onLaunch_waits fun k l => ?_
    split
    · nofun
    · split
      · exact fun _ => rfl
      · nofun

/-! ### Queues (R359) -/

theorem syncDesc_only (k : Nat) : ∃ m e ts, s.syncDesc k = { s with mem := m, ecc := e, tasks := ts } := by
  unfold State.syncDesc State.setDbl
  dsimp only
  generalize toBytes 8 _ = a
  obtain ⟨_, _, _, first⟩ := write_rest s ((s.queueAt k).descPa + 8 * 1) a
  rw [first]
  generalize toBytes 8 _ = b
  obtain ⟨_, _, _, second⟩ := write_rest _ ((s.queueAt k).descPa + 8 * 2) b
  rw [second]
  obtain ⟨m, e, ts, third⟩ := write_rest _ ((s.queueAt k).descPa + 8 * 7) _
  exact ⟨m, e, ts, third⟩

theorem syncDesc_queueAt (k j : Nat) : (s.syncDesc k).queueAt j = s.queueAt j := by
  obtain ⟨_, _, _, h⟩ := syncDesc_only (s := s) k
  rw [h]
  rfl

theorem putQueue_queueAt_same (k : Nat) (q : Queue) : (s.putQueue k q).queueAt k = q := AMap.get_set_same _ _ _ _

theorem putQueue_queueAt_other {k j : Nat} (other : j ≠ k) (q : Queue) : (s.putQueue k q).queueAt j = s.queueAt j := AMap.get_set_other _ other _ _

theorem setQueue_queueAt_same (k : Nat) (f : Queue → Queue) : (s.setQueue k f).queueAt k = f (s.queueAt k) :=
  (syncDesc_queueAt k k).trans (putQueue_queueAt_same k _)

theorem answered_queueAt (fn : Nat) (args : List Word) (r : Res) (k : Nat) : (s.answered fn args r).queueAt k = s.queueAt k := rfl

/-! ### What a command does -/

theorem command_does {fn code : Nat} {args : List Word} {f : State → Res × State} {r : Res} {t : State} (low : fn < 34) (ready : s.plat.ready = true)
    (idle : (s.page fn).run = none) (work : f s = (r, t)) (stops : r ≠ .runs) : s.command fn code args f = t.answered fn args r := by
  rw [command_fresh low idle, State.tried, if_pos ready, work]
  exact if_neg stops

theorem onQueue_runs {fn : Nat} {a0 : Word} {zeros : List Word} {f : State → Nat → Res × State} (named : bits a0 63 10 = 0)
    (zero : allZero zeros = true) (live : (s.queueAt (bits a0 9 0)).live = true) (may : s.mayName fn (s.queueAt (bits a0 9 0)).part = true) :
    s.onQueue fn a0 zeros f = f s (bits a0 9 0) := by
  unfold State.onQueue
  simp only [named, zero, live, may, Bool.not_true, Bool.false_eq_true, ne_eq, not_true_eq_false, or_self, if_false]

/-- PARTITION of a rectangle and of slices that no other partition has makes the partition. -/
theorem doPartition_makes {fn : Nat} {a0 a1 a2 : Word} {p : Partition}
    (asked : p = Partition.mk true (bit a0 9) (if bit a0 23 then some (bits a0 20 16) else none) (bits a1 4 0) (bits a1 12 8) (bits a1 21 16)
      (bits a1 29 24) (s.sliceMap a2.toNat))
    (physical : fn < 2) (empty : s.queuesOf (bits a0 4 0) = [])
    (fields : bits a0 7 5 = 0 ∧ bits a0 15 10 = 0 ∧ bits a0 22 21 = 0 ∧ bits a0 63 24 = 0) (makes : bit a0 8 = true)
    (zeros : bits a1 7 5 = 0 ∧ bits a1 15 13 = 0 ∧ bits a1 23 22 = 0 ∧ bits a1 63 30 = 0) (map : a2.toNat % 32 = 0 ∧ a2.toNat < 2 ^ 52)
    (size : p.w ≠ 0 ∧ p.h ≠ 0 ∧ p.x0 + p.w ≤ 32 ∧ p.y0 + p.h ≤ 32)
    (apart : ∀ x ∈ s.parts, x.1 ≠ bits a0 4 0 → x.2.live = true →
      rectsMeet x.2 p = false ∧ (∀ i ∈ x.2.slices, i ∉ p.slices) ∧ (p.vf = none ∨ x.2.vf ≠ p.vf)) :
    s.doPartition fn a0 a1 a2 0 = (.done, { s with parts := s.parts.set (bits a0 4 0) p }) := by
  obtain ⟨f0, f1, f2, f3⟩ := fields
  obtain ⟨z0, z1, z2, z3⟩ := zeros
  obtain ⟨aligned, below⟩ := map
  obtain ⟨w0, h0, wide, high⟩ := size
  have free : ((s.parts.filter fun x => decide (x.1 ≠ bits a0 4 0) && x.2.live).any fun x =>
      rectsMeet x.2 p || x.2.slices.any (p.slices.contains ·) || (p.vf.isSome && decide (x.2.vf = p.vf))) = false := by
    simp only [List.any_eq_false, List.mem_filter, Bool.and_eq_true, decide_eq_true_eq, and_imp]
    intro x mem other live
    obtain ⟨rects, slices, function⟩ := apart x mem other live
    have shared : x.2.slices.any (p.slices.contains ·) = false := by simpa using slices
    have vf : (p.vf.isSome && decide (x.2.vf = p.vf)) = false := by
      rcases function with none | other
      · rw [none]; rfl
      · rw [decide_eq_false other, Bool.and_false]
    rw [rects, shared, vf]
    nofun
  have narrow : ¬(p.w = 0 ∨ 32 < p.w ∨ p.h = 0 ∨ 32 < p.h ∨ 32 < p.x0 + p.w ∨ 32 < p.y0 + p.h) := by omega
  have small : ¬2 ^ 52 ≤ a2.toNat := by omega
  unfold State.doPartition
  extract_lets n q others
  rw [← show p = q from asked, if_neg (by omega), if_neg (by simp only [f0, f1, f2, f3, ne_eq, not_true_eq_false, or_self, not_false_eq_true])]
  rw [if_neg (by rw [makes]; nofun), if_neg (by simp only [z0, z1, z2, z3, aligned, small, narrow, ne_eq, not_true_eq_false, or_self, not_false_eq_true])]
  rw [if_neg (by rw [empty, List.isEmpty_nil, Bool.not_true, Bool.and_false]; nofun), if_neg (by rw [free]; nofun)]

theorem doPartition_removes {fn : Nat} {a0 : Word} (physical : fn < 2) (empty : s.queuesOf (bits a0 4 0) = [])
    (fields : bits a0 7 5 = 0 ∧ bits a0 15 10 = 0 ∧ bits a0 22 21 = 0 ∧ bits a0 63 24 = 0) (removes : bit a0 8 = false)
    (live : (s.partAt (bits a0 4 0)).live = true) :
    s.doPartition fn a0 0 0 0 = (.done, { s with parts := s.parts.set (bits a0 4 0) Partition.init }) := by
  obtain ⟨f0, f1, f2, f3⟩ := fields
  unfold State.doPartition
  simp only [show ¬2 ≤ fn by omega, f0, f1, f2, f3, removes, live, empty, if_false, if_true, ne_eq, not_true_eq_false, or_self, Bool.not_true,
    Bool.not_false, Bool.false_eq_true, List.isEmpty_nil]

theorem qcreate_makes {fn : Nat} {a0 a1 : Word} {d : Queue} (low : fn < 34) (ready : s.plat.ready = true) (idle : (s.page fn).run = none)
    (named : bits a0 63 10 = 0) (fresh : (s.queueAt (bits a0 9 0)).live = false) (aligned : a1.toNat % 64 = 0) (below : a1.toNat < 2 ^ 52)
    (read : s.readDesc a1.toNat = some d) (live : (s.partAt d.part).live = true) (may : s.mayName fn d.part = true) :
    exec (.qcreate fn a0 a1 0 0) s =
      .next (((s.putQueue (bits a0 9 0) { d with tail := 0 }).syncDesc (bits a0 9 0)).answered fn [a0, a1, 0, 0] .done) := by
  refine congrArg Host.Outcome.next (command_does low ready idle ?_ nofun)
  have small : ¬2 ^ 52 ≤ a1.toNat := by omega
  simp only [named, fresh, aligned, small, read, live, may, ne_eq, not_true_eq_false, or_self, if_false, Bool.not_true, Bool.false_eq_true]

theorem qdestroy_removes {fn : Nat} {a0 : Word} (low : fn < 34) (ready : s.plat.ready = true) (idle : (s.page fn).run = none)
    (named : bits a0 63 10 = 0) (live : (s.queueAt (bits a0 9 0)).live = true) (may : s.mayName fn (s.queueAt (bits a0 9 0)).part = true)
    (empty : (s.queueAt (bits a0 9 0)).head = (s.queueAt (bits a0 9 0)).tail)
    (none : (s.launchesWith fun la => la.alive && decide (la.queue = bits a0 9 0)) = []) :
    exec (.qdestroy fn a0 0 0 0) s = .next ((s.putQueue (bits a0 9 0) Queue.init).answered fn [a0, 0, 0, 0] .done) := by
  refine congrArg Host.Outcome.next (command_does low ready idle ((onQueue_runs named rfl live may).trans ?_) nofun)
  simp only [empty, none, ne_eq, not_true_eq_false, List.isEmpty_nil, Bool.not_true, Bool.false_eq_true, or_self, if_false]

/-- What a DOORBELL makes of a queue: the descriptor's fields, and the queue's own state. -/
def Queue.reread (q d : Queue) : Queue :=
  { d with
    head := q.head, fenced := q.fenced, halted := q.halted, failed := q.failed, mcp := q.mcp, fhead := q.fhead, wcount := q.wcount
    wstep := q.wstep }

/-- The live launches of a queue take its priority. -/
def State.reprioritized (s : State) (k prio : Nat) : State :=
  { s with launches := s.launches.map fun p => if p.2.queue = k && p.2.alive then (p.1, { p.2 with prio := prio }) else p }

theorem doorbell_rereads {fn : Nat} {a0 : Word} {d : Queue} (low : fn < 34) (ready : s.plat.ready = true) (idle : (s.page fn).run = none)
    (named : bits a0 63 10 = 0) (live : (s.queueAt (bits a0 9 0)).live = true) (may : s.mayName fn (s.queueAt (bits a0 9 0)).part = true)
    (read : s.readDesc (s.queueAt (bits a0 9 0)).descPa = some d) (same : d.part = (s.queueAt (bits a0 9 0)).part) :
    exec (.doorbell fn a0 0 0 0) s =
      .next (((s.putQueue (bits a0 9 0) ((s.queueAt (bits a0 9 0)).reread d)).reprioritized (bits a0 9 0) d.prio).answered fn [a0, 0, 0, 0] .done) := by
  refine congrArg Host.Outcome.next (command_does low ready idle ((onQueue_runs named rfl live may).trans ?_) nofun)
  simp only [read]
  exact if_neg (not_not.mpr same)

/-- Looking up a listed key in a table whose values are changed. -/
theorem AMap.get_map_listed {α : Type} {f : Nat × α → Nat × α} {g : α → α} (values : ∀ p, f p = (p.1, g p.2)) {m : AMap α} {k : Nat}
    (listed : m.has k = true) (d : α) : AMap.get (m.map f) k d = g (m.get k d) := by
  induction m with
  | nil => exact nomatch listed
  | cons p m ih =>
    simp only [List.map_cons, AMap.get, values]
    split
    · rfl
    · exact ih (by simpa [AMap.has, *] using listed)

theorem reprioritized_launchAt (k prio : Nat) {l : Nat} (listed : s.launches.has l = true) (alive : (s.launchAt l).alive = true) :
    (s.reprioritized k prio).launchAt l = (if (s.launchAt l).queue = k then { s.launchAt l with prio := prio } else s.launchAt l) := by
  refine (AMap.get_map_listed (g := fun la => if la.queue = k && la.alive then { la with prio := prio } else la) (fun p => ?_) listed _).trans ?_
  · split <;> rfl
  · rw [State.launchAt] at alive ⊢
    simp only [alive, Bool.and_true, decide_eq_true_eq]

theorem halt_halts {fn : Nat} {a0 : Word} (low : fn < 34) (ready : s.plat.ready = true) (idle : (s.page fn).run = none)
    (named : bits a0 63 10 = 0) (live : (s.queueAt (bits a0 9 0)).live = true) (may : s.mayName fn (s.queueAt (bits a0 9 0)).part = true) :
    exec (.halt fn a0 0 0 0) s = .next ((s.setQueue (bits a0 9 0) fun q => { q with halted := true }).answered fn [a0, 0, 0, 0] .done) :=
  congrArg Host.Outcome.next (command_does low ready idle (onQueue_runs named rfl live may) nofun)

theorem run_runs {fn : Nat} {a0 : Word} (low : fn < 34) (ready : s.plat.ready = true) (idle : (s.page fn).run = none)
    (named : bits a0 63 10 = 0) (live : (s.queueAt (bits a0 9 0)).live = true) (may : s.mayName fn (s.queueAt (bits a0 9 0)).part = true) :
    exec (.run fn a0 0 0 0) s =
      .next ((s.setQueue (bits a0 9 0) fun q => { q with halted := false, failed := false }).answered fn [a0, 0, 0, 0] .done) :=
  congrArg Host.Outcome.next (command_does low ready idle (onQueue_runs named rfl live may) nofun)

/-- Settles O50: every command by what it leaves in its page, and the queue commands by their own work. -/
theorem hostAndQueueCommandsTakeEffect : Obligations.HostAndQueueCommandsTakeEffect := by
  refine ⟨fun s fn a0 a1 a2 a3 low => ⟨fun idle => ⟨shortCommands_end low idle a0 a1 a2 a3, ?fresh⟩, ?again, ?ignored⟩,
    fun s fn a0 a1 a2 low ready idle => ⟨fun p asked physical empty f0 f1 f2 f3 => ⟨?makes, ?removes⟩, fun named => ⟨?created, fun live may => ?queues⟩⟩⟩
  case fresh =>
    simp only [List.forall_mem_cons]
    obtain ⟨f, preempt, runPreempt⟩ := preempt_waits fn a0 a1 a2 a3
    obtain ⟨g, shootdown, runShootdown⟩ := shootdown_waits fn a0 a1 a2 a3
    exact ⟨⟨_, runPreempt s, command_endsOrRuns low idle _ _ preempt⟩, ⟨_, runShootdown s, command_endsOrRuns low idle _ _ shootdown⟩,
      List.forall_mem_nil _⟩
  case again =>
    simp only [List.forall_mem_cons]
    obtain ⟨f, preempt, runPreempt⟩ := preempt_waits fn a0 a1 a2 a3
    obtain ⟨g, shootdown, runShootdown⟩ := shootdown_waits fn a0 a1 a2 a3
    exact ⟨fun own turn => ⟨_, runPreempt s, command_keepsArguments low own turn preempt⟩,
      fun own turn => ⟨_, runShootdown s, command_keepsArguments low own turn shootdown⟩, List.forall_mem_nil _⟩
  case ignored =>
    intro c running first
    have ignored (code : Nat) (f : State → Res × State) :
        (s.command fn code [a0, a1, a2, a3] f).page fn = { carg := [a0, a1, a2, a3], cres := 2, run := some c } ∧
          { s.command fn code [a0, a1, a2, a3] f with pages := s.pages } = s := by
      rw [command_ignored low running first]
      exact ⟨pageSet_page fn _, rfl⟩
    simp only [List.cons_append, List.nil_append, List.map_cons, List.map_nil, List.forall_mem_cons]
    exact ⟨⟨_, rfl, ignored _ _⟩, ⟨_, rfl, ignored _ _⟩, ⟨_, rfl, ignored _ _⟩, ⟨_, rfl, ignored _ _⟩, ⟨_, rfl, ignored _ _⟩,
      ⟨_, rfl, ignored _ _⟩, ⟨_, rfl, ignored _ _⟩, ⟨_, rfl, ignored _ _⟩, ⟨_, rfl, ignored _ _⟩, ⟨_, rfl, ignored _ _⟩,
      ⟨_, rfl, ignored _ _⟩, ⟨_, rfl, ignored _ _⟩, List.forall_mem_nil _⟩
  case makes =>
    intro makes z0 z1 z2 z3 aligned below w0 h0 wide high apart
    exact ⟨_, congrArg Host.Outcome.next (command_does low ready idle (doPartition_makes asked physical empty ⟨f0, f1, f2, f3⟩ makes
      ⟨z0, z1, z2, z3⟩ ⟨aligned, below⟩ ⟨w0, h0, wide, high⟩ apart) nofun), fun _ => rfl, AMap.get_set_same _ _ _ _⟩
  case removes =>
    exact fun removes live => ⟨_, congrArg Host.Outcome.next (command_does low ready idle (doPartition_removes physical empty ⟨f0, f1, f2, f3⟩
      removes live) nofun), fun _ => rfl, AMap.get_set_same _ _ _ _⟩
  case created =>
    exact fun d fresh aligned below read live may => ⟨_, qcreate_makes low ready idle named fresh aligned below read live may,
      (answered_queueAt _ _ _ _).trans ((syncDesc_queueAt _ _).trans (putQueue_queueAt_same _ _))⟩
  case queues =>
    have reread (d : Queue) (u : State) (rings : u.queueAt (bits a0 9 0) = (s.queueAt (bits a0 9 0)).reread d) :
        (u.queueAt (bits a0 9 0)).tail = d.tail ∧ (u.queueAt (bits a0 9 0)).head = (s.queueAt (bits a0 9 0)).head ∧
          (u.queueAt (bits a0 9 0)).halted = (s.queueAt (bits a0 9 0)).halted ∧ (u.queueAt (bits a0 9 0)).fenced = (s.queueAt (bits a0 9 0)).fenced := by
      rw [rings]
      exact ⟨rfl, rfl, rfl, rfl⟩
    refine ⟨fun empty none => ⟨_, qdestroy_removes low ready idle named live may empty none, fun _ => rfl,
        (answered_queueAt _ _ _ _).trans (putQueue_queueAt_same _ _)⟩,
      fun d read same => ?rings,
      ⟨_, halt_halts low ready idle named live may, (answered_queueAt _ _ _ _).trans (setQueue_queueAt_same _ _)⟩,
      ⟨_, run_runs low ready idle named live may, (answered_queueAt _ _ _ _).trans (setQueue_queueAt_same _ _)⟩⟩
    obtain ⟨tail, head, halted, fenced⟩ := reread d _ (putQueue_queueAt_same (s := s) _ _)
    exact ⟨_, doorbell_rereads low ready idle named live may read same, fun _ => rfl, tail, head, halted, fenced, rfl,
      fun l listed alive => reprioritized_launchAt (s := s.putQueue _ _) _ _ listed alive⟩

end Sys2Proof.Machine
end

section
/-! What ends, stops or kills a launch leaves alone: the other launches, the queues, the partitions, and the device's own registers. -/

namespace Sys2Proof.Machine

variable {s t u : State} {l : Nat}

/-- What no launch's own work changes: queues, partitions, the security controller, the platform and the CPs. -/
def State.policy (s : State) : AMap Queue × AMap Partition × SecCtl × Platform × AMap Cp := (s.queues, s.parts, s.sec, s.plat, s.cps)

/-- Between the two states only one launch has changed, of the launches and of what stands above them. -/
structure besides (l : Nat) (s t : State) : Prop where
  others : ∀ j, j ≠ l → t.launchAt j = s.launchAt j
  policy : t.policy = s.policy

theorem besides.of_launches (launches : t.launches = s.launches) (policy : t.policy = s.policy) : besides l s t :=
  ⟨fun j _ => congrArg (AMap.get · j Launch.init) launches, policy⟩

theorem besides.refl (s : State) : besides l s s := .of_launches rfl rfl

theorem besides.trans (first : besides l s t) (second : besides l t u) : besides l s u :=
  ⟨fun j other => (second.others j other).trans (first.others j other), second.policy.trans first.policy⟩

theorem besides.queueAt (only : besides l s t) (k : Nat) : t.queueAt k = s.queueAt k :=
  congrArg (fun p : AMap Queue × _ => p.1.get k Queue.init) only.policy

theorem besides.partAt (only : besides l s t) (k : Nat) : t.partAt k = s.partAt k :=
  congrArg (fun p : AMap Queue × AMap Partition × _ => p.2.1.get k Partition.init) only.policy

theorem besides.sec (only : besides l s t) : t.sec = s.sec := congrArg (fun p : AMap Queue × AMap Partition × SecCtl × _ => p.2.2.1) only.policy

theorem besides.plat (only : besides l s t) : t.plat = s.plat :=
  congrArg (fun p : AMap Queue × AMap Partition × SecCtl × Platform × _ => p.2.2.2.1) only.policy

/-- A loop each of whose steps keeps the rest keeps it. -/
theorem besides.foldl {α : Type} {g : State → α → State} (xs : List α) (step : ∀ t, ∀ x ∈ xs, besides l t (g t x)) :
    besides l s (xs.foldl g s) := by
  induction xs generalizing s with
  | nil => exact .refl s
  | cons x xs ih => exact (step s x (List.mem_cons_self ..)).trans (ih fun t y mem => step t y (List.mem_cons_of_mem x mem))

/-! ### Memory, extents and failures -/

theorem write_besides (k : Nat) (bs : List Byte) : besides l s (s.write k bs) := by
  obtain ⟨_, _, _, h⟩ := write_rest s k bs
  rw [h]
  exact .of_launches rfl rfl

theorem setLeafBits_besides (b : Nat) (ls : List Leaf) : besides l s (s.setLeafBits b ls) := by
  refine .foldl ls fun t x _ => ?_
  split
  · exact .refl t
  · exact write_besides _ _

theorem setOwnerExtents_besides (k : Nat) (xs : List Extent) : besides l s (s.setOwnerExtents k xs) := by
  unfold State.setOwnerExtents
  split <;> exact .of_launches rfl rfl

theorem countFill_besides (k : Nat) : besides l s (s.countFill k) := by
  unfold State.countFill
  split <;> exact .of_launches rfl rfl

theorem filled_besides (k : Nat) (rs : List Range) (r : Range) (f : Fill) : besides l s (s.filled k rs r f) :=
  ((setLeafBits_besides _ _).trans (setOwnerExtents_besides _ _)).trans (countFill_besides _)

theorem dirtied_besides (k : Nat) (x : Extent) (ls : List Leaf) : besides l s (s.dirtied k x ls) :=
  (setLeafBits_besides _ _).trans (setOwnerExtents_besides _ _)

theorem ensure_besides {v : Nat} {k : Acc} (ends : s.ensure v k = .ok u) : besides l s u := by
  unfold State.ensure at ends
  dsimp only at ends
  split at ends
  · exact absurd ends trapX_ne
  · simp only [bind_ok] at ends
    obtain ⟨_, -, _, -, ends⟩ := ends
    split at ends
    · obtain ⟨t, same, ends⟩ := bind_ok.mp ends
      cases same
      grind [bind_ok, dirtied_besides, besides.refl, waitX]
    · split at ends
      · exact absurd ends (by simp [waitX, bind, Except.bind])
      · rw [bind_ok] at ends
        obtain ⟨t, same, ends⟩ := ends
        have before : besides l s t := by cases same; exact filled_besides _ _ _ _
        clear same
        grind [bind_ok, dirtied_besides, besides.trans, waitX]

theorem putLaunch_besides (l : Nat) (la : Launch) : besides l s (s.putLaunch l la) :=
  ⟨fun _ other => putLaunch_launchAt_other s l la other, rfl⟩

theorem failLaunch_besides (l : Nat) (f : Failure) : besides l s (s.failLaunch l f) := by
  unfold State.failLaunch
  dsimp only
  split
  · exact putLaunch_besides l _
  · exact .refl s

theorem walkFailed_besides (l core v level : Nat) : besides l s (s.walkFailed l core v level) :=
  (besides.of_launches rfl rfl : besides l s (s.markFailed _)).trans (failLaunch_besides l _)

theorem writeVirt_besides {launch kind f v : Nat} {bs : List Byte} (ends : s.writeVirt launch kind f v bs = .ok u) : besides l s u := by
  induction f generalizing s v bs with
  | zero => cases ends; exact .refl _
  | succ f ih =>
    cases bs with
    | nil => cases ends; exact .refl _
    | cons b bs =>
      rw [State.writeVirt] at ends
      split at ends
      · exact nomatch ends
      · exact (write_besides _ _).trans (ih ends)

theorem tryWrite_besides (j v : Nat) (bs : List Byte) : besides l s (s.tryWrite j v bs) := by
  unfold State.tryWrite
  split
  · exact writeVirt_besides ‹_›
  · exact .refl s

/-! ### Streams -/

theorem blockWrite_besides (x : Stream) (off : Nat) (bs : List Byte) : besides x.launch s (s.blockWrite x off bs) := by
  unfold State.blockWrite
  split
  · exact write_besides _ _
  · dsimp only
    split
    case h_1 u ends =>
      split
      · obtain ⟨others, policy⟩ := (ensure_besides (l := x.launch) ends).trans (write_besides _ _)
        exact ⟨others, policy⟩
      · exact .refl s
    case h_2 =>
      split
      · exact walkFailed_besides _ _ _ _
      · exact .refl s

theorem closeBlock_besides (x : Stream) (c : Nat) : besides x.launch s (s.closeBlock x c) := by
  have block : besides x.launch s ((s.blockWrite x 56 (toBytes 8 x.moved)).blockWrite x 48 [BitVec.ofNat 8 c]) :=
    (blockWrite_besides _ _ _).trans (blockWrite_besides _ _ _)
  unfold State.closeBlock
  split
  · dsimp only
    split
    · exact block
    · exact block.trans (.of_launches rfl rfl)
  · exact block

theorem closeStream_besides (x : Stream) (c : Nat) : besides x.launch s (s.closeStream x c) := by
  have block := closeBlock_besides (s := s) x c
  unfold State.closeStream
  generalize s.closeBlock x c = b at block ⊢
  refine block.trans ?_
  dsimp only
  split <;> exact .of_launches rfl rfl

theorem stopStreams_besides (l : Nat) : besides l s (s.stopStreams l) := by
  have closed : besides l s (s.closeAll (fun x => decide (x.launch = l)) fun _ => 5) := by
    refine .foldl _ fun t x mem => ?_
    obtain ⟨-, -, -, own⟩ : x ∈ s.streams ∧ x.opened = true ∧ x.code = 0 ∧ x.launch = l := by simpa [and_assoc] using mem
    exact own ▸ closeStream_besides x 5
  refine closed.trans (.trans (.foldl _ fun t x _ => ?_) (.of_launches rfl rfl))
  split
  · exact .of_launches rfl rfl
  · exact .refl t

/-! ### What a launch holds -/

theorem drop_besides (p : Packet) : besides l s (s.drop p) := by
  obtain ⟨_, _, h⟩ := drop_only (s := s) p
  rw [h]
  exact .of_launches rfl rfl

theorem endSteals_besides (j : Nat) : besides l s (s.endSteals j) := by
  refine .foldl _ fun t x _ => ?_
  dsimp only
  split
  · exact .of_launches rfl rfl
  · exact .of_launches rfl rfl
  · exact .refl t

theorem scrubUnits_besides (j : Nat) : besides l s (s.scrubUnits j) := by
  refine .foldl _ fun t x _ => ?_
  dsimp only
  split
  · exact .refl t
  · exact .of_launches rfl rfl

theorem cancel_besides (l : Nat) : besides l s (s.cancel l) := by
  unfold State.cancel
  extract_lets _ a b la
  have ended : besides l s a := (endSteals_besides l).trans (.of_launches rfl rfl)
  have dropped : besides l a b := .foldl _ fun t p _ => drop_besides p
  exact (ended.trans dropped).trans (putLaunch_besides l _)

theorem kill_besides (l code : Nat) : besides l s (s.kill l code) := by
  unfold State.kill
  dsimp only
  split
  · exact putLaunch_besides l _
  · exact (cancel_besides l).trans (putLaunch_besides l _)

theorem release_besides (l : Nat) : besides l s (s.release l) := by
  unfold State.release
  extract_lets a _ _ _ _ b c mine d e f g la h
  have stopped : besides l s a := stopStreams_besides l
  have ended : besides l a b := (endSteals_besides l).trans (.of_launches rfl rfl)
  have cores : besides l b d := .of_launches rfl rfl
  have units : besides l d e := scrubUnits_besides l
  have masts : besides l e f := .of_launches rfl rfl
  have dropped : besides l f g := .foldl _ fun t p _ => drop_besides p
  clear_value g
  have left : besides l g h.sweepStreams := .of_launches rfl rfl
  exact (((stopped.trans ended).trans (cores.trans units)).trans (masts.trans dropped)).trans (left.trans (putLaunch_besides l _))

/-! ### Pre-emption and completion (R365, R366) -/

theorem preemptNow_launchAt (l why : Nat) : ((s.preemptNow l why).launchAt l).status = .preempted ∧ ((s.preemptNow l why).launchAt l).why = why := by
  unfold State.preemptNow
  extract_lets
  rw [putLaunch_launchAt_same]
  exact ⟨rfl, rfl⟩

theorem preempt_plain {why : Nat} (other : why ≠ 3) (own : (s.launchAt l).why ≠ 3) : s.preempt l why = s.preemptNow l why := by
  unfold State.preempt
  exact if_neg (by simp only [other, own, or_self, not_false_eq_true])

theorem writeBindings_besides (l : Nat) : besides l s (s.writeBindings l) := by
  unfold State.writeBindings
  dsimp only
  split
  · exact .refl s
  · exact .foldl _ fun t x _ => tryWrite_besides _ _ _

/-- A completion record is written, or its walk's failure noted; then its queue's vector is raised. -/
theorem writeRecord_raises (l : Nat) (ws : List Word) : ∃ t fn vector, s.writeRecord l ws = t.raise fn vector ∧ besides l s t := by
  unfold State.writeRecord State.queueIrq
  refine ⟨_, _, _, rfl, ?_⟩
  split
  · exact writeVirt_besides ‹_›
  · exact walkFailed_besides l _ _ _

theorem haltQueue_launches (k : Nat) : (s.haltQueue k).launches = s.launches := by
  obtain ⟨_, _, _, h⟩ := syncDesc_only (s := s.putQueue k { s.queueAt k with halted := true }) k
  rw [State.haltQueue, State.setQueue, h]
  rfl

theorem setQueue_queueAt_other {k j : Nat} (other : j ≠ k) (f : Queue → Queue) : (s.setQueue k f).queueAt j = s.queueAt j :=
  (syncDesc_queueAt k j).trans (putQueue_queueAt_other other _)

/-- What a change of one queue leaves alone in every queue. -/
theorem setQueue_keeps {β : Type} (g : Queue → β) {f : Queue → Queue} (kept : ∀ q, g (f q) = g q) (k j : Nat) :
    g ((s.setQueue k f).queueAt j) = g (s.queueAt j) := by
  by_cases own : j = k
  · rw [own, setQueue_queueAt_same, kept]
  · rw [setQueue_queueAt_other own]

theorem putQueue_keeps {β : Type} (g : Queue → β) {k : Nat} {q : Queue} (kept : g q = g (s.queueAt k)) (j : Nat) :
    g ((s.putQueue k q).queueAt j) = g (s.queueAt j) := by
  by_cases own : j = k
  · rw [own, putQueue_queueAt_same, kept]
  · rw [putQueue_queueAt_other own]

/-- The state in which a completion marks its launch as ended: all that came before concerns this launch and its queue. -/
theorem complete_ends (l status : Nat) : ∃ t : State, s.complete l status = t.putLaunch l { s.launchAt l with code := status }.ended ∧
    (∀ j, j ≠ l → t.launchAt j = s.launchAt j) ∧
    ∀ {β : Type} (g : Queue → β), (∀ q n m b c, g { q with wcount := n, wstep := m, failed := b, halted := c } = g q) →
      ∀ j, g (t.queueAt j) = g (s.queueAt j) := by
  unfold State.complete
  extract_lets la counted a b c d q e
  have bound : besides l s (if la.status = .checked then s else s.writeBindings l) := by
    split
    · exact .refl s
    · exact writeBindings_besides l
  obtain ⟨t, fn, vector, (record : b = t.raise fn vector), (recorded : besides l a t)⟩ := writeRecord_raises (s := a) l _
  have written : besides l s t := .trans bound recorded
  clear_value b
  subst record
  have released : besides l (t.raise fn vector) c := release_besides l
  clear_value c
  refine ⟨e, rfl, fun j other => ?_, fun g kept j => ?_⟩
  · have launches : e.launches = c.launches := by
      show (if _ then _ else d : State).launches = _
      split
      · exact haltQueue_launches _
      · rfl
    rw [State.launchAt, launches]
    exact (released.others j other).trans (written.others j other)
  · have restarted : g (d.queueAt j) = g (c.queueAt j) := putQueue_keeps g (kept _ 0 0 _ _) j
    have stopped : g (e.queueAt j) = g (d.queueAt j) := by
      show g ((if _ then _ else d : State).queueAt j) = _
      split
      · exact (setQueue_keeps g (fun q => kept q _ _ _ _) _ j).trans (putQueue_keeps g (kept _ _ _ _ _) j)
      · rfl
    exact stopped.trans (restarted.trans (congrArg g ((released.queueAt j).trans (written.queueAt j))))

theorem complete_launchAt_same (l status : Nat) : (s.complete l status).launchAt l = { s.launchAt l with code := status }.ended := by
  obtain ⟨t, done, -⟩ := complete_ends (s := s) l status
  rw [done, putLaunch_launchAt_same]

theorem complete_launchAt_other (l status : Nat) {j : Nat} (other : j ≠ l) : (s.complete l status).launchAt j = s.launchAt j := by
  obtain ⟨t, done, others, -⟩ := complete_ends (s := s) l status
  rw [done, putLaunch_launchAt_other _ _ _ other, others j other]

theorem complete_queueAt {β : Type} (g : Queue → β) (kept : ∀ q n m b c, g { q with wcount := n, wstep := m, failed := b, halted := c } = g q)
    (l status j : Nat) : g ((s.complete l status).queueAt j) = g (s.queueAt j) := by
  obtain ⟨t, done, -, queues⟩ := complete_ends (s := s) l status
  rw [done]
  exact queues g kept j

end Sys2Proof.Machine
end

section
/-! Launch commands: PREEMPT, RESUME, KILL, SHOOTDOWN, RESET and FWSWAP (R353, R361, R369, R371 to R373); O51. -/

namespace Sys2Proof.Machine

variable {s t u : State} {l : Nat}

/-! ### A launch that comes back (R366) -/

theorem reenter_besides {es : List (Nat × Nat × List Word)} {ren ren' : AMap Nat} (ends : s.reenter l es ren = some (ren', u)) : besides l s u := by
  induction es generalizing s ren with
  | nil => cases ends; exact .refl _
  | cons e es ih =>
    obtain ⟨m, old, ws⟩ := e
    rw [State.reenter] at ends
    split at ends
    · exact nomatch ends
    · exact (besides.of_launches rfl rfl : besides l s (s.putMast _ _)).trans (ih ends)

theorem rearmSaved_besides (es : List (Nat × Nat × List Word)) (ren : AMap Nat) : besides l s (s.rearmSaved es ren) :=
  .foldl _ fun _ _ _ => .of_launches rfl rfl

theorem restoreBanks_besides (j : Nat) (sv : Saved) (first : Nat → Nat) : besides l s (s.restoreBanks j sv first) := by
  unfold State.restoreBanks
  extract_lets a b
  have banks : besides l s a := .foldl _ fun _ _ _ => .of_launches rfl rfl
  have pairs : besides l a b := .foldl _ fun _ _ _ => .of_launches rfl rfl
  exact (banks.trans pairs).trans (.foldl _ fun _ _ _ => .of_launches rfl rfl)

theorem restoreOps_besides (sv : Saved) (ren : AMap Nat) : besides l s (s.restoreOps sv ren) := by
  unfold State.restoreOps
  extract_lets a b c
  have yards : besides l s a := .foldl _ fun _ _ _ => .of_launches rfl rfl
  have sums : besides l a b := .foldl _ fun _ _ _ => .of_launches rfl rfl
  have functions : besides l b c := .foldl _ fun _ _ _ => .of_launches rfl rfl
  exact ((yards.trans sums).trans functions).trans (.foldl _ fun _ _ _ => .of_launches rfl rfl)

theorem restoreExtents_besides (l : Nat) (sv : Saved) : besides l s (s.restoreExtents l sv) := by
  refine .foldl _ fun t p _ => ?_
  dsimp only
  split
  · split
    · exact walkFailed_besides l _ _ _
    · exact (setLeafBits_besides _ _).trans (.of_launches rfl rfl)
  · exact .of_launches rfl rfl

theorem resumeCtxs_launches (cs : List (Nat × CtxStatus)) : (s.resumeCtxs cs).launches = s.launches ∧ (s.resumeCtxs cs).policy = s.policy := by
  refine foldl_rule (P := fun t : State => t.launches = s.launches ∧ t.policy = s.policy) (fun t c same => ?_) cs ⟨rfl, rfl⟩
  dsimp only
  split <;> exact same

/-- The state in which a launch's saved parts stand again, before its contexts go on. -/
def State.rebuilt (s : State) (l : Nat) (first : Nat → Nat) (sv : Saved) (ren : AMap Nat) : State :=
  (((((s.rearmSaved sv.entries ren).leaveEntries l).restoreBanks l sv first).restoreMem l sv).restoreOps sv ren).restoreExtents l sv

/-- A launch whose saved parts stand again, and its contexts. -/
def State.resumed (s : State) (l : Nat) (cs : List (Nat × CtxStatus)) : State :=
  (s.putLaunch l { s.launchAt l with status := .resident, saved := Saved.init, why := 0 }).resumeCtxs cs

theorem rebuilt_besides (l : Nat) (first : Nat → Nat) (sv : Saved) (ren : AMap Nat) : besides l s (s.rebuilt l first sv ren) := by
  have entries : besides l s ((s.rearmSaved sv.entries ren).leaveEntries l) := (rearmSaved_besides _ _).trans (.of_launches rfl rfl)
  have memory (t : State) : besides l t (t.restoreMem l sv) := .of_launches rfl rfl
  exact (entries.trans (restoreBanks_besides _ _ _)).trans ((memory _).trans ((restoreOps_besides _ _).trans (restoreExtents_besides _ _)))

theorem resumed_resident (l : Nat) (cs : List (Nat × CtxStatus)) : ((s.resumed l cs).launchAt l).status = .resident ∧ besides l s (s.resumed l cs) := by
  obtain ⟨launches, policy⟩ := resumeCtxs_launches (s := s.putLaunch l { s.launchAt l with status := .resident, saved := Saved.init, why := 0 }) cs
  refine ⟨?_, (putLaunch_besides l _).trans (.of_launches launches policy)⟩
  rw [State.resumed, State.launchAt, launches, ← State.launchAt, putLaunch_launchAt_same]

theorem resumeNow_eq {ren : AMap Nat} (ends : s.reenter l (s.launchAt l).saved.entries [] = some (ren, t)) :
    s.resumeNow l = (t.rebuilt l (fun m => (s.mastAt m).nextSb) (s.launchAt l).saved ren).resumed l (s.launchAt l).saved.ctxs := by
  unfold State.resumeNow
  simp only [ends]
  rfl

/-- A launch that fits again goes on, and nothing above it changes. -/
theorem resumeNow_resident (fits : s.refits l = true) :
    ((s.resumeNow l).launchAt l).status = .resident ∧ besides l s (s.resumeNow l) := by
  have again : (s.reenter l (s.launchAt l).saved.entries []).isSome = true := ((Bool.and_eq_true _ _).mp fits).2
  obtain ⟨⟨ren, t⟩, ends⟩ := Option.isSome_iff_exists.mp again
  rw [resumeNow_eq ends]
  generalize s.mastAt = masts
  obtain ⟨resident, only⟩ := resumed_resident (s := t.rebuilt l (fun m => (masts m).nextSb) (s.launchAt l).saved ren) l (s.launchAt l).saved.ctxs
  exact ⟨resident, ((reenter_besides ends).trans (rebuilt_besides _ _ _ _)).trans only⟩

/-! ### Tables -/

/-- A key whose value is not the default is listed with that value. -/
theorem AMap.mem_of_get {α : Type} {m : AMap α} {k : Nat} {d : α} (found : m.get k d ≠ d) : (k, m.get k d) ∈ m := by
  induction m with
  | nil => exact absurd rfl found
  | cons p m ih =>
    obtain ⟨key, v⟩ := p
    rw [AMap.get] at found ⊢
    split at found
    case isTrue own => subst own; rw [if_pos rfl]; exact List.mem_cons_self ..
    case isFalse other => rw [if_neg other]; exact List.mem_cons_of_mem _ (ih found)

/-- Looking up a key in a table whose values are changed, where the default stays. -/
theorem AMap.get_map_value {α : Type} {f : Nat × α → Nat × α} {g : α → α} {d : α} (values : ∀ p, f p = (p.1, g p.2)) (default : g d = d)
    (m : AMap α) (k : Nat) : AMap.get (m.map f) k d = g (m.get k d) := by
  induction m with
  | nil => exact default.symm
  | cons p m ih =>
    simp only [List.map_cons, AMap.get, values]
    split
    · rfl
    · exact ih

theorem mem_launchesWith {f : Launch → Bool} {j : Nat} (picked : f (s.launchAt j) = true) (default : f Launch.init = false) :
    j ∈ s.launchesWith f := by
  have found : s.launches.get j Launch.init ≠ Launch.init := fun same => by rw [State.launchAt, same, default] at picked; exact nomatch picked
  exact List.mem_map.mpr ⟨_, List.mem_filter.mpr ⟨AMap.mem_of_get found, picked⟩, rfl⟩

theorem mem_queuesOf {j p : Nat} (live : (s.queueAt j).live = true) (part : (s.queueAt j).part = p) : j ∈ s.queuesOf p := by
  have found : s.queues.get j Queue.init ≠ Queue.init := fun same => by rw [State.queueAt, same] at live; exact nomatch live
  refine List.mem_map.mpr ⟨_, List.mem_filter.mpr ⟨AMap.mem_of_get found, ?_⟩, rfl⟩
  exact (Bool.and_eq_true _ _).mpr ⟨live, decide_eq_true part⟩

/-! ### Commands that name a launch (R361) -/

theorem command_works {fn code : Nat} {args : List Word} {f : State → Res × State} {r : Res} (low : fn < 34) (ready : s.plat.ready = true)
    (turn : (s.page fn).run = none ∨ (s.page fn).run = some (code, args) ∧ s.place.a = 1) (work : f s = (r, t)) :
    ∃ carg, s.command fn code args f = t.afterCommand fn code args carg r := by
  have tried : s.tried f = (r, t) := by rw [State.tried, if_pos ready, work]
  rcases turn with idle | ⟨own, again⟩
  · exact ⟨args, by rw [command_fresh low idle, tried]⟩
  · exact ⟨_, by rw [command_goesOn low own again, tried]⟩

/-- A command that can end is answered. -/
theorem command_answers {fn code : Nat} {args : List Word} {f : State → Res × State} {r : Res} (low : fn < 34) (ready : s.plat.ready = true)
    (turn : (s.page fn).run = none ∨ (s.page fn).run = some (code, args) ∧ s.place.a = 1) (work : f s = (r, t)) (stops : r ≠ .runs) :
    ∃ carg, s.command fn code args f = t.answered fn carg r := by
  obtain ⟨carg, done⟩ := command_works low ready turn work
  exact ⟨carg, done.trans (if_neg stops)⟩

/-- A command that cannot end yet runs on, with the page busy. -/
theorem command_runsOn {fn code : Nat} {args : List Word} {f : State → Res × State} (low : fn < 34) (ready : s.plat.ready = true)
    (turn : (s.page fn).run = none ∨ (s.page fn).run = some (code, args) ∧ s.place.a = 1) (work : f s = (.runs, s)) :
    ((s.command fn code args f).page fn).run = some (code, args) ∧ { s.command fn code args f with pages := s.pages } = s := by
  obtain ⟨carg, done⟩ := command_works low ready turn work
  rw [done, State.afterCommand, if_pos rfl, pageSet_page]
  exact ⟨rfl, rfl⟩

/-- A command's words name a queue of the function and a launch of it. -/
structure namesLaunch (s : State) (fn : Nat) (a0 a1 : Word) (l : Nat) : Prop where
  high : bits a0 63 10 = 0
  live : (s.queueAt (bits a0 9 0)).live = true
  may : s.mayName fn (s.queueAt (bits a0 9 0)).part = true
  seq : bits a1 63 16 = 0
  named : s.launchNamed (bits a0 9 0) (bits a1 15 0) = some l

theorem onLaunch_runs {fn : Nat} {a0 a1 : Word} {zeros : List Word} {f : State → Nat → Nat → Res × State} (names : namesLaunch s fn a0 a1 l)
    (zero : allZero zeros = true) : s.onLaunch fn a0 a1 zeros f = f s (bits a0 9 0) l := by
  refine (onQueue_runs names.high zero names.live names.may).trans ?_
  simp only [names.seq, names.named, ne_eq, not_true_eq_false, if_false]

section commands
variable {fn : Nat} {a0 a1 a2 : Word} (low : fn < 34) (ready : s.plat.ready = true) (names : namesLaunch s fn a0 a1 l)
include low ready names

theorem preempt_ends (turn : (s.page fn).run = none ∨ (s.page fn).run = some (5, [a0, a1, 0, 0]) ∧ s.place.a = 1)
    (lives : (s.launchAt l).killed = false) (resident : (s.launchAt l).status = .resident) (still : s.stoppable l = true) :
    ∃ carg, exec (.preempt fn a0 a1 0 0) s = .next ((s.preempt l 2).answered fn carg .done) := by
  refine Exists.imp (fun _ => congrArg Host.Outcome.next) (command_answers low ready turn ((onLaunch_runs names rfl).trans ?_) nofun)
  simp only [lives, resident, still, Bool.false_eq_true, if_false, if_true]

theorem preempt_runsOn (turn : (s.page fn).run = none ∨ (s.page fn).run = some (5, [a0, a1, 0, 0]) ∧ s.place.a = 1)
    (lives : (s.launchAt l).killed = false) (resident : (s.launchAt l).status = .resident) (moves : s.stoppable l = false) :
    ∃ u, exec (.preempt fn a0 a1 0 0) s = .next u ∧ (u.page fn).run = some (5, [a0, a1, 0, 0]) ∧ { u with pages := s.pages } = s := by
  refine ⟨_, rfl, command_runsOn low ready turn ((onLaunch_runs names rfl).trans ?_)⟩
  simp only [lives, resident, moves, Bool.false_eq_true, if_false, if_true]

theorem resume_marks (idle : (s.page fn).run = none) (lives : (s.launchAt l).killed = false) (preempted : (s.launchAt l).status = .preempted)
    (full : (s.restartWatch (bits a0 9 0)).refits l = false) : ∃ carg, exec (.resume fn a0 a1 0 0) s =
      .next (((s.restartWatch (bits a0 9 0)).putLaunch l { s.launchAt l with why := 1 }).answered fn carg .done) := by
  refine Exists.imp (fun _ => congrArg Host.Outcome.next) (command_answers low ready (.inl idle) ((onLaunch_runs names rfl).trans ?_) nofun)
  simp only [show (s.restartWatch (bits a0 9 0)).launchAt l = s.launchAt l from rfl, lives, preempted, full, ne_eq, not_true_eq_false,
    Bool.false_eq_true, or_self, if_false]

theorem resume_resumes (idle : (s.page fn).run = none) (lives : (s.launchAt l).killed = false) (preempted : (s.launchAt l).status = .preempted)
    (fits : (s.restartWatch (bits a0 9 0)).refits l = true) : ∃ carg, exec (.resume fn a0 a1 0 0) s =
      .next (((s.restartWatch (bits a0 9 0)).resumeNow l).answered fn carg .done) := by
  refine Exists.imp (fun _ => congrArg Host.Outcome.next) (command_answers low ready (.inl idle) ((onLaunch_runs names rfl).trans ?_) nofun)
  simp only [show (s.restartWatch (bits a0 9 0)).launchAt l = s.launchAt l from rfl, lives, preempted, fits, ne_eq, not_true_eq_false,
    Bool.false_eq_true, or_self, if_false, if_true]

theorem kill_kills (idle : (s.page fn).run = none) : ∃ carg, exec (.kill fn a0 a1 0 0) s = .next ((s.kill l 3).answered fn carg .done) :=
  Exists.imp (fun _ => congrArg Host.Outcome.next) (command_answers low ready (.inl idle) (onLaunch_runs names rfl) nofun)

theorem shootdown_drops (turn : (s.page fn).run = none ∨ (s.page fn).run = some (10, [a0, a1, a2, 0]) ∧ s.place.a = 1)
    (zeros : bits a2 7 4 = 0 ∧ bits a2 63 9 = 0) (range : bit a2 8 = true ∨ bits a2 3 0 < (s.launchAt l).ranges.length)
    (done : s.translatedDone l = true) : ∃ carg, exec (.shootdown fn a0 a1 a2 0) s =
      .next ((s.dropExtents l (bit a2 8) (bits a2 3 0)).answered fn carg .done) := by
  refine Exists.imp (fun _ => congrArg Host.Outcome.next) (command_answers low ready turn ((if_neg ?_).trans ((onLaunch_runs names rfl).trans
    ((if_neg ?_).trans ?_))) nofun)
  · simp only [zeros, ne_eq, not_true_eq_false, or_self, not_false_eq_true]
  · rcases range with all | one
    · rw [all]; nofun
    · simp only [show ¬(s.launchAt l).ranges.length ≤ bits a2 3 0 by omega, decide_false, Bool.and_false, Bool.false_eq_true, not_false_eq_true]
  · rw [done]; rfl

theorem shootdown_runsOn (turn : (s.page fn).run = none ∨ (s.page fn).run = some (10, [a0, a1, a2, 0]) ∧ s.place.a = 1)
    (zeros : bits a2 7 4 = 0 ∧ bits a2 63 9 = 0) (range : bit a2 8 = true ∨ bits a2 3 0 < (s.launchAt l).ranges.length)
    (waits : s.translatedDone l = false) :
    ∃ u, exec (.shootdown fn a0 a1 a2 0) s = .next u ∧ (u.page fn).run = some (10, [a0, a1, a2, 0]) ∧ { u with pages := s.pages } = s := by
  refine ⟨_, rfl, command_runsOn low ready turn ((if_neg ?_).trans ((onLaunch_runs names rfl).trans ((if_neg ?_).trans ?_)))⟩
  · simp only [zeros, ne_eq, not_true_eq_false, or_self, not_false_eq_true]
  · rcases range with all | one
    · rw [all]; nofun
    · simp only [show ¬(s.launchAt l).ranges.length ≤ bits a2 3 0 by omega, decide_false, Bool.and_false, Bool.false_eq_true, not_false_eq_true]
  · rw [waits]; rfl

end commands

/-! ### Kills and shootdowns -/

theorem kill_killed (l code : Nat) : ((s.kill l code).launchAt l).killed = true := by
  unfold State.kill
  dsimp only
  split
  · rw [putLaunch_launchAt_same]; assumption
  · rw [putLaunch_launchAt_same]

theorem keepExtents_nil (all : Bool) (r : Nat) : keepExtents all r [] = [] := by cases all <;> rfl

theorem dropExtents_extents (l : Nat) (all : Bool) (r : Nat) {j : Nat} (own : (s.taskAt j).launch = l) :
    ((s.dropExtents l all r).taskAt j).extents = keepExtents all r (s.taskAt j).extents := by
  have task : (s.dropExtents l all r).taskAt j =
      (if (s.taskAt j).launch = l then { s.taskAt j with extents := keepExtents all r (s.taskAt j).extents } else s.taskAt j) := by
    refine AMap.get_map_value (g := fun t : Task => if t.launch = l then { t with extents := keepExtents all r t.extents } else t)
      (fun p => by split <;> rfl) ?_ _ _
    split
    · rw [show Task.init.extents = [] from rfl, keepExtents_nil]; rfl
    · rfl
  rw [task, if_pos own]

/-! ### Resets (R371, R372) -/

section loops
variable {α : Type} {e : State → Nat → State} (others : ∀ (s : State) l j, j ≠ l → (e s l).launchAt j = s.launchAt j)
include others

/-- A loop over launches leaves the launches that it does not name. -/
theorem foldl_launchAt_other {ls : List Nat} {j : Nat} (absent : j ∉ ls) : (ls.foldl e s).launchAt j = s.launchAt j := by
  induction ls generalizing s with
  | nil => rfl
  | cons l ls ih =>
    obtain ⟨other, absent⟩ : j ≠ l ∧ j ∉ ls := by simpa using absent
    exact (ih absent).trans (others s l j other)

/-- A launch that a loop names holds at its end what a step of the loop gives it. -/
theorem foldl_launchAt_named {ls : List Nat} {j : Nat} (named : j ∈ ls) : ∃ t, (ls.foldl e s).launchAt j = (e t j).launchAt j := by
  induction ls generalizing s with
  | nil => exact nomatch named
  | cons l ls ih =>
    by_cases again : j ∈ ls
    · exact ih again
    · obtain rfl : j = l := (List.mem_cons.mp named).resolve_right again
      exact ⟨s, foldl_launchAt_other others again⟩

/-- Where a loop names it once, that step starts from the launch as it was. -/
theorem foldl_launchAt_once {ls : List Nat} {j : Nat} (once : ls.Nodup) (named : j ∈ ls) :
    ∃ t, t.launchAt j = s.launchAt j ∧ (ls.foldl e s).launchAt j = (e t j).launchAt j := by
  induction ls generalizing s with
  | nil => exact nomatch named
  | cons l ls ih =>
    obtain ⟨fresh, once⟩ := List.nodup_cons.mp once
    by_cases own : j = l
    · subst own
      exact ⟨s, rfl, foldl_launchAt_other others fresh⟩
    · obtain ⟨t, start, done⟩ := ih (s := e s l) once ((List.mem_cons.mp named).resolve_left own)
      exact ⟨t, start.trans (others s l j own), done⟩

end loops

/-- A loop over queues gives each of them what its step gives, where the step keeps what it asks for. -/
theorem foldl_setQueue {f : Queue → Queue} {I P : Queue → Prop} (step : ∀ q, I q → I (f q) ∧ P (f q)) (ks : List Nat) {j : Nat}
    (start : I (s.queueAt j)) (named : j ∈ ks) : P ((ks.foldl (fun s k => s.setQueue k f) s).queueAt j) := by
  induction ks generalizing s with
  | nil => exact nomatch named
  | cons k ks ih =>
    by_cases again : j ∈ ks
    · refine ih ?_ again
      by_cases own : j = k
      · rw [own, setQueue_queueAt_same]; exact (step _ (own ▸ start)).1
      · rwa [setQueue_queueAt_other own]
    · obtain rfl : j = k := (List.mem_cons.mp named).resolve_right again
      have rest : ∀ (ks : List Nat) (t : State), j ∉ ks → (ks.foldl (fun s k => s.setQueue k f) t).queueAt j = t.queueAt j := by
        intro ks
        induction ks with
        | nil => exact fun _ _ => rfl
        | cons k ks ih =>
          intro t absent
          obtain ⟨other, absent⟩ : j ≠ k ∧ j ∉ ks := by simpa using absent
          exact (ih _ absent).trans (setQueue_queueAt_other other f)
      rw [List.foldl_cons, rest ks _ again, setQueue_queueAt_same]
      exact (step _ start).2

theorem setQueue_launches (k : Nat) (f : Queue → Queue) : (s.setQueue k f).launches = s.launches := by
  obtain ⟨_, _, _, h⟩ := syncDesc_only (s := s.putQueue k (f (s.queueAt k))) k
  rw [State.setQueue, h]
  rfl

theorem foldl_setQueue_launches (f : Queue → Queue) (ks : List Nat) : (ks.foldl (fun s k => s.setQueue k f) s).launches = s.launches := by
  induction ks generalizing s with
  | nil => rfl
  | cons k ks ih => exact ih.trans (setQueue_launches k f)

theorem drainStores_besides (sts : List BufStore) :
    besides l s (sts.foldl (fun (s : State) st => if space st.ea = 0 then s.write st.key st.bytes else s) s) := by
  refine .foldl sts fun u st _ => ?_
  split
  · exact write_besides _ _
  · exact .refl u

theorem flushStores_besides (j : Nat) : besides l s (s.flushStores j) :=
  .foldl _ fun _ p _ => (drainStores_besides p.2.storeBuf).trans (.of_launches rfl rfl)

/-- A dispatched launch of an isolated partition ends with the status of a kill in progress, or as reset. -/
def State.endDispatched (s : State) (l : Nat) : State :=
  let la := s.launchAt l
  (s.flushStores l).complete l (if la.killed then la.code else 3)

/-- A launch of a gang partition ends, to be taken again. -/
def State.endTaken (s : State) (l : Nat) : State :=
  let t := s.release l
  t.putLaunch l (t.launchAt l).ended

theorem endDispatched_other (s : State) (l j : Nat) (other : j ≠ l) : (s.endDispatched l).launchAt j = s.launchAt j :=
  (complete_launchAt_other l _ other).trans ((flushStores_besides (l := l) l).others j other)

theorem endDispatched_same (s : State) (l : Nat) : ((s.endDispatched l).launchAt l).status = .finished ∧
    ((s.endDispatched l).launchAt l).code = (if (s.launchAt l).killed then (s.launchAt l).code else 3) := by
  rw [State.endDispatched, complete_launchAt_same]
  exact ⟨rfl, rfl⟩

theorem endTaken_other (s : State) (l j : Nat) (other : j ≠ l) : (s.endTaken l).launchAt j = s.launchAt j :=
  (putLaunch_launchAt_other _ _ _ other).trans ((release_besides l).others j other)

theorem endTaken_same (s : State) (l : Nat) : ((s.endTaken l).launchAt l).status = .finished := by
  rw [State.endTaken, putLaunch_launchAt_same]
  rfl

theorem endTakens_queueAt (ls : List Nat) (k : Nat) : (ls.foldl State.endTaken s).queueAt k = s.queueAt k :=
  foldl_rule (P := fun t : State => t.queueAt k = s.queueAt k) (fun t l same =>
    (((release_besides l).trans (putLaunch_besides l ((t.release l).launchAt l).ended)).queueAt k).trans same) ls rfl

theorem endDispatcheds_queueAt {β : Type} (g : Queue → β)
    (kept : ∀ q n m b c, g { q with wcount := n, wstep := m, failed := b, halted := c } = g q) (ls : List Nat) (k : Nat) :
    g ((ls.foldl State.endDispatched s).queueAt k) = g (s.queueAt k) :=
  foldl_rule (P := fun t : State => g (t.queueAt k) = g (s.queueAt k)) (fun _ l same =>
    ((complete_queueAt g kept l _ k).trans (congrArg g ((flushStores_besides (l := l) l).queueAt k))).trans same) ls rfl

/-- A queue's reset in an isolated partition. -/
def Queue.waits (q : Queue) : Queue := { q with fenced := false, halted := true, wcount := 0, wstep := 0 }

/-- A queue's reset in a gang partition. -/
def Queue.retaken (q : Queue) : Queue := { q with head := q.fhead, halted := false, failed := false, wcount := 0, wstep := 0 }

theorem resetIsolated_eq (p : Nat) : ∃ t : State, s.resetIsolated p = (t.queuesOf p).foldl (fun s k => s.setQueue k Queue.waits) t ∧
    t.launches = (((s.launchesOfPart p).filter fun l => (s.launchAt l).status ≠ .checked).foldl State.endDispatched s).launches ∧
    t.queues = (((s.launchesOfPart p).filter fun l => (s.launchAt l).status ≠ .checked).foldl State.endDispatched s).queues :=
  ⟨_, rfl, rfl, rfl⟩

theorem resetGang_eq (p : Nat) : ∃ t : State, s.resetGang p = (t.queuesOf p).foldl (fun s k => s.setQueue k Queue.retaken) t ∧
    t.launches = ((s.launchesOfPart p).foldl State.endTaken s).launches ∧ t.queues = ((s.launchesOfPart p).foldl State.endTaken s).queues :=
  ⟨_, rfl, rfl, rfl⟩

theorem mem_launchesOfPart {j p : Nat} (alive : (s.launchAt j).alive = true) (part : (s.launchAt j).part = p) : j ∈ s.launchesOfPart p :=
  mem_launchesWith ((Bool.and_eq_true _ _).mpr ⟨alive, decide_eq_true part⟩) (by rfl)

theorem launchesOfPart_nodup (once : (s.launches.map (·.1)).Nodup) (p : Nat) : (s.launchesOfPart p).Nodup :=
  once.sublist (List.filter_sublist.map _)

/-- RESET of an isolated partition: its dispatched launches end, and its queues wait for RUN. -/
theorem resetIsolated_ends (p j : Nat) :
    ((s.launchAt j).alive = true → (s.launchAt j).part = p → (s.launchAt j).status ≠ .checked →
      ((s.resetIsolated p).launchAt j).status = .finished ∧ ((s.launches.map (·.1)).Nodup →
        ((s.resetIsolated p).launchAt j).code = if (s.launchAt j).killed then (s.launchAt j).code else 3)) ∧
    ((s.queueAt j).live = true → (s.queueAt j).part = p → ((s.resetIsolated p).queueAt j).wcount = 0 ∧
      ((s.resetIsolated p).queueAt j).halted = true ∧ ((s.resetIsolated p).queueAt j).fenced = false) := by
  obtain ⟨t, reset, launches, queues⟩ := resetIsolated_eq (s := s) p
  rw [reset]
  constructor
  · intro alive part dispatched
    have named : j ∈ (s.launchesOfPart p).filter fun l => (s.launchAt l).status ≠ .checked :=
      List.mem_filter.mpr ⟨mem_launchesOfPart alive part, decide_eq_true dispatched⟩
    have ended : ((t.queuesOf p).foldl (fun s k => s.setQueue k Queue.waits) t).launchAt j = _ :=
      congrArg (AMap.get · j Launch.init) ((foldl_setQueue_launches _ _).trans launches)
    rw [ended]
    constructor
    · obtain ⟨u, last⟩ := foldl_launchAt_named (s := s) endDispatched_other named
      exact (congrArg Launch.status last).trans (endDispatched_same u j).1
    · intro once
      obtain ⟨u, start, last⟩ := foldl_launchAt_once (s := s) endDispatched_other ((launchesOfPart_nodup once p).filter _) named
      refine (congrArg Launch.code last).trans ?_
      rw [(endDispatched_same u j).2, start]
  · intro live part
    have same {β : Type} (g : Queue → β) (kept : ∀ q n m b c, g { q with wcount := n, wstep := m, failed := b, halted := c } = g q) :
        g (t.queueAt j) = g (s.queueAt j) :=
      (congrArg (fun m => g (AMap.get m j Queue.init)) queues).trans (endDispatcheds_queueAt g kept _ j)
    have named : j ∈ t.queuesOf p := mem_queuesOf ((same Queue.live fun _ _ _ _ _ => rfl).trans live) ((same Queue.part fun _ _ _ _ _ => rfl).trans part)
    exact foldl_setQueue (f := Queue.waits) (I := fun _ => True) (P := fun q => q.wcount = 0 ∧ q.halted = true ∧ q.fenced = false)
      (fun q _ => ⟨trivial, rfl, rfl, rfl⟩) _ trivial named

/-- RESET of a gang partition: every launch ends, and its queues go back to their last FENCE. -/
theorem resetGang_ends (p j : Nat) :
    ((s.launchAt j).alive = true → (s.launchAt j).part = p → ((s.resetGang p).launchAt j).status = .finished) ∧
    ((s.queueAt j).live = true → (s.queueAt j).part = p → ((s.resetGang p).queueAt j).wcount = 0 ∧
      ((s.resetGang p).queueAt j).halted = false ∧ ((s.resetGang p).queueAt j).head = (s.queueAt j).fhead) := by
  obtain ⟨t, reset, launches, queues⟩ := resetGang_eq (s := s) p
  rw [reset]
  constructor
  · intro alive part
    obtain ⟨u, last⟩ := foldl_launchAt_named (s := s) endTaken_other (mem_launchesOfPart alive part)
    have ended : ((t.queuesOf p).foldl (fun s k => s.setQueue k Queue.retaken) t).launchAt j = _ :=
      congrArg (AMap.get · j Launch.init) ((foldl_setQueue_launches _ _).trans launches)
    exact (congrArg Launch.status (ended.trans last)).trans (endTaken_same u j)
  · intro live part
    have same : t.queueAt j = s.queueAt j := (congrArg (AMap.get · j Queue.init) queues).trans (endTakens_queueAt _ j)
    have named : j ∈ t.queuesOf p := mem_queuesOf (by rwa [same]) (by rwa [same])
    exact foldl_setQueue (f := Queue.retaken) (I := fun q => q.fhead = (s.queueAt j).fhead)
      (P := fun q => q.wcount = 0 ∧ q.halted = false ∧ q.head = (s.queueAt j).fhead) (fun q kept => ⟨kept, rfl, rfl, kept⟩) _ (by rw [same]) named

theorem reset_resets {fn : Nat} {a0 : Word} (low : fn < 34) (ready : s.plat.ready = true) (idle : (s.page fn).run = none)
    (high : bits a0 63 5 = 0) (live : (s.partAt (bits a0 4 0)).live = true) (may : s.mayName fn (bits a0 4 0) = true) :
    ∃ carg, exec (.reset fn a0 0 0 0) s = .next ((if (s.partAt (bits a0 4 0)).gang then s.resetGang (bits a0 4 0)
      else s.resetIsolated (bits a0 4 0)).answered fn carg .done) := by
  refine Exists.imp (fun _ => congrArg Host.Outcome.next) (command_answers low ready (.inl idle) ((if_neg ?_).trans (if_neg ?_)) nofun)
  · rw [high, live]; nofun
  · rw [may]; nofun

/-- A RESET ends the launches of its partition, and brings its queues back. -/
theorem reset_ends (p : Nat) : let u := if (s.partAt p).gang then s.resetGang p else s.resetIsolated p
    (∀ j, (s.launchAt j).alive = true → (s.launchAt j).part = p → (s.partAt p).gang = true ∨ (s.launchAt j).status ≠ .checked →
      (u.launchAt j).status = .finished) ∧
    (∀ j, (s.partAt p).gang = false → (s.launches.map (·.1)).Nodup → (s.launchAt j).alive = true → (s.launchAt j).part = p →
      (s.launchAt j).status ≠ .checked → (u.launchAt j).code = (if (s.launchAt j).killed then (s.launchAt j).code else 3)) ∧
    ∀ j, (s.queueAt j).live = true → (s.queueAt j).part = p → (u.queueAt j).wcount = 0 ∧
      ((s.partAt p).gang = false → (u.queueAt j).halted = true ∧ (u.queueAt j).fenced = false) ∧
      ((s.partAt p).gang = true → (u.queueAt j).halted = false ∧ (u.queueAt j).head = (s.queueAt j).fhead) := by
  intro u
  cases gang : (s.partAt p).gang
  case false =>
    have reset : u = s.resetIsolated p := if_neg (by rw [gang]; nofun)
    rw [reset]
    refine ⟨fun j alive part named => ?_, fun j _ once alive part dispatched => ((resetIsolated_ends p j).1 alive part dispatched).2 once,
      fun j live part => ?_⟩
    · exact ((resetIsolated_ends p j).1 alive part (named.resolve_left nofun)).1
    · obtain ⟨count, waits⟩ := (resetIsolated_ends p j).2 live part
      exact ⟨count, fun _ => waits, nofun⟩
  case true =>
    have reset : u = s.resetGang p := if_pos gang
    rw [reset]
    refine ⟨fun j alive part _ => (resetGang_ends p j).1 alive part, nofun, fun j live part => ?_⟩
    obtain ⟨count, again⟩ := (resetGang_ends p j).2 live part
    exact ⟨count, nofun, fun _ => again⟩

theorem fwswap_begins {fn : Nat} {a0 a1 : Word} (low : fn < 34) (ready : s.plat.ready = true) (idle : (s.page fn).run = none)
    (physical : fn < 2) (high : bits a0 63 3 = 0) (below : a1.toNat < 2 ^ 52) (own : (s.cpAt (bits a0 2 0)).swap = 0)
    (other : (s.cpAt (partner (bits a0 2 0))).swap = 0) : ∃ carg, exec (.fwswap fn a0 a1 0 0) s =
      .next ((s.putCp (bits a0 2 0) { s.cpAt (bits a0 2 0) with swap := 1, swapRes := 0, served := true, image := a1 }).answered fn carg .done) := by
  refine Exists.imp (fun _ => congrArg Host.Outcome.next) (command_answers low ready (.inl idle)
    ((if_neg ?_).trans ((if_neg ?_).trans (if_neg ?_))) nofun)
  · omega
  · have small : ¬2 ^ 52 ≤ a1.toNat := by omega
    simp only [high, small, ne_eq, not_true_eq_false, or_self, not_false_eq_true]
  · simp only [own, other, ne_eq, not_true_eq_false, or_self, not_false_eq_true]

theorem putCp_cpAt_same (n : Nat) (c : Cp) : (s.putCp n c).cpAt n = c := AMap.get_set_same _ _ _ _

theorem answered_run (fn : Nat) (args : List Word) (r : Res) : ((s.answered fn args r).page fn).run = none :=
  congrArg CtlPage.run (answered_page fn args r)

/-- Settles O51: each command by its work on the launch that it names. -/
theorem launchCommandsTakeEffect : Obligations.LaunchCommandsTakeEffect := by
  intro s fn l a0 a1 a2 low ready k q la t
  refine ⟨fun high live may seq named => ?launches, fun high live may idle => ?reset, fun physical high below own other idle => ?fwswap⟩
  case launches =>
    have names : namesLaunch s fn a0 a1 l := ⟨high, live, may, seq, named⟩
    refine ⟨fun turn lives resident => ⟨fun still why => ?_, fun moves => preempt_runsOn low ready names turn lives resident moves⟩,
      fun idle lives preempted => ⟨fun full => ?_, fun fits => ?_⟩, fun idle => ?_, fun turn z0 z1 range => ⟨fun done => ?_, fun waits =>
        shootdown_runsOn low ready names turn ⟨z0, z1⟩ range waits⟩⟩
    · obtain ⟨carg, done⟩ := preempt_ends low ready names turn lives resident still
      rw [preempt_plain (by omega) why] at done
      obtain ⟨status, asked⟩ := preemptNow_launchAt (s := s) l 2
      exact ⟨_, done, status, asked, answered_run _ _ _⟩
    · obtain ⟨carg, done⟩ := resume_marks low ready names idle lives preempted full
      refine ⟨_, done, congrArg Launch.why (putLaunch_launchAt_same (s.restartWatch k) l _), congrArg Queue.wcount (putQueue_queueAt_same k _)⟩
    · obtain ⟨carg, done⟩ := resume_resumes low ready names idle lives preempted fits
      obtain ⟨resident, only⟩ := resumeNow_resident (s := s.restartWatch k) fits
      exact ⟨_, done, resident, congrArg Queue.wcount ((only.queueAt k).trans (putQueue_queueAt_same k _))⟩
    · obtain ⟨carg, done⟩ := kill_kills low ready names idle
      exact ⟨_, done, sameMemory_of_mem (kill_mem s l 3), kill_killed l 3⟩
    · obtain ⟨carg, done⟩ := shootdown_drops low ready names turn ⟨z0, z1⟩ range done
      exact ⟨_, done, sameMemory_of_mem (dropExtents_mem s l (bit a2 8) (bits a2 3 0)), answered_run _ _ _, fun j own => dropExtents_extents l _ _ own⟩
  case reset =>
    obtain ⟨carg, done⟩ := reset_resets low ready idle high live may
    exact ⟨_, done, reset_ends (bits a0 4 0)⟩
  case fwswap =>
    obtain ⟨carg, done⟩ := fwswap_begins low ready idle physical high below own other
    have swap := putCp_cpAt_same (s := s) (bits a0 2 0) { s.cpAt (bits a0 2 0) with swap := 1, swapRes := 0, served := true, image := a1 }
    exact ⟨_, done, fun _ => rfl, congrArg Cp.swap swap, congrArg Cp.served swap, congrArg Cp.image swap⟩

end Sys2Proof.Machine
end

section
/-! Records of a queue, dispatch, completion and failures of launches (R362 to R368, R394); O52. -/

namespace Sys2Proof.Machine

variable {s t u : State} {l : Nat}

/-! ### Dispatch: what it does to a launch's memory fails it at most (R352) -/

/-- No launch has changed between the two states but for a failure that it may have got. -/
def failsOnly (s t : State) : Prop := ∀ j, ∃ f, t.launchAt j = { s.launchAt j with failure := f }

theorem failsOnly.of_launches (same : t.launches = s.launches) : failsOnly s t := fun j =>
  ⟨(s.launchAt j).failure, congrArg (AMap.get · j Launch.init) same⟩

theorem failsOnly.refl (s : State) : failsOnly s s := .of_launches rfl

theorem failsOnly.trans (first : failsOnly s t) (second : failsOnly t u) : failsOnly s u := fun j => by
  obtain ⟨_, hfirst⟩ := first j
  obtain ⟨f, hsecond⟩ := second j
  exact ⟨f, by rw [hsecond, hfirst]⟩

/-- Work that concerns no launch at all. -/
theorem failsOnly.of_besides (none : ∀ l, besides l s t) : failsOnly s t := fun j =>
  ⟨(s.launchAt j).failure, (none (j + 1)).others j (by omega)⟩

theorem failsOnly.foldl {α : Type} {g : State → α → State} (step : ∀ t x, failsOnly t (g t x)) (xs : List α) : failsOnly s (xs.foldl g s) :=
  foldl_rule (P := fun t => failsOnly s t) (fun _ _ only => only.trans (step _ _)) xs (.refl s)

theorem failsOnly.status (only : failsOnly s t) (l : Nat) : (t.launchAt l).status = (s.launchAt l).status := by
  obtain ⟨f, h⟩ := only l
  rw [h]

theorem failLaunch_failsOnly (l : Nat) (f : Failure) : failsOnly s (s.failLaunch l f) := by
  intro j
  unfold State.failLaunch
  dsimp only
  split
  · by_cases own : j = l
    · rw [own, putLaunch_launchAt_same]; exact ⟨some f, rfl⟩
    · rw [putLaunch_launchAt_other _ _ _ own]; exact ⟨_, rfl⟩
  · exact ⟨_, rfl⟩

theorem walkFailed_failsOnly (l core v level : Nat) : failsOnly s (s.walkFailed l core v level) :=
  (failsOnly.of_launches rfl : failsOnly s (s.markFailed _)).trans (failLaunch_failsOnly _ _)

theorem writeFor_failsOnly (launch kind v : Nat) (bs : List Byte) : failsOnly s (s.writeFor launch kind v bs) := by
  unfold State.writeFor
  split
  · exact .of_besides fun _ => writeVirt_besides ‹_›
  · exact walkFailed_failsOnly _ _ _ _

theorem firstExtents_failsOnly (l : Nat) : failsOnly s (s.firstExtents l).2 := by
  refine foldl_rule (P := fun q : List Extent × State => failsOnly s q.2) (fun q r only => only.trans ?_) _ (.refl s)
  split
  · exact walkFailed_failsOnly _ _ _ _
  · exact .of_besides fun _ => setLeafBits_besides _ _

theorem readyBlock_failsOnly (k : Nat) : failsOnly s (s.readyBlock k) := by
  unfold State.readyBlock
  dsimp only
  split
  · exact .refl s
  · split
    case h_1 v ends =>
      obtain ⟨w, done, same⟩ := bind_ok.mp ends
      cases same
      have only : failsOnly s w := .of_besides fun l =>
        (besides.of_launches rfl rfl : besides l s (s.focusTask k)).trans (ensure_besides done)
      exact only.trans (.of_launches rfl)
    case h_2 =>
      split
      · exact walkFailed_failsOnly _ _ _ _
      · exact .refl s

theorem pushOn_failsOnly {k : Nat} {r : Record} {v : State} (ends : s.pushOn k r = .ok v) : failsOnly s v := by
  unfold State.pushOn State.orFail at ends
  split at ends
  · rw [← Except.ok.inj ends]
    exact (failsOnly.of_launches rfl : failsOnly s (s.putTask k _)).trans (failLaunch_failsOnly _ _)
  · obtain ⟨u, room, ends⟩ := bind_ok.mp ends
    have roomed : tasksOnly s u := by
      unfold State.roomOn at room
      grind [bind_ok, putTask_only]
    obtain ⟨ts, rfl⟩ := roomed
    rw [← Except.ok.inj ends]
    exact .of_launches rfl

theorem pushFirst_failsOnly (k : Nat) (rs : List Record) : failsOnly s (s.pushFirst k rs) := by
  refine .foldl (fun t r => ?_) rs
  dsimp only
  refine (readyBlock_failsOnly k).trans ?_
  split
  · exact pushOn_failsOnly ‹_›
  · exact .refl _

theorem scrubPiece_launches (x : Task) : (s.scrubPiece x).launches = s.launches := by
  refine foldl_rule (P := fun t : State => t.launches = s.launches) (fun _ _ same => ?_) _ rfl
  exact same

theorem grantCore_failsOnly (l : Nat) (i : Image) (piece : Nat) (xs : List Extent) (ix core : Nat) : failsOnly s (s.grantCore l i piece xs ix core) := by
  have made (x : Task) : failsOnly s ((s.scrubPiece x).putTask (taskKey l core) x) := .of_launches (scrubPiece_launches x)
  exact (made _).trans (pushFirst_failsOnly _ _)

theorem grantMast_launches (l : Nat) (i : Image) (m : Nat) : (s.grantMast l i m).launches = s.launches := rfl

theorem grantTackle_failsOnly (l : Nat) (i : Image) (xs : List Extent) (x : Nat × Nat × Nat) : failsOnly s (s.grantTackle l i xs x) := by
  unfold State.grantTackle
  extract_lets n g a la blank p
  have streamers : failsOnly a p.2 := by
    refine foldl_rule (P := fun q : List Nat × State => failsOnly a q.2) (fun q c only => only.trans ?_) _ (.refl a)
    exact .of_launches rfl
  exact (failsOnly.of_launches rfl : failsOnly s a).trans (streamers.trans (.of_launches rfl))

/-- A dispatched launch is resident. -/
theorem install_resident (l : Nat) (i : Image) : ((s.install l i).launchAt l).status = .resident := by
  unfold State.install
  extract_lets la p piece h a b c d e x f g
  have made : (b.launchAt l).status = .resident := congrArg Launch.status (putLaunch_launchAt_same a l _)
  have text : failsOnly b c := writeFor_failsOnly _ _ _ _
  have data : failsOnly c d := writeFor_failsOnly _ _ _ _
  have rules : failsOnly d e := writeFor_failsOnly _ _ _ _
  have extents : failsOnly e x.2 := firstExtents_failsOnly l
  have masts : failsOnly x.2 f := .foldl (fun _ m => .of_launches (grantMast_launches l i m)) _
  have cores : failsOnly f g := .foldl (fun _ _ => grantCore_failsOnly _ _ _ _ _ _) _
  have tackles : failsOnly g (i.tacks.foldl (fun s t => s.grantTackle l i x.1 t) g) := .foldl (fun _ _ => grantTackle_failsOnly _ _ _ _) _
  have all := (text.trans (data.trans rules)).trans ((extents.trans masts).trans (cores.trans tackles))
  exact (all.status l).trans made

/-! ### Records (R362, R363) -/

theorem haltQueue_queueAt (k : Nat) : (s.haltQueue k).queueAt k = { s.queueAt k with halted := true } := setQueue_queueAt_same k _

theorem nextRecord_queueAt (k : Nat) : (s.nextRecord k).queueAt k = { s.queueAt k with head := ((s.queueAt k).head + 1) % 2 ^ 32 } :=
  setQueue_queueAt_same k _

theorem setQueue_parts (k : Nat) (f : Queue → Queue) : (s.setQueue k f).parts = s.parts := by
  obtain ⟨_, _, _, h⟩ := syncDesc_only (s := s.putQueue k (f (s.queueAt k))) k
  rw [State.setQueue, h]
  rfl

/-- The launch that a LAUNCH record makes. -/
def State.launchOf (s : State) (k : Nat) (img : Option Image) (rs : List Range) : Launch :=
  let d := s.recordDbl k
  let q := s.queueAt k
  { Launch.init with
    status := .checked, queue := k, seq := bits (d 0) 15 0, ring := q.head, part := q.part, prio := q.prio, img := img
    ranges := rs, root := bits (d 5) 51 8 * 256, imageVa := d 1, doneVa := d 3, hbindVa := d 4
    sdom := bits (d 0) 17 16, params := (List.range 8).map fun i => d (6 + i) }

/-- The state in which a LAUNCH record has been taken. -/
def State.recordTaken (s : State) (k : Nat) (img : Option Image) (rs : List Range) : State :=
  ({ s with nextId := s.nextId + 1 }.nextRecord k).putLaunch (s.nextId + 1) (s.launchOf k img rs)

theorem recordTaken_partAt (k : Nat) (img : Option Image) (rs : List Range) (p : Nat) : (s.recordTaken k img rs).partAt p = s.partAt p :=
  congrArg (AMap.get · p Partition.init) (setQueue_parts (s := { s with nextId := s.nextId + 1 }) k _)

theorem launch_halts {k : Nat} {img : Option Image} (takes : s.takesRecord k = true) (reserved : 3 ≤ s.recordOp k) :
    exec (.launch k img) s = .next (s.haltQueue k) := by
  rw [show exec (.launch k img) s = execLaunch k img s from rfl, execLaunch]
  refine (if_neg ?_).trans (if_pos reserved)
  rw [takes]
  nofun

theorem launch_takes {k : Nat} {img : Option Image} {rs : List Range} (takes : s.takesRecord k = true) (op : s.recordOp k = 1)
    (fields : s.launchRecordOk k = true)
    (done : s.doneOk (bits (s.recordDbl k 5) 51 8 * 256) (s.looseRanges (s.recordDbl k 2).toNat (bits (s.recordDbl k 0) 35 32 + 1))
      (s.recordDbl k 3) = true)
    (ranges : s.readRanges (s.recordDbl k 2).toNat (bits (s.recordDbl k 0) 35 32 + 1) = some rs)
    (passes : rejection img (s.recordDbl k 1) (some rs) (bits (s.recordDbl k 5) 51 8 * 256) (s.partAt (s.queueAt k).part) = none) :
    exec (.launch k img) s = .next ((s.recordTaken k img rs).assignRoot (s.nextId + 1)) := by
  rw [show exec (.launch k img) s = execLaunch k img s from rfl, execLaunch]
  refine (if_neg (by rw [takes]; nofun)).trans ((if_neg (by omega)).trans ((if_neg (by omega)).trans ((if_neg ?_).trans ?_)))
  · rw [fields, done]; nofun
  · simp only [ranges, Option.getD_some]
    rw [← recordTaken_partAt k img rs] at passes
    split
    case h_1 => rfl
    case h_2 c rejected => exact nomatch passes.symm.trans rejected

theorem nopRecord_passes (takes : s.takesRecord s.place.a = true) (short : s.shortRecordOk s.place.a = true) (op : s.recordOp s.place.a = 0) :
    exec .nopRecord s = .next (s.nextRecord s.place.a) := by
  rw [show exec .nopRecord s = execNopRecord s from rfl, execNopRecord]
  simp only [takes, short, op, decide_true, Bool.and_self, Bool.not_true, Bool.false_eq_true, if_false, if_true]

theorem fenceRecord_passes (takes : s.takesRecord s.place.a = true) (short : s.shortRecordOk s.place.a = true) (op : s.recordOp s.place.a = 2)
    (ended : (s.launchesWith fun la => la.alive && decide (la.queue = s.place.a)) = []) :
    exec .fenceRecord s = .next ((s.nextRecord s.place.a).setQueue s.place.a fun q => { q with fhead := q.head }) := by
  rw [show exec .fenceRecord s = execFenceRecord s from rfl, execFenceRecord]
  simp only [takes, short, op, ended, decide_true, Bool.and_self, Bool.not_true, Bool.false_eq_true, if_false, List.isEmpty_nil, if_true]

theorem launchDispatch_installs {i : Image} (cold : s.plat.coldOnly = false) (waiting : s.waitingLaunch s.place.a = some l)
    (image : (s.launchAt l).img = some i) (fits : s.fits l [] = true) (first : s.resumesFirst l = false) :
    exec .launchDispatch s = .next (s.install l i) := by
  rw [show exec .launchDispatch s = execLaunchDispatch s from rfl, execLaunchDispatch]
  simp only [waiting, image, cold, fits, first, Bool.not_false, Bool.and_self, if_true]

/-! ### Ends and failures (R365, R368, R394) -/

theorem launchComplete_killed (killed : (s.launchAt s.place.a).killed = true) (alive : (s.launchAt s.place.a).alive = true)
    (written : s.written s.place.a = true) :
    exec .launchComplete s = .next (s.complete s.place.a (s.launchAt s.place.a).code) := by
  rw [show exec .launchComplete s = execLaunchComplete s from rfl, execLaunchComplete]
  simp only [killed, alive, written, Bool.and_self, Bool.not_true, Bool.false_eq_true, if_false, if_true]

section
variable (lives : (s.launchAt s.place.a).killed = false) (resident : (s.launchAt s.place.a).status = .resident)
  (sound : (s.launchAt s.place.a).failure = none)
include lives resident sound

theorem launchComplete_ends (quiet : s.quiescent s.place.a = true) (written : s.written s.place.a = true) (walks : s.endFault s.place.a = none) :
    exec .launchComplete s = .next (s.complete s.place.a 1) := by
  rw [show exec .launchComplete s = execLaunchComplete s from rfl, execLaunchComplete]
  simp only [lives, resident, sound, quiet, written, walks, Bool.false_and, Bool.false_eq_true, if_false, and_self, if_true]

theorem launchComplete_fails {v level : Nat} (quiet : s.quiescent s.place.a = true) (written : s.written s.place.a = true)
    (fault : s.endFault s.place.a = some (v, level)) : exec .launchComplete s = .next (s.walkFailed s.place.a 0 v level) := by
  rw [show exec .launchComplete s = execLaunchComplete s from rfl, execLaunchComplete]
  simp only [lives, resident, sound, quiet, written, fault, Bool.false_and, Bool.false_eq_true, if_false, and_self, if_true]

end

theorem failLaunch_failure_same {f : Failure} (sound : (s.launchAt l).failure = none) : ((s.failLaunch l f).launchAt l).failure = some f := by
  unfold State.failLaunch
  simp only [sound, if_true]
  rw [putLaunch_launchAt_same]

/-- Cancelling a launch's work counts it, and drops what it had saved. -/
theorem cancel_launchAt (l : Nat) : ∃ n, (s.cancel l).launchAt l = { s.launchAt l with sfcan := n, saved := Saved.init } := by
  unfold State.cancel
  extract_lets n a b la
  have ended : besides (l + 1) s a := (endSteals_besides l).trans (.of_launches rfl rfl)
  have dropped : besides (l + 1) a b := .foldl _ fun t p _ => drop_besides p
  have same : la = s.launchAt l := (ended.trans dropped).others l (by omega)
  clear_value la
  subst same
  exact ⟨_, putLaunch_launchAt_same _ _ _⟩

/-- A kill gives a launch its status, and keeps its failure. -/
theorem kill_fresh (lives : (s.launchAt l).killed = false) (code : Nat) :
    ((s.kill l code).launchAt l).code = code ∧ ((s.kill l code).launchAt l).failure = (s.launchAt l).failure := by
  obtain ⟨n, cancelled⟩ := cancel_launchAt (s := s) l
  unfold State.kill
  rw [if_neg (by rw [lives]; nofun), putLaunch_launchAt_same, cancelled]
  exact ⟨rfl, rfl⟩

theorem taskFail_kills (failed : (s.launchAt s.place.a).failure ≠ none) (lives : (s.launchAt s.place.a).killed = false)
    (dispatched : (s.launchAt s.place.a).status = .resident ∨ (s.launchAt s.place.a).status = .preempted) :
    exec .taskFail s = .next (s.kill s.place.a 2) := by
  rw [show exec .taskFail s = execTaskFail s from rfl, execTaskFail]
  exact if_pos ⟨failed, by rw [lives]; rfl, dispatched⟩

/-- The state in which AER has logged an error. -/
def State.logged (s : State) : State := { s with plat := { s.plat with aer := s.plat.aer + 1 } }

theorem hostWriteReject_logs (stopped : s.runs s.place.a = false) : exec .hostWriteReject s = .next s.logged := by
  rw [show exec .hostWriteReject s = execHostWriteReject s from rfl, execHostWriteReject]
  exact if_neg (Bool.eq_false_iff.mp stopped)

/-- A rejected host write of a launch that runs fails it, after two free values have been taken. -/
theorem hostWriteReject_fails (runs : s.runs s.place.a = true) : ∃ (t : State) (core : Nat) (addr : Word),
    exec .hostWriteReject s = .next (t.failLaunch s.place.a ⟨0x40, 0, core, addr, 0⟩) ∧ t.launches = s.launches ∧ t.mem = s.mem ∧
      t.policy = s.logged.policy := by
  refine ⟨_, _, _, if_pos runs, rfl, rfl, rfl⟩

/-- Settles O52: each record and each event of a launch by its equation. -/
theorem launchesRun : Obligations.LaunchesRun := by
  intro s l la
  refine ⟨fun k img rs takes => ⟨fun reserved => ?halts, fun op fields done ranges passes => ?taken⟩, fun takes short => ⟨fun op => ?nop, fun op ended => ?fence⟩,
    fun i cold waiting image fits first => ⟨_, launchDispatch_installs cold waiting image fits first, install_resident l i⟩, fun here => ?events⟩
  case halts =>
    have halted := haltQueue_queueAt (s := s) k
    exact ⟨_, launch_halts takes reserved, (congrArg Queue.halted halted :), (congrArg Queue.head halted :)⟩
  case taken =>
    have made : ((s.recordTaken k img rs).assignRoot (s.nextId + 1)).launchAt (s.nextId + 1) =
        { s.launchOf k img rs with asid := (s.recordTaken k img rs).freeAsid } := by
      rw [State.assignRoot, putLaunch_launchAt_same, State.recordTaken, putLaunch_launchAt_same]
    have next := congrArg Queue.head (nextRecord_queueAt (s := { s with nextId := s.nextId + 1 }) k)
    exact ⟨_, launch_takes takes op fields done ranges passes, next, congrArg Launch.status made, congrArg Launch.queue made,
      congrArg Launch.seq made, congrArg Launch.img made⟩
  case nop => exact ⟨_, nopRecord_passes takes short op, nextRecord_queueAt _⟩
  case fence =>
    refine ⟨_, fenceRecord_passes takes short op ended, ?_⟩
    rw [setQueue_queueAt_same, nextRecord_queueAt]
  case events =>
    subst here
    refine ⟨fun killed alive written => ⟨_, launchComplete_killed killed alive written, ?_, ?_⟩, fun lives resident sound quiet written =>
      ⟨fun walks => ⟨_, launchComplete_ends lives resident sound quiet written walks, ?_, ?_⟩, fun v level fault => ?_⟩,
      fun failed lives dispatched => ?_, fun lives resident sound => ?_, hostWriteReject_logs⟩
    · rw [complete_launchAt_same]; rfl
    · rw [complete_launchAt_same]; rfl
    · rw [complete_launchAt_same]; rfl
    · rw [complete_launchAt_same]; rfl
    · exact ⟨_, _, launchComplete_fails lives resident sound quiet written fault, sameMemory_of_mem (walkFailed_mem ..),
        failLaunch_failure_same (s := s.markFailed _) sound, rfl, rfl, rfl⟩
    · obtain ⟨code, failure⟩ := kill_fresh lives 2
      exact ⟨_, taskFail_kills failed lives dispatched, sameMemory_of_mem (kill_mem s _ 2), kill_killed _ 2, code, failure⟩
    · have runs : s.runs s.place.a = true := by rw [State.runs, lives, resident]; rfl
      obtain ⟨t, core, addr, run, launches, mem, policy⟩ := hostWriteReject_fails runs
      have same : t.launchAt s.place.a = s.launchAt s.place.a := congrArg (AMap.get · _ Launch.init) launches
      refine ⟨_, ⟨0x40, 0, core, addr, 0⟩, run, sameMemory_of_mem ((failLaunch_mem ..).trans mem), failLaunch_failure_same (same ▸ sound), rfl, ?_⟩
      rw [(failLaunch_besides _ _).plat]
      exact congrArg (fun p : AMap Queue × AMap Partition × SecCtl × Platform × _ => p.2.2.2.1.aer) policy

end Sys2Proof.Machine
end

section
/-! Priorities, system messages and watchdogs of queues (R360, R366, R371, R372); O53. -/

namespace Sys2Proof.Machine

variable {s t u : State} {l : Nat}

/-! ### Pre-emption by priority (R366) -/

theorem writeRecord_failsOnly (l : Nat) (ws : List Word) : failsOnly s (s.writeRecord l ws) := by
  have written (t : State) (k : Nat) (only : failsOnly s t) : failsOnly s (t.queueIrq k) := only.trans (.of_launches rfl)
  refine written _ _ ?_
  split
  · exact .of_besides fun _ => writeVirt_besides ‹_›
  · exact walkFailed_failsOnly _ _ _ _

/-- A queue whose launch the watchdog has stopped. -/
def State.queueStopped (s : State) (l k : Nat) (ws : List Word) : State := ((s.writeRecord l ws).restartWatch k).haltQueue k

theorem queueStopped_failsOnly (l k : Nat) (ws : List Word) : failsOnly s (s.queueStopped l k ws) :=
  (writeRecord_failsOnly l ws).trans (.of_launches (haltQueue_launches k))

theorem queueStopped_queueAt (l k : Nat) (ws : List Word) : ((s.queueStopped l k ws).queueAt k).halted = true ∧
    ((s.queueStopped l k ws).queueAt k).wcount = 0 ∧ ((s.queueStopped l k ws).queueAt k).wstep = 0 := by
  rw [State.queueStopped, haltQueue_queueAt, State.restartWatch, putQueue_queueAt_same]
  exact ⟨rfl, rfl, rfl⟩

theorem preempt_asked {why : Nat} (asked : why = 3 ∨ (s.launchAt l).why = 3) : s.preempt l why =
    (s.preemptNow l 3).queueStopped l (s.launchAt l).queue (((s.preemptNow l 3).launchAt l).record 5) := if_pos asked

/-- The launch that a pre-emption stops is pre-empted, as the watchdog's where it has asked for it. -/
theorem preempt_launchAt (l why : Nat) : ((s.preempt l why).launchAt l).status = .preempted ∧
    ((s.preempt l why).launchAt l).why = (if why = 3 ∨ (s.launchAt l).why = 3 then 3 else why) := by
  by_cases asked : why = 3 ∨ (s.launchAt l).why = 3
  · obtain ⟨status, reason⟩ := preemptNow_launchAt (s := s) l 3
    obtain ⟨f, same⟩ := queueStopped_failsOnly (s := s.preemptNow l 3) l (s.launchAt l).queue (((s.preemptNow l 3).launchAt l).record 5) l
    rw [preempt_asked asked, if_pos asked, same]
    exact ⟨status, reason⟩
  · obtain ⟨other, own⟩ := not_or.mp asked
    rw [preempt_plain other own, if_neg asked]
    exact preemptNow_launchAt l why

theorem priorityPreempt_stops (waiting : s.waitingLaunch s.place.a = some l) (victim : s.place.b ∈ s.victimsOf l)
    (next : ∀ x ∈ s.victimsOf l, x = s.place.b ∨ s.victimBefore s.place.b x = true) (full : s.fits l [] = false)
    (fits : s.fits l (s.victimsOf l) = true) (still : s.stoppable s.place.b = true) : exec .priorityPreempt s = .next (s.preempt s.place.b 1) := by
  have before : ((s.victimsOf l).all fun x => decide (x = s.place.b) || s.victimBefore s.place.b x) = true := by
    simpa only [List.all_eq_true, Bool.or_eq_true, decide_eq_true_eq] using next
  rw [show exec .priorityPreempt s = execPriorityPreempt s from rfl, execPriorityPreempt]
  simp only [waiting, List.contains_iff_mem.mpr victim, before, full, fits, still, Bool.not_false, Bool.and_self, if_true]

theorem awaitEntries_masts (l : Nat) : ∃ ms, s.awaitEntries l = { s with masts := ms } := by
  refine foldl_rule (P := fun t : State => ∃ ms, t = { s with masts := ms }) (fun t e only => ?_) _ ⟨_, rfl⟩
  obtain ⟨ms, rfl⟩ := only
  unfold State.awaitEntry
  dsimp only
  split <;> exact ⟨_, rfl⟩

section
variable (preempted : (s.launchAt s.place.a).status = .preempted) (asked : (s.launchAt s.place.a).why = 1)
  (lives : (s.launchAt s.place.a).killed = false)
include preempted asked lives

theorem preemptedResume_tries : exec .preemptedResume s = .next (if s.refits s.place.a then s.resumeNow s.place.a
    else if s.fitsAgain s.place.a then s.awaitEntries s.place.a else s.leaveEntries s.place.a) := by
  rw [show exec .preemptedResume s = execPreemptedResume s from rfl, execPreemptedResume]
  simp only [preempted, asked, lives, decide_true, Bool.not_false, Bool.and_self, if_true]

/-- A launch that does not fit yet changes the waiting lists of masts at most. -/
theorem preemptedResume_waits (full : s.refits s.place.a = false) : ∃ ms, exec .preemptedResume s = .next { s with masts := ms } := by
  rw [preemptedResume_tries preempted asked lives, full, if_neg (by nofun)]
  split
  · obtain ⟨ms, only⟩ := awaitEntries_masts (s := s) s.place.a
    exact ⟨ms, congrArg _ only⟩
  · exact ⟨_, rfl⟩

end

/-! ### System messages (R360) -/

/-- A queue's descriptor is written back within its 64 bytes. -/
theorem syncDesc_get (form : memoryForm s) (k : Nat) {x : Nat} (apart : x < (s.queueAt k).descPa ∨ (s.queueAt k).descPa + 64 ≤ x) :
    Memory.get (s.syncDesc k).mem x = Memory.get s.mem x := by
  unfold State.syncDesc
  extract_lets q put a b
  have head : memoryForm a := setDbl_form form _ _
  have flags : memoryForm b := setDbl_form head _ _
  have out (i : Nat) (small : i ≤ 7) : x < q.descPa + 8 * i ∨ q.descPa + 8 * i + 8 ≤ x := by
    have apart : x < q.descPa ∨ q.descPa + 64 ≤ x := apart
    omega
  exact (setDbl_get_other flags _ (out 7 (by omega))).trans
    ((setDbl_get_other head _ (out 2 (by omega))).trans (setDbl_get_other form _ (out 1 (by omega))))

theorem setQueue_get (form : memoryForm s) (k : Nat) {f : Queue → Queue} (kept : ∀ q, (f q).descPa = q.descPa) {x : Nat}
    (apart : x < (s.queueAt k).descPa ∨ (s.queueAt k).descPa + 64 ≤ x) : Memory.get (s.setQueue k f).mem x = Memory.get s.mem x := by
  refine (syncDesc_get (s := s.putQueue k (f (s.queueAt k))) form k ?_).trans (congrArg (Memory.get · x) (putQueue_mem s k _))
  rw [putQueue_queueAt_same, kept]
  exact apart

theorem messageEntry_length (channel source : Nat) (ltask : Word) (bs : List Byte) : (messageEntry channel source ltask bs).length ≤ 288 := by
  unfold messageEntry
  simp only [List.length_append, toBytes_length, List.length_replicate, List.length_take]
  omega

/-- The state in which a system message stands in its queue's message area, and is counted. -/
def State.messageStored (s : State) (p : Packet) (k at_ : Nat) (entry : List Byte) : State :=
  ((s.drop p).write at_ entry).setQueue k fun q => { q with mcp := (q.mcp + 1) % 65536 }

theorem sysMessage_stores {p : Packet} {channel : Nat} {bs : List Byte} (here : s.packet s.place.a = some p) (kind : p.kind = .sysMsg channel bs)
    (turn : s.mayApply p = true) (room : ((s.queueAt (s.launchAt p.launch).queue).mcp + 65536 - (s.queueAt (s.launchAt p.launch).queue).mhost) % 65536 <
      2 ^ (s.queueAt (s.launchAt p.launch).queue).lgm) :
    exec .sysMessage s = .next (s.messageStored p (s.launchAt p.launch).queue
      ((s.queueAt (s.launchAt p.launch).queue).mbase + 288 * ((s.queueAt (s.launchAt p.launch).queue).mcp %
        2 ^ (s.queueAt (s.launchAt p.launch).queue).lgm))
      (messageEntry channel p.src (s.taskAt (taskKey p.launch p.src)).ltask bs)) := by
  rw [show exec .sysMessage s = execSysMessage s from rfl, execSysMessage]
  simp only [here, kind, turn, room, decide_true, Bool.and_self, if_true]
  rfl

theorem messageStored_queueAt (p : Packet) (k at_ : Nat) (entry : List Byte) :
    (s.messageStored p k at_ entry).queueAt k = { s.queueAt k with mcp := ((s.queueAt k).mcp + 1) % 65536 } := by
  have same : ((s.drop p).write at_ entry).queueAt k = s.queueAt k := ((drop_besides (l := 0) p).trans (write_besides _ _)).queueAt k
  rw [State.messageStored, setQueue_queueAt_same, same]

theorem setQueue_net (k : Nat) (f : Queue → Queue) : (s.setQueue k f).net = s.net := by
  obtain ⟨_, _, _, h⟩ := syncDesc_only (s := s.putQueue k (f (s.queueAt k))) k
  rw [State.setQueue, h]
  rfl

theorem messageStored_net (p : Packet) (k at_ : Nat) (entry : List Byte) :
    (s.messageStored p k at_ entry).net = s.net.filter fun q => decide (q.id ≠ p.id) := by
  obtain ⟨_, _, _, h⟩ := write_rest (s.drop p) at_ entry
  rw [State.messageStored, setQueue_net, h]
  exact drop_net p

/-- A message's bytes stand in their entry, and nothing else has changed outside the queue's descriptor. -/
theorem messageStored_get (form : memoryForm s) (p : Packet) (k at_ : Nat) (entry : List Byte) {x : Nat}
    (apart : x < (s.queueAt k).descPa ∨ (s.queueAt k).descPa + 64 ≤ x) :
    Memory.get (s.messageStored p k at_ entry).mem x = Memory.get (Memory.write s.mem at_ entry) x := by
  have dropped : (s.drop p).mem = s.mem := drop_mem s p
  have written : memoryForm ((s.drop p).write at_ entry) := write_form (form_of_mem dropped form) _ _
  have same : ((s.drop p).write at_ entry).queueAt k = s.queueAt k := ((drop_besides (l := 0) p).trans (write_besides _ _)).queueAt k
  rw [State.messageStored, setQueue_get written k ?kept (by rw [same]; exact apart), write_mem, dropped]
  case kept => exact fun _ => rfl

/-! ### Watchdogs (R371, R372) -/

/-- Step 1 of the watchdog, for one launch. -/
def State.askStop (s : State) (l : Nat) : State :=
  if (s.launchAt l).killed then s
  else if s.stoppable l then s.preempt l 3
  else s.putLaunch l { s.launchAt l with why := 3 }

/-- Launches none of which can be stopped now are asked to stop, and nothing else changes. -/
theorem askStops_ask {ls : List Nat} (moving : ∀ l ∈ ls, (s.launchAt l).killed = true ∨ s.stoppable l = false) :
    ∃ m, ls.foldl State.askStop s = { s with launches := m } ∧
      ∀ j, (j ∈ ls → (s.launchAt j).killed = false → AMap.get m j Launch.init = { s.launchAt j with why := 3 }) ∧
        (j ∉ ls → AMap.get m j Launch.init = s.launchAt j) := by
  induction ls generalizing s with
  | nil => exact ⟨s.launches, rfl, fun j => ⟨nofun, fun _ => rfl⟩⟩
  | cons l ls ih =>
    rw [List.foldl_cons]
    by_cases killed : (s.launchAt l).killed = true
    · rw [show s.askStop l = s from if_pos killed]
      obtain ⟨m, done, each⟩ := ih fun j mem => moving j (List.mem_cons_of_mem l mem)
      refine ⟨m, done, fun j => ⟨fun mem lives => ?_, fun absent => (each j).2 fun mem => absent (List.mem_cons_of_mem l mem)⟩⟩
      refine (each j).1 ((List.mem_cons.mp mem).resolve_left fun own => ?_) lives
      rw [own, killed] at lives
      exact nomatch lives
    · have moves : s.stoppable l = false := (moving l (List.mem_cons_self ..)).resolve_left killed
      rw [show s.askStop l = s.putLaunch l { s.launchAt l with why := 3 } from (if_neg killed).trans (if_neg (by rw [moves]; nofun))]
      have kept (j : Nat) : ((s.putLaunch l { s.launchAt l with why := 3 }).launchAt j).killed = (s.launchAt j).killed := by
        by_cases own : j = l
        · rw [own, putLaunch_launchAt_same]
        · rw [putLaunch_launchAt_other _ _ _ own]
      obtain ⟨m, done, each⟩ := ih (s := s.putLaunch l { s.launchAt l with why := 3 }) fun j mem => by
        rw [kept]
        exact moving j (List.mem_cons_of_mem l mem)
      refine ⟨m, done, fun j => ?_⟩
      by_cases own : j = l
      · subst own
        have now : (s.putLaunch j { s.launchAt j with why := 3 }).launchAt j = { s.launchAt j with why := 3 } := putLaunch_launchAt_same _ _ _
        refine ⟨fun _ lives => ?_, fun absent => absurd (List.mem_cons_self ..) absent⟩
        by_cases again : j ∈ ls
        · rw [(each j).1 again (by rw [kept]; exact lives), now]
        · rw [(each j).2 again, now]
      · have before := putLaunch_launchAt_other s l { s.launchAt l with why := 3 } own
        refine ⟨fun mem lives => ?_, fun absent => ?_⟩
        · rw [(each j).1 ((List.mem_cons.mp mem).resolve_left own) (by rw [kept]; exact lives), before]
        · rw [(each j).2 fun mem => absent (List.mem_cons_of_mem l mem), before]

/-- What every step of a queue's watchdog asks for. -/
structure watches (s : State) (k : Nat) (gang : Bool) : Prop where
  live : (s.queueAt k).live = true
  limit : (s.queueAt k).lim1 ≠ 0
  gang : (s.partAt (s.queueAt k).part).gang = gang
  some : s.watched k ≠ []

theorem watches.watchdog {k : Nat} {gang : Bool} (on : watches s k gang) : s.watchdog k gang = true := by
  unfold State.watchdog
  simp only [on.live, on.limit, on.gang, ne_eq, not_false_eq_true, decide_true, Bool.and_self]

theorem watches.busy {k : Nat} {gang : Bool} (on : watches s k gang) : (s.watched k).isEmpty = false :=
  Bool.eq_false_iff.mpr fun empty => on.some (List.isEmpty_iff.mp empty)

theorem watchdogStep1_asks (on : watches s s.place.a false) (step : (s.queueAt s.place.a).wstep ≤ 1) :
    exec .watchdogStep1 s = .next ((s.watched s.place.a).foldl State.askStop
      (s.putQueue s.place.a ((s.queueAt s.place.a).reach (s.queueAt s.place.a).lim1 1))) := by
  rw [show exec .watchdogStep1 s = execWatchdogStep1 s from rfl, execWatchdogStep1]
  exact if_pos (by rw [on.watchdog, on.busy, decide_eq_true step]; rfl)

theorem watchdogStep2_kills (on : watches s s.place.a false) (step : (s.queueAt s.place.a).wstep = 1) :
    exec .watchdogStep2 s = .next ((s.watched s.place.a).foldl (fun s l => s.kill l 3)
      (s.setQueue s.place.a fun q => { q.reach (q.lim1 + q.lim2) 2 with halted := true })) := by
  rw [show exec .watchdogStep2 s = execWatchdogStep2 s from rfl, execWatchdogStep2]
  exact if_pos (by rw [on.watchdog, on.busy, decide_eq_true step]; rfl)

/-- The state in which the watchdog has fenced the cores of a queue's partition. -/
def State.partFenced (s : State) (k : Nat) : State :=
  let t := s.setQueue k fun q => { q.reach (q.lim1 + q.lim2 + q.lim3) 3 with fenced := true }
  t.fenceCores (t.partAt (s.queueAt k).part)

theorem watchdogStep3_fences (on : watches s s.place.a false) (step : (s.queueAt s.place.a).wstep = 2) :
    exec .watchdogStep3 s = .next (((s.partFenced s.place.a).queuesOf (s.queueAt s.place.a).part).foldl
      (fun s j => s.setQueue j fun q => { q with halted := true }) (s.partFenced s.place.a)) := by
  rw [show exec .watchdogStep3 s = execWatchdogStep3 s from rfl, execWatchdogStep3]
  exact if_pos (by rw [on.watchdog, on.busy, decide_eq_true step]; rfl)

theorem gangWatchdog_resets (on : watches s s.place.a true) (sound : (s.queueAt s.place.a).failed = false) :
    exec .gangWatchdog s = .next (s.resetGang (s.queueAt s.place.a).part) := by
  rw [show exec .gangWatchdog s = execGangWatchdog s from rfl, execGangWatchdog]
  exact if_pos (by rw [on.watchdog, on.busy, sound]; rfl)

theorem kills_killed {ls : List Nat} (code : Nat) (named : l ∈ ls) : ((ls.foldl (fun s l => State.kill s l code) s).launchAt l).killed = true := by
  obtain ⟨t, last⟩ := foldl_launchAt_named (s := s) (e := fun s l => s.kill l code) (fun s l j other => (kill_besides l code).others j other) named
  rw [last]
  exact kill_killed l code

theorem kills_policy (ls : List Nat) (code : Nat) : (ls.foldl (fun s l => State.kill s l code) s).policy = s.policy :=
  foldl_rule (P := fun t : State => t.policy = s.policy) (fun _ l same => (kill_besides l code).policy.trans same) ls rfl

theorem fenceCores_fences {p : Partition} {c : Nat} (own : c ∈ p.cores) : ((s.fenceCores p).coreAt c).cfence = true := by
  have loop (cs : List Nat) : ∀ t : State, c ∈ cs ∨ (t.coreAt c).cfence = true →
      ((cs.foldl (fun s c => State.putCore s c { s.coreAt c with cfence := true }) t).coreAt c).cfence = true := by
    induction cs with
    | nil => exact fun t start => start.resolve_left nofun
    | cons d cs ih =>
      intro t start
      refine ih _ ?_
      by_cases here : c = d
      · subst here; right; rw [putCore_coreAt_same]
      · rw [putCore_coreAt_other _ _ _ here]
        exact start.imp_left fun mem => (List.mem_cons.mp mem).resolve_left here
  exact loop p.cores s (.inl own)

theorem fenceCores_policy (p : Partition) : (s.fenceCores p).policy = s.policy := by
  refine foldl_rule (P := fun t : State => t.policy = s.policy) (fun _ _ same => ?_) p.cores rfl
  exact same

theorem setQueue_cores (k : Nat) (f : Queue → Queue) : (s.setQueue k f).cores = s.cores := by
  obtain ⟨_, _, _, h⟩ := syncDesc_only (s := s.putQueue k (f (s.queueAt k))) k
  rw [State.setQueue, h]
  rfl

theorem foldl_setQueue_cores (f : Queue → Queue) (ks : List Nat) : (ks.foldl (fun s k => State.setQueue s k f) s).cores = s.cores := by
  induction ks generalizing s with
  | nil => rfl
  | cons k ks ih => exact ih.trans (setQueue_cores k f)

theorem foldl_setQueue_keeps {β : Type} (g : Queue → β) {f : Queue → Queue} (kept : ∀ q, g (f q) = g q) (ks : List Nat) (j : Nat) :
    g ((ks.foldl (fun s k => State.setQueue s k f) s).queueAt j) = g (s.queueAt j) := by
  induction ks generalizing s with
  | nil => rfl
  | cons k ks ih => exact ih.trans (setQueue_keeps g kept k j)

theorem queueAt_of_policy (same : t.policy = s.policy) (k : Nat) : t.queueAt k = s.queueAt k :=
  congrArg (fun p : AMap Queue × _ => p.1.get k Queue.init) same

/-- A queue that halts. -/
def Queue.stopped (q : Queue) : Queue := { q with halted := true }

/-- Step 1 asks launches that move to stop; the one launch of a queue that stands still ends, and its queue halts. -/
theorem askStops_ends (ls : List Nat) (k : Nat) :
    ((∀ l ∈ ls, (s.launchAt l).killed = true ∨ s.stoppable l = false) → (ls.foldl State.askStop s).queueAt k = s.queueAt k ∧
      ∀ l ∈ ls, (s.launchAt l).killed = false →
        ((ls.foldl State.askStop s).launchAt l).why = 3 ∧ ((ls.foldl State.askStop s).launchAt l).status = (s.launchAt l).status) ∧
    ∀ l, ls = [l] → (s.launchAt l).queue = k → (s.launchAt l).killed = false → s.stoppable l = true →
      ((ls.foldl State.askStop s).queueAt k).halted = true ∧ ((ls.foldl State.askStop s).queueAt k).wcount = 0 ∧
        ((ls.foldl State.askStop s).queueAt k).wstep = 0 ∧ ((ls.foldl State.askStop s).launchAt l).status = .preempted ∧
        ((ls.foldl State.askStop s).launchAt l).why = 3 := by
  refine ⟨fun moving => ?_, fun l one own lives still => ?_⟩
  · obtain ⟨m, done, each⟩ := askStops_ask moving
    rw [done]
    refine ⟨rfl, fun l mem lives => ?_⟩
    have same : ({ s with launches := m } : State).launchAt l = { s.launchAt l with why := 3 } := (each l).1 mem lives
    rw [same]
    exact ⟨rfl, rfl⟩
  · have stop : ls.foldl State.askStop s = s.preempt l 3 := by
      rw [one]
      exact (if_neg (by rw [lives]; nofun)).trans (if_pos still)
    obtain ⟨status, reason⟩ := preempt_launchAt (s := s) l 3
    obtain ⟨halted, count, stage⟩ := queueStopped_queueAt (s := s.preemptNow l 3) l k (((s.preemptNow l 3).launchAt l).record 5)
    rw [← own, ← preempt_asked (.inl rfl), own] at halted count stage
    rw [stop]
    exact ⟨halted, count, stage, status, by simpa using reason⟩

/-- Settles O53: each event by its equation, and the loops of the watchdog by what they do to each launch, core and queue. -/
theorem queuesArePoliced : Obligations.QueuesArePoliced := by
  intro s k q ls
  refine ⟨fun l waiting victim next full fits still => ?priority, fun preempted asked lives => ⟨fun fits => ?again, fun full => ?waits⟩,
    ?message, fun live limit some => ⟨fun plain => ?steps, fun gang sound => ?gangs⟩⟩
  case priority =>
    obtain ⟨status, reason⟩ := preempt_launchAt (s := s) s.place.b 1
    exact ⟨_, priorityPreempt_stops waiting victim next full fits still, status, by simpa using reason⟩
  case again =>
    exact ⟨_, (preemptedResume_tries preempted asked lives).trans (congrArg _ (if_pos fits)), (resumeNow_resident fits).1⟩
  case waits =>
    obtain ⟨ms, run⟩ := preemptedResume_waits preempted asked lives full
    exact ⟨_, run, rfl, rfl, fun _ => rfl⟩
  case message =>
    intro p channel bs here kind turn
    dsimp only
    intro room
    have short := messageEntry_length channel p.src (s.taskAt (taskKey p.launch p.src)).ltask bs
    refine ⟨_, sysMessage_stores here kind turn room, messageStored_net _ _ _ _, messageStored_queueAt _ _ _ _, fun form apart => ⟨fun i low => ?_,
      fun x out away => ?_⟩⟩
    · have inside : i < (messageEntry channel p.src (s.taskAt (taskKey p.launch p.src)).ltask bs).length := low
      exact (messageStored_get form _ _ _ _ (by omega)).trans (Memory.get_write_in _ _ _ _ form inside)
    · exact (messageStored_get form _ _ _ _ away).trans (Memory.get_write_other _ _ _ form (by omega))
  case steps =>
    have on : watches s k false := ⟨live, limit, plain, some⟩
    refine ⟨fun step => ⟨_, watchdogStep1_asks on step, ?_⟩, fun step =>
      ⟨_, watchdogStep2_kills on step, ?_, ?_, fun l mem => kills_killed 3 mem⟩, fun step => ⟨_, watchdogStep3_fences on step, ?_, ?_, fun c own => ?_⟩⟩
    · obtain ⟨moving, still⟩ := askStops_ends (s := s.putQueue k (q.reach q.lim1 1)) ls k
      rw [putQueue_queueAt_same] at moving
      exact ⟨moving, still⟩
    · rw [queueAt_of_policy (kills_policy _ 3), setQueue_queueAt_same]
    · rw [queueAt_of_policy (kills_policy _ 3), setQueue_queueAt_same]
      rfl
    all_goals have fenced : (s.partFenced k).queueAt k = { q.reach (q.lim1 + q.lim2 + q.lim3) 3 with fenced := true } :=
      (queueAt_of_policy (fenceCores_policy _) k).trans (setQueue_queueAt_same k _)
    · exact (foldl_setQueue_keeps Queue.fenced (f := Queue.stopped) (fun _ => rfl) _ k).trans (congrArg Queue.fenced fenced)
    · exact (foldl_setQueue_keeps Queue.wstep (f := Queue.stopped) (fun _ => rfl) _ k).trans (congrArg Queue.wstep fenced)
    · rw [State.coreAt, foldl_setQueue_cores]
      refine fenceCores_fences (show c ∈ (State.partAt _ _).cores from ?_)
      rw [State.partAt, setQueue_parts]
      exact own
  case gangs =>
    obtain ⟨count, halted, head⟩ := (resetGang_ends q.part k).2 live rfl
    exact ⟨_, gangWatchdog_resets ⟨live, limit, gang, some⟩ sound, head, count, halted⟩

end Sys2Proof.Machine
end

section
/-! Context data, firmware swaps and alarms (R356, R357, R373, R374); O54. -/

namespace Sys2Proof.Machine

variable {s t u : State} {l : Nat}

/-! ### What an alarm halts and kills (R374, R399) -/

theorem setQueue_device (k : Nat) (f : Queue → Queue) : (s.setQueue k f).sec = s.sec ∧ (s.setQueue k f).plat = s.plat := by
  obtain ⟨_, _, _, h⟩ := syncDesc_only (s := s.putQueue k (f (s.queueAt k))) k
  rw [State.setQueue, h]
  exact ⟨rfl, rfl⟩

/-- Only memory, queues and the interrupts of a state have changed, and a halted queue stays halted. -/
structure haltsOnly (s t : State) : Prop where
  launches : t.launches = s.launches
  sec : t.sec = s.sec
  plat : t.plat = { s.plat with msix := t.plat.msix }
  halted : ∀ j, (s.queueAt j).halted = true → (t.queueAt j).halted = true

theorem haltsOnly.refl (s : State) : haltsOnly s s := ⟨rfl, rfl, rfl, fun _ => id⟩

theorem haltsOnly.trans (first : haltsOnly s t) (second : haltsOnly t u) : haltsOnly s u :=
  ⟨second.launches.trans first.launches, second.sec.trans first.sec, by rw [second.plat, first.plat], fun j stops => second.halted j (first.halted j stops)⟩

theorem haltQueue_haltsOnly (k : Nat) : haltsOnly s (s.haltQueue k) := by
  have halted (j : Nat) (stops : (s.queueAt j).halted = true) : ((s.haltQueue k).queueAt j).halted = true := by
    by_cases own : j = k
    · rw [own, haltQueue_queueAt]
    · rw [show (s.haltQueue k).queueAt j = _ from setQueue_queueAt_other own _]
      exact stops
  obtain ⟨sec, plat⟩ := setQueue_device (s := s) k fun q => { q with halted := true }
  refine ⟨haltQueue_launches k, sec, ?_, halted⟩
  rw [← plat]
  rfl

theorem haltQueues_halt (qs : List (Nat × Queue)) : haltsOnly s (qs.foldl (fun s p => State.haltQueue s p.1) s) ∧
    ∀ p ∈ qs, ((qs.foldl (fun s p => State.haltQueue s p.1) s).queueAt p.1).halted = true := by
  induction qs generalizing s with
  | nil => exact ⟨.refl s, nofun⟩
  | cons q qs ih =>
    obtain ⟨only, each⟩ := ih (s := s.haltQueue q.1)
    refine ⟨(haltQueue_haltsOnly q.1).trans only, fun p mem => ?_⟩
    rcases List.mem_cons.mp mem with rfl | mem
    · exact only.halted _ (congrArg Queue.halted (haltQueue_queueAt p.1) :)
    · exact each p mem

/-- A launch that a list of kills names has their status. -/
theorem kill_code (l : Nat) : ((s.kill l 6).launchAt l).code = 6 := by
  cases lives : (s.launchAt l).killed
  · exact (kill_fresh lives 6).1
  · unfold State.kill
    rw [if_pos lives, putLaunch_launchAt_same]
    rfl

theorem kills_code {ls : List Nat} (named : l ∈ ls) : ((ls.foldl (fun s l => State.kill s l 6) s).launchAt l).code = 6 := by
  obtain ⟨t, last⟩ := foldl_launchAt_named (s := s) (e := fun s l => s.kill l 6) (fun s l j other => (kill_besides l 6).others j other) named
  rw [last]
  exact kill_code l

/-- A launch that has been dispatched. -/
def Launch.dispatched (la : Launch) : Prop := la.status = .resident ∨ la.status = .preempted

theorem haltAll_ends : (∀ j, (s.queueAt j).live = true → ((s.haltAll 6).queueAt j).halted = true) ∧
    (∀ l, (s.launchAt l).dispatched → ((s.haltAll 6).launchAt l).killed = true ∧ ((s.haltAll 6).launchAt l).code = 6) ∧
    (s.haltAll 6).sec = s.sec ∧ (s.haltAll 6).plat = { s.plat with msix := (s.haltAll 6).plat.msix } := by
  unfold State.haltAll
  extract_lets t
  obtain ⟨only, each⟩ : haltsOnly s t ∧ ∀ p ∈ s.queues.filter fun p => p.2.live, (t.queueAt p.1).halted = true := haltQueues_halt _
  clear_value t
  have policy := kills_policy (s := t) (t.launchesWith fun la => la.status = .resident || la.status = .preempted) 6
  refine ⟨fun j live => ?_, fun l dispatched => ?_, ?_, ?_⟩
  · rw [queueAt_of_policy policy]
    have found : s.queues.get j Queue.init ≠ Queue.init := fun same => by rw [State.queueAt, same] at live; exact nomatch live
    exact each _ (List.mem_filter.mpr ⟨AMap.mem_of_get found, live⟩)
  · have named : l ∈ t.launchesWith fun la => la.status = .resident || la.status = .preempted := by
      refine mem_launchesWith ?_ rfl
      rw [State.launchAt, only.launches, ← State.launchAt]
      simpa [Launch.dispatched] using dispatched
    exact ⟨kills_killed 6 named, kills_code named⟩
  · exact (congrArg (fun p : AMap Queue × AMap Partition × SecCtl × _ => p.2.2.1) policy).trans only.sec
  · have same := congrArg (fun p : AMap Queue × AMap Partition × SecCtl × Platform × _ => p.2.2.2.1) policy
    rw [show State.plat _ = t.plat from same]
    exact only.plat

/-! ### Context data (R356) -/

section
variable {cp n : Nat}

theorem cxdata_otherMode {m : Nat} (other : m ≠ (s.cpAt cp).hart.mode) (w : Option Word) : exec (.cxdata cp ⟨m, n⟩ w) s = .next s := by
  rw [show exec (.cxdata cp ⟨m, n⟩ w) s = execCxdata cp ⟨m, n⟩ w s from rfl]
  unfold execCxdata
  exact if_pos (.inr other)

variable (low : cp < 8)
include low

/-- An access in the hart's own mode is the event's to answer. -/
theorem ownMode : ¬(8 ≤ cp ∨ (s.cpAt cp).hart.mode ≠ (s.cpAt cp).hart.mode) := by
  simp only [show ¬8 ≤ cp by omega, ne_eq, not_true_eq_false, or_self, not_false_eq_true]

theorem cxdata_refused {w : Option Word} (refused : cpMay (s.cpAt cp).hart.mode n w.isSome = false) :
    exec (.cxdata cp ⟨(s.cpAt cp).hart.mode, n⟩ w) s =
      .next (s.putCp cp { s.cpAt cp with hart := (s.cpAt cp).hart.trap false 2 0 }) := by
  rw [show exec (.cxdata cp _ w) s = execCxdata cp ⟨(s.cpAt cp).hart.mode, n⟩ w s from rfl]
  unfold execCxdata
  refine (if_neg (ownMode low)).trans (if_pos ?_)
  rw [refused]
  rfl

theorem cxdata_reads (may : cpMay (s.cpAt cp).hart.mode n false = true) : exec (.cxdata cp ⟨(s.cpAt cp).hart.mode, n⟩ none) s =
    .next (s.putCp cp { s.cpAt cp with cxdata := s.cpCsr cp n }) := by
  rw [show exec (.cxdata cp _ none) s = execCxdata cp ⟨(s.cpAt cp).hart.mode, n⟩ none s from rfl]
  unfold execCxdata
  refine (if_neg (ownMode low)).trans (if_neg ?_)
  rw [show cpMay _ n (none : Option Word).isSome = true from may]
  nofun

/-- In M mode a CP may write each of its four device CSRs. -/
theorem cxdata_writes (machine : (s.cpAt cp).hart.mode = 3) (own : n = 0x7C0 ∨ n = 0x7C1 ∨ n = 0x7C2 ∨ n = 0x7C3) (v : Word) :
    exec (.cxdata cp ⟨(s.cpAt cp).hart.mode, n⟩ (some v)) s = .next (s.setCpCsr cp n v) := by
  have may : cpMay (s.cpAt cp).hart.mode n true = true := by
    rw [machine]
    rcases own with rfl | rfl | rfl | rfl <;> rfl
  rw [show exec (.cxdata cp _ (some v)) s = execCxdata cp ⟨(s.cpAt cp).hart.mode, n⟩ (some v) s from rfl]
  unfold execCxdata
  refine (if_neg (ownMode low)).trans (if_neg ?_)
  rw [show cpMay _ n (some v).isSome = true from may]
  nofun

end

/-- A hart whose access is refused takes the illegal-instruction exception, into S mode where that is delegated. -/
theorem illegal_trap (h : Hart) : (h.trap false 2 0).x = h.x ∧
    (h.mode = 3 ∨ h.medeleg.getLsbD 2 = false → (h.trap false 2 0).mode = 3 ∧ (h.trap false 2 0).mepc = h.pc ∧ (h.trap false 2 0).mcause = 2 ∧
      (h.trap false 2 0).pc = h.mtvec &&& ~~~3) ∧
    (h.mode ≠ 3 ∧ h.medeleg.getLsbD 2 = true → (h.trap false 2 0).mode = 1 ∧ (h.trap false 2 0).sepc = h.pc ∧ (h.trap false 2 0).scause = 2 ∧
      (h.trap false 2 0).pc = h.stvec &&& ~~~3) := by
  have base (v : Word) : vectored v false 2 = v &&& ~~~3 := BitVec.add_zero _
  by_cases delegated : h.mode ≠ 3 ∧ h.medeleg.getLsbD 2 = true
  · have trap : (decide (h.mode ≠ 3) && bit (if false then h.mideleg else h.medeleg) 2) = true := by
      rw [decide_eq_true delegated.1]
      exact delegated.2
    unfold Hart.trap
    rw [if_pos trap]
    exact ⟨rfl, fun direct => absurd direct (by simp [delegated]), fun _ => ⟨rfl, rfl, rfl, base _⟩⟩
  · have trap : ¬(decide (h.mode ≠ 3) && bit (if false then h.mideleg else h.medeleg) 2) = true := by
      rw [Bool.and_eq_true, decide_eq_true_eq]
      exact delegated
    unfold Hart.trap
    rw [if_neg trap]
    exact ⟨rfl, fun _ => ⟨rfl, rfl, rfl, base _⟩, fun other => absurd other delegated⟩

theorem setCpCsr_fences {cp core : Nat} (named : s.selCsr cp = 0x142) (there : (s.reachSel cp).cur.core = core) (v : Word) :
    (s.setCpCsr cp 0x7C2 v).mem = s.mem ∧ ((s.setCpCsr cp 0x7C2 v).coreAt core).cfence = v.getLsbD 0 := by
  have write : (s.reachSel cp).cpWrite (s.selCsr cp) v = (s.reachSel cp).setCore { (s.reachSel cp).core with cfence := bit v 0 } := by
    rw [named]
    rfl
  have put : s.setCpCsr cp 0x7C2 v = { (s.reachSel cp).setCore { (s.reachSel cp).core with cfence := bit v 0 } with cur := s.cur } :=
    congrArg (fun t : State => { t with cur := s.cur }) write
  rw [put]
  refine ⟨reachSel_mem s cp, ?_⟩
  subst there
  exact congrArg Core.cfence (AMap.get_set_same _ _ _ _)

/-! ### Firmware swaps (R373) -/

theorem swapVerify_acknowledges {cp : Nat} (handed : (s.cpAt cp).swap = 1) (ok : Bool) (v : BitVec 16) :
    exec (.swapVerify cp ok v) s = .next (s.putCp cp { s.cpAt cp with swap := 2 }) := by
  rw [show exec (.swapVerify cp ok v) s = execSwapVerify cp ok v s from rfl, execSwapVerify]
  exact if_pos handed

theorem swapVerify_verifies {cp : Nat} (verifies : (s.cpAt cp).swap = 2) (available : s.sec.available = true) :
    exec (.swapVerify cp (s.imageGenuine cp) (s.imageVersion cp)) s =
      if (s.imageGenuine cp && decide (Config.fusedVersion.toNat ≤ (s.imageVersion cp).toNat)) = true then
        .next ({ s with sec := { s.sec with badVerify := 0 } }.putCp cp
          { (s.cpAt cp).restart (Config.imageEntry (s.imageHead cp)) (s.imageVersion cp) with
            swap := 3, oldVer := (s.cpAt cp).fwsv, oldEntry := (s.cpAt cp).entry, newVer := s.imageVersion cp })
      else .next (s.badImage.putCp cp { s.cpAt cp with swap := 4, swapRes := 1, served := false, newVer := s.imageVersion cp }) := by
  rw [show exec (.swapVerify cp _ _) s = execSwapVerify cp (s.imageGenuine cp) (s.imageVersion cp) s from rfl, execSwapVerify]
  refine (if_neg (by omega)).trans (if_neg ?_)
  rw [verifies, available]
  simp only [ne_eq, not_true_eq_false, Bool.not_true, Bool.false_eq_true, or_self, not_false_eq_true]

theorem badImage_counts : s.badImage.mem = s.mem ∧ (s.sec.badVerify < 7 → s.badImage.sec.badVerify = s.sec.badVerify + 1) ∧
    (s.sec.badVerify = 7 → s.badImage.sec.available = false ∧ s.badImage.sec.badVerify = 0) := by
  unfold State.badImage
  split
  · exact ⟨rfl, by omega, fun _ => ⟨rfl, rfl⟩⟩
  · exact ⟨rfl, fun _ => rfl, by omega⟩

theorem swapTakeBack_moves (takes : (s.cpAt s.place.a).swap = 3 ∨ (s.cpAt s.place.a).swap = 4) : exec .swapTakeBack s =
    .next (s.putCp s.place.a { s.cpAt s.place.a with swap := if (s.cpAt s.place.a).swap = 3 then 4 else 0, served := false }) := by
  rw [show exec .swapTakeBack s = execSwapTakeBack s from rfl, execSwapTakeBack]
  rcases takes with loaded | taken
  · simp only [loaded, if_true]
  · simp only [taken, show ¬(4 = 3) by decide, if_false, if_true]

theorem swapTimeout_falls (late : (s.cpAt s.place.a).swap = 3 ∨ (s.cpAt s.place.a).swap = 4 ∧ (s.cpAt s.place.a).swapRes = 0) :
    exec .swapTimeout s = .next (s.putCp s.place.a { (s.cpAt s.place.a).restart (s.cpAt s.place.a).oldEntry (s.cpAt s.place.a).oldVer with
      swap := 4, swapRes := 2, served := false }) := by
  rw [show exec .swapTimeout s = execSwapTimeout s from rfl, execSwapTimeout]
  exact if_pos late

/-- A class 2 alarm halts the queues, kills the dispatched launches, and erases the session keys. -/
theorem alarm2_ends : s.alarm2.sec.sessKeys = false ∧ s.alarm2.sec.attest = false ∧
    (∀ j, (s.queueAt j).live = true → (s.alarm2.queueAt j).halted = true) ∧
    ∀ l, (s.launchAt l).dispatched → (s.alarm2.launchAt l).killed = true ∧ (s.alarm2.launchAt l).code = 6 := by
  obtain ⟨halted, killed, -, -⟩ := haltAll_ends (s := s)
  exact ⟨rfl, rfl, halted, killed⟩

/-- Settles O54: each access, state of a swap and alarm by its equation. -/
theorem securityEventsComplete : Obligations.SecurityEventsComplete := by
  intro s c
  refine ⟨fun cp n low => ⟨fun m w other => cxdata_otherMode other w, fun may => ⟨_, cxdata_reads low may, rfl, putCp_cpAt_same _ _⟩,
      fun w refused => ?refused, fun v machine => ?writes⟩,
    fun cp ok v handed => ⟨_, swapVerify_acknowledges handed ok v, rfl, putCp_cpAt_same _ _⟩, fun cp verifies available => ?verdict,
    fun takes => ⟨_, swapTakeBack_moves takes, fun _ => rfl, putCp_cpAt_same _ _⟩, fun late => ⟨_, swapTimeout_falls late, fun _ => rfl, putCp_cpAt_same _ _⟩,
    ⟨_, rfl, fun _ => rfl, rfl, rfl⟩, fun away => ?back, ?alarms⟩
  case refused =>
    obtain ⟨x, direct, delegated⟩ := illegal_trap (s.cpAt cp).hart
    refine ⟨_, cxdata_refused low refused, rfl, ?_⟩
    rw [putCp_cpAt_same]
    exact ⟨rfl, x, direct, delegated⟩
  case writes =>
    refine ⟨⟨_, cxdata_writes low machine (by simp) v, rfl, congrArg Cp.lnkrt (putCp_cpAt_same _ _)⟩,
      ⟨_, cxdata_writes low machine (by simp) v, rfl, congrArg Cp.cxsel (putCp_cpAt_same _ _)⟩, fun core named there => ?_,
      ⟨_, cxdata_writes low machine (by simp) v, rfl, congrArg Cp.swap (putCp_cpAt_same _ _), congrArg Cp.swapRes (putCp_cpAt_same _ _)⟩⟩
    obtain ⟨mem, fence⟩ := setCpCsr_fences named there v
    exact ⟨_, cxdata_writes low machine (by simp) v, sameMemory_of_mem mem, fence, rfl⟩
  case verdict =>
    intro v
    by_cases passes : s.imageGenuine cp = true ∧ Config.fusedVersion.toNat ≤ v.toNat
    · refine ⟨_, (swapVerify_verifies verifies available).trans (if_pos (by rw [passes.1, decide_eq_true passes.2]; rfl)), fun _ => rfl,
        fun _ => ?_, fun fails => absurd passes fails⟩
      rw [putCp_cpAt_same]
      exact ⟨rfl, rfl, rfl, rfl, rfl, rfl⟩
    · obtain ⟨mem, few, eighth⟩ := badImage_counts (s := s)
      refine ⟨_, (swapVerify_verifies verifies available).trans (if_neg (by rwa [Bool.and_eq_true, decide_eq_true_eq])), sameMemory_of_mem mem,
        fun right => absurd right passes, fun _ => ?_⟩
      rw [putCp_cpAt_same]
      exact ⟨rfl, rfl, rfl, few, eighth⟩
  case back =>
    refine ⟨_, ?_, rfl⟩
    rw [show exec .verificationAvailable s = execVerificationAvailable s from rfl, execVerificationAvailable]
    exact if_pos (by rw [away]; rfl)
  case alarms =>
    obtain ⟨keys, attest, halted, killed⟩ := alarm2_ends (s := s)
    simp only [List.forall_mem_cons]
    exact ⟨⟨_, rfl, keys, attest, halted, killed, nofun⟩, ⟨_, rfl, keys, attest, halted, killed, fun _ => rfl⟩, List.forall_mem_nil _⟩

end Sys2Proof.Machine
end

section
/-! Bring-up, heat and power, the board bus and the test access port (R396 to R401); O55. -/

namespace Sys2Proof.Machine

variable {s t u : State}

/-! ### Bring-up (R397) -/

/-- The work of a stage has ended well: the next stage begins. -/
def stageMoved (s u : State) : Prop :=
  u.plat.stage = s.plat.stage + 1 ∧ u.plat.held = s.plat.held ∧ u.plat.ready = s.plat.ready

/-- The device stays at its stage. -/
def stageHeld (s u : State) : Prop := u.plat.stage = s.plat.stage ∧ u.plat.held = true

theorem endStage_moves (s : State) : stageMoved s (s.endStage true) := ⟨rfl, rfl, rfl⟩

theorem endStage_holds (s : State) : stageHeld s (s.endStage false) := ⟨rfl, rfl⟩

theorem warmReset_resets (stage : 2 ≤ s.plat.stage) (cool : s.plat.coldOnly = false) : ∃ u, exec .warmReset s = .next u ∧ u.mem = s.mem ∧
    u.plat.stage = 2 ∧ u.plat.ready = false ∧ u.queues = [] ∧ u.launches = [] ∧ u.ctxs = [] := by
  refine ⟨_, if_neg ?_, rfl, rfl, rfl, rfl, rfl, rfl⟩
  rw [cool]
  simp only [show ¬s.plat.stage < 2 by omega, Bool.false_eq_true, or_self, not_false_eq_true]

section stages
variable (free : s.plat.held = false) (closed : s.plat.ready = false)
include free closed

theorem atStage_true {n : Nat} (stage : s.plat.stage = n) : s.atStage n = true := by
  unfold State.atStage
  rw [decide_eq_true stage, free, closed]
  rfl

theorem bootVerify_ends (stage : s.plat.stage = 1) (available : s.sec.available = true) : exec (.bootVerify bootGenuine) s =
    .next (s.endStage (bootGenuine && decide (Config.fusedVersion.toNat ≤ Config.bootVersion.toNat))) := by
  refine if_pos ?_
  rw [atStage_true free closed stage, available, decide_eq_true rfl]
  rfl

theorem fuseMapBuild_ends (stage : s.plat.stage = 2) : exec .fuseMapBuild s =
    .next ((s.setPlat { s.plat with fuses := fuseMap }).endStage (fuseMap.all fun f => decide (f.2 ≤ 16))) :=
  if_pos (atStage_true free closed stage)

theorem bringupScrub_scrubs (stage : s.plat.stage = 3) : ∃ u, exec .bringupScrub s = .next u ∧ stageMoved s u ∧ u.cores = [] ∧ u.masts = [] ∧
    u.mem = s.mem.filter fun c => decide (c.1 < 2 ^ 52) :=
  ⟨_, if_pos (atStage_true free closed stage), ⟨rfl, rfl, rfl⟩, rfl, rfl, rfl⟩

theorem hbmTrain_trains (stage : s.plat.stage = 4) : ∃ u, exec (.hbmTrain true) s = .next u ∧ stageMoved s u ∧
    u.mem = s.mem.filter fun c => !isHbm c.1 :=
  ⟨_, (if_pos (atStage_true free closed stage)).trans (if_pos rfl), ⟨rfl, rfl, rfl⟩, rfl⟩

theorem hbmTrain_fails (stage : s.plat.stage = 4) : exec (.hbmTrain false) s = .next (s.endStage false) :=
  (if_pos (atStage_true free closed stage)).trans (if_neg nofun)

/-- The state in which the long links stand, and the shrouds that came up. -/
def State.linksUp (s : State) (up : BitVec 16) : State :=
  let sh := (List.range 16).map fun n => (n, { Shroud.init with lanes := if up.getLsbD n then 8 else 0, up := up.getLsbD n })
  let down := ((List.range 16).filter fun n => !up.getLsbD n).map fun n => (1, n, 0)
  let t := { s with links := longLinks.map fun k => (k, { LongLink.init with up := true }), shrouds := sh }
  t.setPlat { t.plat with reports := down ++ t.plat.reports }

theorem linkTrain_trains (stage : s.plat.stage = 5) (up : BitVec 16) : exec (.linkTrain true up) s = .next ((s.linksUp up).endStage true) :=
  (if_pos (atStage_true free closed stage)).trans (if_pos rfl)

theorem linkTrain_fails (stage : s.plat.stage = 5) (up : BitVec 16) : exec (.linkTrain false up) s = .next (s.endStage false) :=
  (if_pos (atStage_true free closed stage)).trans (if_neg nofun)

theorem openCommands_opens (stage : s.plat.stage = 6) : exec .openCommands s = .next (s.setPlat { s.plat with ready := true, stageDone := true }) :=
  if_pos (atStage_true free closed stage)

end stages

/-- A table made from a list of keys answers the value made for a listed key. -/
theorem AMap.get_map_keys {α : Type} (f : Nat → α) {ks : List Nat} {k : Nat} (listed : k ∈ ks) (d : α) :
    AMap.get (ks.map fun i => (i, f i)) k d = f k := by
  induction ks with
  | nil => exact nomatch listed
  | cons i ks ih =>
    rw [List.map_cons, AMap.get]
    split
    · rw [‹i = k›]
    · exact ih ((List.mem_cons.mp listed).resolve_left fun own => absurd own.symm ‹¬i = k›)

theorem fuseMap_get {q k : Nat} (quadrant : q < 4) (column : k < 16) : fuseMap.get (16 * q + k) 0 = fuseField q k := by
  have listed : 16 * q + k ∈ List.range 64 := List.mem_range.mpr (by omega)
  rw [fuseMap, AMap.get_map_keys (fun i => fuseField (i / 16) (i % 16)) listed, show (16 * q + k) / 16 = q by omega, show (16 * q + k) % 16 = k by omega]

theorem linksUp_linkAt (up : BitVec 16) {k : Nat} (long : k ∈ longLinks) : ((s.linksUp up).linkAt k).up = true := by
  have found : (s.linksUp up).linkAt k = { LongLink.init with up := true } :=
    AMap.get_map_keys (fun _ => ({ LongLink.init with up := true } : LongLink)) long _
  rw [found]

theorem linksUp_shroudAt (up : BitVec 16) {n : Nat} (port : n < 16) : ((s.linksUp up).shroudAt n).up = up.getLsbD n := by
  have found : (s.linksUp up).shroudAt n = { Shroud.init with lanes := if up.getLsbD n then 8 else 0, up := up.getLsbD n } :=
    AMap.get_map_keys (fun n => ({ Shroud.init with lanes := if up.getLsbD n then 8 else 0, up := up.getLsbD n } : Shroud))
      (List.mem_range.mpr port) _
  rw [found]

/-! ### Heat (R399) -/

/-- The clock of quadrant `place.a` by its sensors. -/
theorem clocked_hot (hot : 105 < s.reading) : s.clocked = s.plat.throttled.set s.place.a true := if_pos hot

theorem clocked_cool (below : ¬105 < s.reading) (cool : ∀ i, i < 8 → s.sensed.get (8 * s.place.a + i) 0 < 100) :
    s.clocked = s.plat.throttled.set s.place.a false := by
  refine (if_neg below).trans (if_pos ?_)
  simpa only [List.all_eq_true, List.mem_range, decide_eq_true_eq] using cool

theorem clocked_warm (below : ¬105 < s.reading) (warm : ∃ i, i < 8 ∧ 100 ≤ s.sensed.get (8 * s.place.a + i) 0) : s.clocked = s.plat.throttled := by
  obtain ⟨i, sensor, reads⟩ := warm
  refine (if_neg below).trans (if_neg fun cool => ?_)
  have reading := of_decide_eq_true (List.all_eq_true.mp cool i (List.mem_range.mpr sensor))
  omega

/-- Up to 115 degrees C a reading shows in its sensor and sets the clock. -/
theorem heated_below (below : ¬115 < s.reading) : s.heated = { s with plat := { s.plat with sensors := s.sensed, throttled := s.clocked } } := by
  unfold State.heated
  extract_lets t
  have same : t = s := if_neg below
  clear_value t
  subst same
  rw [decide_eq_false below, Bool.or_false]
  rfl

/-- Above it, everything stops. -/
theorem heated_above (above : 115 < s.reading) : s.heated.plat.coldOnly = true ∧ s.heated.plat.sensors = s.sensed ∧
    s.heated.plat.throttled = s.plat.throttled.set s.place.a true ∧
    (∀ j, (s.queueAt j).live = true → (s.heated.queueAt j).halted = true) ∧
    ∀ l, (s.launchAt l).dispatched → (s.heated.launchAt l).killed = true ∧ (s.heated.launchAt l).code = 6 := by
  obtain ⟨halted, killed, -, -⟩ := haltAll_ends (s := s)
  have hot : s.clocked = s.plat.throttled.set s.place.a true := clocked_hot (by omega)
  have done : s.heated = (s.haltAll 6).setPlat { (s.haltAll 6).plat with
      sensors := s.sensed, throttled := s.plat.throttled.set s.place.a true, coldOnly := true } := by
    unfold State.heated
    rw [if_pos above]
    generalize s.haltAll 6 = t
    dsimp only
    rw [hot, decide_eq_true above, Bool.or_true]
  rw [done]
  exact ⟨rfl, rfl, rfl, halted, killed⟩

section readings
variable (quadrant : s.place.a < 4)
include quadrant

theorem thermalThrottle_heats (hot : 105 < s.reading) : exec .thermalThrottle s = .next s.heated :=
  if_pos (by rw [decide_eq_true quadrant, decide_eq_true hot]; rfl)

theorem thermalRecover_heats (below : s.reading ≤ 105) : exec .thermalRecover s = .next s.heated :=
  if_pos (by rw [decide_eq_true quadrant, decide_eq_true below]; rfl)

theorem thermalTrip_heats (above : 115 < s.reading) : exec .thermalTrip s = .next s.heated :=
  if_pos (by rw [decide_eq_true quadrant, decide_eq_true above]; rfl)

end readings

/-! ### Power (R400) -/

theorem powerCheck_throttles {cap mw : Nat} (capped : capOf s.plat.pcap = some cap) (above : cap < mw) (low : Bool) :
    exec (.powerCheck mw low) s = .next (s.setPlat { s.plat with capThrot := true, capmiss := s.plat.capmiss || s.plat.capThrot }) := by
  rw [show exec (.powerCheck mw low) s = execPowerCheck mw low s from rfl, execPowerCheck]
  simp only [capped, above, if_true]

theorem powerCheck_restores {cap mw : Nat} (capped : capOf s.plat.pcap = some cap) (below : 100 * mw ≤ 95 * cap) : exec (.powerCheck mw true) s =
    .next (s.setPlat { s.plat with capmiss := s.plat.capmiss && decide (mw = cap), capThrot := false }) := by
  rw [show exec (.powerCheck mw true) s = execPowerCheck mw true s from rfl, execPowerCheck]
  simp only [capped, show ¬cap < mw by omega, below, if_false, decide_true, Bool.and_self, Bool.not_true, Bool.and_false]

/-- A wrong token raises a class 2 alarm, which leaves the debug port shut. -/
theorem alarm2_debug : s.alarm2.plat.debug = s.plat.debug := by
  obtain ⟨-, -, -, plat⟩ := haltAll_ends (s := s)
  exact (congrArg Platform.debug plat :)

/-- Settles O55: each stage, reading and register by its equation. -/
theorem bringUpAndPlatformEvents : Obligations.BringUpAndPlatformEvents := by
  refine ⟨fun s => ?stages, fun s => ?platform⟩
  case stages =>
    refine ⟨⟨_, rfl, rfl, rfl, rfl, rfl, rfl, rfl, rfl, rfl⟩, fun stage cool => ?_, fun free closed => ⟨fun stage available => ?_, fun stage => ?_,
      fun stage => bringupScrub_scrubs free closed stage, fun stage => ⟨hbmTrain_trains free closed stage, _, hbmTrain_fails free closed stage,
        fun _ => rfl, endStage_holds s⟩, fun stage up => ⟨⟨_, linkTrain_trains free closed stage up, fun _ => rfl, ⟨rfl, rfl, rfl⟩,
          fun k long => linksUp_linkAt (s := s) up long, fun n port => linksUp_shroudAt (s := s) up port⟩,
        _, linkTrain_fails free closed stage up, fun _ => rfl, endStage_holds s⟩,
      fun stage => ⟨_, openCommands_opens free closed stage, fun _ => rfl, rfl⟩⟩⟩
    · obtain ⟨u, run, mem, rest⟩ := warmReset_resets stage cool
      exact ⟨u, run, sameMemory_of_mem mem, rest⟩
    · refine ⟨_, bootVerify_ends free closed stage available, fun _ => rfl, ?_⟩
      by_cases passes : bootGenuine = true ∧ Config.fusedVersion.toNat ≤ Config.bootVersion.toNat
      · rw [if_pos passes, passes.1, decide_eq_true passes.2]
        exact endStage_moves s
      · have fails : (bootGenuine && decide (Config.fusedVersion.toNat ≤ Config.bootVersion.toNat)) = false :=
          Bool.eq_false_iff.mpr (by rwa [ne_eq, Bool.and_eq_true, decide_eq_true_eq])
        rw [if_neg passes, fails]
        exact endStage_holds s
    · refine ⟨_, fuseMapBuild_ends free closed stage, fun _ => rfl, fun q k quadrant column => ?_, fun sound => ?_, fun broken => ?_⟩
      · cases fuseMap.all fun f => decide (f.2 ≤ 16) <;> exact fuseMap_get quadrant column
      · rw [List.all_eq_true.mpr fun f mem => decide_eq_true (sound f mem)]
        exact ⟨rfl, rfl, rfl⟩
      · rw [Bool.eq_false_iff.mpr fun all => broken fun f mem => of_decide_eq_true (List.all_eq_true.mp all f mem)]
        exact ⟨rfl, rfl⟩
  case platform =>
    refine ⟨fun quadrant hot mild => ⟨_, thermalThrottle_heats quadrant hot, ?_⟩, fun quadrant below => ⟨_, thermalRecover_heats quadrant below, ?_, ?_⟩,
      fun quadrant above => ?_, fun v => ⟨_, rfl, rfl⟩, fun cap mw low capped => ⟨fun above => ?_, fun below => ?_⟩, fun a => ⟨_, rfl, rfl⟩,
      ⟨_, rfl, rfl⟩, ⟨_, rfl, rfl⟩, ⟨_, _, rfl, rfl⟩, ⟨_, rfl, rfl⟩, ⟨_, rfl, rfl⟩, _, rfl, alarm2_debug, rfl, fun l dispatched => ?_⟩
    · rw [heated_below (s := s) (Nat.not_lt.mpr mild), clocked_hot hot]
      rfl
    · intro cool
      rw [heated_below (s := s) (show ¬115 < s.place.b / 8 by omega), clocked_cool (Nat.not_lt.mpr below) cool]
      rfl
    · intro warm
      rw [heated_below (s := s) (show ¬115 < s.place.b / 8 by omega), clocked_warm (Nat.not_lt.mpr below) warm]
      rfl
    · have stops := heated_above (s := s) above
      simp only [List.forall_mem_cons]
      exact ⟨⟨_, thermalThrottle_heats quadrant (show 105 < s.place.b / 8 by omega), stops⟩, ⟨_, thermalTrip_heats quadrant above, stops⟩,
        List.forall_mem_nil _⟩
    · refine ⟨_, powerCheck_throttles capped above low, fun _ => rfl, rfl, fun throttled => ?_⟩
      exact (congrArg (s.plat.capmiss || ·) throttled).trans (Bool.or_true _)
    · exact ⟨_, powerCheck_restores capped below, fun _ => rfl, rfl⟩
    · exact (alarm2_ends.2.2.2 l dispatched).1

end Sys2Proof.Machine
end
